-- ==== Sys2Proof/Word.lean ====
section
/-! DEFINITION. The word types of the SB4820: vector and scalar registers hold 32 bits, instruction
words and addresses 64, memory is made of bytes (R12, R16, R35). -/

namespace Sys2Proof

/-- A vector or scalar register's value (R35). -/
abbrev Word := BitVec 32

/-- An instruction word, a clause header, a virtual or physical address, a 64-bit register (R16). -/
abbrev DWord := BitVec 64

/-- A byte of any memory (R12). -/
abbrev Byte := BitVec 8

end Sys2Proof
end

