-- ==== Sys2Proof/Syntax.lean ====
section
/-! DEFINITION. The rows of the opcode table as one inductive: the Malzar instructions of R43 with
their operand fields (R31, R32, R33), and the device's events, each with the numbers that say which
part of the machine it happens to. -/

namespace Sys2Proof

/-- A guard: a register field, a bit number and a negate bit (R31, R32, R36). -/
structure Guard where
  reg : BitVec 8
  bit : BitVec 5
  neg : Bool
  deriving DecidableEq, Repr, Inhabited

/-- The always-guard: register field 0xF0 with negate 1 (R36). -/
def Guard.always : Guard := ⟨0xF0, 0, true⟩

/-- The operand and modifier fields of a full-form or long-form instruction (R31, R32).  `long` is
the form; `xmod` is MOD in its low six bits in full form, XMOD in long form.  In full form `e` is
0xF0, `imm` and `hint` are 0 and `g2` is the always-guard: the form has no such fields. -/
structure Fields where
  long : Bool
  d : BitVec 8
  a : BitVec 8
  b : BitVec 8
  c : BitVec 8
  e : BitVec 8
  xmod : BitVec 12
  imm : Word
  g1 : Guard
  g2 : Guard
  hint : BitVec 4
  deriving DecidableEq, Repr, Inhabited

/-- An operation of the pair space (R45). -/
inductive PairOp where
  | fadd
  | fsub
  | fmul
  | ffma
  | fmin
  | fmax
  | fcpysgn
  | hadd2
  | hmul2
  | hfma2
  | hmin2
  | hmax2
  | iadd
  | isub
  | imul
  | imad
  | imin
  | imax
  | and
  | or
  | xor
  | andn
  | shl
  | shr
  | sar
  | mov
  deriving DecidableEq, Repr, Inhabited

/-- One slot of a pair word: operation, destination and two sources (R33). -/
structure Slot where
  op : PairOp
  d : BitVec 8
  a : BitVec 8
  b : BitVec 8
  deriving DecidableEq, Repr, Inhabited

/-- One constructor per row of the opcode table.  A Malzar instruction carries its fields; a pair
word its two slots X and Y; an event the numbers of the part, operation, lane or value that it
concerns (a sheaf is named by core * 64 + slot). -/
inductive Instr where
  /-- `NOP` (R105): Executes nop, which has no effect. -/
  | nop (f : Fields)
  /-- `BRA` (R103): Branches each thread whose guards hold to the clause header at H plus IMM32. -/
  | bra (f : Fields)
  /-- `BRX` (R103): Branches each thread whose guard holds to H plus the signed offset read from operand A. -/
  | brx (f : Fields)
  /-- `CALL` (R103): Writes the low 32 bits of the next clause address to D and branches to H plus IMM32. -/
  | call (f : Fields)
  /-- `RET` (R103): Branches to the address formed from PC<51:32> and the low 32 bits read from A. -/
  | ret (f : Fields)
  /-- `EXIT` (R104): Makes each thread whose guard holds exited; the other threads continue at the next clause. -/
  | exit (f : Fields)
  /-- `YIELD` (R105): Acts as YIELD = 1 on its clause and ranks its group last at the next clause start. -/
  | yield (f : Fields)
  /-- `SLEEP` (R105): Puts each thread whose guard holds to sleep for a count of core cycles after the clause. -/
  | sleep (f : Fields)
  /-- `BRK` (R105): Raises a precise breakpoint trap with code n in the threads whose guard holds. -/
  | brk (f : Fields)
  /-- `SHFL` (R111): Moves one 32-bit value between threads of a segment, by index, up, down or xor mode. -/
  | shfl (f : Fields)
  /-- `VOTE` (R112): Writes the vote word of a predicate test over the segment. -/
  | vote (f : Fields)
  /-- `BALLOT` (R112): Writes the mask of predicates, or of active threads, over the segment. -/
  | ballot (f : Fields)
  /-- `MATCH` (R112): Writes each active thread's peer word, or its peer-group mask. -/
  | matchV (f : Fields)
  /-- `RDX` (R113): Reduces A over the segment in a fixed order and writes the result to every active thread. -/
  | rdx (f : Fields)
  /-- `SCAN` (R113): Writes each active thread the inclusive prefix combine over the segment. -/
  | scan (f : Fields)
  /-- `ELECT` (R110): Chooses one active thread per segment and writes the election word. -/
  | elect (f : Fields)
  /-- `IADD` (R126): Adds A and B with wrap, signed saturation or unsigned saturation. -/
  | iadd (f : Fields)
  /-- `ISUB` (R126): Subtracts B from A with wrap or saturation. -/
  | isub (f : Fields)
  /-- `IADDC` (R127): Adds or subtracts with carry-in and writes the sum or the carry-out. -/
  | iaddc (f : Fields)
  /-- `IMUL` (R126): Multiplies A by B, keeping the low 32 bits. -/
  | imul (f : Fields)
  /-- `IMULH` (R128): Writes the high 32 bits of the exact 64-bit product. -/
  | imulh (f : Fields)
  /-- `IMAD` (R126): Computes A times B plus C, narrowed once. -/
  | imad (f : Fields)
  /-- `IMADW` (R128): Writes the 64-bit result of a multiply-add into a register pair. -/
  | imadw (f : Fields)
  /-- `IDIV` (R129): Issues an integer division whose quotient is written on completion. -/
  | idiv (f : Fields)
  /-- `IREM` (R129): Issues an integer division whose remainder is written on completion. -/
  | irem (f : Fields)
  /-- `IMIN` (R130): Writes the lesser of A and B, signed or unsigned. -/
  | imin (f : Fields)
  /-- `IMAX` (R130): Writes the greater of A and B, signed or unsigned. -/
  | imax (f : Fields)
  /-- `IABS` (R130): Writes the absolute value of A, wrapping or saturating. -/
  | iabs (f : Fields)
  /-- `INEG` (R130): Writes minus A, wrapping or saturating. -/
  | ineg (f : Fields)
  /-- `AND` (R131): Writes the bitwise AND of A and B. -/
  | and (f : Fields)
  /-- `OR` (R131): Writes the bitwise OR of A and B. -/
  | or (f : Fields)
  /-- `XOR` (R131): Writes the bitwise XOR of A and B. -/
  | xor (f : Fields)
  /-- `NOT` (R131): Writes the bitwise complement of A. -/
  | not (f : Fields)
  /-- `ANDN` (R131): Writes A AND NOT B. -/
  | andn (f : Fields)
  /-- `SHL` (R132): Shifts A left by the count in B. -/
  | shl (f : Fields)
  /-- `SHR` (R132): Shifts A right logically by the count in B. -/
  | shr (f : Fields)
  /-- `SAR` (R132): Shifts A right arithmetically by the count in B. -/
  | sar (f : Fields)
  /-- `ROT` (R132): Rotates A left, or right with .r, by B mod 32. -/
  | rot (f : Fields)
  /-- `BFE` (R133): Extracts a bit field of A, zero- or sign-extended. -/
  | bfe (f : Fields)
  /-- `BFI` (R133): Inserts the low bits of B into a field of A. -/
  | bfi (f : Fields)
  /-- `POPC` (R134): Writes the number of 1 bits in A. -/
  | popc (f : Fields)
  /-- `CLZ` (R134): Writes the number of leading zeros of A. -/
  | clz (f : Fields)
  /-- `CTZ` (R134): Writes the number of trailing zeros of A. -/
  | ctz (f : Fields)
  /-- `BREV` (R134): Writes A with its bit order reversed. -/
  | brev (f : Fields)
  /-- `PRMT` (R135): Builds a word from selected, reversed or filled bytes of A and B. -/
  | prmt (f : Fields)
  /-- `ICMP` (R136): Compares A with B and combines the outcome into one bit of D. -/
  | icmp (f : Fields)
  /-- `ISEL` (R137): Writes A or B according to a selector bit of C. -/
  | isel (f : Fields)
  /-- `MOV` (R138): Copies A to D. -/
  | mov (f : Fields)
  /-- `MOVI` (R138): Writes IMM32, or one half of it into D. -/
  | movi (f : Fields)
  /-- `LEA` (R139): Computes a 64-bit address from a pair and a shifted index. -/
  | lea (f : Fields)
  /-- `VSPILL` (R123): Compresses an eight-register group behind a format word. -/
  | vspill (f : Fields)
  /-- `VFILL` (R123): Expands a compressed group back into eight registers. -/
  | vfill (f : Fields)
  /-- `FADD` (R142): Adds two F32 values with one rounding. -/
  | fadd (f : Fields)
  /-- `FSUB` (R142): Subtracts two F32 values with one rounding. -/
  | fsub (f : Fields)
  /-- `FMUL` (R142): Multiplies two F32 values with one rounding. -/
  | fmul (f : Fields)
  /-- `FFMA` (R142): Computes a fused multiply-add with one rounding. -/
  | ffma (f : Fields)
  /-- `FMIN` (R143): Chooses the lesser F32 operand under the NaN rules. -/
  | fmin (f : Fields)
  /-- `FMAX` (R143): Chooses the greater F32 operand under the NaN rules. -/
  | fmax (f : Fields)
  /-- `FCMP` (R144): Compares A with B as F32 and combines the outcome into one bit of D. -/
  | fcmp (f : Fields)
  /-- `FSEL` (R145): Writes A or B according to a test of C against +0. -/
  | fsel (f : Fields)
  /-- `FRND` (R146): Rounds A to an integral F32 value. -/
  | frnd (f : Fields)
  /-- `FCLASS` (R147): Writes a one-hot mask of A's floating class. -/
  | fclass (f : Fields)
  /-- `FCPYSGN` (R148): Writes A with a sign bit taken from B. -/
  | fcpysgn (f : Fields)
  /-- `HADD2` (R142): Adds two pairs of F16 halves. -/
  | hadd2 (f : Fields)
  /-- `HMUL2` (R142): Multiplies two pairs of F16 halves. -/
  | hmul2 (f : Fields)
  /-- `HFMA2` (R142): Computes a fused multiply-add in each F16 half. -/
  | hfma2 (f : Fields)
  /-- `HMIN2` (R143): Chooses the lesser operand in each F16 half. -/
  | hmin2 (f : Fields)
  /-- `HMAX2` (R143): Chooses the greater operand in each F16 half. -/
  | hmax2 (f : Fields)
  /-- `PAIR_WORD` (R34): Issues the two unguarded pair-space operations of slots X and Y, each reading its sources before either writes. -/
  | pairWord (x y : Slot)
  /-- `FRCP` (R150): Issues a reciprocal on the special-function unit. -/
  | frcp (f : Fields)
  /-- `FRSQ` (R150): Issues a reciprocal square root on the special-function unit. -/
  | frsq (f : Fields)
  /-- `FSQRT` (R150): Issues a correctly rounded square root. -/
  | fsqrt (f : Fields)
  /-- `FDIV` (R150): Issues a correctly rounded division. -/
  | fdiv (f : Fields)
  /-- `FEXP2` (R150): Issues an approximate base-2 exponential. -/
  | fexp2 (f : Fields)
  /-- `FLOG2` (R150): Issues an approximate base-2 logarithm. -/
  | flog2 (f : Fields)
  /-- `FSIN` (R150): Issues an approximate sine. -/
  | fsin (f : Fields)
  /-- `FCOS` (R150): Issues an approximate cosine. -/
  | fcos (f : Fields)
  /-- `FTANH` (R150): Issues an approximate hyperbolic tangent. -/
  | ftanh (f : Fields)
  /-- `FSIGM` (R150): Issues an approximate logistic sigmoid. -/
  | fsigm (f : Fields)
  /-- `FGELU` (R150): Issues an approximate GELU. -/
  | fgelu (f : Fields)
  /-- `FSILU` (R150): Issues an approximate SiLU. -/
  | fsilu (f : Fields)
  /-- `CVT` (R153): Converts one value from a source format to a target format. -/
  | cvt (f : Fields)
  /-- `CVT_EF` (R154): Narrows an F32 value and writes the residual to D + 1. -/
  | cvtEf (f : Fields)
  /-- `PACK` (R155): Converts a value and inserts it as element j of a packed vector. -/
  | pack (f : Fields)
  /-- `UNPACK` (R156): Takes element j out of a packed vector and widens it exactly. -/
  | unpack (f : Fields)
  /-- `QSCALE` (R157): Computes the E8 block scale, or its inverse factor, for a largest magnitude. -/
  | qscale (f : Fields)
  /-- `LDS` (R166): Issues a scratchpad load of 1 to 16 bytes per lane. -/
  | lds (f : Fields)
  /-- `STS` (R166): Issues a scratchpad store of 1 to 16 bytes per lane. -/
  | sts (f : Fields)
  /-- `ATS` (R167): Issues a scratchpad read-modify-write per lane, returning the old word. -/
  | ats (f : Fields)
  /-- `SCRATCHPAD_ACCESS_APPLIED` (R163): A scratchpad access is applied at its place in the single scratchpad order and its instruction completes. -/
  | scratchpadAccessApplied (core q : Nat)
  /-- `TL_SET` (R173): Writes the RW fields of a tile descriptor, once its use count is 0. -/
  | tlSet (f : Fields)
  /-- `TL_FILL` (R173): Makes an empty tile filling with PEND n, or ready for n = 0. -/
  | tlFill (f : Fields)
  /-- `TL_DRAIN` (R173): Makes a ready tile draining with PEND n, or empty for n = 0. -/
  | tlDrain (f : Fields)
  /-- `TL_STAT` (R174): Writes a tile's state word and optionally clears its sticky bits. -/
  | tlStat (f : Fields)
  /-- `TL_DOM` (R173): Relabels a tile's domain tag without transforming it. -/
  | tlDom (f : Fields)
  /-- `TL_REL` (R173): Returns a ready tile to empty and ends a staging tile's binding. -/
  | tlRel (f : Fields)
  /-- `JC_INIT` (R179): Arms a join cell with an expected arrival count. -/
  | jcInit (f : Fields)
  /-- `JC_ARV` (R179): Arrives on a join cell, or is refused, and may complete its phase. -/
  | jcArv (f : Fields)
  /-- `JC_EXP` (R179): Adds expected bytes to a join cell's PEND. -/
  | jcExp (f : Fields)
  /-- `JC_TEST` (R179): Tests whether a phase has completed and optionally observes it. -/
  | jcTest (f : Fields)
  /-- `WAITM` (R181): Evaluates a condition on a word or cell and parks the thread until it holds. -/
  | waitm (f : Fields)
  /-- `WAITM_REEVALUATION` (R181): A waiting thread's condition is evaluated again after a write to its word or periodically, and it wakes if satisfied. -/
  | waitmReevaluation (sid t : Nat)
  /-- `WAITM_TIMEOUT` (R181): A waitm time-out expires and the thread becomes ready with the last value seen. -/
  | waitmTimeout (sid t : Nat)
  /-- `CPA` (R185): Issues a per-thread 32-byte copy between global memory and scratchpad on a batch tag. -/
  | cpa (f : Fields)
  /-- `CPA_LANE_COMPLETE` (R185): A lane's copy lands or is read, counts its join cell and tile, and the tag counts down when all lanes are done. -/
  | cpaLaneComplete (core op lane : Nat)
  /-- `CPW` (R187): Waits at issue until the named tag counters fall to the limit. -/
  | cpw (f : Fields)
  /-- `REQ_KICK` (R192): Launches a request record, which the engine reads at once. -/
  | reqKick (f : Fields)
  /-- `REQUEST_RECORD_COMPLETE` (R193): The request engine finishes a record's elements and counts, then writes STATUS. -/
  | requestRecordComplete (core op : Nat)
  /-- `COLL_RED` (R195): Launches a collective contribution of a vector to a global sum buffer with error feedback. -/
  | collRed (f : Fields)
  /-- `COLLECTIVE_RED_COMPLETE` (R195): All elements of a contribution are performed at their homes; the arrival word is incremented and counts and STATUS written. -/
  | collectiveRedComplete (core op : Nat)
  /-- `COLL_BCAST` (R196): Launches a collective broadcast that waits for the arrival count and returns the sum. -/
  | collBcast (f : Fields)
  /-- `COLLECTIVE_BCAST_READY` (R196): The arrival word reaches EXPECT and the engine reads the buffer, writes the vector, counts and writes STATUS. -/
  | collectiveBcastReady (core op : Nat)
  /-- `FMT_LOAD` (R197): Loads the context's private-format table bank from a scratchpad image. -/
  | fmtLoad (f : Fields)
  /-- `PROLOGUE_RUN` (R200): The prologue engine runs the pass's transform bindings for an admitted workgroup. -/
  | prologueRun (wg : Nat)
  /-- `PROLOGUE_COMPLETE` (R200): Every binding's bytes have landed and every TSET tile is ready, so the workgroup may start. -/
  | prologueComplete (wg : Nat)
  /-- `MMA` (R217): Issues a matrix multiply-accumulate into an accumulator tile. -/
  | mma (f : Fields)
  /-- `MMAT` (R217): Issues a ternary or binary sign-select matrix operation. -/
  | mmat (f : Fields)
  /-- `MMAS` (R217): Issues a block-scaled matrix operation with register scales. -/
  | mmas (f : Fields)
  /-- `MATRIX_ROW_GROUP` (R217): A matrix engine writes one row group of an operation and raises WM. -/
  | matrixRowGroup (pod eng : Nat)
  /-- `MATRIX_OPERATION_COMPLETE` (R217): A matrix operation has read all operands and written all row groups; OPS falls and its flag counts down. -/
  | matrixOperationComplete (pod eng : Nat)
  /-- `MOP_RDY` (R214): Sets the sheaf's operand token, or with .w waits until it is clear and consumed reads are done. -/
  | mopRdy (f : Fields)
  /-- `MATRIX_SPAN_FAULT` (R214): A spanning operation has waited 2^20 core cycles for operand tokens and faults. -/
  | matrixSpanFault (sid : Nat)
  /-- `ACC_Z` (R220): Zeroes an accumulator tile, clears its status and makes it spatial. -/
  | accZ (f : Fields)
  /-- `ACC_RD` (R221): Reads elements of an accumulator row into registers once WM passes the row. -/
  | accRd (f : Fields)
  /-- `ACC_WR` (R221): Writes elements of an accumulator row from registers. -/
  | accWr (f : Fields)
  /-- `ACC_LD` (R222): Loads rows of an accumulator tile from scratchpad, widening exactly. -/
  | accLd (f : Fields)
  /-- `ACC_ST` (R222): Stores rows of an accumulator tile to scratchpad, converting and packing. -/
  | accSt (f : Fields)
  /-- `ACC_WM` (R223): Writes an accumulator tile's status or domain tag, optionally clearing sticky bits. -/
  | accWm (f : Fields)
  /-- `ACC_CVT` (R224): Rewrites every element of an accumulator tile scaled and converted in place. -/
  | accCvt (f : Fields)
  /-- `LDW` (R234): Loads 4 to 16 bytes per lane from the weight store. -/
  | ldw (f : Fields)
  /-- `WST_FILL` (R232): Starts a copy from global memory into an open weight-store region. -/
  | wstFill (f : Fields)
  /-- `WEIGHT_FILL_BYTES_WRITTEN` (R232): The die's fill engine writes fill bytes into the weight store and lowers the region's PEND. -/
  | weightFillBytesWritten (die fill : Nat)
  /-- `WST_STAT` (R233): Writes a weight-store region's state and PEND. -/
  | wstStat (f : Fields)
  /-- `RETENTION_EXPIRED_FAULT` (R231): A weight-store read performed at or after DEADLINE returns poison and faults the context. -/
  | retentionExpiredFault (op : Nat)
  /-- `STH` (R251): Accepts a lift job that transforms and thresholds a source into tile tN. -/
  | sth (f : Fields)
  /-- `HFWD` (R252): Accepts a lift job that transforms an accumulator tile in place with a Haar tag. -/
  | hfwd (f : Fields)
  /-- `HINV` (R252): Accepts a forced-reconstruction job that makes a tile spatial. -/
  | hinv (f : Fields)
  /-- `THSET` (R253): Writes one or all level thresholds of a threshold register. -/
  | thset (f : Fields)
  /-- `THGET` (R253): Reads one level threshold of a threshold register. -/
  | thget (f : Fields)
  /-- `HBIAS` (R254): Adds a bias to a row's coarse coefficients, or spatial elements, of an accumulator tile. -/
  | hbias (f : Fields)
  /-- `HMASK` (R255): Reads 32 survivor bits, or with .upd recomputes the mask by a job. -/
  | hmask (f : Fields)
  /-- `LIFT_JOB` (R246): The lift unit starts its next accepted job and runs it to the end, writing the tile and returning it to ready. -/
  | liftJob (core : Nat)
  /-- `LD` (R292): Issues a global load. -/
  | ld (f : Fields)
  /-- `LD_CON` (R285): Issues a global load that sets consume taint on its destination. -/
  | ldCon (f : Fields)
  /-- `LD_ACQ` (R280): Issues a global load that is an acquire at its scope. -/
  | ldAcq (f : Fields)
  /-- `ST` (R292): Issues a global store. -/
  | st (f : Fields)
  /-- `ST_SUB` (R294): Issues a masked 32-bit store merged at the home. -/
  | stSub (f : Fields)
  /-- `ST_REL` (R281): Issues a global store that is a release at its scope. -/
  | stRel (f : Fields)
  /-- `ATOM` (R295): Issues an aggregated atomic read-modify-write performed at the home. -/
  | atom (f : Fields)
  /-- `ATOM_CAS` (R297): Issues a compare-and-swap performed lane by lane at the home. -/
  | atomCas (f : Fields)
  /-- `RED` (R295): Issues an atomic reduction that returns no value. -/
  | red (f : Fields)
  /-- `FENCE` (R283): Waits at issue as an acquire, a release or a full fence at its scope. -/
  | fence (f : Fields)
  /-- `CCTL` (R299): Invalidates L1 lines or writes back or evicts LLC lines. -/
  | cctl (f : Fields)
  /-- `PREF` (R300): Starts a fill of a line into the L1 or the LLC. -/
  | pref (f : Fields)
  /-- `TCLR` (R301): Copies A to D with its consume taint cleared. -/
  | tclr (f : Fields)
  /-- `GLOBAL_ACCESS_PERFORMED` (R276): A global access is performed at its home in the location order and the instruction completes for its lanes. -/
  | globalAccessPerformed (op lane : Nat)
  /-- `TRANSLATION_WALK` (R266): A translation-cache miss walks the page table at the homes and fills the caches, setting ACC and DIRTY. -/
  | translationWalk (ctx va : Nat)
  /-- `PEER_WRITE_ACKNOWLEDGED` (R288): A peer acknowledges a posted store performed at its home. -/
  | peerWriteAcknowledged (op : Nat)
  /-- `RETRAIN_LIMIT_EXPIRY` (R288): A system-scope release waiting on peer acknowledgements reaches the retrain limit and completes with a link-loss record. -/
  | retrainLimitExpiry (sid : Nat)
  /-- `LDK` (R313): Reads a plural cell's sibling with its ancestry. -/
  | ldk (f : Fields)
  /-- `STK` (R314): Writes a new sibling and retires the siblings its ancestry covers. -/
  | stk (f : Fields)
  /-- `RCN` (R313): Folds a plural cell's siblings into one value, then reads it. -/
  | rcn (f : Fields)
  /-- `TILE_RET` (R365): Waits as a release and closes one or all output edges for the thread. -/
  | tileRet (f : Fields)
  /-- `RS_Q` (R366): Queries a transient tile's state or, with .fill, fetches it undeclared into a tile. -/
  | rsQ (f : Fields)
  /-- `REC_ALLOC` (R389): Allocates a record entry for a node, or returns RETRY. -/
  | recAlloc (f : Fields)
  /-- `REC_PUT` (R389): Writes bytes into an allocated record's payload. -/
  | recPut (f : Fields)
  /-- `REC_COMMIT` (R389): Releases and commits a record to its node's queue. -/
  | recCommit (f : Fields)
  /-- `REC_GET` (R389): Reads bytes of a record of the batch. -/
  | recGet (f : Fields)
  /-- `REC_COUNT` (R389): Writes the batch count, or the pool's free entries. -/
  | recCount (f : Fields)
  /-- `INTERP` (R404): Interpolates three vertex attributes with the thread's barycentrics. -/
  | interp (f : Fields)
  /-- `DDX` (R403): Writes horizontal differences over the pixel quad. -/
  | ddx (f : Fields)
  /-- `DDY` (R403): Writes vertical differences over the pixel quad. -/
  | ddy (f : Fields)
  /-- `DISCARD` (R402): Sets the helper bit of each thread whose guard holds. -/
  | discard (f : Fields)
  /-- `VISM` (R405): Performs a 64-bit unsigned minimum of depth and identifier at the home. -/
  | vism (f : Fields)
  /-- `BLEND` (R406): Issues a blend of the thread's pixel into the render target. -/
  | blend (f : Fields)
  /-- `BLEND_PERFORMED` (R407): A blend is performed at its pixel's home once every earlier token of its quad is released. -/
  | blendPerformed (op lane : Nat)
  /-- `TEX` (R411): Issues a filtered texture sample with an implicit or explicit level. -/
  | tex (f : Fields)
  /-- `TEXG` (R411): Issues a gather of one channel of a bilinear footprint. -/
  | texg (f : Fields)
  /-- `TEXQ` (R411): Issues a query of a texture's size and levels. -/
  | texq (f : Fields)
  /-- `TRACE` (R413): Issues an exact ray traversal of a bounding-volume hierarchy. -/
  | trace (f : Fields)
  /-- `HIT_RD` (R414): Reads one field of the thread's hit state. -/
  | hitRd (f : Fields)
  /-- `CONT` (R415): Allocates, fills and commits a continuation record to the hit's target node. -/
  | cont (f : Fields)
  /-- `COV` (R399): Takes the next batch of pixel quads of the tile's coverage stream. -/
  | cov (f : Fields)
  /-- `EMITP` (R394): Emits a triangle per lane: primitive record and bin appends. -/
  | emitp (f : Fields)
  /-- `TRAP` (R423): Posts a system-call record and parks the sheaf until the host answers. -/
  | trap (f : Fields)
  /-- `SYSTEM_CALL_ANSWERED` (R423): The record's STATE becomes 2, so the answer is written and the sheaf's parked threads become ready. -/
  | systemCallAnswered (sid : Nat)
  /-- `TRET` (R429): Leaves the handler to resume, evict or kill the sheaf. -/
  | tret (f : Fields)
  /-- `SRD` (R419): Reads a special register. -/
  | srd (f : Fields)
  /-- `SWR` (R420): Writes a special register. -/
  | swr (f : Fields)
  /-- `CLAUSE_START` (R28): An issue group checks a clause header, waits on its flags, and issues its words. -/
  | clauseStart (core : Nat)
  /-- `LONG_LATENCY_COMPLETION` (R24): A long-latency instruction has written its destinations and read its sources, and its completion flag counts down. -/
  | longLatencyCompletion (op : Nat)
  /-- `ISSUE_GROUP_ROTATION` (R94): After 64 clauses of one candidate group, the scheduler chooses the next candidate. -/
  | issueGroupRotation (sid : Nat)
  /-- `SCHEDULER_RUN_BREAK` (R96): The current sheaf breaks its run and the scheduler chooses the oldest ready sheaf. -/
  | schedulerRunBreak (core : Nat)
  /-- `RUN_LIMIT` (R96): A sheaf has issued for 256 cycles without a break and loses its run. -/
  | runLimit (core : Nat)
  /-- `STALL_END` (R27): The STALL count after a clause expires and the sheaf may issue again. -/
  | stallEnd (sid : Nat)
  /-- `SLEEP_EXPIRY` (R105): A sleeping thread's count expires and it becomes ready. -/
  | sleepExpiry (sid t : Nat)
  /-- `CROSS_LANE_WAIT_RELEASE` (R107): The last named live thread arrives at a waiting clause, which then starts as one issue group. -/
  | crossLaneWaitRelease (sid : Nat)
  /-- `CROSS_LANE_WATCHDOG` (R109): A waiting clause has not started 2^20 core cycles after the first arrival, and the arrived threads fault. -/
  | crossLaneWatchdog (sid : Nat)
  /-- `TILE_WAIT_FAULT` (R171): An instruction has waited 2^20 core cycles on an empty tile and faults precisely. -/
  | tileWaitFault (sid : Nat)
  /-- `WORKGROUP_ADMISSION` (R88): A workgroup or team is admitted when every declared resource can be granted at once, and the resources are zeroed. -/
  | workgroupAdmission (wg : Nat)
  /-- `SHEAF_START` (R90): All sheaves of an admitted workgroup start together after prologue and stagger. -/
  | sheafStart (wg : Nat)
  /-- `SHEAF_RETIRE` (R99): A sheaf whose threads are exited and whose work is complete frees its slot and rows. -/
  | sheafRetire (sid : Nat)
  /-- `WORKGROUP_RETIRE` (R100): A workgroup whose sheaves retired and whose engine writes completed releases its resources. -/
  | workgroupRetire (wg : Nat)
  /-- `HANDLER_ENTRY` (R426): A drained sheaf's live threads become privileged and move to the handler entry. -/
  | handlerEntry (sid : Nat)
  /-- `SHEAF_PARK` (R425): The threads of a sheaf that must enter its handler park and the sheaf drains. -/
  | sheafPark (sid : Nat)
  /-- `DOUBLE_FAULT` (R430): A fault in a privileged thread parks the sheaf, writes a record and raises the halt line. -/
  | doubleFault (sid : Nat)
  /-- `HALT_LINE` (R431): A context fault raises the partition's halt line and every sheaf of the context enters its handler. -/
  | haltLine (ctx : Nat)
  /-- `PART_STOP` (R432): A part of the partition stops within its skid bound, holds its unfinished work and writes its stop record. -/
  | partStop (ctx part unit : Nat)
  /-- `IMPRECISE_STORE_FAULT` (R435): A store that finds no memory or poison at its home is dropped and reported. -/
  | impreciseStoreFault (op lane : Nat)
  /-- `MEMORY_ERROR_FAULT` (R271): A load, atomic or fetch delivers poison and faults the context at completion. -/
  | memoryErrorFault (op : Nat)
  /-- `ENGINE_FAULT` (R188): An engine's global access fails and raises a context fault with its stop record. -/
  | engineFault (engine unit op : Nat)
  /-- `WORKGROUP_SAVE` (R437): A workgroup leaving its core entirely lands its transfers and is saved to its frame. -/
  | workgroupSave (wg : Nat)
  /-- `WORKGROUP_RESUMPTION` (R438): A saved workgroup is granted resources, restored, and its sheaves start at the handler with CODE 0x31. -/
  | workgroupResumption (wg core : Nat)
  /-- `NOTIFY_STORE` (R371): A store to a queue's notify register is accepted or puts the queue in error. -/
  | notifyStore (q off size value : Nat)
  /-- `ENABLE` (R369): Reads a queue descriptor and makes the queue idle, or refuses it. -/
  | enable (q : Nat)
  /-- `DISABLE` (R369): Takes a queue to disabled and writes its descriptor back. -/
  | disable (q : Nat)
  /-- `SYNC` (R369): Writes a queue's present READ, WRITE and STATE into its descriptor. -/
  | sync (q : Nat)
  /-- `SLOT_GRANT` (R374): A free mapper slot is granted to the waiting queue chosen by priority and rotation. -/
  | slotGrant (die : Nat)
  /-- `TIME_SLICE_EXPIRY` (R374): An active queue's slice expires while another queue of equal or higher priority waits. -/
  | timeSliceExpiry (die slot : Nat)
  /-- `ENTRY_READ` (R375): A slot reads the next queue entry and starts intake of its graph. -/
  | entryRead (die slot : Nat)
  /-- `GRAPH_INTAKE` (R353): The graph engine reads and checks a graph record and its descriptors and makes the dry run. -/
  | graphIntake (g : Nat)
  /-- `GRAPH_ADMISSION` (R375): A graph is admitted once its scoreboard reservations and ring space can be granted, and READ increments. -/
  | graphAdmission (g : Nat)
  /-- `PASS_ENTRY` (R355): A pass enters a scoreboard entry once no pass 64 or more below it is unretired. -/
  | passEntry (g p : Nat)
  /-- `TILE_RELEASE` (R357): A blocked tile satisfied on every edge is released. -/
  | tileRelease (g p t : Nat)
  /-- `TILE_DISPATCH` (R358): A released tile's turn comes in dispatch order, its output slots are reserved and it goes to the launch unit. -/
  | tileDispatch (pods : Nat)
  /-- `TEAM_PLACEMENT` (R379): The launch unit places each team of a tile or batch on the next pod where it can be admitted. -/
  | teamPlacement (pods : Nat)
  /-- `EDGE_DONE` (R359): The last thread closes an output edge and its staging tile is drained, or the resource tile becomes unwritten. -/
  | edgeDone (g p t e : Nat)
  /-- `DRAIN_COMPLETE` (R333): A drain into a ring slot or overflow entry completes and the tile becomes resident or overflowed. -/
  | drainComplete (g p t e : Nat)
  /-- `TILE_RETIRE` (R356): A tile's drains complete, its retire bit is set and retire notices are sent. -/
  | tileRetire (g p t : Nat)
  /-- `RETIRE_NOTICE` (R363): A retire notice arrives at a consumer's home scoreboard and is applied before evaluation. -/
  | retireNotice (die k : Nat)
  /-- `GRAPH_RETIRE` (R361): A graph whose passes, drains and recipes have ended releases its resources and writes DONEVAL. -/
  | graphRetire (g : Nat)
  /-- `READ_END` (R331): A consumer tile's read of a transient tile ends, lowering C and possibly freeing the slot. -/
  | readEnd (g k : Nat)
  /-- `RING_FILL_COMPLETE` (R170): The bytes of a staging fill from the ring land and the tile becomes ready. -/
  | ringFillComplete (k : Nat)
  /-- `RECIPE_GATHER` (R338): A read of a dropped tile goes to the recipe sequencer, which pins sources and reserves the slot. -/
  | recipeGather (g r t : Nat)
  /-- `RECIPE_LAUNCH` (R338): Once its sources are ready and its slot reserved, a recipe slice launches on a recipe slot. -/
  | recipeLaunch (g k : Nat)
  /-- `RECIPE_DRAINED` (R338): A recipe slice drains its target, which becomes resident, and the recipe's pins are released. -/
  | recipeDrained (g k : Nat)
  /-- `REMAPPING_STEP` (R322): Writing RSREMAP.GO holds ring work, copies tiles to a new map and rebuilds MAP and SPARE, or refuses. -/
  | remappingStep (die : Nat)
  /-- `BANK_ROTATION` (R325): Every 4 ms the most accessed bank is copied to the spare. -/
  | bankRotation (die : Nat)
  /-- `ROTATION_COPY_END` (R325): A rotation copy ends and MAP switches to the spare in one step. -/
  | rotationCopyEnd (die : Nat)
  /-- `BANK_LOST` (R323): A bank stops answering and is marked lost, with an interrupt to the driver. -/
  | bankLost (die bank : Nat)
  /-- `THERMAL_RETIREMENT_REQUEST` (R324): A bank's thermal limit raises a thermal-retirement request interrupt. -/
  | thermalRetirementRequest (die bank : Nat)
  /-- `TRANSFER_PARITY_RETRY` (R327): A beat with a parity error is resent, diagnosed, lane-swapped or the channel fails. -/
  | transferParityRetry (die chan group tries tries2 lanes : Nat)
  /-- `BATCH_TIMEOUT` (R387): The oldest waiting record has waited TIMEOUT and a batch forms. -/
  | batchTimeout (g p : Nat)
  /-- `NODE_RETIRE` (R387): A record node retires once its feeders retired, no record waits and every batch retired. -/
  | nodeRetire (g p : Nat)
  /-- `TABLE_INSTANT` (R378): A time-triggered entry falls due and starts intake of its graph, or is skipped. -/
  | tableInstant (k : Nat)
  /-- `TTCTL_RUN` (R377): A write of RUN starts or stops the time-triggered table, or is refused. -/
  | ttctlRun (value : Nat)
  /-- `LOAD` (R447): Makes a context's descriptor live, or is refused. -/
  | load (ctx : Nat)
  /-- `INVAL` (R447): Invalidates translations and instruction-fetch caches for a context. -/
  | inval (ctx : Nat)
  /-- `REPLAY` (R269): Resumes parked threads of replayable faults so their accesses are translated again. -/
  | replay (ctx : Nat)
  /-- `RESUME` (R434): Runs the held operations of a halted context and lets its sheaves resume. -/
  | resume (ctx : Nat)
  /-- `ABANDON` (R434): Discards the held operations of a halted context and kills its sheaves and graphs. -/
  | abandon (ctx : Nat)
  /-- `UNLOAD` (R447): Unloads a context that holds no work, or is refused. -/
  | unload (ctx : Nat)
  /-- `CTXBASE_WRITE` (R447): Sets the context table base, ignored while any context is loaded. -/
  | ctxbaseWrite (value : Nat)
  /-- `FENCE_CORE` (R462): Stops admission on a core and moves its workgroups away whole. -/
  | fenceCore (core : Nat)
  /-- `UNFENCE_CORE` (R462): Lets a fenced core admit work again. -/
  | unfenceCore (core : Nat)
  /-- `RESET_COMPUTE_DIE` (R462): Fences a compute die's cores, clears its weight-store regions, resets it and unfences it. -/
  | resetComputeDie (die : Nat)
  /-- `REGION_OPEN` (R228): A driver write of STATE 1 opens a weight-store region, setting DEADLINE for short-lived ones. -/
  | regionOpen (die i value : Nat)
  /-- `REGION_SEAL` (R228): A driver write of STATE 2 seals an open region once PEND is 0. -/
  | regionSeal (die i value : Nat)
  /-- `REGION_RELEASE` (R228): A driver write of STATE 0 makes a region unused once no read or fill is unfinished. -/
  | regionRelease (die i value : Nat)
  /-- `REGION_DEADLINE` (R228): The timebase reaches a short-lived region's DEADLINE and the region expires. -/
  | regionDeadline (die i : Nat)
  /-- `WEIGHT_STORE_REFRESH` (R229): A refresh makes one bank of a refreshed region unreadable for 96 ns every 64 microseconds. -/
  | weightStoreRefresh (die bank : Nat)
  /-- `PRESENT` (R455): A store to PRESENT's acting part makes a surface pending and writes a present trail record. -/
  | present (head value : Nat)
  /-- `VERTICAL_BLANKING` (R455): At the start of vertical blanking the pending surface becomes current. -/
  | verticalBlanking (head : Nat)
  /-- `SCAN_OUT` (R455): The first active pixel of the current surface leaves the output and a scan-out record is written. -/
  | scanOut (head : Nat)
  /-- `TBSTEP` (R456): Adds a positive offset to the timebase at once or slews out a negative one. -/
  | tbstep (value : Nat)
  /-- `EXTEND` (R460): The index store extends a measurement register with the last stored digest. -/
  | extend (idx : Nat)
  /-- `ATTEST` (R461): Writing GO starts a signed attestation report. -/
  | attest (value : Nat)
  /-- `ATTESTATION_DONE` (R461): The report is written and interrupt bit 6 is set. -/
  | attestationDone
  /-- `INTSTAT_CLEAR` (R449): A write of 1 bits clears the corresponding interrupt status bits. -/
  | intstatClear (value : Nat)
  /-- `FIXED_CLOCK_ENTRY` (R459): After a write of FIXED = 1, FIXEDON becomes 1 and an event is written. -/
  | fixedClockEntry
  /-- `THERMAL_TRIP` (R459): The thermal trip temperature ends fixed-clock mode and lowers the clock. -/
  | thermalTrip
  /-- `POWER_STRETCH` (R382): The 1 ms power average reaches 97 percent and stagger is stretched. -/
  | powerStretch (mw : Nat)
  /-- `POWER_HOLD` (R382): The 100 microsecond power average reaches 99 percent and admission is held. -/
  | powerHold (mw : Nat)
  /-- `HOLD_RATE_LIMITED_RESUME` (R382): A hold lasting 1 ms resumes admission at one workgroup per 10 microseconds per die. -/
  | holdRateLimitedResume (die : Nat)
  /-- `POWER_RELIEF` (R382): The 1 ms average falls below 95 percent and stretch and hold end. -/
  | powerRelief (mw : Nat)
  /-- `POWER_STATE_ENTRY` (R458): The device enters the lowest power state whose condition holds and whose wake latency fits LTOL. -/
  | powerStateEntry
  /-- `WAKE` (R458): A notify, table instant, CTXCMD write or ring-store window access starts a wake. -/
  | wake
  /-- `UCIE_LINK_FAILURE` (R451): A UCIe link fails and traffic moves to the other, or both fail and every context faults. -/
  | ucieLinkFailure (link : Nat)
  /-- `PEER_LINK_STATE_CHANGE` (R452): A peer port goes down, trains, comes up or retrains, setting interrupt bit 4. -/
  | peerLinkStateChange (port st narrow : Nat)
  /-- `LINK_LOSS_FAULT` (R288): A load or atomic to a peer page whose link is down returns poison and faults. -/
  | linkLossFault (op lane : Nat)
  /-- `REGISTER_WRITE` (R445): A store to a register window register with no behaviour of its own updates its RW fields. -/
  | registerWrite (pa value : Nat)
  /-- `PACKAGE_RESET` (R460): A package or base-die reset sets every register to its reset value, zeroes MR0 to MR15 and TRAILHASH, takes RSAVAIL from the repair map, rebuilds MAP and SPARE, and clears lane swaps and slot generations. -/
  | packageReset
  /-- `REMAPPING_STEP_END` (R322): The copy of a remapping step ends; RSAVAIL, MAP and SPARE are rebuilt, RSLOST is cleared, GO and BUSY read 0 and the held ring work is released. -/
  | remappingStepEnd (die : Nat)
  /-- `REPAIR_DONE` (R462): A repair operation ends: the die reset completes 5 ms after its cores are empty, its cores are unfenced, BUSY clears and interrupt bit 5 and trail event 15 are written. -/
  | repairDone
  /-- `PEER_ACCESS_REQUEST` (R288): A load, posted store or atomic from a peer package arrives at a peer port, is performed at its home (as a blind write on a plural cell) and is acknowledged or answered. -/
  | peerAccessRequest (kind pa size data : Nat)
  /-- `APPLICATION_CORE_ACCESS` (R450): A load, store or atomic of an application core reaches its home and is performed in the location order at system scope, with blind writes on plural cells and refusal reported as an uncorrectable error. -/
  | applicationCoreAccess (kind pa size data cmp : Nat)
  deriving DecidableEq, Repr, Inhabited

/-- What happens outside the rows of the opcode table and reaches the machine from its surroundings:
errors of the memory devices, bytes of a peer package, completion of things the device only reports. -/
inductive Env where
  /-- The GDDR 7 devices report an uncorrectable error on the byte at `pa` (R453). -/
  | memoryError (pa : Nat)
  /-- Codeword `cw` of physical bank `bank` of base die `die` goes bad: its next read corrects symbol `sym`,
  or finds it uncorrectable (R326). -/
  | ringError (die bank cw sym : Nat) (uncorrectable : Bool)
  /-- A read of the word at `off` of the weight store of compute die `die` meets a single-bit error, or the word has a
  double-bit error from now on (R226). -/
  | weightError (die off : Nat) (double : Bool)
  /-- Byte `off` of the memory of peer package `pkg` holds `value` (R288). -/
  | peerByte (pkg off value : Nat)
  /-- Lane `lane` of a computing instruction in flight lands before the others (R25). -/
  | landLane (op lane : Nat)
  /-- The shallot extends MR0 to MR3 by what it is about to release (R460). -/
  | boot (i : Nat)
  /-- The record that set out first across UCIe reaches the home of node `pass` of graph `graph` (R386). -/
  | recArrives (graph pass : Nat)
  /-- The registers that a lane of an instruction in flight writes will reach their places one by one (R25). -/
  | splitLane (op lane : Nat)
  /-- Register `i` of those that a lane has still to write reaches its place (R25). -/
  | landReg (op lane i : Nat)
  /-- A lane of an access in flight takes the values that its address registers hold now, where `mask` says so (R25). -/
  | reAddr (op lane mask : Nat)
  /-- A request engine moves one element of a record in flight (R193). -/
  | reqElement (core op : Nat)
  /-- The compressor writes the block of `pa` back under descriptor `bdi` of a context with `code` (R275). -/
  | squeeze (ctx bdi pa code : Nat)
  /-- The power of layer `layer` of a ring store is switched (R322). -/
  | layerPower (die layer : Nat) (on : Bool)
  deriving DecidableEq, Repr, Inhabited

/-- What the machine does next: a core issues its next instruction word, an event takes place, time
passes (sixteenths of a nanosecond, core cycles), or the surroundings act. -/
inductive Move where
  | issue (core : Nat)
  | event (i : Instr)
  /-- A store reaches a register window (R445). -/
  | store (pa : Nat) (bytes : List Byte)
  | tick (parts cycles : Nat)
  | env (e : Env)
  deriving DecidableEq, Repr, Inhabited

end Sys2Proof
end

