-- ==== Sys2Proof/WellFormed.lean ====
section
/-! DEFINITION. What makes an instruction word illegal by its fields alone: the roles of the operand
fields, the defined modifiers and the causes 7 to 12 of R37 that need no state but the sheaf's
allocation and width. -/

namespace Sys2Proof

/-- What an instruction does with an operand field (R35). -/
inductive Role where
  /-- Not used: must hold 0xF0. -/
  | unused
  /-- A source of `n` consecutive registers from the one named (R119, R165). -/
  | src (n : Nat)
  /-- A source register that may not be the immediate (R137, R211). -/
  | reg
  /-- A destination of `n` consecutive registers. -/
  | dst (n : Nat)
  /-- `n` vector registers that are read (R123, R413). -/
  | vec (n : Nat)
  /-- `n` vector registers that are written (R123). -/
  | vecDst (n : Nat)
  /-- A raw field: the instruction checks it itself (R35). -/
  | raw
  deriving DecidableEq, Repr, Inhabited

/-- The roles of the fields, whether MOD or XMOD is defined, and whether HINT is taken (R274). -/
structure Shape where
  d : Role := .unused
  a : Role := .unused
  b : Role := .unused
  c : Role := .unused
  e : Role := .unused
  ok : Bool := true
  hint : Bool := false
  deriving DecidableEq, Repr, Inhabited

/-- Bits `hi:lo` of the modifier. -/
def Fields.mod (f : Fields) (lo n : Nat) : Nat := f.xmod.toNat / 2 ^ lo % 2 ^ n

/-- Registers of a load, store or accumulator transfer by its size code (R165, R221). -/
def sizeRegs (code : Nat) : Nat := if code = 3 then 2 else if code = 4 then 4 else 1

/-- Registers of a `.b32`, `.b64`, `.b128` size code (R221, R234, R388). -/
def wideRegs (code : Nat) : Nat := if code = 1 then 2 else if code = 2 then 4 else 1

/-- Registers of a packed vector of format code `code` (R155). -/
def packRegs (code : Nat) : Nat := if code = 5 ∨ code = 6 then 3 else 1

/-- The selectors of R418. -/
def srAssigned (n : Nat) : Bool :=
  n ≤ 0x03 || (0x10 ≤ n && n ≤ 0x31)

/-- A segment modifier that is defined (R106). -/
def Fields.segOk (f : Fields) : Bool := f.mod 3 3 ≠ 7 && f.mod 6 6 == 0

/-- The segment of a cross-lane instruction is 64 threads (R112). -/
def Fields.seg64 (width : Nat) (f : Fields) : Bool := f.mod 3 3 == 6 || (f.mod 3 3 == 0 && width == 64)

/-- Form mark of an opcode (R41). -/
inductive Form where
  | f | l | fl
  deriving DecidableEq, Repr, Inhabited

/-- Whether a form mark assigns the full (`false`) or the long (`true`) cell (R41). -/
def Form.has : Form → Bool → Bool
  | .f, long => !long
  | .l, long => long
  | .fl, _ => true

/-- A Malzar instruction's opcode, form mark and fields (R43); none for pair words and events. -/
def Instr.isa? : Instr → Option (Nat × Form × Fields)
  | .nop f => some (0x000, .f, f)
  | .bra f => some (0x001, .l, f)
  | .brx f => some (0x002, .f, f)
  | .call f => some (0x003, .l, f)
  | .ret f => some (0x004, .f, f)
  | .exit f => some (0x005, .f, f)
  | .yield f => some (0x006, .f, f)
  | .sleep f => some (0x007, .fl, f)
  | .brk f => some (0x008, .f, f)
  | .shfl f => some (0x010, .fl, f)
  | .vote f => some (0x011, .f, f)
  | .ballot f => some (0x012, .f, f)
  | .matchV f => some (0x013, .f, f)
  | .rdx f => some (0x014, .f, f)
  | .scan f => some (0x015, .f, f)
  | .elect f => some (0x016, .f, f)
  | .iadd f => some (0x040, .fl, f)
  | .isub f => some (0x041, .fl, f)
  | .iaddc f => some (0x042, .fl, f)
  | .imul f => some (0x043, .fl, f)
  | .imulh f => some (0x044, .fl, f)
  | .imad f => some (0x045, .fl, f)
  | .imadw f => some (0x046, .fl, f)
  | .idiv f => some (0x047, .fl, f)
  | .irem f => some (0x048, .fl, f)
  | .imin f => some (0x049, .fl, f)
  | .imax f => some (0x04A, .fl, f)
  | .iabs f => some (0x04B, .f, f)
  | .ineg f => some (0x04C, .f, f)
  | .and f => some (0x04D, .fl, f)
  | .or f => some (0x04E, .fl, f)
  | .xor f => some (0x04F, .fl, f)
  | .not f => some (0x050, .f, f)
  | .andn f => some (0x051, .fl, f)
  | .shl f => some (0x052, .fl, f)
  | .shr f => some (0x053, .fl, f)
  | .sar f => some (0x054, .fl, f)
  | .rot f => some (0x055, .fl, f)
  | .bfe f => some (0x056, .fl, f)
  | .bfi f => some (0x057, .fl, f)
  | .popc f => some (0x058, .f, f)
  | .clz f => some (0x059, .f, f)
  | .ctz f => some (0x05A, .f, f)
  | .brev f => some (0x05B, .f, f)
  | .prmt f => some (0x05C, .fl, f)
  | .icmp f => some (0x05D, .fl, f)
  | .isel f => some (0x05E, .fl, f)
  | .mov f => some (0x05F, .f, f)
  | .movi f => some (0x060, .l, f)
  | .lea f => some (0x061, .fl, f)
  | .vspill f => some (0x062, .fl, f)
  | .vfill f => some (0x063, .fl, f)
  | .fadd f => some (0x080, .fl, f)
  | .fsub f => some (0x081, .fl, f)
  | .fmul f => some (0x082, .fl, f)
  | .ffma f => some (0x083, .fl, f)
  | .fmin f => some (0x084, .fl, f)
  | .fmax f => some (0x085, .fl, f)
  | .fcmp f => some (0x086, .fl, f)
  | .fsel f => some (0x087, .fl, f)
  | .frnd f => some (0x088, .f, f)
  | .fclass f => some (0x089, .f, f)
  | .fcpysgn f => some (0x08A, .fl, f)
  | .hadd2 f => some (0x090, .fl, f)
  | .hmul2 f => some (0x091, .fl, f)
  | .hfma2 f => some (0x092, .fl, f)
  | .hmin2 f => some (0x093, .fl, f)
  | .hmax2 f => some (0x094, .fl, f)
  | .pairWord _ _ => none
  | .frcp f => some (0x0C0, .f, f)
  | .frsq f => some (0x0C1, .f, f)
  | .fsqrt f => some (0x0C2, .f, f)
  | .fdiv f => some (0x0C3, .f, f)
  | .fexp2 f => some (0x0C4, .f, f)
  | .flog2 f => some (0x0C5, .f, f)
  | .fsin f => some (0x0C6, .f, f)
  | .fcos f => some (0x0C7, .f, f)
  | .ftanh f => some (0x0C8, .f, f)
  | .fsigm f => some (0x0C9, .f, f)
  | .fgelu f => some (0x0CA, .f, f)
  | .fsilu f => some (0x0CB, .f, f)
  | .cvt f => some (0x0D0, .fl, f)
  | .cvtEf f => some (0x0D1, .f, f)
  | .pack f => some (0x0D2, .f, f)
  | .unpack f => some (0x0D3, .f, f)
  | .qscale f => some (0x0D4, .fl, f)
  | .lds f => some (0x100, .fl, f)
  | .sts f => some (0x101, .fl, f)
  | .ats f => some (0x102, .fl, f)
  | .scratchpadAccessApplied _ _ => none
  | .tlSet f => some (0x108, .l, f)
  | .tlFill f => some (0x109, .f, f)
  | .tlDrain f => some (0x10A, .f, f)
  | .tlStat f => some (0x10B, .f, f)
  | .tlDom f => some (0x10C, .fl, f)
  | .tlRel f => some (0x10D, .f, f)
  | .jcInit f => some (0x110, .fl, f)
  | .jcArv f => some (0x111, .f, f)
  | .jcExp f => some (0x112, .fl, f)
  | .jcTest f => some (0x113, .f, f)
  | .waitm f => some (0x118, .fl, f)
  | .waitmReevaluation _ _ => none
  | .waitmTimeout _ _ => none
  | .cpa f => some (0x140, .l, f)
  | .cpaLaneComplete _ _ _ => none
  | .cpw f => some (0x141, .f, f)
  | .reqKick f => some (0x142, .f, f)
  | .requestRecordComplete _ _ => none
  | .collRed f => some (0x143, .l, f)
  | .collectiveRedComplete _ _ => none
  | .collBcast f => some (0x144, .l, f)
  | .collectiveBcastReady _ _ => none
  | .fmtLoad f => some (0x145, .f, f)
  | .prologueRun _ => none
  | .prologueComplete _ => none
  | .mma f => some (0x180, .l, f)
  | .mmat f => some (0x181, .l, f)
  | .mmas f => some (0x182, .l, f)
  | .matrixRowGroup _ _ => none
  | .matrixOperationComplete _ _ => none
  | .mopRdy f => some (0x183, .f, f)
  | .matrixSpanFault _ => none
  | .accZ f => some (0x184, .f, f)
  | .accRd f => some (0x185, .fl, f)
  | .accWr f => some (0x186, .fl, f)
  | .accLd f => some (0x187, .l, f)
  | .accSt f => some (0x188, .l, f)
  | .accWm f => some (0x189, .f, f)
  | .accCvt f => some (0x18A, .fl, f)
  | .ldw f => some (0x18B, .l, f)
  | .wstFill f => some (0x18C, .l, f)
  | .weightFillBytesWritten _ _ => none
  | .wstStat f => some (0x18D, .f, f)
  | .retentionExpiredFault _ => none
  | .sth f => some (0x1C0, .fl, f)
  | .hfwd f => some (0x1C1, .f, f)
  | .hinv f => some (0x1C2, .f, f)
  | .thset f => some (0x1C3, .fl, f)
  | .thget f => some (0x1C4, .f, f)
  | .hbias f => some (0x1C5, .fl, f)
  | .hmask f => some (0x1C6, .f, f)
  | .liftJob _ => none
  | .ld f => some (0x200, .fl, f)
  | .ldCon f => some (0x201, .fl, f)
  | .ldAcq f => some (0x202, .fl, f)
  | .st f => some (0x203, .fl, f)
  | .stSub f => some (0x204, .fl, f)
  | .stRel f => some (0x205, .fl, f)
  | .atom f => some (0x206, .fl, f)
  | .atomCas f => some (0x207, .fl, f)
  | .red f => some (0x208, .fl, f)
  | .fence f => some (0x209, .f, f)
  | .cctl f => some (0x20A, .fl, f)
  | .pref f => some (0x20B, .fl, f)
  | .tclr f => some (0x20C, .f, f)
  | .globalAccessPerformed _ _ => none
  | .translationWalk _ _ => none
  | .peerWriteAcknowledged _ => none
  | .retrainLimitExpiry _ => none
  | .ldk f => some (0x240, .fl, f)
  | .stk f => some (0x241, .fl, f)
  | .rcn f => some (0x242, .fl, f)
  | .tileRet f => some (0x250, .f, f)
  | .rsQ f => some (0x251, .f, f)
  | .recAlloc f => some (0x280, .fl, f)
  | .recPut f => some (0x281, .fl, f)
  | .recCommit f => some (0x282, .f, f)
  | .recGet f => some (0x283, .fl, f)
  | .recCount f => some (0x284, .f, f)
  | .interp f => some (0x2C0, .f, f)
  | .ddx f => some (0x2C1, .f, f)
  | .ddy f => some (0x2C2, .f, f)
  | .discard f => some (0x2C3, .f, f)
  | .vism f => some (0x2C4, .fl, f)
  | .blend f => some (0x2C5, .f, f)
  | .blendPerformed _ _ => none
  | .tex f => some (0x2C6, .l, f)
  | .texg f => some (0x2C7, .l, f)
  | .texq f => some (0x2C8, .f, f)
  | .trace f => some (0x2C9, .l, f)
  | .hitRd f => some (0x2CA, .f, f)
  | .cont f => some (0x2CB, .f, f)
  | .cov f => some (0x2CC, .f, f)
  | .emitp f => some (0x2CD, .l, f)
  | .trap f => some (0x300, .l, f)
  | .systemCallAnswered _ => none
  | .tret f => some (0x301, .f, f)
  | .srd f => some (0x302, .f, f)
  | .swr f => some (0x303, .f, f)
  | .clauseStart _ => none
  | .longLatencyCompletion _ => none
  | .issueGroupRotation _ => none
  | .schedulerRunBreak _ => none
  | .runLimit _ => none
  | .stallEnd _ => none
  | .sleepExpiry _ _ => none
  | .crossLaneWaitRelease _ => none
  | .crossLaneWatchdog _ => none
  | .tileWaitFault _ => none
  | .workgroupAdmission _ => none
  | .sheafStart _ => none
  | .sheafRetire _ => none
  | .workgroupRetire _ => none
  | .handlerEntry _ => none
  | .sheafPark _ => none
  | .doubleFault _ => none
  | .haltLine _ => none
  | .partStop _ _ _ => none
  | .impreciseStoreFault _ _ => none
  | .memoryErrorFault _ => none
  | .engineFault _ _ _ => none
  | .workgroupSave _ => none
  | .workgroupResumption _ _ => none
  | .notifyStore _ _ _ _ => none
  | .enable _ => none
  | .disable _ => none
  | .sync _ => none
  | .slotGrant _ => none
  | .timeSliceExpiry _ _ => none
  | .entryRead _ _ => none
  | .graphIntake _ => none
  | .graphAdmission _ => none
  | .passEntry _ _ => none
  | .tileRelease _ _ _ => none
  | .tileDispatch _ => none
  | .teamPlacement _ => none
  | .edgeDone _ _ _ _ => none
  | .drainComplete _ _ _ _ => none
  | .tileRetire _ _ _ => none
  | .retireNotice _ _ => none
  | .graphRetire _ => none
  | .readEnd _ _ => none
  | .ringFillComplete _ => none
  | .recipeGather _ _ _ => none
  | .recipeLaunch _ _ => none
  | .recipeDrained _ _ => none
  | .remappingStep _ => none
  | .bankRotation _ => none
  | .rotationCopyEnd _ => none
  | .bankLost _ _ => none
  | .thermalRetirementRequest _ _ => none
  | .transferParityRetry _ _ _ _ _ _ => none
  | .batchTimeout _ _ => none
  | .nodeRetire _ _ => none
  | .tableInstant _ => none
  | .ttctlRun _ => none
  | .load _ => none
  | .inval _ => none
  | .replay _ => none
  | .resume _ => none
  | .abandon _ => none
  | .unload _ => none
  | .ctxbaseWrite _ => none
  | .fenceCore _ => none
  | .unfenceCore _ => none
  | .resetComputeDie _ => none
  | .regionOpen _ _ _ => none
  | .regionSeal _ _ _ => none
  | .regionRelease _ _ _ => none
  | .regionDeadline _ _ => none
  | .weightStoreRefresh _ _ => none
  | .present _ _ => none
  | .verticalBlanking _ => none
  | .scanOut _ => none
  | .tbstep _ => none
  | .extend _ => none
  | .attest _ => none
  | .attestationDone => none
  | .intstatClear _ => none
  | .fixedClockEntry => none
  | .thermalTrip => none
  | .powerStretch _ => none
  | .powerHold _ => none
  | .holdRateLimitedResume _ => none
  | .powerRelief _ => none
  | .powerStateEntry => none
  | .wake => none
  | .ucieLinkFailure _ => none
  | .peerLinkStateChange _ _ _ => none
  | .linkLossFault _ _ => none
  | .registerWrite _ _ => none
  | .packageReset => none
  | .remappingStepEnd _ => none
  | .repairDone => none
  | .peerAccessRequest _ _ _ _ => none
  | .applicationCoreAccess _ _ _ _ _ => none

/-- The shape of a Malzar instruction in a sheaf of width `width`, from its own description. -/
def Instr.shape (width : Nat) : Instr → Shape
  | .nop f => { ok := f.xmod == 0 }
  | .bra f => { ok := f.xmod == 0 }
  | .brx f => { a := .src 1, ok := f.xmod == 0 }
  | .call f => { d := .dst 1, ok := f.xmod == 0 }
  | .ret f => { a := .src 1, ok := f.xmod == 0 }
  | .exit f => { ok := f.xmod == 0 }
  | .yield f => { ok := f.xmod == 0 }
  | .sleep f => { a := .src 1, ok := f.xmod == 0 }
  | .brk f => { ok := f.mod 6 6 == 0 }
  | .shfl f => { d := .dst 1, a := .src 1, b := .src 1, c := .src 1, ok := f.segOk && f.mod 0 3 != 1 }
  | .vote f => { d := .dst 1, a := .src 1, ok := f.segOk && f.mod 0 3 < 4 }
  | .ballot f => { d := .dst (if f.seg64 width then 2 else 1), a := if f.mod 0 1 = 1 then .unused else .src 1, ok := f.segOk && f.mod 1 2 == 0 }
  | .matchV f => { d := .dst (if f.mod 0 1 = 1 && f.seg64 width then 2 else 1), a := .src 1, ok := f.segOk && f.mod 1 2 == 0 }
  | .rdx f => { d := .dst 1, a := .src 1, ok := f.segOk }
  | .scan f => { d := .dst 1, a := .src 1, ok := f.segOk }
  | .elect f => { d := .dst 1, ok := f.segOk && f.mod 1 2 == 0 }
  | .iadd f => { d := .dst 1, a := .src 1, b := .src 1, ok := f.xmod.toNat < 3 }
  | .isub f => { d := .dst 1, a := .src 1, b := .src 1, ok := f.xmod.toNat < 3 }
  | .iaddc f => { d := .dst 1, a := .src 1, b := .src 1, c := .src 1, ok := f.xmod.toNat < 4 }
  | .imul f => { d := .dst 1, a := .src 1, b := .src 1, ok := f.xmod == 0 }
  | .imulh f => { d := .dst 1, a := .src 1, b := .src 1, ok := f.xmod.toNat < 2 }
  | .imad f => { d := .dst 1, a := .src 1, b := .src 1, c := .src 1, ok := f.xmod.toNat < 3 }
  | .imadw f => { d := .dst 2, a := .src 1, b := .src 1, c := .src 2, ok := f.xmod.toNat < 2 }
  | .idiv f => { d := .dst 1, a := .src 1, b := .src 1, ok := f.xmod.toNat < 2 }
  | .irem f => { d := .dst 1, a := .src 1, b := .src 1, ok := f.xmod.toNat < 2 }
  | .imin f => { d := .dst 1, a := .src 1, b := .src 1, ok := f.xmod.toNat < 2 }
  | .imax f => { d := .dst 1, a := .src 1, b := .src 1, ok := f.xmod.toNat < 2 }
  | .iabs f => { d := .dst 1, a := .src 1, ok := f.xmod.toNat < 2 }
  | .ineg f => { d := .dst 1, a := .src 1, ok := f.xmod.toNat < 2 }
  | .and f => { d := .dst 1, a := .src 1, b := .src 1, ok := f.xmod == 0 }
  | .or f => { d := .dst 1, a := .src 1, b := .src 1, ok := f.xmod == 0 }
  | .xor f => { d := .dst 1, a := .src 1, b := .src 1, ok := f.xmod == 0 }
  | .not f => { d := .dst 1, a := .src 1, ok := f.xmod == 0 }
  | .andn f => { d := .dst 1, a := .src 1, b := .src 1, ok := f.xmod == 0 }
  | .shl f => { d := .dst 1, a := .src 1, b := .src 1, ok := f.xmod.toNat < 2 }
  | .shr f => { d := .dst 1, a := .src 1, b := .src 1, ok := f.xmod.toNat < 2 }
  | .sar f => { d := .dst 1, a := .src 1, b := .src 1, ok := f.xmod.toNat < 2 }
  | .rot f => { d := .dst 1, a := .src 1, b := .src 1, ok := f.xmod.toNat < 2 }
  | .bfe f => { d := .dst 1, a := .src 1, b := .src 1, ok := f.xmod.toNat < 2 }
  | .bfi f => { d := .dst 1, a := .src 1, b := .src 1, c := .src 1, ok := f.xmod == 0 }
  | .popc f => { d := .dst 1, a := .src 1, ok := f.xmod == 0 }
  | .clz f => { d := .dst 1, a := .src 1, ok := f.xmod == 0 }
  | .ctz f => { d := .dst 1, a := .src 1, ok := f.xmod == 0 }
  | .brev f => { d := .dst 1, a := .src 1, ok := f.xmod == 0 }
  | .prmt f => { d := .dst 1, a := .src 1, b := .src 1, c := .src 1, ok := f.xmod == 0 }
  | .icmp f => { d := .dst 1, a := .src 1, b := .src 1, c := .src 1, ok := f.mod 0 3 < 6 && f.mod 11 1 == 0 }
  | .isel f => { d := .dst 1, a := .src 1, b := .src 1, c := .reg, ok := f.mod 6 6 == 0 }
  | .mov f => { d := .dst 1, a := .src 1, ok := f.xmod == 0 }
  | .movi f => { d := .dst 1, ok := f.xmod.toNat < 3 }
  | .lea f => { d := .dst 2, a := .src 2, b := .src 1, ok := f.xmod.toNat < 16 }
  | .vspill f => { d := .vecDst 9, a := .vec 8, ok := f.xmod == 0 }
  | .vfill f => { d := .vecDst 8, a := .vec 9, ok := f.xmod == 0 }
  | .fadd f => { d := .dst 1, a := .src 1, b := .src 1, ok := f.xmod.toNat < 8 }
  | .fsub f => { d := .dst 1, a := .src 1, b := .src 1, ok := f.xmod.toNat < 8 }
  | .fmul f => { d := .dst 1, a := .src 1, b := .src 1, ok := f.xmod.toNat < 8 }
  | .ffma f => { d := .dst 1, a := .src 1, b := .src 1, c := .src 1, ok := f.xmod.toNat < 8 }
  | .fmin f => { d := .dst 1, a := .src 1, b := .src 1, ok := f.xmod.toNat < 2 }
  | .fmax f => { d := .dst 1, a := .src 1, b := .src 1, ok := f.xmod.toNat < 2 }
  | .fcmp f => { d := .dst 1, a := .src 1, b := .src 1, c := .src 1, ok := f.mod 11 1 == 0 }
  | .fsel f => { d := .dst 1, a := .src 1, b := .src 1, c := .src 1, ok := f.xmod.toNat < 8 }
  | .frnd f => { d := .dst 1, a := .src 1, ok := f.xmod.toNat < 8 }
  | .fclass f => { d := .dst 1, a := .src 1, ok := f.xmod.toNat < 2 }
  | .fcpysgn f => { d := .dst 1, a := .src 1, b := .src 1, ok := f.xmod.toNat < 3 }
  | .hadd2 f => { d := .dst 1, a := .src 1, b := .src 1, ok := f.xmod.toNat < 8 }
  | .hmul2 f => { d := .dst 1, a := .src 1, b := .src 1, ok := f.xmod.toNat < 8 }
  | .hfma2 f => { d := .dst 1, a := .src 1, b := .src 1, c := .src 1, ok := f.xmod.toNat < 8 }
  | .hmin2 f => { d := .dst 1, a := .src 1, b := .src 1, ok := f.xmod.toNat < 2 }
  | .hmax2 f => { d := .dst 1, a := .src 1, b := .src 1, ok := f.xmod.toNat < 2 }
  | .pairWord _ _ => {}
  | .frcp f => { d := .dst 1, a := .src 1, ok := f.xmod == 0 }
  | .frsq f => { d := .dst 1, a := .src 1, ok := f.xmod == 0 }
  | .fsqrt f => { d := .dst 1, a := .src 1, ok := f.xmod.toNat < 4 }
  | .fdiv f => { d := .dst 1, a := .src 1, b := .src 1, ok := f.xmod.toNat < 4 }
  | .fexp2 f => { d := .dst 1, a := .src 1, ok := f.xmod == 0 }
  | .flog2 f => { d := .dst 1, a := .src 1, ok := f.xmod == 0 }
  | .fsin f => { d := .dst 1, a := .src 1, ok := f.xmod == 0 }
  | .fcos f => { d := .dst 1, a := .src 1, ok := f.xmod == 0 }
  | .ftanh f => { d := .dst 1, a := .src 1, ok := f.xmod == 0 }
  | .fsigm f => { d := .dst 1, a := .src 1, ok := f.xmod == 0 }
  | .fgelu f => { d := .dst 1, a := .src 1, ok := f.xmod == 0 }
  | .fsilu f => { d := .dst 1, a := .src 1, ok := f.xmod == 0 }
  | .cvt f => { d := .dst 1, a := .src 1, ok := f.mod 10 2 == 0 }
  | .cvtEf f => { d := .dst 2, a := .src 1, ok := f.mod 6 6 == 0 && f.mod 2 4 != 0 && f.mod 2 4 != 8 && f.mod 2 4 != 9 }
  | .pack f => { d := .dst (packRegs (f.mod 2 4)), a := .src 1, b := .src 1, ok := f.mod 6 6 == 0 && f.mod 2 4 != 8 && f.mod 2 4 != 9 && (f.mod 2 4 < 10 || f.mod 2 4 == 15 || f.mod 0 2 == 0) }
  | .unpack f => { d := .dst 1, a := .src (packRegs (f.mod 2 4)), b := .src 1, ok := f.mod 6 6 == 0 && f.mod 2 4 != 8 && f.mod 2 4 != 9 && f.mod 0 2 == 0 }
  | .qscale f => { d := .dst 1, a := .src 1, ok := f.mod 6 6 == 0 && f.mod 1 1 == 0 && 3 ≤ f.mod 2 4 && f.mod 2 4 ≤ 7 }
  | .lds f => { d := .dst (sizeRegs (f.mod 0 3)), a := .src 1, b := .src 1, ok := f.xmod.toNat < 7 }
  | .sts f => { a := .src 1, b := .src 1, c := .src (sizeRegs (f.mod 0 3)), ok := f.xmod.toNat < 5 }
  | .ats f => { d := .dst 1, a := .src 1, b := .src 1, c := .src (if f.mod 0 4 = 9 then 2 else 1), ok := f.xmod.toNat < 11 }
  | .scratchpadAccessApplied _ _ => {}
  | .tlSet f => { a := .src 1, b := .src 1, c := .src 1, e := .src 1, ok := f.xmod.toNat < 32 }
  | .tlFill f => { a := .src 1, ok := f.xmod.toNat < 32 }
  | .tlDrain f => { a := .src 1, ok := f.xmod.toNat < 32 }
  | .tlStat f => { d := .dst 1, ok := f.mod 6 6 == 0 }
  | .tlDom f => { a := .src 1, ok := f.xmod.toNat < 32 }
  | .tlRel f => { ok := f.xmod.toNat < 32 }
  | .jcInit f => { a := .src 1, b := .src 1, ok := f.xmod == 0 }
  | .jcArv f => { d := .dst 1, a := .src 1, b := if f.mod 1 1 = 1 then .src 1 else .unused, ok := f.xmod.toNat < 4 }
  | .jcExp f => { d := .dst 1, a := .src 1, b := .src 1, ok := f.xmod == 0 }
  | .jcTest f => { d := .dst 1, a := .src 1, b := .src 1, ok := f.xmod.toNat < 2 }
  | .waitm f => { d := .dst 1, a := .src (if f.mod 3 1 = 1 then 2 else 1), b := .src 1, c := if f.mod 4 1 = 1 then .src 1 else .unused, e := if f.mod 6 1 = 1 then .src 1 else .unused, ok := f.mod 0 3 < 5 && f.mod 7 5 == 0 && (f.mod 5 1 == 0 || f.mod 0 3 == 4) && (f.mod 0 3 != 4 || f.mod 3 2 == 0) }
  | .waitmReevaluation _ _ => {}
  | .waitmTimeout _ _ => {}
  | .cpa f => { a := .src 2, b := .src 1, c := .src 1, e := if f.mod 3 1 = 1 then .src 1 else .unused, ok := f.mod 10 2 == 0 && (f.mod 4 1 == 1 || f.mod 5 5 == 0), hint := true }
  | .cpaLaneComplete _ _ _ => {}
  | .cpw f => { a := .src 1, ok := f.mod 0 4 != 0 && f.mod 4 8 == 0 }
  | .reqKick f => { a := .src 1, ok := f.xmod == 0 }
  | .requestRecordComplete _ _ => {}
  | .collRed f => { a := .src 1, ok := 1 ≤ f.xmod.toNat && f.xmod.toNat ≤ 4 }
  | .collectiveRedComplete _ _ => {}
  | .collBcast f => { a := .src 1, ok := f.xmod.toNat < 3 }
  | .collectiveBcastReady _ _ => {}
  | .fmtLoad f => { a := .src 1, ok := f.xmod == 0 }
  | .prologueRun _ => {}
  | .prologueComplete _ => {}
  | .mma f => { d := .raw, a := if f.mod 10 2 = 2 then .reg else .raw, b := .raw, ok := f.mod 10 2 != 3 && f.mod 0 7 == 0 }
  | .mmat f => { d := .raw, a := if f.mod 10 2 = 2 then .reg else .raw, b := .raw, ok := f.mod 10 2 != 3 && f.mod 0 7 == 0 }
  | .mmas f => { d := .raw, a := .raw, b := .raw, c := .raw, e := .raw, ok := f.mod 10 2 < 2 && f.mod 8 1 == 0 && f.mod 0 7 == 0 }
  | .matrixRowGroup _ _ => {}
  | .matrixOperationComplete _ _ => {}
  | .mopRdy f => { ok := f.xmod.toNat < 2 }
  | .matrixSpanFault _ => {}
  | .accZ f => { d := .raw, ok := f.xmod == 0 }
  | .accRd f => { d := .dst (wideRegs (f.mod 0 2)), a := .src 1, b := .src 1, c := .raw, ok := f.xmod.toNat < 3 }
  | .accWr f => { d := .raw, a := .src 1, b := .src 1, c := .src (wideRegs (f.mod 0 2)), ok := f.xmod.toNat < 3 }
  | .accLd f => { d := .raw, a := .src 1, ok := f.xmod.toNat < 32 }
  | .accSt f => { d := .raw, a := .src 1, ok := f.xmod.toNat < 256 }
  | .accWm f => { d := .dst 1, a := .raw, ok := f.xmod.toNat < 4 }
  | .accCvt f => { d := .raw, a := .src 1, ok := f.xmod.toNat < 12 }
  | .ldw f => { d := .dst (wideRegs (f.mod 0 2)), a := .src 1, b := .src 1, ok := f.xmod.toNat < 3 }
  | .wstFill f => { a := .src 2, b := .src 1, c := .src 1, ok := f.xmod == 0, hint := true }
  | .weightFillBytesWritten _ _ => {}
  | .wstStat f => { d := .dst 1, a := .src 1, ok := f.xmod == 0 }
  | .retentionExpiredFault _ => {}
  | .sth f => { d := .raw, a := .raw, ok := f.xmod.toNat < 2 }
  | .hfwd f => { d := .raw, a := .src 1, ok := f.xmod == 0 }
  | .hinv f => { d := .raw, ok := f.xmod.toNat < 2 }
  | .thset f => { a := .src 1, b := .src 1, ok := f.xmod.toNat < 8 }
  | .thget f => { d := .dst 1, a := .src 1, ok := f.xmod.toNat < 8 }
  | .hbias f => { d := .raw, a := .src 1, b := .src 1, ok := f.xmod.toNat < 2 }
  | .hmask f => { d := if f.mod 1 1 = 1 then .unused else .dst 1, a := if f.mod 1 1 = 1 then .unused else .src 1, b := .raw, ok := f.xmod.toNat < 4 }
  | .liftJob _ => {}
  | .ld f => { d := .dst (sizeRegs (f.mod 0 3)), a := .src 2, b := .src 1, ok := f.xmod.toNat < 7, hint := true }
  | .ldCon f => { d := .dst (sizeRegs (f.mod 0 3)), a := .src 2, b := .src 1, ok := f.xmod.toNat < 7, hint := true }
  | .ldAcq f => { d := .dst (sizeRegs (f.mod 0 3)), a := .src 2, b := .src 1, ok := f.mod 0 3 < 7 && f.mod 3 3 < 6 && f.mod 6 6 == 0, hint := true }
  | .st f => { a := .src 2, b := .src 1, c := .src (sizeRegs (f.mod 0 3)), ok := f.xmod.toNat < 5, hint := true }
  | .stSub f => { a := .src 2, b := .src 1, c := .src 1, e := .src 1, ok := f.xmod.toNat < 2, hint := true }
  | .stRel f => { a := .src 2, b := .src 1, c := .src (sizeRegs (f.mod 0 3)), ok := f.mod 0 3 < 5 && f.mod 3 3 < 6 && f.mod 6 6 == 0, hint := true }
  | .atom f => { d := .dst (if f.mod 9 1 = 1 then 2 else 1), a := .src 2, b := .src 1, c := .src (if f.mod 9 1 = 1 then 2 else 1), ok := f.mod 0 4 < 10 && f.mod 6 3 < 6 && f.mod 10 2 == 0 && !(f.mod 0 4 == 9 && f.mod 9 1 == 1), hint := true }
  | .atomCas f => { d := .dst (if f.mod 9 1 = 1 then 2 else 1), a := .src 2, b := .src 1, c := .src (if f.mod 9 1 = 1 then 4 else 2), ok := f.mod 0 4 == 0 && f.mod 6 3 < 6 && f.mod 10 2 == 0, hint := true }
  | .red f => { a := .src 2, b := .src 1, c := .src (if f.mod 9 1 = 1 then 2 else 1), ok := f.mod 0 4 < 10 && f.mod 0 4 != 8 && f.mod 4 1 == 0 && f.mod 6 3 < 6 && f.mod 10 2 == 0 && !(f.mod 0 4 == 9 && f.mod 9 1 == 1), hint := true }
  | .fence f => { ok := f.mod 0 2 < 3 && f.mod 2 3 < 6 && f.mod 5 7 == 0 }
  | .cctl f => { a := if f.mod 0 3 = 1 then .unused else .src 2, b := if f.mod 0 3 = 1 then .unused else .src 1, ok := f.xmod.toNat < 4, hint := true }
  | .pref f => { a := .src 2, b := .src 1, ok := f.xmod.toNat < 2, hint := true }
  | .tclr f => { d := .dst 1, a := .src 1, ok := f.xmod == 0 }
  | .globalAccessPerformed _ _ => {}
  | .translationWalk _ _ => {}
  | .peerWriteAcknowledged _ => {}
  | .retrainLimitExpiry _ => {}
  | .ldk f => { d := .dst (if f.mod 0 1 = 1 then 4 else 3), a := .src 2, b := .src 1, c := if f.mod 1 1 = 1 then .src 1 else .unused, ok := f.xmod.toNat < 4, hint := true }
  | .stk f => { d := .dst 1, a := .src 2, b := .src (if f.mod 0 1 = 1 then 2 else 1), c := .src 2, e := .src 1, ok := f.xmod.toNat < 2, hint := true }
  | .rcn f => { d := .dst (if f.mod 4 1 = 1 then 4 else 3), a := .src 2, b := .src 1, ok := f.mod 0 4 < 10 && f.mod 5 7 == 0 && !(f.mod 0 4 == 7 && f.mod 4 1 == 1), hint := true }
  | .tileRet f => { ok := f.mod 6 6 == 0 }
  | .rsQ f => { d := if f.mod 0 1 = 1 then .unused else .dst 1, a := .src 1, b := .src 1, ok := f.mod 6 6 == 0 && (f.mod 0 1 == 1 || f.mod 1 5 == 0) }
  | .recAlloc f => { d := .dst 1, a := .src 1, ok := f.xmod == 0 }
  | .recPut f => { a := .src 1, b := .src 1, c := .src (wideRegs (f.mod 0 2)), ok := f.xmod.toNat < 3 }
  | .recCommit f => { a := .src 1, ok := f.xmod == 0 }
  | .recGet f => { d := .dst (wideRegs (f.mod 0 2)), a := .src 1, b := .src 1, ok := f.xmod.toNat < 3 }
  | .recCount f => { d := .dst 1, ok := f.xmod.toNat < 2 }
  | .interp f => { d := .dst 1, a := .src 1, b := .src 1, c := .src 1, ok := f.xmod.toNat < 2 }
  | .ddx f => { d := .dst 1, a := .src 1, ok := f.xmod == 0 }
  | .ddy f => { d := .dst 1, a := .src 1, ok := f.xmod == 0 }
  | .discard f => { ok := f.xmod == 0 }
  | .vism f => { d := .dst 2, a := .src 2, b := .src 1, c := .src 1, e := .src 1, ok := f.xmod == 0, hint := true }
  | .blend f => { a := .src 4, ok := f.xmod.toNat < 5 }
  | .blendPerformed _ _ => {}
  | .tex f => { d := .dst 4, a := .src 2, b := .src 1, c := .src 1, e := .src 1, ok := f.xmod.toNat < 2 }
  | .texg f => { d := .dst 4, a := .src 2, b := .src 1, c := .src 1, e := .src 1, ok := f.xmod.toNat < 4 }
  | .texq f => { d := .dst 1, b := .src 1, ok := f.xmod == 0 }
  | .trace f => { d := .dst 1, a := .vec 8, b := .src 2, c := .src 1, ok := f.xmod == 0 }
  | .hitRd f => { d := .dst 1, ok := f.xmod.toNat < 6 }
  | .cont f => { d := .dst 1, a := .src 1, ok := f.xmod == 0 }
  | .cov f => { d := .dst 2, a := .src 1, ok := f.xmod == 0 }
  | .emitp f => { d := .dst 1, a := .src 1, b := .src 1, c := .src 1, ok := f.xmod == 0 }
  | .trap f => { d := .dst 1, a := .src 2, ok := f.xmod == 0 }
  | .systemCallAnswered _ => {}
  | .tret f => { ok := f.xmod.toNat < 3 }
  | .srd f => { d := .dst 1, ok := f.mod 6 6 == 0 && srAssigned (f.mod 0 6) }
  | .swr f => { a := .src 1, ok := f.mod 6 6 == 0 && srAssigned (f.mod 0 6) }
  | .clauseStart _ => {}
  | .longLatencyCompletion _ => {}
  | .issueGroupRotation _ => {}
  | .schedulerRunBreak _ => {}
  | .runLimit _ => {}
  | .stallEnd _ => {}
  | .sleepExpiry _ _ => {}
  | .crossLaneWaitRelease _ => {}
  | .crossLaneWatchdog _ => {}
  | .tileWaitFault _ => {}
  | .workgroupAdmission _ => {}
  | .sheafStart _ => {}
  | .sheafRetire _ => {}
  | .workgroupRetire _ => {}
  | .handlerEntry _ => {}
  | .sheafPark _ => {}
  | .doubleFault _ => {}
  | .haltLine _ => {}
  | .partStop _ _ _ => {}
  | .impreciseStoreFault _ _ => {}
  | .memoryErrorFault _ => {}
  | .engineFault _ _ _ => {}
  | .workgroupSave _ => {}
  | .workgroupResumption _ _ => {}
  | .notifyStore _ _ _ _ => {}
  | .enable _ => {}
  | .disable _ => {}
  | .sync _ => {}
  | .slotGrant _ => {}
  | .timeSliceExpiry _ _ => {}
  | .entryRead _ _ => {}
  | .graphIntake _ => {}
  | .graphAdmission _ => {}
  | .passEntry _ _ => {}
  | .tileRelease _ _ _ => {}
  | .tileDispatch _ => {}
  | .teamPlacement _ => {}
  | .edgeDone _ _ _ _ => {}
  | .drainComplete _ _ _ _ => {}
  | .tileRetire _ _ _ => {}
  | .retireNotice _ _ => {}
  | .graphRetire _ => {}
  | .readEnd _ _ => {}
  | .ringFillComplete _ => {}
  | .recipeGather _ _ _ => {}
  | .recipeLaunch _ _ => {}
  | .recipeDrained _ _ => {}
  | .remappingStep _ => {}
  | .bankRotation _ => {}
  | .rotationCopyEnd _ => {}
  | .bankLost _ _ => {}
  | .thermalRetirementRequest _ _ => {}
  | .transferParityRetry _ _ _ _ _ _ => {}
  | .batchTimeout _ _ => {}
  | .nodeRetire _ _ => {}
  | .tableInstant _ => {}
  | .ttctlRun _ => {}
  | .load _ => {}
  | .inval _ => {}
  | .replay _ => {}
  | .resume _ => {}
  | .abandon _ => {}
  | .unload _ => {}
  | .ctxbaseWrite _ => {}
  | .fenceCore _ => {}
  | .unfenceCore _ => {}
  | .resetComputeDie _ => {}
  | .regionOpen _ _ _ => {}
  | .regionSeal _ _ _ => {}
  | .regionRelease _ _ _ => {}
  | .regionDeadline _ _ => {}
  | .weightStoreRefresh _ _ => {}
  | .present _ _ => {}
  | .verticalBlanking _ => {}
  | .scanOut _ => {}
  | .tbstep _ => {}
  | .extend _ => {}
  | .attest _ => {}
  | .attestationDone => {}
  | .intstatClear _ => {}
  | .fixedClockEntry => {}
  | .thermalTrip => {}
  | .powerStretch _ => {}
  | .powerHold _ => {}
  | .holdRateLimitedResume _ => {}
  | .powerRelief _ => {}
  | .powerStateEntry => {}
  | .wake => {}
  | .ucieLinkFailure _ => {}
  | .peerLinkStateChange _ _ _ => {}
  | .linkLossFault _ _ => {}
  | .registerWrite _ _ => {}
  | .packageReset => {}
  | .remappingStepEnd _ => {}
  | .repairDone => {}
  | .peerAccessRequest _ _ _ _ => {}
  | .applicationCoreAccess _ _ _ _ _ => {}

/-- Causes that a run of `n` registers from operand value `v` meets, in a sheaf with `regs` vector
registers: 9 beyond the allocation, 12 past `s47` (R119, R165). -/
def spanCauses (regs n : Nat) (v : BitVec 8) : List Nat :=
  if v.toNat < 0xC0 then (if v.toNat + n ≤ regs then [] else [9])
  else if v.toNat < 0xF0 then (if v.toNat + n ≤ 0xF0 then [] else [12])
  else []

/-- Causes of one operand field (R35, R37).  DEDUCED (log 73): the immediate where an instruction's own rule asks for a
source register is cause 8, as outside long form. -/
def Role.causes (regs : Nat) (long : Bool) (r : Role) (v : BitVec 8) : List Nat :=
  match r with
  | .unused => if v = 0xF0 then [] else [8]
  | .raw => []
  | .src n =>
    if v.toNat ≤ 0xF2 then spanCauses regs n v
    else if v = 0xF8 ∧ long then [] else [8]
  | .reg => if v.toNat ≤ 0xF2 then spanCauses regs 1 v else [8]
  | .dst n => if v.toNat ≤ 0xF0 then spanCauses regs n v else [8]
  | .vec n =>
    if v.toNat < 0xC0 then spanCauses regs n v
    else if v.toNat ≤ 0xF2 then [12] else [8]
  | .vecDst n =>
    if v.toNat < 0xC0 then spanCauses regs n v
    else if v.toNat ≤ 0xF0 then [12] else [8]

/-- Causes of a guard register field (R35, R37). -/
def Guard.causes (regs : Nat) (g : Guard) : List Nat :=
  if g.reg.toNat ≤ 0xF2 then (if g.reg.toNat < 0xC0 ∧ regs ≤ g.reg.toNat then [9] else []) else [10]

/-- Causes of a full-form or long-form instruction (R37, causes 7 to 12 as its fields alone show). -/
def Fields.causes (regs : Nat) (s : Shape) (f : Fields) : List Nat :=
  (if s.ok then [] else [7]) ++ (if f.hint = 0 ∨ s.hint then [] else [7]) ++
  s.d.causes regs f.long f.d ++ s.a.causes regs f.long f.a ++ s.b.causes regs f.long f.b ++
  s.c.causes regs f.long f.c ++ (if f.long then s.e.causes regs f.long f.e else []) ++
  f.g1.causes regs ++ (if f.long then f.g2.causes regs else [])

/-- An accumulating pair operation reads its D (R45). -/
def PairOp.accumulates : PairOp → Bool
  | .ffma | .hfma2 | .imad => true
  | _ => false

/-- The operand fields a slot reads (R34, R46). -/
def Slot.reads (t : Slot) : List (BitVec 8) :=
  t.a :: (if t.op = .mov then [] else [t.b]) ++ (if t.op.accumulates then [t.d] else [])

/-- Banks of the vector registers two slots read, with repetition (R34). -/
def pairBanks (x y : Slot) : List Nat :=
  ((x.reads ++ y.reads).filter (fun v => v.toNat < 0xC0)).map (fun v => v.toNat % 8)

/-- Causes of one slot's fields (R35, R46). -/
def Slot.causes (regs : Nat) (t : Slot) : List Nat :=
  Role.causes regs false (.dst 1) t.d ++ Role.causes regs false (.src 1) t.a ++
  Role.causes regs false (if t.op = .mov then .unused else .src 1) t.b

/-- Causes of a pair word (R34, R37). -/
def pairCauses (regs : Nat) (x y : Slot) : List Nat :=
  x.causes regs ++ y.causes regs ++
  (if (x.d = y.d ∧ x.d ≠ 0xF0) ∨ ¬ (pairBanks x y).Nodup then [11] else [])

/-- Every cause 7 to 12 that the fields of an instruction show. -/
def Instr.causes (regs width : Nat) (i : Instr) : List Nat :=
  match i with
  | .pairWord x y => pairCauses regs x y
  | i =>
    match i.isa? with
    | some (_, _, f) => f.causes regs (i.shape width)
    | none => []

/-- The lowest cause number, the one a trap reports (R37). -/
def lowest : List Nat → Option Nat
  | [] => none
  | a :: l => some (l.foldl Nat.min a)

/-- The cause an instruction's fields meet in a sheaf with `regs` vector registers and width
`width`. -/
def Instr.cause (regs width : Nat) (i : Instr) : Option Nat := lowest (i.causes regs width)

/-- An instruction is well formed in such a sheaf when its fields meet no cause. -/
def Instr.wellFormed (regs width : Nat) (i : Instr) : Bool := (i.cause regs width).isNone

/-- A slot that the pair table allows in place X (R45). -/
def PairOp.inX : PairOp → Bool
  | .shl | .shr | .sar => false
  | _ => true

/-- A slot that the pair table allows in place Y (R45). -/
def PairOp.inY : PairOp → Bool
  | .imul | .imad => false
  | _ => true

/-- An instruction that some word encodes: its form is assigned, a full-form instruction has only
the fields of the full form, and pair slots stand where the table allows them (R31, R41, R45). -/
def Instr.encodable (i : Instr) : Bool :=
  match i with
  | .pairWord x y => x.op.inX && y.op.inY
  | i =>
    match i.isa? with
    | some (_, m, f) =>
      m.has f.long && (f.long || (f.e == 0xF0 && f.imm == 0 && f.hint == 0 && f.g2 == Guard.always &&
        f.xmod.toNat < 64))
    | none => false

end Sys2Proof
end

