-- ==== Sys2Proof/Decode.lean ====
section
/-! DEFINITION. Instruction words to instructions and back: the form of R30, the full form of R31,
the long form of R32, the pair form of R33, the opcode map of R43 and the pair table of R45. -/

namespace Sys2Proof

/-- The guard in fourteen bits: register, bit, negate (R32). -/
def Guard.ofBits (w : BitVec 14) : Guard := ⟨w.extractLsb' 6 8, w.extractLsb' 1 5, w.getLsbD 0⟩

/-- The fourteen bits of a guard (R32). -/
def Guard.bits (g : Guard) : BitVec 14 := g.reg ++ g.bit ++ BitVec.ofBool g.neg

/-- The fields of a full-form word (R31). -/
def fullFields (w : BitVec 64) : Fields where
  long := false
  d := w.extractLsb' 44 8
  a := w.extractLsb' 36 8
  b := w.extractLsb' 28 8
  c := w.extractLsb' 20 8
  e := 0xF0
  xmod := (w.extractLsb' 0 6).zeroExtend 12
  imm := 0
  g1 := Guard.ofBits (w.extractLsb' 6 14)
  g2 := Guard.always
  hint := 0

/-- The fields of a long-form instruction's two words (R32). -/
def longFields (w0 w1 : BitVec 64) : Fields where
  long := true
  d := w0.extractLsb' 44 8
  a := w0.extractLsb' 36 8
  b := w0.extractLsb' 28 8
  c := w0.extractLsb' 20 8
  e := w0.extractLsb' 12 8
  xmod := w0.extractLsb' 0 12
  imm := w1.extractLsb' 32 32
  g1 := Guard.ofBits (w1.extractLsb' 18 14)
  g2 := Guard.ofBits (w1.extractLsb' 4 14)
  hint := w1.extractLsb' 0 4

/-- The instruction of an opcode number, with its form mark, whatever the form (R43). -/
def ofOpcode (n : Nat) (f : Fields) : Option Instr :=
  match n with
  | 0x000 => some (.nop f)
  | 0x001 => some (.bra f)
  | 0x002 => some (.brx f)
  | 0x003 => some (.call f)
  | 0x004 => some (.ret f)
  | 0x005 => some (.exit f)
  | 0x006 => some (.yield f)
  | 0x007 => some (.sleep f)
  | 0x008 => some (.brk f)
  | 0x010 => some (.shfl f)
  | 0x011 => some (.vote f)
  | 0x012 => some (.ballot f)
  | 0x013 => some (.matchV f)
  | 0x014 => some (.rdx f)
  | 0x015 => some (.scan f)
  | 0x016 => some (.elect f)
  | 0x040 => some (.iadd f)
  | 0x041 => some (.isub f)
  | 0x042 => some (.iaddc f)
  | 0x043 => some (.imul f)
  | 0x044 => some (.imulh f)
  | 0x045 => some (.imad f)
  | 0x046 => some (.imadw f)
  | 0x047 => some (.idiv f)
  | 0x048 => some (.irem f)
  | 0x049 => some (.imin f)
  | 0x04A => some (.imax f)
  | 0x04B => some (.iabs f)
  | 0x04C => some (.ineg f)
  | 0x04D => some (.and f)
  | 0x04E => some (.or f)
  | 0x04F => some (.xor f)
  | 0x050 => some (.not f)
  | 0x051 => some (.andn f)
  | 0x052 => some (.shl f)
  | 0x053 => some (.shr f)
  | 0x054 => some (.sar f)
  | 0x055 => some (.rot f)
  | 0x056 => some (.bfe f)
  | 0x057 => some (.bfi f)
  | 0x058 => some (.popc f)
  | 0x059 => some (.clz f)
  | 0x05A => some (.ctz f)
  | 0x05B => some (.brev f)
  | 0x05C => some (.prmt f)
  | 0x05D => some (.icmp f)
  | 0x05E => some (.isel f)
  | 0x05F => some (.mov f)
  | 0x060 => some (.movi f)
  | 0x061 => some (.lea f)
  | 0x062 => some (.vspill f)
  | 0x063 => some (.vfill f)
  | 0x080 => some (.fadd f)
  | 0x081 => some (.fsub f)
  | 0x082 => some (.fmul f)
  | 0x083 => some (.ffma f)
  | 0x084 => some (.fmin f)
  | 0x085 => some (.fmax f)
  | 0x086 => some (.fcmp f)
  | 0x087 => some (.fsel f)
  | 0x088 => some (.frnd f)
  | 0x089 => some (.fclass f)
  | 0x08A => some (.fcpysgn f)
  | 0x090 => some (.hadd2 f)
  | 0x091 => some (.hmul2 f)
  | 0x092 => some (.hfma2 f)
  | 0x093 => some (.hmin2 f)
  | 0x094 => some (.hmax2 f)
  | 0x0C0 => some (.frcp f)
  | 0x0C1 => some (.frsq f)
  | 0x0C2 => some (.fsqrt f)
  | 0x0C3 => some (.fdiv f)
  | 0x0C4 => some (.fexp2 f)
  | 0x0C5 => some (.flog2 f)
  | 0x0C6 => some (.fsin f)
  | 0x0C7 => some (.fcos f)
  | 0x0C8 => some (.ftanh f)
  | 0x0C9 => some (.fsigm f)
  | 0x0CA => some (.fgelu f)
  | 0x0CB => some (.fsilu f)
  | 0x0D0 => some (.cvt f)
  | 0x0D1 => some (.cvtEf f)
  | 0x0D2 => some (.pack f)
  | 0x0D3 => some (.unpack f)
  | 0x0D4 => some (.qscale f)
  | 0x100 => some (.lds f)
  | 0x101 => some (.sts f)
  | 0x102 => some (.ats f)
  | 0x108 => some (.tlSet f)
  | 0x109 => some (.tlFill f)
  | 0x10A => some (.tlDrain f)
  | 0x10B => some (.tlStat f)
  | 0x10C => some (.tlDom f)
  | 0x10D => some (.tlRel f)
  | 0x110 => some (.jcInit f)
  | 0x111 => some (.jcArv f)
  | 0x112 => some (.jcExp f)
  | 0x113 => some (.jcTest f)
  | 0x118 => some (.waitm f)
  | 0x140 => some (.cpa f)
  | 0x141 => some (.cpw f)
  | 0x142 => some (.reqKick f)
  | 0x143 => some (.collRed f)
  | 0x144 => some (.collBcast f)
  | 0x145 => some (.fmtLoad f)
  | 0x180 => some (.mma f)
  | 0x181 => some (.mmat f)
  | 0x182 => some (.mmas f)
  | 0x183 => some (.mopRdy f)
  | 0x184 => some (.accZ f)
  | 0x185 => some (.accRd f)
  | 0x186 => some (.accWr f)
  | 0x187 => some (.accLd f)
  | 0x188 => some (.accSt f)
  | 0x189 => some (.accWm f)
  | 0x18A => some (.accCvt f)
  | 0x18B => some (.ldw f)
  | 0x18C => some (.wstFill f)
  | 0x18D => some (.wstStat f)
  | 0x1C0 => some (.sth f)
  | 0x1C1 => some (.hfwd f)
  | 0x1C2 => some (.hinv f)
  | 0x1C3 => some (.thset f)
  | 0x1C4 => some (.thget f)
  | 0x1C5 => some (.hbias f)
  | 0x1C6 => some (.hmask f)
  | 0x200 => some (.ld f)
  | 0x201 => some (.ldCon f)
  | 0x202 => some (.ldAcq f)
  | 0x203 => some (.st f)
  | 0x204 => some (.stSub f)
  | 0x205 => some (.stRel f)
  | 0x206 => some (.atom f)
  | 0x207 => some (.atomCas f)
  | 0x208 => some (.red f)
  | 0x209 => some (.fence f)
  | 0x20A => some (.cctl f)
  | 0x20B => some (.pref f)
  | 0x20C => some (.tclr f)
  | 0x240 => some (.ldk f)
  | 0x241 => some (.stk f)
  | 0x242 => some (.rcn f)
  | 0x250 => some (.tileRet f)
  | 0x251 => some (.rsQ f)
  | 0x280 => some (.recAlloc f)
  | 0x281 => some (.recPut f)
  | 0x282 => some (.recCommit f)
  | 0x283 => some (.recGet f)
  | 0x284 => some (.recCount f)
  | 0x2C0 => some (.interp f)
  | 0x2C1 => some (.ddx f)
  | 0x2C2 => some (.ddy f)
  | 0x2C3 => some (.discard f)
  | 0x2C4 => some (.vism f)
  | 0x2C5 => some (.blend f)
  | 0x2C6 => some (.tex f)
  | 0x2C7 => some (.texg f)
  | 0x2C8 => some (.texq f)
  | 0x2C9 => some (.trace f)
  | 0x2CA => some (.hitRd f)
  | 0x2CB => some (.cont f)
  | 0x2CC => some (.cov f)
  | 0x2CD => some (.emitp f)
  | 0x300 => some (.trap f)
  | 0x301 => some (.tret f)
  | 0x302 => some (.srd f)
  | 0x303 => some (.swr f)
  | _ => none

/-- The form mark of an opcode number (R43). -/
def formOf (n : Nat) (f : Fields) : Option Form :=
  match (ofOpcode n f).bind Instr.isa? with
  | some (_, m, _) => some m
  | none => none

/-- The instruction in a cell of the full or long space, none for an unassigned cell (R44). -/
def ofCell (n : Nat) (f : Fields) : Option Instr :=
  match ofOpcode n f with
  | some i => if (formOf n f).any (fun m => m.has f.long) then some i else none
  | none => none

/-- The pair operation of a code (R45). -/
def PairOp.ofCode (n : Nat) : Option PairOp :=
  match n with
  | 0x00 => some .fadd
  | 0x01 => some .fsub
  | 0x02 => some .fmul
  | 0x03 => some .ffma
  | 0x04 => some .fmin
  | 0x05 => some .fmax
  | 0x06 => some .fcpysgn
  | 0x08 => some .hadd2
  | 0x09 => some .hmul2
  | 0x0A => some .hfma2
  | 0x0B => some .hmin2
  | 0x0C => some .hmax2
  | 0x10 => some .iadd
  | 0x11 => some .isub
  | 0x12 => some .imul
  | 0x13 => some .imad
  | 0x14 => some .imin
  | 0x15 => some .imax
  | 0x16 => some .and
  | 0x17 => some .or
  | 0x18 => some .xor
  | 0x19 => some .andn
  | 0x1A => some .shl
  | 0x1B => some .shr
  | 0x1C => some .sar
  | 0x1D => some .mov
  | _ => none

/-- The code of a pair operation (R45). -/
def PairOp.code : PairOp → BitVec 7
  | .fadd => 0x00
  | .fsub => 0x01
  | .fmul => 0x02
  | .ffma => 0x03
  | .fmin => 0x04
  | .fmax => 0x05
  | .fcpysgn => 0x06
  | .hadd2 => 0x08
  | .hmul2 => 0x09
  | .hfma2 => 0x0A
  | .hmin2 => 0x0B
  | .hmax2 => 0x0C
  | .iadd => 0x10
  | .isub => 0x11
  | .imul => 0x12
  | .imad => 0x13
  | .imin => 0x14
  | .imax => 0x15
  | .and => 0x16
  | .or => 0x17
  | .xor => 0x18
  | .andn => 0x19
  | .shl => 0x1A
  | .shr => 0x1B
  | .sar => 0x1C
  | .mov => 0x1D

/-- Slots X and Y of a pair word (R33); none when a code is unassigned or may not stand there. -/
def pairSlots (w : BitVec 64) : Option Instr :=
  match PairOp.ofCode (w.extractLsb' 55 7).toNat, PairOp.ofCode (w.extractLsb' 24 7).toNat with
  | some ox, some oy =>
    if ox.inX && oy.inY then
      some (.pairWord ⟨ox, w.extractLsb' 47 8, w.extractLsb' 39 8, w.extractLsb' 31 8⟩
        ⟨oy, w.extractLsb' 16 8, w.extractLsb' 8 8, w.extractLsb' 0 8⟩)
    else none
  | _, _ => none

/-- Why a word holds no instruction (R37). -/
inductive Undecoded where
  /-- Cause 5: the form is 0b11. -/
  | form
  /-- Cause 6: unassigned opcode, or a pair operation in a slot it may not use. -/
  | opcode
  deriving DecidableEq, Repr

/-- The cause number (R37). -/
def Undecoded.cause : Undecoded → Nat
  | .form => 5
  | .opcode => 6

/-- A word is word 0 of a long-form instruction (R30). -/
def isLong (w : BitVec 64) : Bool := w.extractLsb' 62 2 == 0b10

/-- An option as a result, with the reason given for none. -/
def orOpcode : Option Instr → Except Undecoded Instr
  | some i => .ok i
  | none => .error .opcode

/-- The instruction that begins with word `w0`; `w1` is the word after it, which only the long form
reads (R30 to R33). -/
def decode (w0 w1 : BitVec 64) : Except Undecoded Instr :=
  if w0.extractLsb' 62 2 = 0b00 then orOpcode (ofCell (w0.extractLsb' 52 10).toNat (fullFields w0))
  else if w0.extractLsb' 62 2 = 0b01 then orOpcode (pairSlots w0)
  else if w0.extractLsb' 62 2 = 0b10 then
    orOpcode (ofCell (w0.extractLsb' 52 10).toNat (longFields w0 w1))
  else .error .form

/-- The full-form word of an opcode and fields (R31). -/
def fullWord (op : Nat) (f : Fields) : BitVec 64 :=
  (0b00 : BitVec 2) ++ BitVec.ofNat 10 op ++ f.d ++ f.a ++ f.b ++ f.c ++ f.g1.bits ++
    f.xmod.extractLsb' 0 6

/-- Word 0 of a long-form instruction (R32). -/
def longWord0 (op : Nat) (f : Fields) : BitVec 64 :=
  (0b10 : BitVec 2) ++ BitVec.ofNat 10 op ++ f.d ++ f.a ++ f.b ++ f.c ++ f.e ++ f.xmod

/-- Word 1 of a long-form instruction (R32). -/
def longWord1 (f : Fields) : BitVec 64 := f.imm ++ f.g1.bits ++ f.g2.bits ++ f.hint

/-- The pair word of two slots (R33). -/
def pairWord64 (x y : Slot) : BitVec 64 :=
  (0b01 : BitVec 2) ++ x.op.code ++ x.d ++ x.a ++ x.b ++ y.op.code ++ y.d ++ y.a ++ y.b

/-- The words of an instruction; none for an event, which no word encodes. -/
def encode (i : Instr) : List (BitVec 64) :=
  match i with
  | .pairWord x y => [pairWord64 x y]
  | i =>
    match i.isa? with
    | some (op, _, f) => if f.long then [longWord0 op f, longWord1 f] else [fullWord op f]
    | none => []

/-- The decoder on a list of words: the instruction and the words after it (R16, R17). -/
def decodeList : List (BitVec 64) → Except Undecoded (Instr × List (BitVec 64))
  | [] => .error .form
  | w0 :: l =>
    match decode w0 (l.headD 0) with
    | .ok i => .ok (i, if isLong w0 then l.drop 1 else l)
    | .error e => .error e

/-- A control transfer, which must stand last in its clause (R19). -/
def Instr.isTransfer : Instr → Bool
  | .bra _ | .brx _ | .call _ | .ret _ | .exit _ | .tret _ => true
  | _ => false

/-- A long-latency instruction (R24). -/
def Instr.isLongLatency : Instr → Bool
  | .idiv _ | .irem _ | .frcp _ | .frsq _ | .fsqrt _ | .fdiv _ | .fexp2 _ | .flog2 _ | .fsin _
  | .fcos _ | .ftanh _ | .fsigm _ | .fgelu _ | .fsilu _ | .lds _ | .sts _ | .ats _ | .mma _
  | .mmat _ | .mmas _ | .accRd _ | .accLd _ | .accSt _ | .ldw _ | .ld _ | .ldCon _ | .ldAcq _
  | .st _ | .stSub _ | .stRel _ | .atom _ | .atomCas _ | .red _ | .ldk _ | .stk _ | .rcn _
  | .tex _ | .texg _ | .texq _ | .trace _ | .hitRd _ | .vism _ | .blend _ => true
  | _ => false

/-- The table's word: bit 0 is the least significant bit of the first word, the second word's bits
count on from bit 64; what lies above `nbits` is 0. -/
def decodeTableWord (nbits w : Nat) : Option Instr :=
  match decode (BitVec.ofNat 64 (w % 2 ^ nbits)) (BitVec.ofNat 64 (w % 2 ^ nbits / 2 ^ 64)) with
  | .ok i => some i
  | .error _ => none

end Sys2Proof
end

