-- ==== Sys2Proof/Config.lean ====
section
/-! DEFINITION. What one implementation fixes and what the manual leaves open.  The opaque constants
have no body: nothing can be proved about the value of one. -/

namespace Sys2Proof.Config

/-- The next move where the schedule held in the state has run out: who acts, and when, is open. -/
opaque freeMove : Nat → Move

/-- A choice between two behaviours that the manual both allows (old or new in R25, a cached or a
fresh translation in R267, a clause as it was or as it became in R20). -/
opaque freeBit : Nat → Bool

/-- A 32-bit value that the manual leaves undefined (R25 on matrix operands, R304, poison as delivered). -/
opaque freeWord : Nat → Word

/-- A byte that the manual leaves undefined or unspecified. -/
opaque freeByte : Nat → Byte

/-- A choice of one item among several that the manual allows in any order. -/
opaque freeNat : Nat → Nat

/-- The special-function unit's result before it is held to its bounds: a fixed function of the
operation and the input bits (R149 to R151). -/
opaque special : Nat → Word → Word

/-- The repair map that the shallot gives to base die `die` (R328): bit P is 1 when physical bank P
is available. -/
opaque repairMap : Nat → BitVec 256

/-- The 16-byte device serial number (R461), least significant byte first. -/
opaque serial : BitVec 128

/-- Byte `i` of the identity certificate window (R449). -/
opaque idcert : Nat → Byte

/-- The RSASSA-PSS signature (R461), a list of bytes made from the report's bytes 0 to 639; the
private key never leaves the shallot. -/
opaque signature : List Byte → List Byte

/-- The digests by which the shallot extends MR0 to MR3 before it releases what it measures (R460). -/
opaque bootDigest : Nat → BitVec 256

/-- GDDR 7 capacity of the SB4820M in bytes: 64 GiB; the most that a board fits to an SB4820 (R1, R264). -/
def gddrBytes : Nat := 64 * 2 ^ 30

/-- What a byte of memory that nothing has written reads as (the manual gives no contents of GDDR 7
after power-on). DESIGN CHOICE: see the assumption log. -/
def unlistedByte : Byte := 0

/-- Power limit of the SB4820M in milliwatts (R1). -/
def powerLimit : Nat := 740000

/-- Power limit of the SB4820, the package alone, in milliwatts (R1). -/
def packageLimit : Nat := 650000

/-- The number of lanes of a core, `sr.width` (R10). -/
def lanes : Nat := 64

/-- Sheaf slots of a core (R11, R96). -/
def slots : Nat := 48

/-- The watched waits give up after 2^20 core cycles (R109, R171, R214). -/
def watchLimit : Nat := 2 ^ 20

end Sys2Proof.Config
end

