-- ==== Sys2Proof/Machine/State.lean ====
section
/-! DEFINITION. The state of the SB4820 as plain data: threads, sheaves, workgroups, cores, pods,
compute dies, base dies, contexts, graphs, queues, global memory, the register windows and the
operations in flight; the faults and refusals; and the state right after reset. -/

namespace Sys2Proof.Machine

/-- Entries by number, in ascending order of the number. -/
abbrev Tab (α : Type) := List (Nat × α)

/-- Bytes by address: strictly rising addresses, no entry equal to what an unlisted byte reads as. -/
abbrev Memory := List Host.Cell

/-! ### Faults and refusals -/

/-- Why the machine cannot go on. -/
inductive Fault where
  /-- Never raised: every fault of the manual is taken as a trap and the machine goes on (R424).
  Safe. -/
  | none_
  deriving DecidableEq, Repr

/-- Why the model gives no answer. -/
inductive Refusal where
  /-- Raised by an arm of `exec` whose instruction has no meaning yet.  Safe: nothing can be proved
  about a run that meets it. -/
  | notModelled (mnemonic : String)
  deriving DecidableEq, Repr

/-! ### Threads (R93, R418, R400, R414) -/

/-- A `waitm` that a thread waits on (R180, R181). -/
structure Wait where
  cond : BitVec 3
  /-- The word is in global memory. -/
  global : Bool
  /-- Virtual address, or scratchpad address. -/
  addr : BitVec 64
  mask : Word
  cmp : Word
  obs : Bool
  /-- Destination operand field. -/
  d : BitVec 8
  /-- Core cycle at which the time-out expires. -/
  deadline : Option Nat
  /-- Last value seen. -/
  seen : Word
  /-- Address of the `waitm` word. -/
  pc : BitVec 64
  priv : Bool
  /-- Consume taint of the operands, and of the address among them. -/
  taint : Bool
  ataint : Bool
  deriving DecidableEq, Repr, Inhabited

/-- What a parked thread is parked for (R93, R425, R423, R269, R429). -/
inductive Park where
  /-- The sheaf must enter its handler. -/
  | handler
  /-- A system call of the sheaf waits for its answer. -/
  | sysCall
  /-- A replayable translation fault on the 64 KiB page of this virtual address. -/
  | replay (va : BitVec 64)
  /-- `tret` in a halted context waits for RESUME. -/
  | resume
  /-- The thread has been saved. -/
  | evicted
  /-- A double fault (R430). -/
  | doubleFault
  deriving DecidableEq, Repr, Inhabited

/-- The states of R93.  Sleeping holds the core cycle of its end and a `waitm` to evaluate then. -/
inductive ThreadState where
  | ready
  | sleeping (until_ : Nat) (thenWait : Option Wait)
  /-- Standing at a waiting clause before every named thread is there. -/
  | arrived
  | waiting (w : Wait)
  | parked (why : Park)
  | exited
  deriving DecidableEq, Repr, Inhabited

/-- Raster state of a thread (R400, R407). -/
structure Raster where
  x : Nat
  y : Nat
  l1 : Word
  l2 : Word
  b1 : Word
  b2 : Word
  helper : Bool
  /-- Delivery number of the token share not yet released; none after its release. -/
  token : Option Nat
  deriving DecidableEq, Repr, Inhabited

/-- Hit state of a thread (R414). -/
structure Hit where
  status : Word
  t : Word
  b1 : Word
  b2 : Word
  prim : Word
  user : Word
  deriving DecidableEq, Repr, Inhabited

/-- What takes effect for a thread at the end of the clause inside which it is parked (R105, R181). -/
structure ClauseEnd where
  sleep : Nat := 0
  wait : Option Wait := none
  yielded : Bool := false
  deriving DecidableEq, Repr, Inhabited

/-- A thread: its program counter, registers, flags and per-thread special registers. -/
structure Thread where
  st : ThreadState
  /-- Address of a clause header (R18). -/
  pc : BitVec 64
  /-- Index of the word of that clause at which the thread stands, when it stands inside it (R38). -/
  word : Option Nat
  /-- Vector registers, as many as the sheaf's allocation. -/
  v : List Word
  /-- Consume taint of each vector register (R285). -/
  taint : BitVec 192
  ast : Word
  mst : BitVec 2
  xmask : BitVec 64
  tbhi : Word
  /-- Resume address `sr.epc` and the mid-clause mark with the word index (R426, R441). -/
  epc : BitVec 64
  mid : Option Nat
  ks : List Word
  /-- The thread runs the handler (R421). -/
  priv : Bool
  raster : Option Raster
  /-- The helper bit of a thread that holds no raster state (R400, R402). -/
  bare : Bool := false
  hit : Option Hit
  /-- A `waitm` that is evaluated again when the thread comes out of its park (R181, R425). -/
  wait : Option Wait
  /-- Output edges the thread has closed (R359). -/
  closed : BitVec 24
  /-- Core cycle since which the thread has stood at its clause; none where it does not, or only since now (R109). -/
  stood : Option Nat
  /-- What words of the clause inside which it stands have left for the clause's end (R38, R105, R181). -/
  ends : ClauseEnd := default
  deriving DecidableEq, Repr, Inhabited

/-! ### Sheaves -/

/-- A release at system scope that waits for acknowledgements of peers (R288): the timebase at which it gives
up on either port, the ports whose writes it has counted as resolved, and those whose writes another
release has listed meanwhile. -/
structure RelWait where
  until0 : Nat
  until1 : Nat
  lost : BitVec 2
  owes : BitVec 2
  deriving DecidableEq, Repr, Inhabited

/-- A watched wait at issue: the tile whose emptiness is counted, none where the word waits for operand tokens, and the core
cycles counted so far (R171, R214). -/
structure Watch where
  tile : Option Nat
  cycles : Nat
  deriving DecidableEq, Repr, Inhabited

/-- The clause an issue group is running (R28): the header's address and value, the words as they
were fetched, the next word, the group, and what takes effect at the clause's end. -/
structure ClauseRun where
  pc : BitVec 64
  header : BitVec 64
  words : List (BitVec 64)
  /-- Index of the next word. -/
  k : Nat
  /-- The issue group. -/
  mask : BitVec 64
  /-- Long-latency instructions issued so far, for SETA and SETB. -/
  ll : Nat
  /-- A `yield` took effect. -/
  yielded : Bool
  /-- Sleep counts by thread (R105). -/
  sleeps : Tab Nat
  /-- Failed `waitm` conditions by thread (R181). -/
  waits : Tab Wait
  /-- Branch targets by thread, set by the clause's control transfer. -/
  targets : Tab (BitVec 64)
  /-- A watched wait of the present word (R171, R214). -/
  since : Option Watch
  /-- The operation with which the present word holds its place in a tile order while it waits at issue (R247, R254). -/
  place : Option Nat
  /-- The present word is a release that waits for peers. -/
  rel : Option RelWait
  /-- Core cycle at which the present word asked its record pool or node, while it waits for the answer (R388). -/
  asked : Option Nat := none
  deriving DecidableEq, Repr, Inhabited

/-- A handler entry that a sheaf owes (R425 to R427). -/
structure Entry where
  code : BitVec 8
  sub : BitVec 8
  engine : BitVec 4
  mask : BitVec 64
  addr : BitVec 64
  /-- Address of the faulting word or clause header. -/
  pc : BitVec 64
  deriving DecidableEq, Repr, Inhabited

/-- A posted system call (R423). -/
structure SysCall where
  index : Nat
  mask : BitVec 64
  d : BitVec 8
  /-- Posted by the handler. -/
  priv : Bool
  /-- Consume taint of the argument. -/
  taint : Bool
  deriving DecidableEq, Repr, Inhabited

/-- A sheaf in its slot. -/
structure Sheaf where
  ctx : Nat
  wg : Nat
  /-- Index within the workgroup, width, first lane, allocation of vector registers. -/
  idx : Nat
  width : Nat
  lane0 : Nat
  regs : Nat
  /-- Row map: the physical row of each group of eight registers, in every lane of the range (R115). -/
  rows : List Nat
  gen : BitVec 24
  /-- Order of admission to the core; the least is the oldest (R96). -/
  age : Nat
  /-- Counts of `f0` to `f11` (R23). -/
  flags : List Nat
  /-- Tag counters b0 to b3 (R186). -/
  tags : List Nat
  cpoison : Bool
  /-- `s0` to `s47` and their taint. -/
  s : List Word
  staint : BitVec 48
  /-- Operand token (R214). -/
  token : Bool
  run : Option ClauseRun
  /-- Core cycle at which the STALL count ends (R27). -/
  stall : Nat
  /-- Passed over until another sheaf has issued (R96). -/
  passed : Bool
  /-- Its present word waited at issue when it was last tried (R96). -/
  blocked : Bool
  /-- Issue cycles since the run began (R96). -/
  issued : Nat
  /-- Lowest thread of the candidate group last chosen, and how many clauses in a row (R94). -/
  lead : Nat
  streak : Nat
  /-- Threads whose group is ranked last at the next clause start (`yield`, R105). -/
  last : BitVec 64
  threads : List Thread
  entry : Option Entry
  /-- The handler has been entered and not left. -/
  inHandler : Bool
  cause : Word
  fmask : BitVec 64
  fa : BitVec 64
  /-- The live masks as the handler left them. -/
  live : BitVec 64
  /-- System calls that wait for their answers. -/
  calls : List SysCall
  /-- The sheaf is being evicted (R436). -/
  evicting : Bool
  deriving DecidableEq, Repr, Inhabited

/-! ### Workgroup resources -/

/-- States of a tile (R14, R168). -/
inductive TileState where
  | empty | filling | ready | draining
  deriving DecidableEq, Repr, Inhabited

/-- A tile descriptor (R168) with its use count (R171). -/
structure Tile where
  state : TileState
  kind : BitVec 2
  sat : Bool
  ovr : Bool
  poison : Bool
  pend : BitVec 20
  dom : BitVec 16
  fmt : BitVec 5
  pitch : BitVec 12
  cols : BitVec 10
  rows : BitVec 8
  base : BitVec 15
  user : Word
  uses : Nat
  deriving DecidableEq, Repr, Inhabited

/-- A write's place in an accumulator tile's order (R204), with the rows it has still to write. -/
structure Place where
  ticket : Nat
  /-- It is a matrix operation. -/
  mat : Bool
  /-- Bit m: row m is still to be written. -/
  todo : BitVec 64
  deriving DecidableEq, Repr, Inhabited

/-- An accumulator tile (R201 to R204, R235, R244). -/
structure Acc where
  /-- Elements that are not 0, by 64 * row + column. -/
  elems : Tab Word
  /-- Writes of rows so far (the model's own: it tells whether a read that was made may be made again, R25). -/
  ver : Nat := 0
  ovf : Bool
  nan : Bool
  inv : Bool
  cvt : Bool
  dom : BitVec 16
  mask : BitVec 512
  /-- Unfinished writes, in tile order. -/
  order : List Place
  deriving DecidableEq, Repr, Inhabited

/-- A kernel descriptor's fields (R60). -/
structure Desc where
  entry : BitVec 64
  kind : Nat
  ftz : Bool
  discard : Bool
  depthout : Bool
  recsz : Nat
  batch : Nat
  scratch : Nat
  acc : Nat
  tiles : Nat
  thresh : Nat
  joins : Nat
  sheaves : Nat
  width : Nat
  regs : Nat
  deriving DecidableEq, Repr, Inhabited

/-- What a workgroup was launched for (R379, R337, R387). -/
inductive Work where
  | tile
  | recipe (r : Nat)
  | batch (handles : List (BitVec 32))
  deriving DecidableEq, Repr, Inhabited

/-- What a request-engine operation is (R191, R195, R196). -/
inductive ReqKind where
  | tensor
  | red (fmt : Nat)
  | bcast (fmt : Nat)
  deriving DecidableEq, Repr, Inhabited

/-- A record accepted by the request engine, with the bytes read at its launch (R192). -/
structure Req where
  sid : Nat
  gen : BitVec 24
  wg : Nat
  ctx : Nat
  pc : BitVec 64
  kind : ReqKind
  addr : Word
  bytes : List Byte
  /-- The private-format bank as it stood at acceptance (R87, R191). -/
  bank : Tab (BitVec 16)
  priv : Bool
  held : Bool
  /-- Elements that have landed, and what they met: poison, an overflow (R193). -/
  pos : Nat
  poison : Bool
  ovf : Bool
  /-- Page that was not present: the record is held until that page's replay (R188). -/
  stuck : Option Nat
  /-- Whether the residuals of a contribution count, once it has begun (R195). -/
  carry : Option Bool
  deriving DecidableEq, Repr, Inhabited

/-- How far a workgroup has come. -/
inductive Stage where
  /-- Placed on a pod, not admitted. -/
  | placed
  /-- Admitted; the prologue has not ended. -/
  | prologue
  /-- The prologue has ended; the sheaves have not started. -/
  | primed
  | running
  /-- It has left its core (R437). -/
  | saved
  | retired
  deriving DecidableEq, Repr, Inhabited

/-- A workgroup and everything its sheaves share (R9, R88). -/
structure Workgroup where
  ctx : Nat
  graph : Nat
  pass : Nat
  work : Work
  stage : Stage
  core : Nat
  /-- The other workgroup of the team. -/
  partner : Option Nat
  wgid : Word
  team : Nat
  paired : Bool
  pos : Nat
  tile : Nat
  tx : Nat
  ty : Nat
  clip : Word
  clipx : Word
  desc : Desc
  desca : BitVec 64
  prio : Nat
  priv : Bool
  /-- Start of the scratchpad allocation on its core, and its bytes. -/
  base : Nat
  size : Nat
  scratch : Memory
  tiles : List Tile
  /-- Threshold registers: T1 to T6 (R241). -/
  thr : List (List (BitVec 16))
  acc : List Acc
  /-- Bindings still to run, by index into the graph's binding table (R200). -/
  bindings : List Nat
  /-- Bindings held by a halt. -/
  heldBinding : Bool
  /-- Elements of the first of them that have landed, whether poison was met, and the page that was not present (R188). -/
  bindPos : Nat
  bindPoison : Bool
  bindStuck : Option Nat
  /-- The bank of private formats with which that binding began (R87). -/
  bindBank : Option (Tab (BitVec 16)) := none
  /-- Reserved slot of its graph that it runs in (R339, R384). -/
  slot : Option Nat
  /-- Sheaf slots, in sheaf order, while resident. -/
  slots : List Nat
  /-- Sheaves that are evicted, in bits 15:0. -/
  evicted : BitVec 16
  frame : Option Nat
  /-- Sheaves saved and not yet resumed keep their device-saved part here (R441). -/
  saved : Tab Sheaf
  /-- Records the workgroup owns and has not committed. -/
  owned : List (BitVec 32)
  /-- The workgroup is leaving its core entirely. -/
  leaving : Bool
  /-- `coll.bcast` records to relaunch on resumption (R196). -/
  relaunch : List Req
  /-- Place in the order of arrivals at the core (R376). -/
  since : Nat
  /-- Place of its first eviction in the order of evictions (R121). -/
  evictOrder : Nat
  /-- What the frame holds of its last save: the SAVED field of the header, the slots that its sheaves left, and whether the
  stream cursor and the blender records went with it (R437, R439 to R441). -/
  headed : BitVec 16 := 0
  left : Tab Nat := []
  lastOut : Bool := false
  deriving DecidableEq, Repr, Inhabited

/-! ### Operations in flight -/

/-- One lane of a long-latency instruction: addresses as formed at issue, the data operand fields
with the values read at issue, the destination fields with the values they held. -/
structure Lane where
  thread : Nat
  va : BitVec 64
  pa : BitVec 64
  srcs : List (BitVec 8 × Word)
  dsts : List (BitVec 8 × Word)
  taint : Bool
  /-- Some address operand carries consume taint (R285). -/
  ataint : Bool := false
  /-- The address operand fields, with the values read at issue (R25). -/
  addrs : List (BitVec 8 × Word) := []
  /-- Its destination registers land one by one: those that have still to, with value and taint (R25). -/
  split : Bool := false
  late : List (BitVec 8 × Word) := []
  /-- Cells of a plural store that have been written (R315); the `ver` of an accumulator tile when the lane read its row. -/
  cells : Nat := 0
  /-- Offset of a row of an accumulator transfer in its scratchpad (R222). -/
  off : Nat := 0
  /-- The leaf entry through which the lane's page was translated. -/
  entry : Nat := 0
  /-- A store's place in the core order, once it has been applied (R276). -/
  applied : Option Nat := none
  done : Bool
  deriving DecidableEq, Repr, Inhabited

/-- A long-latency instruction that has issued and not completed (R24). -/
structure LongOp where
  sid : Nat
  gen : BitVec 24
  wg : Nat
  ctx : Nat
  core : Nat
  pc : BitVec 64
  instr : Instr
  /-- Completion flag counted, none when untracked. -/
  flag : Option Nat
  lanes : List Lane
  /-- Sticky bits to set at completion, by thread (R80). -/
  ast : Tab Word
  /-- Ticket of its places in the tile order. -/
  ticket : Nat
  /-- Tile whose use count it holds. -/
  tile : Option Nat
  /-- DOM of its accumulator tile at its place in the tile order. -/
  tag : BitVec 16
  priv : Bool
  /-- It is a release that waits for peers. -/
  rel : Option RelWait
  /-- The plural hold of R311. -/
  hold : Bool
  /-- Faults found at the home: thread, code, sub-code, address. -/
  faults : List (Nat × Nat × Nat × Nat)
  deriving DecidableEq, Repr, Inhabited

/-- One lane's copy of a `cpa` (R185). -/
structure CopyLane where
  thread : Nat
  va : BitVec 64
  sp : Word
  valid : Nat
  cell : Option Word
  done : Bool
  /-- Page (64 KiB) that was not present when the lane was tried: it is held until that page's replay (R188). -/
  stuck : Option Nat
  /-- The `ld.con` operations of its thread issued before this number come first; 0 where its address carries no taint
  (R183). -/
  bar : Nat
  deriving DecidableEq, Repr, Inhabited

/-- A `cpa` accepted by the copy engine (R185, R188). -/
structure Copy where
  sid : Nat
  gen : BitVec 24
  wg : Nat
  ctx : Nat
  pc : BitVec 64
  tag : Nat
  /-- The tag has been counted down already, by a halt (R432). -/
  withdrawn : Bool
  s2g : Bool
  tile : Option Nat
  lanes : List CopyLane
  priv : Bool
  held : Bool
  deriving DecidableEq, Repr, Inhabited

/-- A lift job (R246). -/
inductive JobKind where
  | sth | hfwd | hinv | hmaskUpd | forced
  deriving DecidableEq, Repr, Inhabited

/-- An accepted lift job with what it captured. -/
structure Job where
  kind : JobKind
  wg : Nat
  /-- It works on an accumulator tile. -/
  acc : Bool
  tile : Nat
  /-- Source of `sth`: accumulator tile or scratchpad tile, and its number. -/
  srcAcc : Bool
  src : Nat
  /-- The tag of the transform to apply. -/
  tag : BitVec 16
  thr : List (BitVec 16)
  /-- Its place in the tile order of its accumulator tile. -/
  ticket : Nat
  /-- Rows read so far from an accumulator source; of a job on an accumulator tile that writes row groups, the rows it has
  still to write (R246). -/
  rows : Tab (List Word)
  /-- Rows among those in which a value saturated. -/
  sat : BitVec 64
  /-- The word that asked for it. -/
  pc : BitVec 64
  held : Bool
  deriving DecidableEq, Repr, Inhabited

/-- Where a matrix operand stands (R209). -/
inductive MatSrc where
  /-- Fragment: 64 rows of register images, as read at acceptance. -/
  | frag (rows : List (List Word))
  /-- Scratchpad tile, with its rows as they stood at acceptance. -/
  | tile (n : Nat) (rows : List (List Word))
  /-- Weight store: die, offset of row 0, stride. -/
  | weight (die off stride : Nat)
  deriving DecidableEq, Repr, Inhabited

/-- A matrix operation accepted by an engine (R217). -/
structure MatOp where
  op : Nat
  sid : Nat
  gen : BitVec 24
  pc : BitVec 64
  ctx : Nat
  priv : Bool
  wg : Nat
  core : Nat
  acc : Nat
  ticket : Nat
  afmt : Nat
  bfmt : Nat
  acci : Bool
  z : Bool
  a : MatSrc
  b : MatSrc
  /-- Scale bytes of A's rows and B's columns, one list of block scales a row (R72, R73). -/
  sa : List (List Byte)
  sb : List (List Byte)
  /-- The result tag (R248); where it is Haar, the bits of B's survivor mask once the operands are read. -/
  tag : BitVec 16
  surv : List Bool
  /-- Row groups written. -/
  groups : Nat
  /-- An operand register was touched before completion (R25). -/
  spoilt : Bool
  /-- Register ranges held: sheaf, first register, count. -/
  regs : List (Nat × Nat × Nat)
  /-- Sheaves whose token it consumed. -/
  tokens : List Nat
  held : Bool
  /-- It stands before a row group whose weight-store read met poison: the fault has been raised (R218). -/
  expired : Bool
  /-- Poison that the reads of a halt met: the row group, the fault's code and the offset (R218, R231, R432). -/
  poison : Option (Nat × Nat × Nat)
  deriving DecidableEq, Repr, Inhabited

/-- A `wst.fill` accepted by the fill engine of a die (R232). -/
structure Fill where
  ctx : Nat
  va : BitVec 64
  off : Nat
  left : Nat
  region : Nat
  sid : Nat
  gen : BitVec 24
  thread : Nat
  pc : BitVec 64
  priv : Bool
  held : Bool
  /-- Page (64 KiB) that was not present: the fill waits for its replay (R188). -/
  stuck : Option Nat
  /-- The `ld.con` operations of its thread issued before this number come first; 0 where its address carries no taint
  (R285). -/
  bar : Nat
  deriving DecidableEq, Repr, Inhabited

/-! ### Cores, pods and compute dies -/

/-- An L1 line of 128 bytes (R273). -/
structure Line where
  ctx : Nat
  pa : Nat
  bytes : List Byte
  deriving DecidableEq, Repr, Inhabited

/-- A cached translation: context, virtual page, its size in bits, the leaf entry (R266). -/
structure Trans where
  ctx : Nat
  va : Nat
  bits : Nat
  leaf : BitVec 64
  /-- Physical address of the entry. -/
  entry : Nat
  deriving DecidableEq, Repr, Inhabited

/-- A core (R4, R96, R188, R192, R246). -/
structure Core where
  /-- Slot of the current sheaf (R96). -/
  current : Option Nat
  nextAge : Nat
  /-- Generations of the slots (R99). -/
  gens : Tab (BitVec 24)
  l1 : List Line
  /-- The core's translation cache, newest first (R266). -/
  tlb : List Trans
  /-- Number of the first store that was performed after the fetch cache was last invalidated (R20, R273). -/
  fetchFrom : Nat
  copies : Tab Copy
  reqs : Tab Req
  kick : Word
  jobs : List Job
  /-- Private-format banks by context: entries that differ from the identity (R85, R86). -/
  fmt : Tab (Tab (BitVec 16))
  /-- Scratchpad accesses issued and not applied: to the own scratchpad, and to the partner's. -/
  fifo : List Nat
  rfifo : List Nat
  fenced : Bool
  /-- Workgroup for which sheaves are being evicted (R120). -/
  incoming : Option Nat
  /-- Core cycle from which the special-function unit accepts an instruction (R149). -/
  sfu : Nat := 0
  /-- When that began, a workgroup stood partially evicted on the core: none may when the workgroup is admitted (R121). -/
  barred : Bool := false
  deriving DecidableEq, Repr, Inhabited

/-- A pod's matrix engines: multiplying, sign-select (R206). -/
structure Pod where
  mul : List MatOp
  sel : List MatOp
  deriving DecidableEq, Repr, Inhabited

/-- A transition of a weight-store region that waits (R228). -/
inductive RegionWait where
  | seal | reopen | release
  deriving DecidableEq, Repr, Inhabited

/-- A weight-store region descriptor (R227). -/
structure Region where
  deadline : BitVec 64
  state : BitVec 2
  short : Bool
  base : BitVec 9
  size : BitVec 9
  life : BitVec 15
  mbz : BitVec 4
  pend : BitVec 24
  wait : Option RegionWait
  deriving DecidableEq, Repr, Inhabited

/-- A compute die's weight store (R226, R227, R232). -/
structure ComputeDie where
  /-- Bytes that a fill has written; the others are undefined. -/
  bytes : Tab Byte
  /-- Offsets that hold poison. -/
  poison : List Nat
  regions : Tab Region
  refused : Nat
  errors : Nat
  fills : Tab Fill
  /-- Bank being refreshed and the time it is readable again (R229). -/
  refresh : Option (Nat × Nat)
  /-- The die's translation cache, newest first (R266). -/
  tlb : List Trans
  deriving DecidableEq, Repr, Inhabited

/-! ### Base dies -/

/-- A peer port (R452). -/
structure Port where
  retrain : Nat
  state : Nat
  narrow : Bool
  losses : Nat
  en : Bool
  deriving DecidableEq, Repr, Inhabited

/-- A posted store to a peer that is not acknowledged (R288). -/
structure Posted where
  ctx : Nat
  pkg : Nat
  va : BitVec 64
  pa : Nat
  /-- Bytes with the masks of the bits they store. -/
  data : List (Byte × Byte)
  sid : Nat
  wg : Nat
  port : Nat
  /-- It has been performed at its home; only its acknowledgement is under way. -/
  performed : Bool
  /-- A part of the device has stored it, no thread: `sid` is slot 0 of the core that part belongs to. -/
  engine : Bool
  deriving DecidableEq, Repr, Inhabited

/-- An array-log or bus-log entry is kept as its 128 bits (R328). -/
abbrev LogEntry := BitVec 128

/-- An active slot of the mapper (R374). -/
structure MapSlot where
  queue : Nat
  granted : Nat
  /-- Graph in hand. -/
  graph : Option Nat
  deriving DecidableEq, Repr, Inhabited

/-- A ring extent (R330). -/
structure Extent where
  graph : Nat
  res : Nat
  la : Nat
  bytes : Nat
  deriving DecidableEq, Repr, Inhabited

/-- The ring-store controller of a base die (R318 to R328). -/
structure RingStore where
  depth : BitVec 2
  rot : Bool
  avail : BitVec 256
  lost : BitVec 256
  newmap : BitVec 256
  /-- Map of the remapping step in progress. -/
  target : BitVec 256
  go : Bool
  busy : Bool
  res : BitVec 2
  spare : Nat
  /-- MAP: physical bank of each logical bank. -/
  map : List Nat
  rotating : Option Nat
  /-- Accesses per bank in the present 4 ms, in the 4 ms before it, and the number of the present 4 ms (R325). -/
  counts : Tab Nat
  past : Tab Nat
  window : Nat
  nextRot : Nat
  /-- Channel state: failed, spares used (RSSWAP). -/
  swap : Tab (Bool × Nat)
  acorr : BitVec 32
  aunc : BitVec 16
  alog : List LogEntry
  bretry : BitVec 32
  blog : List LogEntry
  anext : BitVec 6
  bnext : BitVec 6
  /-- Codewords logged since reset with their counts (REPEAT). -/
  seen : Tab Nat
  /-- Bytes by bank * 2^26 + offset. -/
  bytes : Memory
  /-- Uncorrectable codewords by bank * 2^20 + codeword. -/
  bad : List Nat
  /-- Codewords whose next read corrects a symbol: the symbol (R326). -/
  soft : Tab Nat
  /-- Banks that a thermal-retirement request has named (R324). -/
  thermal : BitVec 256
  /-- Layers without power (R322). -/
  off : BitVec 8
  extents : List Extent
  /-- Ring work is held (R322). -/
  hold : Bool
  deriving DecidableEq, Repr, Inhabited

/-- A retire notice on its way (R363). -/
structure Notice where
  graph : Nat
  pass : Nat
  tile : Nat
  deriving DecidableEq, Repr, Inhabited

/-- A base die (R2). -/
structure BaseDie where
  slots : Tab MapSlot
  /-- Queue that last received a slot, by priority (R374). -/
  lastGrant : Tab Nat
  ring : RingStore
  port : Port
  posted : Tab Posted
  notices : List Notice
  /-- Timebase of the last rate-limited admission (R382). -/
  lastAdmit : Nat
  deriving DecidableEq, Repr, Inhabited

/-! ### Contexts -/

/-- A context fault under way (R431). -/
structure Halt where
  code : BitVec 8
  sub : BitVec 8
  engine : BitVec 4
  addr : BitVec 64
  /-- Sheaf that faulted, which enters with its own code. -/
  sid : Option Nat
  /-- Base die of the part that faulted. -/
  die : Nat
  /-- The halt line has reached the partition. -/
  reached : Bool
  deriving DecidableEq, Repr, Inhabited

/-- A loaded context (R446). -/
structure Ctx where
  /-- The live descriptor. -/
  desc : BitVec 1024
  halt : Option Halt
  /-- System-call records posted since the context was created. -/
  calls : Nat
  /-- Frames in use. -/
  frames : List Nat
  /-- Pages with an unreplayed record (64 KiB page numbers). -/
  replays : List Nat
  /-- Parts of the partition that have stopped: engine, unit. -/
  stopped : List (Nat × Nat)
  /-- Cores whose slot among the saved format-table banks the device has written (R86). -/
  banks : List Nat
  deriving DecidableEq, Repr, Inhabited

/-! ### Graphs -/

/-- A pass entry (R346). -/
structure Pass where
  desca : BitVec 64
  cg : Nat
  prio : Nat
  home : Nat
  kind : Nat
  teams : Nat
  pair : Bool
  w : Nat
  h : Nat
  efirst : Nat
  ecount : Nat
  bfirst : Nat
  bcount : Nat
  stagger : Nat
  timeout : Nat
  mbz : Nat
  desc : Desc
  deriving DecidableEq, Repr, Inhabited

/-- A core-group entry (R347). -/
structure Group where
  pods : BitVec 128
  rslots : Nat
  mbz : Nat
  deriving DecidableEq, Repr, Inhabited

/-- A resource entry (R348, R329). -/
structure Resource where
  cls : Nat
  w : Nat
  h : Nat
  tshape : Word
  fmt : Nat
  dom : BitVec 16
  mbz : Nat
  ovfva : Nat
  ovfn : Nat
  nt : Nat
  slots : Nat
  slotb : Nat
  policy : Nat
  die : Nat
  rmbz : Nat
  deriving DecidableEq, Repr, Inhabited

/-- An edge entry (R349). -/
structure Edge where
  dir : Nat
  res : Nat
  prod : Nat
  sten : Nat
  tile : Nat
  stage : Bool
  off : Nat
  mbz : Nat
  deriving DecidableEq, Repr, Inhabited

/-- A stencil entry (R350). -/
structure Stencil where
  form : Nat
  mask : BitVec 49
  nx : Nat
  dx : Nat
  ny : Nat
  dy : Nat
  mbz : Nat
  deriving DecidableEq, Repr, Inhabited

/-- A recipe record (R336). -/
structure Recipe where
  desca : BitVec 64
  pass : Nat
  target : Nat
  nsrc : Nat
  srcs : List (Nat × Nat)
  param : BitVec 128
  mbz : Nat
  desc : Desc
  deriving DecidableEq, Repr, Inhabited

/-- Scoreboard states of a tile (R356). -/
inductive Board where
  | blocked | released | held | dispatched | running | draining | retired
  deriving DecidableEq, Repr, Inhabited

/-- One delivered pixel quad waiting in a blender queue (R442). -/
structure Token where
  number : Nat
  shares : BitVec 4
  deriving DecidableEq, Repr, Inhabited

/-- A coverage stream (R396): its raster record, the sorted bin, and the place in it. -/
structure Stream where
  record : List Byte
  prims : List (BitVec 32)
  prim : Nat
  block : Nat
  quad : Nat
  delivered : Nat
  deriving DecidableEq, Repr, Inhabited

/-- A dispatched tile's state (R359, R396, R407). -/
structure TileRun where
  board : Board
  /-- Teams placed so far. -/
  placed : Nat
  /-- Workgroups of the tile. -/
  wgs : List Nat
  /-- Workgroups that have retired. -/
  ended : Nat
  /-- OUT edges done, and those on which a leader thread executed `tile.ret`. -/
  done_ : BitVec 24
  leader : BitVec 24
  /-- OUT edges whose drain has ended, or that drain nothing. -/
  drained : BitVec 24
  /-- OUT edges whose drain has begun (R359). -/
  begun : BitVec 24 := 0
  stream : Option Stream
  /-- Blender queues by pixel quad 32 * (y/2 mod 32) + x/2 mod 32. -/
  blend : Tab (List Token)
  /-- Reads (resource tile) that have ended for this consumer tile. -/
  reads : List (Nat × Nat)
  deriving DecidableEq, Repr, Inhabited

/-- Ring states (R332). -/
inductive RingState where
  | pending | writing | resident | overflowed | dropped | rematerialising | free | unwritten
  deriving DecidableEq, Repr, Inhabited

/-- A tile of a transient resource (R331, R332). -/
structure RingTile where
  st : RingState
  c : Nat
  h : Nat
  /-- Overflow entry held. -/
  entry : Option Nat
  deriving DecidableEq, Repr, Inhabited

/-- A recipe under way (R338). -/
structure Chain where
  recipe : Nat
  tile : Nat
  depth : Nat
  /-- Sources pinned. -/
  pinned : List (Nat × Nat)
  /-- Sources still to be resident. -/
  waits : List (Nat × Nat)
  slot : Bool
  launched : Option Nat
  /-- A thread of the slice has executed `tile.ret`. -/
  ret : Bool
  held : Bool
  deriving DecidableEq, Repr, Inhabited

/-- A fill of a staging tile from the ring (R351, R366): who asked, and for what. -/
structure RingFill where
  wg : Nat
  tile : Nat
  res : Nat
  idx : Nat
  held : Bool
  /-- The word of the query that asked for it, 0 for one of the graph engine (R433). -/
  pc : Nat := 0
  deriving DecidableEq, Repr, Inhabited

/-- A pass while its graph runs (R355, R387). -/
structure PassRun where
  entered : Bool
  tiles : Tab TileRun
  retired : Bool
  /-- Timebase of its last retire. -/
  retiredAt : Nat
  /-- Tiles known to have retired, at each base die (R363). -/
  known : List (List Nat)
  passKnown : List Bool
  /-- Committed records that wait, with their commit times (R386). -/
  queue : List (BitVec 32 × Nat)
  /-- Records committed on the other base die that have still to reach the node's home, with their commit times (R386). -/
  coming : List (BitVec 32 × Nat)
  batches : Nat
  live : Nat
  /-- Core cycle of the last start of a team, by base die (R381). -/
  lastStart : Tab Nat
  released : Bool
  deriving DecidableEq, Repr, Inhabited

/-- Stages of a graph (R353, R375, R361). -/
inductive GraphStage where
  | intake | waiting | admitted | rejected | retired
  deriving DecidableEq, Repr, Inhabited

/-- A graph. -/
structure Graph where
  ctx : Nat
  va : BitVec 64
  /-- Queue and die whose slot took it; none for the time-triggered table. -/
  queue : Option Nat
  die : Nat
  serial : Bool
  mark : BitVec 64
  stage : GraphStage
  /-- Admission order. -/
  order : Nat
  doneva : BitVec 64
  doneval : BitVec 64
  trail : Bool
  passes : List Pass
  groups : List Group
  ress : List Resource
  edges : List Edge
  stens : List Stencil
  binds : List (List Byte)
  recipes : List Recipe
  runs : List PassRun
  rings : Tab (Tab RingTile)
  /-- Completion word that the graph engine has still to write to DONEVA (R353, R361). -/
  owing : Option (BitVec 64)
  /-- Free overflow entries are those not held by a tile. -/
  fills : Tab RingFill
  chains : Tab Chain
  /-- Recipe slots and node slots: core, core group or 256 + pass, and the resources reserved. -/
  resv : List (Nat × Nat × Desc)
  prio : Nat
  deriving DecidableEq, Repr, Inhabited

/-! ### Queues, heads, records -/

/-- Queue states (R368). -/
inductive QState where
  | disabled | idle | waiting | active | error
  deriving DecidableEq, Repr, Inhabited

/-- A queue as the mapper keeps it (R368, R369). -/
structure Queue where
  state : QState
  ring : BitVec 64
  size : Nat
  prio : Nat
  home : Nat
  slice : Nat
  ctx : Nat
  read : BitVec 32
  write : BitVec 32
  deriving DecidableEq, Repr, Inhabited

/-- A time-triggered entry (R377). -/
structure TTEntry where
  offset : BitVec 64
  graph : BitVec 64
  ctx : BitVec 32
  skips : BitVec 16
  v : Bool
  mbz : BitVec 97
  deriving DecidableEq, Repr, Inhabited

/-- A display head (R455). -/
structure Head where
  hctl : BitVec 64
  timing : List (BitVec 64)
  lo : BitVec 64
  pending : Option (BitVec 128)
  current : Option (BitVec 128)
  /-- The scan-out record of the current surface has been written. -/
  shown : Bool
  /-- Fabric cycle in which the last vertical blanking interval started, and whether a pending surface became current then. -/
  blankAt : Option Nat
  took : Bool
  /-- Bytes of the surface as the display engine has read them, row by row. -/
  out : List Byte
  deriving DecidableEq, Repr, Inhabited

/-- States of a record (R386). -/
inductive RecState where
  | allocated (wg : Nat) | committed | batched
  deriving DecidableEq, Repr, Inhabited

/-- A record entry in use (R385, R386). -/
structure Rec where
  graph : Nat
  node : Nat
  st : RecState
  deriving DecidableEq, Repr, Inhabited

/-- A launch unit: core groups of equal PODS share it (R379). -/
structure Launch where
  /-- Pod used last. -/
  last : Option Nat
  /-- Tiles handed over: graph, pass, tile; and batches: graph, pass, handles, number. -/
  tiles : List (Nat × Nat × Nat)
  batches : List (Nat × Nat × List (BitVec 32) × Nat)
  deriving DecidableEq, Repr, Inhabited

/-- A command register with its running command (R369, R447, R462). -/
structure Command where
  busy : Bool
  err : Bool
  op : BitVec 4
  target : BitVec 12
  deriving DecidableEq, Repr, Inhabited

/-- The timebase and the cycle counts (R6, R456). -/
structure Time where
  now : BitVec 64
  core : Nat
  fabric : Nat
  /-- Sixteenths of a nanosecond that have passed: a core cycle at 3.2 GHz takes 5 of them, a fabric cycle 8 (R6). -/
  parts : Nat
  /-- TBRATE. -/
  rate : BitVec 32
  /-- Nanoseconds still to be slewed out, in units of 2^-36. -/
  slew : Nat
  /-- Fraction of a nanosecond, in units of 2^-36. -/
  frac : Nat
  deriving DecidableEq, Repr, Inhabited

/-- The system, context and mapper windows (R445, R447, R449, R377). -/
structure Regs where
  ctxbase : BitVec 64
  ctxcmd : Command
  qtbase : BitVec 64
  qcmd : Command
  ttRun : Bool
  ttErr : Bool
  ttbase : BitVec 64
  ttperiod : BitVec 64
  tt : Tab TTEntry
  /-- Graph last started by the table. -/
  ttGraph : Option Nat
  /-- Timebase at which RUN was written; the instant last handled. -/
  ttSince : Nat
  ltol : BitVec 32
  trip : Bool
  fixedOn : Bool
  fixed : Bool
  pstate : BitVec 2
  /-- Timebase by which the wake under way ends. -/
  waking : Option Nat
  trail : BitVec 64
  trailwr : BitVec 64
  trailrd : BitVec 64
  traillost : BitVec 64
  peers : List (Bool × Nat)
  intstat : BitVec 8
  repair : Command
  /-- Whether the running repair operation has ended. -/
  repairDone : Bool
  repairAt : Nat
  mr : List (BitVec 256)
  /-- The shallot has extended MR0 to MR3. -/
  measured : BitVec 4
  extendLo : BitVec 256
  attest : BitVec 64
  attestBusy : Bool
  trailhash : BitVec 256
  ucie : List Bool
  stretch : Bool
  hold : Bool
  holdSince : Nat
  holdLimited : Bool
  /-- Stores performed when the last INVAL command was written (R20). -/
  invalAt : Nat
  deriving DecidableEq, Repr, Inhabited

/-- The form in which the package is supplied, with what the board fits (R1). -/
structure DeviceForm where
  /-- Bytes of GDDR 7. -/
  gddr : Nat
  /-- Power limit in milliwatts. -/
  limit : Nat
  deriving DecidableEq, Repr, Inhabited

/-- The machine. -/
structure State where
  /-- Fixed when the package is mounted; no step changes it (R1). -/
  form : DeviceForm
  /-- The moves still to be made, in order; then `Config.freeMove` says (the model's own). -/
  schedule : List Move
  /-- Moves taken from `Config.freeMove` so far (the model's own). -/
  turn : Nat
  /-- Free values used so far (the model's own). -/
  free : Nat
  /-- Next number for an operation, ticket, graph or workgroup (the model's own). -/
  next : Nat
  /-- Sheaf whose word is being issued. -/
  cur : Option Nat
  time : Time
  /-- Sheaves by core * 64 + slot. -/
  sheaves : Tab Sheaf
  wgs : Tab Workgroup
  cores : Tab Core
  pods : Tab Pod
  dies : Tab ComputeDie
  bases : Tab BaseDie
  ctxs : Tab Ctx
  graphs : Tab Graph
  queues : Tab Queue
  heads : Tab Head
  launches : Tab Launch
  /-- Records by die * 2^16 + entry, by context. -/
  recs : Tab (Tab Rec)
  mem : Memory
  /-- Bytes of global memory that are poison. -/
  poison : List Nat
  /-- Bytes of peer packages by package * 2^48 + address. -/
  peers : Memory
  ops : Tab LongOp
  regs : Regs
  /-- Lines that an atomic has made hot, with the fabric cycle of their last access (R275). -/
  hot : Tab Nat
  /-- 256-byte blocks that the compressor has written back compressed (R275). -/
  squeezed : List Nat
  /-- Stores performed at their homes so far, numbered in their order, and the bytes that the later ones replaced,
  newest first: number, address, bytes (R20). -/
  writes : Nat
  was : List (Nat × Nat × List Byte)
  deriving DecidableEq, Repr, Inhabited

/-! ### Reset (R328, R452, R328, R445 to R462) -/

/-- MAP and SPARE as R321 rebuilds them: the available banks in ascending order, the last one the
spare. -/
def banksOf (avail : BitVec 256) : List Nat :=
  (List.range 256).filter (fun p => avail.getLsbD p)

/-- The ring-store controller after reset (R328, R321). -/
def RingStore.reset (die : Nat) : RingStore where
  depth := 3
  rot := true
  avail := Config.repairMap die
  lost := 0
  newmap := 0
  target := 0
  go := false
  busy := false
  res := 0
  spare := (banksOf (Config.repairMap die)).getLastD 0
  map := (banksOf (Config.repairMap die)).dropLast
  rotating := none
  counts := []
  past := []
  window := 0
  nextRot := 4000000
  swap := []
  acorr := 0
  aunc := 0
  alog := []
  bretry := 0
  blog := []
  anext := 0
  bnext := 0
  seen := []
  bytes := []
  bad := []
  soft := []
  thermal := 0
  off := 0
  extents := []
  hold := false

/-- A peer port after reset (R452). -/
def Port.reset : Port := ⟨1000, 0, false, 0, false⟩

/-- A base die after reset. -/
def BaseDie.reset (die : Nat) : BaseDie := ⟨[], [], RingStore.reset die, Port.reset, [], [], 0⟩

/-- A command register after reset. -/
def Command.reset : Command := ⟨false, false, 0, 0⟩

/-- The timebase after reset. -/
def Time.reset : Time := ⟨0, 0, 0, 0, 0, 0, 0⟩

/-- The register windows after reset. -/
def Regs.reset : Regs where
  ctxbase := 0
  ctxcmd := Command.reset
  qtbase := 0
  qcmd := Command.reset
  ttRun := false
  ttErr := false
  ttbase := 0
  ttperiod := 0
  tt := []
  ttGraph := none
  ttSince := 0
  ltol := 0
  trip := false
  fixedOn := false
  fixed := false
  pstate := 0
  waking := none
  trail := 0
  trailwr := 0
  trailrd := 0
  traillost := 0
  peers := [(false, 0), (false, 0), (false, 0), (false, 0)]
  intstat := 0
  repair := Command.reset
  repairDone := false
  repairAt := 0
  mr := List.replicate 16 0
  measured := 0
  extendLo := 0
  attest := 0
  attestBusy := false
  trailhash := 0
  ucie := [true, true]
  stretch := false
  hold := false
  holdSince := 0
  holdLimited := false
  invalAt := 0

/-- The form SB4820M: 64 GiB and 740 W (R1). -/
def DeviceForm.module : DeviceForm := ⟨Config.gddrBytes, Config.powerLimit⟩

/-- The form SB4820 with `n` bytes fitted by the board maker: 650 W (R1). -/
def DeviceForm.package (n : Nat) : DeviceForm := ⟨n, Config.packageLimit⟩

/-- The machine right after package reset: no context, no queue, no work; every window register at
its reset value. -/
def State.reset : State where
  form := DeviceForm.module
  schedule := []
  turn := 0
  free := 0
  next := 0
  cur := none
  time := Time.reset
  sheaves := []
  wgs := []
  cores := []
  pods := []
  dies := []
  bases := [(0, BaseDie.reset 0), (1, BaseDie.reset 1)]
  ctxs := []
  graphs := []
  queues := []
  heads := []
  launches := []
  recs := []
  mem := []
  poison := []
  peers := []
  ops := []
  regs := Regs.reset
  hot := []
  squeezed := []
  writes := 0
  was := []

end Sys2Proof.Machine
end

