-- ==== Sys2Proof/Machine/Bits.lean ====
section
/-! DEFINITION. Tables by number, byte memories in canonical form, bit fields and little-endian
bytes (R12). -/

namespace Sys2Proof.Machine

/-! ### Tables -/

/-- The entry of number `k`. -/
def Tab.get {α : Type} : Tab α → Nat → Option α
  | [], _ => none
  | (i, a) :: t, k => if i = k then some a else Tab.get t k

/-- The entry of number `k` is `v`. -/
def Tab.put {α : Type} : Tab α → Nat → α → Tab α
  | [], k, v => [(k, v)]
  | (i, a) :: t, k, v =>
    if k < i then (k, v) :: (i, a) :: t else if i = k then (k, v) :: t else (i, a) :: Tab.put t k v

/-- Without the entry of number `k`. -/
def Tab.del {α : Type} (t : Tab α) (k : Nat) : Tab α := t.filter (fun p => p.1 ≠ k)

/-- The entry of number `k`, where there is one, changed by `f`. -/
def Tab.mod {α : Type} : Tab α → Nat → (α → α) → Tab α
  | [], _, _ => []
  | (i, a) :: t, k, f => if i = k then (i, f a) :: t else (i, a) :: Tab.mod t k f

/-- The numbers of the entries. -/
def Tab.keys {α : Type} (t : Tab α) : List Nat := t.map (·.1)

/-- The first number of an entry that meets `p`. -/
def Tab.findKey {α : Type} (t : Tab α) (p : Nat → α → Bool) : Option Nat :=
  (t.find? (fun e => p e.1 e.2)).map (·.1)

/-! ### Byte memories -/

/-- The byte at `a`. -/
def Memory.read : Memory → Nat → Byte
  | [], _ => Config.unlistedByte
  | (i, b) :: m, a => if i = a then b else Memory.read m a

/-- `b` stored at `a`, in the canonical form: no entry equals what an unlisted byte reads as. -/
def Memory.write : Memory → Nat → Byte → Memory
  | [], a, b => if b = Config.unlistedByte then [] else [(a, b)]
  | (i, c) :: m, a, b =>
    if a < i then (if b = Config.unlistedByte then (i, c) :: m else (a, b) :: (i, c) :: m)
    else if i = a then (if b = Config.unlistedByte then m else (a, b) :: m)
    else (i, c) :: Memory.write m a b

/-- Strictly rising addresses above `lo`, no entry equal to what an unlisted byte reads as. -/
def Memory.wfFrom : Nat → Memory → Bool
  | _, [] => true
  | lo, (i, b) :: m => decide (lo ≤ i) && b != Config.unlistedByte && Memory.wfFrom (i + 1) m

/-- The canonical form of a byte memory. -/
def Memory.wf (m : Memory) : Bool := Memory.wfFrom 0 m

/-- `n` bytes from `a` upwards. -/
def Memory.readN (m : Memory) (a n : Nat) : List Byte := (List.range n).map (fun i => m.read (a + i))

/-- Bytes stored from `a` upwards. -/
def Memory.writeN : Memory → Nat → List Byte → Memory
  | m, _, [] => m
  | m, a, b :: bs => Memory.writeN (m.write a b) (a + 1) bs

/-! ### Little-endian bytes (R12) -/

/-- The number whose bytes, least significant first, are given. -/
def leNat : List Byte → Nat
  | [] => 0
  | b :: bs => b.toNat + 256 * leNat bs

/-- The `n` low bytes of a number, least significant first. -/
def natBytes : Nat → Nat → List Byte
  | 0, _ => []
  | n + 1, x => BitVec.ofNat 8 x :: natBytes n (x / 256)

/-- The number held in `n` bytes from `a` upwards. -/
def Memory.num (m : Memory) (a n : Nat) : Nat := leNat (m.readN a n)

/-- `n` bytes from `a` upwards hold the low bytes of `x`. -/
def Memory.putNum (m : Memory) (a n x : Nat) : Memory := m.writeN a (natBytes n x)

/-- Words of 32 bits from bytes. -/
def bytesWords : Nat → List Byte → List Word
  | 0, _ => []
  | n + 1, bs => BitVec.ofNat 32 (leNat (bs.take 4)) :: bytesWords n (bs.drop 4)

/-- The bytes of a list of words. -/
def wordsBytes (ws : List Word) : List Byte := (ws.map (fun w => natBytes 4 w.toNat)).flatten

/-! ### Bit fields -/

/-- Bits `lo + n - 1 : lo` of a number. -/
def bits (x lo n : Nat) : Nat := x / 2 ^ lo % 2 ^ n

/-- Bit `i` of a number. -/
def bit (x i : Nat) : Bool := x / 2 ^ i % 2 == 1

/-- A number with bits `lo + n - 1 : lo` replaced by the low bits of `v`. -/
def setBits (x lo n v : Nat) : Nat := x - bits x lo n * 2 ^ lo + v % 2 ^ n * 2 ^ lo

/-- The low `n` bits of a number read as two's complement. -/
def sext (n x : Nat) : Int := let y := x % 2 ^ n; if 2 * y < 2 ^ n then y else (y : Int) - 2 ^ n

/-- An integer as its low 32 bits. -/
def wordOf (x : Int) : Word := BitVec.ofInt 32 x

/-- 1 or 0. -/
def b2n (b : Bool) : Nat := if b then 1 else 0

/-- The mask of a list of bit numbers. -/
def maskOf (l : List Nat) : BitVec 64 := l.foldl (fun m t => m ||| BitVec.ofNat 64 (2 ^ t)) 0

/-- The bit numbers of a mask below `n`, ascending. -/
def bitsOf (n : Nat) (m : BitVec 64) : List Nat := (List.range n).filter (fun t => m.getLsbD t)

/-- A sum of powers: concatenation of fields given as (value, width), the most significant first. -/
def cat : List (Nat × Nat) → Nat
  | [] => 0
  | (v, n) :: l => v % 2 ^ n * 2 ^ (l.map (·.2)).sum + cat l

/-- Integer division rounding up. -/
def ceilDiv (a b : Nat) : Nat := (a + b - 1) / b

/-- `l` with its entry `i` changed. -/
def modAt {α : Type} (l : List α) (i : Nat) (f : α → α) : List α := l.modify i f

/-- Two register ranges overlap (R123). -/
def overlap (a n b m : Nat) : Bool := a < b + m && b < a + n

/-- One step of `f` for each entry of a list. -/
def each {α σ : Type} (l : List α) (f : α → σ → σ) (s : σ) : σ := l.foldl (fun s a => f a s) s

end Sys2Proof.Machine
end

