-- ==== Sys2Proof/Machine/Operands.lean ====
section
/-! DEFINITION. Operand fields: what a source field reads, what a destination field writes and how
consume taint passes (R35, R36, R39, R119, R285). -/

namespace Sys2Proof.Machine

/-- Thread `t` of a sheaf. -/
def Sheaf.thread (sh : Sheaf) (t : Nat) : Thread := sh.threads.getD t default

/-- A sheaf with thread `t` changed. -/
def Sheaf.modThread (sh : Sheaf) (t : Nat) (f : Thread → Thread) : Sheaf :=
  { sh with threads := modAt sh.threads t f }

/-- `ReadOperand` in the lane of thread `t` (R35, R39). -/
def Sheaf.read (sh : Sheaf) (imm : Word) (t : Nat) (v : BitVec 8) : Word :=
  let n := v.toNat
  if n < 0xC0 then (sh.thread t).v.getD n 0
  else if n < 0xF0 then sh.s.getD (n - 0xC0) 0
  else if n = 0xF1 then BitVec.ofNat 32 (sh.lane0 + t)
  else if n = 0xF2 then BitVec.ofNat 32 t
  else if n = 0xF8 then imm
  else 0

/-- Consume taint of an operand field in the lane of thread `t` (R285). -/
def Sheaf.taintOf (sh : Sheaf) (t : Nat) (v : BitVec 8) : Bool :=
  let n := v.toNat
  if n < 0xC0 then (sh.thread t).taint.getLsbD n
  else if n < 0xF0 then sh.staint.getLsbD (n - 0xC0)
  else false

/-- The operand field of the `i`-th register from `v` upwards; 0xF0 and the other values that name no
register stand for themselves (R119). -/
def regAt (v : BitVec 8) (i : Nat) : BitVec 8 := if v.toNat < 0xF0 then v + BitVec.ofNat 8 i else v

/-- The operand fields of `n` registers. -/
def regRun (v : BitVec 8) (n : Nat) : List (BitVec 8) := (List.range n).map (regAt v)

/-- `n` registers read from `v` upwards. -/
def Sheaf.readRun (sh : Sheaf) (imm : Word) (t : Nat) (v : BitVec 8) (n : Nat) : List Word :=
  (regRun v n).map (sh.read imm t)

/-- A field that is not a pair reads one 32-bit value (R119). -/
def single (v : BitVec 8) : Bool := v.toNat > 0xF0

/-- A register pair as a 64-bit value; a field that names one value is extended, with its sign when
`signed` (R119). -/
def Sheaf.readPair (sh : Sheaf) (imm : Word) (t : Nat) (v : BitVec 8) (signed : Bool) : BitVec 64 :=
  if single v then
    (if signed then (sh.read imm t v).signExtend 64 else (sh.read imm t v).zeroExtend 64)
  else sh.read imm t (regAt v 1) ++ sh.read imm t v

/-- Consume taint of `n` registers. -/
def Sheaf.taintRun (sh : Sheaf) (t : Nat) (v : BitVec 8) (n : Nat) : Bool :=
  (regRun v n).any (sh.taintOf t)

/-- One vector register of a thread with its taint. -/
def Thread.setV (th : Thread) (n : Nat) (x : Word) (taint : Bool) : Thread :=
  { th with
    v := th.v.set n x
    taint := if taint then th.taint ||| BitVec.ofNat 192 (2 ^ n)
      else th.taint &&& ~~~ BitVec.ofNat 192 (2 ^ n) }

/-- `WriteLane` of one register field in the lane of thread `t` (R39). -/
def Sheaf.write (sh : Sheaf) (v : BitVec 8) (t : Nat) (x : Word) (taint : Bool) : Sheaf :=
  let n := v.toNat
  if n < 0xC0 then sh.modThread t (fun th => th.setV n x taint)
  else if n < 0xF0 then
    { sh with
      s := sh.s.set (n - 0xC0) x
      staint := if taint then sh.staint ||| BitVec.ofNat 48 (2 ^ (n - 0xC0))
        else sh.staint &&& ~~~ BitVec.ofNat 48 (2 ^ (n - 0xC0)) }
  else sh

/-- `WriteLane` for an issue group: each lane of a vector register, the first lane for a scalar
register, nothing for 0xF0 (R39).  The lanes are given in ascending order. -/
def Sheaf.writeGroup (sh : Sheaf) (v : BitVec 8) (l : List (Nat × Word × Bool)) : Sheaf :=
  if v.toNat < 0xC0 then each l (fun p sh => sh.write v p.1 p.2.1 p.2.2) sh
  else match l with
    | [] => sh
    | p :: _ => sh.write v p.1 p.2.1 p.2.2

/-- What one lane computes: the values of the destination registers from D upwards with their
taints, and the bits it sets in `sr.ast`. -/
structure LaneOut where
  thread : Nat
  vals : List (Word × Bool)
  ast : Word := 0
  deriving DecidableEq, Repr, Inhabited

/-- The writes of an issue group to the registers from `d` upwards. -/
def Sheaf.writeRegs (sh : Sheaf) (d : BitVec 8) (n : Nat) (l : List LaneOut) : Sheaf :=
  each (List.range n)
    (fun i sh => sh.writeGroup (regAt d i) (l.map (fun o => (o.thread, o.vals.getD i (0, false))))) sh

/-- Sticky flags set in the lanes (R79). -/
def Sheaf.orAst (sh : Sheaf) (l : List LaneOut) : Sheaf :=
  each l (fun o sh => sh.modThread o.thread (fun th => { th with ast := th.ast ||| o.ast })) sh

/-- Whether a guard holds in the lane of thread `t` (R36). -/
def Guard.holds (g : Guard) (sh : Sheaf) (t : Nat) : Bool :=
  ((sh.read 0 t g.reg).getLsbD g.bit.toNat) ^^ g.neg

/-- Whether both guards of an instruction hold in the lane of thread `t` (R32, R36). -/
def Fields.holds (f : Fields) (sh : Sheaf) (t : Nat) : Bool :=
  Guard.holds f.g1 sh t && Guard.holds f.g2 sh t

/-- Instructions that have no effect in the lane of a helper (R401). -/
def skipsHelpers : Instr → Bool
  | .st _ | .stSub _ | .stRel _ | .atom _ | .atomCas _ | .red _ | .stk _ | .rcn _ | .recAlloc _
  | .recPut _ | .recCommit _ | .emitp _ | .cont _ | .vism _ | .blend _ => true
  | .cpa f => f.mod 2 1 == 1
  | _ => false

/-- The thread is a helper (R400). -/
def Thread.helper (th : Thread) : Bool :=
  match th.raster with
  | some r => r.helper
  | none => th.bare

/-- The threads of a group in which the guards hold (R36). -/
def guarded (i : Instr) (sh : Sheaf) (group : List Nat) : List Nat :=
  match i.isa? with
  | some (_, _, f) => group.filter (Fields.holds f sh)
  | none => group

/-- The threads of a group in which an instruction acts; pair words are unguarded (R33, R36, R401). -/
def actors (i : Instr) (sh : Sheaf) (group : List Nat) : List Nat :=
  (guarded i sh group).filter (fun t => !(skipsHelpers i && (sh.thread t).helper))

/-- The registers from 0 (vector) and 0xC0 (scalar) that a role names (R25). -/
def roleRegs (r : Role) (v : BitVec 8) : List Nat :=
  let n := match r with
    | .unused | .raw => 0
    | .reg => 1
    | .src n | .dst n | .vec n | .vecDst n => n
  if v.toNat < 0xF0 then (List.range n).map (fun i => v.toNat + i) else []

/-- The registers that an instruction's guards read. -/
def guardRegs (i : Instr) : List Nat :=
  match i.isa? with
  | some (_, _, f) => roleRegs .reg f.g1.reg ++ roleRegs .reg f.g2.reg
  | none => []

/-- The registers an instruction names as operands and destinations. -/
def namedRegs (width : Nat) (i : Instr) : List Nat :=
  match i with
  | .pairWord x y => ([x.d, x.a, x.b, y.d, y.a, y.b].map (·.toNat)).filter (· < 0xF0)
  | i =>
    match i.isa? with
    | some (_, _, f) =>
      let sp := i.shape width
      roleRegs sp.d f.d ++ roleRegs sp.a f.a ++ roleRegs sp.b f.b ++ roleRegs sp.c f.c ++ roleRegs sp.e f.e
    | none => []

end Sys2Proof.Machine
end

