-- ==== Sys2Proof/Machine/Flags.lean ====
section
/-! DEFINITION. The sticky bits of `sr.ast` (R79) and the status bits of accumulator tiles (R203). -/

namespace Sys2Proof.Machine

/-- Inexact. -/
def astNX : Word := 1
/-- Underflow. -/
def astUF : Word := 2
/-- Overflow. -/
def astOF : Word := 4
/-- Division by zero. -/
def astDZ : Word := 8
/-- Invalid operation. -/
def astNV : Word := 16
/-- Integer division edge case. -/
def astDIV : Word := 32
/-- Integer saturation. -/
def astSAT : Word := 64
/-- Conversion. -/
def astCVT : Word := 128

/-- A sticky bit when a condition holds. -/
def flagIf (c : Bool) (w : Word) : Word := if c then w else 0

/-- Clamping to a range, with whether it changed the value (R39). -/
def clamp (lo hi x : Int) : Int × Bool :=
  if x < lo then (lo, true) else if hi < x then (hi, true) else (x, false)

/-- `Sat` to signed 32 bits (R39). -/
def satI32 (x : Int) : Int × Bool := clamp (-(2 ^ 31)) (2 ^ 31 - 1) x

/-- `Sat` to unsigned 32 bits (R39). -/
def satN32 (x : Int) : Int × Bool := clamp 0 (2 ^ 32 - 1) x

/-- Narrowing of an exact integer result by the modifier 0 wrap, 1 signed, 2 unsigned saturation, with
the SAT flag (R126). -/
def narrow (mode : Nat) (x : Int) : Word × Word :=
  if mode = 1 then let y := satI32 x; (wordOf y.1, flagIf y.2 astSAT)
  else if mode = 2 then let y := satN32 x; (wordOf y.1, flagIf y.2 astSAT)
  else (wordOf x, 0)

end Sys2Proof.Machine
end

