-- ==== Sys2Proof/Machine/Parts.lean ====
section
/-! DEFINITION. Named access to the parts of the state: one function that reads and one that changes
each part. A part with no entry in its table is in its default state. -/

namespace Sys2Proof.Machine

/-- A core with no work (R4). -/
def Core.reset : Core where
  current := none
  nextAge := 0
  gens := []
  l1 := []
  tlb := []
  fetchFrom := 0
  copies := []
  reqs := []
  kick := 0
  jobs := []
  fmt := []
  fifo := []
  rfifo := []
  fenced := false
  incoming := none

/-- A pod with idle engines. -/
def Pod.reset : Pod := ⟨[], []⟩

/-- A compute die after reset (R226, R227). -/
def ComputeDie.reset : ComputeDie := ⟨[], [], [], 0, 0, [], none, []⟩

/-- A weight-store region that is not used (R227). -/
def Region.reset : Region := ⟨0, 0, false, 0, 0, 0, 0, 0, none⟩

/-- A disabled queue (R368). -/
def Queue.reset : Queue := ⟨.disabled, 0, 0, 0, 0, 0, 0, 0, 0⟩

/-- A display head after reset (R455). -/
def Head.reset : Head := ⟨0, [], 0, none, none, false, none, false, []⟩

/-- A launch unit with nothing to place (R379). -/
def Launch.reset : Launch := ⟨none, [], []⟩

/-- The sheaf in slot `sid` (core * 64 + slot). -/
def State.sheaf (s : State) (sid : Nat) : Sheaf := (s.sheaves.get sid).getD default

/-- The sheaf in slot `sid`, where there is one, changed. -/
def State.modSheaf (s : State) (sid : Nat) (f : Sheaf → Sheaf) : State :=
  { s with sheaves := s.sheaves.mod sid f }

/-- A workgroup. -/
def State.wg (s : State) (w : Nat) : Workgroup := (s.wgs.get w).getD default

/-- A workgroup changed. -/
def State.modWg (s : State) (w : Nat) (f : Workgroup → Workgroup) : State :=
  { s with wgs := s.wgs.mod w f }

/-- A core. -/
def State.core (s : State) (c : Nat) : Core := (s.cores.get c).getD Core.reset

/-- A core changed. -/
def State.modCore (s : State) (c : Nat) (f : Core → Core) : State :=
  { s with cores := s.cores.put c (f (s.core c)) }

/-- A pod. -/
def State.pod (s : State) (p : Nat) : Pod := (s.pods.get p).getD Pod.reset

/-- A pod changed. -/
def State.modPod (s : State) (p : Nat) (f : Pod → Pod) : State :=
  { s with pods := s.pods.put p (f (s.pod p)) }

/-- A compute die. -/
def State.die (s : State) (d : Nat) : ComputeDie := (s.dies.get d).getD ComputeDie.reset

/-- A compute die changed. -/
def State.modDie (s : State) (d : Nat) (f : ComputeDie → ComputeDie) : State :=
  { s with dies := s.dies.put d (f (s.die d)) }

/-- A base die. -/
def State.base (s : State) (d : Nat) : BaseDie := (s.bases.get d).getD (BaseDie.reset d)

/-- A base die changed. -/
def State.modBase (s : State) (d : Nat) (f : BaseDie → BaseDie) : State :=
  { s with bases := s.bases.put d (f (s.base d)) }

/-- A base die's ring-store controller changed. -/
def State.modRing (s : State) (d : Nat) (f : RingStore → RingStore) : State :=
  s.modBase d (fun b => { b with ring := f b.ring })

/-- A loaded context changed. -/
def State.modCtx (s : State) (n : Nat) (f : Ctx → Ctx) : State := { s with ctxs := s.ctxs.mod n f }

/-- A context, the all-zero one when it is not loaded. -/
def State.ctx (s : State) (n : Nat) : Ctx := (s.ctxs.get n).getD default

/-- A graph. -/
def State.graph (s : State) (g : Nat) : Graph := (s.graphs.get g).getD default

/-- A graph changed. -/
def State.modGraph (s : State) (g : Nat) (f : Graph → Graph) : State :=
  { s with graphs := s.graphs.mod g f }

/-- A queue. -/
def State.queue (s : State) (q : Nat) : Queue := (s.queues.get q).getD Queue.reset

/-- A queue changed. -/
def State.modQueue (s : State) (q : Nat) (f : Queue → Queue) : State :=
  { s with queues := s.queues.put q (f (s.queue q)) }

/-- A pass of a graph as it runs. -/
def State.passRun (s : State) (g p : Nat) : PassRun := (s.graph g).runs.getD p default

/-- A pass of a graph as it runs, changed. -/
def State.modPassRun (s : State) (g p : Nat) (f : PassRun → PassRun) : State :=
  s.modGraph g (fun gr => { gr with runs := modAt gr.runs p f })

/-- A tile of a pass as the scoreboard holds it, where it does. -/
def State.tileRun (s : State) (g p t : Nat) : Option TileRun := (s.passRun g p).tiles.get t

/-- A tile of a pass changed. -/
def State.modTile (s : State) (g p t : Nat) (f : TileRun → TileRun) : State :=
  s.modPassRun g p (fun r => { r with tiles := r.tiles.mod t f })

/-- The pixel quad of a pixel within its raster tile (R407). -/
def quadOf (x y : Nat) : Nat := y / 2 % 32 * 32 + x / 2 % 32

/-- One share of a token given back; a token whose shares are all released leaves its queue (R407). -/
def releaseShare (q : Tab (List Token)) (quad number pos : Nat) : Tab (List Token) :=
  q.mod quad (fun l => (l.map (fun k =>
    if k.number = number then { k with shares := k.shares &&& ~~~ BitVec.ofNat 4 (2 ^ pos) } else k)).filter
      (fun k => k.shares ≠ 0))

/-- Thread `t` of a sheaf gives back its token share (R407). -/
def State.releaseToken (s : State) (sid t : Nat) : State :=
  let sh := s.sheaf sid
  match (sh.thread t).raster with
  | none => s
  | some r =>
    match r.token with
    | none => s
    | some n =>
      let w := s.wg sh.wg
      let s := s.modTile w.graph w.pass w.tile
        (fun tr => { tr with blend := releaseShare tr.blend (quadOf r.x r.y) n (t % 4) })
      s.modSheaf sid (fun sh => sh.modThread t (fun th => { th with raster := some { r with token := none } }))

/-- The window registers changed. -/
def State.modRegs (s : State) (f : Regs → Regs) : State := { s with regs := f s.regs }

/-- An operation in flight changed. -/
def State.modOp (s : State) (o : Nat) (f : LongOp → LongOp) : State := { s with ops := s.ops.mod o f }

/-- A new number for an operation, ticket, graph or workgroup. -/
def State.fresh (s : State) : Nat × State := (s.next, { s with next := s.next + 1 })

/-- A choice that the manual leaves open. -/
def State.flip (s : State) : Bool × State := (Config.freeBit s.free, { s with free := s.free + 1 })

/-- An open choice of one number below `n`. -/
def State.pick (s : State) (n : Nat) : Nat × State :=
  (Config.freeNat s.free % n, { s with free := s.free + 1 })

/-- A 32-bit value that the manual leaves undefined. -/
def State.undef (s : State) : Word × State := (Config.freeWord s.free, { s with free := s.free + 1 })

/-- An interrupt status bit is set (R449). -/
def State.interrupt (s : State) (b : Nat) : State :=
  s.modRegs (fun r => { r with intstat := r.intstat ||| BitVec.ofNat 8 (2 ^ b) })

/-- The core of a sheaf slot. -/
def coreOf (sid : Nat) : Nat := sid / 64

/-- The slot number of a sheaf slot. -/
def slotOf (sid : Nat) : Nat := sid % 64

/-- The base die of a core (R2). -/
def baseOfCore (c : Nat) : Nat := c / 128

/-- The home base die of a physical address (R265). -/
def homeDie (pa : Nat) : Nat := b2n (bit pa 12 ^^ bit pa 21 ^^ bit pa 30)

/-- Threads of a sheaf that are not exited. -/
def Sheaf.liveThreads (sh : Sheaf) : List Nat :=
  (List.range sh.width).filter (fun t => (sh.thread t).st ≠ .exited)

/-- Sheaves of a context. -/
def State.sheavesOf (s : State) (ctx : Nat) : List Nat :=
  (s.sheaves.filter (fun p => p.2.ctx = ctx)).map (·.1)

/-- The timebase in nanoseconds. -/
def State.now (s : State) : Nat := s.time.now.toNat

/-! ### Format-table banks (R85) -/

/-- A table bank from its image: the entries that differ from the identity (R85). -/
def bankOf (bs : List Byte) : Tab (BitVec 16) :=
  ((List.range 256).map (fun c => (c, BitVec.ofNat 16 (leNat ((bs.drop (2 * c)).take 2))))).filter
    (fun p => p.2.toNat ≠ p.1)

/-- The image of a table bank (R85). -/
def bankBytes (b : Tab (BitVec 16)) : List Byte :=
  (List.range 256).flatMap (fun c => natBytes 2 ((b.get c).getD (BitVec.ofNat 16 c)).toNat)

end Sys2Proof.Machine
end

