-- ==== Sys2Proof/Machine/Mem.lean ====
section
/-! DEFINITION. Global memory below the threads: physical memory, compression metadata, plural cells,
page walks and translations, and the accesses that the device itself makes (R258 to R271, R275,
R302 to R308, R315, R421). -/

namespace Sys2Proof.Machine

/-! ### The context descriptor (R446) -/

/-- A field of the live descriptor. -/
def Ctx.field (c : Ctx) (lo n : Nat) : Nat := bits c.desc.toNat lo n

/-- Physical address of the level-0 page table. -/
def Ctx.root (c : Ctx) : Nat := c.field 990 34 * 2 ^ 14

/-- Virtual address of the handler entry clause. -/
def Ctx.handler (c : Ctx) : Nat := c.field 941 49 * 8

/-- Whether the context is replayable (R269). -/
def Ctx.replayable (c : Ctx) : Bool := c.field 1 1 == 1

/-! ### Physical memory -/

/-- Register windows lie at and above this physical address (R264, R445). -/
def windowBase : Nat := 0x001000000000

/-- All of `n` bytes from `pa` lie in GDDR 7 (R1, R264). -/
def State.inGddr (s : State) (pa n : Nat) : Bool := decide (pa + n ≤ s.form.gddr)

/-- Some byte of a range holds poison or an uncorrectable error. -/
def State.poisoned (s : State) (pa n : Nat) : Bool := s.poison.any (fun a => pa ≤ a && a < pa + n)

/-- The bytes that a store replaces at its home are kept: a fetch cache may still hold them (R20).  Before the
first workgroup is placed no clause has been fetched. -/
def State.remember (s : State) (key : Nat) (old : List Byte) : State :=
  if s.wgs.isEmpty then s else { s with writes := s.writes + 1, was := (s.writes, key, old) :: s.was }

/-- Bytes stored in GDDR 7. -/
def State.poke (s : State) (pa : Nat) (bs : List Byte) : State :=
  { s.remember pa (s.mem.readN pa bs.length) with mem := s.mem.writeN pa bs }

/-- A number that names a byte at its home: peer packages lie apart from the own memory. -/
def homeKey (ca pkg pa : Nat) : Nat := if ca = 3 then (pkg + 1) * 2 ^ 48 + pa else pa

/-- Bytes stored in a peer package. -/
def State.pokePeer (s : State) (pkg pa : Nat) (bs : List Byte) : State :=
  let a := pkg * 2 ^ 48 + pa
  { s.remember (homeKey 3 pkg pa) (s.peers.readN a bs.length) with peers := s.peers.writeN a bs }

/-- The pieces of a range that fall in aligned cells of `size` bytes: cell address, offset in the
cell, index of the first byte, length. -/
def pieces (size pa n : Nat) : List (Nat × Nat × Nat × Nat) :=
  ((List.range (n / size + 2)).map (fun i =>
    let cell := (pa / size + i) * size
    let lo := max cell pa
    let hi := min (cell + size) (pa + n)
    (cell, lo - cell, lo - pa, hi - lo))).filter (fun p => 0 < p.2.2.2)

/-- `n` bytes whose values the manual leaves open, at `pa`. -/
def State.openBytes (s : State) (pa n : Nat) : List Byte :=
  (List.range n).map (fun i => Config.freeByte (s.free * 2 ^ 48 + pa + i))

/-- A buffer descriptor of a context (R275). -/
def State.bufDesc (s : State) (c : Ctx) (i : Nat) : Nat :=
  s.mem.num (c.field 754 44 * 16 + 16 * i) 16

/-- A buffer descriptor is valid (R275). -/
def bufValid (d : Nat) : Bool := bit d 0 && bits d 1 29 == 0

/-- The metadata nibble of the 256-byte block that holds `pa`, 0 for bytes outside the buffer
(R275). -/
def State.blockCode (s : State) (d pa : Nat) : Nat :=
  let base := bits d 96 32 * 65536
  if bufValid d ∧ base ≤ pa ∧ pa < base + (bits d 72 24 + 1) * 65536 then
    let k := (pa - base) / 256
    bits ((s.mem.read (bits d 32 40 * 256 + k / 2)).toNat) (4 * (k % 2)) 4
  else 0

/-! ### Translation (R260 to R269) -/

/-- Kinds of access (R268, R270). -/
inductive Access where
  | load | store | atomic | fetch
  deriving DecidableEq, Repr, Inhabited

/-- A page as a translation gives it: the physical address of the byte, and the leaf entry. -/
structure Leaf where
  pa : Nat
  entry : Nat
  deriving DecidableEq, Repr, Inhabited

/-- Cache attribute (R263). -/
def Leaf.ca (l : Leaf) : Nat := bits l.entry 7 2

/-- The page is plural (R302). -/
def Leaf.plural (l : Leaf) : Bool := bit l.entry 5

/-- Bytes of a plural cell (R302). -/
def Leaf.cell (l : Leaf) : Nat := if bit l.entry 6 then 8 else 4

/-- Peer package (R262). -/
def Leaf.peer (l : Leaf) : Nat := bits l.entry 62 2

/-- Buffer descriptor index (R262). -/
def Leaf.bdi (l : Leaf) : Nat := bits l.entry 48 12

/-- The byte's name at its home. -/
def Leaf.key (l : Leaf) : Nat := homeKey l.ca l.peer l.pa

/-- Lowest index bit of a level's index (R260). -/
def levelShift : Nat → Nat
  | 0 => 41
  | 1 => 30
  | 2 => 21
  | _ => 16

/-- Index bits of a level (R260). -/
def levelBits : Nat → Nat
  | 0 => 11
  | 1 => 11
  | 2 => 9
  | _ => 5

/-- A leaf entry at `level` is malformed (R262). -/
def State.badLeaf (s : State) (c : Ctx) (level e : Nat) : Bool :=
  let ca := bits e 7 2
  let pa := bits e 16 32 * 65536
  level == 0 || bits e 60 2 != 0 || bits e 11 5 != 0 ||
  (level == 1 && bits e 16 14 != 0) || (level == 2 && bits e 16 5 != 0) ||
  (bits e 62 2 != 0 && ca != 3) ||
  (bits e 48 12 != 0 && !bufValid (s.bufDesc c (bits e 48 12))) ||
  (bit e 5 && 2 ≤ ca) ||
  (windowBase ≤ pa && ca != 2)

/-- A table entry at `level` is malformed (R261, R262). -/
def badTable (level e : Nat) : Bool :=
  level == 3 || bits e 48 16 != 0 || bits e 2 6 != 0 ||
  (level == 0 && bits e 8 6 != 0) || (level == 1 && bits e 8 4 != 0)

/-- The end of a walk: a leaf entry with its address and page size in bits, an entry that is not
present, or a fault's sub-code. -/
inductive Walked where
  | leaf (at_ entry size : Nat)
  | absent
  | bad (sub : Nat)
  deriving DecidableEq, Repr, Inhabited

/-- The walk of R260 from the table at `table` of level `level`, `fuel` levels deep. -/
def State.walkFrom (s : State) (c : Ctx) (va : Nat) : Nat → Nat → Nat → Walked
  | 0, _, _ => .bad 5
  | fuel + 1, level, table =>
    let a := table + 8 * bits va (levelShift level) (levelBits level)
    if !s.inGddr a 8 then .bad 6
    else
      let e := s.mem.num a 8
      if !bit e 0 then .absent
      else if bit e 1 then
        (if s.badLeaf c level e then .bad 5 else .leaf a e (levelShift level))
      else if badTable level e then .bad 5
      else s.walkFrom c va fuel (level + 1) (bits e 8 40 * 256)

/-- A walk from the root. -/
def State.walk (s : State) (c : Ctx) (va : Nat) : Walked := s.walkFrom c va 4 0 c.root

/-- The addresses of the entries that a walk reads. -/
def State.walkReads (s : State) (va : Nat) : Nat → Nat → Nat → List Nat
  | 0, _, _ => []
  | fuel + 1, level, table =>
    let a := table + 8 * bits va (levelShift level) (levelBits level)
    let e := s.mem.num a 8
    if !s.inGddr a 8 then []
    else a :: (if bit e 0 && !bit e 1 && !badTable level e then s.walkReads va fuel (level + 1) (bits e 8 40 * 256) else [])

/-- What a translation gives an access; `away` where an entry's home does not answer now (R5, R451). -/
inductive Xlate where
  | ok (l : Leaf)
  | absent
  | bad (sub : Nat)
  | away
  deriving DecidableEq, Repr, Inhabited

/-- The leaf of `va` under an entry that maps `2 ^ size` bytes. -/
def leafAt (va entry size : Nat) : Leaf :=
  ⟨bits entry 16 32 * 65536 / 2 ^ size * 2 ^ size + va % 2 ^ size, entry⟩

/-- Whether a leaf permits an access (R262, R268 sub-code 4). -/
def permits (e : Nat) (acc : Access) (priv : Bool) : Bool :=
  (priv || !bit e 4) &&
  (match acc with
    | .load => true
    | .store | .atomic => bit e 2
    | .fetch => bit e 3)

/-- A part over base die `die` (on either die where it is none) reaches die `d`: across UCIe over either link (R5, R451). -/
def State.joins (s : State) (die : Option Nat) (d : Nat) : Bool :=
  s.regs.ucie.any id || (match die with
    | none => true
    | some x => d == x)

/-- A leaf entry with ACC set, and DIRTY for a store or atomic (R262). -/
def marked (e : Nat) (acc : Access) : Nat :=
  let e := setBits e 9 1 1
  if acc = .store ∨ acc = .atomic then setBits e 10 1 1 else e

/-- ACC, and DIRTY for a store or atomic, set by an atomic OR at the entry's home (R262). -/
def State.markEntry (s : State) (a : Nat) (acc : Access) : State :=
  let e := s.mem.num a 8
  if marked e acc = e then s else s.poke a (natBytes 8 (marked e acc))

/-- What an access that is permitted does to its leaf entry; `mark` is off for what only looks at a page. -/
def State.reached (s : State) (at_ : Nat) (acc : Access) (mark : Bool) : State :=
  if mark then s.markEntry at_ acc else s

/-- Cached translations of a context that cover `va`, in the cache of a core and in its die's (R266). -/
def State.cached (s : State) (core : Option Nat) (ctx va : Nat) : List Trans :=
  match core with
  | none => []
  | some c => ((s.core c).tlb ++ (s.die (c / 32)).tlb).filter
      (fun t => t.ctx = ctx ∧ t.va / 2 ^ t.bits = va / 2 ^ t.bits)

/-- A translation in a cache of `n` entries; the oldest one makes room.  DESIGN CHOICE (log 74): which. -/
def tlbPut (n : Nat) (t : Trans) (l : List Trans) : List Trans := if t ∈ l then l else (t :: l).take n

/-- A translation is filled into the caches of a core and of its die (R11, R266). -/
def State.fillTlb (s : State) (core : Option Nat) (t : Trans) : State :=
  match core with
  | none => s
  | some c => (s.modCore c (fun k => { k with tlb := tlbPut 64 t k.tlb })).modDie (c / 32)
      (fun d => { d with tlb := tlbPut 4096 t d.tlb })

/-- A fresh walk for an access, with the fill of the caches; the walker stands on base die `die` (R265, R266). -/
def State.xlateFresh (s : State) (ctx va : Nat) (acc : Access) (priv : Bool) (core : Option Nat) (mark : Bool)
    (die : Option Nat) : Xlate × State :=
  if !(s.walkReads va 4 0 (s.ctx ctx).root).all (fun a => s.joins die (homeDie a)) then (.away, s)
  else match s.walk (s.ctx ctx) va with
  | .bad n => (.bad n, s)
  | .absent => (.absent, s)
  | .leaf a e n =>
    let s := s.fillTlb core ⟨ctx, va / 2 ^ n * 2 ^ n, n, BitVec.ofNat 64 e, a⟩
    if permits e acc priv then (.ok (leafAt va e n), s.reached a acc mark) else (.bad 4, s)

/-- A cached translation is what a walk would find now, but for ACC and DIRTY. -/
def State.current (s : State) (ctx va : Nat) (t : Trans) : Bool :=
  match s.walk (s.ctx ctx) va with
  | .leaf a e n => t.bits == n && t.entry == a && setBits t.leaf.toNat 9 2 0 == setBits e 9 2 0
  | _ => false

/-- An access through a cached translation. -/
def State.xlateCached (s : State) (va : Nat) (t : Trans) (acc : Access) (priv mark : Bool) (die : Option Nat) : Xlate × State :=
  let e := s.mem.num t.entry 8
  if !permits t.leaf.toNat acc priv then (.bad 4, s)
  else if mark && marked e acc != e && !s.joins die (homeDie t.entry) then (.away, s)
  else (.ok (leafAt va t.leaf.toNat t.bits), s.reached t.entry acc mark)

/-- The base die on or over which a requester stands: its core's, or `die`. -/
def seatDie (core die : Option Nat) : Option Nat := (core.map baseOfCore).or die

/-- Translation of a virtual address for a requester of core `core`, or of base die `die` (R259, R266 to R268): sub-code 1
first, then a cached entry or a fresh walk, whichever the open choice takes where they differ (R267). -/
def State.xlate (s : State) (ctx va : Nat) (acc : Access) (priv : Bool) (core : Option Nat := none)
    (mark : Bool := true) (die : Option Nat := none) : Xlate × State :=
  let at_ := seatDie core die
  if 2 ^ 52 ≤ va then (.bad 1, s)
  else
    match s.cached core ctx va with
    | [] => s.xlateFresh ctx va acc priv core mark at_
    | t :: ts =>
      if (t :: ts).all (s.current ctx va) then s.xlateCached va t acc priv mark at_
      else
        let (useOld, s) := s.flip
        if useOld then
          let (i, s) := s.pick (ts.length + 1)
          s.xlateCached va ((t :: ts).getD i t) acc priv mark at_
        else s.xlateFresh ctx va acc priv core mark at_

/-! ### The way to a home (R5, R288, R451, R452) -/

/-- The port through which a package is reached. -/
def State.peerPort (s : State) (pkg : Nat) : Nat := (s.regs.peers.getD pkg (false, 0)).2 % 2

/-- The link to a package is down (R452). -/
def State.linkDown (s : State) (pkg : Nat) : Bool :=
  let p := s.regs.peers.getD pkg (false, 0)
  let port := (s.base (p.2 % 2)).port
  !p.1 || !port.en || port.state == 0

/-- The link to a package carries messages. -/
def State.linkUp (s : State) (pkg : Nat) : Bool :=
  !s.linkDown pkg && (s.base (s.peerPort pkg)).port.state == 2

/-- An access of a core, or of a part on base die `die`, reaches the base die that holds the home, or the port, of a page:
one on the other die crosses UCIe, over either link (R5, R265, R450, R451). -/
def State.crosses (s : State) (core : Option Nat) (l : Leaf) (die : Option Nat := none) : Bool :=
  s.joins (seatDie core die) (if l.ca = 3 then s.peerPort l.peer else homeDie l.pa)

/-- The port has an engine's store to a package that is not performed: nothing that is not posted overtakes it (R182,
R288). -/
def State.peerBehind (s : State) (pkg : Nat) : Bool :=
  (s.base (s.peerPort pkg)).posted.any (fun p => p.2.engine && p.2.pkg == pkg && !p.2.performed)

/-- A page whose home answers now: UCIe carries the access where it has to cross, and a peer's link is up. -/
def State.open_ (s : State) (core : Option Nat) (l : Leaf) (die : Option Nat := none) : Bool :=
  s.crosses core l die && (l.ca != 3 || (s.linkUp l.peer && !s.peerBehind l.peer))

/-! ### Plural cells (R303 to R308) -/

/-- A plural region: its base and length, shadow area, pool and pool entries (R303). -/
structure PRegion where
  base : Nat
  len : Nat
  shadow : Nat
  pool : Nat
  pooln : Nat
  deriving DecidableEq, Repr, Inhabited

/-- A region descriptor, where it is valid (R303). -/
def pregionOf (d : Nat) : Option PRegion :=
  if bit d 0 ∧ bits d 1 95 = 0 then
    some ⟨bits d 224 32 * 65536, (bits d 200 24 + 1) * 65536, bits d 160 40 * 256,
      bits d 120 40 * 256, bits d 96 24⟩
  else none

/-- The valid regions of a context (R303). -/
def State.pregions (s : State) (c : Ctx) : List PRegion :=
  (List.range 16).filterMap (fun i => pregionOf (s.mem.num (c.field 711 43 * 32 + 32 * i) 32))

/-- A region holds `pa`. -/
def PRegion.holds (r : PRegion) (pa : Nat) : Bool := decide (r.base ≤ pa ∧ pa < r.base + r.len)

/-- The shadow area or the pool of a region holds `pa` (R303, R304). -/
def PRegion.owns (r : PRegion) (pa : Nat) : Bool :=
  decide ((r.shadow ≤ pa ∧ pa < r.shadow + 16 * r.len) ∨ (r.pool ≤ pa ∧ pa < r.pool + 256 * r.pooln))

/-- The region that holds `pa` (R303). -/
def State.pregion (s : State) (c : Ctx) (pa : Nat) : Option PRegion :=
  (s.pregions c).find? (fun r => r.holds pa)

/-- The valid regions of every loaded context, each once (R303, R304).  DEDUCED (log 90): equal descriptors in the tables
of two contexts are one region. -/
def State.allRegions (s : State) : List PRegion := (s.ctxs.flatMap (fun p => s.pregions p.2)).eraseDups

/-- The addresses of the entries of a table of level `level` that memory lists. -/
def State.tableEntries (s : State) (level table : Nat) : List Nat :=
  ((s.mem.filter (fun p => table ≤ p.1 ∧ p.1 < table + 8 * 2 ^ levelBits level)).map (fun p => p.1 / 8 * 8)).eraseDups

/-- The plural leaf entries under a table: first byte, page size in bits, and whether the cells are of 8 bytes (R260,
R302). -/
def State.pluralLeaves (s : State) (c : Ctx) : Nat → Nat → Nat → List (Nat × Nat × Bool)
  | 0, _, _ => []
  | fuel + 1, level, table => (s.tableEntries level table).flatMap (fun a =>
    let e := s.mem.num a 8
    if !bit e 0 || !s.inGddr a 8 then []
    else if bit e 1 then
      (if bit e 5 && !s.badLeaf c level e then [(bits e 16 32 * 65536, levelShift level, bit e 6)] else [])
    else if badTable level e then []
    else s.pluralLeaves c fuel (level + 1) (bits e 8 40 * 256))

/-- The cell sizes with which the tables of the loaded contexts map a byte: of 4 bytes, and of 8 (R302). -/
def State.cellSizes (s : State) (pa : Nat) : Bool × Bool :=
  let l := s.ctxs.flatMap (fun p => (s.pluralLeaves p.2 4 0 p.2.root).filter (fun q => pa / 2 ^ q.2.1 = q.1 / 2 ^ q.2.1))
  (l.any (fun q => !q.2.2), l.any (·.2.2))

/-- A byte is mapped with both cell sizes, by the tables and the mapping of the access itself (R302). -/
def State.mixed (s : State) (l : Leaf) : Bool :=
  let z := s.cellSizes l.pa
  (z.1 || (l.plural && l.cell == 4)) && (z.2 || (l.plural && l.cell == 8))

/-- A byte of a region lies in another region too, or in a shadow area or a pool, of any loaded context (R303). -/
def State.overlaid (s : State) (pa : Nat) : Bool :=
  let rs := s.allRegions
  decide (2 ≤ (rs.filter (fun r => r.holds pa)).length) || rs.any (fun r => r.owns pa)

/-- The sibling sets of the cells at a byte of a region are undefined: the byte is mapped with both cell sizes, or, for a
plural access, its region overlaps another one, a shadow area or a pool (R302, R303). -/
def State.muddled (s : State) (l : Leaf) : Bool :=
  s.allRegions.any (fun r => r.holds l.pa) && (s.mixed l || (l.plural && s.overlaid l.pa))

/-- A plural cell: SEQ and the siblings (dot, value), oldest first (R305). -/
structure PCell where
  seq : Nat
  sibs : List (Nat × Nat)
  /-- Pool entry held, plus one (R306). -/
  spill : Nat
  deriving DecidableEq, Repr, Inhabited

/-- The cell at `pa` of `size` bytes as its record and its bytes give it (R305 to R307); a record that the driver has
left in the shadow names no pool entry outside the pool (R304). -/
def State.pcell (s : State) (r : PRegion) (pa size : Nat) : PCell :=
  let x := s.mem.num (r.shadow + 16 * (pa - r.base)) 64
  let spill := if bits x 32 32 ≤ r.pooln then bits x 32 32 else 0
  let n := if spill = 0 then min 3 (bits x 99 5 % 16) else bits x 99 5 % 16
  let slot (k : Nat) : Nat :=
    if k < 4 then bits x (128 * k) 128
    else s.mem.num (r.pool + 256 * (spill - 1) + 16 * (k - 4)) 16
  ⟨bits x 104 24,
   (bits x 72 24, s.mem.num pa size) ::
     (List.range n).map (fun i => (bits (slot (i + 1)) 104 24, bits (slot (i + 1)) 0 (8 * size))),
   spill⟩

/-- A pool entry of a region that no cell holds (R307); the device marks an entry in its byte 192 and names its cell in
bytes 200 to 207. -/
def State.poolFree (s : State) (r : PRegion) : Option Nat :=
  (List.range r.pooln).find? (fun e => s.mem.read (r.pool + 256 * e + 192) = 0)

/-- The cell's record, spilled siblings and bytes rewritten (R305 to R307); none where a pool entry is
needed and none is free. -/
def State.putPcell (s : State) (r : PRegion) (pa size : Nat) (c : PCell) : Option State :=
  let n := c.sibs.length
  let alloc : Option (Nat × Memory) :=
    if n ≤ 4 then
      some (0, if c.spill = 0 then s.mem else s.mem.write (r.pool + 256 * (c.spill - 1) + 192) 0)
    else if c.spill ≠ 0 then some (c.spill, s.mem)
    else (s.poolFree r).map (fun e =>
      (e + 1, (s.mem.write (r.pool + 256 * e + 192) 1).putNum (r.pool + 256 * e + 200) 8 pa))
  alloc.map (fun (sp, m) =>
    let slot (k : Nat) : Nat := let p := c.sibs.getD k (0, 0); cat [(p.1, 24), (0, 40), (p.2, 64)]
    let x := cat [(slot 3, 128), (slot 2, 128), (slot 1, 128), (c.seq, 24), (n - 1, 5), (0, 3),
      ((c.sibs.getD 0 (0, 0)).1, 24), (0, 8), (sp, 32), (0, 32)]
    let m := m.putNum (r.shadow + 16 * (pa - r.base)) 64 x
    let m := if sp = 0 then m else
      each (List.range (n - 4)) (fun i m => m.putNum (r.pool + 256 * (sp - 1) + 16 * i) 16 (slot (i + 4))) m
    { s with mem := m }.poke pa (natBytes size (c.sibs.getD 0 (0, 0)).2))

/-- `n` siblings with open dots and values. -/
def State.openSibs (s : State) (size n : Nat) : List (Nat × Nat) × State :=
  ((List.range n).map (fun i =>
    ((Config.freeWord (s.free + 3 * i)).toNat % 2 ^ 24,
     ((Config.freeWord (s.free + 3 * i + 1)).toNat + 2 ^ 32 * (Config.freeWord (s.free + 3 * i + 2)).toNat) % 2 ^ (8 * size))),
   { s with free := s.free + 3 * n })

/-- A cell's sibling set becomes undefined: any count, dots and values; with more than four siblings it holds a pool
entry (R302 to R304). -/
def State.blur (s : State) (r : PRegion) (pa size : Nat) : State :=
  let c := s.pcell r pa size
  let (n, s) := s.pick 16
  let (q, s) := s.pick (2 ^ 24)
  let (l, s) := s.openSibs size (n + 1)
  match s.putPcell r pa size { c with seq := q, sibs := l } with
  | some s => s
  | none => (s.putPcell r pa size { c with seq := q, sibs := l.take 4 }).getD s

/-- Before an access to cells whose sibling sets are undefined, they are (R302, R303): where both cell sizes are mapped,
the cells of either size. -/
def State.unsettle (s : State) (c : Ctx) (l : Leaf) (n : Nat) : State :=
  match s.pregion c l.pa with
  | none => s
  | some r =>
    if !s.muddled l then s
    else if s.mixed l then each (pieces 8 l.pa n) (fun p s => (s.blur r p.1 8).blur r (p.1 + 4) 4) s
    else each (pieces l.cell l.pa n) (fun p s => s.blur r p.1 l.cell) s

/-- Age of a sequence value (R308). -/
def age (seq x : Nat) : Nat := (seq + 2 ^ 24 - x % 2 ^ 24) % 2 ^ 24

/-- A write of `v` that keeps the siblings `keep` (R314): the state and the cell after it, or the
plural sub-code 1 or 6. -/
def State.addSibling (s : State) (r : PRegion) (pa size : Nat) (c : PCell) (keep : List (Nat × Nat))
    (v : Nat) : Except Nat (State × PCell) :=
  if 16 < keep.length + 1 then .error 1
  else
    let seq := (c.seq + 1) % 2 ^ 24
    let c := { c with seq := seq, sibs := keep ++ [(seq, v % 2 ^ (8 * size))] }
    match s.putPcell r pa size c with
    | some s => .ok (s, c)
    | none => .error 6

/-- Bytes `off` onwards of a value replaced. -/
def spliceBytes (size old off : Nat) (bs : List Byte) : Nat :=
  let o := natBytes size old
  leNat (o.take off ++ bs ++ o.drop (off + bs.length))

/-- A blind write of some bytes inside one cell (R315). -/
def State.blindWrite (s : State) (r : PRegion) (cell size off : Nat) (bs : List Byte) :
    Except Nat State :=
  let c := s.pcell r cell size
  let v := spliceBytes size (c.sibs.getD 0 (0, 0)).2 off bs
  match s.addSibling r cell size c c.sibs v with
  | .ok (s, _) => .ok s
  | .error n => .error n

/-- Blind writes of bytes over the cells they cover, one per cell, each by itself (R315): the sub-code and the index of
the first byte of the lowest cell that is not written, where there is one. -/
def State.blindWrites (s : State) (c : Ctx) (l : Leaf) (bs : List Byte) : Option (Nat × Nat) × State :=
  match s.pregion c l.pa with
  | none => (some (5, 0), s)
  | some r =>
    (pieces l.cell l.pa bs.length).foldl (fun acc p =>
      match acc.2.blindWrite r p.1 l.cell p.2.1 ((bs.drop p.2.2.1).take p.2.2.2) with
      | .ok s => (acc.1, s)
      | .error n => (some (acc.1.getD (n, p.2.2.1)), acc.2)) (none, s.unsettle c l bs.length)

/-! ### Compressed blocks (R275) -/

/-- The metadata nibble of a block changed. -/
def State.setCode (s : State) (d pa code : Nat) : State :=
  let k := (pa - bits d 96 32 * 65536) / 256
  let a := bits d 32 40 * 256 + k / 2
  s.poke a [BitVec.ofNat 8 (setBits (s.mem.read a).toNat (4 * (k % 2)) 4 code)]

/-- The bytes of a piece of one block as a page with buffer descriptor `d` reads them: a block marked all-zero reads
0; what the compressor has written back is expanded; an encoding that is read as plain bytes, or plain bytes that are
read as an encoding, have unstated values. -/
def State.blockLoad (s : State) (d : Nat) (p : Nat × Nat × Nat × Nat) : List Byte :=
  let pa := p.1 + p.2.1
  let code := s.blockCode d p.1
  if code = 8 then List.replicate p.2.2.2 0
  else if decide (p.1 / 256 ∈ s.squeezed) == decide (1 ≤ code) then s.mem.readN pa p.2.2.2
  else s.openBytes pa p.2.2.2

/-- A block is expanded before a store to it: afterwards it stands plain. -/
def State.expand (s : State) (d pa : Nat) : State :=
  let code := s.blockCode d pa
  let sq : Bool := pa / 256 ∈ s.squeezed
  if code = 0 ∧ !sq then s
  else
    let bs := if code = 8 then List.replicate 256 0
      else if sq ∧ code ≠ 0 then s.mem.readN (pa / 256 * 256) 256
      else s.openBytes (pa / 256 * 256) 256
    let s := { s.poke (pa / 256 * 256) bs with squeezed := s.squeezed.filter (· ≠ pa / 256) }
    if code = 0 then s else s.setCode d pa 0

/-- An access keeps the hot lines that it touches hot (R275). -/
def State.keepHot (s : State) (pa n : Nat) : State :=
  if s.hot.isEmpty then s
  else { s with hot := s.hot.map (fun p => if overlap (p.1 * 128) 128 pa n then (p.1, s.time.fabric) else p) }

/-- An atomic makes its line hot (R275). -/
def State.makeHot (s : State) (l : Leaf) : State :=
  if l.bdi = 0 ∨ l.plural ∨ l.ca = 3 then s else { s with hot := s.hot.put (l.pa / 128) s.time.fabric }

/-- A line is hot (R275). -/
def State.isHot (s : State) (line : Nat) : Bool :=
  match s.hot.get line with
  | some n => decide (s.time.fabric < n + 65536)
  | none => false

/-- The compressor at the GDDR 7 boundary writes back a plain block that is not hot with a code from 1 to 8, 8 only where it
is all zero (R275). -/
def State.squeeze (s : State) (ctx bdi pa code : Nat) : State :=
  let d := s.bufDesc (s.ctx ctx) bdi
  let base := bits d 96 32 * 65536
  let b := pa / 256 * 256
  if (s.ctxs.get ctx).isSome ∧ 0 < bdi ∧ bdi < 4096 ∧ bufValid d ∧ base ≤ pa ∧ pa < base + (bits d 72 24 + 1) * 65536 ∧
      s.inGddr b 256 ∧ s.blockCode d pa = 0 ∧ pa / 256 ∉ s.squeezed ∧ 1 ≤ code ∧ code ≤ 8 ∧
      (code = 8 → (s.mem.readN b 256).all (· == 0)) ∧ !s.poisoned b 256 ∧ !s.isHot (b / 128) ∧ !s.isHot (b / 128 + 1) then
    { s.setCode d pa code with squeezed := pa / 256 :: s.squeezed }
  else s

/-! ### Bytes at their home -/

/-- A shadow or pool byte of a valid region of a loaded context (R304). -/
def State.deviceOwned (s : State) (pa : Nat) : Bool := s.allRegions.any (fun r => r.owns pa)

/-- The descriptor that a page's blocks follow (R275, R302). -/
def State.pageDesc (s : State) (c : Ctx) (l : Leaf) : Nat := if l.bdi = 0 ∨ l.plural then 0 else s.bufDesc c l.bdi

/-- The bytes of a page at their home, and whether poison or an uncorrectable error is met (R271, R275).  A byte that the
device owns reads an unspecified value (R304), and so does one of a cell whose sibling set is undefined (R302, R303). -/
def State.homeLoad (s : State) (c : Ctx) (l : Leaf) (n : Nat) : List Byte × Bool :=
  if l.ca = 3 then (s.peers.readN (l.peer * 2 ^ 48 + l.pa) n, false)
  else
    let d := s.pageDesc c l
    let ps := pieces 256 l.pa n
    let bs := ps.flatMap (s.blockLoad d)
    let rs := s.allRegions
    let bs := if s.muddled l then s.openBytes l.pa n
      else if rs = [] then bs
      else bs.mapIdx (fun i b =>
        if rs.any (fun r => r.owns (l.pa + i)) then Config.freeByte (s.free * 2 ^ 48 + l.pa + i) else b)
    (bs, s.poisoned l.pa n || ps.any (fun p => decide (8 < s.blockCode d p.1)))

/-- The sibling set of the cell whose record stands at offset `o` of a region becomes undefined: a cell of the size with
which the byte is mapped, of an unknown one where the tables map it with none; the second half of an 8-byte cell has no
record (R304, R306). -/
def State.blurCell (s : State) (r : PRegion) (o : Nat) : State :=
  let (four, eight) := s.cellSizes (r.base + o)
  let (wide, s) := if four == eight then s.flip else (eight, s)
  if !wide then s.blur r (r.base + o) 4
  else if o % 8 = 0 then s.blur r (r.base + o) 8
  else s

/-- The sibling sets of the cells that a store to shadow or pool bytes concerns become undefined; it has no other effect
(R304). -/
def State.blurOwned (s : State) (r : PRegion) (pa n : Nat) : State :=
  let s := each ((pieces 64 pa n).filter (fun p => r.shadow ≤ p.1 ∧ p.1 < r.shadow + 16 * r.len))
    (fun p s => s.blurCell r ((p.1 - r.shadow) / 64 * 4)) s
  each ((pieces 256 pa n).filter (fun p => r.pool ≤ p.1 ∧ p.1 < r.pool + 256 * r.pooln ∧ s.mem.read (p.1 + 192) ≠ 0))
    (fun p s => s.blurCell r (s.mem.num (p.1 + 200) 8 - r.base)) s

/-- Plain bytes stored in GDDR 7; shadow and pool bytes keep their values, and the cells concerned lose theirs (R304). -/
def State.plainStore (s : State) (pa : Nat) (bs : List Byte) : State :=
  let rs := s.allRegions.filter (fun r => (List.range bs.length).any (fun i => r.owns (pa + i)))
  if rs = [] then s.poke pa bs
  else
    let old := s.mem.readN pa bs.length
    let s := s.poke pa (bs.mapIdx (fun i b => if rs.any (fun r => r.owns (pa + i)) then old.getD i b else b))
    each rs (fun r s => s.blurOwned r pa bs.length) s

/-- Bytes stored at their home, compressed blocks expanded first (R275); a store that meets poison is dropped (R271). -/
def State.homeStore (s : State) (c : Ctx) (l : Leaf) (bs : List Byte) : State :=
  if l.ca = 3 then s.pokePeer l.peer l.pa bs
  else
    let d := s.pageDesc c l
    let ps := pieces 256 l.pa bs.length
    if s.poisoned l.pa bs.length || ps.any (fun p => decide (8 < s.blockCode d p.1)) then s
    else ((each ps (fun p s => s.expand d p.1) s).plainStore l.pa bs).keepHot l.pa bs.length

/-- A page has memory behind it (R264). -/
def State.hasMem (s : State) (l : Leaf) (n : Nat) : Bool := l.ca == 3 || s.inGddr l.pa n

/-! ### Accesses that the device makes (R188, R288, R315, R421) -/

/-- The lengths of the pieces of a range that stay inside one 64 KiB page. -/
def pagePieces (va n : Nat) : List (Nat × Nat × Nat) :=
  (pieces 65536 va n).map (fun p => (p.1 + p.2.1, p.2.2.1, p.2.2.2))

/-- Why a device access of a page cannot be made now, beyond its translation: 6 no memory, 13 a plural page in no valid
region, 20 the way to its home is not open, 21 its peer link is down (R264, R303, R288, R451). -/
def State.devBar (s : State) (core die : Option Nat) (c : Ctx) (l : Leaf) (n : Nat) (store : Bool) : Option Nat :=
  if !s.hasMem l n then some 6
  else if l.plural ∧ (s.pregion c l.pa).isNone then some 13
  else if l.ca = 3 ∧ s.linkDown l.peer ∧ !store then some 21
  else if !(if store then s.crosses core l die else s.open_ core l die) then some 20
  else none

/-- Bytes read by the device in a context: the bytes, the poison met, or the engine-fault sub-code with the
lowest address that fails (DEDUCED: R433); code 0 stands for a page that is not present in a replayable context, 20
and 21 are those of `devBar`. -/
def State.devLoad (s : State) (ctx va n : Nat) (priv : Bool) (core : Option Nat := none) (die : Option Nat := none) :
    Except (Nat × Nat) (List Byte × Bool) × State :=
  (pagePieces va n).foldl (fun (acc : Except (Nat × Nat) (List Byte × Bool) × State) p =>
    match acc.1 with
    | .error e => (.error e, acc.2)
    | .ok (bs, poison) =>
      match acc.2.xlate ctx p.1 .load priv core true die with
      | (.away, s) => (.error (20, p.1), s)
      | (.absent, s) => (.error (if (s.ctx ctx).replayable then 0 else 3, p.1), s)
      | (.bad e, s) => (.error (e, p.1), s)
      | (.ok l, s) =>
        match s.devBar core die (s.ctx ctx) l p.2.2 false with
        | some e => (.error (e, p.1), s)
        | none =>
          let (b, po) := s.homeLoad (s.ctx ctx) l p.2.2
          (.ok (bs ++ b, poison || po), s.keepHot l.pa p.2.2)) (.ok ([], false), s)

/-- A store of an engine or another part of the device to a peer page enters its port, in entries of at most 128 bytes; the
part goes on, as a thread does (R288, R290).  DEDUCED (log 93): what reads the package afterwards finds it (R182). -/
def State.devPost (s : State) (ctx va : Nat) (core : Option Nat) (l : Leaf) (bs : List Byte) : State :=
  let port := s.peerPort l.peer
  each (pieces 128 va bs.length) (fun p s =>
    let (n, s) := s.fresh
    s.modBase port (fun b => { b with
      posted := b.posted.put n ⟨ctx, l.peer, BitVec.ofNat 64 (va + p.2.2.1), l.pa + p.2.2.1,
        ((bs.drop p.2.2.1).take p.2.2.2).map (fun x => (x, 0xFF)), (core.getD 256) * 64, 0, port, false, true⟩ })) s

/-- One piece of a device store; one to a peer is posted (R182, R288). -/
def State.devStorePiece (s : State) (ctx va : Nat) (bs : List Byte) (priv : Bool) (core die : Option Nat) :
    Except (Nat × Nat) Unit × State :=
  match s.xlate ctx va .store priv core true die with
  | (.away, s) => (.error (20, va), s)
  | (.absent, s) => (.error (if (s.ctx ctx).replayable then 0 else 3, va), s)
  | (.bad e, s) => (.error (e, va), s)
  | (.ok l, s) =>
    match s.devBar core die (s.ctx ctx) l bs.length true with
    | some e => (.error (e, va), s)
    | none =>
      if l.ca = 3 then (.ok (), s.devPost ctx va core l bs)
      else if l.plural then
        match s.blindWrites (s.ctx ctx) l bs with
        | (none, s) => (.ok (), s)
        | (some (e, i), s) => (.error (8 + e, va + i), s)
      else (.ok (), s.homeStore (s.ctx ctx) l bs)

/-- Bytes stored by the device in a context, piece by piece; the first failing piece ends it. -/
def State.devStore (s : State) (ctx va : Nat) (bs : List Byte) (priv : Bool) (core : Option Nat := none)
    (die : Option Nat := none) : Except (Nat × Nat) Unit × State :=
  (pagePieces va bs.length).foldl (fun (acc : Except (Nat × Nat) Unit × State) p =>
    match acc.1 with
    | .error e => (.error e, acc.2)
    | .ok _ => acc.2.devStorePiece ctx p.1 ((bs.drop p.2.1).take p.2.2) priv core die) (.ok (), s)

/-- A number read by the device, 0 where the access fails. -/
def State.devNum (s : State) (ctx va n : Nat) (priv : Bool) (die : Option Nat := none) : Option Nat × State :=
  match s.devLoad ctx va n priv none die with
  | (.ok (bs, _), s) => (some (leNat bs), s)
  | (.error _, s) => (none, s)

end Sys2Proof.Machine
end

