-- ==== Sys2Proof/Machine/Ops.lean ====
section
/-! DEFINITION. The operations every meaning shares: fault records, faults and their parking, handler
entry and return, the issue of one instruction word, the end of a clause, and long-latency
instructions in flight (R23 to R29, R37, R38, R421 to R433, R448). -/

namespace Sys2Proof.Machine

/-! ### The fault-record ring (R448) -/

/-- A word offset of the control block as the device takes it: below 64 as 64. -/
def ringOff (total x : Nat) : Nat := max 64 (min x total)

/-- The record is dropped: LOST counts where the control block can be written. -/
def State.recordLost (s : State) (ctx base : Nat) : State :=
  match s.devNum ctx (base + 16) 8 true with
  | (some n, s) => (s.devStore ctx (base + 16) (natBytes 8 (n + 1)) true).2
  | (none, s) => s

/-- A record written whole at WRITE and then, where that store and the skipped tail's are made, WRITE advanced; else dropped:
whether it is written, and the state (R448).  A context that is not loaded has no ring (R373). -/
def State.tryRecord (s : State) (ctx : Nat) (bs : List Byte) : Bool × State :=
  let drop (s : State) : Bool × State := (false, (s.recordLost ctx ((s.ctx ctx).field 895 46 * 64)).interrupt 0)
  let c := s.ctx ctx
  let base := c.field 895 46 * 64
  let total := 2 ^ (c.field 891 4 + 12)
  let n := bs.length
  if (s.ctxs.get ctx).isNone then (false, s)
  else match s.devNum ctx base 8 true with
  | (none, s) => drop s
  | (some w, s) =>
    match s.devNum ctx (base + 8) 8 true with
    | (none, s) => drop s
    | (some r, s) =>
      let w := ringOff total w
      let r := ringOff total r
      let wraps := total < w + n
      let need := if wraps then total - w + n else n
      let room := (((r : Int) - w - 1) % ((total : Int) - 64)).toNat
      if room < need then (false, s.recordLost ctx base)
      else
        let stores : List (Nat × List Byte) :=
          (if wraps ∧ w < total then [(base + w, List.replicate 16 0)] else []) ++
          (let w := if wraps then 64 else w
           [(base + w, bs), (base, natBytes 8 (w + n))])
        match stores.foldl (fun (x : Bool × State) p => if !x.1 then x else
            match x.2.devStore ctx p.1 p.2 true with
            | (.ok _, s) => (true, s)
            | (.error _, s) => (false, s)) (true, s) with
        | (true, s) => (true, s.interrupt 0)
        | (false, s) => drop s

/-- A record written, or dropped (R448). -/
def State.record (s : State) (ctx : Nat) (bs : List Byte) : State := (s.tryRecord ctx bs).2

/-- What a record of KIND 0x50, 0x51 or 0x52 says (R433). -/
structure FaultInfo where
  code : Nat
  sub : Nat := 0
  pc : Nat := 0
  addr : Nat := 0
  gen : Nat := 0
  slot : Nat := 63
  core : Nat := 255
  engine : Nat := 0
  exited : Bool := false
  die : Nat := 0
  mask : Nat := 0
  detail : Nat := 0
  deriving DecidableEq, Repr, Inhabited

/-- The 64-byte header of R433. -/
def faultHeader (time ctx kind count : Nat) (i : FaultInfo) : List Byte :=
  natBytes 64 (cat [(time, 64), (i.pc, 52), (i.addr, 52), (i.gen, 24), (i.slot, 6), (i.core, 8),
    (i.engine, 4), (b2n i.exited, 1), (i.die, 1), (0, 4), (i.code, 8), (i.sub, 8), (count, 16),
    (i.mask, 64), (ctx, 32), (i.detail, 160), (kind, 8)])

/-- The halt line of a context is raised; a context that is halted already keeps its first fault
(R431). -/
def State.raiseHalt (s : State) (ctx : Nat) (i : FaultInfo) (sid : Option Nat) : State :=
  s.modCtx ctx (fun c =>
    match c.halt with
    | some _ => c
    | none => { c with halt := some ⟨BitVec.ofNat 8 i.code, BitVec.ofNat 8 i.sub,
        BitVec.ofNat 4 i.engine, BitVec.ofNat 64 i.addr, sid, i.die, false⟩ })

/-- The record of a fault: KIND 0x52 for an imprecise store, 0x50 for every other one (R433, R435). -/
def State.faultRecord (s : State) (ctx : Nat) (i : FaultInfo) : State :=
  s.record ctx (faultHeader s.now ctx (if i.code = 0x17 then 0x52 else 0x50) 0 i)

/-- A context fault: its record, and the halt line (R431, R433). -/
def State.contextFault (s : State) (ctx : Nat) (i : FaultInfo) (sid : Option Nat) : State :=
  if (s.ctxs.get ctx).isSome then (s.faultRecord ctx i).raiseHalt ctx i sid else s

/-- A context is halted (R431, R434). -/
def State.halted (s : State) (ctx : Nat) : Bool := (s.ctx ctx).halt.isSome

/-- Work that a halt holds stays held until the host resumes the context; it runs then (R432, R434). -/
def State.onHold (s : State) (ctx : Nat) (held : Bool) : Bool := held && s.halted ctx

/-! ### Parking and faults (R424, R425, R430) -/

/-- The word address of word `k` of the clause at `pc` (R16). -/
def wordAddr (pc : BitVec 64) (k : Option Nat) : BitVec 64 :=
  match k with
  | some k => pc + BitVec.ofNat 64 (8 + 8 * k)
  | none => pc

/-- Where a thread stands: the address that R94 groups by. -/
def Thread.stands (th : Thread) : BitVec 64 := wordAddr th.pc th.word

/-- Threads taken out of the group that is running a clause; with none left the clause is over for
it. -/
def Sheaf.dropRun (sh : Sheaf) (who : List Nat) : Sheaf :=
  match sh.run with
  | none => sh
  | some r =>
    let m := r.mask &&& ~~~ maskOf who
    { sh with run := if m = 0 then none else some { r with mask := m } }

/-- What the words of a running clause have left for its end in thread `t` (R105, R181). -/
def ClauseRun.endOf (r : ClauseRun) (t : Nat) : ClauseEnd := ⟨(r.sleeps.get t).getD 0, r.waits.get t, r.yielded⟩

/-- What a thread keeps for the end of its clause: one that is taken out of the running clause keeps what its words have
left, any other what it has (R38, R105, R181). -/
def Sheaf.endOf (sh : Sheaf) (t : Nat) : ClauseEnd :=
  match sh.run with
  | some r => if r.mask.getLsbD t then r.endOf t else (sh.thread t).ends
  | none => (sh.thread t).ends

/-- Threads parked at a word of the clause at `pc`, or at its header; what they have left for the clause's end is kept for
their resumption inside it (R38). -/
def Sheaf.parkAt (sh : Sheaf) (who : List Nat) (pc : BitVec 64) (k : Option Nat) (why : Park) : Sheaf :=
  each who (fun t q => q.modThread t (fun th => { th with st := .parked why, pc := pc, word := k, ends := sh.endOf t }))
    (sh.dropRun who)

/-- Which of two entries that a sheaf owes stands: its own imprecise context fault, then its own precise one, then
the halt of its context, then a local fault or an eviction, which a resumption meets again (R425, R431, R435). -/
def Entry.rank (e : Entry) : Nat :=
  if e.code = 0x19 then 4
  else if 0x11 ≤ e.code ∧ e.code ≤ 0x17 then 3
  else if e.code = 0x10 then 2
  else if e.code = 0x20 then 1
  else 0

/-- The handler entry a sheaf owes; of two of one rank the first stands (R425, R431, R435).  An eviction that is
displaced is off. -/
def Sheaf.owe (sh : Sheaf) (e : Entry) : Sheaf :=
  match sh.entry with
  | none => { sh with entry := some e }
  | some o => if o.rank < e.rank then { sh with entry := some e, evicting := sh.evicting && o.code != 0x30 } else sh

/-- A precise fault of threads `who` of a sheaf at word `k` of the clause at `pc` (none: at the
header).  They park there; the sheaf owes a handler entry, or its double fault while it is in its
handler; the fault is recorded, and a context fault raises the halt line (R424, R425, R430, R431, R433). -/
def State.fault (s : State) (sid : Nat) (who : List Nat) (pc : BitVec 64) (k : Option Nat)
    (code sub : Nat) (mask : List Nat) (addr : Nat) : State :=
  let sh := s.sheaf sid
  let a := wordAddr pc k
  if sh.inHandler then
    s.modSheaf sid (fun sh => { sh.parkAt who pc k .doubleFault with
      entry := some ⟨0x19, BitVec.ofNat 8 code, 0, maskOf mask, BitVec.ofNat 64 addr, a⟩ })
  else
    let s := s.modSheaf sid (fun sh => (sh.parkAt who pc k .handler).owe
      ⟨BitVec.ofNat 8 code, BitVec.ofNat 8 sub, 0, maskOf mask, BitVec.ofNat 64 addr, a⟩)
    let i : FaultInfo := { code := code, sub := sub, pc := a.toNat, addr := addr, gen := sh.gen.toNat, slot := slotOf sid, core := coreOf sid, die := baseOfCore (coreOf sid), mask := (maskOf mask).toNat }
    if code < 0x10 then s.faultRecord sh.ctx i else s.contextFault sh.ctx i (some sid)

/-- The replayable fault record (R270). -/
def replayRecord (time va acc ctx count core slot gen : Nat) : List Byte :=
  natBytes 32 (cat [(time, 64), (va, 52), (acc, 4), (0, 8), (ctx, 32), (count, 32), (core, 8),
    (slot, 6), (gen, 24), (0, 18), (0x10, 8)])

/-- A not-present page of a replayable context is recorded once while its record is unreplayed
(R269). -/
def State.replayFault (s : State) (ctx va acc count core slot gen : Nat) : State :=
  if va / 65536 ∈ (s.ctx ctx).replays then s
  else
    (s.record ctx (replayRecord s.now va acc ctx count core slot gen)).modCtx ctx
      (fun c => { c with replays := va / 65536 :: c.replays })

/-! ### Handler entry and return (R425, R426, R429) -/

/-- Every completion flag and tag counter of a sheaf is 0 (R38, R186). -/
def Sheaf.drained (sh : Sheaf) : Bool := sh.flags.all (· == 0) && sh.tags.all (· == 0)

/-- Threads that park while an entry is owed (R425): the sleeping, arrived and waiting ones at once, the others
when no clause is running. -/
def Sheaf.parkRest (sh : Sheaf) (why : Park) : Sheaf :=
  let running := match sh.run with
    | some r => r.mask
    | none => 0
  { sh with threads := sh.threads.mapIdx (fun t th =>
      if running.getLsbD t then th
      else match th.st with
        | .parked _ | .exited => th
        | .waiting w => { th with st := .parked why, wait := some w }
        | .sleeping _ w => { th with st := .parked why, wait := w }
        | _ => { th with st := .parked why }) }

/-- Threads that park while a system call waits: those that stand at a clause start (R423). -/
def Sheaf.parkReady (sh : Sheaf) (why : Park) : Sheaf :=
  let running := match sh.run with
    | some r => r.mask
    | none => 0
  { sh with threads := sh.threads.mapIdx (fun t th =>
      if running.getLsbD t then th
      else match th.st with
        | .ready | .arrived => { th with st := .parked why }
        | _ => th) }

/-- Every live thread of a sheaf is parked. -/
def Sheaf.allParked (sh : Sheaf) : Bool :=
  sh.run.isNone && sh.threads.all (fun th => match th.st with
    | .parked _ | .exited => true
    | _ => false)

/-- `sr.cause` of an entry (R427). -/
def Entry.cause (e : Entry) : Word :=
  e.code ++ e.sub ++ (if e.code = 0x20 then e.engine else 0#4) ++ 0#12

/-- A live thread at its handler entry (R426). -/
def Thread.enter (th : Thread) (handler : BitVec 64) : Thread :=
  if th.st = .exited then th
  else { th with st := .ready, epc := th.stands, mid := th.word, ks := [0, 0, 0, 0], priv := true, pc := handler, word := none, stood := none }

/-- Taking an exception: the drained sheaf's live threads move to the handler (R426, R427). -/
def Sheaf.enterHandler (sh : Sheaf) (handler : BitVec 64) (e : Entry) : Sheaf :=
  { sh with threads := sh.threads.map (fun th => th.enter handler), entry := none, inHandler := true, cause := e.cause, fmask := e.mask, fa := if e.code = 0x20 ∨ e.code = 0x30 ∨ e.code = 0x31 then 0 else e.addr, live := maskOf sh.liveThreads, token := false, run := none }

/-- A thread that comes out of its park: a `waitm` is evaluated again (R181, R425). -/
def Thread.wake (th : Thread) : Thread :=
  match th.wait with
  | some w => { th with st := .waiting w, wait := none }
  | none => { th with st := .ready }

/-- A thread at its return from the handler: exited where its live bit is 0, else at `sr.epc`, inside
its clause while the mid-clause mark stands; held when `hold` says for what (R429, R431). -/
def Thread.leave (th : Thread) (live : Bool) (hold : Option Park) : Thread :=
  let th := { th with priv := false, stood := none }
  if !live then { th with st := .exited }
  else
    let pc := match th.mid with
      | some k => th.epc - BitVec.ofNat 64 (8 + 8 * k)
      | none => th.epc
    let th := { th with pc := pc, word := th.mid }
    match hold with
    | some w => { th with st := .parked w }
    | none => th.wake

/-- Return from the handler (R429): of the threads of one issue group; the sheaf has left its handler
when no thread of it is privileged.  A revived thread has closed every edge by its exit (R359). -/
def Sheaf.leaveHandler (sh : Sheaf) (group : List Nat) (hold : Option Park) : Sheaf :=
  let hold := if hold.isNone ∧ sh.calls.any (fun c => !c.priv) then some .sysCall else hold
  let inG (t : Nat) : Bool := t ∈ group
  let threads := sh.threads.mapIdx (fun t th =>
    if inG t then th.leave (sh.live.getLsbD t) hold
    else if th.st = .exited ∧ sh.live.getLsbD t then Thread.leave { th with closed := 0xFFFFFF } true hold else th)
  let still := threads.any (·.priv)
  let sh := sh.dropRun group
  { sh with threads := threads, inHandler := still, cause := if still then sh.cause else 0 }

/-! ### The issue of one word (R28, R36, R37, R95, R96) -/

/-- What issues: the sheaf, the threads of the issue group, and those in which the guards hold. -/
structure Issue where
  sid : Nat
  group : List Nat
  act : List Nat
  deriving DecidableEq, Repr, Inhabited

/-- How the issue of a word ends. -/
inductive Result where
  /-- It has issued. -/
  | done (s : State)
  /-- It waits at issue. -/
  | wait (s : State)
  /-- The threads `who` meet a precise fault at the word. -/
  | trap (who : List Nat) (code sub : Nat) (mask : List Nat) (addr : Nat) (s : State)

/-- Illegal use defined by the instruction's own description: cause 12 in the issue group (R37). -/
def Issue.illegal (is : Issue) (s : State) : Result := .trap is.group 1 12 is.group 0 s

/-- A precise fault at the word, without effect in any lane; `mask` are the faulting lanes (R424). -/
def Issue.fault (is : Issue) (code sub : Nat) (mask : List Nat) (addr : Nat) (s : State) : Result :=
  .trap is.group code sub mask addr s

/-- Header fields of R21. -/
def hdrStall (h : BitVec 64) : Nat := bits h.toNat 24 4
/-- YIELD. -/
def hdrYield (h : BitVec 64) : Bool := h.getLsbD 23
/-- SETB. -/
def hdrSetB (h : BitVec 64) : Nat := bits h.toNat 19 4
/-- SETA. -/
def hdrSetA (h : BitVec 64) : Nat := bits h.toNat 15 4
/-- WAIT. -/
def hdrWait (h : BitVec 64) : Nat := bits h.toNat 3 12
/-- Number of instruction words. -/
def hdrLen (h : BitVec 64) : Nat := bits h.toNat 0 3 + 1

/-- The next clause header after a running clause (R16). -/
def ClauseRun.next (r : ClauseRun) : BitVec 64 := r.pc + BitVec.ofNat 64 (8 + 8 * r.words.length)

/-- The state in which a thread of the group leaves its clause (R93, R103, R105, R181). -/
def Thread.endClause (th : Thread) (r : ClauseRun) (now t : Nat) : Thread :=
  match th.st with
  | .exited => th
  | _ =>
    let th := { th with pc := (r.targets.get t).getD r.next, word := none, stood := none }
    let c := (r.sleeps.get t).getD 0
    match r.waits.get t with
    | some w => { th with st := if 0 < c then .sleeping (now + c) (some w) else .waiting w }
    | none => if 0 < c then { th with st := .sleeping (now + c) none } else th

/-- The end of a clause: program counters, sleeps and waits, STALL and YIELD (R27, R105). -/
def State.endClause (s : State) (sid : Nat) : State :=
  match (s.sheaf sid).run with
  | none => s
  | some r =>
    let group := bitsOf 64 r.mask
    let y := hdrYield r.header || r.yielded
    let st := hdrStall r.header
    let s := s.modSheaf sid (fun sh =>
      let sh := each group (fun t sh => sh.modThread t (fun th => th.endClause r s.time.core t)) sh
      { sh with
        run := none
        stall := if st = 0 then sh.stall else s.time.core + st
        passed := sh.passed || y
        last := if r.yielded then r.mask else sh.last })
    if y ∨ st ≠ 0 then s.modCore (coreOf sid) (fun c => { c with current := none }) else s

/-- Issue cycles of an instruction (R95, R123). -/
def issueCycles : Instr → Nat
  | .vspill _ | .vfill _ => 4
  | _ => 1

/-- Words an instruction occupies (R17). -/
def instrWords (i : Instr) : Nat :=
  match i.isa? with
  | some (_, _, f) => if f.long then 2 else 1
  | none => 1

/-- Once another sheaf of the core has issued, a passed-over sheaf competes again, and a blocked one is
tried again (R96). -/
def State.releasePassed (s : State) (sid : Nat) : State :=
  { s with sheaves := s.sheaves.map (fun p =>
      if coreOf p.1 = coreOf sid ∧ p.1 ≠ sid then (p.1, { p.2 with passed := false, blocked := false })
      else p) }

/-- The word has issued: the next word, or the clause's end (R28, R96). -/
def State.advance (s : State) (sid : Nat) (i : Instr) : State :=
  let s := s.releasePassed sid
  let s := s.modSheaf sid (fun sh => { sh with
    issued := sh.issued + issueCycles i
    blocked := false
    run := sh.run.map (fun r => { r with
      k := r.k + instrWords i
      ll := r.ll + b2n i.isLongLatency
      since := none
      place := none
      rel := none
      asked := none }) })
  match (s.sheaf sid).run with
  | none => s
  | some r => if r.words.length ≤ r.k then s.endClause sid else s

/-- The word waits at issue: the sheaf breaks its run (R96). -/
def State.block (s : State) (sid : Nat) : State :=
  (s.modSheaf sid (fun sh => { sh with blocked := true })).modCore (coreOf sid)
    (fun c => { c with current := none })

/-- Registers that a matrix operation holds. -/
def MatOp.holds (m : MatOp) (sid r : Nat) : Bool :=
  m.regs.any (fun q => q.1 == sid && decide (q.2.1 ≤ r ∧ r < q.2.1 + q.2.2))

/-- Some register of a list is held by a matrix operation that has not completed (R25). -/
def State.touches (s : State) (sid : Nat) (regs : List Nat) : Bool :=
  s.pods.any (fun p => (p.2.mul ++ p.2.sel).any (fun m => regs.any (m.holds sid)))

/-- A vector register holds an undefined value in some threads. -/
def State.undefReg (s : State) (sid : Nat) (who : List Nat) (r : Nat) : State :=
  each who (fun t s =>
    let (x, s) := s.undef
    s.modSheaf sid (fun sh => sh.modThread t (fun th => { th with v := th.v.set r x }))) s

/-- Registers of a matrix operation that threads touch before it completes: their values there, and the elements it
computes, are undefined (R25). -/
def State.spoil (s : State) (sid : Nat) (who regs : List Nat) : State :=
  let mark (m : MatOp) : MatOp := if regs.any (m.holds sid) then { m with spoilt := true } else m
  let held := regs.filter (fun r => s.touches sid [r])
  each held (fun r s => s.undefReg sid who r)
    { s with pods := s.pods.map (fun p => (p.1, { mul := p.2.mul.map mark, sel := p.2.sel.map mark })) }

/-- The effect of a word that may touch, in the threads where it acts, registers of a matrix operation in flight
(R25, R36). -/
def State.runTouching (s : State) (sid : Nat) (who regs : List Nat) (body : State → Result) : Result :=
  match body s with
  | .done s' =>
    if who ≠ [] ∧ s.touches sid regs then
      match body (s.spoil sid who regs) with
      | .done s' => .done (each (regs.filter (fun r => s.touches sid [r])) (fun r s => s.undefReg sid who r) s')
      | r => r
    else .done s'
  | r => r

/-- The guards of a word read their registers in every thread of the group, those of a matrix operation in flight too
(R25, R36). -/
def State.touchGuards (s : State) (sid : Nat) (i : Instr) (group : List Nat) : State :=
  if s.touches sid (guardRegs i) then s.spoil sid group (guardRegs i) else s

/-- A sheaf's present word is held until the home has answered for it (R311). -/
def State.holds (s : State) (sid : Nat) : Bool :=
  s.ops.any (fun p => p.2.hold && p.2.sid == sid && (s.sheaf sid).gen == p.2.gen)

/-- The issue of instruction `i` as the present word of the sheaf that the core has chosen: the illegal
cases that its fields show, its guards, its effect, and the advance (R28, R36, R37).  Threads of the group
that do not fault go on to the next word (R105, R425). -/
def State.issue (s : State) (i : Instr) (body : Issue → State → Result) : State :=
  match s.cur with
  | none => s
  | some sid =>
    let sh := s.sheaf sid
    match sh.run with
    | none => s
    | some r =>
      let group := bitsOf 64 r.mask
      if s.holds sid then s.block sid
      else match i.cause sh.regs sh.width with
      | some c => s.fault sid group r.pc (some r.k) 1 c group 0
      | none =>
        let s := s.touchGuards sid i group
        let act := actors i (s.sheaf sid) group
        match s.runTouching sid act (namedRegs sh.width i) (body ⟨sid, group, act⟩) with
        | .done s' => s'.advance sid i
        | .wait s' => s'.block sid
        | .trap who code sub mask addr s' =>
          let s' := s'.fault sid who r.pc (some r.k) code sub mask addr
          if (s'.sheaf sid).run.isNone then s' else s'.advance sid i

/-- The outcome of a word's issue: always a next state. -/
def issued (i : Instr) (body : Issue → State → Result) (s : State) :
    Host.Outcome State Fault Refusal := .next (s.issue i body)

/-- The writes of the active lanes to `n` registers from D upwards, and their sticky flags. -/
def State.writeLanes (s : State) (sid : Nat) (d : BitVec 8) (n : Nat) (l : List LaneOut) : State :=
  s.modSheaf sid (fun sh => (sh.writeRegs d n l).orAst l)

/-- A fixed-latency instruction whose lanes compute by themselves: lane `t` computes from the sheaf as
it stands. -/
def laneOp (d : BitVec 8) (n : Nat) (g : Sheaf → Nat → LaneOut) (is : Issue) (s : State) : Result :=
  .done (s.writeLanes is.sid d n (is.act.map (g (s.sheaf is.sid))))

/-- One result word computed from the values of operands, tainted by their taints (R39). -/
def wordLane (f : Fields) (srcs : List (BitVec 8)) (g : List Word → Word × Word) (sh : Sheaf) (t : Nat) :
    LaneOut :=
  let r := g (srcs.map (sh.read f.imm t))
  ⟨t, [(r.1, srcs.any (sh.taintOf t))], r.2⟩

/-- An instruction that writes one register with a function of its operands; the function answers the
value and the sticky bits. -/
def wordOp (f : Fields) (srcs : List (BitVec 8)) (g : List Word → Word × Word) :
    Issue → State → Result := laneOp f.d 1 (wordLane f srcs g)

/-! ### Long-latency instructions (R23 to R25, R29) -/

/-- The flag that the present word counts: SETA for the clause's first long-latency instruction, else
SETB; 15 names none (R28). -/
def ClauseRun.flag (r : ClauseRun) : Option Nat :=
  let n := if r.ll = 0 then hdrSetA r.header else hdrSetB r.header
  if n = 15 then none else some n

/-- A completion flag counted up or down. -/
def Sheaf.modFlag (sh : Sheaf) (n : Option Nat) (f : Nat → Nat) : Sheaf :=
  match n with
  | none => sh
  | some n => { sh with flags := modAt sh.flags n f }

/-- A lane's captured sources: the fields with the values read. -/
def Sheaf.capture (sh : Sheaf) (imm : Word) (t : Nat) (l : List (BitVec 8)) : List (BitVec 8 × Word) :=
  l.map (fun v => (v, sh.read imm t v))

/-- The destination fields a lane writes, with the values they hold: a scalar register is written by the
first lane only (R39). -/
def Sheaf.targets (sh : Sheaf) (act : List Nat) (t : Nat) (l : List (BitVec 8)) : List (BitVec 8 × Word) :=
  (l.filter (fun v => v.toNat < 0xC0 ∨ (v.toNat < 0xF0 ∧ act.head? = some t))).map
    (fun v => (v, sh.read 0 t v))

/-- A lane of a long-latency instruction as it issues. -/
def Sheaf.lane (sh : Sheaf) (imm : Word) (act : List Nat) (srcs dsts : List (BitVec 8)) (t : Nat) : Lane where
  thread := t
  va := 0
  pa := 0
  srcs := sh.capture imm t srcs
  dsts := sh.targets act t dsts
  taint := srcs.any (sh.taintOf t)
  done := false

/-- An instruction enters flight: where it is tracked, its flag counts up (R28). -/
def State.launch (s : State) (is : Issue) (i : Instr) (lanes : List Lane) (upd : LongOp → LongOp := id)
    (tracked : Bool := true) : State :=
  let sh := s.sheaf is.sid
  match sh.run with
  | none => s
  | some r =>
    let (n, s) := s.fresh
    let flag := if tracked then r.flag else none
    let op : LongOp := { sid := is.sid, gen := sh.gen, wg := sh.wg, ctx := sh.ctx, core := coreOf is.sid, pc := wordAddr r.pc (some r.k), instr := i, flag := flag, lanes := lanes, ast := [], ticket := n, tile := none, tag := 0, priv := is.group.any (fun t => (sh.thread t).priv), rel := none, hold := false, faults := [] }
    let s := s.modSheaf is.sid (fun sh => sh.modFlag flag (· + 1))
    { s with ops := s.ops.put n (upd op) }

/-- The sheaf of an operation still stands in its slot with the same generation (R99). -/
def State.opAlive (s : State) (op : LongOp) : Bool :=
  match s.sheaves.get op.sid with
  | some sh => sh.gen == op.gen
  | none => false

/-- A captured source as a landing lane uses it: old or new where the program has written the register
since (R25). -/
def State.landSrc (s : State) (sid t : Nat) (p : BitVec 8 × Word) : Word × State :=
  if p.1.toNat < 0xF0 then
    let cur := (s.sheaf sid).read 0 t p.1
    if cur = p.2 then (p.2, s)
    else let (b, s) := s.flip; (if b then cur else p.2, s)
  else (p.2, s)

/-- The captured sources of a lane. -/
def State.landSrcs (s : State) (sid t : Nat) (l : List (BitVec 8 × Word)) : List Word × State :=
  l.foldl (fun acc p => let (w, s) := acc.2.landSrc sid t p; (acc.1 ++ [w], s)) ([], s)

/-- A destination of a landing lane: the final value is either the program's write or the instruction's
(R25). -/
def State.landDst (s : State) (sid t : Nat) (p : BitVec 8 × Word) (x : Word) (taint : Bool) : State :=
  if s.touches sid [p.1.toNat] then s.spoil sid [t] [p.1.toNat]
  else if (s.sheaf sid).read 0 t p.1 = p.2 then s.modSheaf sid (fun sh => sh.write p.1 t x taint)
  else
    let (b, s) := s.flip
    if b then s.modSheaf sid (fun sh => sh.write p.1 t x taint) else s

/-- The values of a landing lane reach its registers: those of `l` that the lane writes. -/
def State.landValues (s : State) (sid : Nat) (ln : Lane) (l : List (BitVec 8 × Word)) : State :=
  l.foldl (fun s q =>
    match ln.dsts.find? (fun p => p.1 = q.1) with
    | some p => s.landDst sid ln.thread p q.2 ln.taint
    | none => s) s

/-- The destinations of a landing lane of operation `o`: value `i` of `xs` goes to register field `i` of the run from D;
fields that the lane does not write are passed by.  Where its registers land one by one, the values are on their way
(R25). -/
def State.landDsts (s : State) (o sid : Nat) (ln : Lane) (d : BitVec 8) (xs : List Word) : State :=
  let l := xs.mapIdx (fun i x => (regAt d i, x))
  if ln.split then
    s.modOp o (fun op => { op with lanes := op.lanes.map (fun k =>
      if k.thread = ln.thread then { k with late := l, taint := ln.taint } else k) })
  else s.landValues sid ln l

/-- Lane `t` of an operation is done. -/
def LongOp.laneDone (op : LongOp) (t : Nat) : LongOp :=
  { op with lanes := op.lanes.map (fun l => if l.thread = t then { l with done := true } else l) }

/-- Every lane of an operation is done, and its registers have landed. -/
def LongOp.allDone (op : LongOp) : Bool := op.lanes.all (fun l => l.done && l.late.isEmpty)

/-- An operation's sticky flags are kept for its completion (R80). -/
def LongOp.addAst (op : LongOp) (t : Nat) (w : Word) : LongOp :=
  if w = 0 then op else { op with ast := op.ast.put t ((op.ast.get t).getD 0 ||| w) }

/-- A fault that a sheaf's instruction meets after its issue (R424, R435): the sheaf, while it still
holds its slot with generation `gen`, owes an entry with its own code, or its double fault where a
privileged thread issued the instruction or the sheaf is in its handler now; the context is halted (R430). -/
def State.lateFaultAt (s : State) (sid : Nat) (gen : BitVec 24) (ctx : Nat) (priv : Bool) (pc : BitVec 64)
    (code sub : Nat) (mask : List Nat) (addr : Nat) : State :=
  let alive := match s.sheaves.get sid with
    | some sh => sh.gen == gen
    | none => false
  let e : Entry := ⟨BitVec.ofNat 8 code, BitVec.ofNat 8 sub, 0, maskOf mask, BitVec.ofNat 64 addr, pc⟩
  let priv := priv || (s.sheaf sid).inHandler
  let s := if !alive then s
    else if priv then s.modSheaf sid (fun sh => { sh with entry := some { e with
      code := 0x19, sub := BitVec.ofNat 8 code } })
    else s.modSheaf sid (fun sh => sh.owe e)
  if alive && priv && code != 0x17 then s
  else s.contextFault ctx { code := code, sub := sub, pc := pc.toNat, addr := addr, gen := gen.toNat, slot := slotOf sid, core := coreOf sid, engine := if code = 0x17 then 10 else 0, exited := !alive, die := baseOfCore (coreOf sid), mask := (maskOf mask).toNat } (if alive then some sid else none)

/-- The same for an operation in flight. -/
def State.lateFault (s : State) (op : LongOp) (code sub : Nat) (mask : List Nat) (addr : Nat) : State :=
  s.lateFaultAt op.sid op.gen op.ctx op.priv op.pc code sub mask addr

/-- Completion: the sticky bits are set, the flag counts down and the operation is gone (R23, R80). -/
def State.completeOp (s : State) (o : Nat) : State :=
  match s.ops.get o with
  | none => s
  | some op =>
    let s := op.lanes.foldl (fun s l => if s.opAlive op then s.landValues op.sid l l.late else s) { s with ops := s.ops.del o }
    if s.opAlive op then
      s.modSheaf op.sid (fun sh =>
        let sh := sh.modFlag op.flag (· - 1)
        each op.ast (fun p sh => sh.modThread p.1 (fun th => { th with ast := th.ast ||| p.2 })) sh)
    else s

/-- An operation completes once all of it is done. -/
def State.tryComplete (s : State) (o : Nat) : State :=
  match s.ops.get o with
  | none => s
  | some op => if op.allDone then s.completeOp o else s

/-- Every lane of an operation that is not done lands by `land`, and the operation completes where all of it is done
(R23, R25). -/
def State.landEach (s : State) (o : Nat) (land : LongOp → Lane → State → State) : State :=
  match s.ops.get o with
  | none => s
  | some op =>
    (each (op.lanes.filter (fun l => !l.done)) (fun l s =>
      (land op l s).modOp o (fun op => op.laneDone l.thread)) s).tryComplete o

end Sys2Proof.Machine
end

