-- ==== Sys2Proof/Machine/Control.lean ====
section
/-! DEFINITION. The control-flow instructions (R102 to R105). -/

namespace Sys2Proof.Machine

/-- The running clause of the issuing sheaf. -/
def State.run (s : State) (sid : Nat) : ClauseRun := ((s.sheaf sid).run).getD default

/-- The running clause changed. -/
def State.modRun (s : State) (sid : Nat) (f : ClauseRun → ClauseRun) : State :=
  s.modSheaf sid (fun sh => { sh with run := sh.run.map f })

/-- A branch of the active threads to their targets: a misaligned target is an illegal use and no
thread branches (R103). -/
def branch (target : ClauseRun → Sheaf → Nat → BitVec 64) (link : Option (BitVec 8)) (is : Issue)
    (s : State) : Result :=
  let sh := s.sheaf is.sid
  let r := s.run is.sid
  let ts := is.act.map (fun t => (t, target r sh t))
  if ts.any (fun p => p.2.toNat % 8 ≠ 0) then is.illegal s
  else
    let s := match link with
      | some d => s.writeLanes is.sid d 1 (is.act.map (fun t => ⟨t, [(r.next.extractLsb' 0 32, false)], 0⟩))
      | none => s
    .done (s.modRun is.sid (fun r => { r with targets := ts }))

/-- `nop` (R105). -/
def execNop (f : Fields) : State → Host.Outcome State Fault Refusal :=
  issued (.nop f) fun _ s => .done s

/-- `bra` (R103). -/
def execBra (f : Fields) : State → Host.Outcome State Fault Refusal :=
  issued (.bra f) (branch (fun r _ _ => r.pc + f.imm.signExtend 64) none)

/-- `brx` (R103). -/
def execBrx (f : Fields) : State → Host.Outcome State Fault Refusal :=
  issued (.brx f) (branch (fun r sh t => r.pc + (sh.read f.imm t f.a).signExtend 64) none)

/-- `call` (R103). -/
def execCall (f : Fields) : State → Host.Outcome State Fault Refusal :=
  issued (.call f) (branch (fun r _ _ => r.pc + f.imm.signExtend 64) (some f.d))

/-- `ret` (R103): bits 51:32 come from the program counter. -/
def execRet (f : Fields) : State → Host.Outcome State Fault Refusal :=
  issued (.ret f) (branch (fun r sh t => 0#12 ++ r.pc.extractLsb' 32 20 ++ sh.read f.imm t f.a) none)

/-- `exit` (R104): each active thread is exited and gives its token share back (R407);
its bit in `sr.live` falls (R418). -/
def execExit (f : Fields) : State → Host.Outcome State Fault Refusal :=
  issued (.exit f) fun is s =>
    let s := each is.act (fun t s => s.releaseToken is.sid t) s
    .done (s.modSheaf is.sid (fun sh =>
      { each is.act (fun t sh => sh.modThread t (fun th => { th with st := .exited })) sh with
        live := sh.live &&& ~~~ maskOf is.act }))

/-- `yield` (R105). -/
def execYield (f : Fields) : State → Host.Outcome State Fault Refusal :=
  issued (.yield f) fun is s =>
    if is.act = [] then .done s
    else .done (s.modRun is.sid (fun r => { r with yielded := true }))

/-- `sleep` (R105): the count of each active thread takes effect at the clause's end.  DESIGN CHOICE (log 65): of
two `sleep` words of one clause the last with a nonzero count holds for a thread. -/
def execSleep (f : Fields) : State → Host.Outcome State Fault Refusal :=
  issued (.sleep f) fun is s =>
    let sh := s.sheaf is.sid
    let l := (is.act.map (fun t => (t, min (sh.read f.imm t f.a).toNat 0xFFFFFF))).filter (fun p => 0 < p.2)
    .done (s.modRun is.sid (fun r => { r with
      sleeps := each l (fun p tab => Tab.put tab p.1 p.2) r.sleeps }))

/-- `brk` (R105): the threads whose guard holds trap at the word; the others go on. -/
def execBrk (f : Fields) : State → Host.Outcome State Fault Refusal :=
  issued (.brk f) fun is s =>
    if is.act = [] then .done s else .trap is.act 2 (f.mod 0 6) is.act 0 s

end Sys2Proof.Machine
end

