-- ==== Sys2Proof/Machine/Float.lean ====
section
/-! DEFINITION. The number formats and their arithmetic: exact dyadic values, the one rounding, the
IEEE 754 results and flags, and conversions (R39, R63 to R79). -/

namespace Sys2Proof.Machine

/-! ### Formats (R63) -/

/-- How a format holds infinities and NaNs (R63). -/
inductive Specials where
  /-- Infinities and NaNs in the top exponent. -/
  | ieee
  /-- One NaN of each sign, no infinity: F8E4. -/
  | nanOnly
  /-- Neither. -/
  | none_
  deriving DecidableEq, Repr, Inhabited

/-- A floating format: exponent bits, significand bits, bias (R63). -/
structure FFmt where
  eb : Nat
  mb : Nat
  bias : Nat
  sp : Specials
  deriving DecidableEq, Repr, Inhabited

/-- F32. -/
def f32 : FFmt := ⟨8, 23, 127, .ieee⟩
/-- F16. -/
def f16 : FFmt := ⟨5, 10, 15, .ieee⟩
/-- BF16. -/
def bf16 : FFmt := ⟨8, 7, 127, .ieee⟩
/-- F8E5. -/
def f8e5 : FFmt := ⟨5, 2, 15, .ieee⟩
/-- F8E4. -/
def f8e4 : FFmt := ⟨4, 3, 7, .nanOnly⟩
/-- F6E3. -/
def f6e3 : FFmt := ⟨3, 2, 3, .none_⟩
/-- F6E2. -/
def f6e2 : FFmt := ⟨2, 3, 1, .none_⟩
/-- F4E2. -/
def f4e2 : FFmt := ⟨2, 1, 1, .none_⟩

/-- Bits of a format. -/
def FFmt.width (f : FFmt) : Nat := 1 + f.eb + f.mb

/-- The largest finite magnitude as significand and exponent (R63). -/
def FFmt.maxMag (f : FFmt) : Nat × Int :=
  match f.sp with
  | .ieee => (2 ^ (f.mb + 1) - 1, (2 ^ f.eb - 2 : Int) - f.bias - f.mb)
  | .nanOnly => (2 ^ (f.mb + 1) - 2, (2 ^ f.eb - 1 : Int) - f.bias - f.mb)
  | .none_ => (2 ^ (f.mb + 1) - 1, (2 ^ f.eb - 1 : Int) - f.bias - f.mb)

/-- The exponent of the smallest normal (R63). -/
def FFmt.emin (f : FFmt) : Int := 1 - (f.bias : Int)

/-- The canonical NaN (R65). -/
def FFmt.nan (f : FFmt) : Nat :=
  match f.sp with
  | .ieee => (2 ^ f.eb - 1) * 2 ^ f.mb + 2 ^ (f.mb - 1)
  | .nanOnly => 2 ^ (f.eb + f.mb) - 1
  | .none_ => 0

/-- The pattern of +infinity. -/
def FFmt.inf (f : FFmt) : Nat := (2 ^ f.eb - 1) * 2 ^ f.mb

/-! ### Values (R64, R65) -/

/-- The value of a pattern: a NaN (signalling or quiet), an infinity, or sign, significand and exponent
of a finite value. -/
inductive FVal where
  | nan (signalling : Bool)
  | inf (neg : Bool)
  | fin (neg : Bool) (mag : Nat) (e : Int)
  deriving DecidableEq, Repr, Inhabited

/-- The value of a pattern in a format (R63 to R65). -/
def FFmt.decode (f : FFmt) (x : Nat) : FVal :=
  let s := bit x (f.eb + f.mb)
  let e := bits x f.mb f.eb
  let m := bits x 0 f.mb
  let top := e == 2 ^ f.eb - 1
  if f.sp = .ieee ∧ top then
    if m = 0 then .inf s else .nan (!bit m (f.mb - 1))
  else if f.sp = .nanOnly ∧ top ∧ m = 2 ^ f.mb - 1 then .nan false
  else if e = 0 then .fin s m (f.emin - f.mb)
  else .fin s (2 ^ f.mb + m) ((e : Int) - f.bias - f.mb)

/-- The sign bit in its place. -/
def FFmt.sign (f : FFmt) (neg : Bool) : Nat := if neg then 2 ^ (f.eb + f.mb) else 0

/-- The pattern of a finite value that the format can hold. -/
def FFmt.encodeFin (f : FFmt) (neg : Bool) (mag : Nat) (e : Int) : Nat :=
  if mag = 0 then f.sign neg
  else
    let l := Nat.log2 mag
    let ex : Int := l + e
    if ex < f.emin then f.sign neg + mag * 2 ^ (e - (f.emin - f.mb)).toNat
    else
      let m := if l ≤ f.mb then mag * 2 ^ (f.mb - l) else mag / 2 ^ (l - f.mb)
      f.sign neg + (ex + f.bias).toNat * 2 ^ f.mb + (m - 2 ^ f.mb)

/-- The pattern of a value that the format can hold. -/
def FFmt.encode (f : FFmt) : FVal → Nat
  | .nan _ => f.nan
  | .inf neg => f.sign neg + f.inf
  | .fin neg m e => f.encodeFin neg m e

/-! ### Rounding (R39, R74, R75) -/

/-- Rounding modes by their code (R74). -/
inductive Mode where
  | rne | rtz | rup | rdn
  deriving DecidableEq, Repr, Inhabited

/-- The mode of a two-bit code (R74). -/
def modeOf : Nat → Mode
  | 0 => .rne
  | 1 => .rtz
  | 2 => .rup
  | _ => .rdn

/-- The magnitude `mag * 2 ^ e`, a little more when `sticky`, as a multiple of `2 ^ u`: the multiple
chosen by the mode and whether it is inexact (R39). -/
def roundAt (mode : Mode) (neg : Bool) (mag : Nat) (e : Int) (sticky : Bool) (u : Int) : Nat × Bool :=
  let up := (e - u).toNat
  let dn := (u - e).toNat
  let m := mag * 2 ^ up
  let q := m / 2 ^ dn
  let r := m % 2 ^ dn
  let ix : Bool := r != 0 || sticky
  let above : Bool := decide (2 ^ dn < 2 * r) || (2 * r == 2 ^ dn && sticky)
  let tie : Bool := 2 * r == 2 ^ dn && !sticky
  let inc : Bool := match mode with
    | .rne => above || (tie && q % 2 == 1)
    | .rtz => false
    | .rup => ix && !neg
    | .rdn => ix && neg
  (if inc then q + 1 else q, ix)

/-- Order of two magnitudes `m * 2 ^ e`. -/
def magLt (m : Nat) (e : Int) (m' : Nat) (e' : Int) : Bool :=
  m * 2 ^ (e - e').toNat < m' * 2 ^ (e' - e).toNat

/-- A rounded value with its exception conditions (R77). -/
structure Rounded where
  val : FVal
  nx : Bool := false
  ovf : Bool := false
  tiny : Bool := false
  deriving DecidableEq, Repr, Inhabited

/-- `Round` of a finite exact value to a floating format (R39, R75). -/
def roundFin (f : FFmt) (mode : Mode) (neg : Bool) (mag : Nat) (e : Int) (sticky : Bool) : Rounded :=
  if mag = 0 then { val := .fin neg 0 0 }
  else
    let u0 := (Nat.log2 mag : Int) + e - f.mb
    let q0 := (roundAt mode neg mag e sticky u0).1
    let (mm, me) := f.maxMag
    if magLt mm me q0 u0 then
      let away : Bool := match mode with
        | .rne => true
        | .rtz => false
        | .rup => !neg
        | .rdn => neg
      { val := if f.sp = .ieee ∧ away then .inf neg else .fin neg mm me, nx := true, ovf := true }
    else
      let tiny := magLt q0 u0 1 f.emin
      let u := max u0 (f.emin - f.mb)
      let (q, ix) := roundAt mode neg mag e sticky u
      { val := .fin neg q u, nx := ix, tiny := tiny }

/-- A rounded result as pattern and sticky flags; a tiny result is flushed when `ftz` (R76, R77). -/
def finish (f : FFmt) (ftz : Bool) (neg : Bool) (r : Rounded) : Nat × Word :=
  if ftz ∧ r.tiny then (f.sign neg, astUF ||| astNX)
  else (f.encode r.val,
    flagIf r.nx astNX ||| flagIf r.ovf astOF ||| flagIf (r.tiny && r.nx) astUF)

/-- A source operand under FTZ (R76). -/
def FFmt.source (f : FFmt) (ftz : Bool) (x : Nat) : Nat :=
  if ftz ∧ bits x f.mb f.eb = 0 then f.sign (bit x (f.eb + f.mb)) else x % 2 ^ f.width

/-! ### Exact sums and products -/

/-- A signed significand. -/
def signed (neg : Bool) (m : Nat) : Int := if neg then -(m : Int) else m

/-- The exact sum of two finite values; an exact zero of opposite signs takes the sign the mode gives
(R77). -/
def addFin (mode : Mode) (n1 : Bool) (m1 : Nat) (e1 : Int) (n2 : Bool) (m2 : Nat) (e2 : Int) :
    Bool × Nat × Int :=
  let e := min e1 e2
  let x := signed n1 (m1 * 2 ^ (e1 - e).toNat) + signed n2 (m2 * 2 ^ (e2 - e).toNat)
  if x = 0 then ((if n1 = n2 then n1 else mode == .rdn), 0, 0) else (x < 0, x.natAbs, e)

/-- Whether a value is a signalling NaN. -/
def FVal.snan : FVal → Bool
  | .nan s => s
  | _ => false

/-- Whether a value is a NaN. -/
def FVal.isNan : FVal → Bool
  | .nan _ => true
  | _ => false

/-- The canonical NaN, with NV when `inv`. -/
def nanOut (f : FFmt) (inv : Bool) : Nat × Word := (f.nan, flagIf inv astNV)

/-- `a + b` with one rounding (R77, R142). -/
def addVal (f : FFmt) (ftz : Bool) (mode : Mode) (a b : FVal) : Nat × Word :=
  match a, b with
  | .nan s, y => nanOut f (s || y.snan)
  | _, .nan s => nanOut f s
  | .inf x, .inf y => if x = y then (f.sign x + f.inf, 0) else nanOut f true
  | .inf x, _ => (f.sign x + f.inf, 0)
  | _, .inf y => (f.sign y + f.inf, 0)
  | .fin n1 m1 e1, .fin n2 m2 e2 =>
    let (n, m, e) := addFin mode n1 m1 e1 n2 m2 e2
    finish f ftz n (roundFin f mode n m e false)

/-- The sign of a value changed. -/
def FVal.neg : FVal → FVal
  | .nan s => .nan s
  | .inf n => .inf (!n)
  | .fin n m e => .fin (!n) m e

/-- The exact product of two values: none for 0 × infinity. -/
def mulVal (a b : FVal) : Option FVal :=
  match a, b with
  | .nan s, y => some (.nan (s || y.snan))
  | _, .nan s => some (.nan s)
  | .inf x, .inf y => some (.inf (x ^^ y))
  | .inf x, .fin n m _ => if m = 0 then none else some (.inf (x ^^ n))
  | .fin n m _, .inf y => if m = 0 then none else some (.inf (y ^^ n))
  | .fin n1 m1 e1, .fin n2 m2 e2 => some (.fin (n1 ^^ n2) (m1 * m2) (e1 + e2))

/-- A value rounded to a format, with the flags of R77. -/
def roundVal (f : FFmt) (ftz : Bool) (mode : Mode) : FVal → Nat × Word
  | .nan s => nanOut f s
  | .inf n => (f.sign n + f.inf, 0)
  | .fin n m e => finish f ftz n (roundFin f mode n m e false)

/-- `a * b` with one rounding (R142). -/
def mulOp (f : FFmt) (ftz : Bool) (mode : Mode) (a b : FVal) : Nat × Word :=
  match mulVal a b with
  | none => nanOut f true
  | some p => roundVal f ftz mode p

/-- `a * b + c` with one rounding: 0 × infinity sets NV even beside a quiet NaN (R142). -/
def fmaOp (f : FFmt) (ftz : Bool) (mode : Mode) (a b c : FVal) : Nat × Word :=
  match mulVal a b with
  | none => nanOut f true
  | some p => addVal f ftz mode p c

/-- `.sat`: a NaN or a value not above 0 gives +0, a value above 1 gives 1 (R142). -/
def satUnit (f : FFmt) (x : Nat) : Nat :=
  match f.decode x with
  | .nan _ => 0
  | .inf n => if n then 0 else f.bias * 2 ^ f.mb
  | .fin n m e => if n ∨ m = 0 then 0 else if magLt 1 0 m e then f.bias * 2 ^ f.mb else x

/-- Order of two values that are numbers, −0 equal to +0: (less, equal). -/
def cmpVal (a b : FVal) : Bool × Bool :=
  match a, b with
  | .inf x, .inf y => (x && !y, x == y)
  | .inf x, _ => (x, false)
  | _, .inf y => (!y, false)
  | .fin n1 m1 e1, .fin n2 m2 e2 =>
    let e := min e1 e2
    let x := signed n1 (m1 * 2 ^ (e1 - e).toNat)
    let y := signed n2 (m2 * 2 ^ (e2 - e).toNat)
    (x < y, x == y)
  | _, _ => (false, false)

/-- The condition of `fcmp` (R144). -/
def fcond (n : Nat) (a b : FVal) : Bool :=
  let nan := a.isNan || b.isNan
  let (lt, eq) := cmpVal a b
  match n with
  | 0 => !nan && eq
  | 1 => nan || !eq
  | 2 => !nan && lt
  | 3 => !nan && (lt || eq)
  | 4 => !nan && !(lt || eq)
  | 5 => !nan && !lt
  | 6 => nan
  | _ => !nan

/-- The sign of a number. -/
def FVal.sgn : FVal → Bool
  | .nan _ => false
  | .inf n => n
  | .fin n _ _ => n

/-- `fmin` and `fmax` on patterns after R76 (R143). -/
def minMax (f : FFmt) (isMax nanMode : Bool) (a b : Nat) : Nat × Word :=
  let x := f.decode a
  let y := f.decode b
  let nv := flagIf (x.snan || y.snan) astNV
  if x.isNan ∨ y.isNan then
    (if nanMode ∨ (x.isNan ∧ y.isNan) then f.nan else if x.isNan then b else a, nv)
  else
    let (lt, eq) := cmpVal x y
    let less := lt || (eq && x.sgn && !y.sgn)
    let same := eq && (x.sgn == y.sgn)
    (if same then a else if isMax then (if less then b else a) else (if less then a else b), nv)

/-! ### Division and square root (R150) -/

/-- `a / b` with one rounding (R77, R150). -/
def divVal (f : FFmt) (ftz : Bool) (mode : Mode) (a b : FVal) : Nat × Word :=
  match a, b with
  | .nan s, y => nanOut f (s || y.snan)
  | _, .nan s => nanOut f s
  | .inf _, .inf _ => nanOut f true
  | .inf x, .fin n _ _ => (f.sign (x ^^ n) + f.inf, 0)
  | .fin n _ _, .inf y => (f.sign (n ^^ y), 0)
  | .fin n1 m1 e1, .fin n2 m2 e2 =>
    let n := n1 ^^ n2
    if m2 = 0 then (if m1 = 0 then nanOut f true else (f.sign n + f.inf, astDZ))
    else if m1 = 0 then (f.sign n, 0)
    else
      let k := 80 + Nat.log2 m2
      let x := m1 * 2 ^ k
      finish f ftz n (roundFin f mode n (x / m2) (e1 - e2 - k) (x % m2 ≠ 0))

/-- The square root with one rounding (R77, R150). -/
def sqrtVal (f : FFmt) (ftz : Bool) (mode : Mode) : FVal → Nat × Word
  | .nan s => nanOut f s
  | .inf n => if n then nanOut f true else (f.inf, 0)
  | .fin n m e =>
    if m = 0 then (f.sign n, 0)
    else if n then nanOut f true
    else
      let k : Int := 80 + (e % 2)
      let x := m * 2 ^ k.toNat
      let r := Nat.sqrt x
      finish f ftz false (roundFin f mode false r ((e - k) / 2) (r * r ≠ x))

/-! ### Rounding to integers (R39, R146) -/

/-- A finite value rounded to an integer, with whether it was inexact. -/
def roundInt (mode : Mode) (neg : Bool) (m : Nat) (e : Int) : Int × Bool :=
  let (q, ix) := roundAt mode neg m e false 0
  (signed neg q, ix)

/-- `frnd` (R146): pattern and flags. -/
def roundIntegral (ftz : Bool) (mode : Mode) (exact : Bool) (x : Nat) : Nat × Word :=
  let x := f32.source ftz x
  match f32.decode x with
  | .nan s => nanOut f32 s
  | .inf _ => (x, 0)
  | .fin n m e =>
    let (q, ix) := roundAt mode n m e false 0
    (f32.encodeFin n q 0, flagIf (exact && ix) astNX)

/-- `fclass` (R147). -/
def classBit (f : FFmt) (x : Nat) : Nat :=
  match f.decode x with
  | .nan s => if s then 0 else 1
  | .inf n => if n then 2 else 9
  | .fin n m e =>
    if m = 0 then (if n then 5 else 6)
    else if magLt m e 1 f.emin then (if n then 4 else 7)
    else if n then 3 else 8

/-! ### Conversions (R78, R152 to R157) -/

/-- The floating format of a conversion code 0 to 7 (R152). -/
def fmtOf : Nat → FFmt
  | 0 => f32
  | 1 => f16
  | 2 => bf16
  | 3 => f8e5
  | 4 => f8e4
  | 5 => f6e3
  | 6 => f6e2
  | _ => f4e2

/-- Range of an integer or T2 conversion code 8 to 15 (R67, R78). -/
def intRange : Nat → Int × Int
  | 8 => (-(2 ^ 31), 2 ^ 31 - 1)
  | 9 => (0, 2 ^ 32 - 1)
  | 10 => (-32768, 32767)
  | 11 => (-128, 127)
  | 12 => (0, 255)
  | 13 => (-8, 7)
  | 14 => (0, 15)
  | _ => (-1, 1)

/-- A value to convert: floating, or an integer with the flags its reading set. -/
inductive CVal where
  | flt (v : FVal)
  | int (x : Int)
  deriving DecidableEq, Repr, Inhabited

/-- The value of a register in the source format (R152), R76 applied for F32 and F16 sources, and the
flags the reading sets. -/
def readCode (ftz : Bool) (code : Nat) (w : Word) : CVal × Word :=
  let x := w.toNat
  match code with
  | 0 => (.flt (f32.decode (f32.source ftz x)), 0)
  | 1 => (.flt (f16.decode (f16.source ftz (x % 65536))), 0)
  | 8 => (.int (sext 32 x), 0)
  | 9 => (.int x, 0)
  | 10 => (.int (sext 16 x), 0)
  | 11 => (.int (sext 8 x), 0)
  | 12 => (.int (x % 256 : Nat), 0)
  | 13 => (.int (sext 4 x), 0)
  | 14 => (.int (x % 16 : Nat), 0)
  | 15 => let c := clamp (-1) 1 (sext 32 x); (.int c.1, flagIf c.2 astCVT)
  | c => (.flt ((fmtOf c).decode (x % 2 ^ (fmtOf c).width)), 0)

/-- Whether FTZ applies to a target (R76). -/
def ftzTarget (code : Nat) : Bool := code ≤ 2

/-- Whether FTZ applies to the source of a conversion into a target: never of one into a format of 8, 6 or 4 bits, which
keeps subnormals (R76). -/
def ftzInto (ftz : Bool) (code : Nat) : Bool := ftz && !(decide (3 ≤ code ∧ code ≤ 7))

/-- A floating or integer value to a floating format (R78): pattern and flags. -/
def toFloat (ftz : Bool) (code : Nat) (mode : Mode) (v : CVal) : Nat × Word :=
  let f := fmtOf code
  let fin (n : Bool) (m : Nat) (e : Int) : Nat × Word :=
    let r := roundFin f mode n m e false
    let o := finish f (ftz && ftzTarget code) n r
    (o.1, o.2 ||| flagIf (r.ovf && f.sp != .ieee) astCVT)
  match v with
  | .int x => fin (x < 0) x.natAbs 0
  | .flt (.fin n m e) => fin n m e
  | .flt (.inf n) =>
    if f.sp = .ieee then (f.sign n + f.inf, 0) else (f.encodeFin n f.maxMag.1 f.maxMag.2, astCVT)
  | .flt (.nan s) =>
    if f.sp = .none_ then (0, astNV ||| astCVT) else nanOut f s

/-- A value to an integer or T2 format (R78): the integer and its flags. -/
def toInt (code : Nat) (mode : Mode) (v : CVal) : Int × Word :=
  let (lo, hi) := intRange code
  let bad : Word := if code = 15 then astCVT else astNV ||| astCVT
  match v with
  | .int x => let c := clamp lo hi x; (c.1, flagIf c.2 astCVT)
  | .flt (.nan _) => (0, astNV ||| astCVT)
  | .flt (.inf n) => (if n then lo else hi, bad)
  | .flt (.fin n m e) =>
    let (x, ix) := roundInt mode n m e
    let c := clamp lo hi x
    if c.2 then (c.1, bad) else (x, flagIf ix astNX)

/-- A value to any conversion code: the register value in the target's layout, and the flags (R78,
R152). -/
def convert (ftz : Bool) (code : Nat) (mode : Mode) (v : CVal) : Word × Word :=
  if code < 8 then let r := toFloat ftz code mode v; (BitVec.ofNat 32 r.1, r.2)
  else let r := toInt code mode v; (wordOf r.1, r.2)

/-- A value to B1: true for −1 (R78). -/
def toB1 : CVal → Bool × Word
  | .int x => (x < 0, 0)
  | .flt (.nan _) => (false, astNV ||| astCVT)
  | .flt (.inf n) => (n, 0)
  | .flt (.fin n m _) => (n && m != 0, 0)

/-! ### F32 words -/

/-- Two F32 words added under RNE with subnormals kept or flushed (R113, R313). -/
def addF32 (ftz : Bool) (a b : Word) : Word × Word :=
  let r := addVal f32 ftz .rne (f32.decode (f32.source ftz a.toNat)) (f32.decode (f32.source ftz b.toNat))
  (BitVec.ofNat 32 r.1, r.2)

/-- `fmax` of two F32 words without `.nan` (R113, R143). -/
def maxF32 (ftz : Bool) (a b : Word) : Word × Word :=
  let r := minMax f32 true false (f32.source ftz a.toNat) (f32.source ftz b.toNat)
  (BitVec.ofNat 32 r.1, r.2)

end Sys2Proof.Machine
end

