-- ==== Sys2Proof/Machine/Integer.lean ====
section
/-! DEFINITION. The integer and bit instructions (R114 to R139). -/

namespace Sys2Proof.Machine

/-! ### Pure functions -/

/-- Operand `i` of a list of operand values. -/
def opd (l : List Word) (i : Nat) : Word := l.getD i 0

/-- The carry-in addition or subtraction of R127: the exact result. -/
def carrySum (sub : Bool) (a b : Word) (ci : Nat) : Int :=
  if sub then (a.toNat : Int) - b.toNat - ci else a.toNat + b.toNat + ci

/-- `iaddc` (R127). -/
def addCarry (sub co : Bool) (a b c : Word) : Word :=
  let x := carrySum sub a b (c.toNat % 2)
  if co then (if (if sub then x < 0 else 2 ^ 32 ≤ x) then 1 else 0) else wordOf x

/-- The exact product of two words (R128). -/
def product (unsigned : Bool) (a b : Word) : Int :=
  if unsigned then a.toNat * b.toNat else a.toInt * b.toInt

/-- Quotient, remainder and the DIV flag (R129). -/
def divide (unsigned : Bool) (a b : Word) : Word × Word × Bool :=
  if unsigned then
    if b = 0 then (0xFFFFFFFF, a, true) else (a / b, a % b, false)
  else if b = 0 then (if 0 ≤ a.toInt then 0x7FFFFFFF else 0x80000000, a, true)
  else if a = 0x80000000 ∧ b = 0xFFFFFFFF then (0x7FFFFFFF, 0, true)
  else (wordOf (a.toInt.tdiv b.toInt), wordOf (a.toInt.tmod b.toInt), false)

/-- Order of two words, signed or unsigned (R130, R136). -/
def less (unsigned : Bool) (a b : Word) : Bool := if unsigned then a.ult b else a.slt b

/-- The lesser or greater of two words (R130). -/
def pickMin (unsigned : Bool) (a b : Word) : Word := if less unsigned b a then b else a

/-- The greater of two words (R130). -/
def pickMax (unsigned : Bool) (a b : Word) : Word := if less unsigned a b then b else a

/-- A shift count, taken modulo 32 with `.wrap`; 32 stands for every greater one (R132). -/
def shiftCount (wrap : Bool) (b : Word) : Nat := if wrap then b.toNat % 32 else min b.toNat 32

/-- `shl` (R132). -/
def shiftLeft (wrap : Bool) (a b : Word) : Word := a <<< shiftCount wrap b

/-- `shr` (R132). -/
def shiftRight (wrap : Bool) (a b : Word) : Word := a >>> shiftCount wrap b

/-- `sar` (R132). -/
def shiftArith (wrap : Bool) (a b : Word) : Word := a.sshiftRight (shiftCount wrap b)

/-- `rot` (R132). -/
def rotate (right : Bool) (a b : Word) : Word :=
  if right then a.rotateRight (b.toNat % 32) else a.rotateLeft (b.toNat % 32)

/-- Position and length of a bit field that a control value names (R133). -/
def fieldOf (k : Word) : Nat × Nat :=
  let pos := bits k.toNat 0 8
  let len := bits k.toNat 8 8
  (pos, if 32 ≤ pos ∨ len = 0 then 0 else min len (32 - pos))

/-- `bfe` (R133). -/
def extractField (signed : Bool) (a k : Word) : Word :=
  let (pos, e) := fieldOf k
  if e = 0 then 0
  else if signed then wordOf (sext e (bits a.toNat pos e)) else BitVec.ofNat 32 (bits a.toNat pos e)

/-- `bfi` (R133). -/
def insertField (a b k : Word) : Word :=
  let (pos, e) := fieldOf k
  if e = 0 then a else BitVec.ofNat 32 (setBits a.toNat pos e b.toNat)

/-- Number of 1 bits (R134). -/
def countOnes (a : Word) : Nat := ((List.range 32).filter (fun i => a.getLsbD i)).length

/-- Zeros above the highest 1 bit (R134). -/
def leadZeros (a : Word) : Nat :=
  (((List.range 32).reverse).takeWhile (fun i => !a.getLsbD i)).length

/-- Zeros below the lowest 1 bit (R134). -/
def trailZeros (a : Word) : Nat := ((List.range 32).takeWhile (fun i => !a.getLsbD i)).length

/-- Reversed bit order of the low `n` bits (R134, R135). -/
def reverseBits (n x : Nat) : Nat := ((List.range n).map (fun i => b2n (bit x i) * 2 ^ (n - 1 - i))).sum

/-- One byte that a byte control of `prmt` builds (R135). -/
def permuteByte (src ctl : Nat) : Nat :=
  match ctl / 8 with
  | 0 => bits src (8 * (ctl % 8)) 8
  | 1 => reverseBits 8 (bits src (8 * (ctl % 8)) 8)
  | 2 => 0
  | _ => 0xFF

/-- `prmt` (R135). -/
def permute (a b c : Word) : Word :=
  let src := a.toNat + b.toNat * 2 ^ 32
  BitVec.ofNat 32 (leNat ((List.range 4).map (fun k =>
    BitVec.ofNat 8 (permuteByte src (bits c.toNat (5 * k) 5)))))

/-- The condition of `icmp` (R136). -/
def icond (n : Nat) (unsigned : Bool) (a b : Word) : Bool :=
  match n with
  | 0 => a == b
  | 1 => a != b
  | 2 => less unsigned a b
  | 3 => !less unsigned b a
  | 4 => less unsigned b a
  | _ => !less unsigned a b

/-- The outcome combined into one bit of D (R136, R144). -/
def combBit (comb : Nat) (old : Word) (pos : Nat) (res : Bool) : Word :=
  let o := old.getLsbD pos
  let r := match comb with
    | 0 => res
    | 1 => o && res
    | 2 => o || res
    | _ => o ^^ res
  BitVec.ofNat 32 (setBits old.toNat pos 1 (b2n r))

/-- The bit number of D that a comparison writes (R136). -/
def cmpPos (f : Fields) (c : Word) : Nat := (c.toNat % 32 + f.mod 6 5) % 32

/-- `lea` (R139). -/
def address (unsigned : Bool) (n : Nat) (a : BitVec 64) (b : Word) : BitVec 64 :=
  a + ((if unsigned then b.zeroExtend 64 else b.signExtend 64) <<< n)

/-- The two registers of a 64-bit result with one taint. -/
def pairVals (x : BitVec 64) (taint : Bool) : List (Word × Bool) :=
  [(x.extractLsb' 0 32, taint), (x.extractLsb' 32 32, taint)]

/-! ### Meanings -/

/-- `iadd` (R126). -/
def execIadd (f : Fields) : State → Host.Outcome State Fault Refusal :=
  issued (.iadd f) (wordOp f [f.a, f.b] fun l =>
    let m := f.mod 0 2
    if m = 2 then narrow m ((opd l 0).toNat + (opd l 1).toNat : Int)
    else narrow m ((opd l 0).toInt + (opd l 1).toInt))

/-- `isub` (R126). -/
def execIsub (f : Fields) : State → Host.Outcome State Fault Refusal :=
  issued (.isub f) (wordOp f [f.a, f.b] fun l =>
    let m := f.mod 0 2
    if m = 2 then narrow m ((opd l 0).toNat - (opd l 1).toNat : Int)
    else narrow m ((opd l 0).toInt - (opd l 1).toInt))

/-- `iaddc` (R127). -/
def execIaddc (f : Fields) : State → Host.Outcome State Fault Refusal :=
  issued (.iaddc f) (wordOp f [f.a, f.b, f.c] fun l =>
    (addCarry (f.mod 1 1 == 1) (f.mod 0 1 == 1) (opd l 0) (opd l 1) (opd l 2), 0))

/-- `imul` (R126). -/
def execImul (f : Fields) : State → Host.Outcome State Fault Refusal :=
  issued (.imul f) (wordOp f [f.a, f.b] fun l => (opd l 0 * opd l 1, 0))

/-- `imulh` (R128). -/
def execImulh (f : Fields) : State → Host.Outcome State Fault Refusal :=
  issued (.imulh f) (wordOp f [f.a, f.b] fun l =>
    (wordOf (product (f.mod 0 1 == 1) (opd l 0) (opd l 1) / 2 ^ 32), 0))

/-- `imad` (R126). -/
def execImad (f : Fields) : State → Host.Outcome State Fault Refusal :=
  issued (.imad f) (wordOp f [f.a, f.b, f.c] fun l =>
    let m := f.mod 0 2
    if m = 2 then narrow m ((opd l 0).toNat * (opd l 1).toNat + (opd l 2).toNat : Int)
    else narrow m ((opd l 0).toInt * (opd l 1).toInt + (opd l 2).toInt))

/-- The 64-bit result of `imadw` in one lane (R128). -/
def imadwLane (f : Fields) (sh : Sheaf) (t : Nat) : LaneOut :=
  let u := f.mod 0 1 == 1
  let c := sh.readPair f.imm t f.c (!u)
  let x := BitVec.ofInt 64 (product u (sh.read f.imm t f.a) (sh.read f.imm t f.b)) + c
  let taint := sh.taintOf t f.a || sh.taintOf t f.b || sh.taintRun t f.c 2
  ⟨t, pairVals x taint, 0⟩

/-- `imadw` (R128). -/
def execImadw (f : Fields) : State → Host.Outcome State Fault Refusal :=
  issued (.imadw f) (laneOp f.d 2 (imadwLane f))

/-- A long-latency instruction that reads single registers and writes `n` registers: it enters flight
with its sources captured (R24, R25). -/
def longOp (i : Instr) (f : Fields) (srcs : List (BitVec 8)) (n : Nat) (is : Issue) (s : State) : Result :=
  let sh := s.sheaf is.sid
  .done (s.launch is i (is.act.map (sh.lane f.imm is.act srcs (regRun f.d n))))

/-- `idiv` (R129): its lanes land at LONG_LATENCY_COMPLETION. -/
def execIdiv (f : Fields) : State → Host.Outcome State Fault Refusal :=
  issued (.idiv f) (longOp (.idiv f) f [f.a, f.b] 1)

/-- `irem` (R129). -/
def execIrem (f : Fields) : State → Host.Outcome State Fault Refusal :=
  issued (.irem f) (longOp (.irem f) f [f.a, f.b] 1)

/-- `imin` (R130). -/
def execImin (f : Fields) : State → Host.Outcome State Fault Refusal :=
  issued (.imin f) (wordOp f [f.a, f.b] fun l => (pickMin (f.mod 0 1 == 1) (opd l 0) (opd l 1), 0))

/-- `imax` (R130). -/
def execImax (f : Fields) : State → Host.Outcome State Fault Refusal :=
  issued (.imax f) (wordOp f [f.a, f.b] fun l => (pickMax (f.mod 0 1 == 1) (opd l 0) (opd l 1), 0))

/-- `iabs` (R130). -/
def execIabs (f : Fields) : State → Host.Outcome State Fault Refusal :=
  issued (.iabs f) (wordOp f [f.a] fun l => narrow (f.mod 0 1) ((opd l 0).toInt.natAbs : Int))

/-- `ineg` (R130). -/
def execIneg (f : Fields) : State → Host.Outcome State Fault Refusal :=
  issued (.ineg f) (wordOp f [f.a] fun l => narrow (f.mod 0 1) (- (opd l 0).toInt))

/-- `and` (R131). -/
def execAnd (f : Fields) : State → Host.Outcome State Fault Refusal :=
  issued (.and f) (wordOp f [f.a, f.b] fun l => (opd l 0 &&& opd l 1, 0))

/-- `or` (R131). -/
def execOr (f : Fields) : State → Host.Outcome State Fault Refusal :=
  issued (.or f) (wordOp f [f.a, f.b] fun l => (opd l 0 ||| opd l 1, 0))

/-- `xor` (R131). -/
def execXor (f : Fields) : State → Host.Outcome State Fault Refusal :=
  issued (.xor f) (wordOp f [f.a, f.b] fun l => (opd l 0 ^^^ opd l 1, 0))

/-- `not` (R131). -/
def execNot (f : Fields) : State → Host.Outcome State Fault Refusal :=
  issued (.not f) (wordOp f [f.a] fun l => (~~~ opd l 0, 0))

/-- `andn` (R131). -/
def execAndn (f : Fields) : State → Host.Outcome State Fault Refusal :=
  issued (.andn f) (wordOp f [f.a, f.b] fun l => (opd l 0 &&& ~~~ opd l 1, 0))

/-- `shl` (R132). -/
def execShl (f : Fields) : State → Host.Outcome State Fault Refusal :=
  issued (.shl f) (wordOp f [f.a, f.b] fun l => (shiftLeft (f.mod 0 1 == 1) (opd l 0) (opd l 1), 0))

/-- `shr` (R132). -/
def execShr (f : Fields) : State → Host.Outcome State Fault Refusal :=
  issued (.shr f) (wordOp f [f.a, f.b] fun l => (shiftRight (f.mod 0 1 == 1) (opd l 0) (opd l 1), 0))

/-- `sar` (R132). -/
def execSar (f : Fields) : State → Host.Outcome State Fault Refusal :=
  issued (.sar f) (wordOp f [f.a, f.b] fun l => (shiftArith (f.mod 0 1 == 1) (opd l 0) (opd l 1), 0))

/-- `rot` (R132). -/
def execRot (f : Fields) : State → Host.Outcome State Fault Refusal :=
  issued (.rot f) (wordOp f [f.a, f.b] fun l => (rotate (f.mod 0 1 == 1) (opd l 0) (opd l 1), 0))

/-- `bfe` (R133). -/
def execBfe (f : Fields) : State → Host.Outcome State Fault Refusal :=
  issued (.bfe f) (wordOp f [f.a, f.b] fun l => (extractField (f.mod 0 1 == 1) (opd l 0) (opd l 1), 0))

/-- `bfi` (R133). -/
def execBfi (f : Fields) : State → Host.Outcome State Fault Refusal :=
  issued (.bfi f) (wordOp f [f.a, f.b, f.c] fun l => (insertField (opd l 0) (opd l 1) (opd l 2), 0))

/-- `popc` (R134). -/
def execPopc (f : Fields) : State → Host.Outcome State Fault Refusal :=
  issued (.popc f) (wordOp f [f.a] fun l => (BitVec.ofNat 32 (countOnes (opd l 0)), 0))

/-- `clz` (R134). -/
def execClz (f : Fields) : State → Host.Outcome State Fault Refusal :=
  issued (.clz f) (wordOp f [f.a] fun l => (BitVec.ofNat 32 (leadZeros (opd l 0)), 0))

/-- `ctz` (R134). -/
def execCtz (f : Fields) : State → Host.Outcome State Fault Refusal :=
  issued (.ctz f) (wordOp f [f.a] fun l => (BitVec.ofNat 32 (trailZeros (opd l 0)), 0))

/-- `brev` (R134). -/
def execBrev (f : Fields) : State → Host.Outcome State Fault Refusal :=
  issued (.brev f) (wordOp f [f.a] fun l => (BitVec.ofNat 32 (reverseBits 32 (opd l 0).toNat), 0))

/-- `prmt` (R135). -/
def execPrmt (f : Fields) : State → Host.Outcome State Fault Refusal :=
  issued (.prmt f) (wordOp f [f.a, f.b, f.c] fun l => (permute (opd l 0) (opd l 1) (opd l 2), 0))

/-- `icmp` (R136): D is read as a source. -/
def execIcmp (f : Fields) : State → Host.Outcome State Fault Refusal :=
  issued (.icmp f) (wordOp f [f.a, f.b, f.c, f.d] fun l =>
    (combBit (f.mod 4 2) (opd l 3) (cmpPos f (opd l 2))
      (icond (f.mod 0 3) (f.mod 3 1 == 1) (opd l 0) (opd l 1)), 0))

/-- `isel` (R137). -/
def execIsel (f : Fields) : State → Host.Outcome State Fault Refusal :=
  issued (.isel f) (wordOp f [f.a, f.b, f.c] fun l =>
    (if ((opd l 2).getLsbD (f.mod 0 5)) ^^ (f.mod 5 1 == 1) then opd l 0 else opd l 1, 0))

/-- `mov` (R138). -/
def execMov (f : Fields) : State → Host.Outcome State Fault Refusal :=
  issued (.mov f) (wordOp f [f.a] fun l => (opd l 0, 0))

/-- The word that `movi` writes over the old word of D (R138). -/
def moviWord (mode : Nat) (imm old : Word) : Word :=
  match mode with
  | 0 => imm
  | 1 => old.extractLsb' 16 16 ++ imm.extractLsb' 0 16
  | _ => imm.extractLsb' 0 16 ++ old.extractLsb' 0 16

/-- `movi` (R138): the partial forms read D. -/
def execMovi (f : Fields) : State → Host.Outcome State Fault Refusal :=
  issued (.movi f) (wordOp f (if f.mod 0 2 = 0 then [] else [f.d]) fun l =>
    (moviWord (f.mod 0 2) f.imm (opd l 0), 0))

/-- `lea` in one lane (R139). -/
def leaLane (f : Fields) (sh : Sheaf) (t : Nat) : LaneOut :=
  let y := address (f.mod 3 1 == 1) (f.mod 0 3) (sh.readPair f.imm t f.a false) (sh.read f.imm t f.b)
  ⟨t, pairVals y (sh.taintRun t f.a 2 || sh.taintOf t f.b), 0⟩

/-- `lea` (R139). -/
def execLea (f : Fields) : State → Host.Outcome State Fault Refusal :=
  issued (.lea f) (laneOp f.d 2 (leaLane f))

/-! ### Compressed spill (R122, R123) -/

/-- The nine registers that `vspill` writes from the eight of the group (R123).  DESIGN CHOICE (log 92): a
register that is written as 0 gets no taint. -/
def spillVals (g : List (Word × Bool)) : List (Word × Bool) :=
  let nz := g.filter (fun p => p.1 ≠ 0)
  let z := ((g.mapIdx (fun k p => if p.1 = 0 then 2 ^ k else 0))).sum
  (BitVec.ofNat 32 (nz.length * 256 + z), g.any (·.2)) ::
    (nz ++ List.replicate (8 - nz.length) (0, false))

/-- The eight registers that `vfill` writes: format byte `z`, then the data registers in order (R123).  DESIGN CHOICE
(log 92): a register that is written as 0 gets no taint. -/
def fillVals (z : Nat) (data : List (Word × Bool)) : List (Word × Bool) :=
  ((List.range 8).foldl (fun (acc : List (Word × Bool) × List (Word × Bool)) k =>
    if bit z k then (acc.1 ++ [(0, false)], acc.2)
    else (acc.1 ++ [acc.2.headD (0, false)], acc.2.tail)) ([], data)).1

/-- Values and taints of `n` registers. -/
def Sheaf.readTainted (sh : Sheaf) (t : Nat) (v : BitVec 8) (n : Nat) : List (Word × Bool) :=
  (regRun v n).map (fun r => (sh.read 0 t r, sh.taintOf t r))

/-- `vspill` (R123). -/
def execVspill (f : Fields) : State → Host.Outcome State Fault Refusal :=
  issued (.vspill f) fun is s =>
    if f.a.toNat % 8 ≠ 0 ∨ overlap f.d.toNat 9 f.a.toNat 8 then is.illegal s
    else laneOp f.d 9 (fun sh t => ⟨t, spillVals (sh.readTainted t f.a 8), 0⟩) is s

/-- `vfill` (R123). -/
def execVfill (f : Fields) : State → Host.Outcome State Fault Refusal :=
  issued (.vfill f) fun is s =>
    if f.d.toNat % 8 ≠ 0 ∨ overlap f.d.toNat 8 f.a.toNat 9 then is.illegal s
    else laneOp f.d 8 (fun sh t =>
      ⟨t, fillVals ((sh.read 0 t f.a).toNat % 256) (sh.readTainted t (regAt f.a 1) 8), 0⟩) is s

end Sys2Proof.Machine
end

