-- ==== Sys2Proof/Machine/Vector.lean ====
section
/-! DEFINITION. The floating, packed, pair, conversion and packing instructions (R34, R45, R46, R140 to
R148, R152 to R157). -/

namespace Sys2Proof.Machine

/-- FTZ of the kernel that a sheaf runs (R60, R76). -/
def State.ftz (s : State) (sid : Nat) : Bool := (s.wg (s.sheaf sid).wg).desc.ftz

/-- An instruction that writes one register with a function of the kernel's FTZ and its operands. -/
def ftzOp (f : Fields) (srcs : List (BitVec 8)) (g : Bool → List Word → Word × Word) (is : Issue)
    (s : State) : Result := wordOp f srcs (g (s.ftz is.sid)) is s

/-- An F32 source operand (R140, R76). -/
def srcF32 (ftz : Bool) (w : Word) : FVal := f32.decode (f32.source ftz w.toNat)

/-- Half `k` of a packed operand as F16 (R140, R76). -/
def srcF16 (ftz : Bool) (k : Nat) (w : Word) : FVal := f16.decode (f16.source ftz (bits w.toNat (16 * k) 16))

/-- `.sat` over a rounded F32 or F16 result (R142). -/
def satIf (fm : FFmt) (c : Bool) (r : Nat × Word) : Nat × Word := (if c then satUnit fm r.1 else r.1, r.2)

/-- A pattern as a register value. -/
def patWord (r : Nat × Word) : Word × Word := (BitVec.ofNat 32 r.1, r.2)

/-- Both halves of a packed result and the flags of both (R142). -/
def packHalves (lo hi : Nat × Word) : Word × Word := (BitVec.ofNat 32 (hi.1 * 65536 + lo.1), lo.2 ||| hi.2)

/-- `fadd` (R142). -/
def faddVal (ftz : Bool) (m : Mode) (sat : Bool) (a b : Word) : Word × Word :=
  patWord (satIf f32 sat (addVal f32 ftz m (srcF32 ftz a) (srcF32 ftz b)))

/-- `fsub` (R142). -/
def fsubVal (ftz : Bool) (m : Mode) (sat : Bool) (a b : Word) : Word × Word :=
  patWord (satIf f32 sat (addVal f32 ftz m (srcF32 ftz a) (srcF32 ftz b).neg))

/-- `fmul` (R142). -/
def fmulVal (ftz : Bool) (m : Mode) (sat : Bool) (a b : Word) : Word × Word :=
  patWord (satIf f32 sat (mulOp f32 ftz m (srcF32 ftz a) (srcF32 ftz b)))

/-- `ffma` (R142). -/
def ffmaVal (ftz : Bool) (m : Mode) (sat : Bool) (a b c : Word) : Word × Word :=
  patWord (satIf f32 sat (fmaOp f32 ftz m (srcF32 ftz a) (srcF32 ftz b) (srcF32 ftz c)))

/-- `fmin` and `fmax` (R143). -/
def fminmaxVal (ftz isMax nan : Bool) (a b : Word) : Word × Word :=
  patWord (minMax f32 isMax nan (f32.source ftz a.toNat) (f32.source ftz b.toNat))

/-- `fcpysgn` (R148). -/
def copySign (mode : Nat) (a b : Word) : Word :=
  let s := match mode with
    | 0 => b.getLsbD 31
    | 1 => !b.getLsbD 31
    | _ => a.getLsbD 31 ^^ b.getLsbD 31
  BitVec.ofBool s ++ a.extractLsb' 0 31

/-- A packed operation half by half (R142). -/
def halves (g : Nat → Nat × Word) : Word × Word := packHalves (g 0) (g 1)

/-- `hadd2` (R142). -/
def hadd2Val (ftz : Bool) (m : Mode) (sat : Bool) (a b : Word) : Word × Word :=
  halves fun k => satIf f16 sat (addVal f16 ftz m (srcF16 ftz k a) (srcF16 ftz k b))

/-- `hmul2` (R142). -/
def hmul2Val (ftz : Bool) (m : Mode) (sat : Bool) (a b : Word) : Word × Word :=
  halves fun k => satIf f16 sat (mulOp f16 ftz m (srcF16 ftz k a) (srcF16 ftz k b))

/-- `hfma2` (R142). -/
def hfma2Val (ftz : Bool) (m : Mode) (sat : Bool) (a b c : Word) : Word × Word :=
  halves fun k => satIf f16 sat (fmaOp f16 ftz m (srcF16 ftz k a) (srcF16 ftz k b) (srcF16 ftz k c))

/-- `hmin2` and `hmax2` (R143). -/
def hminmaxVal (ftz isMax nan : Bool) (a b : Word) : Word × Word :=
  halves fun k => minMax f16 isMax nan (f16.source ftz (bits a.toNat (16 * k) 16))
    (f16.source ftz (bits b.toNat (16 * k) 16))

/-- Rounding mode of MOD bits 1:0 (R74). -/
def rmOf (f : Fields) : Mode := modeOf (f.mod 0 2)

/-! ### Meanings -/

/-- `fadd` (R142). -/
def execFadd (f : Fields) : State → Host.Outcome State Fault Refusal :=
  issued (.fadd f) (ftzOp f [f.a, f.b] fun z l => faddVal z (rmOf f) (f.mod 2 1 == 1) (opd l 0) (opd l 1))

/-- `fsub` (R142). -/
def execFsub (f : Fields) : State → Host.Outcome State Fault Refusal :=
  issued (.fsub f) (ftzOp f [f.a, f.b] fun z l => fsubVal z (rmOf f) (f.mod 2 1 == 1) (opd l 0) (opd l 1))

/-- `fmul` (R142). -/
def execFmul (f : Fields) : State → Host.Outcome State Fault Refusal :=
  issued (.fmul f) (ftzOp f [f.a, f.b] fun z l => fmulVal z (rmOf f) (f.mod 2 1 == 1) (opd l 0) (opd l 1))

/-- `ffma` (R142). -/
def execFfma (f : Fields) : State → Host.Outcome State Fault Refusal :=
  issued (.ffma f) (ftzOp f [f.a, f.b, f.c] fun z l =>
    ffmaVal z (rmOf f) (f.mod 2 1 == 1) (opd l 0) (opd l 1) (opd l 2))

/-- `fmin` (R143). -/
def execFmin (f : Fields) : State → Host.Outcome State Fault Refusal :=
  issued (.fmin f) (ftzOp f [f.a, f.b] fun z l => fminmaxVal z false (f.mod 0 1 == 1) (opd l 0) (opd l 1))

/-- `fmax` (R143). -/
def execFmax (f : Fields) : State → Host.Outcome State Fault Refusal :=
  issued (.fmax f) (ftzOp f [f.a, f.b] fun z l => fminmaxVal z true (f.mod 0 1 == 1) (opd l 0) (opd l 1))

/-- The outcome of `fcmp` and its NV flag (R144). -/
def fcmpRes (z : Bool) (f : Fields) (a b : Word) : Bool × Word :=
  let x := srcF32 z a
  let y := srcF32 z b
  (fcond (f.mod 0 3) x y,
   flagIf (x.snan || y.snan || (f.mod 3 1 == 1 && (x.isNan || y.isNan))) astNV)

/-- `fcmp` (R144): D is read as a source. -/
def execFcmp (f : Fields) : State → Host.Outcome State Fault Refusal :=
  issued (.fcmp f) (ftzOp f [f.a, f.b, f.c, f.d] fun z l =>
    let r := fcmpRes z f (opd l 0) (opd l 1)
    (combBit (f.mod 4 2) (opd l 3) (cmpPos f (opd l 2)) r.1, r.2))

/-- `fsel` (R145). -/
def execFsel (f : Fields) : State → Host.Outcome State Fault Refusal :=
  issued (.fsel f) (wordOp f [f.a, f.b, f.c] fun l =>
    (if fcond (f.mod 0 3) (f32.decode (opd l 2).toNat) (f32.decode 0) then opd l 0 else opd l 1, 0))

/-- `frnd` (R146). -/
def execFrnd (f : Fields) : State → Host.Outcome State Fault Refusal :=
  issued (.frnd f) (ftzOp f [f.a] fun z l => patWord (roundIntegral z (rmOf f) (f.mod 2 1 == 1) (opd l 0).toNat))

/-- `fclass` (R147). -/
def execFclass (f : Fields) : State → Host.Outcome State Fault Refusal :=
  issued (.fclass f) (wordOp f [f.a] fun l =>
    (BitVec.ofNat 32 (2 ^ (if f.mod 0 1 = 1 then classBit f16 ((opd l 0).toNat % 65536)
      else classBit f32 (opd l 0).toNat)), 0))

/-- `fcpysgn` (R148). -/
def execFcpysgn (f : Fields) : State → Host.Outcome State Fault Refusal :=
  issued (.fcpysgn f) (wordOp f [f.a, f.b] fun l => (copySign (f.mod 0 2) (opd l 0) (opd l 1), 0))

/-- `hadd2` (R142). -/
def execHadd2 (f : Fields) : State → Host.Outcome State Fault Refusal :=
  issued (.hadd2 f) (ftzOp f [f.a, f.b] fun z l => hadd2Val z (rmOf f) (f.mod 2 1 == 1) (opd l 0) (opd l 1))

/-- `hmul2` (R142). -/
def execHmul2 (f : Fields) : State → Host.Outcome State Fault Refusal :=
  issued (.hmul2 f) (ftzOp f [f.a, f.b] fun z l => hmul2Val z (rmOf f) (f.mod 2 1 == 1) (opd l 0) (opd l 1))

/-- `hfma2` (R142). -/
def execHfma2 (f : Fields) : State → Host.Outcome State Fault Refusal :=
  issued (.hfma2 f) (ftzOp f [f.a, f.b, f.c] fun z l =>
    hfma2Val z (rmOf f) (f.mod 2 1 == 1) (opd l 0) (opd l 1) (opd l 2))

/-- `hmin2` (R143). -/
def execHmin2 (f : Fields) : State → Host.Outcome State Fault Refusal :=
  issued (.hmin2 f) (ftzOp f [f.a, f.b] fun z l => hminmaxVal z false (f.mod 0 1 == 1) (opd l 0) (opd l 1))

/-- `hmax2` (R143). -/
def execHmax2 (f : Fields) : State → Host.Outcome State Fault Refusal :=
  issued (.hmax2 f) (ftzOp f [f.a, f.b] fun z l => hminmaxVal z true (f.mod 0 1 == 1) (opd l 0) (opd l 1))

/-! ### Pair words (R34, R45, R46) -/

/-- A pair operation on its two sources and its old destination, all with MOD 0 (R45, R46). -/
def pairVal (z : Bool) (op : PairOp) (a b d : Word) : Word × Word :=
  match op with
  | .fadd => faddVal z .rne false a b
  | .fsub => fsubVal z .rne false a b
  | .fmul => fmulVal z .rne false a b
  | .ffma => ffmaVal z .rne false a b d
  | .fmin => fminmaxVal z false false a b
  | .fmax => fminmaxVal z true false a b
  | .fcpysgn => (copySign 0 a b, 0)
  | .hadd2 => hadd2Val z .rne false a b
  | .hmul2 => hmul2Val z .rne false a b
  | .hfma2 => hfma2Val z .rne false a b d
  | .hmin2 => hminmaxVal z false false a b
  | .hmax2 => hminmaxVal z true false a b
  | .iadd => (a + b, 0)
  | .isub => (a - b, 0)
  | .imul => (a * b, 0)
  | .imad => (a * b + d, 0)
  | .imin => (pickMin false a b, 0)
  | .imax => (pickMax false a b, 0)
  | .and => (a &&& b, 0)
  | .or => (a ||| b, 0)
  | .xor => (a ^^^ b, 0)
  | .andn => (a &&& ~~~ b, 0)
  | .shl => (shiftLeft false a b, 0)
  | .shr => (shiftRight false a b, 0)
  | .sar => (shiftArith false a b, 0)
  | .mov => (a, 0)

/-- One slot of a pair word in one lane, from the sheaf before either slot writes (R34). -/
def slotLane (z : Bool) (x : Slot) (sh : Sheaf) (t : Nat) : LaneOut :=
  let r := pairVal z x.op (sh.read 0 t x.a) (sh.read 0 t x.b) (sh.read 0 t x.d)
  ⟨t, [(r.1, x.reads.any (sh.taintOf t))], r.2⟩

/-- A pair word: both slots read before either writes (R34). -/
def execPairWord (x y : Slot) : State → Host.Outcome State Fault Refusal :=
  issued (.pairWord x y) fun is s =>
    let sh := s.sheaf is.sid
    let z := s.ftz is.sid
    let s := s.writeLanes is.sid x.d 1 (is.act.map (slotLane z x sh))
    .done (s.writeLanes is.sid y.d 1 (is.act.map (slotLane z y sh)))

/-! ### Conversions (R153 to R157) -/

/-- `cvt` (R153). -/
def execCvt (f : Fields) : State → Host.Outcome State Fault Refusal :=
  issued (.cvt f) (ftzOp f [f.a] fun z l =>
    let v := readCode (ftzInto z (f.mod 2 4)) (f.mod 6 4) (opd l 0)
    let r := convert z (f.mod 2 4) (rmOf f) v.1
    (r.1, r.2 ||| v.2))

/-- The exact difference of two finite values. -/
def subFin (x y : FVal) : FVal :=
  match x, y with
  | .fin n1 m1 e1, .fin n2 m2 e2 => let r := addFin .rne n1 m1 e1 (!n2) m2 e2; .fin r.1 r.2.1 r.2.2
  | _, _ => .fin false 0 0

/-- Narrowed value and residual of `cvt.ef` (R154). -/
def cvtEfVals (z : Bool) (code : Nat) (m : Mode) (a : Word) : Word × Word × Word :=
  let x := srcF32 (ftzInto z code) a
  let r := convert z code m (.flt x)
  let n : FVal :=
    if code < 8 then (fmtOf code).decode (r.1.toNat % 2 ^ (fmtOf code).width)
    else let i := if code = 12 ∨ code = 14 then (r.1.toNat : Int) else r.1.toInt; .fin (i < 0) i.natAbs 0
  match x, n with
  | .fin .., .fin .. =>
    match subFin x n with
    | .fin s mag e =>
      if mag = 0 then (r.1, 0, r.2)
      else let q := roundFin f32 .rne s mag e false; (r.1, BitVec.ofNat 32 (f32.encode q.val), r.2 ||| flagIf q.nx astNX)
    | _ => (r.1, 0, r.2)
  | _, _ => (r.1, 0, r.2)

/-- `cvt.ef` in one lane (R154). -/
def cvtEfLane (z : Bool) (f : Fields) (sh : Sheaf) (t : Nat) : LaneOut :=
  let r := cvtEfVals z (f.mod 2 4) (rmOf f) (sh.read f.imm t f.a)
  let taint := sh.taintOf t f.a
  ⟨t, [(r.1, taint), (r.2.1, taint)], r.2.2⟩

/-- `cvt.ef` (R154). -/
def execCvtEf (f : Fields) : State → Host.Outcome State Fault Refusal :=
  issued (.cvtEf f) fun is s => laneOp f.d 2 (cvtEfLane (s.ftz is.sid) f) is s

/-- Element bits and count of a packed format; T2 has no bits of its own (R155). -/
def packShape (code : Nat) : Nat × Nat :=
  match code with
  | 1 | 2 | 10 => (16, 2)
  | 3 | 4 | 11 | 12 => (8, 4)
  | 7 | 13 | 14 => (4, 8)
  | 5 | 6 => (6, 16)
  | 15 => (0, 20)
  | _ => (1, 32)

/-- Digit `i` of a T2 byte (R68). -/
def t2Digit (q i : Nat) : Nat := q / 3 ^ i % 3

/-- A T2 byte with digit `i` replaced (R68). -/
def setT2 (q i d : Nat) : Nat := q - t2Digit q i * 3 ^ i + d * 3 ^ i

/-- The weight of a T2 digit (R68). -/
def t2Weight (d : Nat) : Int := if d = 1 then 1 else if d = 2 then -1 else 0

/-- The converted element of `pack`, as its encoding, with flags (R155): T2 as its digit, B1 as its
bit. -/
def packElem (z : Bool) (code : Nat) (m : Mode) (a : Word) : Nat × Word :=
  if code = 0 then let r := toB1 (readCode z 0 a).1; (b2n r.1, r.2)
  else if code = 15 then
    let r := toInt 15 m (readCode z 0 a).1
    (if r.1 = 1 then 1 else if r.1 = -1 then 2 else 0, r.2)
  else if code < 8 then toFloat z code m (readCode (ftzInto z code) 0 a).1
  else let r := toInt code m (readCode z 8 a).1; ((wordOf r.1).toNat % 2 ^ (packShape code).1, r.2)

/-- The packed vector, as a number, with element `j` replaced (R155). -/
def packInto (code old j e : Nat) : Nat :=
  if code = 15 then
    let q := bits old (8 * (j / 5)) 8
    setBits old (8 * (j / 5)) 8 (setT2 (if 243 ≤ q then 0 else q) (j % 5) e)
  else setBits old ((packShape code).1 * j) (packShape code).1 e

/-- The element index of `pack` and `unpack` (R155). -/
def packIndex (code : Nat) (b : Word) : Nat := b.toNat % 32 % (packShape code).2

/-- The number held in a run of registers, the first least significant. -/
def runNat (l : List Word) : Nat := leNat (wordsBytes l)

/-- `pack` in one lane (R155): every register of the destination is written. -/
def packLane (z : Bool) (f : Fields) (sh : Sheaf) (t : Nat) : LaneOut :=
  let code := f.mod 2 4
  let n := packRegs code
  let e := packElem z code (rmOf f) (sh.read f.imm t f.a)
  let x := packInto code (runNat (sh.readRun f.imm t f.d n)) (packIndex code (sh.read f.imm t f.b)) e.1
  let taint := sh.taintOf t f.a || sh.taintOf t f.b || sh.taintRun t f.d n
  ⟨t, (List.range n).map (fun i => (BitVec.ofNat 32 (x / 2 ^ (32 * i)), taint)), e.2⟩

/-- `pack` (R155). -/
def execPack (f : Fields) : State → Host.Outcome State Fault Refusal :=
  issued (.pack f) fun is s => laneOp f.d (packRegs (f.mod 2 4)) (packLane (s.ftz is.sid) f) is s

/-- Element `j` of a packed vector, widened exactly (R156). -/
def unpackElem (z : Bool) (code x j : Nat) : Word × Word :=
  let e := bits x ((packShape code).1 * j) (packShape code).1
  if code = 0 then (if e = 1 then 0xBF800000 else 0x3F800000, 0)
  else if code = 15 then
    let q := bits x (8 * (j / 5)) 8
    if 243 ≤ q then (0, astCVT)
    else
      let w := t2Weight (t2Digit q (j % 5))
      (if w = 1 then 0x3F800000 else if w = -1 then 0xBF800000 else 0, 0)
  else if code < 8 then convert z 0 .rne (readCode z code (BitVec.ofNat 32 e)).1
  else
    match (readCode z code (BitVec.ofNat 32 e)).1 with
    | .int i => (wordOf i, 0)
    | .flt _ => (0, 0)

/-- `unpack` in one lane (R156).  DEDUCED (log 73): of a 6-bit vector that 0xF1 or 0xF2 names the three
words are that same index. -/
def unpackLane (z : Bool) (f : Fields) (sh : Sheaf) (t : Nat) : LaneOut :=
  let code := f.mod 2 4
  let n := packRegs code
  let r := unpackElem z code (runNat (sh.readRun f.imm t f.a n)) (packIndex code (sh.read f.imm t f.b))
  ⟨t, [(r.1, sh.taintRun t f.a n || sh.taintOf t f.b)], r.2⟩

/-- `unpack` (R156). -/
def execUnpack (f : Fields) : State → Host.Outcome State Fault Refusal :=
  issued (.unpack f) fun is s => laneOp f.d 1 (unpackLane (s.ftz is.sid) f) is s

/-- The least scale code for a magnitude (R157). -/
def scaleCode (code m : Nat) (e : Int) : Nat :=
  let (mm, me) := (fmtOf code).maxMag
  ((List.range 255).find? (fun (c : Nat) => !magLt mm (me + (c : Int) - 127) m e)).getD 254

/-- `qscale` (R157). -/
def qscaleVal (z : Bool) (code : Nat) (inv : Bool) (a : Word) : Word × Word :=
  let r : Nat × Word := match srcF32 z a with
    | .nan s => (0xFF, flagIf s astNV)
    | .inf _ => (0xFF, astCVT)
    | .fin _ m e => (if m = 0 then 127 else scaleCode code m e, 0)
  if inv then
    (if r.1 = 0xFF then BitVec.ofNat 32 f32.nan
     else BitVec.ofNat 32 (f32.encodeFin false 1 (127 - (r.1 : Int))), r.2)
  else (BitVec.ofNat 32 r.1, r.2)

/-- `qscale` (R157). -/
def execQscale (f : Fields) : State → Host.Outcome State Fault Refusal :=
  issued (.qscale f) (ftzOp f [f.a] fun z l => qscaleVal z (f.mod 2 4) (f.mod 0 1 == 1) (opd l 0))

end Sys2Proof.Machine
end

