-- ==== Sys2Proof/Machine/Scratch.lean ====
section
/-! DEFINITION. Scratchpad addresses and their faults, the order of a core's accesses, and the
scratchpad loads, stores and atomics (R158 to R167). -/

namespace Sys2Proof.Machine

/-! ### Addresses (R160, R161) -/

/-- The workgroup of a sheaf. -/
def State.wgOf (s : State) (sid : Nat) : Nat := (s.sheaf sid).wg

/-- The workgroup whose allocation an address names: the own one, or the partner's (R160).  DESIGN CHOICE (log 76):
once the partner has retired its allocation still reads as it stood, zero after its release, and a write to it reaches
no other workgroup. -/
def State.scratchWg (s : State) (w : Nat) (a : Word) : Option Nat :=
  if a.getLsbD 24 then (s.wg w).partner else some w

/-- Byte offset within the allocation (R160). -/
def scratchOff (a : Word) : Nat := bits a.toNat 0 19

/-- The sub-code that an access of `size` bytes at a multiple of `al` meets, the lowest number first (R161,
R424). -/
def State.scratchFaultAl (s : State) (w : Nat) (a : Word) (size al : Nat) : Option Nat :=
  let mbz : Bool := bits a.toNat 25 7 != 0 || bits a.toNat 19 5 != 0
  let beyond : Bool := match s.scratchWg w a with
    | some v => decide ((s.wg v).size < scratchOff a + size)
    | none => false
  if mbz ∨ beyond then some 1
  else if a.toNat % al ≠ 0 then some 2
  else if a.getLsbD 24 ∧ (s.wg w).partner.isNone then some 3
  else none

/-- The sub-code that an access of `size` bytes meets. -/
def State.scratchFault (s : State) (w : Nat) (a : Word) (size : Nat) : Option Nat :=
  s.scratchFaultAl w a size size

/-- The scratchpad access fault of a list of lanes (thread, address), where one is met: the lowest
faulting lane gives sub-code and address, the mask lists all of them (R161, R424). -/
def State.scratchCheck (s : State) (is : Issue) (l : List (Nat × Word)) (size : Nat) : Option Result :=
  let w := s.wgOf is.sid
  let bad := l.filter (fun p => (s.scratchFault w p.2 size).isSome)
  match bad with
  | [] => none
  | p :: _ => some (is.fault 3 ((s.scratchFault w p.2 size).getD 0) (bad.map (·.1)) p.2.toNat s)

/-- A workgroup's scratchpad changed. -/
def State.modScratch (s : State) (w : Nat) (f : Memory → Memory) : State :=
  s.modWg w (fun g => { g with scratch := f g.scratch })

/-- A number read from a workgroup's scratchpad. -/
def State.scratchNum (s : State) (w off n : Nat) : Nat := (s.wg w).scratch.num off n

/-! ### Read-modify-write operations (R167, R295) -/

/-- The new value of an atomic over `n` bits: codes 0 to 8 (R167). -/
def rmwInt (n op old c : Nat) : Nat :=
  let so := sext n old
  let sc := sext n c
  match op with
  | 0 => (old + c) % 2 ^ n
  | 1 => if sc < so then c else old
  | 2 => if so < sc then c else old
  | 3 => min old c
  | 4 => max old c
  | 5 => Nat.land old c
  | 6 => Nat.lor old c
  | 7 => Nat.xor old c
  | _ => c

/-- The new word of `ats` (R167). -/
def atsNew (op : Nat) (old c c1 : Word) : Word :=
  if op = 9 then (if old = c then c1 else old)
  else if op = 10 then (addF32 false old c).1
  else BitVec.ofNat 32 (rmwInt 32 op old.toNat c.toNat)

/-! ### Accesses in the order of their core (R163) -/

/-- The register fields that carry the data of a store of `n` registers: a field that names one value
supplies it as the low word, with zeros above it (R165). -/
def dataFields (v : BitVec 8) (n : Nat) : List (BitVec 8) :=
  if single v then v :: List.replicate (n - 1) 0xF0 else regRun v n

/-- Bytes of a size code (R165). -/
def sizeBytes (code : Nat) : Nat :=
  match code with
  | 1 | 5 => 1
  | 2 | 6 => 2
  | 3 => 8
  | 4 => 16
  | _ => 4

/-- The registers of a loaded value (R166, R293): zero- or sign-extended, or a pair or quad. -/
def loadVals (code : Nat) (bs : List Byte) : List Word :=
  let x := leNat bs
  match code with
  | 5 => [wordOf (sext 8 x)]
  | 6 => [wordOf (sext 16 x)]
  | 3 => bytesWords 2 bs
  | 4 => bytesWords 4 bs
  | _ => [BitVec.ofNat 32 x]

/-- The bytes of a stored value (R166). -/
def storeBytes (code : Nat) (l : List Word) : List Byte := (wordsBytes l).take (sizeBytes code)

/-- One lane of a scratchpad access takes its place in the order of the scratchpad it names (R163,
R166, R167). -/
def State.applyScratchLane (s : State) (o : Nat) (op : LongOp) (ln : Lane) : State :=
  let off := ln.va.toNat
  let w := ln.pa.toNat
  let (l, s) := s.landSrcs op.sid ln.thread ln.srcs
  let s := match op.instr with
    | .lds f =>
      let code := f.mod 0 3
      s.landDsts o op.sid ln f.d (loadVals code ((s.wg w).scratch.readN off (sizeBytes code)))
    | .sts f => s.modScratch w (fun m => m.writeN off (storeBytes (f.mod 0 3) l))
    | .ats f =>
      let old : Word := BitVec.ofNat 32 (s.scratchNum w off 4)
      let new := atsNew (f.mod 0 4) old (opd l 0) (opd l 1)
      (s.modScratch w (fun m => m.putNum off 4 new.toNat)).landDsts o op.sid ln f.d [old]
    | _ => s
  s.modOp o (fun op => op.laneDone ln.thread)

/-- The lanes of an access that name the own scratchpad (or the partner's, when `remote`) are applied
in ascending thread index, and the instruction completes with its last lane (R163, R165). -/
def State.applyScratch (s : State) (o : Nat) (remote : Bool) : State :=
  match s.ops.get o with
  | none => s
  | some op =>
    let lanes := op.lanes.filter (fun l => !l.done && ((l.pa.toNat != op.wg) == remote))
    let s := each lanes (fun ln s => s.applyScratchLane o op ln) s
    match s.ops.get o with
    | none => s
    | some op => if op.allDone then s.completeOp o else s

/-- Scope of the acquire that an access makes (R280). -/
def acqScope : Instr → Option Nat
  | .ldAcq f => some (f.mod 3 3)
  | .atom f | .atomCas f => if f.mod 4 1 = 1 then some (f.mod 6 3) else none
  | _ => none

/-- An operation acquires for a lane of thread `t` that is not done (R280). -/
def LongOp.acquires (op' : LongOp) (t : Nat) : Bool :=
  (match acqScope op'.instr with
    | some sc => sc != 5
    | none => false) && op'.lanes.any (fun l => !l.done && l.thread == t)

/-- An operation is a `ld.con` that has not returned its value to thread `t` (R285). -/
def LongOp.consumes (op' : LongOp) (t : Nat) : Bool :=
  (match op'.instr with
    | .ldCon _ => true
    | _ => false) && op'.lanes.any (fun l => !l.done && l.thread == t)

/-- An access of a thread whose address carries consume taint when `tainted` must not be applied before operation `op'`
of the same sheaf (R280, R285). -/
def LongOp.bars (op' : LongOp) (t : Nat) (tainted : Bool) : Bool := op'.acquires t || (tainted && op'.consumes t)

/-- A `ld.con` of thread `t` of a sheaf issued before number `o` has not returned its value (R285). -/
def State.consuming (s : State) (sid : Nat) (gen : BitVec 24) (t o : Nat) : Bool :=
  s.ops.any (fun p => decide (p.1 < o) && p.2.sid == sid && p.2.gen == gen && p.2.consumes t)

/-- An operation of a sheaf issued before number `o` bars an access of its thread `t` (R280, R285). -/
def State.barred (s : State) (sid : Nat) (gen : BitVec 24) (t : Nat) (tainted : Bool) (o : Nat) : Bool :=
  s.ops.any (fun p => decide (p.1 < o) && p.2.sid == sid && p.2.gen == gen && p.2.bars t tainted)

/-- An access that a word makes at its issue in the threads where it acts is barred; `taint` says whose address carries
consume taint. -/
def Issue.barred (is : Issue) (s : State) (taint : Nat → Bool) : Bool :=
  is.act.any (fun t => s.barred is.sid (s.sheaf is.sid).gen t (taint t) s.next)

/-- A scratchpad access in flight must wait for an earlier acquire or `ld.con` of a thread of it (R280, R285). -/
def State.scratchBarred (s : State) (o : Nat) (remote : Bool) : Bool :=
  match s.ops.get o with
  | none => false
  | some op => op.lanes.any (fun l =>
      !l.done && ((l.pa.toNat != op.wg) == remote) && s.barred op.sid op.gen l.thread l.ataint o)

/-- A core's oldest access to its own scratchpad, or to its partner's, is applied, once nothing bars it. -/
def State.popScratch (s : State) (c : Nat) (remote : Bool) : State :=
  let core := s.core c
  match (if remote then core.rfifo else core.fifo) with
  | [] => s
  | o :: rest =>
    if s.scratchBarred o remote then s else
    let s := s.modCore c (fun k => if remote then { k with rfifo := rest } else { k with fifo := rest })
    s.applyScratch o remote

/-- Every access that a core has issued to its own scratchpad, or to its partner's, is applied: the
access that follows enters the order after them (R163). -/
def State.flushScratch (s : State) (c : Nat) (remote : Bool) : State :=
  let core := s.core c
  each (List.replicate (if remote then core.rfifo else core.fifo).length ()) (fun _ s => s.popScratch c remote) s

/-- No access that a core has issued to its own scratchpad, or to its partner's, is still to be applied. -/
def State.scratchClear (s : State) (c : Nat) (remote : Bool) : Bool :=
  if remote then (s.core c).rfifo.isEmpty else (s.core c).fifo.isEmpty

/-- A word that takes its place in the order of a scratchpad at its issue: it follows every access that the core has
issued, and waits while one of them has to wait (R163). -/
def Issue.inScratch (is : Issue) (remote : Bool) (s : State) (k : State → Result) : Result :=
  let c := coreOf is.sid
  let q := s.flushScratch c remote
  if q.scratchClear c remote then k q else .wait q

/-- An issued scratchpad access: every active lane is checked first, then the instruction enters flight
and the order (R163, R166). -/
def scratchOp (i : Instr) (f : Fields) (size : Nat) (srcs : List (BitVec 8)) (n : Nat) (is : Issue)
    (s : State) : Result :=
  let sh := s.sheaf is.sid
  let addrs := is.act.map (fun t => (t, sh.read f.imm t f.a + sh.read f.imm t f.b))
  match s.scratchCheck is addrs size with
  | some r => r
  | none =>
    let w := s.wgOf is.sid
    let lanes := addrs.map (fun p =>
      { sh.lane f.imm is.act srcs (regRun f.d n) p.1 with
        va := BitVec.ofNat 64 (scratchOff p.2)
        pa := BitVec.ofNat 64 ((s.scratchWg w p.2).getD w)
        addrs := sh.capture f.imm p.1 [f.a, f.b]
        ataint := sh.taintOf p.1 f.a || sh.taintOf p.1 f.b
        taint := (f.a :: f.b :: srcs).any (sh.taintOf p.1) })
    let o := s.next
    let s := s.launch is i lanes
    if lanes = [] then .done s
    else
      let own := lanes.any (fun l => l.pa.toNat == w)
      let rem := lanes.any (fun l => l.pa.toNat != w)
      .done (s.modCore (coreOf is.sid) (fun k => { k with
        fifo := if own then k.fifo ++ [o] else k.fifo
        rfifo := if rem then k.rfifo ++ [o] else k.rfifo }))

/-- `lds` (R166). -/
def execLds (f : Fields) : State → Host.Outcome State Fault Refusal :=
  issued (.lds f) (scratchOp (.lds f) f (sizeBytes (f.mod 0 3)) [] (sizeRegs (f.mod 0 3)))

/-- `sts` (R166). -/
def execSts (f : Fields) : State → Host.Outcome State Fault Refusal :=
  issued (.sts f) (scratchOp (.sts f) f (sizeBytes (f.mod 0 3)) (dataFields f.c (sizeRegs (f.mod 0 3))) 0)

/-- `ats` (R167). -/
def execAts (f : Fields) : State → Host.Outcome State Fault Refusal :=
  issued (.ats f) (scratchOp (.ats f) f 4 (if f.mod 0 4 = 9 then dataFields f.c 2 else [f.c]) 1)

/-- SCRATCHPAD_ACCESS_APPLIED (R163): the oldest access of the core to its own scratchpad (`q` 0) or to
its partner's. -/
def execScratchpadAccessApplied (core q : Nat) (s : State) : Host.Outcome State Fault Refusal :=
  .next (s.popScratch core (q ≠ 0))

end Sys2Proof.Machine
end

