-- ==== Sys2Proof/Machine/Tiles.lean ====
section
/-! DEFINITION. The tile table and the tile instructions (R168 to R174), with the domain tags that
they check (R235, R236, R244). -/

namespace Sys2Proof.Machine

/-! ### Formats and shapes (R169, R205) -/

/-- Element bits of a format code, T2 apart; none for an undefined code (R63, R67, R71, R205). -/
def fmtBits : Nat → Option Nat
  | 0 | 8 | 9 => some 32
  | 1 | 2 | 10 => some 16
  | 3 | 4 | 11 | 12 | 17 | 18 => some 8
  | 5 | 6 | 19 | 20 => some 6
  | 7 | 13 | 14 | 21 => some 4
  | 15 => some 0
  | 16 => some 1
  | _ => none

/-- Bytes of a row of `n` elements (R169). -/
def rowBytes (fmt n : Nat) : Nat :=
  if fmt = 15 then ceilDiv n 5 else ceilDiv (n * (fmtBits fmt).getD 0) 8

/-- `x` rounded up to a multiple of 16. -/
def up16 (x : Nat) : Nat := ceilDiv x 16 * 16

/-- Columns of a tile. -/
def Tile.ncols (t : Tile) : Nat := t.cols.toNat + 1

/-- Rows of a tile. -/
def Tile.nrows (t : Tile) : Nat := t.rows.toNat + 1

/-- Row bytes of a tile (R169). -/
def Tile.rowB (t : Tile) : Nat := rowBytes t.fmt.toNat t.ncols

/-- Pitch of a tile in bytes (R169). -/
def Tile.pitchB (t : Tile) : Nat := if t.pitch = 0 then up16 t.rowB else t.pitch.toNat * 16

/-- Size of a tile in bytes (R169). -/
def Tile.sizeB (t : Tile) : Nat := t.rows.toNat * t.pitchB + t.rowB

/-- Allocation offset of a tile's row 0 (R168). -/
def Tile.off (t : Tile) : Nat := t.base.toNat * 16

/-! ### Domain tags (R235, R236) -/

/-- AXIS. -/
def tagAxis (g : BitVec 16) : Nat := bits g.toNat 14 2
/-- LEVELS. -/
def tagLevels (g : BitVec 16) : Nat := bits g.toNat 11 3
/-- TH. -/
def tagTh (g : BitVec 16) : Nat := bits g.toNat 8 3
/-- INT. -/
def tagInt (g : BitVec 16) : Bool := g.getLsbD 7

/-- A valid tag (R235). -/
def tagValid (g : BitVec 16) : Bool :=
  g == 0 || (tagAxis g != 3 && tagAxis g != 0 && tagLevels g != 0 && tagLevels g != 7 && bits g.toNat 0 7 == 0)

/-- Bytes of a tile's survivor-mask area (R244). -/
def Tile.maskB (t : Tile) : Nat :=
  let n := if tagAxis t.dom = 1 then t.ncols else t.nrows
  let lines := if tagAxis t.dom = 1 then t.nrows else t.ncols
  up16 (ceilDiv (lines * (n / 8)) 8)

/-- Offset of a tile's survivor mask (R244). -/
def Tile.maskOff (t : Tile) : Nat := t.off + up16 t.sizeB

/-- A tile's tag keeps R236 in a workgroup with `thresh` threshold registers and an allocation of `size`
bytes. -/
def Tile.tagOk (t : Tile) (thresh size : Nat) : Bool :=
  let g := t.dom
  if !tagValid g then false
  else if tagAxis g = 0 then true
  else
    let n := if tagAxis g = 1 then t.ncols else t.nrows
    let fmts := if tagInt g then [8, 10, 11] else [0, 1, 2]
    n % 8 == 0 && n % 2 ^ tagLevels g == 0 && decide (t.fmt.toNat ∈ fmts) &&
      decide (t.maskOff + t.maskB ≤ size) && decide (tagTh g < thresh)

/-- A tag on an accumulator tile keeps R236. -/
def accTagOk (g : BitVec 16) (thresh : Nat) : Bool := tagValid g && (tagAxis g == 0 || tagTh g < thresh)

/-- A tile keeps R169: its pitch covers its rows and its bytes lie in the allocation. -/
def Tile.shapeOk (t : Tile) (size : Nat) : Bool :=
  (fmtBits t.fmt.toNat).isSome && (t.pitch == 0 || decide (t.rowB ≤ t.pitchB)) && decide (t.off + t.sizeB ≤ size)

/-! ### State changes (R170) -/

/-- Tile `n` of a workgroup. -/
def State.tile (s : State) (w n : Nat) : Tile := (s.wg w).tiles.getD n default

/-- Tile `n` of a workgroup changed. -/
def State.modTileN (s : State) (w n : Nat) (f : Tile → Tile) : State :=
  s.modWg w (fun g => { g with tiles := modAt g.tiles n f })

/-- A tile that has become empty. -/
def Tile.toEmpty (t : Tile) : Tile := { t with state := .empty, pend := 0 }

/-- An engine has landed `b` bytes in a tile (R170). -/
def Tile.land (t : Tile) (b : Nat) (poison : Bool) : Tile :=
  let t := { t with poison := t.poison || poison }
  match t.state with
  | .filling =>
    let more := t.pend.toNat < b
    let p := t.pend.toNat - b
    { t with pend := BitVec.ofNat 20 p, ovr := t.ovr || more, state := if p = 0 then .ready else .filling }
  | _ => { t with ovr := true }

/-- An engine has read `b` bytes of a tile as a drain (R170). -/
def Tile.drained (t : Tile) (b : Nat) : Tile :=
  match t.state with
  | .draining =>
    let p := t.pend.toNat - b
    if p = 0 then t.toEmpty else { t with pend := BitVec.ofNat 20 p }
  | _ => t

/-- An instruction or engine operation that names a tile counts in its use count (R171). -/
def State.useTile (s : State) (w n : Nat) (f : Nat → Nat) : State :=
  s.modTileN w n (fun t => { t with uses := f t.uses })

/-! ### Waiting for a tile at issue (R171) -/

/-- The word waits at issue; a watched wait goes on counting what it has counted for the same tile, or for tokens. -/
def Issue.waits (is : Issue) (watch : Option (Option Nat)) (s : State) : Result :=
  .wait (s.modSheaf is.sid (fun sh => { sh with run := sh.run.map (fun r => { r with
    since := watch.map (fun k => match r.since with
      | some w => if w.tile = k then w else ⟨k, 0⟩
      | none => ⟨k, 0⟩) }) }))

/-- The wait until a tile is ready, watched (R171): none once it is ready. -/
def Issue.untilReady (is : Issue) (s : State) (w n : Nat) : Option Result :=
  match (s.tile w n).state with
  | .ready => none
  | _ => some (is.waits (some (some n)) s)

/-- `cycles` core cycles pass for the watched wait of a sheaf's present word: those for a tile count while it is empty
(R171). -/
def State.watchWait (s : State) (cycles : Nat) (sh : Sheaf) : Sheaf :=
  { sh with run := sh.run.map (fun r => { r with since := r.since.map (fun w =>
      match w.tile with
      | some n => if (s.tile sh.wg n).state = .empty then { w with cycles := w.cycles + cycles } else w
      | none => { w with cycles := w.cycles + cycles }) }) }

/-- A watched wait of a sheaf's present word, of the kind that `tokens` says, has counted 2^20 cycles. -/
def Sheaf.watchEnd (sh : Sheaf) (tokens : Bool) : Bool :=
  sh.blocked && (match sh.run.bind (·.since) with
    | some w => w.tile.isNone == tokens && decide (Config.watchLimit ≤ w.cycles)
    | none => false)

/-- The lowest active thread, which gives a tile instruction its operands (R173). -/
def Issue.lead (is : Issue) : Nat := is.act.headD 0

/-- A tile instruction other than `tl.stat`: it acts once where a guard holds, at its place in the order
of the core's scratchpad; a tile the workgroup does not hold is an illegal use (R163, R168, R173), which is raised
whatever the guards say (DESIGN CHOICE, log 91). -/
def tileOp (n : Nat) (g : Nat → Tile → Sheaf → Nat → State → Result) (is : Issue) (s : State) : Result :=
  let w := s.wgOf is.sid
  if (s.wg w).tiles.length ≤ n then is.illegal s
  else if is.act = [] then .done s
  else is.inScratch false s fun s => g w (s.tile w n) (s.sheaf is.sid) is.lead s

/-- The descriptor that `tl.set` makes of its operands; none where a must-be-zero part is not zero
(R173). -/
def tileOf (t : Tile) (a b c e : Word) : Option Tile :=
  if bits a.toNat 0 2 ≠ 0 ∨ bits b.toNat 19 8 ≠ 0 ∨ bits b.toNat 0 4 ≠ 0 ∨ bits c.toNat 16 16 ≠ 0 then none
  else some { t with
    rows := a.extractLsb' 24 8
    cols := a.extractLsb' 14 10
    pitch := a.extractLsb' 2 12
    fmt := b.extractLsb' 27 5
    base := b.extractLsb' 4 15
    dom := c.extractLsb' 0 16
    user := e
    kind := 0 }

/-- The issue condition of `tl.set` and `tl.rel`: not filling, not draining, use count 0 (R172). -/
def Tile.idle (t : Tile) : Bool := (t.state == .empty || t.state == .ready) && t.uses == 0

/-- `tl.set` (R170, R173). -/
def execTlSet (f : Fields) : State → Host.Outcome State Fault Refusal :=
  issued (.tlSet f) fun is s =>
    tileOp (f.mod 0 5) (fun w t sh ld s =>
      let g := s.wg w
      match tileOf t (sh.read f.imm ld f.a) (sh.read f.imm ld f.b) (sh.read f.imm ld f.c) (sh.read f.imm ld f.e) with
      | none => is.illegal s
      | some t' =>
        if t.kind ≠ 0 ∨ !t'.shapeOk g.size ∨ !t'.tagOk g.desc.thresh g.size then is.illegal s
        else if !t.idle then is.waits none s
        else
          let t' := if t.state = .ready then
              { t'.toEmpty with sat := false, ovr := false, poison := false }
            else t'
          .done (s.modTileN w (f.mod 0 5) (fun _ => t'))) is s

/-- `tl.fill` (R169, R170, R173): it waits while the tile is filling or draining. -/
def execTlFill (f : Fields) : State → Host.Outcome State Fault Refusal :=
  issued (.tlFill f) fun is s =>
    tileOp (f.mod 0 5) (fun w t sh ld s =>
      let n := (sh.read f.imm ld f.a).toNat
      if t.kind ≠ 0 ∨ !t.shapeOk (s.wg w).size ∨ t.sizeB < n then is.illegal s
      else match t.state with
        | .ready => is.illegal s
        | .filling | .draining => is.waits none s
        | .empty => .done (s.modTileN w (f.mod 0 5) (fun t =>
            if n = 0 then { t with state := .ready } else { t with state := .filling, pend := BitVec.ofNat 20 n }))) is s

/-- `tl.drain` (R169, R170, R173): it waits until the tile is ready with use count 0. -/
def execTlDrain (f : Fields) : State → Host.Outcome State Fault Refusal :=
  issued (.tlDrain f) fun is s =>
    tileOp (f.mod 0 5) (fun w t sh ld s =>
      let n := (sh.read f.imm ld f.a).toNat
      if t.kind ≠ 0 ∨ !t.shapeOk (s.wg w).size ∨ t.sizeB < n then is.illegal s
      else if t.state = .ready ∧ t.uses = 0 then
        .done (s.modTileN w (f.mod 0 5) (fun t =>
          if n = 0 then t.toEmpty else { t with state := .draining, pend := BitVec.ofNat 20 n }))
      else is.waits none s) is s

/-- The state code of a tile (R168). -/
def TileState.code : TileState → Nat
  | .empty => 0
  | .filling => 1
  | .ready => 2
  | .draining => 3

/-- The word of `tl.stat` (R174). -/
def Tile.stat (t : Tile) : Word :=
  BitVec.ofNat 32 (cat [(t.state.code, 2), (t.kind.toNat, 2), (b2n t.sat, 1), (b2n t.ovr, 1),
    (b2n t.poison, 1), (0, 1), (0, 4), (t.pend.toNat, 20)])

/-- `tl.stat` (R174): it never waits; `.clr` clears the sticky bits after the read.  A tile the workgroup does not hold is
an illegal use whatever the guards say (DESIGN CHOICE, log 91). -/
def execTlStat (f : Fields) : State → Host.Outcome State Fault Refusal :=
  issued (.tlStat f) fun is s =>
    let w := s.wgOf is.sid
    let n := f.mod 0 5
    if (s.wg w).tiles.length ≤ n then is.illegal s
    else
      let s := s.flushScratch (coreOf is.sid) false
      let x := (s.tile w n).stat
      let s := s.writeLanes is.sid f.d 1 (is.act.map (fun t => ⟨t, [(x, false)], 0⟩))
      .done (if f.mod 5 1 = 1 ∧ is.act ≠ [] then
          s.modTileN w n (fun t => { t with sat := false, ovr := false, poison := false })
        else s)

/-- `tl.dom` (R173): it issues while the tile is empty or ready. -/
def execTlDom (f : Fields) : State → Host.Outcome State Fault Refusal :=
  issued (.tlDom f) fun is s =>
    tileOp (f.mod 0 5) (fun w t sh ld s =>
      let a := sh.read f.imm ld f.a
      let t' := { t with dom := a.extractLsb' 0 16 }
      if t.kind ≠ 0 ∨ bits a.toNat 16 16 ≠ 0 ∨ !t'.shapeOk (s.wg w).size ∨ !t'.tagOk (s.wg w).desc.thresh (s.wg w).size then is.illegal s
      else if t.state = .empty ∨ t.state = .ready then .done (s.modTileN w (f.mod 0 5) (fun _ => t'))
      else is.waits none s) is s

/-- `tl.rel` (R170, R173): a staging tile's binding ends with it. -/
def execTlRel (f : Fields) : State → Host.Outcome State Fault Refusal :=
  issued (.tlRel f) fun is s =>
    tileOp (f.mod 0 5) (fun w t _ _ s =>
      if t.idle then .done (s.modTileN w (f.mod 0 5) (fun t =>
        { (if t.state = .ready then t.toEmpty else t) with kind := 0 }))
      else is.waits none s) is s

/-- TILE_WAIT_FAULT (R171): a word has waited for a tile that was empty for 2^20 core cycles of its wait. -/
def execTileWaitFault (sid : Nat) (s : State) : Host.Outcome State Fault Refusal :=
  .next (match (s.sheaf sid).run with
    | some r =>
      if (s.sheaf sid).watchEnd false then
        s.fault sid (bitsOf 64 r.mask) r.pc (some r.k) 4 0 (bitsOf 64 r.mask) 0
      else s
    | none => s)

end Sys2Proof.Machine
end

