-- ==== Sys2Proof/Machine/Windows.lean ====
section
/-! DEFINITION. The register windows as loads see them, and the stores that reach them (R445, R447,
R449, R328, R371, R377, R227, R455). -/

namespace Sys2Proof.Machine

/-! ### The windows (R445) -/

/-- A window of R445 and the part it belongs to. -/
inductive Window where
  | doorbell | context | mapper
  | ring (d : Nat)
  | weight (c : Nat)
  | system
  | head (h : Nat)
  deriving DecidableEq, Repr, Inhabited

/-- The window that holds a physical address, and the offset in it (R445). -/
def windowOf (pa : Nat) : Option (Window × Nat) :=
  let o := pa - windowBase
  if pa < windowBase then none
  else if o < 0x04000000 then some (.doorbell, o)
  else if o < 0x04010000 then some (.context, o - 0x04000000)
  else if o < 0x04020000 then some (.mapper, o - 0x04010000)
  else if o < 0x04040000 then some (.ring ((o - 0x04020000) / 0x10000), o % 0x10000)
  else if o < 0x040C0000 then some (.weight ((o - 0x04040000) / 0x10000), o % 0x10000)
  else if o < 0x040D0000 then some (.system, o - 0x040C0000)
  else if o < 0x040D5000 then some (.head ((o - 0x040D0000) / 0x1000), o % 0x1000)
  else none

/-- A command register with its operation in `n` bits from 56 upwards (R369, R447, R462). -/
def Command.word (c : Command) : Nat :=
  cat [(b2n c.busy, 1), (b2n c.err, 1), (0, 2), (c.op.toNat, 4), (0, 44), (c.target.toNat, 12)]

/-- The context window (R447). -/
def State.contextWord (s : State) (o : Nat) : Nat :=
  if o = 0 then s.regs.ctxbase.toNat else if o = 8 then s.regs.ctxcmd.word else 0

/-- An entry of the time-triggered table (R377). -/
def TTEntry.num (e : TTEntry) : Nat :=
  cat [(e.offset.toNat, 64), (e.graph.toNat, 46), (e.ctx.toNat, 32), (e.skips.toNat, 16), (b2n e.v, 1),
    (e.mbz.toNat, 97)]

/-- An entry of the time-triggered table after reset (R377). -/
def TTEntry.reset : TTEntry := ⟨0, 0, 0, 0, false, 0⟩

/-- The mapper window (R445, R369, R377). -/
def State.mapperWord (s : State) (o : Nat) : Nat :=
  let r := s.regs
  if o = 0 then r.qtbase.toNat
  else if o = 8 then r.qcmd.word
  else if o = 0x100 then b2n r.ttErr * 2 + b2n r.ttRun
  else if o = 0x108 then r.ttbase.toNat
  else if o = 0x110 then r.ttperiod.toNat
  else if 0x800 ≤ o ∧ o < 0x1000 then
    bits ((r.tt.get ((o - 0x800) / 32)).getD TTEntry.reset).num (8 * (o % 32)) 64
  else 0

/-- RSSTAT (R328). -/
def RingStore.stat (r : RingStore) : Nat :=
  cat [(r.map.length, 8), (r.spare, 8), (r.rotating.getD 0, 8), (b2n r.rotating.isSome, 1), (b2n r.busy, 1),
    (r.res.toNat, 2), (0, 36)]

/-- RSSWAP as one number (R328). -/
def RingStore.swapNum (r : RingStore) : Nat :=
  (r.swap.map (fun p => (b2n p.2.1 * 8 + p.2.2 % 8) * 16 ^ p.1)).sum

/-- A ring-store window (R328). -/
def RingStore.word (r : RingStore) (o : Nat) : Nat :=
  if o = 0 then r.depth.toNat * 4 + b2n r.rot * 2
  else if o = 8 then r.stat
  else if 0x20 ≤ o ∧ o < 0x40 then bits r.avail.toNat (8 * (o - 0x20)) 64
  else if 0x40 ≤ o ∧ o < 0x60 then bits r.lost.toNat (8 * (o - 0x40)) 64
  else if 0x60 ≤ o ∧ o < 0x80 then bits r.newmap.toNat (8 * (o - 0x60)) 64
  else if o = 0x80 then b2n r.go
  else if 0xC0 ≤ o ∧ o < 0xD0 then bits r.swapNum (8 * (o - 0xC0)) 64
  else if o = 0x100 then cat [(r.acorr.toNat, 32), (r.aunc.toNat, 16), (0, 10), (r.anext.toNat, 6)]
  else if o = 0x108 then cat [(r.bretry.toNat, 32), (0, 26), (r.bnext.toNat, 6)]
  else if 0x400 ≤ o ∧ o < 0x800 then bits (r.alog.getD ((o - 0x400) / 16) 0).toNat (8 * (o % 16)) 64
  else if 0x800 ≤ o ∧ o < 0xC00 then bits (r.blog.getD ((o - 0x800) / 16) 0).toNat (8 * (o % 16)) 64
  else 0

/-- A region descriptor (R227). -/
def Region.num (r : Region) : Nat :=
  cat [(r.deadline.toNat, 64), (r.state.toNat, 2), (b2n r.short, 1), (r.base.toNat, 9), (r.size.toNat, 9),
    (r.life.toNat, 15), (r.mbz.toNat, 4), (r.pend.toNat, 24)]

/-- A region of a die. -/
def ComputeDie.region (d : ComputeDie) (i : Nat) : Region := (d.regions.get i).getD Region.reset

/-- A weight-store region window (R445, R227). -/
def ComputeDie.word (d : ComputeDie) (o : Nat) : Nat :=
  if o < 0x400 then bits (d.region (o / 16)).num (8 * (o % 16)) 64
  else if o = 0x400 then d.refused
  else 0

/-- PORTn (R452). -/
def Port.word (p : Port) : Nat :=
  cat [(0, 20), (p.retrain, 20), (p.state, 2), (b2n p.narrow, 1), (0, 5), (p.losses, 8), (0, 7), (b2n p.en, 1)]

/-- PWRCTL (R459). -/
def Regs.pwrctl (r : Regs) : Nat :=
  cat [(0, 24), (r.ltol.toNat, 32), (0, 3), (b2n r.trip, 1), (b2n r.fixedOn, 1), (b2n r.fixed, 1),
    (r.pstate.toNat, 2)]

/-- The system window (R449): TBSTEP and EXTEND read 0. -/
def State.systemWord (s : State) (o : Nat) : Nat :=
  let r := s.regs
  if o = 0 then r.pwrctl
  else if o = 0x08 then s.now
  else if o = 0x18 then s.time.rate.toNat
  else if o = 0x20 then r.trail.toNat
  else if o = 0x28 then r.trailwr.toNat
  else if o = 0x30 then r.trailrd.toNat
  else if o = 0x38 then r.traillost.toNat
  else if o = 0x40 ∨ o = 0x48 then (s.base (o / 8 % 2)).port.word
  else if 0x60 ≤ o ∧ o < 0x80 then
    let p := r.peers.getD ((o - 0x60) / 8) (false, 0)
    p.2 % 2 * 2 + b2n p.1
  else if o = 0x80 then r.intstat.toNat
  else if o = 0x88 then r.repair.word
  else if 0x100 ≤ o ∧ o < 0x300 then bits (r.mr.getD ((o - 0x100) / 32) 0).toNat (8 * (o % 32)) 64
  else if o = 0x340 then b2n r.attestBusy * 2 ^ 63 + r.attest.toNat % 2 ^ 63
  else if 0x1000 ≤ o ∧ o < 0x2000 then
    leNat ((List.range 8).map (fun i => Config.idcert (o - 0x1000 + i)))
  else 0

/-- A display head's window (R455): PRESENT reads 0. -/
def Head.word (h : Head) (o : Nat) : Nat :=
  if o = 0 then h.hctl.toNat
  else if 0x40 ≤ o ∧ o < 0x80 then (h.timing.getD ((o - 0x40) / 8) 0).toNat
  else 0

/-- A display head. -/
def State.head (s : State) (h : Nat) : Head := (s.heads.get h).getD Head.reset

/-- The 64-bit value at a multiple of 8 in a window. -/
def State.windowWord (s : State) (w : Window) (o : Nat) : Nat :=
  match w with
  | .doorbell =>
    if o % 0x10000 = 0 then
      let q := s.queue (o / 0x10000)
      cat [(q.write.toNat, 32), (q.read.toNat, 32)]
    else 0
  | .context => s.contextWord o
  | .mapper => s.mapperWord o
  | .ring d => (s.base d).ring.word o
  | .weight c => (s.die c).word o
  | .system => s.systemWord o
  | .head h => (s.head h).word o

/-- A load of `size` bytes from a window: 8 bytes, or 4 in a notify register; any other size reads 0
(R445, R371). -/
def State.windowLoad (s : State) (pa size : Nat) : List Byte :=
  match windowOf pa with
  | some (w, o) =>
    if size = 8 then natBytes 8 (s.windowWord w o)
    else if size = 4 ∧ w = .doorbell then natBytes 4 (s.windowWord w (o / 8 * 8) / 2 ^ (8 * (o % 8)))
    else List.replicate size 0
  | none => List.replicate size 0

/-- An offset lies in a register wider than 64 bits that stores can write (R445, R328, R377, R227, R455, R460). -/
def Window.wide (w : Window) (o : Nat) : Bool :=
  match w with
  | .mapper => decide (0x800 ≤ o ∧ o < 0x1000)
  | .ring _ => decide (0x60 ≤ o ∧ o < 0x80)
  | .weight _ => decide (o < 0x400)
  | .system => decide (0x300 ≤ o ∧ o < 0x340)
  | .head _ => decide ((0x40 ≤ o ∧ o < 0x80) ∨ (0x100 ≤ o ∧ o < 0x110))
  | .doorbell | .context => false

/-- A store to a window: its 8-byte parts in ascending address order are the machine's next moves; a
size that no register takes has no effect, and 16 bytes only reach a register wider than 64 bits (R445). -/
def State.windowStore (s : State) (pa : Nat) (bs : List Byte) : State :=
  let parts : List Move := match bs.length with
    | 4 => if (windowOf pa).any (fun p => p.1 = .doorbell) then [.store pa bs] else []
    | 8 => [.store pa bs]
    | 16 => if pa % 16 = 0 ∧ (windowOf pa).any (fun p => p.1.wide p.2) then
        [.store pa (bs.take 8), .store (pa + 8) (bs.drop 8)] else []
    | _ => []
  { s with schedule := parts ++ s.schedule }

end Sys2Proof.Machine
end

