-- ==== Sys2Proof/Machine/Global.lean ====
section
/-! DEFINITION. Global memory as the threads of a core see it: the L1 data caches, the core order and
the location order, accesses in flight, fences and the global memory instructions (R259, R268 to R273,
R276 to R301, R310, R311, R315). -/

namespace Sys2Proof.Machine

/-! ### The kinds of access (R279 to R281, R292) -/

/-- The access is to global memory. -/
def isGlobal : Instr → Bool
  | .ld _ | .ldCon _ | .ldAcq _ | .st _ | .stSub _ | .stRel _ | .atom _ | .atomCas _ | .red _ | .ldk _
  | .stk _ | .rcn _ | .vism _ => true
  | _ => false

/-- The instruction accesses memory: a release waits for it (R281). -/
def isAccess (i : Instr) : Bool :=
  isGlobal i || (match i with
    | .lds _ | .sts _ | .ats _ | .ldw _ | .blend _ | .tex _ | .texg _ | .trace _ => true
    | _ => false)

/-- Scope of the release that an access makes (R281). -/
def relScope : Instr → Option Nat
  | .stRel f => some (f.mod 3 3)
  | .atom f | .atomCas f | .red f => if f.mod 5 1 = 1 then some (f.mod 6 3) else none
  | _ => none

/-- The scopes at which an acquire and a release act on homes (R279): device, team, system. -/
def wideScope (sc : Nat) : Bool := sc == 0 || sc == 3 || sc == 4

/-- The cache hint of an access: HINT<1:0> for the L1 (R274). -/
def l1Hint (i : Instr) : Nat :=
  match i.isa? with
  | some (_, _, f) => f.hint.toNat % 4
  | none => 0

/-! ### Lanes in flight -/

/-- The page of a lane. -/
def Lane.leaf (l : Lane) : Leaf := ⟨l.pa.toNat, l.entry⟩

/-- A number that names the byte a lane starts at: peer packages lie apart from the own memory. -/
def Lane.key (l : Lane) : Nat := l.leaf.key

/-- Bytes of a lane's access (R293 to R297, R312). -/
def accessSize : Instr → Nat
  | .ld f | .ldCon f | .ldAcq f | .st f | .stRel f => sizeBytes (f.mod 0 3)
  | .atom f | .atomCas f | .red f => if f.mod 9 1 = 1 then 8 else 4
  | .ldk f | .stk f => if f.mod 0 1 = 1 then 8 else 4
  | .rcn f => if f.mod 4 1 = 1 then 8 else 4
  | .vism _ => 8
  | _ => 4

/-- The bit mask of `st.sub` (R294). -/
def subMask (bitMode : Bool) (c : Word) : Word :=
  if bitMode then c
  else BitVec.ofNat 32 (((List.range 8).map (fun k => if c.getLsbD k then 15 * 16 ^ k else 0)).sum)

/-- The bytes that a store stores, each with the mask of its bits (R293, R294). -/
def storeData (i : Instr) (l : List Word) : List (Byte × Byte) :=
  match i with
  | .st f | .stRel f => (storeBytes (f.mod 0 3) l).map (fun b => (b, 0xFF))
  | .stSub f =>
    List.zip (natBytes 4 (opd l 0).toNat) (natBytes 4 (subMask (f.mod 0 1 == 1) (opd l 1)).toNat)
  | _ => []

/-- A byte with the masked bits replaced. -/
def maskByte (old : Byte) (p : Byte × Byte) : Byte := (old &&& ~~~ p.2) ||| (p.1 &&& p.2)

/-- The stores that a core has applied and not performed, in core order: key and bytes (R276). -/
def State.pendingStores (s : State) (c : Nat) : Tab (Nat × List (Byte × Byte)) :=
  s.ops.foldl (fun tab p =>
    if p.2.core = c then
      p.2.lanes.foldl (fun tab l =>
        match l.applied with
        | some n => if l.done then tab else Tab.put tab n (l.key, storeData p.2.instr (l.srcs.map (·.2)))
        | none => tab) tab
    else tab) []

/-- Some store to `n` bytes from `key` that a core has applied has still to be performed (R276, R277). -/
def State.storesPend (s : State) (c key n : Nat) : Bool :=
  (s.pendingStores c).any (fun p => overlap p.2.1 p.2.2.length key n)

/-- A byte as the core's applied stores leave it. -/
def viewByte (pend : Tab (Nat × List (Byte × Byte))) (key : Nat) (b : Byte) : Byte :=
  pend.foldl (fun b p =>
    if p.2.1 ≤ key ∧ key < p.2.1 + p.2.2.length then maskByte b (p.2.2.getD (key - p.2.1) (0, 0)) else b) b

/-- Bytes as the core's applied stores leave them. -/
def viewBytes (pend : Tab (Nat × List (Byte × Byte))) (key : Nat) (bs : List Byte) : List Byte :=
  bs.mapIdx (fun i b => viewByte pend (key + i) b)

/-! ### The L1 (R273) -/

/-- The line of a core's L1 that holds `pa` in a context. -/
def Core.line (k : Core) (ctx pa : Nat) : Option Line :=
  k.l1.find? (fun l => l.ctx = ctx ∧ l.pa = pa / 128 * 128)

/-- A core's L1 without the lines of `n` bytes from `pa`, in any context. -/
def Core.dropLines (k : Core) (pa n : Nat) : Core :=
  { k with l1 := k.l1.filter (fun l => !overlap l.pa 128 pa n) }

/-- A core's L1 without the lines of a context. -/
def Core.dropCtx (k : Core) (ctx : Nat) : Core := { k with l1 := k.l1.filter (fun l => l.ctx ≠ ctx) }

/-- Lines of a core that hold bytes of a store take them (R273). -/
def Core.storeLines (k : Core) (pa : Nat) (data : List (Byte × Byte)) : Core :=
  { k with l1 := k.l1.map (fun l =>
      { l with bytes := l.bytes.mapIdx (fun i b =>
          if pa ≤ l.pa + i ∧ l.pa + i < pa + data.length then maskByte b (data.getD (l.pa + i - pa) (0, 0)) else b) }) }

/-! ### Loads (R271, R273, R276, R277) -/

/-- Words of undefined value. -/
def State.undefs (s : State) (n : Nat) : List Word × State :=
  (List.range n).foldl (fun acc _ => let (w, s) := acc.2.undef; (acc.1 ++ [w], s)) ([], s)

/-- The bytes that a load of a core reads at the home, as the core's own applied stores leave them, and
whether poison is met. -/
def State.homeView (s : State) (c ctx : Nat) (l : Leaf) (n : Nat) : List Byte × Bool :=
  if windowBase ≤ l.pa ∧ l.ca ≠ 3 then (s.windowLoad l.pa n, false)
  else
    let (bs, po) := s.homeLoad (s.ctx ctx) l n
    (viewBytes (s.pendingStores c) l.key bs, po)

/-- A load's bytes: from a line of the core, or from the home, which then fills the line (R273, R274).
`fresh` asks for the home. -/
def State.loadBytes (s : State) (c ctx : Nat) (l : Leaf) (n hint : Nat) (fresh : Bool) :
    (List Byte × Bool) × State :=
  let old := (s.core c).line ctx l.pa
  let cached := l.ca = 0 ∧ hint ≠ 3 ∧ !fresh
  let (useLine, s) := if cached ∧ old.isSome then s.flip else (false, s)
  match useLine, old with
  | true, some line => (((line.bytes.drop (l.pa - line.pa)).take n, false), s)
  | _, _ =>
    let r := s.homeView c ctx l n
    let s := (s.modCore c (fun k => k.dropLines l.pa n)).keepHot l.pa n
    if l.ca = 0 ∧ hint ≠ 3 ∧ hint ≠ 1 ∧ windowOf l.pa = none then
      let base := l.pa / 128 * 128
      let line := s.homeView c ctx ⟨base, l.entry⟩ 128
      if line.2 then (r, s)
      else (r, s.modCore c (fun k => { k with l1 := ⟨ctx, base, line.1⟩ :: k.l1 }))
    else (r, s)

/-! ### When an access may be made (R277, R280 to R283, R285) -/

/-- Operations of the same sheaf that were issued before operation `o` and are in flight. -/
def State.earlierOps (s : State) (o : Nat) (op : LongOp) : List (Nat × LongOp) :=
  s.ops.filter (fun p => decide (p.1 < o) && p.2.sid == op.sid && p.2.gen == op.gen)

/-- Two pages of cache attribute 2 are one page: their leaf entries name one address (R263). -/
def samePage (l l' : Leaf) : Bool := bits l.entry 16 32 == bits l'.entry 16 32

/-- A lane of a merged `st.sub` is done, but the lane that carries its bits has still to perform them (R294). -/
def LongOp.carried (op : LongOp) (l : Lane) : Bool :=
  l.done && (match op.instr with
    | .stSub _ => op.lanes.any (fun k => !k.done && k.applied.isSome && k.key == l.key)
    | _ => false)

/-- Lane `l'` of an earlier access has still to be performed, which is what a page of cache attribute 2 asks for (R263). -/
def LongOp.unperformed (op : LongOp) (l : Lane) : Bool := !l.done || op.carried l

/-- Lane `l'` of the earlier access `op'` of the same thread comes before lane `l` (R263, R277, R280,
R285). -/
def laneBefore (op' : LongOp) (l' : Lane) (i : Instr) (l : Lane) : Bool :=
  l'.thread == l.thread &&
    ((!l'.done && (op'.bars l.thread l.ataint ||
       (isGlobal op'.instr && isGlobal i && l'.applied.isNone &&
        overlap l'.key (accessSize op'.instr) l.key (accessSize i)))) ||
     (op'.unperformed l' && isGlobal op'.instr && isGlobal i && l'.leaf.ca == 2 && l.leaf.ca == 2 && samePage l'.leaf l.leaf))

/-- A store that is applied has completed for a release at scope `sc`: in core order for a narrow scope; a posted one
at system scope, whose acknowledgement the release awaits by itself (R281, R288). -/
def Lane.settled (l : Lane) (sc : Nat) : Bool :=
  l.done || (l.applied.isSome && (!wideScope sc || (sc == 4 && l.leaf.ca == 3)))

/-- Every earlier access of a thread has completed in the sense of R281 for a release at scope `sc`. -/
def threadDone (ops : List (Nat × LongOp)) (t sc : Nat) : Bool :=
  ops.all (fun p => !isAccess p.2.instr || p.2.lanes.all (fun l => l.thread != t || l.settled sc))

/-- A store, other than an atomic, to global memory. -/
def isStore : Instr → Bool
  | .st _ | .stSub _ | .stRel _ | .stk _ => true
  | _ => false

/-- Every store that a core has applied has been performed at its home; at system scope, but for the posted ones (R281).
DEDUCED (log 94): so has every store that any thread of the core issued before operation `o`, as R485 reads the rule. -/
def State.coreStoresDone (s : State) (c sc o : Nat) : Bool :=
  s.ops.all (fun p => p.2.core != c || p.2.lanes.all (fun l => l.settled sc ||
    (l.applied.isNone && !(isStore p.2.instr && decide (p.1 < o)))))

/-- Stores of any thread of a core, or of workgroup `w` wherever it ran, or of an engine in its context, that port `d` has
posted and that are not acknowledged (R182, R281, R287, R298).  DEDUCED (log 93): a release at system scope waits for the
engines' peer writes of its context whether or not its thread has seen their reports. -/
def State.unacked (s : State) (c w d : Nat) : Bool :=
  (s.base d).posted.any (fun p =>
    if p.2.engine then p.2.ctx == (s.wg w).ctx else coreOf p.2.sid == c || p.2.wg == w)

/-- A release waits for port `d`: stores are unacknowledged there, or another release has listed them, and it
has not counted them as resolved itself (R281, R288). -/
def State.awaits (s : State) (c w : Nat) (rel : Option RelWait) (d : Nat) : Bool :=
  match rel with
  | none => s.unacked c w d
  | some r => !r.lost.getLsbD d && (s.unacked c w d || r.owes.getLsbD d)

/-- Every store that a core has posted to a peer has been acknowledged, or counted as resolved (R281, R288). -/
def State.peersAcked (s : State) (c w : Nat) (rel : Option RelWait) : Bool :=
  !s.awaits c w rel 0 && !s.awaits c w rel 1

/-- A wait for peers begins, with the retrain limits in force (R288, R452). -/
def State.relWait (s : State) (rel : Option RelWait) : Option RelWait :=
  match rel with
  | some r => some r
  | none => some ⟨s.now + 1000 * (s.base 0).port.retrain, s.now + 1000 * (s.base 1).port.retrain, 0, 0⟩

/-- The wait state of the present word of a sheaf. -/
def State.wordRel (s : State) (sid : Nat) : Option RelWait := (s.sheaf sid).run.bind (·.rel)

/-- The present word waits for peers. -/
def State.awaitWord (s : State) (sid : Nat) : State :=
  let r := s.relWait (s.wordRel sid)
  s.modSheaf sid (fun sh => { sh with run := sh.run.map (fun q => { q with rel := r }) })

/-- The conditions of a release at scope `sc` by thread `t`, issued as operation `o`, whose earlier operations are `ops`, but
for the acknowledgements of peers (R281). -/
def State.releaseOk (s : State) (c o : Nat) (ops : List (Nat × LongOp)) (t sc : Nat) : Bool :=
  if sc = 5 then true
  else threadDone ops t sc && (!wideScope sc || s.coreStoresDone c sc o)

/-- The bytes that a lane's access takes for itself: on a plural page whole cells (R310, R315). -/
def LongOp.reach (op : LongOp) (l : Lane) : Nat × Nat :=
  let n := accessSize op.instr
  if l.leaf.plural then
    let c := l.leaf.cell
    (l.key / c * c, (l.key + n - 1) / c * c + c - l.key / c * c)
  else (l.key, n)

/-- Two lanes of one operation touch common bytes, or a common cell. -/
def LongOp.meets (op : LongOp) (l l' : Lane) : Bool :=
  let a := op.reach l
  let b := op.reach l'
  overlap a.1 a.2 b.1 b.2

/-- The lowest thread of the request to which a lane belongs: an aggregated atomic and a merged `st.sub` gather the lanes of
one address (R294, R296). -/
def LongOp.first (op : LongOp) (l : Lane) : Nat :=
  let low (_ : Unit) : Nat := (op.lanes.filter (fun k => !k.done && k.key == l.key)).foldl (fun n k => min n k.thread) l.thread
  match op.instr with
  | .atom _ | .red _ | .vism _ => low ()
  | .stSub _ => if l.leaf.plural then l.thread else low ()
  | _ => l.thread

/-- A lane of operation `o` may be applied now. -/
def State.mayApply (s : State) (o : Nat) (op : LongOp) (l : Lane) : Bool :=
  let before := s.earlierOps o op
  before.all (fun p => p.2.lanes.all (fun l' => !laneBefore p.2 l' op.instr l)) &&
  (match relScope op.instr with
    | some sc => s.releaseOk op.core o before l.thread sc && (sc != 4 || s.peersAcked op.core op.wg op.rel)
    | none => true) &&
  op.lanes.all (fun l' => decide (op.first l ≤ op.first l') || l'.done || l'.applied.isSome ||
    !op.meets l' l ||
    (match op.instr with
      | .ld _ | .ldCon _ | .ldAcq _ => true
      | _ => false))

/-- A word that a thread of a sheaf reads at its own instant has an access of the thread before it: one to the same bytes
that is not applied, one to the same page of cache attribute 2, an acquire, or a `ld.con` where the address is tainted
(R263, R277, R280, R285). -/
def State.readHeld (s : State) (sid t : Nat) (taint : Bool) (l : Leaf) (n : Nat) : Bool :=
  s.ops.any (fun p => p.2.sid == sid && p.2.gen == (s.sheaf sid).gen &&
    (p.2.bars t taint || p.2.lanes.any (fun l' => p.2.unperformed l' && l'.thread == t && isGlobal p.2.instr &&
      ((!l'.done && l'.applied.isNone && overlap l'.key (accessSize p.2.instr) l.key n) ||
       (l'.leaf.ca == 2 && l.ca == 2 && samePage l'.leaf l)))))

/-- An operation that cannot be applied yet: where it is a release that has only peers to wait for, that wait
has begun (R288). -/
def State.awaitOp (s : State) (o : Nat) (op : LongOp) (l : Lane) : State :=
  if relScope op.instr = some 4 ∧ s.releaseOk op.core o (s.earlierOps o op) l.thread 4 = true ∧
      s.peersAcked op.core op.wg op.rel = false then
    let r := s.relWait op.rel
    s.modOp o (fun op => { op with rel := r })
  else s

/-- An acquire has been made: the lines of the context leave the core's L1 at team scope or wider
(R273, R280). -/
def State.acquired (s : State) (c ctx : Nat) (sc : Option Nat) : State :=
  match sc with
  | some n => if wideScope n then s.modCore c (fun k => k.dropCtx ctx) else s
  | none => s

/-! ### The end of an operation (R23, R271, R311, R316) -/

/-- Of two faults, that of the lower thread; of one thread's, that of the lower sub-code (R424). -/
def lowerFault (b q : Nat × Nat × Nat × Nat) : Nat × Nat × Nat × Nat :=
  if q.1 < b.1 ∨ (q.1 = b.1 ∧ q.2.2.1 < b.2.2.1) then q else b

/-- The faults of one code that an operation has found at the home. -/
def LongOp.faultsOf (op : LongOp) (code : Nat) : List (Nat × Nat × Nat × Nat) :=
  op.faults.filter (fun p => p.2.1 = code)

/-- An operation all of whose lanes are done completes.  A held word issues now, or its group parks at
it with the plural fault that the home found (R311, R316). -/
def State.endOp (s : State) (o : Nat) : State :=
  match s.ops.get o with
  | none => s
  | some op =>
    let s := s.completeOp o
    if !(op.hold && s.opAlive op) then s
    else
      match (s.sheaf op.sid).run, op.faultsOf 7 with
      | some r, p :: ps =>
        let low := ps.foldl lowerFault p
        s.fault op.sid (bitsOf 64 r.mask) r.pc (some r.k) 7 low.2.2.1 ((p :: ps).map (·.1)) low.2.2.2
      | some _, [] => s.advance op.sid op.instr
      | none, _ => s

/-- An operation ends once all of it is done, unless a memory error has still to be raised (R271). -/
def State.tryEnd (s : State) (o : Nat) : State :=
  match s.ops.get o with
  | none => s
  | some op => if op.allDone && (op.faultsOf 0x11).isEmpty then s.endOp o else s

/-- Lane `t` of operation `o` is done. -/
def State.finishLane (s : State) (o t : Nat) : State := (s.modOp o (fun op => op.laneDone t)).tryEnd o

/-- A fault found at the home in lane `t`. -/
def State.laneFault (s : State) (o t code sub addr : Nat) : State :=
  s.modOp o (fun op => { op with faults := op.faults ++ [(t, code, sub, addr)] })

/-! ### Loads performed (R276, R292, R293) -/

/-- Registers that an access of `n` bytes writes. -/
def regsOf (n : Nat) : Nat := if n = 16 then 4 else if n = 8 then 2 else 1

/-- A lane's load is applied, where its home answers: D is written, with undefined values and a memory error to come where
poison is met (R5, R271, R288). -/
def State.performLoad (s : State) (o : Nat) (op : LongOp) (ln : Lane) (f : Fields) : State :=
  if !s.mayApply o op ln ∨ !s.open_ (some op.core) ln.leaf then s
  else
    let con := match op.instr with
      | .ldCon _ => true
      | _ => false
    let n := accessSize op.instr
    let (r, s) := s.loadBytes op.core op.ctx ln.leaf n (l1Hint op.instr) ln.ataint
    let ln' := { ln with taint := ln.taint || con }
    let s := if r.2 then
        let (ws, s) := s.undefs (regsOf n)
        (s.landDsts o op.sid ln' f.d ws).laneFault o ln.thread 0x11 0 ln.va.toNat
      else s.landDsts o op.sid ln' f.d (loadVals (f.mod 0 3) r.1)
    (s.acquired op.core op.ctx (acqScope op.instr)).finishLane o ln.thread

/-! ### Stores applied and performed (R276, R293, R294, R315, R435) -/

/-- Why a store to a page is dropped at its home: 1 no memory, 2 uncorrectable or poison (R271, R435,
R445). -/
def State.badStore (s : State) (ctx : Nat) (i : Instr) (l : Leaf) (n : Nat) : Option Nat :=
  if l.ca = 3 then none
  else if windowBase ≤ l.pa then
    (match i with
      | .st _ | .stRel _ => if (windowOf l.pa).isSome then none else some 1
      | _ => some 1)
  else if !s.inGddr l.pa n then some 1
  else if (s.homeLoad (s.ctx ctx) l n).2 then some 2
  else none

/-- Masked bytes stored through a page at their home. -/
def State.homeStoreMasked (s : State) (ctx : Nat) (l : Leaf) (data : List (Byte × Byte)) : State :=
  let old := (s.homeLoad (s.ctx ctx) l data.length).1
  s.homeStore (s.ctx ctx) l (List.zipWith maskByte old data)

/-- A store to a peer page that takes its place in the core order enters its port (R288). -/
def State.post (s : State) (n : Nat) (op : LongOp) (ln : Lane) (data : List (Byte × Byte)) : State :=
  let port := s.peerPort ln.leaf.peer
  s.modBase port (fun b => { b with
    posted := b.posted.put n ⟨op.ctx, ln.leaf.peer, ln.va, ln.pa.toNat, data, op.sid, op.wg, port, false, false⟩ })

/-- A posted store is performed at its home in the peer package. -/
def State.performPosted (s : State) (p : Posted) : State :=
  let a := p.pkg * 2 ^ 48 + p.pa
  s.pokePeer p.pkg p.pa (List.zipWith maskByte (s.peers.readN a p.data.length) p.data)

/-- A lane of a store reads its sources. -/
def State.landStore (s : State) (o : Nat) (op : LongOp) (ln : Lane) : List Word × State :=
  let (ws, s) := s.landSrcs op.sid ln.thread ln.srcs
  (ws, s.modOp o (fun op => { op with lanes := op.lanes.map (fun l =>
    if l.thread = ln.thread then { l with srcs := List.zipWith (fun p w => (p.1, w)) ln.srcs ws } else l) }))

/-- A store on a plural page is a blind write of masked bytes in each cell that it covers, one after another: the next
of them (R310, R315). -/
def State.performPlural (s : State) (o : Nat) (op : LongOp) (ln : Lane) (data : List (Byte × Byte)) : State :=
  let l := ln.leaf
  let ps := pieces l.cell l.pa data.length
  let p := ps.getD ln.cells default
  let s := s.unsettle (s.ctx op.ctx) ⟨p.1 + p.2.1, l.entry⟩ p.2.2.2
  let s := match s.pregion (s.ctx op.ctx) l.pa with
    | none => s.laneFault o ln.thread 7 5 p.1
    | some r =>
      let old := natBytes l.cell ((s.pcell r p.1 l.cell).sibs.getD 0 (0, 0)).2
      let part := (data.drop p.2.2.1).take p.2.2.2
      match s.blindWrite r p.1 l.cell p.2.1 (List.zipWith maskByte ((old.drop p.2.1).take part.length) part) with
      | .ok s => s
      | .error e => s.laneFault o ln.thread 7 e p.1
  let s := s.modCore op.core (fun k => k.dropLines ln.pa.toNat data.length)
  if ps.length ≤ ln.cells + 1 then s.finishLane o ln.thread
  else s.modOp o (fun op => { op with lanes := op.lanes.map (fun k =>
    if k.thread = ln.thread then { k with cells := ln.cells + 1 } else k) })

/-- A store has read the sources of every lane: it has completed in the sense of R24, and travels on to its home (R99). -/
def LongOp.isRead (op : LongOp) : Bool :=
  (match op.instr with
    | .st _ | .stSub _ | .stRel _ => true
    | _ => false) && op.lanes.all (fun l => l.done || l.applied.isSome)

/-- The lanes of an `st.sub` whose masks and data one request carries: those of the lane's word (R294). -/
def LongOp.merged (op : LongOp) (ln : Lane) : List Lane :=
  match op.instr with
  | .stSub _ => if ln.leaf.plural then [ln] else op.lanes.filter (fun l => l.key = ln.key && !l.done)
  | _ => [ln]

/-- The sources of several `st.sub` lanes to one word as one: a higher lane's bits win (R294). -/
def mergeSub (bitMode : Bool) (l : List (List Word)) : List Word :=
  l.foldl (fun acc w =>
    let m := subMask bitMode (opd w 1)
    [(opd acc 0 &&& ~~~ m) ||| (opd w 0 &&& m), opd acc 1 ||| opd w 1]) [0, 0]

/-- The lanes `ls` of a store are applied as the one request `n`, which the first of them carries: it holds the merged
sources, and the others are done with it (R276, R294). -/
def LongOp.carry (op : LongOp) (n : Nat) (ls : List Lane) (ws : List Word) : LongOp :=
  let lead := (ls.head?.map (·.thread)).getD 0
  { op with lanes := op.lanes.map (fun l =>
      if l.thread = lead then { l with applied := some n, srcs := List.zipWith (fun p w => (p.1, w)) l.srcs ws }
      else if ls.any (fun k => k.thread = l.thread) then { l with done := true }
      else l) }

/-- A store takes its place in the core order, every lane of its word with it; the lines of the core take it, and one to a
peer page is posted (R273, R276, R288, R294). -/
def State.applyStore (s : State) (o : Nat) (op : LongOp) (ls : List Lane) (ln : Lane) : State :=
  let (wss, s) := ls.foldl (fun (acc : List (List Word) × State) l =>
    let (ws, s) := acc.2.landSrcs op.sid l.thread l.srcs
    (acc.1 ++ [ws], s)) ([], s)
  let ws := match op.instr with
    | .stSub f => if ls.length = 1 then wss.headD [] else mergeSub (f.mod 0 1 == 1) wss
    | _ => wss.headD []
  let data := storeData op.instr ws
  if data.all (fun p => p.2 == 0) then each ls (fun l s => s.finishLane o l.thread) s
  else
    let (n, s) := s.fresh
    let s := s.modOp o (fun op => op.carry n ls ws)
    if ln.leaf.ca = 3 then s.post n op ln data
    else if windowBase ≤ ln.pa.toNat then s
    else s.modCore op.core (fun k => k.storeLines ln.pa.toNat data)

/-- A store is applied in core order, then performed at its home, where it is reached; one to a plural page is performed at
once, cell by cell; a mask of 0 performs nothing (R5, R276, R294, R315). -/
def State.performStore (s : State) (o : Nat) (op : LongOp) (ln : Lane) : State :=
  match ln.applied with
  | none =>
    let ls := op.merged ln
    if !(ls.all (s.mayApply o op)) then s.awaitOp o op ln
    else if ln.leaf.plural then
      let (ws, s) := if ln.cells = 0 then s.landStore o op ln else (ln.srcs.map (·.2), s)
      let data := storeData op.instr ws
      if data.all (fun p => p.2 == 0) then s.finishLane o ln.thread
      else if s.storesPend op.core ln.key data.length ∨ s.badStore op.ctx op.instr ln.leaf data.length ≠ none ∨
          !s.open_ (some op.core) ln.leaf then s
      else s.performPlural o op ln data
    else s.applyStore o op ls (ls.headD ln)
  | some n =>
    let data := storeData op.instr (ln.srcs.map (·.2))
    let first := (s.pendingStores op.core).all (fun p =>
      decide (n ≤ p.1) || !overlap p.2.1 p.2.2.length ln.key data.length)
    if !first ∨ s.badStore op.ctx op.instr ln.leaf data.length ≠ none ∨ !s.open_ (some op.core) ln.leaf then s
    else if ln.leaf.ca = 3 then
      let port := s.peerPort ln.leaf.peer
      match (s.base port).posted.get n with
      | none => s.finishLane o ln.thread
      | some p => ((s.performPosted p).modBase port (fun b => { b with
          posted := b.posted.mod n (fun p => { p with performed := true }) })).finishLane o ln.thread
    else if windowBase ≤ ln.pa.toNat then
      (s.windowStore ln.pa.toNat (data.map (·.1))).finishLane o ln.thread
    else (s.homeStoreMasked op.ctx ln.leaf data).finishLane o ln.thread

/-! ### Atomics performed (R284, R295 to R297, R315) -/

/-- The new values and the old values that lanes receive, for the values `vs` of the lanes of one address
in ascending thread index (R295, R296). -/
def atomicRun (n op old : Nat) (vs : List Nat) : Nat × List Nat :=
  let w (x : Nat) : Word := BitVec.ofNat 32 x
  if op = 9 then
    match vs with
    | [] => (old, [])
    | v :: rest =>
      let q := rest.foldl (fun acc x => acc ++ [(addF32 false (acc.getLastD 0) (w x)).1]) [w v]
      let outs := (q.dropLast).map (fun x => ((addF32 false (w old) x).1).toNat)
      (((addF32 false (w old) (q.getLastD 0)).1).toNat, old :: outs)
  else
    vs.foldl (fun acc v => (rmwInt n op acc.1 v, acc.2 ++ [acc.1])) (old, [])

/-- What an atomic does to the value at its address: the new value and each lane's old value. -/
def atomicDo (i : Instr) (old : Nat) (ls : List (List Word)) : Nat × List Nat :=
  let num (l : List Word) : Nat := leNat (wordsBytes l)
  match i with
  | .atomCas f =>
    let r := if f.mod 9 1 = 1 then 2 else 1
    ls.foldl (fun acc l =>
      (if acc.1 = num (l.take r) then num ((l.drop r).take r) else acc.1, acc.2 ++ [acc.1])) (old, [])
  | .atom f | .red f =>
    atomicRun (if f.mod 9 1 = 1 then 64 else 32) (f.mod 0 4) old (ls.map num)
  | .vism _ => ls.foldl (fun acc l => (min acc.1 (num l), acc.2 ++ [acc.1])) (old, [])
  | _ => (old, [])

/-- An atomic at an ordinary page: the new bytes and the lanes' old values; its line becomes hot (R275, R284). -/
def State.atomicHome (s : State) (op : LongOp) (l : Leaf) (n : Nat) (ls : List (List Word)) :
    List Nat × State :=
  let old := leNat (s.homeLoad (s.ctx op.ctx) l n).1
  let r := atomicDo op.instr old ls
  let s := (s.homeStore (s.ctx op.ctx) l (natBytes n r.1)).makeHot l
  (r.2, if l.ca = 3 then s else s.modCore op.core (fun k => k.storeLines l.pa ((natBytes n r.1).map (fun b => (b, 0xFF)))))

/-- An atomic on a plural page: the cells it covers must have one sibling each; the sequence advances and
the dots are renewed (R315). -/
def State.atomicPlural (s : State) (op : LongOp) (l : Leaf) (n : Nat) (ls : List (List Word)) :
    Except (Nat × Nat) (List Nat × State) :=
  let s := s.unsettle (s.ctx op.ctx) l n
  match s.pregion (s.ctx op.ctx) l.pa with
  | none => .error (5, l.pa / l.cell * l.cell)
  | some r =>
    let ps := pieces l.cell l.pa n
    match ps.find? (fun p => (s.pcell r p.1 l.cell).sibs.length != 1) with
    | some p => .error (2, p.1)
    | none =>
      let cellVal (p : Nat × Nat × Nat × Nat) : Nat := ((s.pcell r p.1 l.cell).sibs.getD 0 (0, 0)).2
      let bytes := ps.flatMap (fun p => ((natBytes l.cell (cellVal p)).drop p.2.1).take p.2.2.2)
      let x := atomicDo op.instr (leNat bytes) ls
      let new := natBytes n x.1
      let s := each ps (fun p s =>
        let c := s.pcell r p.1 l.cell
        let v := spliceBytes l.cell (c.sibs.getD 0 (0, 0)).2 p.2.1 ((new.drop p.2.2.1).take p.2.2.2)
        let q := (c.seq + 1) % 2 ^ 24
        (s.putPcell r p.1 l.cell { c with seq := q, sibs := [(q, v)] }).getD s) s
      .ok (x.2, s.modCore op.core (fun k => k.dropLines l.pa n))

/-- Lanes of an operation that one performance covers: the lanes of the same address for an aggregated
atomic, the lane alone for `atom.cas` (R296, R297). -/
def LongOp.batch (op : LongOp) (ln : Lane) : List Lane :=
  match op.instr with
  | .atomCas _ => [ln]
  | _ => op.lanes.filter (fun l => l.key = ln.key && !l.done)

/-- The sources of several lanes. -/
def State.landMany (s : State) (sid : Nat) (ls : List Lane) : List (List Word) × State :=
  ls.foldl (fun acc l => let (ws, s) := acc.2.landSrcs sid l.thread l.srcs; (acc.1 ++ [ws], s)) ([], s)

/-- The destination field of an atomic. -/
def atomD : Instr → BitVec 8
  | .atom f | .atomCas f | .vism f => f.d
  | _ => 0xF0

/-- An atomic is performed at its home, for every lane of one request (R284, R296). -/
def State.performAtomic (s : State) (o : Nat) (op : LongOp) (ln : Lane) : State :=
  let ls := op.batch ln
  let n := accessSize op.instr
  let isRed := match op.instr with
    | .red _ => true
    | _ => false
  let bad := ln.leaf.ca ≠ 3 ∧ (!s.inGddr ln.pa.toNat n ∨ (s.homeLoad (s.ctx op.ctx) ln.leaf n).2)
  let pend := s.storesPend op.core ln.key n
  if !(ls.all (s.mayApply o op)) then s.awaitOp o op ln
  else if pend ∨ !s.open_ (some op.core) ln.leaf then s
  else if bad ∧ isRed = true then s
  else if bad then
    let s := each ls (fun l s =>
      let (ws, s) := s.undefs (regsOf n)
      (s.landDsts o op.sid l (atomD op.instr) ws).laneFault o l.thread 0x11 0 l.va.toNat) s
    each ls (fun l s => s.finishLane o l.thread) (s.acquired op.core op.ctx (acqScope op.instr))
  else
    let (ws, s) := s.landMany op.sid ls
    let out (olds : List Nat) (s : State) : State :=
      let s := each (List.zip ls olds) (fun p s =>
        s.landDsts o op.sid p.1 (atomD op.instr) (bytesWords (n / 4) (natBytes n p.2))) s
      let s := s.acquired op.core op.ctx (acqScope op.instr)
      each ls (fun l s => s.finishLane o l.thread) s
    if ln.leaf.plural then
      match s.atomicPlural op ln.leaf n ws with
      | .ok (olds, s) => out olds s
      | .error e =>
        let s := s.unsettle (s.ctx op.ctx) ln.leaf n
        let s := each ls (fun l s => s.laneFault o l.thread 7 e.1 e.2) s
        each ls (fun l s => s.finishLane o l.thread) s
    else
      let (olds, s) := s.atomicHome op ln.leaf n ws
      out olds s

/-! ### The issue of a global access (R268, R269, R311) -/

/-- The virtual address of a lane (R259). -/
def Sheaf.globalAddr (sh : Sheaf) (f : Fields) (b : BitVec 8) (t : Nat) : BitVec 64 :=
  sh.readPair f.imm t f.a false + (sh.read f.imm t b).signExtend 64

/-- The operand fields of which a lane's address is formed. -/
def addrFields (f : Fields) (b : BitVec 8) : List (BitVec 8) :=
  (if single f.a then [f.a] else regRun f.a 2) ++ [b]

/-- Some register of a lane's address carries consume taint. -/
def Sheaf.addrTaint (sh : Sheaf) (f : Fields) (b : BitVec 8) (t : Nat) : Bool :=
  sh.taintRun t f.a (if single f.a then 1 else 2) || sh.taintOf t b

/-- A page has memory that an access of its kind reaches: for a window, loads and stores only (R264,
R445). -/
def State.reaches (s : State) (l : Leaf) (n : Nat) (acc : Access) : Bool :=
  l.ca == 3 || s.inGddr l.pa n || ((acc == .load || acc == .store) && (windowOf l.pa).isSome)

/-- A page that only privileged code reaches by its place: every register window but the doorbells (R328, R445).
DESIGN CHOICE (log 75): a leaf that maps one with SYS = 0 counts as if SYS were 1. -/
def Leaf.guarded (l : Leaf) : Bool :=
  l.ca != 3 && (match windowOf l.pa with
    | some (.doorbell, _) => false
    | some _ => true
    | none => false)

/-- The translation of one lane's access, with every condition of R268 in its order.  `late` accesses
find a missing memory at the home (R435). -/
def State.place (s : State) (core ctx va n : Nat) (acc : Access) (late priv : Bool) : Xlate × State :=
  if 2 ^ 52 ≤ va then (.bad 1, s)
  else if va % n ≠ 0 then (.bad 2, s)
  else
    match s.xlate ctx va acc priv (some core) with
    | (.away, s) => (.away, s)
    | (.absent, s) => (if (s.ctx ctx).replayable then .absent else .bad 3, s)
    | (.ok l, s) =>
      if !priv && l.guarded then (.bad 4, s)
      else if late || s.reaches l n acc then (.ok l, s) else (.bad 6, s)
    | (.bad k, s) => (.bad k, s)

/-- What the translation gives the lanes of an access: thread, address and outcome. -/
def State.placeAll (s : State) (core : Nat) (sh : Sheaf) (n : Nat) (acc : Access) (late : Bool)
    (addrs : List (Nat × Nat)) : List (Nat × Nat × Xlate) × State :=
  addrs.foldl (fun a p =>
    let (x, s) := a.2.place core sh.ctx p.2 n acc late (sh.thread p.1).priv
    (a.1 ++ [(p.1, p.2, x)], s)) ([], s)

/-- The global access fault of the lanes, where there is one (R268, R424). -/
def globalFault (is : Issue) (l : List (Nat × Nat × Xlate)) (s : State) : Option Result :=
  let bad := l.filterMap (fun p => match p.2.2 with
    | .bad k => some (p.1, p.2.1, k)
    | _ => none)
  match bad with
  | [] => none
  | p :: _ => some (is.fault 0x10 p.2.2 (bad.map (·.1)) (p.2.1 % 2 ^ 52) s)

/-- The code of an access in a replayable fault record (R270). -/
def Access.code : Access → Nat
  | .load => 0
  | .store => 1
  | .atomic => 2
  | .fetch => 3

/-- Threads whose pages are not present park at the word, and each page is recorded (R269). -/
def State.parkReplays (s : State) (is : Issue) (acc : Access) (l : List (Nat × Nat)) : State :=
  let r := s.run is.sid
  let sh := s.sheaf is.sid
  let s := each l (fun p s =>
    s.modSheaf is.sid (fun sh => sh.parkAt [p.1] r.pc (some r.k) (.replay (BitVec.ofNat 64 p.2)))) s
  each l (fun p s =>
    s.replayFault sh.ctx p.2 acc.code (l.filter (fun q => q.2 / 65536 = p.2 / 65536)).length
      (coreOf is.sid) (slotOf is.sid) sh.gen.toNat) s

/-- Lanes whose page is absent. -/
def absents (l : List (Nat × Nat × Xlate)) : List (Nat × Nat) :=
  l.filterMap (fun p => match p.2.2 with
    | .absent => some (p.1, p.2.1)
    | _ => none)

/-- Lanes whose page is present. -/
def presents (l : List (Nat × Nat × Xlate)) : List (Nat × Nat × Leaf) :=
  l.filterMap (fun p => match p.2.2 with
    | .ok lf => some (p.1, p.2.1, lf)
    | _ => none)

/-- The plural fault that R316 checks with translation, where a lane meets one: sub-code 3 for a plural
instruction on an ordinary page, 4 for the wrong cell size (for `vism` too, R405), 5 outside every region. -/
def State.pluralFault (s : State) (is : Issue) (ctx : Nat) (inst cell8 : Bool) (n : Nat)
    (l : List (Nat × Nat × Leaf)) : Option Result :=
  let sub (lf : Leaf) : Option Nat :=
    if inst ∧ !lf.plural then some 3
    else if (inst ∨ (cell8 ∧ lf.plural)) ∧ lf.cell ≠ n then some 4
    else if lf.plural ∧ (s.pregion (s.ctx ctx) lf.pa).isNone then some 5
    else none
  let at_ (lf : Leaf) : Nat := if lf.plural then lf.pa / lf.cell * lf.cell else lf.pa
  let bad := l.filterMap (fun p => (sub p.2.2).map (fun k => (p.1, at_ p.2.2, k)))
  match bad with
  | [] => none
  | p :: _ => some (is.fault 7 p.2.2 (bad.map (·.1)) p.2.1 s)

/-- The issue of a global access: every lane is translated and checked before any is accepted, and a fault
leaves the state as it was (R268, R316); lanes of
absent pages park; the rest enters flight.  A write to a plural page holds the group (R268, R269, R311). -/
def globalOp (i : Instr) (f : Fields) (off : BitVec 8) (acc : Access) (late : Bool)
    (srcs dsts : List (BitVec 8)) (inst : Bool) (is : Issue) (s₀ : State) : Result :=
  let sh := s₀.sheaf is.sid
  let n := accessSize i
  let addrs := is.act.map (fun t => (t, (sh.globalAddr f off t).toNat))
  let (l, s) := s₀.placeAll (coreOf is.sid) sh n acc late addrs
  match globalFault is l s₀ with
  | some r => r
  | none =>
    let cell8 : Bool := match i with
      | .vism _ => true
      | _ => false
    if l.any (fun p => p.2.2 == .away) then .wait s₀
    else match s₀.pluralFault is sh.ctx inst cell8 n (presents l) with
    | some r => r
    | none =>
      let s := s.parkReplays is acc (absents l)
      let ok := presents l
      let act := ok.map (·.1)
      let lanes := ok.map (fun p =>
        { sh.lane f.imm act srcs dsts p.1 with
          va := BitVec.ofNat 64 p.2.1
          pa := BitVec.ofNat 64 p.2.2.pa
          entry := p.2.2.entry
          addrs := sh.capture f.imm p.1 (addrFields f off)
          ataint := sh.addrTaint f off p.1
          taint := sh.addrTaint f off p.1 || srcs.any (sh.taintOf p.1) })
      let hold := ok.any (fun p => p.2.2.plural && (acc != .load))
      if (s.sheaf is.sid).run.isNone ∧ act = [] then .done s
      else
        let s := s.launch is i lanes (fun op => { op with hold := hold })
        if hold then .wait s else .done s

/-- The registers of a loaded value. -/
def loadRegs (f : Fields) : List (BitVec 8) := regRun f.d (sizeRegs (f.mod 0 3))

/-- `ld` (R292, R293). -/
def execLd (f : Fields) : State → Host.Outcome State Fault Refusal :=
  issued (.ld f) (globalOp (.ld f) f f.b .load false [] (loadRegs f) false)

/-- `ld.con` (R285). -/
def execLdCon (f : Fields) : State → Host.Outcome State Fault Refusal :=
  issued (.ldCon f) (globalOp (.ldCon f) f f.b .load false [] (loadRegs f) false)

/-- `ld.acq` (R280). -/
def execLdAcq (f : Fields) : State → Host.Outcome State Fault Refusal :=
  issued (.ldAcq f) (globalOp (.ldAcq f) f f.b .load false [] (loadRegs f) false)

/-- `st` (R292, R293). -/
def execSt (f : Fields) : State → Host.Outcome State Fault Refusal :=
  issued (.st f) (globalOp (.st f) f f.b .store true (dataFields f.c (sizeRegs (f.mod 0 3))) [] false)

/-- `st.sub` (R294): the offset is E, the data B, the mask C. -/
def execStSub (f : Fields) : State → Host.Outcome State Fault Refusal :=
  issued (.stSub f) (globalOp (.stSub f) f f.e .store true [f.b, f.c] [] false)

/-- `st.rel` (R281). -/
def execStRel (f : Fields) : State → Host.Outcome State Fault Refusal :=
  issued (.stRel f) (globalOp (.stRel f) f f.b .store true (dataFields f.c (sizeRegs (f.mod 0 3))) [] false)

/-- Registers of one value of an atomic. -/
def atomRegs (f : Fields) : Nat := if f.mod 9 1 = 1 then 2 else 1

/-- `atom` (R295, R296). -/
def execAtom (f : Fields) : State → Host.Outcome State Fault Refusal :=
  issued (.atom f)
    (globalOp (.atom f) f f.b .atomic false (dataFields f.c (atomRegs f)) (regRun f.d (atomRegs f)) false)

/-- `atom.cas` (R297). -/
def execAtomCas (f : Fields) : State → Host.Outcome State Fault Refusal :=
  issued (.atomCas f)
    (globalOp (.atomCas f) f f.b .atomic false (dataFields f.c (2 * atomRegs f)) (regRun f.d (atomRegs f)) false)

/-- `red` (R295, R296). -/
def execRed (f : Fields) : State → Host.Outcome State Fault Refusal :=
  issued (.red f) (globalOp (.red f) f f.b .atomic true (dataFields f.c (atomRegs f)) [] false)

/-! ### Fences, cache control and taint (R283, R298 to R301) -/

/-- Operations of a sheaf in flight. -/
def State.opsOf (s : State) (sid : Nat) : List (Nat × LongOp) :=
  s.ops.filter (fun p => p.2.sid == sid && p.2.gen == (s.sheaf sid).gen)

/-- A release by threads of a sheaf at its issue may be made, but for acknowledgements of peers. -/
def State.fenceOk (s : State) (sid : Nat) (act : List Nat) (sc : Nat) : Bool :=
  act.all (fun t => s.releaseOk (coreOf sid) s.next (s.opsOf sid) t sc)

/-- `fence` (R283, R298): a release waits at issue; an acquire invalidates the context's lines. -/
def execFence (f : Fields) : State → Host.Outcome State Fault Refusal :=
  issued (.fence f) fun is s =>
    let kind := f.mod 0 2
    let sc := f.mod 2 3
    let c := coreOf is.sid
    let ctx := (s.sheaf is.sid).ctx
    let w := (s.sheaf is.sid).wg
    if is.act = [] then .done s
    else if kind ≠ 1 ∧ !s.fenceOk is.sid is.act sc then .wait s
    else if kind ≠ 1 ∧ sc = 4 ∧ !s.peersAcked c w (s.wordRel is.sid) then .wait (s.awaitWord is.sid)
    else .done (if kind ≠ 2 then s.acquired c ctx (some sc) else s)

/-- `cctl` (R299): lines leave the L1; no value that an access observes changes, and no lane faults. -/
def execCctl (f : Fields) : State → Host.Outcome State Fault Refusal :=
  issued (.cctl f) fun is s =>
    let sh := s.sheaf is.sid
    let c := coreOf is.sid
    match f.mod 0 3 with
    | 0 => .done (each is.act (fun t s =>
        let va := (sh.globalAddr f f.b t).toNat
        match s.xlate sh.ctx va .load (sh.thread t).priv (some c) false with
        | (.ok l, s) => s.modCore c (fun k => k.dropLines l.pa 1)
        | (_, s) => s) s)
    | 1 => .done (if is.act = [] then s else s.modCore c (fun k => k.dropCtx sh.ctx))
    | _ => .done s

/-- `pref` (R300): a lane whose page is cached and present starts a fill of its line into the L1; it never
faults and writes nothing, the leaf entry included.  With `.llc` the line is filled into the LLC only, which no access
observes (R272, R274). -/
def execPref (f : Fields) : State → Host.Outcome State Fault Refusal :=
  issued (.pref f) fun is s =>
    let sh := s.sheaf is.sid
    if f.mod 0 1 = 1 then .done s
    else .done (each is.act (fun t s =>
      let va := (sh.globalAddr f f.b t).toNat
      match s.xlate sh.ctx va .load (sh.thread t).priv (some (coreOf is.sid)) false with
      | (.ok l, s') =>
        if l.ca = 0 ∧ s'.inGddr l.pa 1 ∧ s'.open_ (some (coreOf is.sid)) l ∧ ((s'.core (coreOf is.sid)).line sh.ctx l.pa).isNone then
          (s'.loadBytes (coreOf is.sid) sh.ctx l 1 (f.hint.toNat % 4) false).2
        else s'
      | (_, s') => s') s)

/-- `tclr` (R301). -/
def execTclr (f : Fields) : State → Host.Outcome State Fault Refusal :=
  issued (.tclr f) (laneOp f.d 1 (fun sh t => ⟨t, [(sh.read f.imm t f.a, false)], 0⟩))

/-! ### Events of accesses in flight -/

/-- MEMORY_ERROR_FAULT (R271): an instruction that has delivered poison completes with its context
fault. -/
def execMemoryErrorFault (o : Nat) (s : State) : Host.Outcome State Fault Refusal :=
  .next (match s.ops.get o with
    | none => s
    | some op =>
      match op.faultsOf 0x11 with
      | [] => s
      | p :: ps =>
        if !op.allDone then s
        else
          let low := ps.foldl lowerFault p
          (s.endOp o).lateFault op 0x11 0 ((p :: ps).map (·.1)) low.2.2.2)

/-- IMPRECISE_STORE_FAULT (R435): a store or `red` that finds no memory or poison at its home is dropped
and reported. -/
def execImpreciseStoreFault (o t : Nat) (s : State) : Host.Outcome State Fault Refusal :=
  .next (match s.ops.get o with
    | none => s
    | some op =>
      match op.lanes.find? (fun l => l.thread = t && !l.done) with
      | none => s
      | some ln =>
        let atHome := match op.instr with
          | .red _ | .stk _ => true
          | .st _ | .stSub _ | .stRel _ => ln.leaf.plural
          | _ => false
        if !(ln.applied.isSome || (atHome && s.mayApply o op ln)) then s
        else
          match s.badStore op.ctx op.instr ln.leaf (accessSize op.instr) with
          | none => s
          | some sub => (s.finishLane o t).lateFault op 0x17 sub [t] ln.va.toNat)

/-- TRANSLATION_WALK (R266): a walk fills the translation caches of the core that the bits of `va` from 52 up name and of
its die; it is no access, and leaves ACC and DIRTY as they are (R262). -/
def execTranslationWalk (ctx va : Nat) (s : State) : Host.Outcome State Fault Refusal :=
  .next (
    let core := va / 2 ^ 52
    let va := va % 2 ^ 52
    if (s.ctxs.get ctx).isNone ∨ 256 ≤ core then s
    else match s.walk (s.ctx ctx) va with
      | .leaf a e n => s.fillTlb (some core) ⟨ctx, va / 2 ^ n * 2 ^ n, n, BitVec.ofNat 64 e, a⟩
      | _ => s)

end Sys2Proof.Machine
end

