-- ==== Sys2Proof/Machine/Plural.lean ====
section
/-! DEFINITION. The plural instructions (R305 to R316), and the event at which an access in flight is
performed. -/

namespace Sys2Proof.Machine

/-- The cell check of a physical address (R309). -/
def cellCheck (p : Nat) : Nat := Nat.xor (Nat.xor (bits p 2 16) (bits p 18 16)) (bits p 34 14)

/-- An ancestry value covers a dot (R308). -/
def covers (seq anc dot : Nat) : Bool := decide (age seq anc ≤ age seq dot)

/-- One fold step of `rcn` over `n` bits (R313). -/
def rcnFold (n op acc x : Nat) : Nat :=
  match op with
  | 0 => acc
  | 1 => x
  | 2 => rmwInt n 1 acc x
  | 3 => rmwInt n 2 acc x
  | 4 => rmwInt n 3 acc x
  | 5 => rmwInt n 4 acc x
  | 6 => rmwInt n 0 acc x
  | 7 => (addF32 false (BitVec.ofNat 32 acc) (BitVec.ofNat 32 x)).1.toNat
  | 8 => rmwInt n 5 acc x
  | _ => rmwInt n 6 acc x

/-- The registers of a value group (R312). -/
def groupRegs (b64 : Bool) : Nat := if b64 then 4 else 3

/-- The value group that `ldk` and `rcn` write (R309, R313). -/
def groupVals (b64 : Bool) (pa : Nat) (c : PCell) (k : Nat) : List Word :=
  let n := c.sibs.length
  let hit := decide (k < n)
  let v := if hit then (c.sibs.getD k (0, 0)).2 else 0
  let an0 := cat [(1, 1), (0, 3), (k, 4), (c.seq, 24)]
  let an1 := cat [(cellCheck pa, 16), (b2n !hit, 1), (0, 10), (n, 5)]
  bytesWords (if b64 then 2 else 1) (natBytes (if b64 then 8 else 4) v) ++
    [BitVec.ofNat 32 an0, BitVec.ofNat 32 an1]

/-- The collapse of `rcn`: one sibling with the folded value (R313). -/
def State.collapse (s : State) (r : PRegion) (pa size op : Nat) : State :=
  let c := s.pcell r pa size
  match c.sibs with
  | p :: q :: rest =>
    let v := (q :: rest).foldl (fun acc x => rcnFold (8 * size) op acc x.2) p.2
    let n := (c.seq + 1) % 2 ^ 24
    (s.putPcell r pa size { c with seq := n, sibs := [(n, v % 2 ^ (8 * size))] }).getD s
  | _ => s

/-- A plural write's effect on its cell: the state and the result word, or the plural sub-code (R314). -/
def State.stkHome (s : State) (r : PRegion) (pa size v : Nat) (a0 a1 : Word) : Except Nat (Word × State) :=
  let c := s.pcell r pa size
  let anc := a0.getLsbD 31 && bits a1.toNat 16 16 == cellCheck pa
  let keep := if anc then c.sibs.filter (fun p => !covers c.seq (bits a0.toNat 0 24) p.1) else c.sibs
  match s.addSibling r pa size c keep v with
  | .error e => .error e
  | .ok (s, c') =>
    .ok (BitVec.ofNat 32 (cat [(b2n !anc, 1), (0, 2), (keep.length + 1, 5), (c'.seq, 24)]), s)

/-- A lane meets poison at a plural cell: its destinations are undefined and a memory error is to come
(R271). -/
def State.pluralPoison (s : State) (o : Nat) (op : LongOp) (ln : Lane) (d : BitVec 8) (n : Nat) : State :=
  let (ws, s) := s.undefs n
  ((s.landDsts o op.sid ln d ws).laneFault o ln.thread 0x11 0 ln.va.toNat).finishLane o ln.thread

/-- A lane of `ldk`, `stk` or `rcn` is performed at the cell's home; a line of the core that holds the cell leaves its L1, so
that no later load of the core is older (R277, R310, R313, R314). -/
def State.performCell (s : State) (o : Nat) (op : LongOp) (ln : Lane) : State :=
  let pa := ln.pa.toNat
  let size := accessSize op.instr
  let lower := op.lanes.any (fun l => decide (l.thread < ln.thread) && !l.done && l.key == ln.key)
  if !s.mayApply o op ln ∨ lower ∨ s.storesPend op.core ln.key size ∨ !s.open_ (some op.core) ln.leaf then s
  else
    let s := (s.unsettle (s.ctx op.ctx) ln.leaf size).modCore op.core (fun k => k.dropLines pa size)
    match s.pregion (s.ctx op.ctx) pa with
    | none => s
    | some r =>
      let bad := (s.homeLoad (s.ctx op.ctx) ln.leaf size).2
      match op.instr with
      | .ldk f =>
        if bad then s.pluralPoison o op ln f.d (groupRegs (size == 8))
        else
          let (ws, s) := s.landSrcs op.sid ln.thread ln.srcs
          (s.landDsts o op.sid ln f.d (groupVals (size == 8) pa (s.pcell r pa size) (opd ws 0).toNat)).finishLane o ln.thread
      | .rcn f =>
        if bad then s.pluralPoison o op ln f.d (groupRegs (size == 8))
        else
          let s := s.collapse r pa size (f.mod 0 4)
          (s.landDsts o op.sid ln f.d (groupVals (size == 8) pa (s.pcell r pa size) 0)).finishLane o ln.thread
      | .stk f =>
        if bad then s
        else
          let (ws, s) := s.landSrcs op.sid ln.thread ln.srcs
          let w := size / 4
          (match s.stkHome r pa size (leNat (wordsBytes (ws.take w))) (opd ws w) (opd ws (w + 1)) with
            | .ok (x, s) => s.landDsts o op.sid ln f.d [x]
            | .error e => s.laneFault o ln.thread 7 e pa).finishLane o ln.thread
      | _ => s

/-- The fields of an ancestry pair: 0xF0 reads as zero (R309, R119). -/
def pairFields (v : BitVec 8) : List (BitVec 8) := if single v then [v, 0xF0] else regRun v 2

/-- `ldk` (R312, R313). -/
def execLdk (f : Fields) : State → Host.Outcome State Fault Refusal :=
  issued (.ldk f) (globalOp (.ldk f) f f.b .load false [if f.mod 1 1 = 1 then f.c else 0xF0]
    (regRun f.d (groupRegs (f.mod 0 1 == 1))) true)

/-- `stk` (R312, R314). -/
def execStk (f : Fields) : State → Host.Outcome State Fault Refusal :=
  issued (.stk f) (globalOp (.stk f) f f.e .store true
    (dataFields f.b (if f.mod 0 1 = 1 then 2 else 1) ++ pairFields f.c) [f.d] true)

/-- `rcn` (R312, R313). -/
def execRcn (f : Fields) : State → Host.Outcome State Fault Refusal :=
  issued (.rcn f) (globalOp (.rcn f) f f.b .atomic false [] (regRun f.d (groupRegs (f.mod 4 1 == 1))) true)

/-- GLOBAL_ACCESS_PERFORMED (R276): lane `t` of access `o` is applied in core order, or performed at its
home. -/
def execGlobalAccessPerformed (o t : Nat) (s : State) : Host.Outcome State Fault Refusal :=
  .next (match s.ops.get o with
    | none => s
    | some op =>
      match op.lanes.find? (fun l => l.thread = t && !l.done) with
      | none => s
      | some ln =>
        match op.instr with
        | .ld f | .ldCon f | .ldAcq f => s.performLoad o op ln f
        | .st _ | .stSub _ | .stRel _ => s.performStore o op ln
        | .atom _ | .atomCas _ | .red _ | .vism _ => s.performAtomic o op ln
        | .ldk _ | .stk _ | .rcn _ => s.performCell o op ln
        | _ => s)

end Sys2Proof.Machine
end

