-- ==== Sys2Proof/Machine/Joins.lean ====
section
/-! DEFINITION. Join cells and waiting on memory (R175 to R181). -/

namespace Sys2Proof.Machine

/-! ### Join cells (R175, R176) -/

/-- PHASE of a cell. -/
def jcPhase (x : Nat) : Nat := bits x 120 8
/-- EXPECT. -/
def jcExpect (x : Nat) : Nat := bits x 108 12
/-- ARRIVED. -/
def jcArrived (x : Nat) : Nat := bits x 96 12
/-- REG. -/
def jcReg (x : Nat) : Nat := bits x 84 12
/-- OBS. -/
def jcObs (x : Nat) : Nat := bits x 72 12
/-- PEND, signed. -/
def jcPend (x : Nat) : Int := sext 24 (bits x 48 24)

/-- PEND with `d` added, clamped (R176, R179). -/
def jcAddPend (x : Nat) (d : Int) : Nat :=
  let p := clamp (-(2 ^ 23)) (2 ^ 23 - 1) (jcPend x + d)
  let x := setBits x 48 24 (p.1 % 2 ^ 24).toNat
  if p.2 then setBits x 32 1 1 else x

/-- The check for the end of a phase: the cell after it, and whether the phase completed (R176). -/
def jcCheck (x : Nat) : Nat × Bool :=
  if 1 ≤ jcExpect x ∧ jcArrived x = jcExpect x ∧ jcPend x = 0 then
    (setBits (setBits (setBits (setBits x 120 8 ((jcPhase x + 1) % 256)) 96 12 0) 72 12 (jcReg x)) 84 12 0, true)
  else (x, false)

/-- One registered waiter has observed the completed phase (R179, R181). -/
def jcObserve (x : Nat) : Nat := if 0 < jcObs x then setBits x 72 12 (jcObs x - 1) else x

/-- The status word of a cell (R179, R181). -/
def jcWord (done : Bool) (x : Nat) : Word := BitVec.ofNat 32 (b2n done * 2 ^ 31 + jcArrived x * 256 + jcPhase x)

/-- A cell changed. -/
def State.modCell (s : State) (w off : Nat) (f : Nat → Nat) : State :=
  s.modScratch w (fun m => m.putNum off 16 (f (m.num off 16)))

/-- `b` bytes delivered for a cell: PEND counts down and the phase is checked (R176). -/
def State.countCell (s : State) (w off b : Nat) : State :=
  s.modCell w off (fun x => (jcCheck (jcAddPend x (-(b : Int)))).1)

/-- `jc.init` with EXPECT `e` (R179). -/
def jcInit (e x : Nat) : Nat := cat [(0, 8), (e, 12), (0, 76), (bits x 0 32, 32)]

/-- `jc.arv` of `n` arrivals: the cell and the result word (R179). -/
def jcArrive (reg : Bool) (n x : Nat) : Nat × Word :=
  if 0 < jcObs x ∨ jcExpect x < jcArrived x + n then
    (x, jcWord true x)
  else
    let y := setBits x 96 12 (jcArrived x + n)
    let y := if reg then setBits y 84 12 (jcReg x + 1) else y
    let z := jcCheck y
    (z.1, BitVec.ofNat 32 (b2n z.2 * 2 ^ 30 + jcArrived y * 256 + jcPhase x))

/-- `jc.exp` of `b` bytes (R179). -/
def jcExpectBytes (b x : Nat) : Nat × Word :=
  let y := (jcCheck (jcAddPend x b)).1
  (y, BitVec.ofNat 32 (jcPhase y * 2 ^ 24 + bits y 48 24))

/-- `jc.test` against phase `p` (R179). -/
def jcTest (obs : Bool) (p x : Nat) : Nat × Word :=
  let done := jcPhase x != p % 256
  let y := if obs && done then jcObserve x else x
  (y, jcWord done y)

/-- A word that takes its place in the orders of the core's own scratchpad and of its partner's, where it accesses them;
the two orders are independent (R163). -/
def Issue.inBoth (is : Issue) (own partner : Bool) (s : State) (k : State → Result) : Result :=
  let far (s : State) : Result := if partner then is.inScratch true s k else k s
  if own then is.inScratch false s far else far s

/-- A join instruction: its lanes act in ascending thread index on the cell at A, each seeing the updates
of the lower ones (R178).  `bad` says of B's value that it is an illegal use. -/
def joinOp (f : Fields) (bad : Nat → Bool) (g : Nat → Nat → Nat × Word) (is : Issue) (s : State) : Result :=
  let sh := s.sheaf is.sid
  if is.act.any (fun t => bad (sh.read f.imm t f.b).toNat) then is.illegal s
  else
    let addrs := is.act.map (fun t => (t, sh.read f.imm t f.a))
    match s.scratchCheck is addrs 16 with
    | some r => r
    | none =>
      if is.barred s (fun t => sh.taintOf t f.a) then .wait s
      else is.inBoth (addrs.any (fun p => !p.2.getLsbD 24)) (addrs.any (fun p => p.2.getLsbD 24)) s fun s =>
        let w := s.wgOf is.sid
        let r := addrs.foldl (fun (acc : List LaneOut × State) p =>
          let v := (acc.2.scratchWg w p.2).getD w
          let off := scratchOff p.2
          let x := g (sh.read f.imm p.1 f.b).toNat (acc.2.scratchNum v off 16)
          let taint := sh.taintOf p.1 f.a || sh.taintOf p.1 f.b
          (acc.1 ++ [⟨p.1, [(x.2, taint)], 0⟩], acc.2.modCell v off (fun _ => x.1))) ([], s)
        .done (r.2.writeLanes is.sid f.d 1 r.1)

/-- `jc.init` (R179). -/
def execJcInit (f : Fields) : State → Host.Outcome State Fault Refusal :=
  issued (.jcInit f) (joinOp f (fun e => 4095 < e) (fun e x => (jcInit e x, 0)))

/-- `jc.arv` (R179). -/
def execJcArv (f : Fields) : State → Host.Outcome State Fault Refusal :=
  let many := f.mod 1 1 == 1
  issued (.jcArv f) (joinOp f (fun n => many && (n == 0 || decide (4095 < n)))
    (fun n x => jcArrive (f.mod 0 1 == 1) (if many then n else 1) x))

/-- `jc.exp` (R179). -/
def execJcExp (f : Fields) : State → Host.Outcome State Fault Refusal :=
  issued (.jcExp f) (joinOp f (fun b => 2 ^ 23 ≤ b) jcExpectBytes)

/-- `jc.test` (R179). -/
def execJcTest (f : Fields) : State → Host.Outcome State Fault Refusal :=
  issued (.jcTest f) (joinOp f (fun _ => false) (fun p x => jcTest (f.mod 0 1 == 1) p x))

/-! ### `waitm` (R180, R181) -/

/-- The condition on a word (R180). -/
def waitCond (cond : Nat) (w b : Word) : Bool :=
  match cond with
  | 0 => w == b
  | 1 => w != b
  | 2 => w.ult b
  | _ => !w.ult b

/-- One evaluation of a wait: whether the condition holds, the value for D, and the state after `.obs` has
been applied, and the code of the fault that it delivers (poison 0x11, a peer link that is down 0x14);
none where a global page cannot be read now, or an earlier access of the thread must come first (R181, R271, R277, R280,
R285, R288). -/
def State.evalWait (s : State) (sid t : Nat) (w : Wait) : Option (Bool × Word × Nat) × State :=
  let sh := s.sheaf sid
  let c := coreOf sid
  if w.global then
    match s.place c sh.ctx w.addr.toNat 4 .load false w.priv with
    | (.ok l, s) =>
      let down : Bool := l.ca == 3 && s.linkDown l.peer
      if (!down ∧ !s.open_ (some c) l) ∨ s.readHeld sid t w.ataint l 4 then (none, s)
      else
        let (r, s) := s.loadBytes c sh.ctx l 4 3 true
        let (x, s) := if r.2 || down then s.undef else ((BitVec.ofNat 32 (leNat r.1), s) : Word × State)
        let ok := waitCond w.cond.toNat (x &&& w.mask) (w.cmp &&& w.mask)
        (some (ok, x, if down then 0x14 else if r.2 then 0x11 else 0), if ok then s.acquired c sh.ctx (some 0) else s)
    | (_, s) => (none, s)
  else
    let a : Word := w.addr.setWidth 32
    let s := s.flushScratch c (a.getLsbD 24)
    let v := (s.scratchWg sh.wg a).getD sh.wg
    let off := scratchOff a
    if !s.scratchClear c (a.getLsbD 24) ∨ s.barred sid sh.gen t w.ataint s.next then (none, s)
    else if w.cond = 4 then
      let x := s.scratchNum v off 16
      let ok := jcPhase x != w.cmp.toNat % 256
      (some (ok, jcWord ok x, 0), if ok && w.obs then s.modCell v off jcObserve else s)
    else
      let x : Word := BitVec.ofNat 32 (s.scratchNum v off 4)
      (some (waitCond w.cond.toNat (x &&& w.mask) (w.cmp &&& w.mask), x, 0), s)

/-- The fault that a `waitm` delivers, where it delivers one (R271, R288). -/
def State.waitPoison (s : State) (sid t : Nat) (w : Wait) (code : Nat) : State :=
  if code = 0 then s
  else
    let sh := s.sheaf sid
    s.lateFaultAt sid sh.gen sh.ctx w.priv w.pc code 0 [t] w.addr.toNat

/-- A waiting thread evaluates again; it becomes ready when the condition holds, or when `late`: the time-out
has expired (R181). -/
def State.reevaluate (s : State) (sid t : Nat) (w : Wait) (late : Bool) : State :=
  let (r, s) := s.evalWait sid t w
  match r with
  | none =>
    if late then s.modSheaf sid (fun sh =>
      (sh.write w.d t w.seen w.taint).modThread t (fun th => { th with st := .ready }))
    else s
  | some (ok, x, poison) =>
    let s := if ok ∨ late then
        s.modSheaf sid (fun sh => (sh.write w.d t x w.taint).modThread t (fun th => { th with st := .ready }))
      else s.modSheaf sid (fun sh => sh.modThread t (fun th => { th with st := .waiting { w with seen := x } }))
    s.waitPoison sid t w poison

/-- The wait that a lane's `waitm` makes (R180).  DESIGN CHOICE (log 77): its time-out is counted from the
instruction's issue. -/
def Sheaf.waitOf (sh : Sheaf) (f : Fields) (pc : BitVec 64) (now t : Nat) : Wait where
  cond := BitVec.ofNat 3 (f.mod 0 3)
  global := f.mod 3 1 == 1
  addr := if f.mod 3 1 = 1 then sh.readPair f.imm t f.a false else (sh.read f.imm t f.a).zeroExtend 64
  mask := if f.mod 4 1 = 1 then sh.read f.imm t f.c else 0xFFFFFFFF
  cmp := sh.read f.imm t f.b
  obs := f.mod 5 1 == 1
  d := f.d
  deadline := if f.mod 6 1 = 1 then some (now + (sh.read f.imm t f.e).toNat) else none
  seen := 0
  pc := pc
  priv := (sh.thread t).priv
  taint := sh.taintRun t f.a (if f.mod 3 1 = 1 ∧ !single f.a then 2 else 1) || sh.taintOf t f.b ||
    (f.mod 4 1 == 1 && sh.taintOf t f.c) || (f.mod 6 1 == 1 && sh.taintOf t f.e)
  ataint := sh.taintRun t f.a (if f.mod 3 1 = 1 ∧ !single f.a then 2 else 1)

/-- The evaluation of a `waitm` at issue, lane by lane: D's value, and the wait where the condition
fails (R181). -/
def State.issueWaits (s : State) (sid : Nat) (l : List (Nat × Wait)) :
    List (Nat × Wait × Bool × Word × Nat) × State :=
  l.foldl (fun acc p =>
    let (r, s) := acc.2.evalWait sid p.1 p.2
    let x := r.getD (false, 0, 0)
    (acc.1 ++ [(p.1, { p.2 with seen := x.2.1 }, x.1, x.2.1, x.2.2)], s)) ([], s)

/-- The lanes of a `waitm` evaluate, write D and note the waits that start at the clause's end.  DESIGN CHOICE (log 65):
of two `waitm` words of one clause that both fail in a thread the later one is what the thread waits on. -/
def State.doWaitm (s : State) (is : Issue) (f : Fields) (l : List (Nat × Wait)) : State :=
  let (rs, s) := s.issueWaits is.sid l
  let s := s.writeLanes is.sid f.d 1 (rs.map (fun p => ⟨p.1, [(p.2.2.2.1, p.2.1.taint)], 0⟩))
  let s := s.modRun is.sid (fun r => { r with
    waits := each (rs.filter (fun p => !p.2.2.1)) (fun p tab => Tab.put tab p.1 p.2.1) r.waits })
  each rs (fun p s => s.waitPoison is.sid p.1 p.2.1 p.2.2.2.2) s

/-- `waitm` (R180, R181). -/
def execWaitm (f : Fields) : State → Host.Outcome State Fault Refusal :=
  issued (.waitm f) fun is s =>
    let sh := s.sheaf is.sid
    let r := s.run is.sid
    let l := is.act.map (fun t => (t, sh.waitOf f (wordAddr r.pc (some r.k)) s.time.core t))
    if f.mod 3 1 = 1 then
      let (ps, s') := s.placeAll (coreOf is.sid) sh 4 .load false (l.map (fun p => (p.1, p.2.addr.toNat)))
      match globalFault is ps s with
      | some x => x
      | none =>
        if ps.any (fun p => p.2.2 == .away) then .wait s else
        let s' := s'.parkReplays is .load (absents ps)
        let ok := presents ps
        let held (p : Nat × Nat × Leaf) : Bool :=
          (!s'.open_ (some (coreOf is.sid)) p.2.2 && !(p.2.2.ca == 3 && s'.linkDown p.2.2.peer)) ||
          l.any (fun q => q.1 == p.1 && s'.readHeld is.sid p.1 q.2.ataint p.2.2 4)
        if ok.any held then .wait s
        else .done (s'.doWaitm is f (l.filter (fun p => ok.any (fun q => q.1 == p.1))))
    else
      let addrs : List (Nat × Word) := l.map (fun p => (p.1, p.2.addr.setWidth 32))
      match s.scratchCheck is addrs (if f.mod 0 3 = 4 then 16 else 4) with
      | some x => x
      | none =>
        if is.barred s (fun t => sh.taintOf t f.a) then .wait s
        else is.inBoth (addrs.any (fun p => !p.2.getLsbD 24)) (addrs.any (fun p => p.2.getLsbD 24)) s fun s =>
          .done (s.doWaitm is f l)

/-- WAITM_REEVALUATION (R181). -/
def execWaitmReevaluation (sid t : Nat) (s : State) : Host.Outcome State Fault Refusal :=
  .next (match ((s.sheaf sid).thread t).st with
    | .waiting w => s.reevaluate sid t w false
    | _ => s)

/-- WAITM_TIMEOUT (R181). -/
def execWaitmTimeout (sid t : Nat) (s : State) : Host.Outcome State Fault Refusal :=
  .next (match ((s.sheaf sid).thread t).st with
    | .waiting w =>
      (match w.deadline with
        | some n => if n ≤ s.time.core then s.reevaluate sid t w true else s
        | none => s)
    | _ => s)

end Sys2Proof.Machine
end

