-- ==== Sys2Proof/Machine/Engines.lean ====
section
/-! DEFINITION. The copy engine, the request engine with its collectives, the private-format table and the
prologue engine (R85 to R87, R182 to R200). -/

namespace Sys2Proof.Machine

/-! ### What the engines share -/

/-- Scratchpad bytes that an address names for workgroup `w`. -/
def State.spRead (s : State) (w : Nat) (a : Word) (off n : Nat) : List Byte :=
  (s.wg ((s.scratchWg w a).getD w)).scratch.readN (scratchOff a + off) n

/-- Scratchpad bytes stored where an address names them. -/
def State.spWrite (s : State) (w : Nat) (a : Word) (off : Nat) (bs : List Byte) : State :=
  s.modScratch ((s.scratchWg w a).getD w) (fun m => m.writeN (scratchOff a + off) bs)

/-- Engine writes leave no line of theirs in the L1 of the pod's two cores (R286). -/
def State.dropPodLines (s : State) (core ctx va n : Nat) (priv : Bool) : State :=
  each (pagePieces va n) (fun p s =>
    match (s.xlate ctx p.1 .load priv (some core) false).1 with
    | .ok l => (s.modCore (core / 2 * 2) (fun k => k.dropLines l.pa p.2.2)).modCore (core / 2 * 2 + 1)
        (fun k => k.dropLines l.pa p.2.2)
    | _ => s) s

/-- The cell at a scratchpad address counts `b` bytes down (R176). -/
def State.countAt (s : State) (w : Nat) (a : Word) (b : Nat) : State :=
  s.countCell ((s.scratchWg w a).getD w) (scratchOff a) b

/-- Tile `n` counts `b` bytes: as landed, or as read (R170). -/
def State.countTile (s : State) (w n b : Nat) (landed poison : Bool) : State :=
  s.modTileN w n (fun t => if landed then t.land b poison else t.drained b)

/-- A page that an engine finds not present in a replayable context is recorded once (R188, R269); the
code is 4 for an engine read, 5 for an engine write. -/
def State.engineReplay (s : State) (ctx va : Nat) (write : Bool) (core : Nat) : State :=
  s.replayFault ctx va (if write then 5 else 4) 1 core 63 0

/-- An engine fault (R188, R424, R433). -/
def State.engineFault (s : State) (ctx sub pc addr core engine die : Nat) : State :=
  s.contextFault ctx { code := 0x18, sub := sub, pc := pc, addr := addr, core := core, engine := engine, die := die } none

/-- A page whose replay an engine's access waits for (R188). -/
def State.awaitsReplay (s : State) (ctx : Nat) (stuck : Option Nat) : Bool :=
  match stuck with
  | some p => decide (p ∈ (s.ctx ctx).replays)
  | none => false

/-- Bytes that an engine reads in a context: the state, with the bytes and whether poison was met; or the
address and code that stop it (code 0: not present, replayable; 20: its way to the home is not open now). -/
abbrev EngineTry := Except (Nat × Nat × Bool)

/-- What an engine is, for its faults: core, number of R432, and the word that launched it. -/
structure Engine where
  core : Nat
  num : Nat
  pc : Nat

/-- An engine's global read; where a peer's link is down it returns poison, with the context fault 0x14 (R288). -/
def State.engineLoad (s : State) (e : Engine) (ctx va n : Nat) (priv : Bool) : EngineTry (List Byte × Bool × State) :=
  match s.devLoad ctx va n priv (some e.core) with
  | (.ok (bs, po), s) => .ok (bs, po, s)
  | (.error (21, a), s) =>
    .ok (s.openBytes va n, true, s.contextFault ctx { code := 0x14, pc := e.pc, addr := a, core := if e.num = 7 then 255 else e.core, engine := e.num, die := baseOfCore e.core } none)
  | (.error (k, a), _) => .error (k, a, false)

/-- An engine's global write, with the lines of the pod's cores dropped (R286). -/
def State.engineStore (s : State) (e : Engine) (ctx va : Nat) (bs : List Byte) (priv : Bool) : EngineTry State :=
  match s.devStore ctx va bs priv (some e.core) with
  | (.ok _, s) => .ok (s.dropPodLines e.core ctx va bs.length priv)
  | (.error (k, a), _) => .error (k, a, true)

/-- Why an engine's access is to be reported as its fault: not for a page that waits for its replay, nor for a way that is
not open now (R188, R288). -/
def engineBad (k : Nat) : Bool := k != 0 && k != 20

/-! ### Per-thread copies (R184 to R188) -/

/-- The operands of one lane of a `cpa`. -/
def Sheaf.copyLane (sh : Sheaf) (f : Fields) (t : Nat) : CopyLane where
  thread := t
  va := sh.readPair f.imm t f.a false
  sp := sh.read f.imm t f.b
  valid := min (sh.read f.imm t f.c).toNat 32
  cell := if f.mod 3 1 = 1 then some (sh.read f.imm t f.e) else none
  done := false
  stuck := none
  bar := 0

/-- The scratchpad fault of one lane of a `cpa`: its 32 bytes and its cell (R185). -/
def State.copyFault (s : State) (w : Nat) (l : CopyLane) : Option (Nat × Word) :=
  let a := s.scratchFaultAl w l.sp 32 16
  let b := l.cell.bind (fun c => s.scratchFault w c 16)
  match a, b with
  | some x, some y => if y < x then some (y, l.cell.getD 0) else some (x, l.sp)
  | some x, none => some (x, l.sp)
  | none, some y => some (y, l.cell.getD 0)
  | none, none => none

/-- Whether a `cpa` counts a tile, and which. -/
def copyTile (f : Fields) : Option Nat := if f.mod 4 1 = 1 then some (f.mod 5 5) else none

/-- A lane's copy waits for the `ld.con` operations of its thread, where an address of it carries consume taint (R183). -/
def Sheaf.copyBar (sh : Sheaf) (f : Fields) (next t : Nat) : Nat :=
  if sh.taintRun t f.a (if single f.a then 1 else 2) || sh.taintOf t f.b || (f.mod 3 1 == 1 && sh.taintOf t f.e) then next else 0

/-- The copies that a core's engine moves: the oldest ones whose lanes still to land take 4 KiB at most (R188).  DESIGN CHOICE
(log 99): lanes that wait for a replay, and copies that a halt holds, take none of the 4 KiB. -/
def State.movingCopies (s : State) (c : Nat) : List Nat :=
  ((s.core c).copies.foldl (fun (acc : List Nat × Nat) k =>
    let n := if s.onHold k.2.ctx k.2.held then 0
      else 32 * (k.2.lanes.filter (fun l => !l.done && !s.awaitsReplay k.2.ctx l.stuck)).length
    if acc.2 + n ≤ 4096 then (acc.1 ++ [k.1], acc.2 + n) else (acc.1, 4097)) ([], 0)).1

/-- The copies of a core that wait in its engine's queue of 16.  DESIGN CHOICE (log 99): a copy that moves has left
the queue. -/
def State.queuedCopies (s : State) (c : Nat) : Nat := (s.core c).copies.length - (s.movingCopies c).length

/-- `cpa` (R184, R185). -/
def execCpa (f : Fields) : State → Host.Outcome State Fault Refusal :=
  issued (.cpa f) fun is s =>
    let sh := s.sheaf is.sid
    let w := s.wgOf is.sid
    let c := coreOf is.sid
    let tag := f.mod 0 2
    if (copyTile f).any (fun k => (s.wg w).tiles.length ≤ k) then is.illegal s
    else
      let lanes := is.act.map (fun t => { sh.copyLane f t with bar := sh.copyBar f s.next t })
      let bad := lanes.filter (fun l => (s.copyFault w l).isSome)
      match bad with
      | l :: _ =>
        let e := (s.copyFault w l).getD (0, 0)
        is.fault 3 e.1 (bad.map (·.thread)) e.2.toNat s
      | [] =>
        if sh.tags.getD tag 0 = 63 ∨ 16 ≤ s.queuedCopies c then .wait s
        else if is.act = [] then .done s
        else
          let r := s.run is.sid
          let (n, s) := s.fresh
          let copy : Copy := ⟨is.sid, sh.gen, w, sh.ctx, wordAddr r.pc (some r.k), tag, false, f.mod 2 1 == 1,
            copyTile f, lanes, is.act.any (fun t => (sh.thread t).priv), false⟩
          let s := s.modSheaf is.sid (fun sh => { sh with tags := modAt sh.tags tag (· + 1) })
          let s := s.modCore c (fun k => { k with copies := k.copies.put n copy })
          .done (match copyTile f with
            | some t => s.useTile w t (· + 1)
            | none => s)

/-- The tag of a copy counts down, unless it has been withdrawn (R185, R432). -/
def State.lowerTag (s : State) (k : Copy) : State :=
  match s.sheaves.get k.sid with
  | some sh =>
    if sh.gen = k.gen ∧ !k.withdrawn then
      s.modSheaf k.sid (fun sh => { sh with tags := modAt sh.tags k.tag (· - 1) })
    else s
  | none => s

/-- A copy whose lanes are all done leaves the engine. -/
def State.endCopy (s : State) (core n : Nat) (k : Copy) : State :=
  let s := s.modCore core (fun c => { c with copies := c.copies.del n })
  let s := s.lowerTag k
  match k.tile with
  | some t => s.useTile k.wg t (· - 1)
  | none => s

/-- A copy has delivered poison: `sr.cpst` (R186). -/
def State.copyPoison (s : State) (k : Copy) (poison : Bool) : State :=
  match s.sheaves.get k.sid with
  | some sh => if poison ∧ sh.gen = k.gen then s.modSheaf k.sid (fun sh => { sh with cpoison := true }) else s
  | none => s

/-- The engine that runs a copy. -/
def Copy.engine (k : Copy) (core : Nat) : Engine := ⟨core, 1, k.pc.toNat⟩

/-- The bytes of one lane: read and landed, or read and written (R185). -/
def State.copyBytes (s : State) (core : Nat) (k : Copy) (l : CopyLane) : EngineTry (Bool × State) :=
  let va := l.va.toNat
  if k.s2g then
    if l.valid = 0 then .ok (false, s)
    else match s.engineStore (k.engine core) k.ctx va (s.spRead k.wg l.sp 0 l.valid) k.priv with
      | .ok s => .ok (false, s)
      | .error e => .error e
  else if l.valid = 0 then .ok (false, s.spWrite k.wg l.sp 0 (List.replicate 32 0))
  else match s.engineLoad (k.engine core) k.ctx va l.valid k.priv with
    | .ok (bs, po, s) => .ok (po, s.spWrite k.wg l.sp 0 (bs ++ List.replicate (32 - l.valid) 0))
    | .error e => .error e

/-- No lane of a held copy of the context is listed before lane `l` of copy `op` (R434). -/
def Core.firstHeld (c : Core) (op : Nat) (k : Copy) (l : CopyLane) : Bool :=
  c.copies.all (fun p => !(p.2.held && p.2.ctx == k.ctx) || decide (op < p.1) ||
    p.2.lanes.all (fun x => x.done || (p.1 == op && decide (l.thread ≤ x.thread))))

/-- A lane of a copy may move now: the copy is among those that move, no halt holds it, a held one has its turn, its page
does not wait for a replay, and no `ld.con` has to come first (R183, R188, R434). -/
def State.mayCopy (s : State) (core op : Nat) (k : Copy) (l : CopyLane) : Bool :=
  !s.onHold k.ctx k.held && decide (op ∈ s.movingCopies core) && (!k.held || (s.core core).firstHeld op k l) &&
    !s.awaitsReplay k.ctx l.stuck && !s.consuming k.sid k.gen l.thread l.bar

/-- A lane of a copy is held for the replay of a page (R188). -/
def State.stickLane (s : State) (core op t page : Nat) : State :=
  s.modCore core (fun c => { c with copies := c.copies.mod op (fun k => { k with
    lanes := k.lanes.map (fun l => if l.thread = t then { l with stuck := some page } else l) }) })

/-- CPA_LANE_COMPLETE (R185): a lane's bytes, then its counts; the tag falls with the last lane. -/
def execCpaLaneComplete (core op t : Nat) (s : State) : Host.Outcome State Fault Refusal :=
  .next (match (s.core core).copies.get op with
    | none => s
    | some k =>
      if s.onHold k.ctx k.held then s
      else if k.lanes.all (·.done) then s.endCopy core op k
      else
        match k.lanes.find? (fun l => l.thread = t && !l.done) with
        | none => s
        | some l =>
          if !s.mayCopy core op k l then s
          else match s.copyBytes core k l with
          | .error (0, va, w) => (s.engineReplay k.ctx va w core).stickLane core op t (va / 65536)
          | .error _ => s
          | .ok (po, s) =>
            let s := s.copyPoison k po
            let s := match l.cell with
              | some c => s.countAt k.wg c 32
              | none => s
            let s := match k.tile with
              | some n => s.countTile k.wg n 32 (!k.s2g) po
              | none => s
            let k := { k with lanes := k.lanes.map (fun x => if x.thread = t then { x with done := true } else x) }
            let s := s.modCore core (fun c => { c with copies := c.copies.put op k })
            if k.lanes.all (·.done) then s.endCopy core op k else s)

/-- `cpw` (R187): the limit comes from the lowest active thread. -/
def execCpw (f : Fields) : State → Host.Outcome State Fault Refusal :=
  issued (.cpw f) fun is s =>
    let sh := s.sheaf is.sid
    if is.act = [] then .done s
    else
      let k := (sh.read f.imm is.lead f.a).toNat
      if (List.range 4).all (fun n => f.mod n 1 == 0 || decide (sh.tags.getD n 0 ≤ k)) then .done s
      else .wait s

/-! ### Request records (R189 to R191) -/

/-- A request record's header and dimensions: extent, source stride, destination stride, must-be-zero. -/
structure TRec where
  dst : Nat
  src : Nat
  jc : Nat
  op : Nat
  ndim : Nat
  sspace : Nat
  dspace : Nat
  esize : Nat
  convas : Nat
  jcv : Bool
  tlv : Bool
  tile : Nat
  mbz : Nat
  dims : List (Nat × Int × Int × Nat)
  deriving DecidableEq, Repr, Inhabited

/-- A record from its bytes (R189). -/
def recOf (bs : List Byte) : TRec :=
  let h := leNat (bs.take 32)
  { dst := bits h 192 64, src := bits h 128 64, jc := bits h 96 32, op := bits h 92 4, ndim := bits h 88 4,
    sspace := bits h 86 2, dspace := bits h 84 2, esize := bits h 81 3, convas := bits h 79 2,
    jcv := bit h 78, tlv := bit h 77, tile := bits h 72 5, mbz := bits h 32 36,
    dims := (List.range (bits h 88 4 + 1)).map (fun d =>
      let e := leNat ((bs.drop (32 + 16 * d)).take 16)
      (bits e 96 32, sext 48 (bits e 48 48), sext 32 (bits e 16 32), bits e 0 16)) }

/-- Bytes of a record with `n + 1` dimensions. -/
def recBytes (n : Nat) : Nat := 32 + 16 * (n + 1)

/-- Bytes of a source element. -/
def TRec.ssz (r : TRec) : Nat := 2 ^ r.esize

/-- Bytes of a destination element (R191). -/
def TRec.dsz (r : TRec) : Nat :=
  match r.op with
  | 1 | 2 | 3 => 2
  | 4 => 4
  | _ => 2 ^ r.esize

/-- Elements of a record. -/
def TRec.count (r : TRec) : Nat := r.dims.foldl (fun n d => n * d.1) 1

/-- Delivered bytes (R190). -/
def TRec.delivered (r : TRec) : Nat := r.count * r.dsz

/-- Least and greatest element offset for the strides that `g` picks. -/
def TRec.reach (r : TRec) (g : Int × Int → Int) : Int × Int :=
  r.dims.foldl (fun (acc : Int × Int) d =>
    let x := ((d.1 : Int) - 1) * g (d.2.1, d.2.2.1)
    (acc.1 + min 0 x, acc.2 + max 0 x)) (0, 0)

/-- Illegal uses that a record shows: cause 12 (R191, R192).  `fmt` is the format of a tile. -/
def TRec.illegal (r : TRec) (tiles : Nat) (fmt : Nat → Nat) : Bool :=
  decide (4 < r.op) || decide (11 < r.ndim) || decide (1 < r.sspace) || decide (1 < r.dspace) ||
  decide (4 < r.esize) || r.mbz != 0 || r.dims.any (fun d => d.1 == 0 || d.2.2.2 != 0) ||
  (r.op == 1 && r.esize != 0) || ((r.op == 2 || r.op == 3) && r.esize != 2) || (r.op == 4 && r.esize != 1) ||
  (r.op != 1 && r.convas != 0) ||
  (r.jcv && r.jc % 16 != 0) || (r.tlv && decide (tiles ≤ r.tile)) ||
  (r.tlv && r.sspace == 0 && r.dspace == 0) || decide (2 ^ 32 ≤ r.delivered) ||
  (r.sspace == 1 && r.src / 2 ^ 32 != 0) || (r.dspace == 1 && r.dst / 2 ^ 32 != 0) ||
  (r.op == 1 && r.tlv && r.convas != 3 && fmt r.tile != (if r.convas = 0 then 1 else if r.convas = 1 then 2 else 10)) ||
  (r.sspace == 0 && r.src % r.ssz != 0) || (r.dspace == 0 && r.dst % r.dsz != 0) ||
  r.dims.any (fun d => d.2.1 % r.ssz != 0 || d.2.2.1 % r.dsz != 0)

/-- Must-be-zero bits of a scratchpad address are set (R160). -/
def scratchMbz (a : Word) : Bool := bits a.toNat 25 7 != 0 || bits a.toNat 19 5 != 0

/-- The sub-code that a scratchpad side of elements of `z` bytes at a multiple of `al` meets: its touched bytes, its
alignment, and REMOTE in a team of one, the lowest that holds (R161, R192, R424). -/
def State.sideFault (s : State) (w : Nat) (a z al : Nat) (lo hi : Int) : Option Nat :=
  let x : Word := BitVec.ofNat 32 a
  let off : Int := scratchOff x
  let beyond : Bool := match s.scratchWg w x with
    | some v => decide (off + lo < 0 ∨ ((s.wg v).size : Int) < off + hi + z)
    | none => false
  if scratchMbz x || beyond then some 1
  else if a % al ≠ 0 then some 2
  else if x.getLsbD 24 ∧ (s.wg w).partner.isNone then some 3
  else none

/-- Of the scratchpad faults of a record's addresses, that with the lowest sub-code (R424). -/
def lowestFault (l : List (Option (Nat × Nat))) : Option (Nat × Nat) :=
  l.foldl (fun b x => match b, x with
    | some b, some x => some (if x.1 < b.1 then x else b)
    | none, x => x
    | b, none => b) none

/-- The scratchpad access fault of a record: sub-code and address (R192). -/
def State.recFault (s : State) (w : Nat) (r : TRec) : Option (Nat × Nat) :=
  let side (space a z : Nat) (g : Int × Int → Int) : Option (Nat × Nat) :=
    if space = 1 then (s.sideFault w a z z (r.reach g).1 (r.reach g).2).map (fun k => (k, a)) else none
  lowestFault [side r.sspace r.src r.ssz (·.1), side r.dspace r.dst r.dsz (·.2),
    if r.jcv then (s.scratchFault w (BitVec.ofNat 32 r.jc) 16).map (fun k => (k, r.jc)) else none]

/-- The index vectors of a record, dimension 0 innermost: source and destination offsets. -/
def TRec.elems : List (Nat × Int × Int × Nat) → List (Int × Int)
  | [] => [(0, 0)]
  | d :: ds => (TRec.elems ds).flatMap (fun p =>
      (List.range d.1).map (fun (i : Nat) => (p.1 + i * d.2.1, p.2 + i * d.2.2.1)))

/-- One element converted: its destination bytes and whether a narrowing overflowed (R191). -/
def convElem (op : Nat) (bank : Tab (BitVec 16)) (bs : List Byte) : List Byte × Bool :=
  let x := leNat bs
  match op with
  | 1 => (natBytes 2 ((bank.get x).getD (BitVec.ofNat 16 x)).toNat, false)
  | 2 | 3 =>
    let r := toFloat false (op - 1) .rne (.flt (f32.decode x))
    (natBytes 2 r.1, (r.2 &&& astOF) != 0)
  | 4 => (natBytes 4 (toFloat false 0 .rne (.flt (f16.decode x))).1, false)
  | _ => (bs, false)

/-- An engine's moving state: the machine, elements landed, poison delivered, overflow met. -/
structure Moving where
  s : State
  pos : Nat
  poison : Bool
  ovf : Bool

/-- One more element has landed. -/
def Moving.step (m : Moving) (s : State) (poison ovf : Bool) : Moving := ⟨s, m.pos + 1, m.poison || poison, m.ovf || ovf⟩

/-- One element of a record moves (R190, R191). -/
def moveElem (w : Nat) (e : Engine) (ctx : Nat) (priv : Bool) (bank : Tab (BitVec 16)) (r : TRec) (m : Moving) (p : Int × Int) :
    EngineTry Moving :=
  let src (s : State) : EngineTry (List Byte × Bool × State) :=
    if r.sspace = 1 then
      let a : Word := BitVec.ofNat 32 r.src
      let bs := (s.wg ((s.scratchWg w a).getD w)).scratch.readN ((scratchOff a : Int) + p.1).toNat r.ssz
      .ok (bs, false, s)
    else s.engineLoad e ctx (((r.src : Int) + p.1) % 2 ^ 64).toNat r.ssz priv
  match src m.s with
  | .error e => .error e
  | .ok (bs, po, s) =>
    let c := convElem r.op bank bs
    if r.dspace = 1 then
      let a : Word := BitVec.ofNat 32 r.dst
      let s := s.modScratch ((s.scratchWg w a).getD w) (fun mem =>
        mem.writeN ((scratchOff a : Int) + p.2).toNat c.1)
      .ok (m.step s po c.2)
    else
      match s.engineStore e ctx (((r.dst : Int) + p.2) % 2 ^ 64).toNat c.1 priv with
      | .ok s => .ok (m.step s po c.2)
      | .error e => .error e

/-- Elements move one after another until one cannot: how far they come, and what stops them.  DESIGN CHOICE (log
100): in ascending order of their index vectors, so that of two that share destination bytes the later lands last
(R190). -/
def moveAll {α : Type} (f : Moving → α → EngineTry Moving) : List α → Moving → Moving × Option (Nat × Nat × Bool)
  | [], m => (m, none)
  | x :: l, m =>
    match f m x with
    | .error e => (m, some e)
    | .ok m => moveAll f l m

/-! ### Launching a record (R192, R194) -/

/-- The scratchpad access fault of a record of `n` bytes at A: alignment first, otherwise not wholly inside
the local allocation (R192). -/
def State.recordAt (s : State) (w : Nat) (a : Word) (al n : Nat) : Option Nat :=
  if a.toNat % al ≠ 0 then some 2
  else if a.toNat / 2 ^ 19 ≠ 0 ∨ (s.wg w).size < scratchOff a + n then some 1
  else none

/-- The scratchpad access fault of `n` bytes at A that have to lie in the local allocation, at a multiple of `al`: the lowest
sub-code that holds (R161, R197, R399, R424). -/
def State.localAt (s : State) (w : Nat) (a : Word) (al n : Nat) : Option Nat :=
  let remote := a.getLsbD 24
  let team := (s.wg w).partner.isSome
  if scratchMbz a ∨ (if remote then team else decide ((s.wg w).size < scratchOff a + n)) then some 1
  else if a.toNat % al ≠ 0 then some 2
  else if remote then some 3
  else none

/-- A record is accepted: its bytes are read at this place of the scratchpad order, STATUS becomes 0 and the
kick register holds its address (R192). -/
def State.acceptReq (s : State) (is : Issue) (a : Word) (n : Nat) (kind : ReqKind) (tile : Option Nat) : State :=
  let sh := s.sheaf is.sid
  let w := sh.wg
  let c := coreOf is.sid
  let r := s.run is.sid
  let (k, s) := s.fresh
  let req : Req := ⟨is.sid, sh.gen, w, sh.ctx, wordAddr r.pc (some r.k), kind, a,
    (s.wg w).scratch.readN (scratchOff a) n, ((s.core c).fmt.get sh.ctx).getD [],
    (sh.thread is.lead).priv, false, 0, false, false, none, none⟩
  let s := s.modScratch w (fun m => m.writeN (scratchOff a) (List.replicate 4 0))
  let s := s.modCore c (fun q => { q with reqs := q.reqs.put k req, kick := a })
  match tile with
  | some t => s.useTile w t (· + 1)
  | none => s

/-- Launching a record: once where a guard holds, at the lowest active thread's address; it waits while the
engine's queue of eight is full, then reads the record (R192).  DESIGN CHOICE (log 99): every record that has not
completed has a place in the queue, one that runs or is held too. -/
def launchRecord (f : Fields) (len : List Byte → Nat) (check : List Byte → State → Nat → Option (Option (Nat × Nat)))
    (kind : ReqKind) (tile : List Byte → Option Nat) (is : Issue) (s : State) : Result :=
  if is.act = [] then .done s
  else
    let a := (s.sheaf is.sid).read f.imm is.lead f.a
    let w := s.wgOf is.sid
    let c := coreOf is.sid
    if 8 ≤ (s.core c).reqs.length then .wait s
    else match s.recordAt w a 32 32 with
    | some k => is.fault 3 k [is.lead] a.toNat s
    | none =>
      if is.barred s (fun t => (s.sheaf is.sid).taintOf t f.a) then .wait s
      else is.inScratch false s fun s =>
      let n := len ((s.wg w).scratch.readN (scratchOff a) 32)
      match s.recordAt w a 32 n with
      | some k => is.fault 3 k [is.lead] a.toNat s
      | none =>
        let bs := (s.wg w).scratch.readN (scratchOff a) n
        match check bs s w with
        | some none => is.illegal s
        | some (some e) => is.fault 3 e.1 [is.lead] e.2 s
        | none => .done (s.acceptReq is a n kind (tile bs))

/-- The checks of a request record: cause 12 (none inside), or a scratchpad access fault (R192). -/
def checkRec (bs : List Byte) (s : State) (w : Nat) : Option (Option (Nat × Nat)) :=
  let r := recOf bs
  if r.illegal (s.wg w).tiles.length (fun k => (s.tile w k).fmt.toNat) then some none
  else (s.recFault w r).map some

/-- `req.kick` (R192). -/
def execReqKick (f : Fields) : State → Host.Outcome State Fault Refusal :=
  issued (.reqKick f) (launchRecord f (fun h => recBytes (min (bits (leNat h) 88 4) 11)) checkRec .tensor
    (fun bs => if (recOf bs).tlv then some (recOf bs).tile else none))

/-- A collective record (R194). -/
structure CRec where
  buf : Nat
  cnt : Nat
  vec : Nat
  res : Nat
  n : Nat
  expect : Nat
  jc : Nat
  jcv : Bool
  tlv : Bool
  tile : Nat
  mbz : Nat
  deriving DecidableEq, Repr, Inhabited

/-- A collective record from its bytes (R194). -/
def crecOf (bs : List Byte) : CRec :=
  let x := leNat bs
  { buf := bits x 448 64, cnt := bits x 384 64, vec := bits x 352 32, res := bits x 320 32, n := bits x 288 32,
    expect := bits x 276 12, jc := bits x 224 32, jcv := bit x 223, tlv := bit x 222, tile := bits x 217 5,
    mbz := bits x 256 20 + bits x 32 181 }

/-- Bytes that one element takes in VEC (R195, R196). -/
def vecBytes : ReqKind → Nat
  | .bcast 1 | .bcast 2 => 2
  | _ => 4

/-- The checks of a collective record (R192, R194). -/
def checkColl (kind : ReqKind) (bs : List Byte) (s : State) (w : Nat) : Option (Option (Nat × Nat)) :=
  let r := crecOf bs
  let red := match kind with
    | .red _ => true
    | _ => false
  let bad : Bool := r.buf == 0 || r.buf % 16 != 0 || r.cnt % 4 != 0 ||
    (!red && r.res != 0) || r.n == 0 || decide (65536 < r.n) || (red && r.expect != 0) ||
    (!red && r.expect == 0) || r.mbz != 0 || (r.jcv && r.jc % 16 != 0) ||
    (r.tlv && decide ((s.wg w).tiles.length ≤ r.tile))
  if bad then some none
  else
    let side (a n : Nat) : Option (Nat × Nat) := (s.sideFault w a 1 16 0 ((n : Int) - 1)).map (fun k => (k, a))
    (lowestFault [side r.vec (r.n * vecBytes kind), if red then side r.res (16 + 4 * r.n) else none,
      if r.jcv then (s.scratchFault w (BitVec.ofNat 32 r.jc) 16).map (fun k => (k, r.jc)) else none]).map some

/-- `coll.red` (R195). -/
def execCollRed (f : Fields) : State → Host.Outcome State Fault Refusal :=
  issued (.collRed f) (launchRecord f (fun _ => 64) (checkColl (.red (f.mod 0 4))) (.red (f.mod 0 4))
    (fun bs => if (crecOf bs).tlv then some (crecOf bs).tile else none))

/-- `coll.bcast` (R196). -/
def execCollBcast (f : Fields) : State → Host.Outcome State Fault Refusal :=
  issued (.collBcast f) (launchRecord f (fun _ => 64) (checkColl (.bcast (f.mod 0 4))) (.bcast (f.mod 0 4))
    (fun bs => if (crecOf bs).tlv then some (crecOf bs).tile else none))

/-! ### Records complete (R193, R195, R196) -/

/-- A record runs: it is among the first four that no halt holds; one that a halt has held has its turn in the order of
acceptance (R193, R434). -/
def State.running (s : State) (core op : Nat) : Bool :=
  let l := (s.core core).reqs
  decide (op ∈ ((l.filter (fun r => !s.onHold r.2.ctx r.2.held)).take 4).map (·.1)) &&
    (match l.get op with
      | none => false
      | some r => !s.onHold r.ctx r.held && !s.awaitsReplay r.ctx r.stuck &&
          (!r.held || l.all (fun p => !(p.2.held && p.2.ctx == r.ctx) || decide (op ≤ p.1))))

/-- The counts and the STATUS of a record whose bytes have landed (R193). -/
def State.endReq (s : State) (core op : Nat) (r : Req) (jc : Option Nat) (tile : Option Nat) (b : Nat)
    (landed : Option Bool) (poison ovf : Bool) : State :=
  let s := match jc with
    | some a => s.countAt r.wg (BitVec.ofNat 32 a) b
    | none => s
  let s := match tile, landed with
    | some t, some l => s.countTile r.wg t b l poison
    | _, _ => s
  let s := match tile with
    | some t => s.useTile r.wg t (· - 1)
    | none => s
  let status := cat [(1, 1), (b2n poison, 1), (b2n ovf, 1), (0, 29)]
  let s := s.modScratch r.wg (fun m => m.putNum (scratchOff r.addr) 4 status)
  s.modCore core (fun c => { c with reqs := c.reqs.del op })

/-- A contribution adds the residuals of its area: set once, when it begins (R195). -/
def State.carryOf (s : State) (r : Req) : Bool :=
  let q := crecOf r.bytes
  r.carry.getD (leNat (s.spRead r.wg (BitVec.ofNat 32 q.res) 0 8) == q.buf)

/-- A record keeps how far it has come. -/
def State.keepReq (s : State) (core op : Nat) (m : Moving) (carry : Option Bool := none) : State :=
  s.modCore core (fun c => { c with reqs := c.reqs.mod op (fun r => { r with
    carry := carry
    pos := m.pos
    poison := m.poison
    ovf := m.ovf }) })

/-- The engine that runs a record. -/
def Req.engine (r : Req) (core : Nat) : Engine := ⟨core, 2, r.pc.toNat⟩

/-- What a try of a record comes to: the state, and what stops it where it has not ended. -/
abbrev Tried := State × Option (Nat × Nat × Bool)

/-- A record's work from where it stands, to its end or to the element that cannot move. -/
def State.runReq (s : State) (core op : Nat) (r : Req) : Tried :=
  let q := recOf r.bytes
  match moveAll (moveElem r.wg (r.engine core) r.ctx r.priv r.bank q) ((TRec.elems q.dims).drop r.pos)
      ⟨s, r.pos, r.poison, r.ovf⟩ with
  | (m, some e) => (m.s.keepReq core op m, some e)
  | (m, none) => (m.s.endReq core op r (if q.jcv then some q.jc else none) (if q.tlv then some q.tile else none)
      q.delivered (if q.dspace = 1 then some true else if q.sspace = 1 then some false else none) m.poison m.ovf, none)

/-- The exact sum of two values; a value that is not finite where the sum is not (R195). -/
def addExact (x y : FVal) : FVal :=
  match x, y with
  | .fin n1 m1 e1, .fin n2 m2 e2 => let r := addFin .rne n1 m1 e1 n2 m2 e2; .fin r.1 r.2.1 r.2.2
  | _, _ => f32.decode (addVal f32 false .rne x y).1

/-- The residual of a narrowing: 0 where a side is not finite (R195). -/
def residualOf (y n : FVal) : Word :=
  match y, n with
  | .fin .., .fin .. =>
    (match subFin y n with
      | .fin s m e => if m = 0 then 0 else BitVec.ofNat 32 (f32.encode (roundFin f32 .rne s m e false).val)
      | _ => 0)
  | _, _ => 0

/-- Whether a value is finite. -/
def FVal.finite : FVal → Bool
  | .fin .. => true
  | _ => false

/-- One element of `coll.red` (R195).  DESIGN CHOICE (log 101): OVF is set for a finite y only, also where the format
without infinities clamps an infinite y. -/
def redElem (core fmt : Nat) (r : Req) (q : CRec) (carry : Bool) (m : Moving) (i : Nat) : EngineTry Moving :=
  let num (a : Nat) (off : Nat) : Nat := leNat (m.s.spRead r.wg (BitVec.ofNat 32 a) off 4)
  let x := f32.decode (num q.vec (4 * i))
  let y := addExact x (if carry then f32.decode (num q.res (16 + 4 * i)) else .fin false 0 0)
  let n := toFloat false fmt .rne (.flt y)
  let nv := (fmtOf fmt).decode n.1
  let ovf := y.finite && (n.2 &&& (astOF ||| astCVT)) != 0
  let s := m.s.spWrite r.wg (BitVec.ofNat 32 q.res) (16 + 4 * i) (natBytes 4 (residualOf y nv).toNat)
  match s.engineLoad (r.engine core) r.ctx (q.buf + 4 * i) 4 r.priv with
  | .error e => .error e
  | .ok (bs, po, s) =>
    let v := (addVal f32 false .rne (f32.decode (leNat bs)) nv).1
    match s.engineStore (r.engine core) r.ctx (q.buf + 4 * i) (natBytes 4 v) r.priv with
    | .error e => .error e
    | .ok s => .ok (m.step s po ovf)

/-- The arrival of a contribution whose elements have all been performed, with TAG (R195). -/
def State.arriveRed (s : State) (core : Nat) (r : Req) (q : CRec) : EngineTry State :=
  match s.engineLoad (r.engine core) r.ctx q.cnt 4 r.priv with
  | .error e => .error e
  | .ok (bs, _, s) =>
    match s.engineStore (r.engine core) r.ctx q.cnt (natBytes 4 (leNat bs + 1)) r.priv with
    | .error e => .error e
    | .ok s => .ok (s.spWrite r.wg (BitVec.ofNat 32 q.res) 0 (natBytes 8 q.buf ++ List.replicate 8 0))

/-- A contribution from where it stands, to its end or to what stops it (R195). -/
def State.runRed (s : State) (core op fmt : Nat) (r : Req) : Tried :=
  let q := crecOf r.bytes
  let carry := s.carryOf r
  match moveAll (redElem core fmt r q carry) ((List.range q.n).drop r.pos) ⟨s, r.pos, r.poison, r.ovf⟩ with
  | (m, some e) => (m.s.keepReq core op m (some carry), some e)
  | (m, none) =>
    match m.s.arriveRed core r q with
    | .error e => (m.s.keepReq core op m (some carry), some e)
    | .ok s => (s.endReq core op r (if q.jcv then some q.jc else none) (if q.tlv then some q.tile else none)
        (4 * q.n) (some false) m.poison m.ovf, none)

/-- One element of `coll.bcast`, converted (R78, R196). -/
def bcastElem (fmt : Nat) (bs : List Byte) : List Byte × Bool :=
  let r := toFloat false fmt .rne (.flt (f32.decode (leNat bs)))
  (natBytes (if fmt = 0 then 4 else 2) r.1, (r.2 &&& astOF) != 0)

/-- A broadcast, to its end; nothing while CNT is below EXPECT (R196). -/
def State.runBcast (s : State) (core op fmt : Nat) (r : Req) : Tried :=
  let q := crecOf r.bytes
  match s.engineLoad (r.engine core) r.ctx q.cnt 4 r.priv with
  | .error e => (s, some e)
  | .ok (bs, _, s') =>
    if leNat bs < q.expect then (s, none)
    else
      match s'.engineLoad (r.engine core) r.ctx q.buf (4 * q.n) r.priv with
      | .error e => (s, some e)
      | .ok (bs, po, s) =>
        let l := (List.range q.n).map (fun i => bcastElem fmt ((bs.drop (4 * i)).take 4))
        let s := s.spWrite r.wg (BitVec.ofNat 32 q.vec) 0 (l.flatMap (·.1))
        (s.endReq core op r (if q.jcv then some q.jc else none) (if q.tlv then some q.tile else none)
          (q.n * vecBytes (.bcast fmt)) (some true) po (l.any (·.2)), none)

/-- A record's whole work by its kind; nothing where it does not run yet. -/
def State.tryReq (s : State) (core op : Nat) (r : Req) : Tried :=
  if !s.running core op then (s, none)
  else
    match r.kind with
    | .tensor => s.runReq core op r
    | .red f => s.runRed core op f r
    | .bcast f => s.runBcast core op f r

/-- A record that has met a page that is not present is held until its replay (R188). -/
def State.stickReq (s : State) (core op page : Nat) : State :=
  s.modCore core (fun c => { c with reqs := c.reqs.mod op (fun r => { r with stuck := some page }) })

/-- A record of the core's request engine completes where it can; a page that is not present is recorded in
a replayable context (R188).  What has landed before an element that cannot move stays landed. -/
def State.stepReq (s : State) (core op : Nat) (want : ReqKind → Bool) : State :=
  match (s.core core).reqs.get op with
  | none => s
  | some r =>
    if !want r.kind then s
    else
      match s.tryReq core op r with
      | (s, some (0, va, w)) => (s.engineReplay r.ctx va w core).stickReq core op (va / 65536)
      | (s, _) => s

/-- One element of a record moves, and the record goes on later: others see its bytes, and its cell and tile count them
(R193). -/
def State.reqElement (s : State) (core op : Nat) : State :=
  match (s.core core).reqs.get op with
  | none => s
  | some r =>
    if !s.running core op then s
    else
      let one {α : Type} (f : Moving → α → EngineTry Moving) (l : List α) (carry : Option Bool) : State :=
        match l.drop r.pos with
        | x :: _ :: _ =>
          (match f ⟨s, r.pos, r.poison, r.ovf⟩ x with
            | .ok m => m.s.keepReq core op m carry
            | .error _ => s)
        | _ => s
      match r.kind with
      | .tensor =>
        let q := recOf r.bytes
        one (moveElem r.wg (r.engine core) r.ctx r.priv r.bank q) (TRec.elems q.dims) none
      | .red f =>
        let q := crecOf r.bytes
        one (redElem core f r q (s.carryOf r)) (List.range q.n) (some (s.carryOf r))
      | .bcast _ => s

/-- REQUEST_RECORD_COMPLETE (R193). -/
def execRequestRecordComplete (core op : Nat) (s : State) : Host.Outcome State Fault Refusal :=
  .next (s.stepReq core op (fun k => k == .tensor))

/-- COLLECTIVE_RED_COMPLETE (R195). -/
def execCollectiveRedComplete (core op : Nat) (s : State) : Host.Outcome State Fault Refusal :=
  .next (s.stepReq core op (fun k => match k with
    | .red _ => true
    | _ => false))

/-- COLLECTIVE_BCAST_READY (R196). -/
def execCollectiveBcastReady (core op : Nat) (s : State) : Host.Outcome State Fault Refusal :=
  .next (s.stepReq core op (fun k => match k with
    | .bcast _ => true
    | _ => false))

/-! ### The private-format table (R85, R87, R197) -/

/-- `fmt.load` (R197). -/
def execFmtLoad (f : Fields) : State → Host.Outcome State Fault Refusal :=
  issued (.fmtLoad f) fun is s =>
    if is.act = [] then .done s
    else
      let sh := s.sheaf is.sid
      let a := sh.read f.imm is.lead f.a
      let c := coreOf is.sid
      match s.localAt sh.wg a 16 512 with
      | some k => is.fault 3 k [is.lead] a.toNat s
      | none =>
        if is.barred s (fun t => sh.taintOf t f.a) then .wait s
        else is.inScratch false s fun s =>
        let bank := bankOf ((s.wg sh.wg).scratch.readN (scratchOff a) 512)
        .done (s.modCore c (fun k => { k with fmt := k.fmt.put sh.ctx bank }))

/-! ### The prologue engine (R199, R200) -/

/-- A transform binding: tile operands, steps, tile number, and its record (R199). -/
structure Binding where
  ta : Word
  tb : Word
  tc : Word
  xstep : Int
  ystep : Int
  tile : Nat
  tset : Bool
  mbz : Nat
  record : List Byte
  deriving DecidableEq, Repr, Inhabited

/-- A binding from its bytes (R199). -/
def bindingOf (bs : List Byte) : Binding :=
  let x := leNat (bs.take 32)
  { ta := BitVec.ofNat 32 (bits x 224 32), tb := BitVec.ofNat 32 (bits x 192 32),
    tc := BitVec.ofNat 32 (bits x 160 16), xstep := sext 32 (bits x 128 32), ystep := sext 32 (bits x 96 32),
    tile := bits x 91 5, tset := bit x 90, mbz := bits x 176 16 + bits x 0 90, record := bs.drop 32 }

/-- A binding's tile as `tl.set` and `tl.fill` leave it, for `n` bytes (R170, R200). -/
def Binding.setTile (b : Binding) (n : Nat) (t : Tile) : Tile :=
  let t' := (tileOf t b.ta b.tb b.tc 0).getD t
  let t' := if t.state = .ready then { t'.toEmpty with sat := false, ovr := false, poison := false } else t'
  if n = 0 then { t' with state := .ready } else { t' with state := .filling, pend := BitVec.ofNat 20 n }

/-- One binding of a workgroup runs, from the elements that have landed to its end or to what stops it, with the bank of
private formats as it stood when the binding began (R87, R200). -/
def State.runBinding (s : State) (w : Nat) (b : Binding) : Tried :=
  let g := s.wg w
  let r := recOf b.record
  let r := { r with src := (((r.src : Int) + g.tx * b.xstep + g.ty * b.ystep) % 2 ^ 64).toNat }
  let n := r.delivered
  let bank := g.bindBank.getD (((s.core g.core).fmt.get g.ctx).getD [])
  let s := if b.tset ∧ g.bindPos = 0 then s.modTileN w b.tile (b.setTile n) else s
  match moveAll (moveElem w ⟨g.core, 3, 0⟩ g.ctx false bank r) ((TRec.elems r.dims).drop g.bindPos)
      ⟨s, g.bindPos, g.bindPoison, false⟩ with
  | (m, some e) => (m.s.modWg w (fun g => { g with
      bindPos := m.pos
      bindPoison := m.poison
      bindBank := some bank }), some e)
  | (m, none) => (if b.tset then m.s.countTile w b.tile n true m.poison else m.s, none)

/-- The binding that a workgroup's prologue runs next: bindings that a halt has held run in the order of their workgroups
(R200, R434). -/
def State.nextBinding (s : State) (w : Nat) : Option (Nat × Binding) :=
  let g := s.wg w
  match g.bindings with
  | [] => none
  | i :: _ =>
    if g.stage = .prologue ∧ !s.onHold g.ctx g.heldBinding ∧ !s.awaitsReplay g.ctx g.bindStuck ∧
        (g.heldBinding → s.wgs.all (fun p =>
          !(p.2.heldBinding && p.2.ctx == g.ctx && p.2.core == g.core && p.2.stage == .prologue) || decide (w ≤ p.1))) then
      some (i, bindingOf ((s.graph g.graph).binds.getD i [])) else none

/-- PROLOGUE_RUN (R200): the next binding of an admitted workgroup lands. -/
def execPrologueRun (w : Nat) (s : State) : Host.Outcome State Fault Refusal :=
  .next (match s.nextBinding w with
    | none => s
    | some (_, b) =>
      match s.runBinding w b with
      | (s, none) => s.modWg w (fun g => { g with
          bindings := g.bindings.tail
          heldBinding := false
          bindPos := 0
          bindPoison := false
          bindBank := none
          bindStuck := none })
      | (s, some (0, va, wr)) => (s.engineReplay (s.wg w).ctx va wr (s.wg w).core).modWg w (fun g => { g with
          bindStuck := some (va / 65536) })
      | (s, some _) => s)

/-- PROLOGUE_COMPLETE (R200): no binding is left. -/
def execPrologueComplete (w : Nat) (s : State) : Host.Outcome State Fault Refusal :=
  .next (if (s.wg w).stage = .prologue ∧ (s.wg w).bindings = [] then
      s.modWg w (fun g => { g with stage := .primed })
    else s)

end Sys2Proof.Machine
end

