-- ==== Sys2Proof/Machine/Acc.lean ====
section
/-! DEFINITION. Packed rows of every format (R68 to R70), accumulator tiles with their status, their tile
order and their survivor masks (R201 to R204, R243 to R245), and the accumulator instructions (R219 to
R224). -/

namespace Sys2Proof.Machine

/-! ### Packed rows (R68 to R70, R205) -/

/-- The format of a block-scaled format's elements; another format is its own (R72). -/
def elemFmt (fmt : Nat) : Nat :=
  match fmt with
  | 17 => 4
  | 18 => 3
  | 19 => 5
  | 20 => 6
  | 21 => 7
  | n => n

/-- A value as the element bits of a format, T2 as its digit and B1 as its bit, with the flags of R78. -/
def encodeElem (fmt : Nat) (mode : Mode) (v : CVal) : Nat × Word :=
  let fmt := elemFmt fmt
  if fmt = 16 then let r := toB1 v; (b2n r.1, r.2)
  else if fmt = 15 then
    let r := toInt 15 mode v
    (if r.1 = 1 then 1 else if r.1 = -1 then 2 else 0, r.2)
  else if fmt < 8 then toFloat false fmt mode v
  else
    let r := toInt fmt mode v
    ((wordOf r.1).toNat % 2 ^ (fmtBits fmt).getD 0, r.2)

/-- Elements packed from the low end (R68, R70). -/
def packRow (fmt : Nat) (es : List Nat) : List Byte :=
  if fmt = 15 then
    (List.range (ceilDiv es.length 5)).map (fun i =>
      BitVec.ofNat 8 (((es.drop (5 * i)).take 5).foldr (fun d acc => d + 3 * acc) 0))
  else
    let b := (fmtBits fmt).getD 0
    natBytes (rowBytes fmt es.length) (es.foldr (fun e acc => e % 2 ^ b + 2 ^ b * acc) 0)

/-- `n` elements of a packed row as their bits; T2 digits of a byte that is no code are 0 (R68, R70). -/
def unpackRow (fmt n : Nat) (bs : List Byte) : List Nat :=
  if fmt = 15 then
    (List.range n).map (fun i =>
      let q := (bs.getD (i / 5) 0).toNat
      if 243 ≤ q then 0 else t2Digit q (i % 5))
  else
    let b := (fmtBits fmt).getD 0
    let x := leNat bs
    (List.range n).map (fun i => bits x (b * i) b)

/-- The value of an element's bits in a format. -/
def elemVal (fmt e : Nat) : CVal :=
  let fmt := elemFmt fmt
  if fmt = 15 then .int (t2Weight e)
  else if fmt = 16 then .int (if e = 0 then 1 else -1)
  else (readCode false fmt (BitVec.ofNat 32 e)).1

/-- A 32-bit pattern as F32, or as I32. -/
def patVal (int : Bool) (w : Word) : CVal := (readCode false (if int then 8 else 0) w).1

/-- Words read at one time, some perhaps changed since: each is the old or the new one (R215, R222). -/
def mergeWords : List Word → List Word → State → List Word × State
  | o :: os, n :: ns, s =>
    let (w, s) := if o = n then (o, s) else let (b, s) := s.flip; (if b then n else o, s)
    let (ws, s) := mergeWords os ns s
    (w :: ws, s)
  | _, _, s => ([], s)

/-! ### Elements, status and order (R202 to R204) -/

/-- Row `m` of a tile. -/
def Acc.row (a : Acc) (m : Nat) : List Word :=
  let l := a.elems.filter (fun p => p.1 / 64 = m)
  (List.range 64).map (fun n => (Tab.get l (64 * m + n)).getD 0)

/-- Row `m` of a tile replaced. -/
def Acc.setRow (a : Acc) (m : Nat) (ws : List Word) : Acc :=
  { a with
    ver := a.ver + 1
    elems := a.elems.filter (fun p => p.1 < 64 * m) ++
      ((ws.take 64).mapIdx (fun n w => (64 * m + n, w))).filter (fun p => p.2 ≠ 0) ++
      a.elems.filter (fun p => 64 * m + 64 ≤ p.1) }

/-- Element (m, n) of a tile. -/
def Acc.elem (a : Acc) (m n : Nat) : Word := (a.elems.get (64 * m + n)).getD 0

/-- Element (m, n) of a tile replaced. -/
def Acc.setElem (a : Acc) (m n : Nat) (w : Word) : Acc := a.setRow m ((a.row m).set n w)

/-- The watermark: the lowest row that an accepted write has still to write (R203). -/
def Acc.wm (a : Acc) : Nat :=
  ((List.range 64).find? (fun m => a.order.any (fun p => p.todo.getLsbD m))).getD 64

/-- Every write of row `m` with a place before `ticket` has been made (R204). -/
def Acc.free (a : Acc) (ticket m : Nat) : Bool :=
  a.order.all (fun p => decide (ticket ≤ p.ticket) || !p.todo.getLsbD m)

/-- Row `m` lies below the watermark of the writes with a place before `ticket`: they write no row up to it any more
(R203, R204). -/
def Acc.below (a : Acc) (ticket m : Nat) : Bool :=
  a.order.all (fun p => decide (ticket ≤ p.ticket) || p.todo.toNat % 2 ^ (m + 1) == 0)

/-- There is room for `n` more unfinished writes (R203). -/
def Acc.room (a : Acc) (n : Nat) : Bool := decide (a.order.length + n ≤ 7)

/-- The status word (R203). -/
def Acc.status (a : Acc) : Word :=
  BitVec.ofNat 32 (cat [(b2n (!a.order.isEmpty), 1), (b2n a.ovf, 1), (b2n a.nan, 1), (b2n a.inv, 1),
    (b2n a.cvt, 1), (a.order.length, 3), (0, 17), (a.wm, 7)])

/-- A write takes its place at the end of the order. -/
def Acc.join (a : Acc) (ticket : Nat) (mat : Bool) (todo : BitVec 64) : Acc :=
  { a with order := a.order ++ [⟨ticket, mat, todo⟩] }

/-- A write has written some rows; with none left it has finished, a matrix operation apart, which
finishes with its completion. -/
def Acc.wrote (a : Acc) (ticket : Nat) (rows : BitVec 64) : Acc :=
  { a with order := (a.order.map (fun p =>
      if p.ticket = ticket then { p with todo := p.todo &&& ~~~ rows } else p)).filter (fun p => p.mat ∨ p.todo ≠ 0) }

/-- A write has finished. -/
def Acc.leave (a : Acc) (ticket : Nat) : Acc :=
  { a with order := a.order.filter (fun p => p.ticket ≠ ticket) }

/-- Rows `lo` to `lo + n - 1`. -/
def rowMask (lo n : Nat) : BitVec 64 := BitVec.ofNat 64 (2 ^ (lo + n) - 2 ^ lo)

/-- Accumulator tile `n` of a workgroup. -/
def State.acc (s : State) (w n : Nat) : Acc := (s.wg w).acc.getD n default

/-- An accumulator tile changed. -/
def State.modAcc (s : State) (w n : Nat) (f : Acc → Acc) : State :=
  s.modWg w (fun g => { g with acc := modAt g.acc n f })

/-- The bit of a survivor mask for block `j` of line `q` of a 64 x 64 tile is `8 * q + j` (R243). -/
def accBlock (axis q j : Nat) : List (Nat × Nat) :=
  (List.range 8).map (fun i => if axis = 1 then (q, 8 * j + i) else (8 * j + i, q))

/-- A stored value other than +0 or -0 (R245). -/
def nonZero (int : Bool) (w : Word) : Bool := w != 0 && (int || w != 0x80000000)

/-- A block's survivor bit under tag `g` recomputed from the stored values (R245). -/
def Acc.blockLives (a : Acc) (g : BitVec 16) (q j : Nat) : Bool :=
  (accBlock (tagAxis g) q j).any (fun p => nonZero (tagInt g) (a.elem p.1 p.2))

/-- Mask bits of a tile with some of them changed. -/
def setMask (m : BitVec 512) (l : List (Nat × Bool)) : BitVec 512 :=
  each l (fun p m => let b := BitVec.ofNat 512 (2 ^ p.1); if p.2 then m ||| b else m &&& ~~~ b) m

/-- The mask bits of the blocks that hold elements of row `m`, columns `lo` to `lo + n - 1`. -/
def rowBlocks (axis m lo n : Nat) : List Nat :=
  if axis = 1 then (List.range 8).filterMap (fun j =>
      if 8 * j < lo + n ∧ lo < 8 * j + 8 then some (8 * m + j) else none)
  else (List.range n).map (fun i => 8 * (lo + i) + m / 8)

/-- A raw write of coefficients marks every block it writes (R245). -/
def Acc.markRaw (a : Acc) (g : BitVec 16) (m lo n : Nat) : Acc :=
  if tagAxis g = 0 then a
  else { a with mask := setMask a.mask ((rowBlocks (tagAxis g) m lo n).map (fun b => (b, true))) }

/-- A row as an instruction reads it that acts on coefficients: a block whose survivor bit is 0 reads as
zeros (R243). -/
def Acc.coefRow (a : Acc) (g : BitVec 16) (m : Nat) : List Word :=
  match tagAxis g with
  | 0 => a.row m
  | 1 => (a.row m).mapIdx (fun n w => if a.mask.getLsbD (8 * m + n / 8) then w else 0)
  | _ => (a.row m).mapIdx (fun n w => if a.mask.getLsbD (8 * n + m / 8) then w else 0)

/-! ### Reads in the tile order (R204) -/

/-- The accumulator tile that an instruction in flight reads row by row. -/
def accRead : Instr → Option Nat
  | .accRd f => some f.c.toNat
  | .accSt f => some f.d.toNat
  | _ => none

/-- A lane of such an instruction reads its row as soon as it may; `cells` keeps the tile's `ver` of then (R25). -/
def Lane.readRow (a : Acc) (ticket : Nat) (l : Lane) : Lane :=
  if l.srcs = [] ∧ a.below ticket l.va.toNat then
    { l with srcs := (a.row l.va.toNat).map (fun w => (0xF0, w)), cells := a.ver }
  else l

/-- A job reads the rows of its accumulator source as soon as it may. -/
def Job.readRows (a : Acc) (j : Job) : Job :=
  { j with rows := each (List.range 64) (fun m l =>
      if (Tab.get l m).isNone ∧ a.below j.ticket m then Tab.put l m (a.row m) else l) j.rows }

/-- Every read of a tile that has become possible is made. -/
def State.readRows (s : State) (w n : Nat) : State :=
  let a := s.acc w n
  let op (p : Nat × LongOp) : Nat × LongOp :=
    if p.2.wg = w ∧ accRead p.2.instr = some n then
      (p.1, { p.2 with lanes := p.2.lanes.map (fun l => l.readRow a p.1) })
    else p
  let job (j : Job) : Job := if j.wg = w ∧ j.srcAcc ∧ j.src = n then j.readRows a else j
  { s with
    ops := s.ops.map op
    cores := s.cores.map (fun p => (p.1, { p.2 with jobs := p.2.jobs.map job })) }

/-- A read of row `m` of a tile with a place before `ticket` has still to be made (R204). -/
def State.unread (s : State) (w n ticket m : Nat) : Bool :=
  s.ops.any (fun p => decide (p.1 < ticket) && p.2.wg == w && accRead p.2.instr == some n &&
    p.2.lanes.any (fun l => l.srcs.isEmpty && l.va.toNat == m)) ||
  s.cores.any (fun p => p.2.jobs.any (fun j => decide (j.ticket < ticket) && j.wg == w && j.srcAcc && j.src == n &&
    (Tab.get j.rows m).isNone))

/-- The place `ticket` in the order of a tile may write row `m`: every earlier write and read of the row has been made
(R204). -/
def State.mayWrite (s : State) (w n ticket m : Nat) : Bool := (s.acc w n).free ticket m && !s.unread w n ticket m

/-- It may write the whole tile. -/
def State.mayWriteAll (s : State) (w n ticket : Nat) : Bool := (List.range 64).all (s.mayWrite w n ticket)

/-- Rows of a tile written by the place `ticket`; reads that waited for them are made. -/
def State.writeRows (s : State) (w n ticket : Nat) (rows : List (Nat × List Word)) (f : Acc → Acc) : State :=
  (s.modAcc w n (fun a =>
    (f (each rows (fun r a => a.setRow r.1 r.2) a)).wrote ticket (maskOf (rows.map (·.1))))).readRows w n

/-! ### Lift jobs on accumulator tiles (R246, R247) -/

/-- The lift unit of a core can accept `n` more jobs. -/
def State.liftRoom (s : State) (c n : Nat) : Bool := decide ((s.core c).jobs.length + n ≤ 4)

/-- A job joins the queue of a core's lift unit. -/
def State.pushJob (s : State) (c : Nat) (j : Job) : State :=
  s.modCore c (fun k => { k with jobs := k.jobs ++ [j] })

/-- The six levels of a threshold register (R241, R242). -/
def State.thresholds (s : State) (w n : Nat) : List (BitVec 16) :=
  ((s.wg w).thr.getD n []) ++ List.replicate 6 0

/-- The address of the word that a sheaf is issuing. -/
def State.wordPc (s : State) (sid : Nat) : BitVec 64 := wordAddr (s.run sid).pc (some (s.run sid).k)

/-- A job on an accumulator tile is accepted, asked for by the present word of a sheaf: its place, the new DOM, and the
thresholds it captures. -/
def State.accJob (s : State) (sid w n : Nat) (kind : JobKind) (tag dom : BitVec 16) : State :=
  let (t, s) := s.fresh
  let s := s.modAcc w n (fun a => { a.join t false (BitVec.allOnes 64) with dom := dom })
  s.pushJob (coreOf sid) ⟨kind, w, true, n, false, 0, tag, s.thresholds w (tagTh tag), t, [], 0, s.wordPc sid, false⟩

/-- The reconstruction of a tile before the instruction that forces it; none while it must wait. -/
def State.forceAcc (s : State) (sid w n : Nat) (places : Nat) : Option State :=
  let a := s.acc w n
  if tagAxis a.dom = 0 then if a.room places then some s else none
  else if s.liftRoom (coreOf sid) 1 ∧ a.room (places + 1) then some (s.accJob sid w n .forced a.dom 0)
  else none

/-! ### The instructions (R219 to R224) -/

/-- An instruction that names accumulator tile `n` and acts once where a guard holds; a number that the kernel does not declare
is an illegal use whatever the guards say (DESIGN CHOICE, log 91). -/
def accOp (n : Nat) (g : Nat → Acc → Sheaf → Nat → State → Result) (is : Issue) (s : State) : Result :=
  let w := s.wgOf is.sid
  if (s.wg w).acc.length ≤ n then is.illegal s
  else if is.act = [] then .done s
  else g w (s.acc w n) (s.sheaf is.sid) is.lead s

/-- A tile zeroed (R220). -/
def Acc.zeroed (a : Acc) : Acc :=
  { a with elems := [], ver := a.ver + 1, ovf := false, nan := false, inv := false, cvt := false, mask := 0 }

/-- `acc.z` (R220): at once where no write is unfinished, else at its place. -/
def execAccZ (f : Fields) : State → Host.Outcome State Fault Refusal :=
  issued (.accZ f) fun is s =>
    let n := f.d.toNat
    accOp n (fun w a _ _ s =>
      if !a.room 1 then is.waits none s
      else if a.order = [] then .done (s.modAcc w n (fun a => { a.zeroed with dom := 0 }))
      else
        let o := s.next
        .done ((s.launch is (.accZ f) [] id false).modAcc w n (fun a =>
          { a.join o false (BitVec.allOnes 64) with dom := 0 }))) is s

/-- `acc.rd` (R221). -/
def execAccRd (f : Fields) : State → Host.Outcome State Fault Refusal :=
  issued (.accRd f) fun is s =>
    let n := f.c.toNat
    let k := wideRegs (f.mod 0 2)
    let w := s.wgOf is.sid
    let sh := s.sheaf is.sid
    let row (t : Nat) : Nat := (sh.read f.imm t f.a).toNat % 64
    let col (t : Nat) : Nat := (sh.read f.imm t f.b).toNat % 64
    if (s.wg w).acc.length ≤ n ∨ is.act.any (fun t => col t % k ≠ 0) then is.illegal s
    else if is.act = [] then .done (s.launch is (.accRd f) [])
    else
      match s.forceAcc is.sid w n 0 with
      | none => is.waits none s
      | some s =>
        .done ((s.launch is (.accRd f) (is.act.map (fun t =>
          { sh.lane f.imm is.act [] (regRun f.d k) t with
            va := BitVec.ofNat 64 (row t)
            pa := BitVec.ofNat 64 (col t)
            addrs := sh.capture f.imm t [f.a, f.b]
            taint := sh.taintOf t f.a || sh.taintOf t f.b }))).readRows w n)

/-- `acc.wr` (R221): the lanes in ascending order, so that the highest one stays. -/
def execAccWr (f : Fields) : State → Host.Outcome State Fault Refusal :=
  issued (.accWr f) fun is s =>
    let n := f.d.toNat
    let k := wideRegs (f.mod 0 2)
    accOp n (fun w a sh _ s =>
      let row (t : Nat) : Nat := (sh.read f.imm t f.a).toNat % 64
      let col (t : Nat) : Nat := (sh.read f.imm t f.b).toNat % 64
      if is.act.any (fun t => col t % k ≠ 0) then is.illegal s
      else if !a.room 1 ∨ is.act.any (fun t => !s.mayWrite w n s.next (row t)) then is.waits none s
      else .done (s.modAcc w n (fun a => each is.act (fun t a =>
        let vals := (dataFields f.c k).map (sh.read f.imm t)
        ((vals.mapIdx (fun i x => (i, x))).foldl (fun a p => a.setElem (row t) (col t + p.1) p.2) a).markRaw
          a.dom (row t) (col t) k) a))) is s

/-- The range of rows that `acc.ld` and `acc.st` name in IMM32: pitch, count, first row (R219). -/
def rowRange (fmt : Nat) (imm : Word) : Nat × Nat × Nat :=
  let p := bits imm.toNat 12 16
  (if p = 0 then up16 (rowBytes fmt 64) else 16 * p, bits imm.toNat 6 6 + 1, bits imm.toNat 0 6)

/-- A transfer between rows of a tile and scratchpad (R222): the checks, and its lanes, one a row. -/
def accTransfer (i : Instr) (f : Fields) (codes : List Nat) (places : Nat)
    (go : Issue → Nat → Nat → List Lane → State → Result) (is : Issue) (s : State) : Result :=
  let fmt := f.mod 0 5
  let (pitch, count, row0) := rowRange fmt f.imm
  let w := s.wgOf is.sid
  let n := f.d.toNat
  if bits f.imm.toNat 28 4 ≠ 0 ∨ fmt ∉ codes ∨ 64 < row0 + count ∨ (s.wg w).acc.length ≤ n then is.illegal s
  else if is.act = [] then .done (s.launch is i [])
  else if is.barred s (fun t => t == is.lead && (s.sheaf is.sid).taintOf t f.a) then .wait s
  else
    let sh := s.sheaf is.sid
    let a := sh.read f.imm is.lead f.a
    match s.scratchFaultAl w a ((count - 1) * pitch + rowBytes fmt 64) 1 with
    | some sub => is.fault 3 sub [is.lead] a.toNat s
    | none =>
      let v := (s.scratchWg w a).getD w
      match (if places = 0 then s.forceAcc is.sid w n 0
        else if (s.acc w n).room places then some s else none) with
      | none => is.waits none s
      | some s =>
        is.inScratch (v ≠ w) s (go is w n ((List.range count).map (fun j =>
          { thread := is.lead, off := scratchOff a + j * pitch, va := BitVec.ofNat 64 (row0 + j), pa := BitVec.ofNat 64 v,
            addrs := sh.capture f.imm is.lead [f.a], srcs := [], dsts := [], taint := false, done := false })))

/-- The words of a scratchpad range, the last one filled up with zeros. -/
def State.scratchWords (s : State) (w off n : Nat) : List Word :=
  bytesWords (ceilDiv n 4) ((s.wg w).scratch.readN off n)

/-- `acc.ld` (R222): the bytes as they stand at issue, to be compared with those of the landing. -/
def execAccLd (f : Fields) : State → Host.Outcome State Fault Refusal :=
  issued (.accLd f) (accTransfer (.accLd f) f [0, 1, 2, 8, 11] 1 (fun is w n lanes s =>
    let rb := rowBytes (f.mod 0 5) 64
    let lanes := lanes.map (fun l =>
      { l with srcs := (s.scratchWords l.pa.toNat l.off rb).map (fun x => (0xF0, x)) })
    let o := s.next
    .done ((s.launch is (.accLd f) lanes (fun op => { op with tag := (s.acc w n).dom })).modAcc w n (fun a =>
      a.join o false (maskOf (lanes.map (·.va.toNat)))))))

/-- `acc.st` (R222). -/
def execAccSt (f : Fields) : State → Host.Outcome State Fault Refusal :=
  issued (.accSt f) (accTransfer (.accSt f) f (List.range 16) 0 (fun is w n lanes s =>
    .done ((s.launch is (.accSt f) lanes).readRows w n)))

/-- `acc.wm` (R223): it never waits; `.clr` clears the sticky bits after the read. -/
def execAccWm (f : Fields) : State → Host.Outcome State Fault Refusal :=
  issued (.accWm f) fun is s =>
    let n := f.a.toNat
    accOp n (fun w a _ _ s =>
      let x := if f.mod 0 1 = 1 then a.dom.zeroExtend 32 else a.status
      let s := s.writeLanes is.sid f.d 1 (is.act.map (fun t => ⟨t, [(x, false)], 0⟩))
      .done (if f.mod 1 1 = 1 then
          s.modAcc w n (fun a => { a with ovf := false, nan := false, inv := false, cvt := false })
        else s)) is s

/-- `acc.cvt` (R224): the lowest active thread's scale, at its place in the tile order. -/
def execAccCvt (f : Fields) : State → Host.Outcome State Fault Refusal :=
  issued (.accCvt f) fun is s =>
    let n := f.d.toNat
    accOp n (fun w a sh ld s =>
      let keep : Bool := f.mod 2 2 == 1 && !tagInt a.dom
      match (if keep then (if a.room 1 then some s else none) else s.forceAcc is.sid w n 1) with
      | none => is.waits none s
      | some s =>
        let o := s.next
        .done ((s.launch is (.accCvt f) [sh.lane f.imm is.act [f.a] [] ld]
          (fun op => { op with tag := (s.acc w n).dom }) false).modAcc w n (fun a =>
          a.join o false (BitVec.allOnes 64)))) is s

/-! ### Landings (R220 to R224) -/

/-- One element rewritten by `acc.cvt`, and whether CVT is set (R224). -/
def cvtElem (kind : Nat) (mode : Mode) (x sc : Word) : Word × Bool :=
  let xv : FVal := if kind = 0 then
      (if x.toInt < 0 then .fin true x.toInt.natAbs 0 else .fin false x.toInt.natAbs 0)
    else f32.decode x.toNat
  let sv := f32.decode sc.toNat
  let finite (v : FVal) : Bool := match v with
    | .fin _ _ _ => true
    | _ => false
  let p := (mulVal xv sv).getD (.nan false)
  if kind = 2 then
    let r := toInt 8 mode (.flt p)
    (wordOf r.1, r.2 &&& astCVT != 0)
  else
    let r := roundVal f32 false mode p
    let v := f32.decode r.1
    (BitVec.ofNat 32 r.1, v.isNan || (!finite v && finite xv && finite sv))

/-- `acc.z` takes effect. -/
def State.landAccZ (s : State) (o : Nat) (op : LongOp) (n : Nat) : State :=
  if s.mayWriteAll op.wg n o then
    ((s.modAcc op.wg n (fun a => a.zeroed.leave o)).readRows op.wg n).completeOp o
  else s

/-- `acc.cvt` takes effect. -/
def State.landAccCvt (s : State) (o : Nat) (op : LongOp) (f : Fields) : State :=
  let n := f.d.toNat
  let a := s.acc op.wg n
  if s.mayWriteAll op.wg n o then
    let sc := ((op.lanes.head?.map (fun l => (l.srcs.head?.map (·.2)).getD 0))).getD 0
    let res := (List.range 64).map (fun m => (m, (a.coefRow op.tag m).map (cvtElem (f.mod 2 2) (modeOf (f.mod 0 2)) · sc)))
    let bad := res.any (fun r => r.2.any (·.2))
    (s.writeRows op.wg n o (res.map (fun r => (r.1, r.2.map (·.1)))) (fun a =>
      { a with cvt := a.cvt || bad })).completeOp o
  else s

/-- `acc.rd` completes once every lane has read its row and its registers have landed. -/
def State.landAccRd (s : State) (o : Nat) (op : LongOp) (f : Fields) : State :=
  if op.lanes.all (fun l => l.srcs ≠ []) then
    s.landEach o (fun _ l s =>
      s.landDsts o op.sid l f.d (((l.srcs.map (·.2)).drop l.pa.toNat).take (wideRegs (f.mod 0 2))))
  else s

/-- A row widened exactly into the tile by `acc.ld` (R222). -/
def widenRow (fmt : Nat) (ws : List Word) : List Word :=
  (unpackRow fmt 64 (wordsBytes ws)).map (fun e =>
    if fmt = 0 ∨ fmt = 8 then BitVec.ofNat 32 e
    else match elemVal fmt e with
      | .int x => wordOf x
      | v => BitVec.ofNat 32 (toFloat false 0 .rne v).1)

/-- `acc.ld` writes its rows once every earlier write of them has been made. -/
def State.landAccLd (s : State) (o : Nat) (op : LongOp) (f : Fields) : State :=
  let n := f.d.toNat
  let fmt := f.mod 0 5
  if op.lanes.all (fun l => s.mayWrite op.wg n o l.va.toNat) then
    let r := op.lanes.foldl (fun (acc : List (Nat × List Word) × State) l =>
      let now := acc.2.scratchWords l.pa.toNat l.off (rowBytes fmt 64)
      let (ws, s) := mergeWords (l.srcs.map (·.2)) now acc.2
      (acc.1 ++ [(l.va.toNat, widenRow fmt ws)], s)) ([], s)
    (r.2.writeRows op.wg n o r.1 (fun a => each r.1 (fun p a => a.markRaw op.tag p.1 0 64) a)).completeOp o
  else s

/-- `acc.st` lands its bytes once every row has been read (R222). -/
def State.landAccSt (s : State) (o : Nat) (op : LongOp) (f : Fields) : State :=
  let fmt := f.mod 0 5
  if op.lanes.all (fun l => l.srcs ≠ []) then
    (each op.lanes (fun l s =>
      let es := l.srcs.map (fun p => encodeElem fmt (modeOf (f.mod 6 2)) (patVal (f.mod 5 1 == 1) p.2))
      let s := s.modScratch l.pa.toNat (fun m => m.writeN l.off (packRow fmt (es.map (·.1))))
      if es.any (fun e => e.2 &&& astCVT != 0) then
        s.modAcc op.wg f.d.toNat (fun a => { a with cvt := true })
      else s) s).completeOp o
  else s

end Sys2Proof.Machine
end

