-- ==== Sys2Proof/Machine/Admit.lean ====
section
/-! DEFINITION. What a core can hold and what an admitted workgroup is granted: kernel descriptors, sheaf
slots, rows, scratchpad, tiles and accumulator tiles (R60, R88, R114 to R116, R158, R168, R201, R339,
R384). -/

namespace Sys2Proof.Machine

/-- Stands for no sheaf slot. -/
def noSlot : Nat := 2 ^ 32

/-! ### Kernel descriptors (R60) -/

/-- A kernel descriptor at a virtual address. -/
def descOf (va x : Nat) : Desc where
  entry := BitVec.ofInt 64 ((va : Int) + sext 32 (bits x 96 32))
  kind := bits x 93 3
  ftz := bit x 92
  discard := bit x 91
  depthout := bit x 90
  recsz := bits x 82 8
  batch := bits x 76 6
  scratch := bits x 48 12
  acc := bits x 39 9
  tiles := bits x 33 6
  thresh := bits x 29 4
  joins := bits x 20 9
  sheaves := bits x 15 4 + 1
  width := 16 * 2 ^ bits x 13 2
  regs := 8 * bits x 8 5

/-- Bytes of the scratchpad allocation (R158). -/
def Desc.bytes (d : Desc) : Nat := ceilDiv (16 * d.joins + 256 * d.scratch) 256 * 256

/-- A descriptor that passes the checks of R60, given its 128 bits. -/
def descOk (x : Nat) : Bool :=
  let d := descOf 0 x
  d.kind ≤ 2 && bits x 13 2 ≠ 3 && bits x 60 16 == 0 && !bit x 19 && bits x 96 3 == 0 &&
  decide (d.scratch ≤ 2048 ∧ d.acc ≤ 256 ∧ d.tiles ≤ 32 ∧ d.thresh ≤ 8 ∧ d.joins ≤ 256 ∧ 8 ≤ d.regs ∧ d.regs ≤ 192) &&
  bits x 0 8 == 1 && (if d.kind = 2 then decide (1 ≤ d.recsz ∧ d.recsz ≤ 16) else d.recsz == 0 && d.batch == 0) &&
  decide (16 * d.joins + 256 * d.scratch ≤ 524288)

/-- A core can hold a workgroup of the descriptor (R116). -/
def Desc.fits (d : Desc) : Bool := decide (ceilDiv d.sheaves (64 / d.width) * d.regs ≤ 2048)

/-! ### Rows and lanes (R91, R114, R115) -/

/-- Rows as a mask: bit r stands for row r of the 256 of a lane (R114). -/
def rowsMask (l : List Nat) : Nat := l.foldl (fun m r => Nat.lor m (2 ^ r)) 0

/-- The rows in use in some lane of range `i` of `g` groups of 16 lanes. -/
def rangeRows (rows : List Nat) (g i : Nat) : Nat := ((rows.drop (i * g)).take g).foldl Nat.lor 0

/-- The rows that are free in every lane of a range. -/
def freeRows (used : Nat) : List Nat := (List.range 256).filter (fun r => !used.testBit r)

/-- The lane range and the row map of a sheaf, where its rows are free (R91, R115); `rows` holds the rows in use in each
group of 16 lanes.  DESIGN CHOICE (log 78): of the ranges of its width the one with the most free rows, the
lowest of several, and in it the lowest free rows. -/
def placeSheaf (rows : List Nat) (width regs : Nat) : Option ((Nat × List Nat) × List Nat) :=
  let g := width / 16
  let free (i : Nat) : List Nat := freeRows (rangeRows rows g i)
  let best := (List.range (4 / g)).foldl (fun b i => if (free b).length < (free i).length then i else b) 0
  if regs / 8 ≤ (free best).length then
    let map := (free best).take (regs / 8)
    some ((best * width, map), rows.mapIdx (fun i n =>
      if best * g ≤ i ∧ i < (best + 1) * g then Nat.lor n (rowsMask map) else n))
  else none

/-- Lane ranges and row maps for `n` sheaves, and the rows then in use. -/
def placeSheaves (width regs : Nat) : Nat → List Nat → Option (List (Nat × List Nat) × List Nat)
  | 0, rows => some ([], rows)
  | n + 1, rows =>
    match placeSheaf rows width regs with
    | none => none
    | some (l, rows) => (placeSheaves width regs n rows).map (fun p => (l :: p.1, p.2))

/-! ### What a core has (R11, R88) -/

/-- What is in use on a core. -/
structure Room where
  slots : List Nat
  /-- Rows in use in each group of 16 lanes. -/
  rows : List Nat
  /-- Scratchpad allocations: start and bytes. -/
  used : List (Nat × Nat)
  tiles : Nat
  acc : Nat
  deriving DecidableEq, Repr, Inhabited

/-- What a workgroup is granted: sheaf slots, first lanes with row maps, start of its scratchpad allocation. -/
structure Grant where
  slots : List Nat
  lanes : List (Nat × List Nat)
  base : Nat
  deriving DecidableEq, Repr, Inhabited

/-- An empty core. -/
def Room.empty : Room := ⟨[], [0, 0, 0, 0], [], 0, 0⟩

/-- A resident sheaf takes its slot and its rows. -/
def Room.addSheaf (r : Room) (slot : Nat) (sh : Sheaf) : Room :=
  { r with
    slots := slot :: r.slots
    rows := r.rows.mapIdx (fun i n =>
      if sh.lane0 ≤ 16 * i ∧ 16 * i < sh.lane0 + sh.width then Nat.lor n (rowsMask sh.rows) else n) }

/-- A workgroup's scratchpad, tiles and accumulator tiles. -/
def Room.addWg (r : Room) (base size tiles acc : Nat) : Room :=
  { r with used := (base, size) :: r.used, tiles := r.tiles + tiles, acc := r.acc + acc }

/-- The lowest contiguous free range of `n` bytes of the scratchpad (R158). -/
def Room.hole (r : Room) (n : Nat) : Option Nat :=
  let free (b : Nat) : Bool := decide (b + n ≤ 524288) &&
    r.used.all (fun u => u.2 == 0 || decide (b + n ≤ u.1 ∨ u.1 + u.2 ≤ b))
  let c := (0 :: r.used.map (fun u => u.1 + u.2)).filter free
  c.foldl (fun (b : Option Nat) x => match b with
    | none => some x
    | some y => some (min x y)) none

/-- Every resource that a descriptor declares, where all can be granted at once (R88).  DESIGN CHOICE (log 78): the
lowest free sheaf slots, in sheaf order. -/
def Room.grant (r : Room) (d : Desc) : Option Grant :=
  let slots := ((List.range Config.slots).filter (fun k => k ∉ r.slots)).take d.sheaves
  if slots.length < d.sheaves ∨ 64 < r.tiles + d.tiles ∨ 256 < r.acc + d.acc then none
  else
    match placeSheaves d.width d.regs d.sheaves r.rows, r.hole d.bytes with
    | some (lanes, _), some b => some ⟨slots, lanes, if d.bytes = 0 then 0 else b⟩
    | _, _ => none

/-- The resources of a descriptor taken, where they fit. -/
def Room.take (r : Room) (d : Desc) : Option Room :=
  match r.grant d, placeSheaves d.width d.regs d.sheaves r.rows with
  | some g, some (_, rows) =>
    some ⟨g.slots ++ r.slots, rows, (g.base, d.bytes) :: r.used, r.tiles + d.tiles, r.acc + d.acc⟩
  | _, _ => none

/-- A workgroup holds its core's resources. -/
def Workgroup.resident (g : Workgroup) : Bool :=
  match g.stage with
  | .prologue | .primed | .running => true
  | _ => false

/-- Workgroups resident on a core. -/
def State.wgsOn (s : State) (c : Nat) : List (Nat × Workgroup) :=
  s.wgs.filter (fun p => p.2.resident && p.2.core == c)

/-- What resident work uses on a core. -/
def State.roomOf (s : State) (c : Nat) : Room :=
  let r := (s.sheaves.filter (fun p => coreOf p.1 = c)).foldl (fun r p => r.addSheaf (slotOf p.1) p.2) Room.empty
  (s.wgsOn c).foldl (fun r p => r.addWg p.2.base p.2.size p.2.tiles.length p.2.acc.length) r

/-- A reserved slot of a graph has a workgroup. -/
def State.slotBusy (s : State) (g i : Nat) : Bool :=
  s.wgs.any (fun p => p.2.graph == g && p.2.slot == some i && p.2.stage != .retired)

/-- The workgroup of a reserved slot stands on the core and holds the slot's resources. -/
def State.slotHeld (s : State) (g i : Nat) : Bool :=
  s.wgs.any (fun p => p.2.graph == g && p.2.slot == some i && p.2.resident)

/-- The reserved slots on a core whose resources no workgroup holds, except slot `mine` (R339, R384). -/
def State.reserved (s : State) (c : Nat) (mine : Option (Nat × Nat)) : List Desc :=
  s.graphs.flatMap (fun p => if p.2.stage = .admitted then
    (p.2.resv.mapIdx (fun i r => (i, r))).filterMap (fun q =>
      if q.2.1 = c ∧ !s.slotHeld p.1 q.1 ∧ mine ≠ some (p.1, q.1) then some q.2.2.2 else none) else [])

/-- The room that is left once reserved slots have taken theirs, and whether each of them found it. -/
def Room.reserve (r : Room) (l : List Desc) : Room × Bool :=
  l.foldl (fun acc e => match acc.1.take e with
    | some r => (r, acc.2)
    | none => (acc.1, false)) (r, true)

/-- The room of a core that no reserved slot but `mine` takes: another workgroup has none while some reserved slot has
still to find its own (R339, R362, R384). -/
def State.freeRoom (s : State) (c : Nat) (mine : Option (Nat × Nat)) : Option Room :=
  let (full, all) := (s.roomOf c).reserve (s.reserved c mine)
  if all || mine.isSome then some full else none

/-- The grant of a workgroup on a core, out of room that no other reserved slot takes (R339, R384); a fenced core admits
nothing (R462). -/
def State.grantOn (s : State) (c : Nat) (d : Desc) (mine : Option (Nat × Nat)) : Option Grant :=
  if (s.core c).fenced then none else (s.freeRoom c mine).bind (fun r => r.grant d)

/-- Contexts with work resident on a core. -/
def State.ctxsOn (s : State) (c : Nat) : List Nat := ((s.wgsOn c).map (·.2.ctx)).eraseDups

/-! ### Granting (R88, R90, R99, R115) -/

/-- A sheaf that has not started: its slot and rows are held, and it has no threads yet (R88). -/
def newSheaf (ctx w idx width : Nat) (at_ : Nat × List Nat) (regs : Nat) (gen : BitVec 24) (age : Nat) : Sheaf where
  ctx := ctx
  wg := w
  idx := idx
  width := width
  lane0 := at_.1
  rows := at_.2
  regs := regs
  gen := gen
  age := age
  flags := List.replicate 12 0
  tags := List.replicate 4 0
  cpoison := false
  s := List.replicate 48 0
  staint := 0
  token := false
  run := none
  stall := 0
  passed := false
  blocked := false
  issued := 0
  lead := 0
  streak := 0
  last := 0
  threads := []
  entry := none
  inHandler := false
  cause := 0
  fmask := 0
  fa := 0
  live := 0
  calls := []
  evicting := false

/-- A sheaf takes a slot: the slot's generation counts it, and it is the youngest of its core (R96, R99). -/
def State.seat (s : State) (c slot : Nat) (ctx w idx width : Nat) (at_ : Nat × List Nat) (regs : Nat) : State :=
  let k := s.core c
  let gen := (k.gens.get slot).getD 0 + 1
  let s := s.modCore c (fun k => { k with gens := k.gens.put slot gen, nextAge := k.nextAge + 1 })
  { s with sheaves := s.sheaves.put (c * 64 + slot) (newSheaf ctx w idx width at_ regs gen k.nextAge) }

/-- Virtual address of a core's slot among the saved format-table banks of a context (R439). -/
def Ctx.bankVa (c : Ctx) (core : Nat) : Nat := c.field 810 31 * 2 ^ 21 + 512 * core

/-- The format bank of a context leaves a core with the last workgroup of the context, into the save area's
slot of that core (R86, R439). -/
def State.saveBank (s : State) (c ctx : Nat) (bytes : List Byte) : State :=
  if ctx ∈ s.ctxsOn c then s
  else (((s.devStore ctx ((s.ctx ctx).bankVa c) bytes true none (some (baseOfCore c))).2.modCore c (fun k => { k with fmt := k.fmt.del ctx })).modCtx ctx
    (fun x => { x with banks := if c ∈ x.banks then x.banks else c :: x.banks }))

/-- A workgroup of a context arrives on a core: where none of the context is resident there, the bank in that core's slot
is restored; a slot that the device has never written holds the identity (R86).  DESIGN CHOICE (log 79): so does
one that cannot be read. -/
def State.arriveOn (s : State) (c ctx : Nat) : State :=
  if ctx ∈ s.ctxsOn c then s
  else if c ∉ (s.ctx ctx).banks then s.modCore c (fun k => { k with fmt := k.fmt.del ctx })
  else
    let (r, s) := s.devLoad ctx ((s.ctx ctx).bankVa c) 512 true none (some (baseOfCore c))
    let bank := match r with
      | .ok (bs, _) => bankOf bs
      | .error _ => []
    s.modCore c (fun k => { k with fmt := if bank = [] then k.fmt.del ctx else k.fmt.put ctx bank })

/-- A workgroup's resources are granted and zeroed (R88, R158, R168, R201, R241). -/
def State.admitWg (s : State) (w c : Nat) (g : Grant) (bindings : List Nat) : State :=
  let q := s.wg w
  let d := q.desc
  let since := (s.core c).nextAge
  let s := s.arriveOn c q.ctx
  let s := s.modWg w (fun q => { q with
    stage := .prologue
    core := c
    base := g.base
    size := d.bytes
    scratch := []
    tiles := List.replicate d.tiles default
    thr := List.replicate d.thresh (List.replicate 6 0)
    acc := List.replicate d.acc default
    bindings := bindings
    slots := g.slots.map (fun k => c * 64 + k)
    since := since })
  each ((g.slots.zip g.lanes).mapIdx (fun i p => (i, p))) (fun p s =>
    s.seat c p.2.1 q.ctx w p.1 d.width p.2.2 d.regs) s

/-- A thread at its start (R90).  DESIGN CHOICE (log 3): `sr.xmask0` and `sr.xmask1` read 0 before the thread's
first waiting cross-lane instruction. -/
def Thread.start (entry : BitVec 64) (regs : Nat) : Thread where
  st := .ready
  pc := entry
  word := none
  v := List.replicate regs 0
  taint := 0
  ast := 0
  mst := 0
  xmask := 0
  tbhi := 0
  epc := 0
  mid := none
  ks := [0, 0, 0, 0]
  priv := false
  raster := none
  hit := none
  wait := none
  closed := 0
  stood := none

end Sys2Proof.Machine
end

