-- ==== Sys2Proof/Machine/Trail.lean ====
section
/-! DEFINITION. SHA-256, the measurement registers and the timestamp trail (R457, R460). -/

namespace Sys2Proof.Machine

/-! ### SHA-256 (FIPS 180-4, which R460 names) -/

/-- The round constants. -/
def shaK : List Word :=
  [0x428A2F98, 0x71374491, 0xB5C0FBCF, 0xE9B5DBA5, 0x3956C25B, 0x59F111F1, 0x923F82A4, 0xAB1C5ED5] ++
  [0xD807AA98, 0x12835B01, 0x243185BE, 0x550C7DC3, 0x72BE5D74, 0x80DEB1FE, 0x9BDC06A7, 0xC19BF174] ++
  [0xE49B69C1, 0xEFBE4786, 0x0FC19DC6, 0x240CA1CC, 0x2DE92C6F, 0x4A7484AA, 0x5CB0A9DC, 0x76F988DA] ++
  [0x983E5152, 0xA831C66D, 0xB00327C8, 0xBF597FC7, 0xC6E00BF3, 0xD5A79147, 0x06CA6351, 0x14292967] ++
  [0x27B70A85, 0x2E1B2138, 0x4D2C6DFC, 0x53380D13, 0x650A7354, 0x766A0ABB, 0x81C2C92E, 0x92722C85] ++
  [0xA2BFE8A1, 0xA81A664B, 0xC24B8B70, 0xC76C51A3, 0xD192E819, 0xD6990624, 0xF40E3585, 0x106AA070] ++
  [0x19A4C116, 0x1E376C08, 0x2748774C, 0x34B0BCB5, 0x391C0CB3, 0x4ED8AA4A, 0x5B9CCA4F, 0x682E6FF3] ++
  [0x748F82EE, 0x78A5636F, 0x84C87814, 0x8CC70208, 0x90BEFFFA, 0xA4506CEB, 0xBEF9A3F7, 0xC67178F2]

/-- The initial hash value. -/
def shaInit : List Word :=
  [0x6A09E667, 0xBB67AE85, 0x3C6EF372, 0xA54FF53A, 0x510E527F, 0x9B05688C, 0x1F83D9AB, 0x5BE0CD19]

/-- The choice function. -/
def shaCh (x y z : Word) : Word := (x &&& y) ^^^ (~~~x &&& z)

/-- The majority function. -/
def shaMaj (x y z : Word) : Word := (x &&& y) ^^^ (x &&& z) ^^^ (y &&& z)

/-- The message schedule extended by `n` words; `w` holds the last 16 words, the newest first. -/
def shaExtend : Nat → List Word → List Word
  | 0, _ => []
  | n + 1, w =>
    let a := w.getD 1 0
    let b := w.getD 14 0
    let s1 := a.rotateRight 17 ^^^ a.rotateRight 19 ^^^ (a >>> 10)
    let s0 := b.rotateRight 7 ^^^ b.rotateRight 18 ^^^ (b >>> 3)
    let x := w.getD 15 0 + s0 + w.getD 6 0 + s1
    x :: shaExtend n (x :: w.take 15)

/-- One round on the eight working variables. -/
def shaRound (v : List Word) (kw : Word × Word) : List Word :=
  let g (i : Nat) : Word := v.getD i 0
  let s1 := (g 4).rotateRight 6 ^^^ (g 4).rotateRight 11 ^^^ (g 4).rotateRight 25
  let t1 := g 7 + s1 + shaCh (g 4) (g 5) (g 6) + kw.1 + kw.2
  let s0 := (g 0).rotateRight 2 ^^^ (g 0).rotateRight 13 ^^^ (g 0).rotateRight 22
  [t1 + s0 + shaMaj (g 0) (g 1) (g 2), g 0, g 1, g 2, g 3 + t1, g 4, g 5, g 6]

/-- A big-endian word. -/
def beWord (l : List Byte) : Word := BitVec.ofNat 32 (leNat l.reverse)

/-- The hash value after one block of 64 bytes. -/
def shaBlock (h : List Word) (bs : List Byte) : List Word :=
  let m := (List.range 16).map (fun i => beWord ((bs.drop (4 * i)).take 4))
  let w := m ++ shaExtend 48 m.reverse
  let v := (shaK.zip w).foldl shaRound h
  List.zipWith (· + ·) h v

/-- The padded message. -/
def shaPad (bs : List Byte) : List Byte :=
  let n := bs.length
  bs ++ [0x80] ++ List.replicate ((55 + 64 - n % 64) % 64) 0 ++ (natBytes 8 (8 * n)).reverse

/-- Blocks, one after the other. -/
def shaBlocks : Nat → List Word → List Byte → List Word
  | 0, h, _ => h
  | n + 1, h, bs => shaBlocks n (shaBlock h (bs.take 64)) (bs.drop 64)

/-- SHA-256 of a byte string. -/
def sha256 (bs : List Byte) : List Byte :=
  let p := shaPad bs
  (shaBlocks (p.length / 64) shaInit p).flatMap (fun w => (natBytes 4 w.toNat).reverse)

/-- A 32-byte register from its bytes. -/
def reg256 (bs : List Byte) : BitVec 256 := BitVec.ofNat 256 (leNat bs)

/-- Extension of a measurement register (R460). -/
def measure (m : BitVec 256) (bs : List Byte) : BitVec 256 := reg256 (sha256 (natBytes 32 m.toNat ++ bs))

/-! ### The trail (R457) -/

/-- What a trail record says. -/
structure TrailInfo where
  event : Nat
  graph : Nat := 0
  pass : Nat := 0
  ctx : Nat := 0
  arg : Nat := 0
  time : Option Nat := none
  deriving DecidableEq, Repr, Inhabited

/-- The 32 bytes of a trail record (R457). -/
def trailBytes (now : Nat) (i : TrailInfo) : List Byte :=
  natBytes 32 (cat [(i.time.getD now, 64), (i.graph / 64, 46), (i.pass, 8), (i.ctx, 32), (i.arg, 32), (0, 66), (i.event, 8)])

/-- Records that the trail ring holds (R449). -/
def Regs.trailSize (r : Regs) : Nat := 2 ^ (bits r.trail.toNat 0 4 + 7)

/-- Physical address of trail record `n` (R449, R457). -/
def Regs.trailPa (r : Regs) (n : Nat) : Nat := bits r.trail.toNat 12 36 * 4096 + 32 * (n % r.trailSize)

/-- TRAIL_RECORD_WRITE (R457, R460): a record is written and hashed, or dropped where the ring is full; nothing
is stored to poison or where there is no memory (log 50, log 62). -/
def State.trail (s : State) (i : TrailInfo) : State :=
  let r := s.regs
  if (r.trailwr - r.trailrd).toNat = r.trailSize then
    (s.modRegs (fun r => { r with traillost := r.traillost + 1 })).interrupt 7
  else
    let bs := trailBytes s.now i
    let a := r.trailPa r.trailwr.toNat
    let s := if s.inGddr a 32 ∧ !s.poisoned a 32 then s.poke a bs else s
    s.modRegs (fun r => { r with
      trailwr := r.trailwr + 1
      trailhash := measure r.trailhash bs })

end Sys2Proof.Machine
end

