-- ==== Sys2Proof/Machine/RingStore.lean ====
section
/-! DEFINITION. The ring store's array, its map, errors, rotation and remapping, and the tiles of
transient rings (R318 to R335). -/

namespace Sys2Proof.Machine

/-! ### The array (R318 to R320, R323, R326) -/

/-- A byte of the array: physical bank and offset. -/
def ringKey (bank off : Nat) : Nat := bank * 2 ^ 26 + off

/-- The physical bank and offset of a logical address (R320). -/
def RingStore.place (r : RingStore) (la : Nat) : Nat × Nat :=
  let g := la / 4096
  (r.map.getD (g % r.map.length) 0, g / r.map.length * 4096 + la % 4096)

/-- A number one greater, up to the greatest of `n` bits. -/
def satUp (n x : Nat) : Nat := min (x + 1) (2 ^ n - 1)

/-- An array-log entry of KIND `kind` (R328). -/
def RingStore.log (r : RingStore) (now kind bank cw sym : Nat) : RingStore :=
  let key := bank * 2 ^ 20 + cw
  let n := (r.seen.get key).getD 0
  let e : LogEntry := BitVec.ofNat 128 (cat [(now, 64), (kind, 2), (0, 6), (bank, 8), (cw, 20), (sym, 8),
    (min n 15, 4), (0, 16)])
  let l := if r.alog = [] then List.replicate 64 0 else r.alog
  { r with
    alog := l.set r.anext.toNat e
    anext := r.anext + 1
    seen := r.seen.put key (n + 1)
    acorr := if kind = 0 then BitVec.ofNat 32 (satUp 32 r.acorr.toNat) else r.acorr
    aunc := if kind = 1 then BitVec.ofNat 16 (satUp 16 r.aunc.toNat) else r.aunc }

/-- The access counts at time `now`: with a new 4 ms a new count begins (R325). -/
def RingStore.roll (r : RingStore) (now : Nat) : RingStore :=
  let w := now / 4000000
  if r.window = w then r
  else { r with
    past := if r.window + 1 = w then r.counts else []
    counts := []
    window := w }

/-- An access to a bank is counted for the rotation (R325). -/
def RingStore.count (r : RingStore) (now bank : Nat) : RingStore :=
  let r := r.roll now
  { r with counts := r.counts.put bank ((r.counts.get bank).getD 0 + 1) }

/-- A codeword that is read with a faulty symbol is corrected, written back and logged (R326). -/
def RingStore.correct (r : RingStore) (now key : Nat) : RingStore :=
  match r.soft.get key with
  | none => r
  | some sym => { r.log now 0 (key / 2 ^ 20) (key % 2 ^ 20) sym with soft := r.soft.del key }

/-- What a read of the array delivers: bytes, whether they are poison, and the first fault met: its code and
logical address. -/
structure Fetch where
  bytes : List Byte
  poison : Bool
  fault : Option (Nat × Nat)
  deriving DecidableEq, Repr, Inhabited

/-- One codeword's part of a read (R323, R326). -/
def State.ringPiece (s : State) (d : Nat) (la n : Nat) : Fetch × State :=
  let r := (s.base d).ring
  let (b, o) := r.place la
  let s := s.modRing d (fun r => r.count s.now b)
  let undef := (List.range n).map (fun i => Config.freeByte (s.free * 2 ^ 48 + la + i))
  if r.lost.getLsbD b then
    (⟨undef, true, some (0x13, la)⟩,
     { s.modRing d (fun r => r.log s.now 3 b (o / 64) 255) with free := s.free + 1 })
  else if (b * 2 ^ 20 + o / 64) ∈ r.bad then
    let (sym, s) := { s with free := s.free + 1 }.pick 144
    (⟨undef, true, some (0x11, la)⟩, s.modRing d (fun r => r.log s.now 1 b (o / 64) sym))
  else (⟨r.bytes.readN (ringKey b o) n, false, none⟩, s.modRing d (fun r => r.correct s.now (b * 2 ^ 20 + o / 64)))

/-- `n` bytes read at a logical address. -/
def State.ringRead (s : State) (d la n : Nat) : Fetch × State :=
  (pieces 64 la n).foldl (fun (acc : Fetch × State) p =>
    let (f, s) := acc.2.ringPiece d (p.1 + p.2.1) p.2.2.2
    (⟨acc.1.bytes ++ f.bytes, acc.1.poison || f.poison, acc.1.fault.or f.fault⟩, s)) (⟨[], false, none⟩, s)

/-- Bytes written at a logical address: those of a lost bank are dropped and logged (R323). -/
def State.ringWrite (s : State) (d la : Nat) (bs : List Byte) : State :=
  each (pieces 64 la bs.length) (fun p s => s.modRing d (fun r =>
    let (b, o) := r.place (p.1 + p.2.1)
    let r := r.count s.now b
    if r.lost.getLsbD b then r.log s.now 2 b (o / 64) 255
    else { r with
      bytes := r.bytes.writeN (ringKey b o) ((bs.drop p.2.2.1).take p.2.2.2)
      soft := r.soft.del (b * 2 ^ 20 + o / 64)
      bad := r.bad.filter (fun k => k ≠ b * 2 ^ 20 + o / 64) })) s

/-- A bank is lost: the bit, the interrupt, and the end of a rotation that uses it (R323, R325). -/
def State.loseBank (s : State) (d b : Nat) : State :=
  (s.modRing d (fun r => { r with
    lost := r.lost ||| BitVec.ofNat 256 (2 ^ b)
    rotating := if r.rotating = some b ∨ r.spare = b then none else r.rotating })).interrupt 3

/-- BANK_LOST (R323): a bank stops answering. -/
def execBankLost (d b : Nat) (s : State) : Host.Outcome State Fault Refusal :=
  .next (if b < 256 ∧ d < 2 ∧ (s.base d).ring.avail.getLsbD b then s.loseBank d b else s)

/-- THERMAL_RETIREMENT_REQUEST (R324): the interrupt names the bank until a remapping step removes it. -/
def execThermalRetirementRequest (d b : Nat) (s : State) : Host.Outcome State Fault Refusal :=
  .next (if d < 2 ∧ (s.base d).ring.avail.getLsbD b then
      (s.modRing d (fun r => { r with thermal := r.thermal ||| BitVec.ofNat 256 (2 ^ b) })).interrupt 2
    else s)

/-- A codeword goes bad: its next read corrects symbol `sym`, or finds it uncorrectable (R326). -/
def State.ringError (s : State) (d b cw sym : Nat) (unc : Bool) : State :=
  let k := b * 2 ^ 20 + cw
  s.modRing d (fun r =>
    if unc then { r with bad := if k ∈ r.bad then r.bad else k :: r.bad, soft := r.soft.del k }
    else if k ∈ r.bad then r else { r with soft := r.soft.put k sym })

/-- Power of a layer: the controller does not let it be removed while the layer holds an available bank (R322). -/
def State.layerPower (s : State) (d l : Nat) (on : Bool) : State :=
  s.modRing d (fun r =>
    if on then { r with off := r.off &&& ~~~ BitVec.ofNat 8 (2 ^ l) }
    else if (List.range 32).any (fun b => r.avail.getLsbD (32 * l + b)) then r
    else { r with off := r.off ||| BitVec.ofNat 8 (2 ^ l) })

/-- TRANSFER_PARITY_RETRY (R327): `tries` retries; where all four of them have failed, a diagnosis that finds `lanes` failing
(1024 times their number plus the lowest), their swap to spares and `tries2` retries, 5 standing for four that all
failed; 0 where the first round held, or the spares do not suffice. -/
def execTransferParityRetry (d ch group tries tries2 lanes : Nat) (s : State) : Host.Outcome State Fault Refusal :=
  .next (
    let r := (s.base d).ring
    let (failed, used) := (r.swap.get ch).getD (false, 0)
    let n := lanes / 1024
    let held : Bool := n == 0 && tries2 == 0
    let lack : Bool := decide (4 < used + n)
    if 2 ≤ d ∨ 32 ≤ ch ∨ failed ∨ 18 ≤ group ∨ tries = 0 ∨ 4 < tries ∨ 5 < tries2 ∨ (0 < n ∧ 594 < lanes % 1024 + n) ∨
      (!held ∧ (tries ≠ 4 ∨ lack ≠ (tries2 == 0))) then s
    else
      let swapped : Bool := decide (0 < n) && !lack
      let t2 := min tries2 4
      let outcome := if held then 0 else if lack ∨ tries2 = 5 then 2 else 1
      let e : LogEntry := BitVec.ofNat 128 (cat [(s.now, 64), (ch, 5), (group, 5), (tries, 3), (t2, 3), (outcome, 2),
        (if swapped then lanes % 1024 else 0x3FF, 10), (0, 36)])
      let l := if r.blog = [] then List.replicate 64 0 else r.blog
      let s := s.modRing d (fun r => { r with
        blog := l.set r.bnext.toNat e
        bnext := r.bnext + 1
        bretry := BitVec.ofNat 32 (min (r.bretry.toNat + tries + t2) (2 ^ 32 - 1))
        swap := r.swap.put ch (decide (outcome = 2), if swapped then used + n else used) })
      if outcome = 2 then each (List.range 8) (fun k s => s.loseBank d (32 * k + ch)) s else s)

/-! ### Rotation (R325) -/

/-- The logical bank with the most accesses in the 4 ms before the present ones, the lower physical number at a tie,
lost ones apart. -/
def RingStore.busiest (r : RingStore) : Option Nat :=
  let n (b : Nat) : Nat := (r.past.get b).getD 0
  (r.map.filter (fun b => !r.lost.getLsbD b)).foldl (fun (o : Option Nat) b =>
    match o with
    | none => some b
    | some a => if n a < n b ∨ (n a = n b ∧ b < a) then some b else some a) none

/-- BANK_ROTATION (R325): every 4 ms the busiest bank starts to be copied to the spare. -/
def execBankRotation (d : Nat) (s : State) : Host.Outcome State Fault Refusal :=
  .next (
    let r := (s.base d).ring
    if 2 ≤ d ∨ s.now < r.nextRot then s
    else s.modRing d (fun r =>
      let r := r.roll s.now
      { r with
        rotating := if !r.rot ∨ r.busy ∨ r.lost.getLsbD r.spare then r.rotating else r.rotating.or r.busiest
        nextRot := 4000000 * (s.now / 4000000 + 1) }))

/-- One bank's bytes moved to another. -/
def moveBank (m : Memory) (a b : Nat) : Memory :=
  each (m.filter (fun c => c.1 / 2 ^ 26 = a)) (fun c m => m.write (ringKey b (c.1 % 2 ^ 26)) c.2)
    (m.filter (fun c => c.1 / 2 ^ 26 ≠ a ∧ c.1 / 2 ^ 26 ≠ b))

/-- A copy of the controller reads codeword `k` of a bank that is not lost: a faulty symbol is corrected, and an uncorrectable
codeword is logged and copied as it is, its fault left to the delivery of its poison (R326, R342; DEDUCED, log 80). -/
def State.readWord (s : State) (d k : Nat) : State :=
  let r := (s.base d).ring
  if r.lost.getLsbD (k / 2 ^ 20) then s
  else if k ∈ r.bad then
    let (sym, s) := { s with free := s.free + 1 }.pick 144
    s.modRing d (fun r => r.log s.now 1 (k / 2 ^ 20) (k % 2 ^ 20) sym)
  else s.modRing d (fun r => r.correct s.now k)

/-- A copy of the controller reads the codewords that satisfy `p`: only those in error show it (R326). -/
def State.readWords (s : State) (d : Nat) (p : Nat → Bool) : State :=
  let r := (s.base d).ring
  each ((r.soft.map (·.1) ++ r.bad).filter p) (fun k s => s.readWord d k) s

/-- ROTATION_COPY_END (R325): the map switches to the spare, and the old bank becomes the spare. -/
def execRotationCopyEnd (d : Nat) (s : State) : Host.Outcome State Fault Refusal :=
  .next (match (s.base d).ring.rotating with
    | none => s
    | some b => (s.readWords d (fun k => k / 2 ^ 20 == b)).modRing d (fun r =>
        { r with
          bytes := moveBank r.bytes b r.spare
          bad := (r.bad.filter (fun k => k / 2 ^ 20 ≠ r.spare)).map (fun k =>
            if k / 2 ^ 20 = b then r.spare * 2 ^ 20 + k % 2 ^ 20 else k)
          soft := r.soft.filter (fun k => k.1 / 2 ^ 20 ≠ r.spare)
          map := r.map.map (fun x => if x = b then r.spare else x)
          spare := b
          rotating := none }))

/-! ### Stencils (R350, R351) -/

/-- The centre of a stencil for consumer tile (x, y). -/
def Stencil.centre (st : Stencil) (x y : Nat) : Nat × Nat :=
  if st.form = 1 then (x * st.nx / st.dx, y * st.ny / st.dy) else (x, y)

/-- The positions of a stencil of FORM 0 or 1, in ascending order of their mask bits. -/
def Stencil.spots (st : Stencil) (x y : Nat) : List (Int × Int) :=
  let c := st.centre x y
  ((List.range 49).filter (fun k => st.mask.getLsbD k)).map (fun k =>
    ((c.1 : Int) + (k % 7 : Nat) - 3, (c.2 : Int) + (k / 7 : Nat) - 3))

/-- The tile at a position of a resource; none where it is clipped (R351). -/
def Resource.at_ (r : Resource) (p : Int × Int) : Option Nat :=
  if 0 ≤ p.1 ∧ p.1 < r.w ∧ 0 ≤ p.2 ∧ p.2 < r.h then some (p.2.toNat * r.w + p.1.toNat) else none

/-- What a stencil names of a resource for consumer tile (x, y): one entry a position (R350). -/
def Stencil.tiles (st : Stencil) (r : Resource) (x y : Nat) : List (Option Nat) :=
  match st.form with
  | 2 => (List.range (r.w * r.h)).map some
  | 3 => []
  | _ => (st.spots x y).map r.at_

/-! ### Parts of a graph -/

/-- A pass. -/
def Graph.pass (g : Graph) (p : Nat) : Pass := g.passes.getD p default
/-- A resource. -/
def Graph.res (g : Graph) (r : Nat) : Resource := g.ress.getD r default
/-- A stencil. -/
def Graph.sten (g : Graph) (k : Nat) : Stencil := g.stens.getD k default
/-- A recipe. -/
def Graph.recipe (g : Graph) (k : Nat) : Recipe := g.recipes.getD k default
/-- The edges of a pass. -/
def Graph.edgesOf (g : Graph) (p : Nat) : List Edge := (g.edges.drop (g.pass p).efirst).take (g.pass p).ecount
/-- The IN edges of a pass. -/
def Graph.ins (g : Graph) (p : Nat) : List Edge := (g.edgesOf p).filter (fun e => e.dir = 0)
/-- The OUT edges of a pass. -/
def Graph.outs (g : Graph) (p : Nat) : List Edge := (g.edgesOf p).filter (fun e => e.dir = 1)
/-- Tiles of a pass. -/
def Pass.count (p : Pass) : Nat := p.w * p.h
/-- The tiles of a resource that an IN edge names for a consumer tile, clipped positions left out. -/
def Graph.edgeTiles (g : Graph) (p t : Nat) (e : Edge) : List Nat :=
  let w := (g.pass p).w
  ((g.sten e.sten).tiles (g.res e.res) (t % w) (t / w)).filterMap id
/-- The tiles of resource `r` that tile `t` of pass `p` reads, each once (R331). -/
def Graph.reads (g : Graph) (p t r : Nat) : List Nat :=
  (((g.ins p).filter (fun e => e.res = r)).flatMap (g.edgeTiles p t)).eraseDups
/-- A resource is rematerialisable: a transient one of POLICY 2 (R329, R336). -/
def Resource.remat (r : Resource) : Bool := r.cls == 1 && r.policy == 2
/-- The recipe of a rematerialisable resource (R336). -/
def Graph.recipeOf (g : Graph) (r : Nat) : Option Nat :=
  if (g.res r).remat then g.recipes.findIdx? (fun c => c.target = r) else none
/-- The source tiles of a recipe for target tile `t`, clipped positions left out (R336, R338). -/
def Graph.sources (g : Graph) (k t : Nat) : List (Nat × Nat) :=
  let c := g.recipe k
  let w := (g.res c.target).w
  (c.srcs.flatMap (fun q => (((g.sten q.2).tiles (g.res q.1) (t % w) (t / w)).filterMap id).map (fun i => (q.1, i)))).eraseDups

/-! ### Ring tiles (R331 to R334) -/

/-- The code of a ring state (R332). -/
def RingState.code : RingState → Nat
  | .pending => 0
  | .writing => 1
  | .resident => 2
  | .overflowed => 3
  | .dropped => 4
  | .rematerialising => 5
  | .free => 6
  | .unwritten => 7

/-- A tile of a transient resource. -/
def Graph.ringTile (g : Graph) (r i : Nat) : RingTile :=
  (((g.rings.get r).getD []).get i).getD ⟨.pending, 0, 0, none⟩

/-- A tile of a transient resource changed. -/
def Graph.modRing (g : Graph) (r i : Nat) (f : RingTile → RingTile) : Graph :=
  { g with rings := g.rings.put r (Tab.put ((g.rings.get r).getD []) i (f (g.ringTile r i))) }

/-- A tile is pinned: a fill of it is in progress, or a recipe holds it as a source (R332). -/
def Graph.pinned (g : Graph) (r i : Nat) : Bool :=
  let t := g.ringTile r i
  (t.st == .resident || t.st == .overflowed) &&
  (g.fills.any (fun f => f.2.res == r && f.2.idx == i) || g.chains.any (fun c => decide ((r, i) ∈ c.2.pinned)))

/-- The tile that occupies slot `k` of a ring (R330, R333). -/
def Graph.occupant (g : Graph) (r k : Nat) : Option Nat :=
  (((g.rings.get r).getD []).find? (fun p => p.1 % (g.res r).slots == k && (match p.2.st with
    | .writing | .resident => p.2.entry.isNone
    | .rematerialising => g.chains.any (fun c => c.2.slot && (g.recipe c.2.recipe).target == r && c.2.tile == p.1)
    | _ => false))).map (·.1)

/-- The lowest free overflow entry of a ring (R330). -/
def Graph.freeEntry (g : Graph) (r : Nat) : Option Nat :=
  let used := ((g.rings.get r).getD []).filterMap (fun p => p.2.entry)
  (List.range (min (g.res r).ovfn (used.length + 1))).find? (fun e => e ∉ used)

/-- Slot or overflow entry for producer tile `i` of a ring; none where the tile is held (R333, R334). -/
def Graph.reserve1 (g : Graph) (r i : Nat) : Option Graph :=
  let q := g.res r
  let k := i % q.slots
  let write (g : Graph) (e : Option Nat) : Graph := g.modRing r i (fun t => { t with st := .writing, entry := e })
  match g.occupant r k with
  | none => some (write g none)
  | some o =>
    if q.policy = 2 ∧ (g.ringTile r o).st = .resident ∧ !g.pinned r o then
      some (write (g.modRing r o (fun t => { t with st := .dropped })) none)
    else if q.policy = 1 then (g.freeEntry r).map (fun e => write g (some e))
    else none

/-- Every output of a tile reserved, or nothing (R333, R356). -/
def Graph.reserve (g : Graph) (p t : Nat) : Option Graph :=
  (g.outs p).foldl (fun (o : Option Graph) e => o.bind (fun g =>
    if (g.res e.res).cls = 1 then g.reserve1 e.res t else some g)) (some g)

/-- A tile that nobody reads any more and that is not pinned becomes free, a dropped one too, and the holds
that a rematerialisable one has on its sources fall (R331, R332, R333). -/
def Graph.settle : Nat → Nat → Nat → Graph → Graph
  | 0, _, _, g => g
  | n + 1, r, i, g =>
    let t := g.ringTile r i
    if (t.st = .resident ∨ t.st = .overflowed ∨ t.st = .dropped) ∧ t.c = 0 ∧ t.h = 0 ∧ !g.pinned r i then
      let g := g.modRing r i (fun t => { t with st := .free, entry := none })
      match g.recipeOf r with
      | none => g
      | some k => (g.sources k i).foldl (fun g p =>
          Graph.settle n p.1 p.2 (g.modRing p.1 p.2 (fun t => { t with h := t.h - 1 }))) g
    else g

/-- The steps that a chain of holds can take. -/
def settleFuel : Nat := 1024

/-- A read of a tile ends (R331). -/
def Graph.endRead (g : Graph) (r i : Nat) : Graph :=
  Graph.settle settleFuel r i (g.modRing r i (fun t => { t with c := t.c - 1 }))

/-- A tile whose drain is complete (R333). -/
def Graph.drained (g : Graph) (r i : Nat) : Graph :=
  Graph.settle settleFuel r i (g.modRing r i (fun t =>
    { t with st := if t.entry.isSome then .overflowed else .resident }))

/-- A tile that its producer has not drained: its reservation is released (R333). -/
def Graph.unwrite (g : Graph) (r i : Nat) : Graph :=
  g.modRing r i (fun t => { t with st := .unwritten, entry := none })

/-- The tables of R331 with every tile pending. -/
def Graph.freshRings (g : Graph) : Graph :=
  let up (c : Bool) (g : Graph) (r i : Nat) : Graph :=
    if (g.res r).cls = 1 then
      g.modRing r i (fun t => if c then { t with c := t.c + 1 } else { t with h := t.h + 1 })
    else g
  let g := (List.range g.passes.length).foldl (fun g p =>
    (List.range (g.pass p).count).foldl (fun g t =>
      (((g.ins p).map (·.res)).eraseDups).foldl (fun g r =>
        (g.reads p t r).foldl (fun g i => up true g r i) g) g) g) { g with rings := [] }
  ((List.range g.recipes.length).filter (fun k => (g.res (g.recipe k).target).remat)).foldl (fun g k =>
    (List.range ((g.res (g.recipe k).target).w * (g.res (g.recipe k).target).h)).foldl (fun g t =>
      (g.sources k t).foldl (fun g p => up false g p.1 p.2) g) g) g

/-! ### Where a ring tile's bytes stand (R330) -/

/-- The shape of a resource's tiles (R348). -/
def Resource.shape (r : Resource) : Tile :=
  { (default : Tile) with
    rows := r.tshape.extractLsb' 24 8
    cols := r.tshape.extractLsb' 14 10
    pitch := r.tshape.extractLsb' 2 12
    fmt := BitVec.ofNat 5 r.fmt
    dom := r.dom }

/-- Bytes of a tile's survivor mask: a spatial tile has none (R244). -/
def Tile.maskLen (t : Tile) : Nat := if tagAxis t.dom = 0 then 0 else t.maskB

/-- Bytes of a tile's image in a slot: its bytes, and its survivor mask at the next 16-byte boundary. -/
def Tile.imageB (t : Tile) : Nat := if t.maskLen = 0 then t.sizeB else up16 t.sizeB + t.maskLen

/-- PEND of a fill: the tile's bytes plus its mask bytes (R170, R366). -/
def Tile.fillB (t : Tile) : Nat := t.sizeB + t.maskLen

/-- A staging tile's image. -/
def State.tileImage (s : State) (w : Nat) (t : Tile) : List Byte :=
  let m := (s.wg w).scratch
  m.readN t.off t.sizeB ++
    (if t.maskLen = 0 then [] else List.replicate (up16 t.sizeB - t.sizeB) 0 ++ m.readN t.maskOff t.maskLen)

/-- A tile's image landed in a staging tile. -/
def State.landImage (s : State) (w : Nat) (t : Tile) (bs : List Byte) : State :=
  s.modScratch w (fun m =>
    let m := m.writeN t.off (bs.take t.sizeB)
    if t.maskLen = 0 then m else m.writeN t.maskOff ((bs.drop (up16 t.sizeB)).take t.maskLen))

/-- The logical address of a ring's extent. -/
def State.extentLa (s : State) (g r : Nat) : Nat :=
  (((s.base ((s.graph g).res r).die).ring.extents.find? (fun e => e.graph = g && e.res = r)).map (·.la)).getD 0

/-- The logical address of a tile's slot (R330). -/
def State.slotLa (s : State) (g r i : Nat) : Nat :=
  let q := (s.graph g).res r
  s.extentLa g r + i % q.slots * q.slotb

/-- The virtual address of an overflow entry (R330). -/
def Resource.entryVa (r : Resource) (e : Nat) : Nat := r.ovfva * 65536 + e * r.slotb

/-- A ring tile's image read; an overflow access that fails answers its sub-code and address. -/
def State.readRing (s : State) (g r i : Nat) : Except (Nat × Nat) (Fetch × State) :=
  let gr := s.graph g
  let q := gr.res r
  let n := q.shape.imageB
  match (gr.ringTile r i).entry with
  | none => .ok (s.ringRead q.die (s.slotLa g r i) n)
  | some e =>
    match s.devLoad gr.ctx (q.entryVa e) n false none (some q.die) with
    | (.ok (bs, po), s) => .ok (⟨bs, po, if po then some (0x11, q.entryVa e) else none⟩, s)
    | (.error k, _) => .error k

/-- A ring tile's image written. -/
def State.writeRing (s : State) (g r i : Nat) (bs : List Byte) : Except (Nat × Nat) State :=
  let gr := s.graph g
  let q := gr.res r
  match (gr.ringTile r i).entry with
  | none => .ok (s.ringWrite q.die (s.slotLa g r i) bs)
  | some e =>
    match s.devStore gr.ctx (q.entryVa e) bs false none (some q.die) with
    | (.ok _, s) => .ok s
    | (.error k, _) => .error k

/-! ### Extents and remapping (R321, R322, R330) -/

/-- Bytes of a ring's extent. -/
def Resource.extentB (r : Resource) : Nat := r.slots * r.slotb

/-- The lowest free range of `n` logical bytes below `cap`. -/
def holeIn (l : List Extent) (cap n : Nat) : Option Nat :=
  let free (b : Nat) : Bool := decide (b + n ≤ cap) && l.all (fun e => decide (b + n ≤ e.la ∨ e.la + e.bytes ≤ b))
  ((0 :: l.map (fun e => e.la + e.bytes)).filter free).foldl (fun (b : Option Nat) x => match b with
    | none => some x
    | some y => some (min x y)) none

/-- Extents moved together, in their order. -/
def packExtents : Nat → List Extent → List Extent
  | _, [] => []
  | la, e :: l => { e with la := la } :: packExtents (la + e.bytes) l

/-- The logical address of an offset of a physical bank; none in one that the map does not name (R320). -/
def RingStore.logical (r : RingStore) (bank off : Nat) : Option Nat :=
  (r.map.findIdx? (fun b => b = bank)).map (fun l => (off / 4096 * r.map.length + l) * 4096 + off % 4096)

/-- Where a logical address of the extents `old` stands when they stand as `new`. -/
def shiftIn (old new : List Extent) (la : Nat) : Option Nat :=
  ((old.zip new).find? (fun p => decide (p.1.la ≤ la ∧ la < p.1.la + p.1.bytes))).map (fun p => p.2.la + (la - p.1.la))

/-- The controller under a new map and with its extents moved: every byte of an extent, and every codeword in error, stands
at its new place (R322, R330). -/
def RingStore.relocate (r : RingStore) (map : List Nat) (l : List Extent) : RingStore :=
  let r' : RingStore := { r with map := map, extents := l }
  let at_ (bank off : Nat) : Option (Nat × Nat) := ((r.logical bank off).bind (shiftIn r.extents l)).map r'.place
  let word (k : Nat) : Option Nat := (at_ (k / 2 ^ 20) (k % 2 ^ 20 * 64)).map (fun x => x.1 * 2 ^ 20 + x.2 / 64)
  { r' with
    bytes := each r.bytes (fun c m => match at_ (c.1 / 2 ^ 26) (c.1 % 2 ^ 26) with
      | some x => m.write (ringKey x.1 x.2) c.2
      | none => m) []
    bad := r.bad.filterMap word
    soft := r.soft.filterMap (fun k => (word k.1).map (fun x => (x, k.2))) }

/-- Some of `n` bytes at a logical address, in whole granules, stand in a lost bank (R320, R323). -/
def RingStore.lostIn (r : RingStore) (la n : Nat) : Bool :=
  (List.range (min (n / 4096) r.map.length)).any (fun k => r.lost.getLsbD (r.place (la + 4096 * k)).1)

/-- Extents can move as `l` says without a byte out of or into a lost bank.  DESIGN CHOICE (log 95): where they
cannot, a relocation that frees a range waits for the remapping step that removes the bank. -/
def RingStore.movable (r : RingStore) (l : List Extent) : Bool :=
  (r.extents.zip l).all (fun p => p.1.la == p.2.la || !(r.lostIn p.1.la p.1.bytes || r.lostIn p.2.la p.2.bytes))

/-- A codeword of the array is one of a resident tile, which a relocation to `l` moves, or which a new map does. -/
def State.carries (s : State) (d : Nat) (l : List Extent) (map : Bool) (k : Nat) : Bool :=
  let r := (s.base d).ring
  match r.logical (k / 2 ^ 20) (k % 2 ^ 20 * 64) with
  | none => false
  | some la => (r.extents.zip l).any (fun p => (map || p.1.la != p.2.la) &&
      (((s.graph p.1.graph).rings.get p.1.res).getD []).any (fun t =>
        let q := (s.graph p.1.graph).res p.1.res
        let a := p.1.la + t.1 % q.slots * q.slotb
        t.2.st == .resident && t.2.entry.isNone && decide (a ≤ la ∧ la < a + q.shape.imageB)))

/-- Why a remapping step is refused: 2 a bad map, 1 no room (R322). -/
def RingStore.refuses (r : RingStore) : Nat :=
  let n := (banksOf r.newmap).length
  if n < 2 ∨ r.newmap &&& r.lost ≠ 0 then 2
  else if (n - 1) * 2 ^ 26 < (r.extents.map (·.bytes)).sum then 1
  else 0

/-- REMAPPING_STEP (R322): GO has been written; the step is refused, or ring work is held. -/
def execRemappingStep (d : Nat) (s : State) : Host.Outcome State Fault Refusal :=
  .next (
    let r := (s.base d).ring
    if !r.go ∨ r.busy then s
    else if r.refuses ≠ 0 then s.modRing d (fun r => { r with go := false, res := BitVec.ofNat 2 r.refuses })
    else s.modRing d (fun r => { r with busy := true, hold := true, target := r.newmap }))

/-- The logical banks that the extents of a die must fit: those of a remapping step under way too (R322, R330). -/
def RingStore.capBanks (r : RingStore) : Nat :=
  if r.busy then min r.map.length ((banksOf r.target).length - 1) else r.map.length

/-- The tile's slot touches a lost bank (R323). -/
def State.touchesLost (s : State) (g r i : Nat) : Bool :=
  let q := (s.graph g).res r
  let ring := (s.base q.die).ring
  let la := s.slotLa g r i
  (List.range ((q.shape.imageB + 4095) / 4096 + 1)).any (fun k =>
    let a := min (la + 4096 * k) (la + q.shape.imageB - 1)
    ring.lost.getLsbD (ring.place a).1)

/-- Tiles of a die's rings whose bytes touched a lost bank become dropped or unwritten (R323). -/
def State.loseTiles (s : State) (d : Nat) : State :=
  { s with graphs := s.graphs.map (fun (p : Nat × Graph) =>
      (p.1, p.2.rings.foldl (fun (g : Graph) q =>
        if (g.res q.1).die ≠ d then g
        else q.2.foldl (fun (g : Graph) t =>
          if t.2.st = .resident ∧ t.2.entry = none ∧ s.touchesLost p.1 q.1 t.1 then
            g.modRing q.1 t.1 (fun x => { x with st := if (g.res q.1).policy = 2 then .dropped else .unwritten })
          else g) g) p.2)) }

/-! ### Faults of the ring store (R341, R342, R433) -/

/-- Who asked for a ring tile, for the DETAIL of a fault record. -/
structure Asker where
  reason : Nat := 0
  pc : Nat := 0
  pass : Nat := 0
  tile : Nat := 0
  recipe : Nat := 0
  depth : Nat := 0
  deriving DecidableEq, Repr, Inhabited

/-- A context fault of the ring-store controller (R341, R433): PC is the word of the query that asked, 0 for a request of the
graph engine. -/
def State.ringFault (s : State) (g r i code addr : Nat) (a : Asker) : State :=
  let gr := s.graph g
  let detail := cat [(a.reason, 2), (r, 10), (i, 14), ((gr.ringTile r i).st.code, 3), (a.pass, 8), (a.tile, 14),
    (a.recipe, 10), (a.depth, 3), (0, 96)]
  s.contextFault gr.ctx { code := code, sub := a.reason, pc := a.pc, addr := addr, engine := 8, die := (gr.res r).die, detail := detail } none

end Sys2Proof.Machine
end

