-- ==== Sys2Proof/Machine/Intake.lean ====
section
/-! DEFINITION. Graph records and their intake: the tables, the checks, the dry run, admission and
rejection (R329, R331, R335, R336, R339, R344 to R355, R375, R384). -/

namespace Sys2Proof.Machine

/-! ### The tables of a graph record (R344 to R350, R336) -/

/-- A pass entry (R346); its descriptor is read later. -/
def passOf (x : Nat) : Pass where
  desca := BitVec.ofNat 64 (bits x 464 48 * 16)
  cg := bits x 460 4
  prio := bits x 456 4
  home := bits x 455 1
  kind := bits x 453 2
  teams := bits x 451 2 + 1
  pair := bit x 450
  w := bits x 436 14 + 1
  h := bits x 422 14 + 1
  efirst := bits x 410 12
  ecount := bits x 405 5
  bfirst := bits x 393 12
  bcount := bits x 389 4
  stagger := bits x 373 16
  timeout := bits x 341 32
  mbz := bits x 0 341
  desc := default

/-- A core-group entry (R347). -/
def groupOf (x : Nat) : Group := ⟨BitVec.ofNat 128 (bits x 128 128), bits x 124 4, bits x 0 124⟩

/-- A resource entry with its ring descriptor (R348, R329). -/
def resourceOf (x : Nat) : Resource :=
  let r := bits x 256 256
  { cls := bits x 254 2
    w := bits x 240 14 + 1
    h := bits x 226 14 + 1
    tshape := BitVec.ofNat 32 (bits x 194 32)
    fmt := bits x 189 5
    dom := BitVec.ofNat 16 (bits x 173 16)
    mbz := bits x 0 173
    ovfva := bits r 220 36
    ovfn := bits r 196 24
    nt := bits r 182 14 + 1
    slots := bits r 168 14 + 1
    slotb := (bits r 160 8 + 1) * 4096
    policy := bits r 158 2
    die := bits r 157 1
    rmbz := if bits x 254 2 = 0 then r else bits r 0 157 }

/-- An edge entry (R349). -/
def edgeOf (x : Nat) : Edge where
  dir := bits x 126 2
  res := bits x 116 10
  prod := bits x 108 8
  sten := bits x 98 10
  tile := bits x 93 5
  stage := bit x 92
  off := bits x 73 19
  mbz := bits x 0 73

/-- A stencil entry (R350). -/
def stencilOf (x : Nat) : Stencil where
  form := bits x 126 2
  mask := BitVec.ofNat 49 (bits x 77 49)
  nx := bits x 73 4
  dx := bits x 69 4
  ny := bits x 65 4
  dy := bits x 61 4
  mbz := bits x 0 61

/-- A recipe record (R336). -/
def recipeRec (x : Nat) : Recipe :=
  let n := bits x 443 3
  let src (k : Nat) : Nat := bits x (352 - 32 * k) 32
  { desca := BitVec.ofNat 64 (bits x 464 48 * 16)
    pass := bits x 456 8
    target := bits x 446 10
    nsrc := n
    srcs := (List.range (min n 4)).map (fun k => (bits (src k) 22 10, bits (src k) 12 10))
    param := BitVec.ofNat 128 (bits x 0 128)
    mbz := bits x 384 59 + bits x 128 128 +
      ((List.range 4).map (fun k => if k < n then bits (src k) 0 12 else src k)).sum
    desc := default }

/-- A failure of intake (R354). -/
structure IntakeErr where
  code : Nat
  item : Nat := 0xFFFF
  aux : Nat := 0xFFFF
  tile : Nat := 0xFFFF
  deriving DecidableEq, Repr, Inhabited

/-- What intake has read of a graph: its tables, and the bits of the descriptors of its passes and
recipes, where they could be read. -/
structure Read where
  g : Graph
  descs : List (Option Nat)
  rdescs : List (Option Nat)

/-- Bytes of a graph record; a fault or poison stops intake, and a page that is not present in a replayable
context is recorded once and holds it, as does a home whose way is not open now: with it whether that is so (R188,
R269, R451). -/
def State.graphBytes (s : State) (die ctx va n : Nat) : Option (List Byte) × Bool × State :=
  if (s.ctxs.get ctx).isNone then (none, false, s)
  else match s.devLoad ctx (va % 2 ^ 64) n false none (some die) with
  | (.ok (bs, false), s) => (some bs, false, s)
  | (.error (0, a), s) => (none, true, s.engineReplay ctx a false 255)
  | (.error (20, _), s) => (none, true, s)
  | (_, s) => (none, false, s)

/-- A table of `n` entries of `w` bytes at offset `off`. -/
def tableAt {α : Type} (bs : List Byte) (off w n : Nat) (f : Nat → α) : List α :=
  (List.range n).map (fun k => f (leNat ((bs.drop (off + w * k)).take w)))

/-- The descriptors at a list of addresses, and whether one of them is held. -/
def State.descBits (s : State) (die ctx : Nat) (l : List Nat) : List (Option Nat) × Bool × State :=
  l.foldl (fun (acc : List (Option Nat) × Bool × State) va =>
    let (b, h, s) := acc.2.2.graphBytes die ctx va 16
    (acc.1 ++ [b.map leNat], acc.2.1 || h, s)) ([], false, s)

/-- Intake is held by a page that is not present; it is tried again. -/
def intakeHeld : IntakeErr := { code := 0 }

/-- A graph with its header's fields. -/
def Graph.withHeader (g : Graph) (h : Nat) : Graph :=
  { g with
    doneva := BitVec.ofNat 64 (bits h 448 64)
    doneval := BitVec.ofNat 64 (bits h 384 64)
    trail := bit h 315 }

/-- The header breaks a limit (R345). -/
def badHeader (h va : Nat) : Bool :=
  bits h 0 8 != 1 || bits h 8 307 != 0 || decide (1024 < bits h 365 11 ∨ 1024 < bits h 342 11 ∨ 2048 < bits h 320 12) ||
  bits h 448 64 % 8 != 0 || va % 64 != 0

/-- The record read whole (R353): the graph with its tables, or the failure; with it the graph as far as its
header goes. -/
def State.readGraph (s : State) (g : Graph) : (Graph × Except IntakeErr Read) × State :=
  let va := g.va.toNat
  match s.graphBytes g.die g.ctx va 64 with
  | (none, w, s) => ((g, .error (if w then intakeHeld else { code := 1 })), s)
  | (some hb, _, s) =>
    let h := leNat hb
    let g := g.withHeader h
    if badHeader h va then ((g, .error { code := 1 }), s)
    else
      let np := bits h 376 8 + 1
      let ng := bits h 316 4 + 1
      let nr := bits h 365 11
      let ne := bits h 353 12
      let ns := bits h 342 11
      let nb := bits h 320 12
      let nc := bits h 332 10
      let o1 := 64 * np
      let o2 := o1 + 32 * ng
      let o3 := o2 + 64 * nr
      let o4 := o3 + 16 * ne
      let o5 := o4 + 16 * ns
      let o6 := o5 + 256 * nb
      match s.graphBytes g.die g.ctx (va + 64) (o6 + 64 * nc) with
      | (none, w, s) => ((g, .error (if w then intakeHeld else { code := 1 })), s)
      | (some bs, _, s) =>
        let passes := tableAt bs 0 64 np passOf
        let recipes := tableAt bs o6 64 nc recipeRec
        let (ds, w1, s) := s.descBits g.die g.ctx (passes.map (·.desca.toNat))
        let (rs, w2, s) := s.descBits g.die g.ctx (recipes.map (·.desca.toNat))
        let g := { g with
          passes := (passes.zip ds).map (fun (q : Pass × Option Nat) =>
            { q.1 with desc := descOf q.1.desca.toNat (q.2.getD 0) })
          groups := tableAt bs o1 32 ng groupOf
          ress := tableAt bs o2 64 nr resourceOf
          edges := tableAt bs o3 16 ne edgeOf
          stens := tableAt bs o4 16 ns stencilOf
          binds := (List.range nb).map (fun k => (bs.drop (o5 + 256 * k)).take 256)
          recipes := (recipes.zip rs).map (fun (q : Recipe × Option Nat) =>
            { q.1 with desc := descOf q.1.desca.toNat (q.2.getD 0) }) }
        ((g, if w1 || w2 then .error intakeHeld else .ok ⟨g, ds, rs⟩), s)

/-! ### Checks of single entries (R354, phase 1) -/

/-- The first failure that a check finds among the indices below `n`. -/
def firstErr (n : Nat) (f : Nat → Option IntakeErr) : Option IntakeErr := (List.range n).findSome? f

/-- CODE 2 and 3 of pass `p` (R346, R60, R116). -/
def Read.passErr (q : Read) (p : Nat) : Option IntakeErr :=
  let g := q.g
  let e := g.pass p
  let okDesc : Bool := match q.descs.getD p none with
    | none => false
    | some x => descOk x && e.desc.fits && (decide (1 < e.kind) || e.desc.kind == 2 * e.kind)
  let node := e.kind == 1
  if !okDesc then some { code := 2, item := p }
  else if decide (1 < e.kind) || e.mbz != 0 || decide (g.groups.length ≤ e.cg) || decide (16384 < e.count) ||
    decide (24 < e.ecount ∨ 8 < e.bcount ∨ g.edges.length < e.efirst + e.ecount ∨ g.binds.length < e.bfirst + e.bcount) ||
    (!node && e.timeout != 0) ||
    (node && (e.w != 1 || e.h != 1 || e.teams != 1 || e.pair || e.bcount != 0 || (g.edgesOf p).any (fun d => d.dir != 2))) then
    some { code := 3, item := p }
  else none

/-- CODE 4 of a core group's own fields (R347). -/
def Read.groupErr (q : Read) (k : Nat) : Option IntakeErr :=
  let c := q.g.groups.getD k default
  if c.pods = 0 ∨ c.mbz ≠ 0 ∨ 8 < c.rslots then some { code := 4, item := k } else none

/-- A resource's tile shape, format and tag are valid (R173, R236). -/
def Resource.shapeOk (r : Resource) : Bool :=
  bits r.tshape.toNat 0 2 == 0 && r.shape.shapeOk (2 ^ 32) && r.shape.tagOk 8 (2 ^ 32)

/-- A resource's ring descriptor keeps R329. -/
def Resource.ringOk (r : Resource) : Bool :=
  r.rmbz == 0 && (r.cls == 0 || (r.policy != 3 && r.nt == r.w * r.h && decide (r.slots ≤ r.nt) &&
    (if r.policy = 1 then r.ovfn != 0 else r.ovfn == 0 && r.ovfva == 0) && decide (r.shape.imageB ≤ r.slotb)))

/-- Edges with DIR 1 that name a resource (R354). -/
def Graph.outCount (g : Graph) (r : Nat) : Nat := (g.edges.filter (fun e => e.dir = 1 && e.res = r)).length

/-- Passes that hold edge `k` (R346). -/
def Graph.owners (g : Graph) (k : Nat) : List Nat :=
  (List.range g.passes.length).filter (fun p => decide ((g.pass p).efirst ≤ k ∧ k < (g.pass p).efirst + (g.pass p).ecount))

/-- CODE 5 and 6 of resource `r` (R348, R329). -/
def Read.resErr (q : Read) (r : Nat) : Option IntakeErr :=
  let g := q.g
  let e := g.res r
  let trans := ((g.ress.take (r + 1)).filter (fun x => x.cls = 1)).length
  if decide (1 < e.cls) || e.mbz != 0 || decide (16384 < e.w * e.h) ||
    (if e.cls = 0 then e.tshape != 0 || e.fmt != 0 || e.dom != 0 else !e.shapeOk || decide (512 < trans)) then
    some { code := 5, item := r }
  else if !e.ringOk || (e.cls == 1 && g.outCount r != 1) then some { code := 6, item := r }
  else none

/-- A pass holds an OUT edge on a resource. -/
def Graph.produces (g : Graph) (p r : Nat) : Bool := (g.outs p).any (fun e => e.res = r)

/-- The distance between staging tiles of an edge (R351). -/
def Resource.stride (r : Resource) : Nat := up16 r.shape.imageB

/-- What a staged edge takes of its workgroup: offsets and tile numbers, each as start and end. -/
def Graph.staged (g : Graph) (e : Edge) : Nat × Nat × Nat × Nat :=
  let n := if e.dir = 1 then 1 else ((List.range 49).filter (fun k => (g.sten e.sten).mask.getLsbD k)).length
  (e.off, e.off + n * (g.res e.res).stride, e.tile, e.tile + n)

/-- Some pass holds an OUT edge on a resource. -/
def Graph.produced (g : Graph) (r : Nat) : Bool := (List.range g.passes.length).any (fun p => g.produces p r)

/-- A pass's grid is a resource's. -/
def Graph.gridIs (g : Graph) (p r : Nat) : Bool := (g.pass p).w == (g.res r).w && (g.pass p).h == (g.res r).h

/-- An IN edge reads a persistent resource that no pass writes (R349). -/
def Graph.unwritten (g : Graph) (e : Edge) : Bool := (g.res e.res).cls == 0 && !g.produced e.res

/-- An edge's own fields are wrong, whichever pass holds it (R349). -/
def Graph.fieldsBad (g : Graph) (e : Edge) : Bool :=
  match e.dir with
  | 0 =>
    if g.unwritten e then !(e.prod == 0 && (g.sten e.sten).form == 3)
    else !(g.produces e.prod e.res && g.gridIs e.prod e.res)
  | 1 => e.prod != 0 || e.sten != 0 || e.stage != ((g.res e.res).cls == 1)
  | _ => e.res != 0 || e.sten != 0 || e.stage

/-- Edge `k` is wrong for pass `p` (R349). -/
def Graph.edgeBad (g : Graph) (k p : Nat) : Bool :=
  let e := g.edges.getD k default
  match e.dir with
  | 0 => !g.unwritten e && decide (p ≤ e.prod)
  | 1 => !g.gridIs p e.res
  | _ => decide (p ≤ e.prod)

/-- Edge `k` stages tiles that pass `p` cannot hold, or that meet those of an earlier edge (R351). -/
def Graph.stageBad (g : Graph) (k p : Nat) : Bool :=
  let d := (g.pass p).desc
  let x := g.staged (g.edges.getD k default)
  decide (d.tiles < x.2.2.2 ∨ 32 < x.2.2.2 ∨ x.1 % 16 ≠ 0 ∨ d.bytes < x.2.1) ||
  (List.range k).any (fun j =>
    let y := g.staged (g.edges.getD j default)
    (g.edges.getD j default).stage && decide (p ∈ g.owners j) &&
    decide ((x.1 < y.2.1 ∧ y.1 < x.2.1) ∨ (x.2.2.1 < y.2.2.2 ∧ y.2.2.1 < x.2.2.2)))

/-- CODE 7 and 8 of edge `k`, in each pass that holds it, and by its own fields where none does (R349, R351, R353). -/
def Read.edgeErr (q : Read) (k : Nat) : Option IntakeErr :=
  let g := q.g
  let e := g.edges.getD k default
  if e.dir == 3 || e.mbz != 0 || (decide (e.dir < 2) && decide (g.ress.length ≤ e.res)) ||
    (e.dir == 0 && decide (g.stens.length ≤ e.sten)) || (e.dir != 1 && decide (g.passes.length ≤ e.prod)) ||
    (e.stage && (g.res e.res).cls != 1) || g.fieldsBad e || (g.owners k).any (g.edgeBad k) then some { code := 7, item := k }
  else if e.stage && (decide (32 < (g.staged e).2.2.2 ∨ e.off % 16 ≠ 0) || (g.owners k).any (g.stageBad k)) then some { code := 8, item := k }
  else none

/-- CODE 9 of stencil `k` (R350). -/
def Read.stenErr (q : Read) (k : Nat) : Option IntakeErr :=
  let g := q.g
  let e := g.sten k
  let fr := [e.nx, e.dx, e.ny, e.dy]
  let ok : Bool := match e.form with
    | 0 => e.mask != 0 && fr.all (· == 0)
    | 1 => e.mask != 0 && fr.all (· != 0)
    | _ => e.mask == 0 && fr.all (· == 0) && !g.edges.any (fun d => d.dir == 0 && d.stage && d.sten == k)
  if !ok || e.mbz != 0 then some { code := 9, item := k } else none

/-- A binding fails R192 or R199 for a kernel (R236).  DESIGN CHOICE (log 102): a step that is no multiple of the source
element's size fails it, as a stride does. -/
def bindBad (b : Binding) (d : Desc) : Bool :=
  let r := recOf b.record
  let lo := (r.reach (·.2)).1
  let hi := (r.reach (·.2)).2
  let t := tileOf default b.ta b.tb b.tc 0
  r.illegal d.tiles (fun _ => 0) || r.sspace != 0 || r.dspace != 1 || r.jcv || r.tlv ||
  bits (leNat b.record) 0 32 != 0 || bits r.dst 19 13 != 0 || decide ((r.dst : Int) + lo < 0 ∨ (d.bytes : Int) < r.dst + hi + r.dsz) ||
  r.dst % r.dsz != 0 || b.xstep % r.ssz != 0 || b.ystep % r.ssz != 0 ||
  (b.tset && (match t with
    | none => true
    | some t => decide (d.tiles ≤ b.tile) || !t.shapeOk d.bytes || !t.tagOk d.thresh d.bytes ||
        decide (t.sizeB < r.delivered)))

/-- An unused dimension entry of a binding's record is not zero (R344). -/
def Binding.dirty (b : Binding) : Bool := (b.record.drop (recBytes (recOf b.record).ndim)).any (· != 0)

/-- The most that a kernel can declare: what a binding breaks here it breaks for every kernel (R60). -/
def roomiest : Desc := { (default : Desc) with scratch := 2048, tiles := 32, thresh := 8 }

/-- CODE 10 of binding `k` (R192, R199, R236, R344), checked for every pass that uses it, and by itself where none does
(R353). -/
def Read.bindErr (q : Read) (k : Nat) : Option IntakeErr :=
  let b := bindingOf (q.g.binds.getD k [])
  if b.mbz ≠ 0 ∨ b.dirty ∨ bindBad b roomiest ∨ q.g.passes.any (fun p => decide (p.bfirst ≤ k ∧ k < p.bfirst + p.bcount) && bindBad b p.desc) then
    some { code := 10, item := k }
  else none

/-- CODE 11 of recipe `k` (R336). -/
def Read.recipeErr (q : Read) (k : Nat) : Option IntakeErr :=
  let g := q.g
  let c := g.recipe k
  let okDesc : Bool := match q.rdescs.getD k none with
    | none => false
    | some x => descOk x && c.desc.kind == 1 && c.desc.fits
  let bad : Bool := !okDesc || c.desc.scratch == 0 || decide (4 < c.nsrc ∨ g.ress.length ≤ c.target) || c.mbz != 0 ||
    !g.produces c.pass c.target ||
    c.srcs.any (fun x => decide (g.ress.length ≤ x.1 ∨ g.stens.length ≤ x.2) || x.1 == c.target ||
      !(g.ins c.pass).any (fun e => e.res == x.1)) ||
    (g.recipes.take k).any (fun x => x.pass == c.pass && x.target == c.target)
  if bad then some { code := 11, item := k } else none

/-- A POLICY 2 resource without a recipe for a pass that produces it (R336). -/
def Graph.recipeLack (g : Graph) : Bool :=
  (List.range g.ress.length).any (fun r => (g.res r).cls == 1 && (g.res r).policy == 2 &&
    (List.range g.passes.length).any (fun p => g.produces p r && !g.recipes.any (fun c => c.pass == p && c.target == r)))

/-- The first failure of phase 1 (R354). -/
def Read.phase1 (q : Read) : Option IntakeErr :=
  let g := q.g
  [firstErr g.passes.length q.passErr, firstErr g.groups.length q.groupErr, firstErr g.ress.length q.resErr,
   firstErr g.edges.length q.edgeErr, firstErr g.stens.length q.stenErr, firstErr g.binds.length q.bindErr,
   firstErr g.recipes.length q.recipeErr, if g.recipeLack then some { code := 11 } else none].findSome? id

/-! ### Checks across tables (R354, phase 2) -/

/-- The resources of the larger of two descriptors, each by itself. -/
def Desc.max (a b : Desc) : Desc :=
  { a with
    scratch := ceilDiv (Nat.max a.bytes b.bytes) 256
    joins := 0
    acc := Nat.max a.acc b.acc
    tiles := Nat.max a.tiles b.tiles
    thresh := Nat.max a.thresh b.thresh
    sheaves := Nat.max a.sheaves b.sheaves
    width := Nat.max a.width b.width
    regs := Nat.max a.regs b.regs }

/-- The largest recipe slice that a core group may run (R339). -/
def Graph.largestSlice (g : Graph) (cg : Nat) : Option Desc :=
  (g.recipes.filter (fun c => (g.pass c.pass).cg = cg)).foldl (fun (o : Option Desc) c => match o with
    | none => some c.desc
    | some d => some (d.max c.desc)) none

/-- The slots of a core group: recipe slots, then node slots (R339, R384). -/
def Graph.slotNeeds (g : Graph) (cg : Nat) : List (Nat × Desc) :=
  (match g.largestSlice cg with
    | none => []
    | some d => List.replicate (g.groups.getD cg default).rslots (cg, d)) ++
  ((List.range g.passes.length).filter (fun p => (g.pass p).kind = 1 && (g.pass p).cg = cg)).map (fun p =>
    (256 + p, (g.pass p).desc))

/-- The cores of a core group, ascending. -/
def Group.cores (c : Group) : List Nat :=
  (List.range 128).flatMap (fun p => if c.pods.getLsbD p then [2 * p, 2 * p + 1] else [])

/-- The slots of one core group placed, each on the lowest core that can still hold it; none where one
cannot be held. -/
def placeSlots (cores : List Nat) : List (Nat × Desc) → Tab Room → Option (List (Nat × Nat × Desc) × Tab Room)
  | [], rooms => some ([], rooms)
  | (tag, d) :: l, rooms =>
    match cores.findSome? (fun c => (((rooms.get c).getD Room.empty).take d).map (fun r => (c, r))) with
    | none => none
    | some (c, r) => (placeSlots cores l (rooms.put c r)).map (fun q => ((c, tag, d) :: q.1, q.2))

/-- The slots of all core groups, or the group that cannot hold its own (R339, R384). -/
def Graph.placeGroups (g : Graph) : Except Nat (List (Nat × Nat × Desc)) :=
  match (List.range g.groups.length).foldl (fun (acc : Except Nat (List (Nat × Nat × Desc) × Tab Room)) k =>
    match acc with
    | .error e => .error e
    | .ok (l, rooms) =>
      match placeSlots (g.groups.getD k default).cores (g.slotNeeds k) rooms with
      | none => .error k
      | some (l', rooms) => .ok (l ++ l', rooms)) (.ok ([], [])) with
  | .error e => .error e
  | .ok (l, _) => .ok l

/-- CODE 4 of the slots. -/
def Graph.slotErr (g : Graph) : Option IntakeErr :=
  match g.placeGroups with
  | .error k => some { code := 4, item := k }
  | .ok _ => none

/-- CODE 5 of the threshold registers that tags name: those of every kernel with an edge on the resource, and of every
recipe slice whose target it is (R236). -/
def Graph.threshErr (g : Graph) (r : Nat) : Option IntakeErr :=
  let e := g.res r
  if tagAxis e.dom ≠ 0 ∧ ((List.range g.passes.length).any (fun p =>
      (g.edgesOf p).any (fun d => decide (d.dir < 2) && d.res == r) && decide ((g.pass p).desc.thresh ≤ tagTh e.dom)) ∨
      g.recipes.any (fun c => c.target == r && decide (c.desc.thresh ≤ tagTh e.dom))) then
    some { code := 5, item := r }
  else none

/-- The span of a list of tile indices (R335). -/
def spanOf (l : List Nat) : Nat :=
  match l with
  | [] => 0
  | x :: l => l.foldl Nat.max x - l.foldl Nat.min x + 1

/-- CODE 12 of resource `r`: its window (R335). -/
def Graph.windowErr (g : Graph) (r : Nat) : Option IntakeErr :=
  let n := (g.res r).slots
  if (g.res r).cls ≠ 1 then none
  else
    let a := firstErr g.passes.length (fun p => firstErr (g.pass p).count (fun t =>
      if n < spanOf (g.reads p t r) then some { code := 12, item := r, aux := p, tile := t } else none))
    let b := firstErr g.recipes.length (fun k =>
      let q := g.res (g.recipe k).target
      firstErr (q.w * q.h) (fun t =>
        if n < spanOf (((g.sources k t).filter (fun x => x.1 = r)).map (·.2)) then
          some { code := 12, item := r, aux := k, tile := t } else none))
    a.or b

/-- CODE 13 of resource `r`: consumers too far from the producer. -/
def Graph.farErr (g : Graph) (r : Nat) : Option IntakeErr :=
  let e := g.res r
  let prod := ((List.range g.passes.length).find? (fun p => g.produces p r)).getD 0
  if e.cls ≠ 1 ∨ e.nt ≤ e.slots then none
  else firstErr g.passes.length (fun p =>
    if prod + 63 < p ∧ (g.ins p).any (fun d => d.res = r) then some { code := 13, item := r, aux := p } else none)

/-- CODE 14 of resource `r`: the rings of its die up to it exceed the capacity (R330). -/
def Graph.roomErr (g : Graph) (cap : Nat → Nat) (r : Nat) : Option IntakeErr :=
  let e := g.res r
  let used := (((g.ress.take (r + 1)).filter (fun x => x.cls = 1 && x.die = e.die)).map (·.extentB)).sum
  if e.cls = 1 ∧ cap e.die < used then some { code := 14, item := r } else none

/-- CODE 15 of core group `k`. -/
def Graph.slotLack (g : Graph) (k : Nat) : Option IntakeErr :=
  if (g.groups.getD k default).rslots = 0 ∧ (List.range g.passes.length).any (fun p => (g.pass p).cg == k &&
      (g.outs p).any (fun e => (g.res e.res).cls == 1 && (g.res e.res).policy == 2)) then
    some { code := 15, item := k }
  else none

/-- The first failure of phase 2 (R354). -/
def Graph.phase2 (g : Graph) (cap : Nat → Nat) : Option IntakeErr :=
  let n := g.ress.length
  [g.slotErr, firstErr n g.threshErr, firstErr n g.windowErr, firstErr n g.farErr, firstErr n (g.roomErr cap),
   firstErr g.groups.length g.slotLack].findSome? id

/-! ### The dry run (R353) -/

/-- The dry run's state: the graph with its rings, the released tiles, the retired tiles of each pass. -/
structure Dry where
  g : Graph
  released : List (Nat × Nat)
  done_ : List (List Nat)
  deriving DecidableEq, Repr

/-- A pass has retired in the dry run; a record node retires with its feeders. -/
def Dry.passDone (d : Dry) : Nat → Nat → Bool
  | 0, _ => false
  | n + 1, p =>
    if (d.g.pass p).kind = 1 then ((d.g.edgesOf p).filter (fun e => e.dir = 2)).all (fun e => Dry.passDone d n e.prod)
    else (d.done_.getD p []).length == (d.g.pass p).count

/-- A blocked tile is satisfied on every edge in the dry run (R357). -/
def Dry.satisfied (d : Dry) (p t : Nat) : Bool :=
  (d.g.edgesOf p).all (fun e => match e.dir with
    | 0 => (d.g.edgeTiles p t e).all (fun i => decide (i ∈ d.done_.getD e.prod []))
    | 2 => d.passDone 256 e.prod
    | _ => true)

/-- A tile runs to its end: its outputs drained, its reads ended. -/
def Dry.finish (d : Dry) (g : Graph) (p t : Nat) : Dry :=
  let g := (d.g.outs p).foldl (fun g e => if (g.res e.res).cls = 1 then g.drained e.res t else g) g
  let g := (((d.g.ins p).map (·.res)).eraseDups).foldl (fun g r =>
    if (g.res r).cls ≠ 1 then g
    else (d.g.reads p t r).foldl (fun g i => g.endRead r i) g) g
  { g := g, released := d.released.erase (p, t), done_ := modAt d.done_ p (fun l => t :: l) }

/-- A pair (pass, tile) goes before another in dispatch order (R358). -/
def Graph.before (g : Graph) (a b : Nat × Nat) : Bool :=
  decide ((g.pass a.1).prio < (g.pass b.1).prio) ||
  ((g.pass a.1).prio == (g.pass b.1).prio && (decide (a.1 < b.1) || (a.1 == b.1 && decide (a.2 < b.2))))

/-- A pair put in its place in dispatch order. -/
def Graph.insertTile (g : Graph) (x : Nat × Nat) : List (Nat × Nat) → List (Nat × Nat)
  | [] => [x]
  | y :: l => if g.before x y then x :: y :: l else y :: Graph.insertTile g x l

/-- One round of the dry run: releases, then every released tile in dispatch order. -/
def Dry.round (d : Dry) : Dry :=
  let n := d.g.passes.length
  let lo := ((List.range n).find? (fun p => !d.passDone 256 p)).getD n
  let d := (List.range n).foldl (fun (d : Dry) p =>
    if lo ≤ p ∧ p < lo + 64 ∧ (d.g.pass p).kind = 0 then
      (List.range (d.g.pass p).count).foldl (fun (d : Dry) t =>
        if (p, t) ∉ d.released ∧ t ∉ d.done_.getD p [] ∧ d.satisfied p t then
          { d with released := d.g.insertTile (p, t) d.released } else d) d
    else d) d
  d.released.foldl (fun (d : Dry) x => match d.g.reserve x.1 x.2 with
    | none => d
    | some g => d.finish g x.1 x.2) d

/-- The rounds of the dry run until nothing changes. -/
def Dry.run : Nat → Dry → Dry
  | 0, d => d
  | n + 1, d =>
    let d' := d.round
    if d' = d then d else Dry.run n d'

/-- CODE 16: the dry run stops with tiles unretired; the lowest held tile, else the lowest unretired tile
(R354). -/
def Graph.dryErr (g : Graph) : Option IntakeErr :=
  let n := g.passes.length
  let total := ((List.range n).map (fun p => (g.pass p).count)).sum
  let d := Dry.run (total + 1) ⟨g.freshRings, [], List.replicate n []⟩
  let left := (List.range n).filter (fun p => (g.pass p).kind = 0 && (d.done_.getD p []).length ≠ (g.pass p).count)
  match left with
  | [] => none
  | p :: _ =>
    let low := d.released.foldl (fun (o : Option (Nat × Nat)) x => match o with
      | none => some x
      | some y => if x.1 < y.1 ∨ (x.1 = y.1 ∧ x.2 < y.2) then some x else some y) none
    match low with
    | some x => some { code := 16, item := x.1, tile := x.2 }
    | none =>
      let t := ((List.range (g.pass p).count).find? (fun t => t ∉ d.done_.getD p [])).getD 0
      some { code := 16, item := p, tile := t }

/-! ### Completion words and rejection (R353, R354, R361) -/

/-- The intake error record (R354). -/
def intakeRecord (now va ctx : Nat) (e : IntakeErr) : List Byte :=
  natBytes 32 (cat [(now, 64), (va, 52), (0, 12), (ctx, 32), (e.code, 16), (e.item, 16), (e.aux, 16), (e.tile, 16),
    (0, 24), (0x30, 8)])

/-- A graph is no longer in hand: its slot and the time-triggered table see that it has been rejected or has retired. -/
def State.letGo (s : State) (n : Nat) : State :=
  let clear (m : MapSlot) : MapSlot := if m.graph = some n then { m with graph := none } else m
  let s := { s with bases := s.bases.map (fun (p : Nat × BaseDie) =>
    (p.1, { p.2 with slots := p.2.slots.map (fun (q : Nat × MapSlot) => (q.1, clear q.2)) })) }
  s.modRegs (fun r => if r.ttGraph = some n then { r with ttGraph := none } else r)

/-- A graph is gone. -/
def State.dropGraph (s : State) (n : Nat) : State := State.letGo { s with graphs := s.graphs.del n } n

/-- Posted writes of a context that no peer has acknowledged: a release at system scope waits for them (R288). -/
def State.owesAck (s : State) (ctx : Nat) : Bool := s.bases.any (fun b => b.2.posted.any (fun p => p.2.ctx == ctx))

/-- The completion word that a graph owes is written by the graph engine, as an unprivileged access that is a release at
system scope; it waits while DONEVA's page is not present and not replayed.  A write that faults raises an engine fault,
and is not made (R353, R361). -/
def State.payCompletion (s : State) (n : Nat) : State :=
  let g := s.graph n
  let paid (s : State) : State := s.modGraph n (fun g => { g with owing := none })
  match g.owing with
  | none => s
  | some v =>
    if g.doneva = 0 ∨ g.doneva.toNat % 8 ≠ 0 ∨ (s.ctxs.get g.ctx).isNone then paid s
    else if g.doneva.toNat / 65536 ∈ (s.ctx g.ctx).replays ∨ s.owesAck g.ctx then s
    else match s.devStore g.ctx g.doneva.toNat (natBytes 8 v.toNat) false none (some g.die) with
      | (.ok _, s) => paid s
      | (.error (0, _), s) => s.replayFault g.ctx g.doneva.toNat 5 1 255 63 0
      | (.error (20, _), s) => s
      | (.error (e, a), s) => (paid s).engineFault g.ctx e 0 a 255 9 g.die

/-- A rejected graph whose completion word has been written is forgotten. -/
def State.forgetRejected (s : State) (n : Nat) : State :=
  if (s.graph n).stage = .rejected ∧ (s.graph n).owing = none then { s with graphs := s.graphs.del n } else s

/-- READ of a queue counts an entry (R375). -/
def State.entryDone (s : State) (q : Option Nat) : State :=
  match q with
  | some q => s.modQueue q (fun x => { x with read := x.read + 1 })
  | none => s

/-- A graph is rejected: its record is written, and the bitwise NOT of DONEVAL is owed to DONEVA (R353, R354). -/
def State.rejectGraph (s : State) (n : Nat) (g : Graph) (e : IntakeErr) : State :=
  let s := ((s.record g.ctx (intakeRecord s.now g.va.toNat g.ctx e)).entryDone g.queue).letGo n
  ({ s with graphs := s.graphs.put n { g with
      stage := .rejected
      owing := some (~~~ g.doneval) } }.payCompletion n).forgetRejected n

/-- Logical capacity of a die's ring store (R320, R330). -/
def State.ringCap (s : State) (d : Nat) : Nat := (s.base d).ring.map.length * 2 ^ 26

/-- GRAPH_INTAKE (R353, R354): a graph in intake is read, checked and run dry; it waits for admission, or is
rejected; the completion word that a rejected one still owes is tried again. -/
def execGraphIntake (n : Nat) (s : State) : Host.Outcome State Fault Refusal :=
  .next (match s.graphs.get n with
    | none => s
    | some g =>
      if g.stage = .rejected then (s.payCompletion n).forgetRejected n
      else if g.stage ≠ .intake then s
      else match s.readGraph g with
        | ((g, .error e), s) => if e.code = 0 then s else s.rejectGraph n g e
        | ((_, .ok q), s) =>
          match [q.phase1, (if q.phase1.isSome then none else q.g.phase2 s.ringCap)].findSome? id with
          | some e => s.rejectGraph n q.g e
          | none =>
            match q.g.dryErr with
            | some e => s.rejectGraph n q.g e
            | none => { s with graphs := s.graphs.put n { q.g with stage := .waiting } })

/-! ### Admission (R355, R330, R375) -/

/-- Scoreboard entries that a graph needs on a die, counted over windows that start at or above pass `lo`
(R355). -/
def Graph.entries (g : Graph) (die lo : Nat) : Nat :=
  ((List.range g.passes.length).filter (fun p => decide (lo ≤ p))).foldl (fun m p =>
    Nat.max m ((List.range 64).filter (fun k => decide (p + k < g.passes.length) && (g.pass (p + k)).home == die)).length) 0

/-- The lowest pass that has not retired. -/
def Graph.lowest (g : Graph) : Nat := ((g.runs.findIdx? (fun r => !r.retired))).getD g.runs.length

/-- Scoreboard entries that the admitted graphs hold on a die (R355). -/
def State.entriesUsed (s : State) (die : Nat) : Nat :=
  ((s.graphs.filter (fun p => p.2.stage = .admitted)).map (fun p => p.2.entries die p.2.lowest)).sum

/-- The bytes that a graph's rings need on a die. -/
def Graph.ringBytes (g : Graph) (die : Nat) : Nat := ((g.ress.filter (fun r => r.cls = 1 && r.die = die)).map (·.extentB)).sum

/-- Extents for a graph's rings on a die, where its free bytes suffice; extents move together where no range
fits (R330). -/
def State.allocRings (s : State) (n : Nat) (g : Graph) (die : Nat) : Option State :=
  let ring := (s.base die).ring
  let cap := ring.capBanks * 2 ^ 26
  if cap < (ring.extents.map (·.bytes)).sum + g.ringBytes die then none
  else if g.ringBytes die = 0 then some s
  else
    let want := (List.range g.ress.length).filter (fun r => (g.res r).cls = 1 && (g.res r).die = die)
    let add (l : List Extent) : Option (List Extent) :=
      want.foldl (fun (o : Option (List Extent)) r => o.bind (fun l =>
        (holeIn l cap (g.res r).extentB).map (fun la => l ++ [⟨n, r, la, (g.res r).extentB⟩]))) (some l)
    match add ring.extents with
    | some l => some (s.modRing die (fun r => { r with extents := l }))
    | none =>
      if ring.busy ∨ ring.rotating.isSome then none
      else
        let packed := packExtents 0 ring.extents
        if !ring.movable packed then none
        else (add packed).map (fun l => (s.readWords die (s.carries die packed false)).modRing die (fun r =>
          { r.relocate r.map packed with extents := l }))

/-- Every earlier graph of the queue has retired (R375). -/
def State.serialOk (s : State) (n : Nat) (g : Graph) : Bool :=
  !g.serial || s.graphs.all (fun p => p.1 == n || p.2.queue != g.queue || p.2.stage == .retired || p.2.stage == .rejected || decide (n < p.1))

/-- A graph of the time-triggered table waits at a die (R378). -/
def State.tableWaits (s : State) (die : Nat) : Bool :=
  s.graphs.any (fun p => p.2.stage == .waiting && p.2.queue.isNone && p.2.die == die)

/-- A pass as it stands before it has entered a scoreboard. -/
def PassRun.reset : PassRun where
  entered := false
  tiles := []
  retired := false
  retiredAt := 0
  known := [[], []]
  passKnown := [false, false]
  queue := []
  coming := []
  batches := 0
  live := 0
  lastStart := []
  released := false

/-- What a waiting graph needs can be granted now: scoreboard entries and ring space (R355, R330, R375). -/
def State.grants (s : State) (n : Nat) (g : Graph) : Option State :=
  let fits (die : Nat) : Bool := decide (s.entriesUsed die + g.entries die 0 ≤ 64)
  if g.stage ≠ .waiting ∨ s.halted g.ctx ∨ !s.serialOk n g ∨ (g.queue.isSome ∧ s.tableWaits g.die) ∨
    !fits 0 ∨ !fits 1 then none
  else (s.allocRings n g 0).bind (fun s => s.allocRings n g 1)

/-- Some graph that has waited longer could be admitted now.  DEDUCED (log 81): the admission order of waiting
graphs is the order in which intake took them in hand. -/
def State.outranked (s : State) (n : Nat) : Bool := s.graphs.any (fun p => decide (p.1 < n) && (s.grants p.1 p.2).isSome)

/-- GRAPH_ADMISSION (R375, R355, R330): a checked graph is admitted once its scoreboard entries and ring space
can be granted, in admission order; READ counts its entry. -/
def execGraphAdmission (n : Nat) (s : State) : Host.Outcome State Fault Refusal :=
  .next (match s.graphs.get n with
    | none => s
    | some g =>
      if s.outranked n then s
      else match s.grants n g, g.placeGroups with
        | some s, .ok l =>
          let (o, s) := s.fresh
          let g := { g.freshRings with
            stage := .admitted
            order := o
            resv := l
            runs := List.replicate g.passes.length PassRun.reset }
          let s := { s with graphs := s.graphs.put n g }
          let s := s.entryDone g.queue
          { s with bases := s.bases.map (fun (p : Nat × BaseDie) =>
              (p.1, { p.2 with slots := p.2.slots.map (fun (q : Nat × MapSlot) =>
                (q.1, if q.2.graph = some n then { q.2 with graph := none } else q.2)) })) }
        | _, _ => s)

end Sys2Proof.Machine
end

