-- ==== Sys2Proof/Machine/CrossLane.lean ====
section
/-! DEFINITION. The cross-lane instructions (R106 to R113) and the waiting clauses they make. -/

namespace Sys2Proof.Machine

/-- Segment size of MOD bits 5:3 in a sheaf of width `w` (R106). -/
def segSize (w : Nat) (f : Fields) : Nat := if f.mod 3 3 = 0 then w else 2 ^ f.mod 3 3

/-- The segment size of a waiting instruction, none for another (R107, R403). -/
def waitSeg (w : Nat) : Instr → Option Nat
  | .shfl f | .vote f | .ballot f | .matchV f | .rdx f | .scan f => some (segSize w f)
  | .ddx _ | .ddy _ => some 4
  | .cov _ => some w
  | .tex f => if f.mod 0 1 = 1 then none else some 4
  | _ => none

/-- The threads of the segment of thread `t`. -/
def segment (n t : Nat) : List Nat := (List.range n).map (fun i => t - t % n + i)

/-- A thread is exited. -/
def Sheaf.exited (sh : Sheaf) (t : Nat) : Bool := (sh.thread t).st == .exited

/-- What a lane of a segment is to the combining instructions (R108). -/
structure Seg where
  size : Nat
  base : Nat
  /-- Active threads, by index in the segment. -/
  act : List Nat
  /-- Exited threads, by index in the segment. -/
  exited : List Nat
  deriving DecidableEq, Repr, Inhabited

/-- The segment of thread `t` in an issue. -/
def Issue.seg (is : Issue) (sh : Sheaf) (n t : Nat) : Seg where
  size := n
  base := t - t % n
  act := (List.range n).filter (fun i => t - t % n + i ∈ is.act)
  exited := (List.range n).filter (fun i => sh.exited (t - t % n + i))

/-- The exited mask of a segment, by sheaf-relative index (R108). -/
def Seg.mask (g : Seg) : BitVec 64 := maskOf (g.exited.map (g.base + ·))

/-- Values of the active and exited threads of a segment, by index; exited threads supply 0 and no
taint (R108). -/
def Seg.vals (g : Seg) (sh : Sheaf) (f : Fields) : List (Nat × Word × Bool) :=
  ((List.range g.size).filter (fun i => i ∈ g.act ∨ i ∈ g.exited)).map (fun i =>
    if i ∈ g.exited then (i, 0, false)
    else (i, sh.read f.imm (g.base + i) f.a, sh.taintOf (g.base + i) f.a))

/-- Taint of a combined result: the OR over the contributing threads (R108). -/
def Seg.taint (g : Seg) (sh : Sheaf) (f : Fields) : Bool := (g.vals sh f).any (fun p => p.2.2)

/-- A waiting cross-lane instruction: an S above the sheaf width is an illegal use; each active thread
gets its result and the exited mask of its segment (R106, R108). -/
def crossOp (f : Fields) (n : Nat → Nat) (g : Sheaf → Bool → Seg → Nat → LaneOut) (is : Issue)
    (s : State) : Result :=
  let sh := s.sheaf is.sid
  let z := segSize sh.width f
  if sh.width < z then is.illegal s
  else
    let s' := s.writeLanes is.sid f.d (n z) (is.act.map (fun t => g sh (s.ftz is.sid) (is.seg sh z t) t))
    .done (s'.modSheaf is.sid (fun sh' => each is.act
      (fun t sh' => sh'.modThread t (fun th => { th with xmask := (is.seg sh z t).mask })) sh'))

/-- One word delivered to a lane with the segment's taint. -/
def segOut (f : Fields) (sh : Sheaf) (g : Seg) (t : Nat) (w : Word) (ast : Word := 0) : LaneOut :=
  ⟨t, [(w, g.taint sh f)], ast⟩

/-! ### `shfl` (R111) -/

/-- The index a `shfl` thread reads within its segment, none where the fill is delivered (R111). -/
def shflIndex (mode : Nat) (wrel : Bool) (n i b : Nat) : Option Nat :=
  let k := if wrel then n / 2 ^ (b % 8) else b
  match mode with
  | 0 => some (b % n)
  | 1 => if k < n ∧ k ≤ i then some (i - k) else none
  | 2 => if k < n ∧ i + k < n then some (i + k) else none
  | _ => some (i ^^^ (k % n))

/-- `shfl` in one lane: a thread that is present supplies its value even where its guard fails (R111). -/
def shflLane (f : Fields) (sh : Sheaf) (_ : Bool) (g : Seg) (t : Nat) : LaneOut :=
  match shflIndex (f.mod 1 2) (f.mod 0 1 == 1) g.size (t - g.base) (sh.read f.imm t f.b).toNat with
  | none => ⟨t, [(sh.read f.imm t f.c, sh.taintOf t f.c)], 0⟩
  | some j =>
    if j ∈ g.exited then ⟨t, [(0, false)], 0⟩
    else ⟨t, [(sh.read f.imm (g.base + j) f.a, sh.taintOf (g.base + j) f.a)], 0⟩

/-- `shfl` (R111). -/
def execShfl (f : Fields) : State → Host.Outcome State Fault Refusal :=
  issued (.shfl f) (crossOp f (fun _ => 1) (shflLane f))

/-! ### `vote`, `ballot` and `match` (R112) -/

/-- The vote word (R112). -/
def voteWord (test : Nat) (act exited : List Word) : Word :=
  let named := act.length + exited.length
  let true_ := (act.filter (· ≠ 0)).length
  let all := act ++ exited
  let r : Bool := match test with
    | 0 => true_ == named
    | 1 => 1 ≤ true_
    | 2 => all.all (· == all.headD 0)
    | _ => named < 2 * true_
  BitVec.ofNat 32 (named * 2 ^ 16 + true_ * 2 ^ 8 + b2n r)

/-- `vote` in one lane. -/
def voteLane (f : Fields) (sh : Sheaf) (_ : Bool) (g : Seg) (t : Nat) : LaneOut :=
  segOut f sh g t (voteWord (f.mod 0 3) (g.act.map (fun i => sh.read f.imm (g.base + i) f.a))
    (g.exited.map (fun _ => 0)))

/-- `vote` (R112). -/
def execVote (f : Fields) : State → Host.Outcome State Fault Refusal :=
  issued (.vote f) (crossOp f (fun _ => 1) (voteLane f))

/-- Registers that a mask over a segment takes (R112). -/
def maskRegs (n : Nat) : Nat := if n = 64 then 2 else 1

/-- A mask over a segment in one or two registers. -/
def maskVals (m : BitVec 64) (taint : Bool) : List (Word × Bool) := pairVals m taint

/-- `ballot` in one lane. -/
def ballotLane (f : Fields) (sh : Sheaf) (_ : Bool) (g : Seg) (t : Nat) : LaneOut :=
  let act := f.mod 0 1 == 1
  let m := maskOf (g.act.filter (fun i => act || sh.read f.imm (g.base + i) f.a != 0))
  ⟨t, maskVals m (!act && g.taint sh f), 0⟩

/-- `ballot` (R112). -/
def execBallot (f : Fields) : State → Host.Outcome State Fault Refusal :=
  issued (.ballot f) (crossOp f maskRegs (ballotLane f))

/-- The peer group of a thread: the active threads of its segment with its value (R112). -/
def peers (f : Fields) (sh : Sheaf) (g : Seg) (t : Nat) : List Nat :=
  g.act.filter (fun i => sh.read f.imm (g.base + i) f.a == sh.read f.imm t f.a)

/-- `match` in one lane. -/
def matchLane (f : Fields) (sh : Sheaf) (_ : Bool) (g : Seg) (t : Nat) : LaneOut :=
  let l := peers f sh g t
  if f.mod 0 1 = 1 then ⟨t, maskVals (maskOf l) (g.taint sh f), 0⟩
  else segOut f sh g t (BitVec.ofNat 32 (l.length * 2 ^ 16 +
    (l.filter (· < t - g.base)).length * 2 ^ 8 + l.headD 0))

/-- `match` (R112). -/
def execMatchV (f : Fields) : State → Host.Outcome State Fault Refusal :=
  issued (.matchV f) (crossOp f (fun n => if f.mod 0 1 = 1 then maskRegs n else 1) (matchLane f))

/-! ### `rdx` and `scan` (R113) -/

/-- The combine of R113 with the flags it raises. -/
def combine (z : Bool) (op : Nat) (x y : Word) : Word × Word :=
  match op with
  | 0 => (x + y, 0)
  | 1 => (pickMin false x y, 0)
  | 2 => (pickMax false x y, 0)
  | 3 => (x &&& y, 0)
  | 4 => (x ||| y, 0)
  | 5 => (x ^^^ y, 0)
  | 6 => addF32 z x y
  | _ => maxF32 z x y

/-- The combine over values that may be absent; the flags go to the accumulator (R113). -/
def combOpt (z : Bool) (op : Nat) (x y : Option Word) : Option Word × Word :=
  match x, y with
  | none, y => (y, 0)
  | x, none => (x, 0)
  | some x, some y => let r := combine z op x y; (some r.1, r.2)

/-- One halving round of `rdx` over `x[0 .. 2h-1]` (R113). -/
def rdxRound (z : Bool) (op h : Nat) (x : List (Option Word)) (ast : Word) : List (Option Word) × Word :=
  let l := (List.range h).map (fun i => combOpt z op (x.getD i none) (x.getD (i + h) none))
  (l.map (·.1), l.foldl (fun a p => a ||| p.2) ast)

/-- The rounds of `rdx` from `h` down to 1 (R113). -/
def rdxRounds (z : Bool) (op : Nat) : Nat → List (Option Word) → Word → List (Option Word) × Word
  | 0, x, ast => (x, ast)
  | n + 1, x, ast =>
    let h := 2 ^ n
    let (x, ast) := rdxRound z op h x ast
    rdxRounds z op n x ast

/-- The values of a segment by index, absent for inactive threads (R113). -/
def Seg.slots (g : Seg) (sh : Sheaf) (f : Fields) : List (Option Word) :=
  (List.range g.size).map (fun i =>
    if i ∈ g.exited then some 0
    else if i ∈ g.act then some (sh.read f.imm (g.base + i) f.a) else none)

/-- `rdx` in one lane. -/
def rdxLane (f : Fields) (sh : Sheaf) (z : Bool) (g : Seg) (t : Nat) : LaneOut :=
  let r := rdxRounds z (f.mod 0 3) (Nat.log2 g.size) (g.slots sh f) 0
  segOut f sh g t ((r.1.getD 0 none).getD 0) r.2

/-- `rdx` (R113). -/
def execRdx (f : Fields) : State → Host.Outcome State Fault Refusal :=
  issued (.rdx f) (crossOp f (fun _ => 1) (rdxLane f))

/-- The prefix combines of a segment and the flags of all of them (R113). -/
def scanAll (z : Bool) (op : Nat) (x : List (Option Word)) : List (Option Word) × Word :=
  let r := x.foldl (fun (acc : List (Option Word) × Option Word × Word) v =>
    let c := combOpt z op acc.2.1 v
    (acc.1 ++ [c.1], c.1, acc.2.2 ||| c.2)) ([], none, 0)
  (r.1, r.2.2)

/-- `scan` in one lane: the taint is that of the threads of lower or equal index. -/
def scanLane (f : Fields) (sh : Sheaf) (z : Bool) (g : Seg) (t : Nat) : LaneOut :=
  let r := scanAll z (f.mod 0 3) (g.slots sh f)
  let i := t - g.base
  ⟨t, [((r.1.getD i none).getD 0, ((g.vals sh f).filter (fun p => p.1 ≤ i)).any (fun p => p.2.2))], r.2⟩

/-- `scan` (R113). -/
def execScan (f : Fields) : State → Host.Outcome State Fault Refusal :=
  issued (.scan f) (crossOp f (fun _ => 1) (scanLane f))

/-! ### `elect` (R110) -/

/-- The election word of a thread (R110). -/
def electWord (hi : Bool) (act : List Nat) (i : Nat) : Word :=
  let c := if hi then act.getLastD 0 else act.headD 0
  BitVec.ofNat 32 (act.length * 2 ^ 16 + c * 2 ^ 8 + b2n (c == i))

/-- `elect` (R110): no wait, no taint, no exited mask. -/
def execElect (f : Fields) : State → Host.Outcome State Fault Refusal :=
  issued (.elect f) fun is s =>
    let sh := s.sheaf is.sid
    let z := segSize sh.width f
    if sh.width < z then is.illegal s
    else .done (s.writeLanes is.sid f.d 1 (is.act.map (fun t =>
      let g := is.seg sh z t
      ⟨t, [(electWord (f.mod 0 1 == 1) g.act (t - g.base), false)], 0⟩)))

end Sys2Proof.Machine
end

