-- ==== Sys2Proof/Machine/Weights.lean ====
section
/-! DEFINITION. The weight store of a compute die: its regions and their states, fills, refresh and
retention, and `ldw`, `wst.fill` and `wst.stat` (R226 to R234). -/

namespace Sys2Proof.Machine

/-- The compute die of a core (R2). -/
def dieOf (c : Nat) : Nat := c / 32

/-! ### Regions (R227, R228) -/

/-- A region's first byte and its length. -/
def Region.range (r : Region) : Nat × Nat := (r.base.toNat * 2 ^ 21, (r.size.toNat + 1) * 2 ^ 21)

/-- `n` bytes from `off` upwards lie in a region that is in use.  DESIGN CHOICE (log 103): a region whose STATE is unused
holds no range, so that a range in its banks lies in no region. -/
def Region.covers (r : Region) (off n : Nat) : Bool :=
  r.state != 0 && decide (r.range.1 ≤ off ∧ off + n ≤ r.range.1 + r.range.2)

/-- The region that holds a range. -/
def ComputeDie.regionAt (d : ComputeDie) (off n : Nat) : Option Nat :=
  (List.range 64).find? (fun i => (d.region i).covers off n)

/-- A region changed. -/
def State.modRegion (s : State) (die i : Nat) (f : Region → Region) : State :=
  s.modDie die (fun d => { d with regions := d.regions.put i (f (d.region i)) })

/-- The sub-code of R230 that a range of `n` bytes at a multiple of `al` meets, for a region in state
`want`. -/
def ComputeDie.weightFault (d : ComputeDie) (off n al : Nat) (want : BitVec 2) : Option Nat :=
  if 2 ^ 30 < off + n then some 1
  else if off % al ≠ 0 then some 2
  else match d.regionAt off n with
    | none => some 3
    | some i => if (d.region i).state ≠ want then some 4 else none

/-- An accepted read of a range of a die is unfinished: an `ldw`, or a matrix operation that has not read
its operands. -/
def State.readsWeights (s : State) (die lo n : Nat) : Bool :=
  s.ops.any (fun p => match p.2.instr with
    | .ldw _ => dieOf p.2.core == die && p.2.lanes.any (fun l => !l.done && decide (lo ≤ l.va.toNat ∧ l.va.toNat < lo + n))
    | _ => false) ||
  s.pods.any (fun p => (p.2.mul ++ p.2.sel).any (fun m => match m.a with
    | .weight d off _ => d == die && decide (lo ≤ off ∧ off < lo + n)
    | _ => false))

/-- The descriptor of a region that has been opened at timebase `now`. -/
def Region.opened (r : Region) (now : Nat) : Region :=
  { r with
    state := 1
    wait := none
    deadline := if r.short then BitVec.ofNat 64 (now + r.life.toNat * 1000) else r.deadline }

/-- The contents of a region become undefined (R228, R229). -/
def State.dropRegion (s : State) (die : Nat) (r : Region) : State :=
  s.modDie die (fun d =>
    { d with bytes := d.bytes.filter (fun p => p.1 < r.range.1 ∨ r.range.1 + r.range.2 ≤ p.1) })

/-- The contents of a short-lived region are undefined from its DEADLINE on; DESIGN CHOICE (log 23): still so when it is
opened again, until a fill writes them (R229). -/
def State.expireBytes (s : State) (die i : Nat) : State :=
  let r := (s.die die).region i
  if r.short ∧ r.deadline.toNat ≤ s.now then s.dropRegion die r else s

/-- A waiting transition takes place where its condition holds (R228).  DEDUCED (log 82): a region that has
expired while its seal waited stays expired. -/
def State.settleRegion (s : State) (die i : Nat) : State :=
  let r := (s.die die).region i
  let busy := s.readsWeights die r.range.1 r.range.2
  match r.wait with
  | none => s
  | some .seal => if r.pend = 0 then s.modRegion die i (fun r => { r with
      state := if r.state = 3 then 3 else 2
      wait := none }) else s
  | some .reopen => if busy then s else (s.expireBytes die i).modRegion die i (fun r => r.opened s.now)
  | some .release =>
    if busy ∨ r.pend ≠ 0 then s
    else (s.modRegion die i (fun r => { r with state := 0, wait := none })).dropRegion die r

/-- Every waiting transition of a die that can take place does. -/
def State.settleRegions (s : State) (die : Nat) : State :=
  each (List.range 64) (fun i s => s.settleRegion die i) s

/-- The low half of a descriptor as a driver writes it. -/
def regionOf (r : Region) (v : Nat) : Region :=
  { r with
    short := bit v 61
    base := BitVec.ofNat 9 (bits v 52 9)
    size := BitVec.ofNat 9 (bits v 43 9)
    life := BitVec.ofNat 15 (bits v 28 15) }

/-- A descriptor write is ignored whatever its STATE (R227). -/
def ComputeDie.refuses (d : ComputeDie) (i v : Nat) : Bool :=
  let r := d.region i
  let n := regionOf r v
  let life := n.life.toNat
  bits v 24 4 != 0 || decide (511 < n.base.toNat + n.size.toNat) ||
    (n.short && (life == 0 || decide (16000 < life))) ||
    (r.state != 0 && decide (n ≠ r)) ||
    (bits v 62 2 != 0 && (List.range 64).any (fun j =>
      j != i && (d.region j).state != 0 && decide (n.range.1 < (d.region j).range.1 + (d.region j).range.2 ∧
        (d.region j).range.1 < n.range.1 + n.range.2)))

/-- An ignored write is counted (R227). -/
def State.refuseRegion (s : State) (die : Nat) : State :=
  s.modDie die (fun d => { d with refused := d.refused + 1 })

/-- REGION_OPEN (R228): the driver writes STATE 1; only STATE 0 ends a seal that waits.  DESIGN CHOICE (log 103): STATE 1 or
2 written to a region whose release waits is taken, where the table has a row for it, and does not cancel the release. -/
def execRegionOpen (die i v : Nat) (s : State) : Host.Outcome State Fault Refusal :=
  .next (
    let r := (s.die die).region i
    if (s.die die).refuses i (setBits v 62 2 1) ∨ r.state = 1 then s.refuseRegion die
    else if r.state = 2 then
      (s.modRegion die i (fun r => if r.wait.isSome then r else { r with wait := some .reopen })).settleRegion die i
    else (if r.state = 3 then s.expireBytes die i else s).modRegion die i (fun r =>
      let n := { (regionOf r v).opened s.now with wait := if r.wait = some .reopen then none else r.wait }
      if r.state = 0 then { n with pend := 0 } else n))

/-- REGION_SEAL (R228): the driver writes STATE 2. -/
def execRegionSeal (die i v : Nat) (s : State) : Host.Outcome State Fault Refusal :=
  .next (
    let r := (s.die die).region i
    if (s.die die).refuses i (setBits v 62 2 2) ∨ r.state ≠ 1 ∨ r.wait = some .seal then s.refuseRegion die
    else (s.modRegion die i (fun r =>
      if r.wait.isSome then r else { r with wait := some .seal })).settleRegion die i)

/-- REGION_RELEASE (R228): the driver writes STATE 0; the fields of an unused region may change with it. -/
def execRegionRelease (die i v : Nat) (s : State) : Host.Outcome State Fault Refusal :=
  .next (
    let r := (s.die die).region i
    if (s.die die).refuses i (setBits v 62 2 0) then s.refuseRegion die
    else if r.state = 0 then s.modRegion die i (fun r => regionOf r v)
    else (s.modRegion die i (fun r => { r with wait := some .release })).settleRegion die i)

/-- REGION_DEADLINE (R228): a short-lived region expires. -/
def execRegionDeadline (die i : Nat) (s : State) : Host.Outcome State Fault Refusal :=
  .next (
    let r := (s.die die).region i
    if r.short ∧ (r.state = 1 ∨ r.state = 2) ∧ r.deadline.toNat ≤ s.now then
      s.modRegion die i (fun r => { r with state := 3 })
    else s)

/-- WEIGHT_STORE_REFRESH (R229): a bank of a region that is refreshed is unreadable for 96 ns. -/
def execWeightStoreRefresh (die bank : Nat) (s : State) : Host.Outcome State Fault Refusal :=
  .next (
    let d := s.die die
    let free : Bool := match d.refresh with
      | some p => decide (p.2 ≤ s.now)
      | none => true
    let mine := (List.range 64).any (fun i =>
      let r := d.region i
      r.state != 0 && !r.short && decide (r.base.toNat ≤ bank ∧ bank ≤ r.base.toNat + r.size.toNat))
    if free ∧ mine then s.modDie die (fun d => { d with refresh := some (bank, s.now + 96) }) else s)

/-! ### Reads (R226, R229, R231) -/

/-- A read of a range waits for a refresh. -/
def State.refreshing (s : State) (die off n : Nat) : Bool :=
  match (s.die die).refresh with
  | some p => decide (s.now < p.2 ∧ off / 2 ^ 21 ≤ p.1 ∧ p.1 ≤ (off + n - 1) / 2 ^ 21)
  | none => false

/-- A read of a range past the deadline of its region returns poison with code 0x12; one that meets
poison, with code 0x11. -/
def State.weightBad (s : State) (die off n : Nat) : Option Nat :=
  let d := s.die die
  let expired : Bool := match d.regionAt off n with
    | some i => (d.region i).short && decide ((d.region i).deadline.toNat ≤ s.now)
    | none => true
  if expired then some 0x12
  else if d.poison.any (fun a => decide (off ≤ a ∧ a < off + n)) then some 0x11
  else none

/-- Bytes of a die's weight store; one that no fill has written is undefined. -/
def State.weightBytes (s : State) (die off n : Nat) : List Byte :=
  (List.range n).map (fun i =>
    ((s.die die).bytes.get (off + i)).getD (Config.freeByte (s.free * 2 ^ 48 + off + i)))

/-- `ldw` (R234). -/
def execLdw (f : Fields) : State → Host.Outcome State Fault Refusal :=
  issued (.ldw f) fun is s =>
    let sh := s.sheaf is.sid
    let d := s.die (dieOf (coreOf is.sid))
    let k := wideRegs (f.mod 0 2)
    let off (t : Nat) : Word := sh.read f.imm t f.a + sh.read f.imm t f.b
    let bad := is.act.filter (fun t => (d.weightFault (off t).toNat (4 * k) (4 * k) 2).isSome)
    match bad with
    | t :: _ => is.fault 6 ((d.weightFault (off t).toNat (4 * k) (4 * k) 2).getD 0) bad (off t).toNat s
    | [] => .done (s.launch is (.ldw f) (is.act.map (fun t =>
        { sh.lane f.imm is.act [] (regRun f.d k) t with
          va := (off t).zeroExtend 64
          addrs := sh.capture f.imm t [f.a, f.b]
          ataint := sh.taintOf t f.a || sh.taintOf t f.b
          taint := sh.taintOf t f.a || sh.taintOf t f.b })))

/-- The lanes of an `ldw` land: those that meet poison receive undefined words (R231). -/
def State.landLdwLanes (s : State) (o : Nat) (f : Fields) : State :=
  let k := wideRegs (f.mod 0 2)
  s.landEach o (fun op l s =>
    let die := dieOf op.core
    let bs := s.weightBytes die l.va.toNat (4 * k)
    if (s.weightBad die l.va.toNat (4 * k)).isSome then
      let r := (List.range k).foldl (fun (acc : List Word × State) _ =>
        let (x, s) := acc.2.undef
        (acc.1 ++ [x], s)) ([], s)
      r.2.landDsts o op.sid l f.d r.1
    else { s with free := s.free + 1 }.landDsts o op.sid l f.d (bytesWords k bs))

/-- Some lane of an `ldw` cannot make its read now: it meets a refresh, or waits for an earlier acquire or `ld.con` of its
thread (R229, R280, R285). -/
def State.ldwWaits (s : State) (o : Nat) (op : LongOp) (n : Nat) : Bool :=
  op.lanes.any (fun l => !l.done && (s.refreshing (dieOf op.core) l.va.toNat n || s.barred op.sid op.gen l.thread l.ataint o))

/-- `ldw` completes where no refresh and no poison is met. -/
def State.landLdw (s : State) (o : Nat) (op : LongOp) (f : Fields) : State :=
  let n := 4 * wideRegs (f.mod 0 2)
  let die := dieOf op.core
  if s.ldwWaits o op n || op.lanes.any (fun l => !l.done && (s.weightBad die l.va.toNat n).isSome) then s
  else (s.landLdwLanes o f).settleRegions die

/-- RETENTION_EXPIRED_FAULT on an `ldw` (R231, R226): its lanes receive poison, and the context fault. -/
def State.expireLdw (s : State) (o : Nat) (op : LongOp) (f : Fields) : State :=
  let n := 4 * wideRegs (f.mod 0 2)
  let die := dieOf op.core
  let bad := op.lanes.filter (fun l => !l.done && (s.weightBad die l.va.toNat n).isSome)
  if s.ldwWaits o op n then s
  else match bad with
  | [] => s
  | l :: _ =>
    let code := (s.weightBad die l.va.toNat n).getD 0x12
    let s' := (s.landLdwLanes o f).settleRegions die
    s'.lateFault op code 0 (bad.map (·.thread)) l.va.toNat

/-- `wst.stat` (R233). -/
def execWstStat (f : Fields) : State → Host.Outcome State Fault Refusal :=
  issued (.wstStat f) fun is s =>
    let sh := s.sheaf is.sid
    let d := s.die (dieOf (coreOf is.sid))
    if is.act.any (fun t => 64 ≤ (sh.read f.imm t f.a).toNat) then is.illegal s
    else .done (s.writeLanes is.sid f.d 1 (is.act.map (fun t =>
      let r := d.region (sh.read f.imm t f.a).toNat
      ⟨t, [(BitVec.ofNat 32 (cat [(r.state.toNat, 2), (b2n r.short, 1), (0, 5), (r.pend.toNat, 24)]),
        sh.taintOf t f.a)], 0⟩)))

/-! ### Fills (R232) -/

/-- `wst.fill` (R232): with the values of the lowest thread whose guards hold. -/
def execWstFill (f : Fields) : State → Host.Outcome State Fault Refusal :=
  issued (.wstFill f) fun is s =>
    if is.act = [] then .done s
    else
      let sh := s.sheaf is.sid
      let die := dieOf (coreOf is.sid)
      let d := s.die die
      let off := (sh.read f.imm is.lead f.b).toNat
      let n := (sh.read f.imm is.lead f.c).toNat
      let r := s.run is.sid
      if n = 0 ∨ 2 ^ 24 < n then is.illegal s
      else
        let sub := if 2 ^ 30 < off + n then some 1
          else if n % 64 ≠ 0 then some 2
          else d.weightFault off n 64 1
        match sub with
        | some c => is.fault 6 c [is.lead] off s
        | none =>
          let i := (d.regionAt off n).getD 0
          let (k, s) := s.fresh
          let s := s.modRegion die i (fun r => { r with pend := r.pend + BitVec.ofNat 24 (n / 64) })
          .done (s.modDie die (fun d => { d with fills := d.fills.put k ⟨sh.ctx, sh.readPair f.imm is.lead f.a false,
            off, n / 64, i, is.sid, sh.gen, is.lead, wordAddr r.pc (some r.k), is.group.any (fun t => (sh.thread t).priv), false,
            none, if sh.taintRun is.lead f.a (if single f.a then 1 else 2) || sh.taintOf is.lead f.b || sh.taintOf is.lead f.c then k else 0⟩ }))

/-- Bytes of a fill stored in the weight store; those at `poison` are written as poison. -/
def ComputeDie.fillBytes (d : ComputeDie) (off : Nat) (bs : List Byte) (poison : List Nat) : ComputeDie :=
  { d with
    bytes := (bs.mapIdx (fun i b => (off + i, b))).foldl (fun m p => m.put p.1 p.2) d.bytes
    poison := d.poison.filter (fun a => a < off ∨ off + bs.length ≤ a) ++
      poison.map (fun i => off + i) }

/-- A fill engine; its accesses are those of a core of its die. -/
def Fill.engine (q : Fill) : Engine := ⟨coreOf q.sid, 7, q.pc.toNat⟩

/-- A fill may move: no halt holds it, a held one has its turn, its page does not wait for a replay, and no `ld.con` has to
come first (R188, R285, R434). -/
def State.mayFill (s : State) (die k : Nat) (q : Fill) : Bool :=
  !s.onHold q.ctx q.held && !s.awaitsReplay q.ctx q.stuck && !s.consuming q.sid q.gen q.thread q.bar &&
    (!q.held || (s.die die).fills.all (fun p => !(p.2.held && p.2.ctx == q.ctx) || decide (k ≤ p.1)))

/-- An ENGINE_FAULT of a die's fill engine (R424, R432): the fill's next source bytes cannot be read. -/
def State.faultFill (s : State) (die k : Nat) : State :=
  match (s.die die).fills.get k with
  | none => s
  | some q =>
    if !s.mayFill die k q then s
    else match s.engineLoad q.engine q.ctx q.va.toNat 64 q.priv with
      | .ok _ => s
      | .error (e, va, _) =>
        if !engineBad e then s
        else (s.modDie die (fun d => { d with fills := d.fills.put k { q with held := true } })).engineFault
          q.ctx e q.pc.toNat va 255 7 (baseOfCore (32 * die))

/-- The bytes among the next 64 of a fill that are poison. -/
def State.fillPoison (s : State) (q : Fill) : List Nat :=
  (List.range 64).filter (fun i => match s.engineLoad q.engine q.ctx (q.va.toNat + i) 1 q.priv with
    | .ok (_, po, _) => po
    | .error _ => true)

/-- WEIGHT_FILL_BYTES_WRITTEN (R232): the next 64 bytes of a fill; a source that is not present is
recorded, and the fill waits for its replay (R188, R269). -/
def execWeightFillBytesWritten (die k : Nat) (s : State) : Host.Outcome State Fault Refusal :=
  .next (match (s.die die).fills.get k with
    | none => s
    | some q =>
      if !s.mayFill die k q then s
      else
        match s.engineLoad q.engine q.ctx q.va.toNat 64 q.priv with
        | .error (0, va, w) =>
          (s.engineReplay q.ctx va w (coreOf q.sid)).modDie die (fun d => { d with
            fills := d.fills.put k { q with stuck := some (va / 65536) } })
        | .error _ => s
        | .ok (bs, po, s') =>
          let s := s'.modDie die (fun d => d.fillBytes q.off bs (if po then s.fillPoison q else []))
          let s := s.modRegion die q.region (fun r => { r with pend := r.pend - 1 })
          let s := s.modDie die (fun d => { d with
            fills := if q.left ≤ 1 then d.fills.del k
              else d.fills.put k { q with va := q.va + 64, off := q.off + 64, left := q.left - 1 } })
          s.settleRegion die q.region)

end Sys2Proof.Machine
end

