-- ==== Sys2Proof/Machine/Haar.lean ====
section
/-! DEFINITION. Activations in the Haar domain: the transforms, thresholds and survivor masks, the lift
unit's jobs, and the Haar instructions (R235 to R256). -/

namespace Sys2Proof.Machine

/-! ### The transforms of one line (R237 to R239)

A value is an integer: the F32 pattern for a float tag, the number itself for an integer tag. -/

/-- (a + b) / 2, or (a - b) / 2, in F32 with one rounding (R237). -/
def halfSum (sub : Bool) (a b : Int) : Int :=
  let x := f32.decode a.toNat
  let y := if sub then (f32.decode b.toNat).neg else f32.decode b.toNat
  match x, y with
  | .fin n1 m1 e1, .fin n2 m2 e2 =>
    let (n, m, e) := addFin .rne n1 m1 e1 n2 m2 e2
    (finish f32 false n (roundFin f32 .rne n m (e - 1) false)).1
  | x, y => (addVal f32 false .rne x y).1

/-- a + b, or a - b, in F32 (R239). -/
def fullSum (sub : Bool) (a b : Int) : Int :=
  let y := f32.decode b.toNat
  (addVal f32 false .rne (f32.decode a.toNat) (if sub then y.neg else y)).1

/-- A coarse value and a detail from two values (R237). -/
def fwdPair (int : Bool) (a b : Int) : Int × Int :=
  if int then (b + (a - b) / 2, a - b) else (halfSum false a b, halfSum true a b)

/-- Two values from a coarse value and a detail (R239). -/
def invPair (int : Bool) (s d : Int) : Int × Int :=
  if int then (d + (s - d / 2), s - d / 2) else (fullSum false s d, fullSum true s d)

/-- Neighbours two by two. -/
def pairUp : List Int → List (Int × Int)
  | a :: b :: l => (a, b) :: pairUp l
  | _ => []

/-- A detail below its level threshold is replaced by zero (R242). -/
def cutDetail (int : Bool) (t : BitVec 16) (d : Int) : Int :=
  if int then (if (d.natAbs : Int) < t.toNat then 0 else d)
  else
    let abs (v : FVal) : FVal := match v with
      | .fin _ m e => .fin false m e
      | .inf _ => .inf false
      | v => v
    let x := f32.decode d.toNat
    let y := f16.decode t.toNat
    if !x.isNan ∧ !y.isNan ∧ (cmpVal (abs x) (abs y)).1 then 0 else d

/-- The forward transform of a line with thresholds, in the coefficient-tree layout (R237, R238, R242). -/
def haarFwd (int : Bool) : Nat → List (BitVec 16) → List Int → List Int
  | 0, _, c => c
  | l + 1, thr, c =>
    let ps := (pairUp c).map (fun p => fwdPair int p.1 p.2)
    haarFwd int l (thr.drop 1) (ps.map (·.1)) ++ ps.map (fun p => cutDetail int (thr.headD 0) p.2)

/-- The inverse transform of a line in the coefficient-tree layout (R239). -/
def haarInv (int : Bool) : Nat → List Int → List Int
  | 0, c => c
  | l + 1, c =>
    let h := c.length / 2
    ((haarInv int l (c.take h)).zip (c.drop h)).flatMap (fun p =>
      let q := invPair int p.1 p.2
      [q.1, q.2])

/-! ### Whole tiles -/

/-- Rows and columns changed over. -/
def transposed (n : Nat) (g : List (List Int)) : List (List Int) :=
  (List.range n).map (fun c => g.map (fun r => r.getD c 0))

/-- A function of a line applied to every line of an axis: rows for Haar-x, columns for Haar-y. -/
def onLines (axis cols : Nat) (f : Nat → List Int → List Int) (g : List (List Int)) : List (List Int) :=
  if axis = 1 then g.mapIdx f
  else transposed g.length ((transposed cols g).mapIdx f)

/-- The bits of a mask, line by line, over the blocks of 8 positions (R243). -/
def maskLine (bit : Nat → Bool) (q : Nat) (l : List Int) : List Int :=
  l.mapIdx (fun i x => if bit (q * (l.length / 8) + i / 8) then x else 0)

/-- Every survivor bit from stored values (R245). -/
def survivors (axis cols : Nat) (live : Int → Bool) (g : List (List Int)) : List Bool :=
  let lines := if axis = 1 then g else transposed cols g
  lines.flatMap (fun l => (List.range (l.length / 8)).map (fun j => ((l.drop (8 * j)).take 8).any live))

/-- The forward transform of a tile under a tag. -/
def forward (g : BitVec 16) (thr : List (BitVec 16)) (cols : Nat) (x : List (List Int)) : List (List Int) :=
  onLines (tagAxis g) cols (fun _ l => haarFwd (tagInt g) (tagLevels g) thr l) x

/-- The inverse transform of a tile under a tag, with its mask. -/
def inverse (g : BitVec 16) (bit : Nat → Bool) (cols : Nat) (x : List (List Int)) : List (List Int) :=
  onLines (tagAxis g) cols (fun q l => haarInv (tagInt g) (tagLevels g) (maskLine bit q l)) x

/-- A value of the transform for a source value (R251). -/
def coefOf (int : Bool) (v : CVal) : Int :=
  if int then (toInt 8 .rne v).1 else ((toFloat false 0 .rne v).1 : Int)

/-- A value of the transform as a value to convert. -/
def coefVal (int : Bool) (x : Int) : CVal := if int then .int x else .flt (f32.decode x.toNat)

/-- A value of the transform in its storage format, and whether it saturated (R240). -/
def storeCoef (int : Bool) (fmt : Nat) (x : Int) : Nat × Bool :=
  if !int ∧ fmt = 0 then (x.toNat % 2 ^ 32, false)
  else
    let r := encodeElem fmt .rne (coefVal int x)
    (r.1, int && r.2 &&& astCVT != 0)

/-! ### Scratchpad tiles -/

/-- The bytes of a tile's row. -/
def State.tileRow (s : State) (w : Nat) (t : Tile) (r : Nat) : List Byte :=
  (s.wg w).scratch.readN (t.off + r * t.pitchB) t.rowB

/-- The elements of a tile as their bits. -/
def State.tileElems (s : State) (w : Nat) (t : Tile) : List (List Nat) :=
  (List.range t.nrows).map (fun r => unpackRow t.fmt.toNat t.ncols (s.tileRow w t r))

/-- Rows of element bits stored in a tile. -/
def State.putTile (s : State) (w : Nat) (t : Tile) (rows : List (List Nat)) : State :=
  each (rows.mapIdx (fun r es => (r, es))) (fun p s =>
    s.modScratch w (fun m => m.writeN (t.off + p.1 * t.pitchB) (packRow t.fmt.toNat p.2))) s

/-- A bit of a tile's survivor mask (R244). -/
def State.maskBit (s : State) (w : Nat) (t : Tile) (k : Nat) : Bool :=
  ((s.wg w).scratch.read (t.maskOff + k / 8)).getLsbD (k % 8)

/-- Survivor bits stored in a tile's mask area (R244). -/
def State.putMask (s : State) (w : Nat) (t : Tile) (l : List Bool) : State :=
  s.modScratch w (fun m => m.writeN t.maskOff (packRow 16 (l.map b2n)))

/-- The number of survivor bits of a tile: lines times blocks (R243). -/
def Tile.maskBits (t : Tile) : Nat :=
  if tagAxis t.dom = 1 then t.nrows * (t.ncols / 8) else t.ncols * (t.nrows / 8)

/-- Stored element bits are other than +0 and -0 (R245). -/
def liveBits (fmt : Nat) (x : Int) : Bool :=
  if fmt < 8 then x.toNat % 2 ^ ((fmtBits fmt).getD 0 - 1) != 0 else x != 0

/-- A tile holds the transform of values under tag `g`, with its mask (R242, R240, R245). -/
def State.storeHaar (s : State) (w n : Nat) (g : BitVec 16) (thr : List (BitVec 16)) (x : List (List Int)) : State :=
  let t := { s.tile w n with dom := g }
  let fmt := t.fmt.toNat
  let st := (forward g thr t.ncols x).map (fun r => r.map (storeCoef (tagInt g) fmt))
  let s := s.putTile w t (st.map (fun r => r.map (·.1)))
  let s := s.putMask w t (survivors (tagAxis g) t.ncols (liveBits fmt) (st.map (fun r => r.map (fun p => (p.1 : Int)))))
  s.modTileN w n (fun t => { t with dom := g, sat := t.sat || st.any (fun r => r.any (·.2)) })

/-- A tile reconstructed under tag `g`: the spatial values, and the spatial tag (R247). -/
def State.restoreTile (s : State) (w n : Nat) (g : BitVec 16) : State :=
  let t := { s.tile w n with dom := g }
  let fmt := t.fmt.toNat
  let int := tagInt g
  let x := (s.tileElems w t).map (fun r => r.map (fun (e : Nat) =>
    if !int ∧ fmt = 0 then (e : Int) else coefOf int (elemVal fmt e)))
  let st := (inverse g (s.maskBit w t) t.ncols x).map (fun r => r.map (storeCoef int fmt))
  let s := s.putTile w t (st.map (fun r => r.map (·.1)))
  s.modTileN w n (fun t => { t with dom := 0, sat := t.sat || st.any (fun r => r.any (·.2)) })

/-! ### Jobs (R246) -/

/-- A job on a scratchpad tile is accepted: the tile moves to filling with PEND 0, and its use count counts the job (R171). -/
def State.tileJob (s : State) (sid w n : Nat) (kind : JobKind) (tag : BitVec 16) : State :=
  (s.pushJob (coreOf sid) ⟨kind, w, false, n, false, 0, tag, s.thresholds w (tagTh tag), s.next, [], 0, s.wordPc sid, false⟩).modTileN w n
    (fun t => { t with state := .filling, pend := 0, uses := t.uses + 1 })

/-- The reconstruction of a scratchpad tile is asked for: the state in which the instruction waits on. -/
def Issue.forceTile (is : Issue) (s : State) (w n : Nat) : Result :=
  let c := coreOf is.sid
  if s.liftRoom c 1 then is.waits none (s.tileJob is.sid w n .forced (s.tile w n).dom) else is.waits none s

/-- A tile whose job has ended. -/
def State.endTileJob (s : State) (w n : Nat) : State :=
  s.modTileN w n (fun t => { t with state := .ready, pend := 0, uses := t.uses - 1 })

/-- The values that `sth` takes from its source (R251). -/
def State.sthSource (s : State) (j : Job) : List (List CVal) :=
  let t := s.tile j.wg j.tile
  if j.srcAcc then
    let int := if tagAxis j.tag = 0 then decide (t.fmt.toNat ∈ [8, 9, 10, 11, 12, 13, 14, 15, 16]) else tagInt j.tag
    (List.range t.nrows).map (fun r => (((j.rows.get r).getD []).take t.ncols).map (patVal int))
  else
    let src := s.tile j.wg j.src
    (s.tileElems j.wg src).map (fun r => r.map (elemVal src.fmt.toNat))

/-- `sth` as a job (R251). -/
def State.runSth (s : State) (j : Job) : State :=
  let x := s.sthSource j
  let t := s.tile j.wg j.tile
  let s := if tagAxis j.tag ≠ 0 then
      s.storeHaar j.wg j.tile j.tag j.thr (x.map (fun r => r.map (coefOf (tagInt j.tag))))
    else s.putTile j.wg t (x.map (fun r => r.map (fun v => (encodeElem t.fmt.toNat .rne v).1)))
  let s := s.endTileJob j.wg j.tile
  if j.srcAcc then s else s.useTile j.wg j.src (· - 1)

/-- The rows of an accumulator tile as values of a transform. -/
def Acc.values (a : Acc) (int : Bool) : List (List Int) :=
  (List.range 64).map (fun m => (a.row m).map (fun w => if int then w.toInt else (w.toNat : Int)))

/-- Rows of values as a job writes them: patterns, and the rows in which a value of an integer tag saturated (R240). -/
def accRows (int : Bool) (x : List (List Int)) : List (Nat × List Word) × BitVec 64 :=
  let st := x.map (fun r => r.map (storeCoef int (if int then 8 else 0)))
  (st.mapIdx (fun m r => (m, r.map (fun p => BitVec.ofNat 32 p.1))),
    maskOf ((st.mapIdx (fun m r => (m, r.any (·.2)))).filterMap (fun p => if p.2 then some p.1 else none)))

/-- The job writes its result in row groups of 16: a spatial or a Haar-x one (R246). -/
def Job.grouped (j : Job) : Bool :=
  j.acc && (match j.kind with
    | .hfwd | .hmaskUpd => tagAxis j.tag == 1
    | _ => true)

/-- The job keeps a Haar tile's survivor bits in step with its rows (R245). -/
def Job.marks (j : Job) : Bool := j.kind == .hfwd || j.kind == .hmaskUpd

/-- The whole result of a job on an accumulator tile: its transform, or, of `hmask.upd`, its rows as they stand (R252,
R247, R255). -/
def Job.result (j : Job) (a : Acc) : List (Nat × List Word) × BitVec 64 :=
  let int := tagInt j.tag
  match j.kind with
  | .hmaskUpd => ((List.range 64).map (fun m => (m, a.row m)), 0)
  | .hfwd => accRows int (forward j.tag j.thr 64 (a.values int))
  | _ => accRows int (inverse j.tag (fun k => a.mask.getLsbD k) 64 (a.values int))

/-- The survivor bits that rows of a Haar result give (R245): `rows` are lines of a Haar-x result, or the whole of a
Haar-y one. -/
def rowSurvivors (g : BitVec 16) (rows : List (Nat × List Word)) : List (Nat × Bool) :=
  let int := tagInt g
  if tagAxis g = 1 then rows.flatMap (fun p => (List.range 8).map (fun b =>
    (8 * p.1 + b, ((p.2.drop (8 * b)).take 8).any (nonZero int))))
  else
    let live (w : Int) : Bool := nonZero int (BitVec.ofInt 32 w)
    (survivors (tagAxis g) 64 live (rows.map (fun p => p.2.map (fun w => (w.toNat : Int))))).mapIdx (fun k b => (k, b))

/-- Rows of a job's result are written (R204, R245, R246). -/
def State.writeResult (s : State) (j : Job) (rows : List (Nat × List Word)) (sat : BitVec 64) : State :=
  s.writeRows j.wg j.tile j.ticket rows (fun a =>
    { a with
      mask := if j.marks then setMask a.mask (rowSurvivors j.tag rows) else a.mask
      ovf := a.ovf || rows.any (fun p => sat.getLsbD p.1) })

/-- A job on an accumulator tile that writes it as a whole: a Haar-y result (R246). -/
def State.runAccJob (s : State) (j : Job) : State :=
  let r := j.result (s.acc j.wg j.tile)
  s.writeResult j r.1 r.2

/-- The next row group of a job on an accumulator tile (R246): the first is written with the job's start, when it reads the
tile; what is left to write stays with the job. -/
def State.runAccGroup (s : State) (j : Job) : Job × State :=
  let (rows, sat) := if j.rows = [] then j.result (s.acc j.wg j.tile) else (j.rows, j.sat)
  ({ j with rows := rows.drop 16, sat := sat }, s.writeResult j (rows.take 16) sat)

/-- A job on a scratchpad tile (R252, R247, R255). -/
def State.runTileJob (s : State) (j : Job) : State :=
  match j.kind with
  | .sth => s.runSth j
  | .hmaskUpd =>
    let t := s.tile j.wg j.tile
    let e := (s.tileElems j.wg t).map (fun r => r.map (fun (x : Nat) => (x : Int)))
    (s.putMask j.wg t (survivors (tagAxis t.dom) t.ncols (liveBits t.fmt.toNat) e)).endTileJob j.wg j.tile
  | _ => (s.restoreTile j.wg j.tile j.tag).endTileJob j.wg j.tile

/-- A job can start: what it reads and writes stands at its place in the tile orders (R204). -/
def State.jobReady (s : State) (j : Job) : Bool :=
  if j.acc then s.mayWriteAll j.wg j.tile j.ticket
  else !j.srcAcc || j.rows.length == 64

/-- A tile whose next job has been accepted already stays filling: `sth tN, tN` has its reconstruction and its
transform behind one acceptance (R251). -/
def State.stillFilling (s : State) (core : Nat) (j : Job) : State :=
  if (s.core core).jobs.any (fun x => x.wg == j.wg && !x.acc && x.tile == j.tile) then
    s.modTileN j.wg j.tile (fun t => { t with state := .filling })
  else s

/-- A job that has written some of its row groups and not all. -/
def Job.begun (j : Job) : Bool := j.grouped && !j.rows.isEmpty

/-- The job that a core's lift unit runs: the one it is within, else the first accepted that no halt holds (R246,
R432). -/
def State.nextJob (s : State) (core : Nat) : Option Job :=
  ((s.core core).jobs.find? Job.begun).or ((s.core core).jobs.find? (fun j => !s.onHold (s.wg j.wg).ctx j.held))

/-- LIFT_JOB (R246): the lift unit runs its next accepted job, to the end or for a row group. -/
def execLiftJob (core : Nat) (s : State) : Host.Outcome State Fault Refusal :=
  .next (match s.nextJob core with
    | none => s
    | some j =>
      if s.jobReady j then
        if j.grouped then
          let (j', s) := s.runAccGroup j
          s.modCore core (fun k => { k with jobs := if j'.rows = [] then k.jobs.erase j else k.jobs.replace j j' })
        else
          let s := s.modCore core (fun k => { k with jobs := k.jobs.erase j })
          if j.acc then s.runAccJob j else (s.runTileJob j).stillFilling core j
      else s)

/-! ### The instructions (R250 to R255) -/

/-- The source of `sth` can be read by the lift unit: its shape and format (R251). -/
def sthShape (s : State) (w n src : Nat) (acc : Bool) : Bool :=
  let t := s.tile w n
  if acc then decide (t.nrows ≤ 64 ∧ t.ncols ≤ 64)
  else
    let u := s.tile w src
    u.rows == t.rows && u.cols == t.cols && decide (u.fmt.toNat ∈ [0, 1, 2, 8, 10, 11])

/-- `sth` (R251): the destination's tag at issue is the transform's; a Haar source is reconstructed by a
job of its own, accepted before it. -/
def execSth (f : Fields) : State → Host.Outcome State Fault Refusal :=
  issued (.sth f) fun is s =>
    let n := f.d.toNat
    let src := f.a.toNat
    let acc : Bool := f.mod 0 1 == 1
    let c := coreOf is.sid
    let w := s.wgOf is.sid
    if (if acc then (s.wg w).acc.length else (s.wg w).tiles.length) ≤ src then is.illegal s
    else tileOp n (fun w t _ _ s =>
      if !t.idle then is.waits none s
      else match (if acc then none else is.untilReady s w src) with
        | some r => r
        | none =>
          if !sthShape s w n src acc then is.illegal s
          else
            let from_ := if acc then (s.acc w src).dom else (s.tile w src).dom
            let jobs := if tagAxis from_ = 0 then 1 else 2
            if !s.liftRoom c jobs ∨ (acc ∧ jobs = 2 ∧ !(s.acc w src).room 1) then is.waits none s
            else
              let s := if jobs = 1 then s
                else if acc then s.accJob is.sid w src .forced from_ 0
                else s.tileJob is.sid w src .forced from_
              let (k, s) := s.fresh
              let s := s.pushJob c ⟨.sth, w, false, n, acc, src, t.dom, s.thresholds w (tagTh t.dom), k, [], 0, s.wordPc is.sid, false⟩
              let s := s.modTileN w n (fun t => { t with state := .filling, pend := 0, uses := t.uses + 1 })
              .done (if acc then s.readRows w src else s.useTile w src (· + 1))) is s

/-- `hfwd` (R252). -/
def execHfwd (f : Fields) : State → Host.Outcome State Fault Refusal :=
  issued (.hfwd f) fun is s =>
    let n := f.d.toNat
    let c := coreOf is.sid
    accOp n (fun w a sh ld s =>
      let x := sh.read f.imm ld f.a
      let g := x.extractLsb' 0 16
      if bits x.toNat 16 16 ≠ 0 ∨ tagAxis g = 0 ∨ !accTagOk g (s.wg w).desc.thresh then is.illegal s
      else
        let jobs := if tagAxis a.dom = 0 then 1 else 2
        if !s.liftRoom c jobs ∨ !a.room jobs then is.waits none s
        else
          let s := if jobs = 1 then s else s.accJob is.sid w n .forced a.dom 0
          .done (s.accJob is.sid w n .hfwd g g)) is s

/-- `hinv` (R252): on a spatial tile it has no effect. -/
def execHinv (f : Fields) : State → Host.Outcome State Fault Refusal :=
  issued (.hinv f) fun is s =>
    let n := f.d.toNat
    let c := coreOf is.sid
    if f.mod 0 1 = 1 then
      accOp n (fun w a _ _ s =>
        if tagAxis a.dom = 0 then .done s
        else if !s.liftRoom c 1 ∨ !a.room 1 then is.waits none s
        else .done (s.accJob is.sid w n .hinv a.dom 0)) is s
    else
      tileOp n (fun w t _ _ s =>
        match is.untilReady s w n with
        | some r => r
        | none =>
          if t.uses ≠ 0 then is.waits none s
          else if tagAxis t.dom = 0 then .done s
          else if !s.liftRoom c 1 then is.waits none s
          else .done (s.tileJob is.sid w n .hinv t.dom)) is s

/-- `thset` (R253); an undeclared threshold register is an illegal use whatever the guards say (DESIGN CHOICE, log 91). -/
def execThset (f : Fields) : State → Host.Outcome State Fault Refusal :=
  issued (.thset f) fun is s =>
    let w := s.wgOf is.sid
    let n := f.mod 0 3
    if (s.wg w).desc.thresh ≤ n then is.illegal s
    else if is.act = [] then .done s
    else
      let sh := s.sheaf is.sid
      let l := (sh.read f.imm is.lead f.a).toNat
      let v := sh.read f.imm is.lead f.b
      if 6 < l ∨ bits v.toNat 16 16 ≠ 0 then is.illegal s
      else
        let t := (s.thresholds w n).take 6
        let t := if l = 0 then List.replicate 6 (v.extractLsb' 0 16) else t.set (l - 1) (v.extractLsb' 0 16)
        .done (s.modWg w (fun g => { g with thr := modAt g.thr n (fun _ => t) }))

/-- `thget` (R253); as for `thset` where no guard holds (log 91). -/
def execThget (f : Fields) : State → Host.Outcome State Fault Refusal :=
  issued (.thget f) fun is s =>
    let w := s.wgOf is.sid
    let n := f.mod 0 3
    let sh := s.sheaf is.sid
    let lev (t : Nat) : Nat := (sh.read f.imm t f.a).toNat
    if (s.wg w).desc.thresh ≤ n ∨ is.act.any (fun t => lev t = 0 ∨ 6 < lev t) then is.illegal s
    else .done (s.writeLanes is.sid f.d 1 (is.act.map (fun t =>
      ⟨t, [(((s.thresholds w n).getD (lev t - 1) 0).zeroExtend 32, sh.taintOf t f.a)], 0⟩)))

/-- The elements that a bias of line `q` reaches (R254). -/
def biasTargets (g : BitVec 16) (q : Nat) : List (Nat × Nat) :=
  match tagAxis g with
  | 0 => (List.range 64).map (fun i => (q, i))
  | 1 => (List.range (64 / 2 ^ tagLevels g)).map (fun i => (q, i))
  | _ => (List.range (64 / 2 ^ tagLevels g)).map (fun i => (i, q))

/-- One element after a bias, with OVF and NAN (R254). -/
def biasElem (int : Bool) (e v : Word) : Word × Bool × Bool :=
  if int then let r := satI32 (e.toInt + v.toInt); (wordOf r.1, r.2, false)
  else
    let r := addF32 false e v
    let x := f32.decode r.1.toNat
    (r.1, r.2 &&& astOF != 0, x.isNan)

/-- One lane of `hbias` on a tile whose tag at its place is `g` (R254): the target elements, of which those of a dead block
read 0 (R243), and the mask bits of the blocks touched. -/
def Acc.bias (g : BitVec 16) (int : Bool) (q : Nat) (v : Word) (a : Acc) : Acc :=
  let axis := tagAxis g
  let ts := biasTargets g q
  let a := each ts (fun p a =>
    let r := biasElem int ((a.coefRow g p.1).getD p.2 0) v
    { a.setElem p.1 p.2 r.1 with ovf := a.ovf || r.2.1, nan := a.nan || r.2.2 }) a
  if axis = 0 then a
  else { a with mask := setMask a.mask (((ts.map (fun p => if axis = 1 then p.2 / 8 else p.1 / 8)).eraseDups).map
      (fun j => (8 * q + j, a.blockLives g q j))) }

/-- The lanes of `hbias`, values and lines, in ascending order (R254). -/
def Acc.biasAll (g : BitVec 16) (int : Bool) (l : List (Word × Word)) (a : Acc) : Acc :=
  each l (fun p a => a.bias g int (p.2.toNat % 64) p.1) a

/-- `hbias` (R254): the lanes in ascending order, once every earlier write has finished.  Where `.i` differs from INT, the
reconstruction takes the place immediately before the instruction's own, which the word holds while it waits at issue
(R247). -/
def execHbias (f : Fields) : State → Host.Outcome State Fault Refusal :=
  issued (.hbias f) fun is s =>
    let n := f.d.toNat
    let int : Bool := f.mod 0 1 == 1
    accOp n (fun w a sh _ s =>
      let vals (t : Nat) : Word × Word := (sh.read f.imm t f.a, sh.read f.imm t f.b)
      match (s.run is.sid).place with
      | some o => if (s.ops.get o).isSome then is.waits none s else .done s
      | none =>
        if tagAxis a.dom ≠ 0 ∧ int ≠ tagInt a.dom then
          match s.forceAcc is.sid w n 1 with
          | none => is.waits none s
          | some s =>
            let o := s.next
            let s := s.launch is (.hbias f) (is.act.map (fun t => sh.lane f.imm is.act [f.a, f.b] [] t))
              (fun op => { op with tag := (s.acc w n).dom }) false
            let s := s.modAcc w n (fun a => a.join o false (BitVec.allOnes 64))
            is.waits none (s.modSheaf is.sid (fun sh => { sh with run := sh.run.map (fun r => { r with place := some o }) }))
        else if a.order ≠ [] then is.waits none s
        else .done (s.modAcc w n (fun a => a.biasAll a.dom int (is.act.map vals)))) is s

/-- An `hbias` that holds its place takes effect, once every earlier write has finished, on the tile as its tag was at
that place (R247, R254). -/
def State.landHbias (s : State) (o : Nat) (op : LongOp) (f : Fields) : State :=
  let n := f.d.toNat
  if s.mayWriteAll op.wg n o then
    let l := op.lanes.map (fun l => ((l.srcs.getD 0 default).2, (l.srcs.getD 1 default).2))
    ((s.modAcc op.wg n (fun a => (a.biasAll op.tag (f.mod 0 1 == 1) l).leave o)).readRows op.wg n).completeOp o
  else s

/-- 32 bits of a mask of `n` bits; bits beyond the mask read 0. -/
def maskWord (bit : Nat → Bool) (n w : Nat) : Word :=
  BitVec.ofNat 32 (((List.range 32).map (fun i => if 32 * w + i < n ∧ bit (32 * w + i) then 2 ^ i else 0)).sum)

/-- `hmask` without `.upd` over a mask of `n` bits (R255). -/
def maskRead (f : Fields) (spatial : Bool) (bit : Nat → Bool) (n : Nat) (is : Issue) (s : State) : Result :=
  let sh := s.sheaf is.sid
  let idx (t : Nat) : Nat := (sh.read f.imm t f.a).toNat
  if !spatial ∧ is.act.any (fun t => ceilDiv n 32 ≤ idx t) then is.illegal s
  else .done (s.writeLanes is.sid f.d 1 (is.act.map (fun t =>
    ⟨t, [(if spatial then 0 else maskWord bit n (idx t), sh.taintOf t f.a)], 0⟩)))

/-- `hmask` and `hmask.upd` (R255). -/
def execHmask (f : Fields) : State → Host.Outcome State Fault Refusal :=
  issued (.hmask f) fun is s =>
    let n := f.b.toNat
    let c := coreOf is.sid
    let upd : Bool := f.mod 1 1 == 1
    if f.mod 0 1 = 1 then
      accOp n (fun w a _ _ s =>
        if upd then
          if tagAxis a.dom = 0 then .done s
          else if !s.liftRoom c 1 ∨ !a.room 1 then is.waits none s
          else .done (s.accJob is.sid w n .hmaskUpd a.dom a.dom)
        else if a.order ≠ [] then is.waits none s
        else maskRead f (tagAxis a.dom == 0) (fun k => a.mask.getLsbD k) 512 is s) is s
    else
      tileOp n (fun w t _ _ s =>
        match is.untilReady s w n with
        | some r => r
        | none =>
          if upd then
            if tagAxis t.dom = 0 then .done s
            else if !s.liftRoom c 1 then is.waits none s
            else .done (s.tileJob is.sid w n .hmaskUpd t.dom)
          else maskRead f (tagAxis t.dom == 0) (s.maskBit w t) t.maskBits is s) is s

end Sys2Proof.Machine
end

