-- ==== Sys2Proof/Machine/Matrix.lean ====
section
/-! DEFINITION. The matrix instructions, their operands in fragments, tiles and the weight store, the sums
of R82 and R83, the pods' engines, and operand tokens (R205 to R218, R248). -/

namespace Sys2Proof.Machine

/-! ### Fields and pairings (R207, R210 to R212) -/

/-- The fields of a matrix instruction: `kind` 0 `mma`, 1 `mmat`, 2 `mmas`. -/
structure MatFields where
  kind : Nat
  afmt : Nat
  bfmt : Nat
  asrc : Nat
  btile : Bool
  acci : Bool
  z : Bool
  sela : Nat
  selb : Nat
  span : Nat
  stride : Nat
  deriving DecidableEq, Repr

/-- The fields of a matrix instruction (R210, R211). -/
def matFields (kind : Nat) (f : Fields) : MatFields :=
  let n := f.imm.toNat
  ⟨kind, bits n 27 5, bits n 22 5, f.mod 10 2, f.mod 9 1 == 1, f.mod 8 1 == 1, f.mod 7 1 == 1,
    bits n 20 2, bits n 18 2, bits n 16 2, bits n 0 16⟩

/-- Both formats are of one list. -/
def both (m : MatFields) (l : List Nat) : Bool := decide (m.afmt ∈ l ∧ m.bfmt ∈ l)

/-- The operands are integers. -/
def MatFields.ints (m : MatFields) : Bool := decide (m.afmt ∈ [10, 11, 12, 13, 14, 15, 16])

/-- A permitted pairing (R212). -/
def MatFields.pairs (m : MatFields) : Bool :=
  (match m.kind with
    | 0 => both m [0] || both m [1, 2] || both m [3, 4] || both m [5, 6, 7] || both m [10] || both m [11, 12] ||
      both m [13, 14]
    | 1 => decide (m.afmt ∈ [15, 16] ∧ m.bfmt = 11)
    | _ => both m [17, 18] || both m [19, 20, 21]) && (!m.acci || m.ints)

/-- K (R207). -/
def MatFields.k (m : MatFields) : Nat :=
  match m.afmt with
  | 0 => 32
  | 1 | 2 | 10 => 64
  | 3 | 4 | 11 | 12 | 17 | 18 => 128
  | 15 => 640
  | 16 => 1024
  | _ => 256

/-- Row bytes of A and of B (R207). -/
def MatFields.rowA (m : MatFields) : Nat := rowBytes m.afmt m.k
/-- Row bytes of B. -/
def MatFields.rowB (m : MatFields) : Nat := rowBytes m.bfmt m.k

/-- The span in sheaves. -/
def MatFields.sheaves (m : MatFields) : Nat := 2 ^ m.span

/-- Registers of a fragment of `rb` row bytes in each spanned sheaf of width `w` (R213). -/
def MatFields.fragRegs (m : MatFields) (w rb : Nat) : Nat := 64 / m.sheaves / w * (rb / 4)

/-- Registers of the scales in a sheaf of width `w` (R73). -/
def MatFields.scaleRegs (m : MatFields) (w : Nat) : Nat := 64 / w * (m.k / 32)

/-- The uses of R211 to R215 and R73 that the fields show to be illegal. -/
def MatFields.bad (m : MatFields) (f : Fields) (sh : Sheaf) (g : Workgroup) : Bool :=
  let frag (v : BitVec 8) (n : Nat) : Bool := decide (0xC0 ≤ v.toNat ∨ sh.regs < v.toNat + n)
  !m.pairs || m.span == 3 || decide (g.acc.length ≤ f.d.toNat) ||
    (m.kind != 2 && (m.sela != 0 || m.selb != 0)) || (m.asrc != 2 && m.stride != 0) ||
    (m.span != 0 && m.asrc != 0 && m.btile) ||
    ((m.asrc == 0 || !m.btile) && (64 / m.sheaves % sh.width != 0 ||
      decide (g.desc.sheaves < sh.idx + m.sheaves))) ||
    (m.asrc == 0 && frag f.a (m.fragRegs sh.width m.rowA)) ||
    (m.asrc == 1 && decide (g.tiles.length ≤ f.a.toNat)) ||
    (!m.btile && frag f.b (m.fragRegs sh.width m.rowB)) ||
    (m.btile && decide (g.tiles.length ≤ f.b.toNat)) ||
    (m.kind == 2 && (frag f.c (m.scaleRegs sh.width) || frag f.e (m.scaleRegs sh.width)))

/-! ### Operands (R213 to R216, R73) -/

/-- The rows of a fragment (R213). -/
def State.fragment (s : State) (m : MatFields) (w idx width base rb : Nat) : List (List Word) :=
  let p := 64 / m.sheaves
  (List.range 64).map (fun r =>
    let th := (s.sheaf ((s.wg w).slots.getD (idx + r / p) 0)).thread (r % p % width)
    (List.range (rb / 4)).map (fun i => th.v.getD (base + r % p / width * (rb / 4) + i) 0))

/-- The scales of every row (R73). -/
def Sheaf.scales (sh : Sheaf) (m : MatFields) (base sel : Nat) : List (List Byte) :=
  let j := m.k / 32
  (List.range 64).map (fun r => (List.range j).map (fun i =>
    (((sh.thread (r % sh.width)).v.getD (base + r / sh.width * j + i) 0).extractLsb' (8 * sel) 8)))

/-- The rows of a scratchpad tile as words. -/
def State.tileWords (s : State) (w n : Nat) : List (List Word) :=
  let t := s.tile w n
  (List.range t.nrows).map (fun r => bytesWords (ceilDiv t.rowB 4) (s.tileRow w t r))

/-- A tile keeps R215 for an operand of format `fmt`. -/
def Tile.operandOk (t : Tile) (fmt k : Nat) : Bool := t.nrows == 64 && t.ncols == k && t.fmt.toNat == fmt

/-- Rows that may have changed since acceptance: each word old or new (R215). -/
def mergeRows (old new : List (List Word)) (s : State) : List (List Word) × State :=
  (old.zip new).foldl (fun acc p =>
    let (ws, s) := mergeWords p.1 p.2 acc.2
    (acc.1 ++ [ws], s)) ([], s)

/-- Bits that may have changed since acceptance: each word of 32 old or new (R215). -/
def mergeBits (old new : List Bool) (s : State) : List Bool × State :=
  (List.range (ceilDiv old.length 32)).foldl (fun acc k =>
    let o := (old.drop (32 * k)).take 32
    let n := (new.drop (32 * k)).take 32
    if o = n then (acc.1 ++ o, acc.2) else (let (b, s) := acc.2.flip; (acc.1 ++ (if b then n else o), s))) ([], s)

/-- What the engine sees of an operand now.  DESIGN CHOICE (log 83): the words of a tile are looked at anew for
every row group, each as it was last seen or as it stands. -/
def State.look (s : State) (w : Nat) : MatSrc → MatSrc × State
  | .tile n old =>
    let (rows, s) := mergeRows old (s.tileWords w n) s
    (.tile n rows, s)
  | x => (x, s)

/-- The bits of the survivor mask of B's tile, where the operation has a Haar result (R248). -/
def State.tileSurv (s : State) (w n : Nat) (tag : BitVec 16) (k : Nat) : List Bool :=
  if tagAxis tag = 0 then [] else (List.range (8 * k)).map (s.maskBit w (s.tile w n))

/-- An operand needs no more reads: its tile is let go. -/
def State.letTile (s : State) (w : Nat) : MatSrc → MatSrc × State
  | .frag rows => (.frag rows, s)
  | .tile n rows => (.frag rows, s.useTile w n (· - 1))
  | .weight _ _ _ => (.frag [], s)

/-- The operands of an operation have been read. -/
def MatOp.read (m : MatOp) : Bool :=
  match m.a, m.b with
  | .frag _, .frag _ => true
  | _, _ => false

/-- K of an operation. -/
def MatOp.k (m : MatOp) : Nat := MatFields.k ⟨0, m.afmt, 0, 0, false, false, false, 0, 0, 0, 0⟩

/-- The weight-store rows of an operation that are still to be read: die, offset of row 0, stride. -/
def MatOp.weights (m : MatOp) : Option (Nat × Nat × Nat) :=
  match m.a with
  | .weight die off st => some (die, off, st)
  | _ => none

/-- The rows of row group `g`. -/
def groupRows (g : Nat) : List Nat := (List.range 16).map (16 * g + ·)

/-- The first of some rows whose weight-store read returns poison: the fault's code and the offset (R218, R231). -/
def State.badRow (s : State) (m : MatOp) (rows : List Nat) : Option (Nat × Nat) :=
  m.weights.bind (fun q => rows.findSome? (fun r =>
    (s.weightBad q.1 (q.2.1 + r * q.2.2) (rowBytes m.afmt m.k)).map (fun c => (c, q.2.1 + r * q.2.2))))

/-- The poison that an operation meets in its next row group. -/
def State.metPoison (s : State) (m : MatOp) : Option (Nat × Nat) :=
  match m.poison with
  | some (g, c, off) => if g = m.groups then some (c, off) else none
  | none => s.badRow m (groupRows m.groups)

/-- Rows of A as the engine reads them, those of the weight store at this moment. -/
def State.rowsOf (s : State) (m : MatOp) (rows : List Nat) : List (List Word) × State :=
  match m.a with
  | .frag l => (l, s)
  | .tile _ l => (l, s)
  | .weight die off st =>
    ((List.range 64).map (fun r =>
      if r ∈ rows then bytesWords (rowBytes m.afmt m.k / 4) (s.weightBytes die (off + r * st) (rowBytes m.afmt m.k)) else []),
      { s with free := s.free + 1 })

/-- An operation looks at the tiles that it reads (R215). -/
def State.lookTiles (s : State) (m : MatOp) : MatOp × State :=
  let (surv, s) := match m.b with
    | .tile n _ => mergeBits m.surv (s.tileSurv m.wg n m.tag m.k) s
    | _ => (m.surv, s)
  let (a, s) := s.look m.wg m.a
  let (b, s) := s.look m.wg m.b
  ({ m with a := a, b := b, surv := surv }, s)

/-- An operation has read every operand: tiles and weights are let go, consumed tokens are given back, and
only the issuing sheaf's registers stay under R25 (R214, R215). -/
def State.endReads (s : State) (m : MatOp) : MatOp × State :=
  let (a, s) := s.letTile m.wg m.a
  let (b, s) := s.letTile m.wg m.b
  ({ m with a := a, b := b, tokens := [], regs := m.regs.filter (fun q => q.1 = m.sid) }, s)

/-- An operation reads every operand at once, as a halt makes it do (R432); poison that the rows of later row groups
meet is kept with it. -/
def State.readOperands (s : State) (m : MatOp) : MatOp × State :=
  let bad := (List.range 4).findSome? (fun g =>
    if g < m.groups then none else (s.badRow m (groupRows g)).map (fun p => (g, p.1, p.2)))
  let (m, s) := s.lookTiles m
  let (rows, s) := s.rowsOf m (List.range 64)
  let m := { m with a := (if m.weights.isSome then .frag rows else m.a), poison := m.poison.or bad }
  s.endReads m

/-! ### The sums (R82, R83) -/

/-- The integers of a row. -/
def rowInts (fmt k : Nat) (ws : List Word) : List Int :=
  (unpackRow fmt k (wordsBytes ws)).map (fun e =>
    match elemVal fmt e with
    | .int x => x
    | .flt _ => 0)

/-- A value times 2^(e - 127); the code 0xFF is a NaN (R66, R72). -/
def scaleBy (v : FVal) (e : Byte) : FVal :=
  if e = 0xFF then .nan false
  else match v with
    | .fin n m x => .fin n m (x + e.toNat - 127)
    | v => v

/-- The floating values of a row with its scales (R72). -/
def rowFloats (fmt k : Nat) (scales : List Byte) (ws : List Word) : List FVal :=
  (unpackRow fmt k (wordsBytes ws)).mapIdx (fun i e =>
    let v := (fmtOf (elemFmt fmt)).decode e
    if 17 ≤ fmt then scaleBy v (scales.getD (i / 32) 0) else v)

/-- An infinity of a sign among values. -/
def hasInf (neg : Bool) (l : List FVal) : Bool := l.contains (.inf neg)

/-- The exact sum of a block of products (R82, R83). -/
def blockSum (ps : List (Option FVal)) : FVal :=
  let l := ps.map (fun p => p.getD (.nan false))
  if l.any (·.isNan) ∨ (hasInf true l ∧ hasInf false l) then .nan false
  else if hasInf true l then .inf true
  else if hasInf false l then .inf false
  else
    let fs := l.filterMap (fun v => match v with
      | .fin n m e => some (n, m, e)
      | _ => none)
    let lo := fs.foldl (fun x p => min x p.2.2) 0
    let x := fs.foldl (fun (x : Int) p => x + signed p.1 (p.2.1 * 2 ^ (p.2.2 - lo).toNat)) 0
    if x = 0 then .fin (fs.all (fun p => p.1 && p.2.1 == 0)) 0 0 else .fin (x < 0) x.natAbs lo

/-- The blocks of 16 consecutive entries of a list of `k`. -/
def blocks16 {α : Type} (k : Nat) (l : List α) : List (List α) :=
  (List.range (k / 16)).map (fun q => (l.drop (16 * q)).take 16)

/-- A block sum joins an F32 accumulator: the new value, and whether an infinity came of finite values. -/
def addBlock (acc : Word × Bool) (sum : FVal) : Word × Bool :=
  let b := roundVal f32 false .rne sum
  let r := addVal f32 false .rne (f32.decode acc.1.toNat) (f32.decode b.1)
  (BitVec.ofNat 32 r.1, acc.2 || b.2 &&& astOF != 0 || r.2 &&& astOF != 0)

/-- A block sum joins an I32 accumulator, with saturation. -/
def addBlockInt (acc : Word × Bool) (sum : Int) : Word × Bool :=
  let r := satI32 (acc.1.toInt + sum)
  (wordOf r.1, acc.2 || r.2)

/-- One element of floating operands (R82). -/
def dotFloats (k : Nat) (start : Word) (a b : List FVal) : Word × Bool :=
  ((blocks16 k (List.zipWith mulVal a b)).map blockSum).foldl addBlock (start, false)

/-- One element of integer operands, accumulated in I32 or in F32 (R82). -/
def dotInts (k : Nat) (acci : Bool) (start : Word) (a b : List Int) : Word × Bool :=
  let sums := (blocks16 k (List.zipWith (· * ·) a b)).map (·.sum)
  if acci then sums.foldl addBlockInt (start, false)
  else sums.foldl (fun acc x => addBlock acc (.fin (x < 0) x.natAbs 0)) (start, false)

/-- B's row `n` with the values of dead blocks replaced by zero (R248). -/
def coefWords {α : Type} (zero : α) (surv : List Bool) (n : Nat) (l : List α) : List α :=
  if surv = [] then l else l.mapIdx (fun k x => if surv.getD (8 * k + n / 8) false then x else zero)

/-- Row `r` of an operand. -/
def MatSrc.row (src : MatSrc) (r : Nat) : List Word :=
  match src with
  | .frag rows => rows.getD r []
  | .tile _ rows => rows.getD r []
  | .weight _ _ _ => []

/-- One row of the result, with OVF (R217). -/
def MatOp.resultRow (m : MatOp) (r : Nat) (start : List Word) : List (Word × Bool) :=
  let k := m.k
  let s0 (n : Nat) : Word := if m.z then 0 else start.getD n 0
  if m.afmt ∈ [10, 11, 12, 13, 14, 15, 16] then
    let a := rowInts m.afmt k (m.a.row r)
    (List.range 64).map (fun n => dotInts k m.acci (s0 n) a (coefWords 0 m.surv n (rowInts m.bfmt k (m.b.row n))))
  else
    let a := rowFloats m.afmt k (m.sa.getD r []) (m.a.row r)
    (List.range 64).map (fun n => dotFloats k (s0 n) a
      (coefWords (.fin false 0 0) m.surv n (rowFloats m.bfmt k (m.sb.getD n []) (m.b.row n))))

/-- A T2 row holds a byte that is no code (R68). -/
def MatOp.invalidRow (m : MatOp) (r : Nat) : Bool :=
  m.afmt == 15 && (wordsBytes (m.a.row r)).any (fun b => decide (243 ≤ b.toNat))

/-- The survivor bits that an operation with a Haar result gives the blocks of row `r` (R248). -/
def MatOp.maskRow (m : MatOp) (old : BitVec 512) (r : Nat) : List (Nat × Bool) :=
  if tagAxis m.tag = 0 then []
  else (List.range 8).map (fun j =>
    (8 * r + j, (List.range m.k).any (fun k => m.surv.getD (8 * k + j) false) || (!m.z && old.getLsbD (8 * r + j))))

/-- Undefined elements (R25). -/
def State.undefRow (s : State) : List (Word × Bool) × State :=
  (List.range 64).foldl (fun acc _ => let (x, s) := acc.2.undef; (acc.1 ++ [(x, false)], s)) ([], s)

/-! ### The engines (R206 to R208, R217, R218) -/

/-- An engine's queue. -/
def Pod.queue (p : Pod) (eng : Nat) : List MatOp := if eng = 0 then p.mul else p.sel

/-- An engine's queue changed. -/
def State.modEngine (s : State) (pod eng : Nat) (f : List MatOp → List MatOp) : State :=
  s.modPod pod (fun p => if eng = 0 then { p with mul := f p.mul } else { p with sel := f p.sel })

/-- The next row group of an operation may begin (R208, R229, R231). -/
def State.groupReady (s : State) (m : MatOp) : Bool :=
  let a := s.acc m.wg m.acc
  let rows := groupRows m.groups
  !s.onHold m.ctx m.held && !m.expired && decide (m.groups < 4) && rows.all (s.mayWrite m.wg m.acc m.ticket) &&
    a.order.all (fun p => decide (m.ticket ≤ p.ticket) || p.mat) && (s.metPoison m).isNone &&
    (match m.weights with
      | none => true
      | some (die, off, st) => rows.all (fun r => !s.refreshing die (off + r * st) (rowBytes m.afmt m.k)))

/-- An engine writes the next row group of operation `m` (R217). -/
def State.rowGroup (s : State) (m : MatOp) : MatOp × State :=
  let whole := m
  let rows := groupRows m.groups
  let (seen, s) := s.lookTiles m
  let (ra, s) := s.rowsOf seen rows
  let m := { seen with a := .frag ra }
  let a := s.acc m.wg m.acc
  let r := rows.foldl (fun (acc : List (Nat × List (Word × Bool)) × State) r =>
    let (x, s) := if m.spoilt then acc.2.undefRow else (m.resultRow r (a.coefRow m.tag r), acc.2)
    (acc.1 ++ [(r, x)], s)) ([], s)
  let bad := rows.any m.invalidRow
  let s := r.2.writeRows m.wg m.acc m.ticket (r.1.map (fun p => (p.1, p.2.map (·.1)))) (fun a =>
    { a with
      ovf := a.ovf || r.1.any (fun p => p.2.any (·.2))
      nan := a.nan || r.1.any (fun p => p.2.any (fun x => (f32.decode x.1.toNat).isNan && !m.acci))
      inv := a.inv || bad
      mask := setMask a.mask (rows.flatMap (m.maskRow a.mask)) })
  let (m, s) := if whole.groups = (if whole.read then 0 else 3) then s.endReads seen else (seen, s)
  ({ m with groups := whole.groups + 1 }, s)

/-- The operation that an engine works on: the first that no halt holds (R217, R431, R432). -/
def State.working (s : State) (pod eng : Nat) : Option MatOp :=
  ((s.pod pod).queue eng).find? (fun m => !s.onHold m.ctx m.held)

/-- MATRIX_ROW_GROUP (R217). -/
def execMatrixRowGroup (pod eng : Nat) (s : State) : Host.Outcome State Fault Refusal :=
  .next (match s.working pod eng with
    | none => s
    | some m =>
      if s.groupReady m then
        let die := m.weights.map (·.1)
        let (m, s) := s.rowGroup m
        let s := s.modEngine pod eng (fun l => l.map (fun x => if x.op = m.op then m else x))
        match die with
        | some d => s.settleRegions d
        | none => s
      else s)

/-- MATRIX_OPERATION_COMPLETE (R217): OPS falls and the flag counts down. -/
def execMatrixOperationComplete (pod eng : Nat) (s : State) : Host.Outcome State Fault Refusal :=
  .next (match s.working pod eng with
    | none => s
    | some m =>
      if m.groups = 4 then
        ((s.modEngine pod eng (fun l => l.filter (fun x => x.op ≠ m.op))).modAcc m.wg m.acc (fun a => a.leave m.ticket)).completeOp m.op
      else s)

/-- RETENTION_EXPIRED_FAULT on a matrix operation (R231, R226, R218): it stops before the row group that met it. -/
def State.expireMat (s : State) (o : Nat) : State :=
  let hit (l : List MatOp) : Option MatOp :=
    match l.find? (fun m => !s.onHold m.ctx m.held) with
    | some m => if m.op = o ∧ !m.expired ∧ m.groups < 4 then some m else none
    | none => none
  match s.pods.findSome? (fun (p : Nat × Pod) => (hit p.2.mul).or (hit p.2.sel)) with
  | none => s
  | some m =>
    match s.metPoison m with
    | none => s
    | some (code, off) =>
      let mark (x : MatOp) : MatOp := if x.op = o then { x with expired := true } else x
      let s := { s with pods := s.pods.map (fun (p : Nat × Pod) => (p.1, { mul := p.2.mul.map mark, sel := p.2.sel.map mark })) }
      s.lateFaultAt m.sid m.gen m.ctx m.priv m.pc code 0 [] off

/-- RETENTION_EXPIRED_FAULT (R231): a weight-store read is performed at or after DEADLINE. -/
def execRetentionExpiredFault (o : Nat) (s : State) : Host.Outcome State Fault Refusal :=
  .next (match s.ops.get o with
    | none => s.expireMat o
    | some op =>
      match op.instr with
      | .ldw f => s.expireLdw o op f
      | _ => s.expireMat o)

/-! ### Acceptance (R209 to R217, R248) -/

/-- The result tag of a tag of B that is used as coefficients (R248). -/
def coefTag (g : BitVec 16) : BitVec 16 := (g &&& 0x3FFF) ||| 0x4000

/-- Sheaves that an operation spans. -/
def MatFields.spans (m : MatFields) (sh : Sheaf) (g : Workgroup) : List Nat :=
  (List.range m.sheaves).map (fun i => g.slots.getD (sh.idx + i) 0)

/-- The operation as an engine accepts it, with its operands (R213 to R216). -/
def State.matOp (s : State) (is : Issue) (m : MatFields) (f : Fields) (tag : BitVec 16) (off : Nat) : MatOp :=
  let sh := s.sheaf is.sid
  let g := s.wg sh.wg
  let spans := m.spans sh g
  let held (v : BitVec 8) (n : Nat) (c : Bool) : List (Nat × Nat × Nat) :=
    if c then spans.map (fun q => (q, v.toNat, n)) else []
  let st := if m.stride = 0 then m.rowA else 16 * m.stride
  { op := s.next
    sid := is.sid
    gen := sh.gen
    pc := wordAddr (s.run is.sid).pc (some (s.run is.sid).k)
    ctx := sh.ctx
    priv := is.group.any (fun t => (sh.thread t).priv)
    wg := sh.wg
    core := coreOf is.sid
    acc := f.d.toNat
    ticket := s.next
    afmt := m.afmt
    bfmt := m.bfmt
    acci := m.acci
    z := m.z
    a := if m.asrc = 0 then .frag (s.fragment m sh.wg sh.idx sh.width f.a.toNat m.rowA)
      else if m.asrc = 1 then .tile f.a.toNat (s.tileWords sh.wg f.a.toNat)
      else .weight (dieOf (coreOf is.sid)) off st
    b := if m.btile then .tile f.b.toNat (s.tileWords sh.wg f.b.toNat)
      else .frag (s.fragment m sh.wg sh.idx sh.width f.b.toNat m.rowB)
    sa := if m.kind = 2 then sh.scales m f.c.toNat m.sela else []
    sb := if m.kind = 2 then sh.scales m f.e.toNat m.selb else []
    tag := tag
    surv := if m.btile then s.tileSurv sh.wg f.b.toNat tag m.k else []
    groups := 0
    spoilt := false
    regs := held f.a (m.fragRegs sh.width m.rowA) (m.asrc == 0) ++
      (if m.asrc = 2 ∧ f.a.toNat < 0xC0 then [(is.sid, f.a.toNat, 1)] else []) ++ held f.b (m.fragRegs sh.width m.rowB) (!m.btile) ++
      (if m.kind = 2 then [(is.sid, f.c.toNat, m.scaleRegs sh.width), (is.sid, f.e.toNat, m.scaleRegs sh.width)] else [])
    tokens := spans.filter (· ≠ is.sid)
    held := false
    expired := false
    poison := none }

/-- The operand tile `n` stands in the way: it is not ready, or it does not keep R215. -/
def Issue.operandTile (is : Issue) (s : State) (w n fmt k : Nat) : Option Result :=
  match is.untilReady s w n with
  | some r => some r
  | none => if (s.tile w n).operandOk fmt k then none else some (is.illegal s)

/-- The operation is accepted (R217): tokens are consumed, use counts rise, it takes its place, and DOM
changes.  Registers that another operation in flight holds are touched by its reads (R25). -/
def Issue.acceptMat (is : Issue) (s : State) (i : Instr) (m : MatFields) (f : Fields) (tag : BitVec 16) (off : Nat) :
    Result :=
  let eng := if m.afmt = 15 ∨ m.afmt = 16 then 1 else 0
  let pod := coreOf is.sid / 2
  let w := s.wgOf is.sid
  let q := (s.matOp is m f tag off).regs
  let s := each q (fun r s => s.spoil r.1 (List.range (s.sheaf r.1).width) (List.range' r.2.1 r.2.2)) s
  let x := s.matOp is m f tag off
  let s := s.launch is i []
  let s := each x.tokens (fun t s => s.modSheaf t (fun sh => { sh with token := false })) s
  let s := if m.asrc = 1 then s.useTile w f.a.toNat (· + 1) else s
  let s := if m.btile then s.useTile w f.b.toNat (· + 1) else s
  let s := s.modAcc w x.acc (fun a => { a.join x.ticket true (BitVec.allOnes 64) with dom := tag })
  .done (s.modEngine pod eng (fun l => l ++ [x]))

/-- A matrix instruction (R209 to R217, R248); one that reads the weight store does so after the `ld.con` operations on
which its offset depends (R285). -/
def matrixOp (i : Instr) (kind : Nat) (f : Fields) (is : Issue) (s : State) : Result :=
  let m := matFields kind f
  let sh := s.sheaf is.sid
  let w := sh.wg
  let c := coreOf is.sid
  if is.act = [] then .done (s.launch is i [])
  else if m.bad f sh (s.wg w) then is.illegal s
  else
    let off := if m.asrc = 2 then (sh.read f.imm is.lead f.a).toNat else 0
    let st := if m.stride = 0 then m.rowA else 16 * m.stride
    if m.asrc = 2 ∧ is.barred s (fun t => t == is.lead && sh.taintOf t f.a) then .wait s
    else match (if m.asrc = 2 then (s.die (dieOf c)).weightFault off (63 * st + m.rowA) 16 2 else none) with
    | some sub => is.fault 6 sub [is.lead] off s
    | none =>
      let ta := if m.asrc = 1 then is.operandTile s w f.a.toNat m.afmt m.k else none
      let tb := if m.btile then is.operandTile s w f.b.toNat m.bfmt m.k else none
      match ta.or tb with
      | some r => r
      | none =>
        let ga : BitVec 16 := if m.asrc = 1 then (s.tile w f.a.toNat).dom else 0
        let gb : BitVec 16 := if m.btile then (s.tile w f.b.toNat).dom else 0
        let gs := (s.acc w f.d.toNat).dom
        let coeff : Bool := tagAxis gb == 2 && tagInt gb == m.acci
        let r : BitVec 16 := if coeff then coefTag gb else 0
        if tagAxis ga ≠ 0 then is.forceTile s w f.a.toNat
        else if tagAxis gb ≠ 0 ∧ (!coeff ∨ (!m.z ∧ gs ≠ r)) then is.forceTile s w f.b.toNat
        else if (m.spans sh (s.wg w)).any (fun q => q ≠ is.sid ∧ !(s.sheaf q).token) then is.waits (some none) s
        else
          let eng := if m.afmt = 15 ∨ m.afmt = 16 then 1 else 0
          if 4 ≤ ((s.pod (c / 2)).queue eng).length then is.waits none s
          else
            let force : Bool := !m.z && r == 0 && tagAxis gs != 0
            match (if force then s.forceAcc is.sid w f.d.toNat 1 else if (s.acc w f.d.toNat).room 1 then some s else none) with
            | none => is.waits none s
            | some s => is.acceptMat s i m f r off

/-- `mma` (R209, R217). -/
def execMma (f : Fields) : State → Host.Outcome State Fault Refusal := issued (.mma f) (matrixOp (.mma f) 0 f)

/-- `mmat` (R209, R217). -/
def execMmat (f : Fields) : State → Host.Outcome State Fault Refusal := issued (.mmat f) (matrixOp (.mmat f) 1 f)

/-- `mmas` (R209, R217). -/
def execMmas (f : Fields) : State → Host.Outcome State Fault Refusal := issued (.mmas f) (matrixOp (.mmas f) 2 f)

/-! ### Operand tokens (R214) -/

/-- An accepted operation that consumed a token of sheaf `sid` has operands to read. -/
def State.tokenBusy (s : State) (sid : Nat) : Bool :=
  s.pods.any (fun p => (p.2.mul ++ p.2.sel).any (fun m => decide (sid ∈ m.tokens)))

/-- `mop.rdy` and `mop.rdy.w` (R214). -/
def execMopRdy (f : Fields) : State → Host.Outcome State Fault Refusal :=
  issued (.mopRdy f) fun is s =>
    if is.act = [] then .done s
    else
      let t := (s.sheaf is.sid).token
      if f.mod 0 1 = 1 then
        if t ∨ s.tokenBusy is.sid then is.waits none s else .done s
      else if t then is.waits none s
      else .done (s.modSheaf is.sid (fun sh => { sh with token := true }))

/-- MATRIX_SPAN_FAULT (R214): a word has waited 2^20 core cycles for operand tokens. -/
def execMatrixSpanFault (sid : Nat) (s : State) : Host.Outcome State Fault Refusal :=
  .next (match (s.sheaf sid).run with
    | some r =>
      if (s.sheaf sid).watchEnd true then s.fault sid (bitsOf 64 r.mask) r.pc (some r.k) 5 0 (bitsOf 64 r.mask) 0 else s
    | none => s)

end Sys2Proof.Machine
end

