-- ==== Sys2Proof/Machine/Clause.lean ====
section
/-! DEFINITION. Fetching a clause, its checks, issue groups, the scheduler, waiting clauses and sleep (R17
to R28, R37, R38, R93 to R97, R105, R107, R109, R273). -/

namespace Sys2Proof.Machine

/-! ### Fetch (R20, R268, R269, R271, R273) -/

/-- Why a clause cannot be fetched: code, sub-code, address, and whether the threads park for a replay; code 0 without a
replay where the way to its home is not open now (R288, R451). -/
structure NoFetch where
  code : Nat
  sub : Nat
  addr : Nat
  replay : Bool
  deriving DecidableEq, Repr

/-- Bytes at `key` with the old bytes `old` of `at_` put back. -/
def putBack (key : Nat) (bs : List Byte) (at_ : Nat) (old : List Byte) : List Byte :=
  bs.mapIdx (fun i b => if at_ ≤ key + i ∧ key + i < at_ + old.length then old.getD (key + i - at_) b else b)

/-- Bytes as they stood before the stores numbered `n` and later were performed. -/
def State.asBefore (s : State) (cut : Option Nat) (key : Nat) (bs : List Byte) : List Byte :=
  match cut with
  | none => bs
  | some n => s.was.foldl (fun bs p => if n ≤ p.1 then putBack key bs p.2.1 p.2.2 else bs) bs

/-- One word of a code image on a page. -/
def State.codeWord (s : State) (ctx va : Nat) (cut : Option Nat) (l : Leaf) : Except NoFetch (BitVec 64) :=
  let (bs, poison) := s.homeLoad (s.ctx ctx) l 8
  if poison then .error ⟨0x11, 0, va, false⟩ else .ok (BitVec.ofNat 64 (leNat (s.asBefore cut l.key bs)))

/-- The page of a word to be fetched (R268, R269, R288). -/
def State.fetchPage (s : State) (core ctx va : Nat) (priv : Bool) : Except NoFetch Leaf × State :=
  match s.place core ctx va 8 .fetch false priv with
  | (.away, s) => (.error ⟨0, 0, va, false⟩, s)
  | (.absent, s) => (.error ⟨0, 0, va, true⟩, s)
  | (.bad k, s) => (.error ⟨0x10, k, va % 2 ^ 52, false⟩, s)
  | (.ok l, s) =>
    if l.ca = 3 ∧ s.linkDown l.peer then (.error ⟨0x14, 0, va, false⟩, s)
    else if !s.open_ (some core) l then (.error ⟨0, 0, va, false⟩, s)
    else (.ok l, s)

/-- `n` consecutive words. -/
def State.fetchWords (s : State) (core ctx : Nat) (priv : Bool) (cut : Option Nat) :
    Nat → Nat → Except NoFetch (List (BitVec 64)) × State
  | 0, _ => (.ok [], s)
  | n + 1, va =>
    match s.fetchPage core ctx va priv with
    | (.error e, s) => (.error e, s)
    | (.ok l, s) =>
      match s.codeWord ctx va cut l with
      | .error e => (.error e, s)
      | .ok w =>
        match s.fetchWords core ctx priv cut n (va + 8) with
        | (.error e, s) => (.error e, s)
        | (.ok ws, s) => (.ok (w :: ws), s)

/-- The stores since the core's fetch cache was last invalidated that changed a clause at `key`; for a clause
that crosses a page, every store since then. -/
def State.changesOf (s : State) (core key : Nat) : List Nat :=
  let crosses : Bool := decide (65536 < key % 65536 + 72)
  (s.was.filter (fun p => decide ((s.core core).fetchFrom ≤ p.1) &&
    (crosses || overlap p.2.1 p.2.2.length key 72))).map (·.1)

/-- A clause as a core takes it: each fetch takes it as it stands at its home, or as it stood before any store
performed since the core's fetch cache was last invalidated (R20, R273). -/
def State.fetch (s : State) (core ctx : Nat) (va : BitVec 64) (priv : Bool) :
    Except NoFetch (List (BitVec 64)) × State :=
  match s.fetchPage core ctx va.toNat priv with
  | (.error e, s) => (.error e, s)
  | (.ok l, s) =>
    let old := s.changesOf core l.key
    let (cut, s) := if old = [] then (none, s) else
      let (k, s) := s.pick (old.length + 1)
      (old[k]?, s)
    match s.codeWord ctx va.toNat cut l with
    | .error e => (.error e, s)
    | .ok h =>
      match s.fetchWords core ctx priv cut (hdrLen h) (va.toNat + 8) with
      | (.error e, s) => (.error e, s)
      | (.ok ws, s) => (.ok (h :: ws), s)

/-! ### The checks of a clause (R17 to R22, R26, R37) -/

/-- The instructions of a clause by the index of their first word, each with whether it is long form. -/
def scanWords : Nat → Nat → List (BitVec 64) → List (Nat × Bool × Except Undecoded Instr)
  | 0, _, _ => []
  | _, _, [] => []
  | n + 1, i, w :: l =>
    (i, isLong w, decode w (l.headD 0)) ::
      (if isLong w then scanWords n (i + 2) (l.drop 1) else scanWords n (i + 1) l)

/-- The instructions of a clause that decode, from word `k` on. -/
def clauseInstrs (k : Nat) (ws : List (BitVec 64)) : List Instr :=
  (scanWords 8 0 ws).filterMap (fun p =>
    if p.1 < k then none else match p.2.2 with
      | .ok i => some i
      | .error _ => none)

/-- Long-latency instructions before word `k`. -/
def longBefore (k : Nat) (ws : List (BitVec 64)) : Nat :=
  ((scanWords 8 0 ws).filter (fun p => decide (p.1 < k) && (match p.2.2 with
    | .ok i => i.isLongLatency
    | .error _ => false))).length

/-- The clause cause of a header and its words, the lowest number first (R37). -/
def clauseCause (h : BitVec 64) (ws : List (BitVec 64)) : Option Nat :=
  let sc := scanWords 8 0 ws
  let ll := ((clauseInstrs 0 ws).filter (·.isLongLatency)).length
  let a := hdrSetA h
  let b := hdrSetB h
  let reuse (k : Nat) : Bool := h.getLsbD (28 + k)
  let cut : Bool := sc.any (fun p => p.2.1 && decide (ws.length < p.1 + 2))
  let early : Bool := sc.any (fun p => match p.2.2 with
    | .ok i => i.isTransfer && decide (p.1 + instrWords i < ws.length)
    | .error _ => false)
  let hint : Bool := (List.range 8).any (fun k => reuse k &&
    (decide (ws.length ≤ k) || sc.any (fun p => p.2.1 && p.1 + 1 == k)))
  if bits h.toNat 36 28 ≠ 0 then some 1
  else if (12 ≤ a ∧ a ≤ 14) ∨ (12 ≤ b ∧ b ≤ 14) ∨ (a ≠ 15 ∧ ll = 0) ∨ (b ≠ 15 ∧ ll < 2) then some 2
  else if 3 ≤ ll then some 3
  else if cut ∨ early ∨ hint then some 4
  else none

/-- The completion flags that the remaining long-latency instructions of a clause count. -/
def clauseFlags (h : BitVec 64) (k : Nat) (ws : List (BitVec 64)) : List Nat :=
  let n := ((clauseInstrs k ws).filter (·.isLongLatency)).length
  (([hdrSetA h, hdrSetB h].drop (longBefore k ws)).take n).filter (· < 12)

/-- The clause can start under R28: WAIT, which a resumption inside it does not test, and the limits. -/
def Sheaf.canStart (sh : Sheaf) (h : BitVec 64) (word : Option Nat) (ws : List (BitVec 64)) : Bool :=
  let fl := clauseFlags h (word.getD 0) ws
  (word.isSome || (List.range 12).all (fun n => !bit (hdrWait h) n || sh.flags.getD n 0 == 0)) &&
    fl.all (fun n => decide (sh.flags.getD n 0 + fl.count n ≤ 255))

/-- The size of the blocks of named threads of a clause's remaining words, where it waits (R107, R38). -/
def waitSpan (width k : Nat) (ws : List (BitVec 64)) : Option Nat :=
  match (clauseInstrs k ws).filterMap (waitSeg width) with
  | [] => none
  | l => some (min width (l.foldl max 1))

/-! ### Issue groups (R94, R107) -/

/-- A number put in its place among ascending numbers, once. -/
def insertNat (x : Nat) : List Nat → List Nat
  | [] => [x]
  | y :: l => if x < y then x :: y :: l else if x = y then y :: l else y :: insertNat x l

/-- Ascending numbers, each once. -/
def sortNat (l : List Nat) : List Nat := l.foldr insertNat []

/-- A thread that may take part in an issue group. -/
def Thread.stands? (th : Thread) : Bool :=
  match th.st with
  | .ready | .arrived => true
  | _ => false

/-- Where a thread stands, as one number: the address, then the word index. -/
def Thread.key (th : Thread) : Nat := th.stands.toNat * 16 + (th.word.getD 15)

/-- A candidate group: its threads, where they stand, the clause, or why it cannot be fetched or is
illegal. -/
structure Cand where
  threads : List Nat
  pc : BitVec 64
  word : Option Nat
  words : List (BitVec 64)
  bad : Option NoFetch
  deriving DecidableEq, Repr

/-- The threads of a group whose named threads all stand with them; the others become arrived (R107). -/
def Sheaf.complete (sh : Sheaf) (group : List Nat) (span : Nat) : List Nat :=
  group.filter (fun t => (segment span t).all (fun u => sh.exited u || decide (sh.width ≤ u) || decide (u ∈ group)))

/-- Ready threads of a group that have to wait for others become arrived. -/
def Sheaf.arrive (sh : Sheaf) (l : List Nat) : Sheaf :=
  each l (fun t sh => sh.modThread t (fun th => if th.st = .ready then { th with st := .arrived } else th)) sh

/-- The threads of a group that cannot fetch its clause: where some are privileged and some not, a page that only the
handler may use stops the others alone (R421). -/
def Sheaf.barred (sh : Sheaf) (group : List Nat) (e : NoFetch) : List Nat :=
  if e.code = 0x10 ∧ e.sub = 4 ∧ group.any (fun t => !(sh.thread t).priv) then group.filter (fun t => !(sh.thread t).priv)
  else group

/-- One candidate of R94, where it can start: its clause is fetched with the privilege that all its threads have (R421). -/
def State.candidate (s : State) (sid key : Nat) : Option Cand × State :=
  let sh := s.sheaf sid
  let group := (List.range sh.width).filter (fun t => (sh.thread t).stands? && (sh.thread t).key == key)
  let th := sh.thread (group.headD 0)
  match s.fetch (coreOf sid) sh.ctx th.pc (group.all (fun t => (sh.thread t).priv)) with
  | (.error e, s) => (if e.code = 0 ∧ !e.replay then none else some ⟨sh.barred group e, th.pc, th.word, [], some e⟩, s)
  | (.ok l, s) =>
    let h := l.headD 0
    let ws := l.tail
    match (if th.word.isNone then clauseCause h ws else none) with
    | some c => (some ⟨group, th.pc, none, l, some ⟨1, c, 0, false⟩⟩, s)
    | none =>
      let who := match waitSpan sh.width (th.word.getD 0) ws with
        | none => group
        | some n => sh.complete group n
      let s := s.modSheaf sid (fun sh => sh.arrive (group.filter (fun t => t ∉ who)))
      if who = [] ∨ !sh.canStart h th.word ws then (none, s) else (some ⟨who, th.pc, th.word, l, none⟩, s)

/-- The candidates of a sheaf by ascending address (R94). -/
def State.candidates (s : State) (sid : Nat) : List Cand × State :=
  let sh := s.sheaf sid
  let keys := sortNat (((List.range sh.width).filter (fun t => (sh.thread t).stands?)).map (fun t => (sh.thread t).key))
  keys.foldl (fun acc k =>
    let (c, s) := acc.2.candidate sid k
    (acc.1 ++ c.toList, s)) ([], s)

/-- The candidate that R94 step 3 chooses, with the count of clauses in a row: the group that yielded is
ranked last, and after 64 clauses the next higher address has its turn.  DESIGN CHOICE (log 65): two clauses in
a row are of the same candidate group when their groups have the same lowest thread (`lead`). -/
def Sheaf.choose (sh : Sheaf) (l : List Cand) : Option (Cand × Nat × Nat) :=
  let y (c : Cand) : Bool := c.threads.any (fun t => sh.last.getLsbD t)
  match l.filter (fun c => !y c) ++ l.filter y with
  | [] => none
  | [c] => some (c, 0, 0)
  | c :: _ =>
    let lead := c.threads.headD 0
    let n := if lead = sh.lead then sh.streak else 0
    if n < 64 then some (c, lead, n + 1)
    else
      let i := (l.findIdx (fun x => x == c) + 1) % l.length
      let d := l.getD i c
      some (d, d.threads.headD 0, 1)

/-- What the threads of a group that resumes inside its clause have kept for the clause's end (R38, R105, R181). -/
def Sheaf.kept (sh : Sheaf) (c : Cand) : List (Nat × ClauseEnd) :=
  if c.word.isSome then c.threads.map (fun t => (t, (sh.thread t).ends)) else []

/-- A group begins its clause, or goes on inside it with what its words have left for the clause's end (R28, R38). -/
def Sheaf.begin_ (sh : Sheaf) (c : Cand) : Sheaf :=
  let ends := sh.kept c
  let sh := each c.threads (fun t sh => sh.modThread t (fun th =>
    { th with st := .ready, word := none, stood := none, ends := default })) sh
  let k := c.word.getD 0
  { sh with
    run := some { pc := c.pc, header := c.words.headD 0, words := c.words.tail, k := k, mask := maskOf c.threads, ll := longBefore k c.words.tail, yielded := ends.any (·.2.yielded), sleeps := ends.filterMap (fun e => if e.2.sleep = 0 then none else some (e.1, e.2.sleep)), waits := ends.filterMap (fun e => e.2.wait.map (fun w => (e.1, w))), targets := [], since := none, place := none, rel := none }
    last := 0
    blocked := false }

/-- Threads that wait for RESUME, or for the work that a halt held on their core, go on (R434). -/
def State.heldOn (s : State) (c ctx : Nat) : Bool :=
  let k := s.core c
  k.copies.any (fun p => p.2.held && p.2.ctx == ctx) || k.reqs.any (fun p => p.2.held && p.2.ctx == ctx) ||
    k.jobs.any (fun j => j.held && (s.wg j.wg).ctx == ctx) ||
    s.wgs.any (fun p => p.2.core == c && p.2.ctx == ctx && p.2.heldBinding)

/-- Threads parked by `tret` in a halted context become ready once the context has resumed and the work
held on their core has run (R434). -/
def State.wakeResumed (s : State) (sid : Nat) : State :=
  let sh := s.sheaf sid
  if s.halted sh.ctx ∨ s.heldOn (coreOf sid) sh.ctx then s
  else s.modSheaf sid (fun sh => { sh with
    threads := sh.threads.map (fun th => if th.st = .parked .resume then th.wake else th) })

/-- A system call of the threads' present privilege waits for its answer (R423). -/
def Sheaf.calling (sh : Sheaf) : Bool := sh.calls.any (fun c => c.priv == sh.inHandler)

/-- A sheaf tries to start its next clause: whether something happened (R93, R94, R28). -/
def State.trySheaf (s : State) (sid : Nat) : Bool × State :=
  let s := s.wakeResumed sid
  let sh := s.sheaf sid
  if sh.threads = [] ∨ sh.run.isSome ∨ sh.entry.isSome ∨ sh.calling ∨ s.time.core < sh.stall then (false, s)
  else
    let (l, s) := s.candidates sid
    match (s.sheaf sid).choose l with
    | none => (false, s)
    | some (c, lead, n) =>
      let s := s.modSheaf sid (fun sh => { sh with lead := lead, streak := n })
      match c.bad with
      | none => (true, s.modSheaf sid (fun sh => sh.begin_ c))
      | some e =>
        if e.replay then
          let sh := s.sheaf sid
          let s := s.modSheaf sid (fun sh => sh.parkAt c.threads c.pc c.word (.replay (BitVec.ofNat 64 e.addr)))
          (true, s.replayFault sh.ctx e.addr 3 c.threads.length (coreOf sid) (slotOf sid) sh.gen.toNat)
        else (true, s.fault sid c.threads c.pc c.word e.code e.sub c.threads e.addr)

/-! ### The scheduler (R95, R96) -/

/-- The sheaves of a core, the oldest first. -/
def State.byAge (s : State) (c : Nat) : List Nat :=
  (sortNat ((s.sheaves.filter (fun p => coreOf p.1 = c)).map (fun p => p.2.age * 64 + slotOf p.1))).map (fun n =>
    c * 64 + n % 64)

/-- A sheaf becomes the current one; its run begins with it. -/
def State.setCurrent (s : State) (sid : Nat) : State :=
  if (s.core (coreOf sid)).current = some (slotOf sid) then s
  else (s.modCore (coreOf sid) (fun k => { k with current := some (slotOf sid) })).modSheaf sid
    (fun sh => { sh with issued := 0 })

/-- A sheaf breaks its run (R96). -/
def State.breakRun (s : State) (sid : Nat) : State :=
  if (s.core (coreOf sid)).current = some (slotOf sid) then s.modCore (coreOf sid) (fun k => { k with current := none })
  else s

/-- The first sheaf of a list that is inside a clause, or that can start one; the flag says which.  A current sheaf that
can do neither breaks its run.  None is chosen past a sheaf whose word waited at issue when it was last tried: whether it
waits still is found by the core's next attempt to issue it (`State.issueFirst`; R96). -/
def State.select : List Nat → State → Option (Nat × Bool) × State
  | [], s => (none, s)
  | sid :: l, s =>
    let sh := s.sheaf sid
    if sh.run.isSome then
      (if sh.blocked then (none, s) else (some (sid, true), s.setCurrent sid))
    else match s.trySheaf sid with
      | (true, s) => (some (sid, false), s.setCurrent sid)
      | (false, s) => State.select l (s.breakRun sid)

/-- The run limit: the sheaf is passed over until another one has issued (R96). -/
def State.limitRun (s : State) (c : Nat) : State :=
  match (s.core c).current with
  | none => s
  | some k =>
    if 256 ≤ (s.sheaf (c * 64 + k)).issued then
      (s.modSheaf (c * 64 + k) (fun sh => { sh with passed := true, issued := 0 })).modCore c
        (fun k => { k with current := none })
    else s

/-- The sheaves of a core in the order in which the scheduler tries them: the current one, then the
others by age, those that are passed over at the end (R96). -/
def State.tryOrder (s : State) (c : Nat) : List Nat :=
  let cur := match (s.core c).current with
    | some k => [c * 64 + k]
    | none => []
  let rest := (s.byAge c).filter (fun sid => sid ∉ cur)
  let low (sid : Nat) : Bool := (s.sheaf sid).passed
  cur.filter (fun sid => (s.sheaves.get sid).isSome) ++ rest.filter (fun sid => !low sid) ++ rest.filter low

/-- The core chooses: a sheaf whose next word issues now, or one that has just started a clause. -/
def State.chooseSheaf (s : State) (c : Nat) : Option (Nat × Bool) × State :=
  let s := s.limitRun c
  State.select (s.tryOrder c) s

/-- CLAUSE_START (R28, R96): where no clause of the current sheaf is running, the first sheaf in order that is
ready starts one, or goes on inside its clause. -/
def execClauseStart (core : Nat) (s : State) : Host.Outcome State Fault Refusal :=
  .next (
    let s := s.limitRun core
    match (s.core core).current with
    | some k => if (s.sheaf (core * 64 + k)).run.isSome then s else (State.select (s.tryOrder core) s).2
    | none => (State.select (s.tryOrder core) s).2)

/-- ISSUE_GROUP_ROTATION (R94): a group has been chosen for 64 clauses in a row while another remained,
and the next one starts. -/
def execIssueGroupRotation (sid : Nat) (s : State) : Host.Outcome State Fault Refusal :=
  .next (if 64 ≤ (s.sheaf sid).streak ∧ (s.core (coreOf sid)).current = some (slotOf sid) then (s.trySheaf sid).2 else s)

/-- SCHEDULER_RUN_BREAK (R96): the current sheaf has no word in hand and cannot start a clause; the
oldest ready one is chosen. -/
def execSchedulerRunBreak (core : Nat) (s : State) : Host.Outcome State Fault Refusal :=
  .next (match (s.core core).current with
    | none => (s.chooseSheaf core).2
    | some k =>
      if (s.sheaf (core * 64 + k)).run.isSome then s
      else match s.trySheaf (core * 64 + k) with
        | (true, s) => s
        | (false, s) => ((s.modCore core (fun k => { k with current := none })).chooseSheaf core).2)

/-- RUN_LIMIT (R96). -/
def execRunLimit (core : Nat) (s : State) : Host.Outcome State Fault Refusal := .next (s.limitRun core)

/-- STALL_END (R27). -/
def execStallEnd (sid : Nat) (s : State) : Host.Outcome State Fault Refusal :=
  .next (if (s.sheaf sid).stall ≤ s.time.core then s.modSheaf sid (fun sh => { sh with stall := 0 }) else s)

/-- SLEEP_EXPIRY (R105, R181): a sleeping thread becomes ready, or evaluates the `waitm` of its clause. -/
def execSleepExpiry (sid t : Nat) (s : State) : Host.Outcome State Fault Refusal :=
  .next (match ((s.sheaf sid).thread t).st with
    | .sleeping n w =>
      if n ≤ s.time.core then
        s.modSheaf sid (fun sh => sh.modThread t (fun th => { th with st := match w with
          | some w => .waiting w
          | none => .ready }))
      else s
    | _ => s)

/-! ### Waiting clauses (R107, R109) -/

/-- CROSS_LANE_WAIT_RELEASE (R107): arrived threads whose named threads all stand with them are ready. -/
def execCrossLaneWaitRelease (sid : Nat) (s : State) : Host.Outcome State Fault Refusal :=
  .next (
    let (l, s) := s.candidates sid
    each (l.flatMap (·.threads)) (fun t s => s.modSheaf sid (fun sh => sh.modThread t (fun th =>
      match th.st with
      | .arrived => { th with st := .ready }
      | _ => th))) s)

/-- A thread of a sheaf stands at a clause that it has not started. -/
def Sheaf.standing (sh : Sheaf) (t : Nat) : Bool :=
  (sh.thread t).stands? && !(match sh.run with
    | some r => r.mask.getLsbD t
    | none => false)

/-- Time is about to pass: threads that stand at a clause note since when (R109). -/
def Sheaf.stamp (sh : Sheaf) (now : Nat) : Sheaf :=
  { sh with threads := sh.threads.mapIdx (fun t th =>
      { th with stood := if sh.standing t then some (th.stood.getD now) else none }) }

/-- Threads of every sheaf note since when they stand. -/
def State.stampStood (s : State) : State :=
  { s with sheaves := s.sheaves.map (fun (p : Nat × Sheaf) => (p.1, p.2.stamp s.time.core)) }

/-- A thread has stood at its clause for 2^20 core cycles. -/
def State.overdue (s : State) (sid t : Nat) : Bool :=
  (s.sheaf sid).standing t && (match ((s.sheaf sid).thread t).stood with
    | some n => decide (n + Config.watchLimit ≤ s.time.core)
    | none => false)

/-- The watchdog looks at the clauses of the threads `l`: the first that is a waiting clause faults, in every
thread that stands there; the mask names the live threads they wait for that do not. -/
def State.watch (sid : Nat) : List Nat → State → State
  | [], s => s
  | t :: l, s =>
    let sh := s.sheaf sid
    let th := sh.thread t
    match s.fetch (coreOf sid) sh.ctx th.pc th.priv with
    | (.error _, s) => State.watch sid l s
    | (.ok ws, s) =>
      match waitSpan sh.width (th.word.getD 0) ws.tail with
      | none => State.watch sid l s
      | some n =>
        let here := (List.range sh.width).filter (fun u => sh.standing u && (sh.thread u).key == th.key)
        let missing := (List.range sh.width).filter (fun u => u ∉ here && !sh.exited u &&
          here.any (fun v => decide (u ∈ segment n v)))
        s.fault sid here th.pc th.word 0x0A 0 missing 0

/-- CROSS_LANE_WATCHDOG (R109): a waiting clause has not started 2^20 core cycles after the first of the
threads that stand at it arrived there, whatever holds it back.  DEDUCED (log 66): the cycles are those since
the first arrival among the threads that still stand at the clause. -/
def execCrossLaneWatchdog (sid : Nat) (s : State) : Host.Outcome State Fault Refusal :=
  .next (State.watch sid ((List.range (s.sheaf sid).width).filter (s.overdue sid)) s)

end Sys2Proof.Machine
end

