-- ==== Sys2Proof/Machine/Save.lean ====
section
/-! DEFINITION. Eviction, the context save area, and the save and resumption of workgroups (R86, R115,
R120, R121, R162, R177, R196, R287, R416, R436 to R442). -/

namespace Sys2Proof.Machine

/-! ### The context save area (R439) -/

/-- Virtual address of frame `f`. -/
def Ctx.frameVa (c : Ctx) (f : Nat) : Nat := c.field 810 31 * 2 ^ 21 + 2 ^ 23 * (f + 1)

/-- A workgroup receives a frame, where one is free, and keeps the one it has. -/
def State.takeFrame (s : State) (w : Nat) : Option State :=
  let g := s.wg w
  let c := s.ctx g.ctx
  if g.frame.isSome then some s
  else match (List.range (c.field 798 12 + 1)).find? (fun f => f ∉ c.frames) with
    | none => none
    | some f => some ((s.modCtx g.ctx (fun c => { c with frames := f :: c.frames })).modWg w
        (fun g => { g with frame := some f }))

/-- A workgroup that is resident whole again, or has retired, gives its frame back. -/
def State.giveFrame (s : State) (w : Nat) : State :=
  let g := s.wg w
  match g.frame with
  | none => s
  | some f => (s.modCtx g.ctx (fun c => { c with frames := c.frames.erase f })).modWg w
      (fun g => { g with frame := none })

/-- Parts of a frame as the device writes them: offsets and bytes. -/
abbrev Image := List (Nat × List Byte)

/-- The device writes parts of a frame. -/
def State.saveImage (s : State) (ctx frame : Nat) (im : Image) : State :=
  each im (fun p s => (s.devStore ctx (frame + p.1) p.2 true).2) s

/-- The device's parts of a frame still hold what the device wrote. -/
def State.imageIntact (s : State) (ctx frame : Nat) (im : Image) : Bool :=
  im.all (fun p => match (s.devLoad ctx (frame + p.1) p.2.length true).1 with
    | .ok (bs, _) => bs == p.2
    | .error _ => true)

/-! ### Sheaf headers and thread records (R441) -/

/-- Pixel, barycentrics and the token share's number of a thread record. -/
def rasterFields (r : Option Raster) : List (Nat × Nat) :=
  match r with
  | some r => [(r.y * 2 ^ 14 + r.x, 28), (r.l1.toNat, 32), (r.l2.toNat, 32), (r.b1.toNat, 32), (r.b2.toNat, 32),
      (r.token.getD 0xFFFF, 16)]
  | none => [(0, 28), (0, 128), (0xFFFF, 16)]

/-- Hit state of a thread record. -/
def hitFields (h : Option Hit) : List (Nat × Nat) :=
  match h with
  | some h => [(h.status.toNat, 32), (h.t.toNat, 32), (h.b1.toNat, 32), (h.b2.toNat, 32), (h.prim.toNat, 32),
      (h.user.toNat, 32)]
  | none => [(0, 192)]

/-- A thread record (R441). -/
def Thread.record (th : Thread) (live cpoison : Bool) : List Byte :=
  natBytes 128 (cat ([(th.epc.toNat, 64), (th.ast.toNat, 8), (b2n live, 1), (b2n th.raster.isSome, 1),
    (b2n th.helper, 1), (b2n cpoison, 1), (th.mst.toNat, 2), (b2n th.mid.isSome, 1), (th.mid.getD 0, 3), (0, 6),
    (th.xmask.toNat, 64)] ++ rasterFields th.raster ++ hitFields th.hit ++ [(th.tbhi.toNat, 32), (0, 476)]))

/-- A sheaf's header and thread records in its frame (R439, R441). -/
def Sheaf.image (sh : Sheaf) (slot : Nat) : Image :=
  let base := 0x1000 + 0x4000 * sh.idx
  (base, natBytes 64 (cat [(sh.gen.toNat, 24), (slot, 6), (sh.idx, 4), (0, 478)])) ::
    sh.threads.mapIdx (fun t th => (base + 1024 + 128 * t, th.record (sh.live.getLsbD t) sh.cpoison))

/-! ### Workgroup images (R439, R440, R442) -/

/-- A tile descriptor as R168 lays it out. -/
def Tile.num (t : Tile) : Nat :=
  let st := match t.state with
    | .empty => 0
    | .filling => 1
    | .ready => 2
    | .draining => 3
  cat [(st, 2), (t.kind.toNat, 2), (b2n t.sat, 1), (b2n t.ovr, 1), (b2n t.poison, 1), (0, 1), (t.pend.toNat, 20),
    (t.dom.toNat, 16), (t.fmt.toNat, 5), (t.pitch.toNat, 12), (t.cols.toNat, 10), (t.rows.toNat, 8),
    (t.base.toNat, 15), (0, 2), (t.user.toNat, 32)]

/-- The workgroup header (R440). -/
def Workgroup.header (g : Workgroup) (whole : Bool) (evicted : BitVec 16) : List Byte :=
  natBytes 256 (cat [(g.desca.toNat / 16, 48), (g.wgid.toNat, 32), (g.pass, 8), (g.ty, 14), (g.tx, 14),
    (evicted.toNat, 16), (b2n whole, 1), (b2n g.paired, 1), (g.core, 8), (g.clip.toNat, 32), (g.clipx.toNat, 32),
    (0, 1842)])

/-- The stream cursor (R439). -/
def cursorBytes (o : Option Stream) : List Byte :=
  match o with
  | some c => natBytes 64 (cat [(c.prim, 16), (c.block, 6), (c.quad, 4), (c.delivered, 24), (0, 462)])
  | none => List.replicate 64 0

/-- A blender record (R442). -/
def blendBytes (l : List Token) : List Byte :=
  natBytes 32 (l.length * 2 ^ 248 + cat ((l.map (fun k => (k.number % 2 ^ 24 * 256 + k.shares.toNat, 32))).reverse))

/-- An accumulator tile's rows, status, mask and tag (R439). -/
def Acc.image (a : Acc) (n : Nat) : Image :=
  [(0x200000 + 0x4000 * n, (List.range 64).flatMap (fun m => wordsBytes (a.row m))),
   (0x600000 + 128 * n, natBytes 128 (cat [(a.mask.toNat, 512),
     ((a.status &&& 0x780FFFFF).toNat, 32), (a.dom.toNat, 16), (0, 464)]))]

/-- What the device saves of a workgroup that leaves its core entirely; the stream cursor and the blender
records go with the tile's last workgroup (R437, R439). -/
def State.wgImage (s : State) (w : Nat) (whole last : Bool) : Image :=
  let g := s.wg w
  let tile := if last then s.tileRun g.graph g.pass g.tile else none
  let thr (l : List (BitVec 16)) : List Byte := natBytes 16 ((l.mapIdx (fun i t => t.toNat * 2 ^ (16 * i))).sum)
  [(0, g.header whole g.headed), (0x100, (g.tiles.map (fun t => natBytes 16 t.num)).flatten), (0x300, g.thr.flatMap thr),
   (0x400, cursorBytes (tile.bind (·.stream))), (0x140000, g.scratch.readN 0 g.size)] ++
  (match tile with
    | some t => (List.range 1024).map (fun q => (0x1C0000 + 32 * q, blendBytes ((t.blend.get q).getD [])))
    | none => []) ++
  (g.acc.mapIdx (fun n a => a.image n)).flatten

/-! ### Eviction (R120, R436) -/

/-- Sheaves of a workgroup that stand in a slot. -/
def State.seated (s : State) (w : Nat) : List Nat := (s.sheaves.filter (fun p => p.2.wg = w)).map (·.1)

/-- A sheaf is made to enter its handler with CODE 0x30 (R436). -/
def State.oweEvict (s : State) (sid : Nat) : State :=
  s.modSheaf sid (fun sh => { sh.owe ⟨0x30, 0, 0, 0, 0, 0⟩ with evicting := true })

/-- A sheaf can be made to leave: it has started, has live threads and is not in its handler or about to
enter it.  DESIGN CHOICE (log 104): one that cannot be made to is passed by for the next youngest, which the manual does
not say. -/
def State.evictable (s : State) (sid : Nat) : Bool :=
  let sh := s.sheaf sid
  sh.threads != [] && !sh.evicting && sh.entry.isNone && !sh.inHandler && sh.liveThreads != []

/-- The other workgroup of a team, while it has not retired. -/
def State.mate (s : State) (w : Nat) : Option Nat :=
  match (s.wg w).partner with
  | none => none
  | some v => match s.wgs.get v with
    | none => none
    | some g => if g.stage = .retired then none else some v

/-- Once the last sheaf of a workgroup has left, its team partner leaves with it (R162, R437). -/
def State.leaveWith (s : State) (w : Nat) : State :=
  if s.seated w ≠ [] then s
  else match s.mate w with
    | none => s
    | some v =>
      match s.takeFrame v with
      | none => s
      | some s => each ((s.seated v).filter s.evictable) (fun sid s => s.oweEvict sid)
          (s.modWg v (fun g => { g with leaving := true }))

/-- Threads whose live bit the handler has left 0 exit: they give their token shares back (R407, R429). -/
def State.releaseDead (s : State) (sid : Nat) (who : List Nat) : State :=
  each (who.filter (fun t => !(s.sheaf sid).live.getLsbD t)) (fun t s => s.releaseToken sid t) s

/-- A sheaf leaves its core after `tret.evict`: threads whose live bit is 0 exit, the device writes its header and thread
records and frees its slot and rows (R407, R436, R441). -/
def State.evictSheaf (s : State) (sid : Nat) : State :=
  let s := s.releaseDead sid (List.range (s.sheaf sid).width)
  let sh := s.sheaf sid
  let w := sh.wg
  let g := s.wg w
  let frame := (s.ctx sh.ctx).frameVa (g.frame.getD 0)
  let s := s.saveImage sh.ctx frame (sh.image (slotOf sid))
  let (n, s) := s.fresh
  let s := s.modWg w (fun g => { g with
    saved := g.saved.put sh.idx sh
    evicted := g.evicted ||| BitVec.ofNat 16 (2 ^ sh.idx)
    slots := g.slots.set sh.idx noSlot
    evictOrder := if g.evicted = 0 then n else g.evictOrder
    headed := g.evicted ||| BitVec.ofNat 16 (2 ^ sh.idx)
    left := g.left.put sh.idx (slotOf sid) })
  let s := s.saveImage sh.ctx frame [(0, (s.wg w).header false (s.wg w).headed)]
  let s := { s with sheaves := s.sheaves.del sid }
  let s := s.modCore (coreOf sid) (fun k => { k with
    current := if k.current = some (slotOf sid) then none else k.current })
  s.leaveWith w

/-! ### Saving a whole workgroup (R437) -/

/-- A copy writes the partner's scratchpad, or counts a join cell of it (R160, R185). -/
def Copy.remote (k : Copy) : Bool :=
  k.lanes.any (fun l => !l.done && (l.sp.getLsbD 24 || (match l.cell with
    | some a => a.getLsbD 24
    | none => false)))

/-- A record writes the partner's scratchpad, or counts a join cell of it (R160, R192, R194). -/
def Req.remote (r : Req) : Bool :=
  let c := crecOf r.bytes
  match r.kind with
  | .tensor => let t := recOf r.bytes; (t.dspace == 1 && t.dst.testBit 24) || (t.jcv && t.jc.testBit 24)
  | .red _ => c.res.testBit 24 || (c.jcv && c.jc.testBit 24)
  | .bcast _ => c.vec.testBit 24 || (c.jcv && c.jc.testBit 24)

/-- Nothing of a workgroup's partner writes the workgroup's scratchpad any more (R100, R162). -/
def State.partnerQuiet (s : State) (w : Nat) : Bool :=
  match (s.wg w).partner with
  | none => true
  | some v =>
    let k := s.core (s.wg v).core
    k.copies.all (fun p => p.2.wg != v || !p.2.remote) && k.reqs.all (fun p => p.2.wg != v || !p.2.remote) &&
    s.ops.all (fun p => p.2.wg != v || (match p.2.instr with
      | .sts _ | .ats _ | .accSt _ => p.2.lanes.all (fun l => l.done || l.pa.toNat != w)
      | _ => true))

/-- No copy, request, lift job or matrix operation of a workgroup, and none of its partner that writes its scratchpad, is
unfinished; a broadcast that waits does not count (R100, R177, R196, R437). -/
def State.wgQuiet (s : State) (w : Nat) (bcasts : Bool) : Bool :=
  let g := s.wg w
  let k := s.core g.core
  k.copies.all (fun p => p.2.wg != w) && k.jobs.all (fun j => j.wg != w) &&
  k.reqs.all (fun p => p.2.wg != w || (bcasts && (match p.2.kind with
    | .bcast _ => true
    | _ => false))) &&
  s.pods.all (fun p => (p.2.mul ++ p.2.sel).all (fun m => m.wg != w)) && s.partnerQuiet w &&
  s.ops.all (fun p => p.2.wg != w || p.2.isRead)

/-- A workgroup can leave its core: it is running or has a partner that leaves, has no sheaf in a slot, and
its transfers have landed (R437). -/
def State.canLeave (s : State) (w : Nat) : Bool :=
  (s.wg w).stage == .running && s.seated w == [] && s.wgQuiet w true && !s.halted (s.wg w).ctx

/-- Broadcasts that wait are cancelled and kept as their records (R196). -/
def State.cancelBcasts (s : State) (w : Nat) : State :=
  let g := s.wg w
  let mine := (s.core g.core).reqs.filter (fun p => p.2.wg = w)
  let s := s.modWg w (fun g => { g with relaunch := mine.map (·.2) })
  s.modCore g.core (fun k => { k with reqs := k.reqs.filter (fun p => p.2.wg ≠ w) })

/-- No other workgroup of the same tile is on a core. -/
def State.lastOfTile (s : State) (l : List Nat) (w : Nat) : Bool :=
  let g := s.wg w
  s.wgs.all (fun p => decide (p.1 ∈ l) || p.2.graph != g.graph || p.2.pass != g.pass || p.2.tile != g.tile ||
    !p.2.resident)

/-- One workgroup is saved and leaves its core. -/
def State.saveWg (s : State) (l : List Nat) (w : Nat) : State :=
  let s := s.cancelBcasts w
  let g := s.wg w
  let frame := (s.ctx g.ctx).frameVa (g.frame.getD 0)
  let last := s.lastOfTile l w && l.getLast? == some w
  let s := s.modWg w (fun g => { g with headed := g.evicted, lastOut := last })
  let s := s.saveImage g.ctx frame (s.wgImage w true last)
  let s := s.modWg w (fun g => { g with stage := .saved, leaving := false })
  s.saveBank g.core g.ctx (bankBytes (((s.core g.core).fmt.get g.ctx).getD []))

/-- WORKGROUP_SAVE (R437): a workgroup whose last sheaf has been evicted leaves its core, and its team partner
with it. -/
def execWorkgroupSave (w : Nat) (s : State) : Host.Outcome State Fault Refusal :=
  .next (
    let team := w :: (s.mate w).toList
    if team.all s.canLeave && team.any (fun v => (s.wg v).evicted != 0) then
      match team.foldl (fun (o : Option State) v => o.bind (fun s => s.takeFrame v)) (some s) with
      | none => s
      | some s => each team (fun v s => s.saveWg team v) s
    else s)

/-! ### Resumption (R438) -/

/-- A thread that is started at the handler entry with zeroed rows; what the thread record does not carry
is lost (R438, R441). -/
def Thread.restart (th : Thread) (live : Bool) (handler : BitVec 64) (regs : Nat) : Thread :=
  { th with
    st := if live then .ready else .exited
    pc := handler
    word := none
    stood := none
    v := List.replicate regs 0
    taint := 0
    ast := th.ast &&& 0xFF
    ks := [0, 0, 0, 0]
    priv := live
    closed := if th.st = .exited then 0xFFFFFF else th.closed }

/-- A saved sheaf as it stands in its new slot: at the handler entry with CODE 0x31 (R438). -/
def Sheaf.restored (old seat : Sheaf) (handler : BitVec 64) : Sheaf :=
  { seat with
    cpoison := old.cpoison
    threads := old.threads.mapIdx (fun t th => th.restart (old.live.getLsbD t) handler seat.regs)
    inHandler := (List.range old.threads.length).any (fun t => old.live.getLsbD t)
    cause := 0x31000000
    live := old.live
    calls := old.calls }

/-- The resumed state of a thread is undefined where a program has written the device's parts of the frame
(R439, R441): `l` holds the values. -/
def Thread.scrambled (th : Thread) (l : List Word) : Thread :=
  let x (i : Nat) : Word := l.getD i 0
  { th with
    st := if (x 2).getLsbD 29 then .ready else .exited
    priv := (x 2).getLsbD 29
    epc := (x 0 ++ x 1) &&& 0x000FFFFFFFFFFFF8
    mid := if (x 2).getLsbD 31 then some ((x 2).toNat % 8) else none
    ast := x 3 &&& 0xFF
    mst := (x 2).extractLsb' 0 2
    xmask := x 4 ++ x 5
    tbhi := x 6
    raster := if (x 2).getLsbD 28 then some {
        x := (x 7).toNat % 2 ^ 14
        y := (x 8).toNat % 2 ^ 14
        l1 := x 9
        l2 := x 10
        b1 := x 11
        b2 := x 12
        helper := (x 2).getLsbD 30
        token := if (x 2).getLsbD 27 then some ((x 8).toNat / 2 ^ 16) else none }
      else none
    bare := (x 2).getLsbD 30
    hit := if (x 2).getLsbD 26 then some ⟨x 13, x 14, x 15, x 16, x 17, x 18⟩ else none }

/-- A thread's resumed state becomes undefined (R439). -/
def State.undefThread (s : State) (sid t : Nat) : State :=
  let (l, s) := s.undefs 19
  s.modSheaf sid (fun sh => sh.modThread t (fun th => th.scrambled l))

/-- The resumed state of a tile descriptor becomes undefined (R168, R439): `l` holds the values. -/
def Tile.scrambled (t : Tile) (l : List Word) : Tile :=
  let x (i : Nat) : Word := l.getD i 0
  { t with
    state := if (x 0).getLsbD 31 then (if (x 0).getLsbD 30 then .draining else .ready)
      else if (x 0).getLsbD 30 then .filling else .empty
    kind := (x 0).extractLsb' 0 2
    sat := (x 0).getLsbD 2
    ovr := (x 0).getLsbD 3
    poison := (x 0).getLsbD 4
    pend := (x 1).extractLsb' 0 20
    dom := (x 2).extractLsb' 0 16
    fmt := (x 2).extractLsb' 16 5
    pitch := (x 3).extractLsb' 0 12
    cols := (x 3).extractLsb' 12 10
    rows := (x 3).extractLsb' 22 8
    base := (x 4).extractLsb' 0 15
    user := x 5 }

/-- The resumed state of an accumulator tile becomes undefined (R203, R439): `k` numbers the values. -/
def Acc.scrambled (a : Acc) (k : Nat) : Acc :=
  let x (i : Nat) : Nat := Config.freeNat (k + i)
  { a with
    elems := ((List.range 4096).map (fun i => (i, BitVec.ofNat 32 (x i)))).filter (fun p => p.2 ≠ 0)
    ovf := x 4096 % 2 = 1
    nan := x 4097 % 2 = 1
    inv := x 4098 % 2 = 1
    cvt := x 4099 % 2 = 1
    dom := BitVec.ofNat 16 (x 4100)
    mask := BitVec.ofNat 512 (x 4101) }

/-- The stream cursor and the blender records of a tile become undefined (R439, R442): `k` numbers the values. -/
def TileRun.scrambled (t : TileRun) (k : Nat) : TileRun :=
  let x (i : Nat) : Nat := Config.freeNat (k + i)
  { t with
    stream := t.stream.map (fun c => { c with
      prim := x 0 % 2 ^ 16
      block := x 1 % 64
      quad := x 2 % 16
      delivered := x 3 % 2 ^ 24 })
    blend := ((List.range 1024).map (fun q => (q, (List.range (x (16 + 16 * q) % 8)).map (fun i =>
      (⟨x (16 + 16 * q + 2 * i + 1) % 2 ^ 24, BitVec.ofNat 4 (x (16 + 16 * q + 2 * i + 2))⟩ : Token))))).filter
        (fun p => p.2 ≠ []) }

/-- What the workgroup header holds of a workgroup becomes undefined (R439, R440).  DESIGN CHOICE (log 26): what the
device keeps to schedule the workgroup, its graph, pass, tile and team, is not read back from the frame. -/
def State.undefHead (s : State) (w : Nat) : State :=
  let (l, s) := s.undefs 7
  let x (i : Nat) : Word := l.getD i 0
  s.modWg w (fun g => { g with
    desca := ((x 0 ++ x 1) &&& 0x000FFFFFFFFFFFF0)
    wgid := x 2
    tx := (x 3).toNat % 2 ^ 14
    ty := (x 4).toNat % 2 ^ 14
    clip := x 5
    clipx := x 6 })

/-- What the device restores of a workgroup that is undefined (R439): its scratchpad, thresholds, tile
descriptors and accumulator tiles, and what its header says. -/
def State.undefWg (s : State) (w : Nat) : State :=
  let g := s.wg w
  let n := s.free
  let s := { s with free := s.free + 1 }
  let (ls, s) := g.tiles.foldl (fun (acc : List Tile × State) t =>
    let (l, s) := acc.2.undefs 6
    (acc.1 ++ [t.scrambled l], s)) ([], s)
  (s.modWg w (fun g => { g with
    scratch := Memory.writeN [] 0 ((List.range g.size).map (fun i => Config.freeByte (n * 2 ^ 48 + i)))
    thr := g.thr.mapIdx (fun k l => l.mapIdx (fun i _ => BitVec.ofNat 16 (Config.freeNat (n * 2 ^ 48 + 6 * k + i))))
    tiles := ls
    acc := g.acc.mapIdx (fun k a => a.scrambled (n * 2 ^ 48 + 2 ^ 40 + k * 2 ^ 16)) })).undefHead w

/-- The state that a sheaf's header and thread records restore becomes undefined (R439, R441). -/
def State.undefSheaf (s : State) (sid : Nat) : State :=
  let s := each (List.range (s.sheaf sid).threads.length) (fun t s => s.undefThread sid t) s
  let (b, s) := s.flip
  s.modSheaf sid (fun sh => { sh with
    cpoison := b
    live := maskOf ((List.range sh.threads.length).filter (fun t => (sh.thread t).st ≠ .exited))
    inHandler := sh.liveThreads ≠ [] })

/-- A saved sheaf takes a slot and lanes, and each resumed thread makes a full fence at device scope
(R287, R438). -/
def State.resumeSheaf (s : State) (w idx slot : Nat) (at_ : Nat × List Nat) : State :=
  let g := s.wg w
  match g.saved.get idx with
  | none => s
  | some old =>
    let frame := (s.ctx g.ctx).frameVa (g.frame.getD 0)
    let intact := s.imageIntact g.ctx frame (old.image ((g.left.get idx).getD 0))
    let s := s.seat g.core slot g.ctx w idx old.width at_ old.regs
    let sid := g.core * 64 + slot
    let handler := BitVec.ofNat 64 (s.ctx g.ctx).handler
    let s := s.modSheaf sid (fun seat => old.restored seat handler)
    let s := s.modWg w (fun g => { g with
      saved := g.saved.del idx
      evicted := g.evicted &&& ~~~ BitVec.ofNat 16 (2 ^ idx)
      slots := g.slots.set idx sid })
    let s := if intact then s else s.undefSheaf sid
    s.acquired g.core g.ctx (some 3)

/-- The resources of one sheaf of a workgroup. -/
def Desc.oneSheaf (d : Desc) : Desc :=
  { d with sheaves := 1, acc := 0, tiles := 0, thresh := 0, joins := 0, scratch := 0 }

/-- The reserved slot of its graph that a workgroup holds (R339, R384). -/
def Workgroup.mySlot (g : Workgroup) : Option (Nat × Nat) := g.slot.map (fun i => (g.graph, i))

/-- A partially evicted workgroup gets a sheaf back on its own core, out of room that no reserved slot takes (R121, R362,
R438). -/
def State.resumePart (s : State) (w : Nat) : State :=
  let g := s.wg w
  let first := s.wgs.all (fun p => !p.2.resident || p.2.core != g.core || p.2.evicted == 0 ||
    decide (g.evictOrder ≤ p.2.evictOrder))
  match g.saved with
  | [] => s
  | (idx, _) :: _ =>
    if !first ∨ g.leaving ∨ (s.core g.core).incoming.isSome ∨ s.seated w = [] then s
    else match (s.freeRoom g.core g.mySlot).bind (fun r => r.grant g.desc.oneSheaf) with
      | none => s
      | some r =>
        let intact := s.imageIntact g.ctx ((s.ctx g.ctx).frameVa (g.frame.getD 0)) [(0, g.header false g.headed)]
        let s := if intact then s else s.undefHead w
        let s := s.resumeSheaf w idx (r.slots.headD 0) (r.lanes.headD default)
        if (s.wg w).saved = [] then s.giveFrame w else s

/-- A core has a partially evicted workgroup (R121). -/
def State.partial_ (s : State) (c : Nat) : Bool := (s.wgsOn c).any (fun p => p.2.evicted != 0)

/-- The grant of a saved workgroup on a core (R121, R438). -/
def State.regrant (s : State) (w c : Nat) : Option Grant :=
  let g := s.wg w
  let pods := ((s.graph g.graph).groups.getD (((s.graph g.graph).passes.getD g.pass default).cg) default).pods
  let ctxs := s.ctxsOn c
  if !pods.getLsbD (c / 2) ∨ s.partial_ c ∨ (s.core c).incoming.isSome ∨ (2 ≤ ctxs.length ∧ g.ctx ∉ ctxs) then none
  else s.grantOn c { g.desc with sheaves := g.saved.length } g.mySlot

/-- What a workgroup's save in its frame is compared with at its resumption: the cursor and the blender records too where
they went with it and no other workgroup of the tile has come back since (R437, R439). -/
def State.savedImage (s : State) (w : Nat) : Image × Bool :=
  let last := (s.wg w).lastOut && s.lastOfTile [w] w
  let im := s.wgImage w true last
  (if last then im else im.filter (fun p => p.1 ≠ 0x400), last)

/-- A saved workgroup is restored on a core with the context's format bank there, and its sheaves start at their handlers
(R86, R438). -/
def State.restoreWg (s : State) (w c : Nat) (r : Grant) : State :=
  let g := s.wg w
  let frame := (s.ctx g.ctx).frameVa (g.frame.getD 0)
  let (im, last) := s.savedImage w
  let intact := s.imageIntact g.ctx frame im
  let s := s.arriveOn c g.ctx
  let since := (s.core c).nextAge
  let s := s.modWg w (fun g => { g with
    stage := .running
    core := c
    base := r.base
    since := since
    relaunch := [] })
  let s := if intact then s
    else
      let k := s.free
      let s := s.undefWg w
      if last then { s.modTile g.graph g.pass g.tile (fun t => t.scrambled (k * 2 ^ 48 + 2 ^ 46)) with free := s.free + 1 } else s
  let seats := (g.saved.map (·.1)).zip (r.slots.zip r.lanes)
  let s := each seats (fun p s => s.resumeSheaf w p.1 p.2.1 p.2.2) s
  let s := each g.relaunch (fun q s =>
    let (n, s) := s.fresh
    s.modCore c (fun k => { k with reqs := k.reqs.put n q })) s
  s.giveFrame w

/-- WORKGROUP_RESUMPTION (R438): a partially evicted workgroup gets a sheaf back on its core; a saved one
resumes whole on `c`, its team on the two cores of the pod. -/
def execWorkgroupResumption (w c : Nat) (s : State) : Host.Outcome State Fault Refusal :=
  .next (
    let g := s.wg w
    match g.stage with
    | .running => if g.core = c ∧ g.evicted ≠ 0 then s.resumePart w else s
    | .saved =>
      match s.mate w with
      | none =>
        (match s.regrant w c with
          | some r => if g.paired ∧ c % 2 ≠ g.pos then s else s.restoreWg w c r
          | none => s)
      | some v =>
        let c' := c / 2 * 2 + (1 - c % 2)
        (match s.regrant w c, s.regrant v c' with
          | some r, some r' =>
            if c % 2 = g.pos ∧ (s.wg v).stage = .saved then (s.restoreWg w c r).restoreWg v c' r' else s
          | _, _ => s)
    | _ => s)

end Sys2Proof.Machine
end

