-- ==== Sys2Proof/Machine/Board.lean ====
section
/-! DEFINITION. The tile scoreboard and the launch unit: passes entering, tiles released and dispatched,
teams placed, workgroups admitted, staging tiles bound, sheaves started and retired, and batches of records
formed (R88 to R90, R99, R120, R337, R351, R355 to R358, R376, R379 to R382, R387). -/

namespace Sys2Proof.Machine

/-! ### Passes and tiles (R355 to R357) -/

/-- A pass as it runs. -/
def Graph.run (g : Graph) (p : Nat) : PassRun := g.runs.getD p default

/-- PASS_ENTRY (R355): a pass enters its scoreboard in pass-number order, while no pass 64 or more below it is
unretired. -/
def execPassEntry (n p : Nat) (s : State) : Host.Outcome State Fault Refusal :=
  .next (
    let g := s.graph n
    let ready : Bool := (List.range p).all (fun q => (g.run q).entered && (decide (p < q + 64) || (g.run q).retired))
    if g.stage ≠ .admitted ∨ g.passes.length ≤ p ∨ (g.run p).entered ∨ !ready then s
    else s.modPassRun n p (fun r => { r with entered := true }))

/-- Tile `t` of pass `p` is satisfied on every edge, as the retires that its home knows leave it (R357). -/
def Graph.satisfied (g : Graph) (p t : Nat) : Bool :=
  let d := (g.pass p).home
  (g.edgesOf p).all (fun e => match e.dir with
    | 0 => (g.edgeTiles p t e).all (fun i => decide (i ∈ (g.run e.prod).known.getD d [])) || (g.sten e.sten).form == 3
    | 2 => (g.run e.prod).passKnown.getD d false
    | _ => true)

/-- A tile at its release. -/
def TileRun.reset : TileRun where
  board := .released
  placed := 0
  wgs := []
  ended := 0
  done_ := 0
  leader := 0
  drained := 0
  stream := none
  blend := []
  reads := []

/-- A tile of a live pass is blocked and satisfied (R356, R357). -/
def Graph.releasable (g : Graph) (p t : Nat) : Bool :=
  g.stage == .admitted && (g.run p).entered && (g.pass p).kind == 0 && decide (t < (g.pass p).count) &&
    ((g.run p).tiles.get t).isNone && g.satisfied p t

/-- A tile is released; the first of its pass is stamped (R356). -/
def State.releaseTile (s : State) (n p t : Nat) : State :=
  let g := s.graph n
  let r := g.run p
  let s := s.modPassRun n p (fun r => { r with
    released := true
    tiles := r.tiles.put t TileRun.reset })
  if g.trail ∧ !r.released then s.trail { event := 3, graph := g.va.toNat, pass := p, ctx := g.ctx } else s

/-- TILE_RELEASE (R356 to R358): a blocked tile that is satisfied is released, and with it every other such tile of its
home's scoreboard, so that those that one retire releases meet in one dispatch order. -/
def execTileRelease (n p t : Nat) (s : State) : Host.Outcome State Fault Refusal :=
  .next (
    let g := s.graph n
    if !g.releasable p t then s
    else each ((List.range g.passes.length).filter (fun q => (g.pass q).home = (g.pass p).home)) (fun q s =>
      each ((List.range (g.pass q).count).filter (g.releasable q)) (fun u s => s.releaseTile n q u) s) s)

/-! ### Launch units and dispatch (R358, R334, R379) -/

/-- Core groups of equal PODS share one launch unit. -/
def Graph.unit_ (g : Graph) (p : Nat) : Nat := (g.groups.getD (g.pass p).cg default).pods.toNat

/-- A launch unit. -/
def State.launchUnit (s : State) (k : Nat) : Launch := (s.launches.get k).getD Launch.reset

/-- A launch unit changed. -/
def State.modLaunch (s : State) (k : Nat) (f : Launch → Launch) : State :=
  { s with launches := s.launches.put k (f (s.launchUnit k)) }

/-- Dispatch order as one number (R358). -/
def Graph.tileKey (g : Graph) (p t : Nat) : Nat := (((g.pass p).prio * 2 ^ 64 + g.order) * 256 + p) * 16384 + t

/-- The released tiles of a launch unit in dispatch order; tiles of a halted context stay (R358, R364). -/
def State.dispatchOrder (s : State) (k : Nat) : Tab (Nat × Nat × Nat) :=
  s.graphs.foldl (fun (l : Tab (Nat × Nat × Nat)) q =>
    if q.2.stage ≠ .admitted ∨ s.halted q.2.ctx then l
    else (List.range q.2.passes.length).foldl (fun (l : Tab (Nat × Nat × Nat)) p =>
      if q.2.unit_ p ≠ k then l
      else (q.2.run p).tiles.foldl (fun (l : Tab (Nat × Nat × Nat)) x => match x.2.board with
        | .released | .held => l.put (q.2.tileKey p x.1) (q.1, p, x.1)
        | _ => l) l) l) []

/-- Ring work that touches a pass's outputs is held (R322). -/
def State.outsHeld (s : State) (g : Graph) (p : Nat) : Bool :=
  (g.outs p).any (fun e => (g.res e.res).cls == 1 && (s.base (g.res e.res).die).ring.hold)

/-- The first tile of a list whose outputs can all be reserved is dispatched; those before it are held
(R333, R334). -/
def State.dispatchFirst (k : Nat) : Tab (Nat × Nat × Nat) → State → State
  | [], s => s
  | (_, n, p, t) :: l, s =>
    match (if s.outsHeld (s.graph n) p then none else (s.graph n).reserve p t) with
    | some g =>
      let s := { s with graphs := s.graphs.put n g }
      (s.modTile n p t (fun r => { r with board := .dispatched })).modLaunch k (fun u =>
        { u with tiles := u.tiles ++ [(n, p, t)] })
    | none => State.dispatchFirst k l (s.modTile n p t (fun r => { r with board := .held }))

/-- TILE_DISPATCH (R356, R358): the next tile of a launch unit. -/
def execTileDispatch (pods : Nat) (s : State) : Host.Outcome State Fault Refusal :=
  .next (State.dispatchFirst pods (s.dispatchOrder pods) s)

/-! ### Batches of records (R387) -/

/-- Handles key the records of a context: die * 2^16 + entry (R385). -/
def handleKey (h : BitVec 32) : Nat := bits h.toNat 30 1 * 65536 + bits h.toNat 0 16

/-- A record of a context. -/
def State.rec_ (s : State) (ctx : Nat) (h : BitVec 32) : Option Rec := ((s.recs.get ctx).getD []).get (handleKey h)

/-- A context's records changed. -/
def State.modRecs (s : State) (ctx : Nat) (f : Tab Rec → Tab Rec) : State :=
  { s with recs := s.recs.put ctx (f ((s.recs.get ctx).getD [])) }

/-- A record's state changed. -/
def State.setRec (s : State) (ctx : Nat) (h : BitVec 32) (st : RecState) : State :=
  s.modRecs ctx (fun t => t.mod (handleKey h) (fun r => { r with st := st }))

/-- Every feeder of a record node has retired, as its home knows. -/
def Graph.fed (g : Graph) (p : Nat) : Bool :=
  (g.edgesOf p).all (fun e => e.dir != 2 || (g.run e.prod).passKnown.getD (g.pass p).home false)

/-- A batch can form (R387). -/
def State.batchDue (s : State) (g : Graph) (p : Nat) : Bool :=
  let q := (g.run p).queue
  let e := g.pass p
  let old : Bool := match q with
    | [] => false
    | x :: _ => e.timeout != 0 && decide (x.2 + e.timeout ≤ s.now)
  e.kind == 1 && !q.isEmpty && (decide (e.desc.batch + 1 ≤ q.length) || old || g.fed p)

/-- RECORD_BATCH_FORMATION (R387): a batch of the oldest waiting records goes to the launch unit. -/
def State.formBatch (s : State) (n p : Nat) : State :=
  let g := s.graph n
  if !s.batchDue g p then s
  else
    let r := g.run p
    let size := (g.pass p).desc.batch + 1
    let h := (r.queue.take size).map (·.1)
    let s := s.modPassRun n p (fun r => { r with
      queue := r.queue.drop size
      batches := r.batches + 1
      live := r.live + 1 })
    let s := each h (fun x s => s.setRec g.ctx x .batched) s
    s.modLaunch (g.unit_ p) (fun u => { u with batches := u.batches ++ [(n, p, h, r.batches)] })

/-- Every batch of a node that can form. -/
def State.formBatches (s : State) (n p : Nat) : State :=
  each (List.range ((s.passRun n p).queue.length + 1)) (fun _ s => s.formBatch n p) s

/-- The batches of every node of a graph that can form. -/
def State.formAll (s : State) (n : Nat) : State :=
  each (List.range (s.graph n).passes.length) (fun p s => s.formBatches n p) s

/-- BATCH_TIMEOUT (R387). -/
def execBatchTimeout (n p : Nat) (s : State) : Host.Outcome State Fault Refusal := .next (s.formBatches n p)

/-! ### What a workgroup reads (R351, R337) -/

/-- An input of a workgroup: an IN edge, or a recipe source in its place. -/
structure Input where
  res : Nat
  sten : Nat
  stage : Bool
  tile : Nat
  off : Nat
  deriving DecidableEq, Repr, Inhabited

/-- The inputs of a workgroup: the IN edges of its pass, or the sources of its recipe, each at the place of
the pass's edge from the same resource (R337). -/
def Graph.inputs (g : Graph) (p : Nat) (w : Work) : List Input :=
  match w with
  | .tile => (g.ins p).map (fun e => ⟨e.res, e.sten, e.stage, e.tile, e.off⟩)
  | .recipe k => (g.recipe k).srcs.map (fun q =>
      let e := ((g.ins p).find? (fun e => e.res = q.1)).getD default
      ⟨q.1, q.2, e.stage, e.tile, e.off⟩)
  | .batch _ => []

/-- The positions of an input for tile (x, y), with the tile of the resource that each names. -/
def Graph.spotsOf (g : Graph) (i : Input) (x y : Nat) : List ((Int × Int) × Option Nat) :=
  let st := g.sten i.sten
  if 2 ≤ st.form then [] else (st.spots x y).map (fun q => (q, (g.res i.res).at_ q))

/-- `sr.clip`: the staged positions that are clipped (R352). -/
def Graph.clip (g : Graph) (l : List Input) (x y : Nat) : Word :=
  (l.filter (·.stage)).foldl (fun (m : Word) i =>
    ((g.spotsOf i x y).mapIdx (fun k q => (k, q.2))).foldl (fun (m : Word) q =>
      if q.2.isNone then m ||| BitVec.ofNat 32 (2 ^ (i.tile + q.1)) else m) m) 0

/-- `sr.clipx`: the sides on which positions of the first eight inputs are clipped (R352). -/
def Graph.clipx (g : Graph) (l : List Input) (x y : Nat) : Word :=
  ((l.take 8).mapIdx (fun e i => (e, i))).foldl (fun (m : Word) q =>
    let r := g.res q.2.res
    let ps := (g.spotsOf q.2 x y).map (·.1)
    let sides := b2n (ps.any (fun c => decide (c.1 < 0))) + 2 * b2n (ps.any (fun c => decide ((r.w : Int) ≤ c.1))) +
      4 * b2n (ps.any (fun c => decide (c.2 < 0))) + 8 * b2n (ps.any (fun c => decide ((r.h : Int) ≤ c.2)))
    m ||| BitVec.ofNat 32 (sides * 2 ^ (4 * q.1))) 0

/-- USER of a staging tile (R380). -/
def bindingUser (dir res idx pos : Nat) : Word :=
  BitVec.ofNat 32 (cat [(dir, 1), (res, 10), (idx, 14), (pos, 6), (0, 1)])

/-- A staging tile of an input is bound, and its fill from the ring starts (R351, R379). -/
def State.bindIn (s : State) (w : Nat) (i : Input) (k t : Nat) : State :=
  let q := s.wg w
  let r := (s.graph q.graph).res i.res
  let s := s.modTileN w (i.tile + k) (fun _ => { r.shape with
    state := .filling
    kind := 1
    pend := BitVec.ofNat 20 r.shape.fillB
    base := BitVec.ofNat 15 ((i.off + k * r.stride) / 16)
    user := bindingUser 0 i.res t k
    uses := 1 })
  let (f, s) := s.fresh
  s.modGraph q.graph (fun g => { g with fills := g.fills.put f ⟨w, i.tile + k, i.res, t, false, 0⟩ })

/-- The staged OUT edges of a workgroup: those of its pass, or the one of its recipe's target. -/
def Graph.outputs (g : Graph) (p : Nat) (w : Work) : List Edge :=
  match w with
  | .tile => (g.outs p).filter (·.stage)
  | .recipe k => (g.outs p).filter (fun e => e.stage && e.res == (g.recipe k).target)
  | .batch _ => []

/-- An output staging tile is bound ready (R351). -/
def State.bindOut (s : State) (w : Nat) (e : Edge) : State :=
  let q := s.wg w
  let r := (s.graph q.graph).res e.res
  s.modTileN w e.tile (fun _ => { r.shape with
    state := .ready
    kind := 1
    base := BitVec.ofNat 15 (e.off / 16)
    user := bindingUser 1 e.res q.tile 0 })

/-- STAGING_BIND (R351, R379): the staging tiles of an admitted workgroup; the output tiles stand in the leader
workgroup of team 0. -/
def State.bindStaging (s : State) (w : Nat) : State :=
  let q := s.wg w
  let g := s.graph q.graph
  let s := each ((g.inputs q.pass q.work).filter (·.stage)) (fun i s =>
    each ((g.spotsOf i q.tx q.ty).mapIdx (fun k x => (k, x.2))) (fun x s => match x.2 with
      | some t => s.bindIn w i x.1 t
      | none => s) s) s
  if q.team = 0 ∧ q.pos = 0 then each (g.outputs q.pass q.work) (fun e s => s.bindOut w e) s else s

/-! ### Teams (R89, R379) -/

/-- A workgroup as it is formed. -/
def State.newWg (s : State) (n p : Nat) (work : Work) (d : Desc) (desca : BitVec 64) : Workgroup :=
  let g := s.graph n
  { (default : Workgroup) with
    ctx := g.ctx
    graph := n
    pass := p
    work := work
    stage := .placed
    desc := d
    desca := desca
    prio := g.prio }

/-- Team `k` of tile `t`: its workgroups, the leader first (R89). -/
def State.newTeam (s : State) (n p t k : Nat) : List Nat × State :=
  let g := s.graph n
  let e := g.pass p
  let m := if e.pair then 2 else 1
  let (a, s) := s.fresh
  let (b, s) := s.fresh
  let x := t % e.w
  let y := t / e.w
  let inp := g.inputs p .tile
  let mk (pos : Nat) (mate : Option Nat) : Workgroup :=
    { s.newWg n p .tile e.desc e.desca with
      partner := mate
      wgid := BitVec.ofNat 32 ((t * e.teams + k) * m + pos)
      team := k
      paired := e.pair
      pos := pos
      tile := t
      tx := x
      ty := y
      clip := g.clip inp x y
      clipx := g.clipx inp x y }
  if e.pair then ([a, b], { s with wgs := (s.wgs.put a (mk 0 (some b))).put b (mk 1 (some a)) })
  else ([a], { s with wgs := s.wgs.put a (mk 0 none) })

/-- The workgroup of batch number `num` (R387). -/
def State.newBatch (s : State) (n p : Nat) (h : List (BitVec 32)) (num : Nat) : List Nat × State :=
  let e := (s.graph n).pass p
  let (a, s) := s.fresh
  ([a], { s with wgs := s.wgs.put a { s.newWg n p (.batch h) e.desc e.desca with wgid := BitVec.ofNat 32 num } })

/-- A workgroup's team, the leader first. -/
def State.teamOf (s : State) (w : Nat) : List Nat :=
  match s.mate w with
  | none => [w]
  | some v => if (s.wg w).pos = 0 then [w, v] else [v, w]

/-! ### Where a team can be admitted (R88, R120, R121, R376, R379, R382) -/

/-- What a workgroup would be granted on a core: at most two contexts share it, and a core that evicts for a
workgroup, or waits to resume sheaves, admits no other (R120, R121). -/
def State.admissible (s : State) (w c : Nat) : Option Grant :=
  let q := s.wg w
  let ctxs := s.ctxsOn c
  let inc := (s.core c).incoming
  if s.halted q.ctx ∨ (2 ≤ ctxs.length ∧ q.ctx ∉ ctxs) ∨ (inc.isSome ∧ inc ≠ some w) ∨
      (s.partial_ c ∧ (inc ≠ some w ∨ (s.core c).barred)) then none
  else s.grantOn c q.desc (q.slot.map (fun i => (q.graph, i)))

/-- A seat: workgroup, core, reserved slot, grant. -/
structure Seat where
  wg : Nat
  core : Nat
  slot : Option Nat
  grant : Grant
  deriving DecidableEq, Repr, Inhabited

/-- A seat on one core. -/
def State.seatAt (s : State) (w c : Nat) (slot : Option Nat) : Option Seat :=
  ((s.modWg w (fun q => { q with slot := slot })).admissible w c).map (fun r => ⟨w, c, slot, r⟩)

/-- Seats for a team on a pod: one workgroup on the first core, else on the second; two on both (R379). -/
def State.seatsOn (s : State) (ws : List Nat) (pod : Nat) : Option (List Seat) :=
  match ws with
  | [w] => ((s.seatAt w (2 * pod) none).or (s.seatAt w (2 * pod + 1) none)).map (fun x => [x])
  | [w, v] =>
    match s.seatAt w (2 * pod) none, s.seatAt v (2 * pod + 1) none with
    | some x, some y => some [x, y]
    | _, _ => none
  | _ => none

/-- A core group has had no team admitted for its graph yet. -/
def State.groupFresh (s : State) (n cg : Nat) : Bool :=
  let g := s.graph n
  (List.range g.passes.length).all (fun p => (g.pass p).cg != cg ||
    ((g.run p).tiles.all (fun x => match x.2.board with
      | .released | .held | .dispatched => true
      | _ => false) &&
     decide ((g.run p).batches ≤ ((s.launchUnit (g.unit_ p)).batches.filter (fun b => b.1 = n && b.2.1 = p)).length +
      (s.wgs.filter (fun q => q.2.graph = n && q.2.pass = p && q.2.stage = .placed)).length)))

/-- The pods of a pass's core group in the order in which a team tries them: after the pod used last; the first
team of a graph from the lowest (R379). -/
def State.podOrder (s : State) (n p : Nat) : List Nat :=
  let g := s.graph n
  let cg := (g.pass p).cg
  let l := (List.range 128).filter (fun k => (g.groups.getD cg default).pods.getLsbD k)
  match (if s.groupFresh n cg then none else (s.launchUnit (g.unit_ p)).last) with
  | none => l
  | some x => l.filter (fun k => decide (x < k)) ++ l.filter (fun k => decide (k ≤ x))

/-- The free node slot of a record node: its number and core (R384, R387). -/
def State.nodeSlot (s : State) (n p : Nat) : Option (Nat × Nat) :=
  ((s.graph n).resv.mapIdx (fun i r => (i, r))).findSome? (fun x =>
    if x.2.2.1 = 256 + p ∧ !s.slotBusy n x.1 then some (x.1, x.2.1) else none)

/-- Where a team can be admitted now: a recipe slice in its slot; a batch in its node slot, else like a tile's
team on the first pod that holds it (R339, R379, R387). -/
def State.findSeats (s : State) (ws : List Nat) : Option (List Seat) :=
  let w := ws.headD 0
  let q := s.wg w
  match q.work with
  | .recipe _ => (s.seatAt w q.core q.slot).map (fun x => [x])
  | .batch _ =>
    ((s.nodeSlot q.graph q.pass).bind (fun x => (s.seatAt w x.2 (some x.1)).map (fun y => [y]))).or
      ((s.podOrder q.graph q.pass).findSome? (s.seatsOn ws))
  | .tile => (s.podOrder q.graph q.pass).findSome? (s.seatsOn ws)

/-- The PRIO value of a context on a core: the lowest among its work there (R376). -/
def State.prioOn (s : State) (ctx c : Nat) : Nat :=
  ((s.wgsOn c).filter (fun p => p.2.ctx = ctx)).foldl (fun m p => min m p.2.prio) 16

/-- When the first of a context's resident work came to a core. -/
def State.cameTo (s : State) (ctx c : Nat) : Nat :=
  ((s.wgsOn c).filter (fun p => p.2.ctx = ctx)).foldl (fun m p => min m p.2.since) (2 ^ 64)

/-- The resident context that makes room for a workgroup: of a higher PRIO value; of two such the one with the
higher value, then the one whose work came later (R376). -/
def State.victim (s : State) (w c : Nat) : Option Nat :=
  let q := s.wg w
  ((s.ctxsOn c).filter (fun x => x ≠ q.ctx && decide (q.prio < s.prioOn x c))).foldl (fun (o : Option Nat) x => match o with
    | none => some x
    | some y => if s.prioOn y c < s.prioOn x c ∨ (s.prioOn y c = s.prioOn x c ∧ s.cameTo y c < s.cameTo x c) then some x
        else some y) none

/-- The cores that a team may take on a pod: either one for a single workgroup, both for two, the leader on the first
(R379). -/
def coresOf (ws : List Nat) (pod : Nat) : List (List (Nat × Nat)) :=
  match ws with
  | [w] => [[(w, 2 * pod)], [(w, 2 * pod + 1)]]
  | ws => [ws.mapIdx (fun i w => (w, 2 * pod + i))]

/-- The cores on which eviction makes room for a team: those where it has begun, else the first where each can admit its
workgroup or has a victim (R376). -/
def State.evictCores (s : State) (ws : List Nat) : Option (List (Nat × Nat)) :=
  let q := s.wg (ws.headD 0)
  let all := (s.podOrder q.graph q.pass).flatMap (coresOf ws)
  let begun (l : List (Nat × Nat)) : Bool := l.any (fun x => (s.core x.2).incoming == some x.1)
  let able (l : List (Nat × Nat)) : Bool := l.all (fun x => !(s.core x.2).fenced &&
    ((s.admissible x.1 x.2).isSome || ((s.core x.2).incoming.isNone && (s.victim x.1 x.2).isSome)))
  match q.work with
  | .recipe _ => none
  | _ => if s.halted q.ctx then none else (all.find? begun).or (all.find? able)

/-! ### Placement and admission (R379, R88) -/

/-- A launch unit has placed a team that is not admitted yet; slices for recipe slots do not count. -/
def State.placing (s : State) (k : Nat) : Bool :=
  s.wgs.any (fun q => q.2.stage == .placed && (s.graph q.2.graph).unit_ q.2.pass == k &&
    (match q.2.work with
      | .recipe _ => false
      | _ => true))

/-- A team is placed where it can be admitted, or where eviction can make room for it; else it waits. -/
def State.placeTeam (s : State) (ws : List Nat) : Option State :=
  match s.findSeats ws with
  | some l => some (each l (fun x s => s.modWg x.wg (fun q => { q with core := x.core })) s)
  | none => (s.evictCores ws).map (fun l => each l (fun x s => s.modWg x.1 (fun q => { q with core := x.2 })) s)

/-- The node slot of a batch waits for it: it is free, can take it now, and no batch of the node has been placed and waits
for admission (R387). -/
def State.slotWaits (s : State) (n p w : Nat) : Bool :=
  (match s.nodeSlot n p with
    | some x => (s.seatAt w x.2 (some x.1)).isSome
    | none => false) &&
  s.wgs.all (fun q => q.2.graph != n || q.2.pass != p || q.2.stage != .placed || (match q.2.work with
    | .batch _ => decide (q.1 = w)
    | _ => true))

/-- A batch that a launch unit holds is formed into a workgroup and placed, where it can be. -/
def State.placeBatch (s : State) (pods : Nat) (ok : Nat → State → Bool) (b : Nat × Nat × List (BitVec 32) × Nat) :
    Option State :=
  let (ws, s') := s.newBatch b.1 b.2.1 b.2.2.1 b.2.2.2
  if ok (ws.headD 0) s' then
    (s'.placeTeam ws).map (fun s => s.modLaunch pods (fun u => { u with batches := u.batches.erase b }))
  else none

/-- TEAM_PLACEMENT (R379, R387): the oldest batch of a node whose slot waits for it, whatever else the launch unit has
placed; then its next batch, else the next team of its first tile. -/
def execTeamPlacement (pods : Nat) (s : State) : Host.Outcome State Fault Refusal :=
  .next (
    let u := s.launchUnit pods
    let go (n : Nat) : Bool := !s.halted (s.graph n).ctx
    let batches := u.batches.filter (fun b => go b.1)
    match batches.findSome? (fun b => s.placeBatch pods (fun w s => s.slotWaits b.1 b.2.1 w) b) with
    | some s => s
    | none =>
      if s.placing pods then s
      else match batches with
        | b :: _ => (s.placeBatch pods (fun _ _ => true) b).getD s
        | [] =>
          match u.tiles.find? (fun x => go x.1) with
          | none => s
          | some x =>
            let (n, p, t) := x
            match s.tileRun n p t with
            | none => s
            | some r =>
              let (ws, s') := s.newTeam n p t r.placed
              match s'.placeTeam ws with
              | none => s
              | some s =>
                let s := s.modTile n p t (fun r => { r with
                  placed := r.placed + 1
                  wgs := r.wgs ++ ws })
                if r.placed + 1 = ((s.graph n).pass p).teams then
                  s.modLaunch pods (fun u => { u with tiles := u.tiles.erase x })
                else s)

/-- The launch block of a recipe slice in its scratch area (R337). -/
def launchBlock (param : BitVec 128) (tile x y target depth : Nat) : List Byte :=
  natBytes 16 param.toNat ++ natBytes 4 tile ++ natBytes 2 x ++ natBytes 2 y ++ natBytes 2 target ++ natBytes 1 depth ++
    List.replicate 5 0

/-- The chain that a recipe slice works for. -/
def Graph.chainOf (g : Graph) (w : Nat) : Option Chain := (g.chains.find? (fun c => c.2.launched = some w)).map (·.2)

/-- A recipe slice finds its launch block. -/
def State.putBlock (s : State) (w : Nat) : State :=
  let q := s.wg w
  let g := s.graph q.graph
  match q.work with
  | .recipe k => s.modScratch w (fun m => m.writeN (16 * q.desc.joins)
      (launchBlock (g.recipe k).param q.tile q.tx q.ty (g.recipe k).target (((g.chainOf w).map (·.depth)).getD 1)))
  | _ => s

/-- The transform bindings of a workgroup: those of its pass (R200). -/
def Graph.bindingsOf (g : Graph) (p : Nat) (w : Work) : List Nat :=
  match w with
  | .tile => (List.range (g.pass p).bcount).map (fun i => (g.pass p).bfirst + i)
  | _ => []

/-- A workgroup takes its seat: resources, staging, launch block; the core's fetch cache is invalidated
(R88, R273, R351, R337). -/
def State.enter (s : State) (x : Seat) : State :=
  let q := s.wg x.wg
  let g := s.graph q.graph
  let s := s.modWg x.wg (fun q => { q with slot := x.slot })
  let s := (s.admitWg x.wg x.core x.grant (g.bindingsOf q.pass q.work)).modCore x.core (fun k => { k with fetchFrom := s.writes })
  let s := (s.bindStaging x.wg).putBlock x.wg
  match q.work with
  | .tile => s.modTile q.graph q.pass q.tile (fun r => { r with
      board := if r.board = .dispatched then .running else r.board })
  | _ => s

/-- No core evicts for a workgroup any more. -/
def State.noIncoming (s : State) (ws : List Nat) : State :=
  { s with cores := s.cores.map (fun (p : Nat × Core) =>
      (p.1, if ws.any (fun w => p.2.incoming == some w) then { p.2 with incoming := none, barred := false } else p.2)) }

/-- A power hold lets a team be admitted on a base die: none during a hold, then one workgroup every 10 µs
(R382). -/
def State.powerAllows (s : State) (d : Nat) : Bool :=
  !s.regs.hold || (s.regs.holdLimited && decide ((s.base d).lastAdmit + 10000 ≤ s.now))

/-- SHEAF_EVICTION (R120, R376): the youngest evictable sheaf of the victim is made to leave, one at a time. -/
def State.evictFor (s : State) (w c : Nat) : State :=
  if (s.admissible w c).isSome then s
  else match s.victim w c with
    | none => s.noIncoming [w]
    | some x =>
      let mine := (s.byAge c).filter (fun sid => (s.sheaf sid).ctx = x)
      let leaving : Bool := mine.any (fun sid => (s.sheaf sid).evicting && ((s.sheaf sid).entry.isSome || (s.sheaf sid).inHandler)) ||
        (s.wgsOn c).any (fun p => p.2.ctx == x && p.2.stage == .running && s.seated p.1 == [])
      let begun : Bool := (s.core c).incoming == some w
      let s := s.modCore c (fun k => { k with incoming := some w, barred := if begun then k.barred else s.partial_ c })
      if leaving then s
      else match (mine.filter s.evictable).getLast? with
        | none => s.noIncoming [w]
        | some sid => match s.takeFrame (s.sheaf sid).wg with
          | none => s
          | some s => s.oweEvict sid

/-- WORKGROUP_ADMISSION (R88, R379, R120): a placed workgroup is admitted with its team, or sheaves of a
context of a higher PRIO value are evicted for it. -/
def execWorkgroupAdmission (w : Nat) (s : State) : Host.Outcome State Fault Refusal :=
  .next (
    let q := s.wg w
    let ws := s.teamOf w
    if (s.wgs.get w).isNone ∨ q.stage ≠ .placed then s
    else match s.findSeats ws with
      | some l =>
        let d := baseOfCore ((l.map (·.core)).headD 0)
        if !s.powerAllows d then s
        else
          let s := (each l (fun x s => s.enter x) s).noIncoming ws
          let s := if (l.map (·.slot)).headD none = none then
              s.modLaunch ((s.graph q.graph).unit_ q.pass) (fun u => { u with last := (l.head?).map (fun x => x.core / 2) })
            else s
          if s.regs.hold then s.modBase d (fun b => { b with lastAdmit := s.now + 10000 * (l.length - 1) }) else s
      | none =>
        if s.regs.hold then s
        else match s.evictCores ws with
          | none => s
          | some l => each l (fun x s => (s.modWg x.1 (fun q => { q with core := x.2 })).evictFor x.1 x.2) s)

/-! ### The start of sheaves (R90, R360, R381, R390) -/

/-- The sheaves of a workgroup start; the first access of each follows an acquire at device scope. -/
def State.startWg (s : State) (w : Nat) : State :=
  let q := s.wg w
  let s := each q.slots (fun sid s => s.modSheaf sid (fun sh => { sh with
    threads := List.replicate sh.width (Thread.start q.desc.entry sh.regs) })) s
  (s.modWg w (fun q => { q with stage := .running })).acquired q.core q.ctx (some 3)

/-- The effective stagger of a pass in core cycles (R381, R382). -/
def State.staggerOf (s : State) (e : Pass) : Nat := if s.regs.stretch then max (32 * e.stagger) 256 else 8 * e.stagger

/-- A team of the same pass that was placed before a workgroup's has not started (R367, R381). -/
def State.startsLater (s : State) (w : Nat) (ws : List Nat) : Bool :=
  let q := s.wg w
  s.wgs.any (fun p => decide (p.1 < w) && decide (p.1 ∉ ws) && p.2.graph == q.graph && p.2.pass == q.pass &&
    (match p.2.stage, p.2.work with
      | _, .recipe _ => false
      | .placed, _ | .prologue, _ | .primed, _ => true
      | _, _ => false))

/-- SHEAF_START (R90, R379, R381): a primed team starts, spaced from the last start of its pass on its base
die.  DEDUCED (log 84): the teams of a pass start in the order in which they were dispatched. -/
def execSheafStart (w : Nat) (s : State) : Host.Outcome State Fault Refusal :=
  .next (
    let q := s.wg w
    let ws := s.teamOf w
    let g := s.graph q.graph
    let d := baseOfCore q.core
    let slice : Bool := match q.work with
      | .recipe _ => true
      | _ => false
    let early : Bool := match (g.run q.pass).lastStart.get d with
      | none => false
      | some c => decide (s.time.core < c + s.staggerOf (g.pass q.pass))
    if (s.wgs.get w).isNone ∨ !ws.all (fun v => (s.wg v).stage == .primed) ∨ s.halted q.ctx ∨ (!slice ∧ (early ∨ s.startsLater w ws)) then s
    else
      let s := each ws (fun v s => s.startWg v) s
      if slice then s
      else s.modPassRun q.graph q.pass (fun r => { r with lastStart := r.lastStart.put d s.time.core }))

/-! ### The end of sheaves (R99, R186) -/

/-- SHEAF_RETIRE (R99, R186, R214): every thread has exited, every flag and tag counter is 0, the operand token is clear and
those consumed are read, and nothing that the sheaf issued is unfinished but stores that travel to their homes. -/
def execSheafRetire (sid : Nat) (s : State) : Host.Outcome State Fault Refusal :=
  .next (
    let sh := s.sheaf sid
    let gone : Bool := sh.threads != [] && sh.threads.all (fun th => th.st == .exited) && sh.drained && !sh.token && !s.tokenBusy sid &&
      s.ops.all (fun p => p.2.sid != sid || p.2.gen != sh.gen || p.2.isRead)
    if (s.sheaves.get sid).isNone ∨ !gone then s
    else
      let s := s.modWg sh.wg (fun q => { q with slots := q.slots.set sh.idx noSlot })
      let s := { s with sheaves := s.sheaves.del sid }
      s.modCore (coreOf sid) (fun k => { k with
        current := if k.current = some (slotOf sid) then none else k.current }))

end Sys2Proof.Machine
end

