-- ==== Sys2Proof/Machine/Exact.lean ====
section
/-! DEFINITION. Exact values of F32 operands as integers and fractions, and one rounding of an exact result
(R394, R397, R404, R406, R409, R413). -/

namespace Sys2Proof.Machine

/-- The exponent at which every finite F32 is a whole number. -/
def unit32 : Nat := 149

/-- A finite F32 as a multiple of 2^-149. -/
def exact32 (w : Word) : Option Int :=
  match f32.decode w.toNat with
  | .fin n m e => some (signed n (m * 2 ^ (e + unit32).toNat))
  | _ => none

/-- The fraction num / den rounded once to a format, to nearest even; zero is +0. -/
def roundRat (f : FFmt) (num : Int) (den : Nat) : Nat :=
  if num = 0 then 0
  else
    let k := 80 + Nat.log2 den
    let x := num.natAbs * 2 ^ k
    f.encode (roundFin f .rne (num < 0) (x / den) (-(k : Int)) (x % den ≠ 0)).val

/-- The fraction num / den, with a signed denominator, rounded once to F32. -/
def roundDiv (num den : Int) : Word := BitVec.ofNat 32 (roundRat f32 (if den < 0 then -num else num) den.natAbs)

/-- The integer nearest to num / den, ties to even. -/
def nearestNat (num den : Nat) : Nat :=
  let q := num / den
  let r := num % den
  if den < 2 * r ∨ (2 * r = den ∧ q % 2 = 1) then q + 1 else q

/-! ### Exact sums and products of values that may be special (R77) -/

/-- An exact value with whether an invalid operation has been met on the way. -/
abbrev Exact := FVal × Bool

/-- A sum. -/
def Exact.add (a b : Exact) : Exact :=
  let inv := a.2 || b.2
  match a.1, b.1 with
  | .nan x, y => (.nan false, inv || x || y.snan)
  | x, .nan y => (.nan false, inv || y || x.snan)
  | .inf x, .inf y => if x = y then (.inf x, inv) else (.nan false, true)
  | .inf x, .fin _ _ _ => (.inf x, inv)
  | .fin _ _ _, .inf y => (.inf y, inv)
  | .fin n1 m1 e1, .fin n2 m2 e2 =>
    let r := addFin .rne n1 m1 e1 n2 m2 e2
    (.fin r.1 r.2.1 r.2.2, inv)

/-- A product. -/
def Exact.mul (a b : Exact) : Exact :=
  match mulVal a.1 b.1 with
  | none => (.nan false, true)
  | some (.nan x) => (.nan false, a.2 || b.2 || x)
  | some v => (v, a.2 || b.2)

/-- A value with its sign changed. -/
def Exact.neg (a : Exact) : Exact := (a.1.neg, a.2)

/-- A value of an F32 operand. -/
def exactOf (v : FVal) : Exact := (v, false)

/-- The one rounding to F32, with the flags of R77. -/
def Exact.round (ftz : Bool) (a : Exact) : Word × Word :=
  let r := roundVal f32 ftz .rne a.1
  (BitVec.ofNat 32 r.1, r.2 ||| flagIf a.2 astNV)

/-- The lower or the greater of two values; a NaN gives way to the other (R143). -/
def Exact.pick (isMax : Bool) (a b : Exact) : Exact :=
  if a.1.isNan then b
  else if b.1.isNan then a
  else if (cmpVal a.1 b.1).1 == isMax then b else a

end Sys2Proof.Machine
end

