-- ==== Sys2Proof/Machine/Pixels.lean ====
section
/-! DEFINITION. Primitives, coverage streams, interpolation, derivatives, the visibility atomic and the
blender (R392 to R407, R442). -/

namespace Sys2Proof.Machine

/-! ### Engine accesses of the graphics units (R182, R188, R421) -/

/-- A graphics unit at work: the machine, the first address at which poison was met, and for whom it works. -/
structure Gfx where
  s : State
  core : Nat
  ctx : Nat
  priv : Bool
  poison : Option Nat
  /-- The word that it serves. -/
  pc : Nat

/-- The engine that a graphics unit is in its records.  DESIGN CHOICE (log 85): R432 numbers none, and ENGINE
is a free value. -/
def Gfx.engine (g : Gfx) : Engine := ⟨g.core, Config.freeNat g.s.free % 16, g.pc⟩

/-- The page of an access that waits for its replay (R188). -/
def Gfx.stuck (g : Gfx) (va n : Nat) : Option Nat :=
  if g.s.awaitsReplay g.ctx (some (va / 65536)) then some va
  else if n ≠ 0 ∧ g.s.awaitsReplay g.ctx (some ((va + n - 1) / 65536)) then some (va + n - 1)
  else none

/-- Bytes read; poisoned ones are undefined. -/
def Gfx.load (g : Gfx) (va n : Nat) : EngineTry (List Byte × Gfx) :=
  match g.stuck va n with
  | some a => .error (0, a, false)
  | none =>
    match g.s.engineLoad g.engine g.ctx va n g.priv with
    | .error e => .error e
    | .ok (bs, po, s) =>
      let bs := if po then (List.range n).map (fun i => Config.freeByte (s.free * 2 ^ 48 + va + i)) else bs
      .ok (bs, { g with
        s := { s with free := s.free + b2n po }
        poison := g.poison.or (if po then some va else none) })

/-- A number read. -/
def Gfx.num (g : Gfx) (va n : Nat) : EngineTry (Nat × Gfx) := (g.load va n).map (fun p => (leNat p.1, p.2))

/-- Bytes stored. -/
def Gfx.store (g : Gfx) (va : Nat) (bs : List Byte) : EngineTry Gfx :=
  match g.stuck va bs.length with
  | some a => .error (0, a, true)
  | none => (g.s.engineStore g.engine g.ctx va bs g.priv).map (fun s => { g with s := s })

/-- A graphics unit's access fails: recorded once where the page can be replayed, else an engine fault of the
sheaf's word (R188, R433). -/
def State.gfxFail (s : State) (sid ctx : Nat) (gen : BitVec 24) (pc : BitVec 64) (e : Nat × Nat × Bool) : State :=
  if e.1 = 0 then s.engineReplay ctx e.2.1 e.2.2 (coreOf sid)
  else if s.halted ctx ∨ !engineBad e.1 then s
  else
    let (eng, s) := s.pick 16
    s.contextFault ctx { code := 0x18, sub := e.1, pc := pc.toNat, addr := e.2.1, gen := gen.toNat, slot := slotOf sid, core := coreOf sid, engine := eng, die := baseOfCore (coreOf sid) } none

/-- The unit that serves the present word of a sheaf. -/
def Issue.unit_ (is : Issue) (s : State) (t : Nat) : Gfx :=
  ⟨s, coreOf is.sid, (s.sheaf is.sid).ctx, ((s.sheaf is.sid).thread t).priv, none, (s.wordPc is.sid).toNat⟩

/-- An access of the present word fails: the word waits. -/
def Issue.gfxWait (is : Issue) (s : State) (e : Nat × Nat × Bool) : Result :=
  let sh := s.sheaf is.sid
  let r := s.run is.sid
  .wait (s.gfxFail is.sid sh.ctx sh.gen (wordAddr r.pc (some r.k)) e)

/-- The end of a word that a unit has served: poison that it met is reported (R271). -/
def Issue.gfxDone (is : Issue) (g : Gfx) : Result :=
  let sh := g.s.sheaf is.sid
  let r := g.s.run is.sid
  .done (match g.poison with
    | some va => g.s.lateFaultAt is.sid sh.gen sh.ctx g.priv (wordAddr r.pc (some r.k)) 0x11 0 is.act va
    | none => g.s)

/-! ### Raster records (R392) -/

/-- A raster record. -/
structure RasterRec where
  primva : Nat
  primn : Nat
  binva : Nat
  bincap : Nat
  sw : Nat
  sh : Nat
  dva : Nat
  dpitch : Nat
  vis : Bool
  dfunc : Nat
  cull : Nat
  hz : Bool
  hzva : Nat
  rtva : Nat
  rtpitch : Nat
  rtHalf : Bool
  ok : Bool
  deriving DecidableEq, Repr, Inhabited

/-- A raster record from its bytes. -/
def rasterOf (bs : List Byte) : RasterRec :=
  let x := leNat bs
  { primva := bits x 464 48 * 16, primn := bits x 440 24, binva := bits x 392 48 * 16, bincap := bits x 376 16,
    sw := bits x 362 14, sh := bits x 348 14, dva := bits x 300 48 * 16, dpitch := bits x 284 16 * 16,
    vis := bit x 283, dfunc := bits x 281 2, cull := bits x 279 2, hz := bit x 278, hzva := bits x 230 48 * 16,
    rtva := bits x 182 48 * 16, rtpitch := bits x 166 16 * 16, rtHalf := bit x 165,
    ok := bit x 0 && bits x 1 164 == 0 && bits x 281 2 != 3 && bits x 279 2 != 3 }

/-- Screen tiles across. -/
def RasterRec.tx (r : RasterRec) : Nat := r.sw / 64 + 1

/-- The address of the bin of screen tile (x, y). -/
def RasterRec.bin (r : RasterRec) (x y : Nat) : Nat := r.binva + 4 * (y * r.tx + x) * (r.bincap + 1)

/-- The address of a pixel's depth: its word, or the high half of its visibility word. -/
def RasterRec.depthAt (r : RasterRec) (x y : Nat) : Nat :=
  r.dva + y * r.dpitch + (if r.vis then 8 * x + 4 else 4 * x)

/-- The address of the hierarchical depth of a block. -/
def RasterRec.hzAt (r : RasterRec) (bx by_ : Nat) : Nat := r.hzva + 4 * (by_ * (r.sw / 8 + 1) + bx)

/-- The address of a pixel of the render target. -/
def RasterRec.pixelAt (r : RasterRec) (x y : Nat) : Nat := r.rtva + y * r.rtpitch + (if r.rtHalf then 8 else 4) * x

/-! ### `emitp` (R394, R395) -/

/-- What a lane of `emitp` works on: the vertices' words x, y, z, q, the identifier, the record. -/
structure Emit where
  thread : Nat
  verts : List Word
  id : Nat
  rec_ : RasterRec
  /-- Some operand carries consume taint (R39). -/
  taint : Bool
  deriving DecidableEq, Repr, Inhabited

/-- Component `c` of vertex `i`. -/
def Emit.w (e : Emit) (i c : Nat) : Word := e.verts.getD (4 * i + c) 0

/-- Component `c` of vertex `i` as a multiple of 2^-149, 0 where it is not finite. -/
def Emit.v (e : Emit) (i c : Nat) : Int := (exact32 (e.w i c)).getD 0

/-- Twice the signed area, as a multiple of 2^-298. -/
def Emit.area (e : Emit) : Int :=
  (e.v 1 0 - e.v 0 0) * (e.v 2 1 - e.v 0 1) - (e.v 2 0 - e.v 0 0) * (e.v 1 1 - e.v 0 1)

/-- Least and greatest of component `c` over the vertices. -/
def Emit.span (e : Emit) (c : Nat) : Int × Int :=
  (min (e.v 0 c) (min (e.v 1 c) (e.v 2 c)), max (e.v 0 c) (max (e.v 1 c) (e.v 2 c)))

/-- One pixel, as a multiple of 2^-149. -/
def onePx : Int := 2 ^ unit32

/-- The primitive is culled (R394). -/
def Emit.culled (e : Emit) : Bool :=
  let d := e.area
  e.verts.any (fun w => (exact32 w).isNone) || (List.range 3).any (fun i => decide (e.v i 3 ≤ 0)) || d == 0 ||
    (e.rec_.cull == 1 && decide (d < 0)) || (e.rec_.cull == 2 && decide (0 < d)) ||
    decide ((e.span 0).2 < 0) || decide ((e.rec_.sw + 1) * onePx ≤ (e.span 0).1) ||
    decide ((e.span 1).2 < 0) || decide ((e.rec_.sh + 1) * onePx ≤ (e.span 1).1)

/-- A coefficient of vertex `i`: 0 for A, 1 for B, 2 for C. -/
def Emit.coef (e : Emit) (i c : Nat) : Word :=
  let j := (i + 1) % 3
  let k := (i + 2) % 3
  match c with
  | 0 => roundDiv ((e.v j 1 - e.v k 1) * onePx) e.area
  | 1 => roundDiv ((e.v k 0 - e.v j 0) * onePx) e.area
  | _ => roundDiv (e.v j 0 * e.v k 1 - e.v k 0 * e.v j 1) e.area

/-- The primitive record (R395). -/
def Emit.bytes (e : Emit) : List Byte :=
  wordsBytes ((List.range 9).map (fun n => e.coef (n / 3) (n % 3)) ++ [e.w 0 2, e.w 1 2, e.w 2 2] ++
    [e.w 0 3, e.w 1 3, e.w 2 3] ++ [BitVec.ofNat 32 e.id])

/-- The screen tiles that a span of pixels overlaps, clamped to the screen. -/
def tileSpan (lo hi : Int) (last : Nat) : Nat × Nat :=
  ((max lo 0 / onePx).toNat / 64, (min (hi / onePx) last).toNat / 64)

/-- The screen tiles of a primitive in ascending bin index. -/
def Emit.tiles (e : Emit) : List (Nat × Nat) :=
  let x := tileSpan (e.span 0).1 (e.span 0).2 e.rec_.sw
  let y := tileSpan (e.span 1).1 (e.span 1).2 e.rec_.sh
  (List.range (y.2 + 1 - y.1)).flatMap (fun j => (List.range (x.2 + 1 - x.1)).map (fun i => (x.1 + i, y.1 + j)))

/-- An append to a bin: none where it is full. -/
def appendBin (g : Gfx) (r : RasterRec) (id : Nat) (t : Nat × Nat) : EngineTry (Option Gfx) :=
  let a := r.bin t.1 t.2
  (g.num a 4).bind (fun p =>
    if r.bincap ≤ p.1 then .ok none
    else (p.2.store a (natBytes 4 (p.1 + 1))).bind (fun g =>
      (g.store (a + 4 * (p.1 + 1)) (natBytes 4 id)).map some))

/-- The appends of a lane: the unit and the number appended, with whether a full bin ended them. -/
def appendBins (r : RasterRec) (id : Nat) : List (Nat × Nat) → Nat → Gfx → EngineTry (Gfx × Nat × Bool)
  | [], n, g => .ok (g, n, false)
  | t :: l, n, g =>
    (appendBin g r id t).bind (fun o => match o with
      | none => .ok (g, n, true)
      | some g => appendBins r id l (n + 1) g)

/-- The lanes of `emitp` in turn: the numbers they receive, and the lane that found a bin full. -/
def emitLanes : List Emit → Gfx → EngineTry (Gfx × List LaneOut × Option Nat)
  | [], g => .ok (g, [], none)
  | e :: l, g =>
    if e.culled then (emitLanes l g).map (fun p => (p.1, ⟨e.thread, [(0, e.taint)], 0⟩ :: p.2.1, p.2.2))
    else
      (g.store (e.rec_.primva + 64 * e.id) e.bytes).bind (fun g =>
        (appendBins e.rec_ e.id e.tiles 0 g).bind (fun q =>
          if q.2.2 then .ok (q.1, [], some e.thread)
          else (emitLanes l q.1).map (fun p =>
            (p.1, ⟨e.thread, [(BitVec.ofNat 32 q.2.1, e.taint)], 0⟩ :: p.2.1, p.2.2))))

/-- The lowest faulting lane's sub-code with every faulting lane. -/
def Issue.faultLanes (is : Issue) (code : Nat) (l : List (Nat × Nat × Nat)) (s : State) : Option Result :=
  match l with
  | [] => none
  | p :: _ => some (is.fault code p.2.1 (l.map (·.1)) p.2.2 s)

/-- The graphics fault that a lane of `emitp` meets before it emits (R393, R394). -/
def Emit.bad (e : Emit) : Option Nat :=
  if !e.rec_.ok then some 3 else if !e.culled ∧ e.rec_.primn ≤ e.id then some 2 else none

/-- `emitp` (R394): the issue group is held until every write is performed. -/
def execEmitp (f : Fields) : State → Host.Outcome State Fault Refusal :=
  issued (.emitp f) fun is s₀ =>
    let sh := s₀.sheaf is.sid
    let w := sh.wg
    let rd (v : BitVec 8) (t : Nat) : Word := sh.read f.imm t v
    let bad := is.act.filterMap (fun t => match s₀.scratchFaultAl w (rd f.a t) 48 16, s₀.localAt w (rd f.c t) 16 64 with
      | some x, some y => some (if y < x then (t, y, (rd f.c t).toNat) else (t, x, (rd f.a t).toNat))
      | some x, none => some (t, x, (rd f.a t).toNat)
      | none, some y => some (t, y, (rd f.c t).toNat)
      | none, none => none)
    match is.faultLanes 3 bad s₀ with
    | some r => r
    | none =>
      let taint (t : Nat) : Bool := [f.a, f.b, f.c].any (sh.taintOf t)
      if is.barred s₀ taint then .wait s₀
      else is.inScratch false s₀ fun s =>
        let lanes := is.act.map (fun t => (⟨t, bytesWords 12 (s.spRead w (rd f.a t) 0 48), (rd f.b t).toNat,
          rasterOf (s.spRead w (rd f.c t) 0 64), taint t⟩ : Emit))
        match is.faultLanes 9 (lanes.filterMap (fun e => e.bad.map (fun k => (e.thread, k, 0)))) s with
        | some r => r
        | none =>
          match emitLanes lanes (is.unit_ s is.lead) with
          | .error e => is.gfxWait s e
          | .ok (g, outs, none) => is.gfxDone { g with s := g.s.writeLanes is.sid f.d 1 outs }
          | .ok (g, _, some t) => is.fault 9 1 [t] 0 g.s

/-! ### Primitives and coverage (R395 to R397) -/

/-- A primitive as the unit reads it: nine coefficients, three depths, three q. -/
structure Prim where
  c : List Word
  z : List Word
  q : List Word
  deriving DecidableEq, Repr, Inhabited

/-- A primitive record from its bytes (R395). -/
def primOf (bs : List Byte) : Prim :=
  let w := bytesWords 16 bs
  ⟨w.take 9, (w.drop 9).take 3, (w.drop 12).take 3⟩

/-- An F32 word as an exact value. -/
def exactW (w : Word) : Exact := exactOf (f32.decode w.toNat)

/-- The sum of products of words and values. -/
def dotEx (l : List (Word × Exact)) : Exact :=
  match l with
  | [] => exactOf (.fin false 0 0)
  | p :: l => l.foldl (fun acc q => Exact.add acc (Exact.mul (exactW q.1) q.2)) (Exact.mul (exactW p.1) p.2)

/-- The centre of a pixel along one axis. -/
def centre (x : Nat) : Exact := exactOf (.fin false (2 * x + 1) (-1))

/-- The screen barycentric of vertex `i` at a pixel (R395). -/
def Prim.lambda (p : Prim) (i x y : Nat) : Word :=
  (Exact.round false (dotEx [(p.c.getD (3 * i) 0, centre x), (p.c.getD (3 * i + 1) 0, centre y),
    (p.c.getD (3 * i + 2) 0, exactOf (.fin false 1 0))])).1

/-- A value above zero. -/
def positive (w : Word) : Bool :=
  match f32.decode w.toNat with
  | .fin n m _ => !n && m != 0
  | .inf n => !n
  | .nan _ => false

/-- A value that is zero. -/
def isZero (w : Word) : Bool :=
  match f32.decode w.toNat with
  | .fin _ m _ => m == 0
  | _ => false

/-- A barycentric counts as inside: above zero, or zero on an edge whose A is above zero, or zero with B above
zero (R397). -/
def Prim.inside (p : Prim) (i x y : Nat) : Bool :=
  let l := p.lambda i x y
  let a := p.c.getD (3 * i) 0
  positive l || (isZero l && (positive a || (isZero a && positive (p.c.getD (3 * i + 1) 0))))

/-- A pixel is covered (R397). -/
def Prim.covers (p : Prim) (r : RasterRec) (x y : Nat) : Bool :=
  decide (x ≤ r.sw) && decide (y ≤ r.sh) && (List.range 3).all (fun i => p.inside i x y)

/-- The depth at a pixel (R397). -/
def Prim.depth (p : Prim) (x y : Nat) : Word :=
  (Exact.round false (dotEx ((List.range 3).map (fun i => (p.z.getD i 0, exactW (p.lambda i x y)))))).1

/-- An exact quotient rounded to F32; 0 where the divisor is 0 (R397). -/
def quotient (a b : FVal) : Word :=
  match a, b with
  | .fin n1 m1 e1, .fin n2 m2 e2 =>
    let e := min e1 e2
    if m2 = 0 then 0
    else roundDiv (signed n1 (m1 * 2 ^ (e1 - e).toNat)) (signed n2 (m2 * 2 ^ (e2 - e).toNat))
  | a, b => BitVec.ofNat 32 (divVal f32 false .rne a b).1

/-- The perspective barycentric of vertex `i` (R397). -/
def Prim.persp (p : Prim) (i x y : Nat) : Word :=
  let s := dotEx ((List.range 3).map (fun k => (p.q.getD k 0, exactW (p.lambda k x y))))
  quotient (Exact.mul (exactW (p.q.getD i 0)) (exactW (p.lambda i x y))).1 s.1

/-- The least depth of a primitive's vertices. -/
def Prim.zmin (p : Prim) : Exact :=
  Exact.pick false (Exact.pick false (exactW (p.z.getD 0 0)) (exactW (p.z.getD 1 0))) (exactW (p.z.getD 2 0))

/-! ### The coverage stream (R396, R398) -/

/-- What a tile's stream is walked with. -/
structure Walk where
  r : RasterRec
  /-- Early mode. -/
  early : Bool
  x : Nat
  y : Nat
  prims : List (BitVec 32)
  deriving DecidableEq, Repr, Inhabited

/-- The stream has the depth test and its writes. -/
def Walk.tests (w : Walk) : Bool := w.early && !w.r.vis

/-- The position of a stream as one number. -/
def Stream.pos (st : Stream) : Nat := (st.prim * 64 + st.block) * 16 + st.quad

/-- A stream at a position. -/
def Stream.seek (st : Stream) (n : Nat) : Stream := { st with
  prim := n / 1024
  block := n / 16 % 64
  quad := n % 16 }

/-- The block of a position, in blocks of the screen. -/
def Walk.blockAt (w : Walk) (n : Nat) : Nat × Nat := (8 * w.x + n / 16 % 64 % 8, 8 * w.y + n / 16 % 64 / 8)

/-- The top-left pixel of the quad at a position. -/
def Walk.quadAt (w : Walk) (n : Nat) : Nat × Nat :=
  let b := w.blockAt n
  (8 * b.1 + 2 * (n % 16 % 4), 8 * b.2 + 2 * (n % 16 / 4))

/-- Pixel `i` of the quad whose top-left pixel is `q` (R399). -/
def pixelOf (q : Nat × Nat) (i : Nat) : Nat × Nat := (q.1 + i % 2, q.2 + i / 2)

/-- The on-screen pixels of a block. -/
def RasterRec.pixels (r : RasterRec) (b : Nat × Nat) : List (Nat × Nat) :=
  ((List.range 64).map (fun i => (8 * b.1 + i % 8, 8 * b.2 + i / 8))).filter (fun p =>
    decide (p.1 ≤ r.sw) && decide (p.2 ≤ r.sh))

/-- The greatest stored depth over pixels. -/
def greatest (r : RasterRec) : List (Nat × Nat) → Option Nat → Gfx → EngineTry (Option Nat × Gfx)
  | [], o, g => .ok (o, g)
  | p :: l, o, g =>
    (g.num (r.depthAt p.1 p.2) 4).bind (fun d =>
      let keep : Bool := match o with
        | none => false
        | some m => (f32.decode d.1).isNan || (!(f32.decode m).isNan && !(cmpVal (f32.decode m) (f32.decode d.1)).1)
      greatest r l (some (if keep then o.getD 0 else d.1)) d.2)

/-- The hierarchical depth of a block becomes the greatest stored depth of its on-screen pixels (R398). -/
def updateHz (r : RasterRec) (b : Nat × Nat) (g : Gfx) : EngineTry Gfx :=
  (greatest r (r.pixels b) none g).bind (fun p => match p.1 with
    | none => .ok p.2
    | some d => p.2.store (r.hzAt b.1 b.2) (natBytes 4 d))

/-- The primitive skips the block (R398). -/
def Walk.rejects (w : Walk) (p : Prim) (b : Nat × Nat) (g : Gfx) : EngineTry (Bool × Gfx) :=
  if !w.r.hz ∨ w.r.dfunc = 2 ∨ w.r.sw / 8 < b.1 ∨ w.r.sh / 8 < b.2 then .ok (false, g)
  else
    (g.num (w.r.hzAt b.1 b.2) 4).map (fun h =>
      let z := p.zmin.1
      let hz := f32.decode h.1
      let lt := (cmpVal hz z).1
      (!z.isNan && !hz.isNan && (lt || (w.r.dfunc == 0 && (cmpVal hz z).2)), h.2))

/-- A pixel passes: covered, and not failing the depth test of early mode (R397, R398). -/
def Walk.passes (w : Walk) (p : Prim) (x y : Nat) (g : Gfx) : EngineTry (Bool × Gfx) :=
  if !p.covers w.r x y then .ok (false, g)
  else if !w.tests ∨ w.r.dfunc = 2 then .ok (true, g)
  else
    (g.num (w.r.depthAt x y) 4).map (fun d =>
      let c := cmpVal (f32.decode (p.depth x y).toNat) (f32.decode d.1)
      let nan := (f32.decode (p.depth x y).toNat).isNan || (f32.decode d.1).isNan
      (!nan && (c.1 || (w.r.dfunc == 1 && c.2)), d.2))

/-- The covered pixels of a quad. -/
def Walk.quadPass (w : Walk) (p : Prim) (q : Nat × Nat) : List Nat → Gfx → EngineTry (List Bool × Gfx)
  | [], g => .ok ([], g)
  | i :: l, g =>
    (w.passes p (pixelOf q i).1 (pixelOf q i).2 g).bind (fun b =>
      (w.quadPass p q l b.2).map (fun r => (b.1 :: r.1, r.2)))

/-- The next deliverable quad at or after a position: the position, the primitive, and the covered pixels;
none at the stream's end.  Blocks left behind have their hierarchical depth updated (R396, R398). -/
def Walk.next (w : Walk) : Nat → Nat → Gfx → EngineTry (Option (Nat × Prim × List Bool) × Gfx)
  | 0, _, g => .ok (none, g)
  | fuel + 1, n, g =>
    match w.prims[n / 1024]? with
    | none => .ok (none, g)
    | some id =>
      (g.load (w.r.primva + 64 * id.toNat) 64).bind (fun b =>
        let p := primOf b.1
        (if n % 16 = 0 then w.rejects p (w.blockAt n) b.2 else .ok (false, b.2)).bind (fun rj =>
          if rj.1 then w.next fuel (n + 16) rj.2
          else (w.quadPass p (w.quadAt n) [0, 1, 2, 3] rj.2).bind (fun c =>
            if c.1.any id_ then .ok (some (n, p, c.1), c.2)
            else
              (if n % 16 = 15 ∧ w.tests ∧ w.r.hz then updateHz w.r (w.blockAt n) c.2 else .ok c.2).bind (fun g =>
                w.next fuel (n + 1) g))))
where
  /-- The truth value itself. -/
  id_ (b : Bool) : Bool := b

/-- A quad leaves the stream: its depths are written, and the block it ends is updated (R398). -/
def Walk.commit (w : Walk) (n : Nat) (p : Prim) (c : List Bool) (g : Gfx) : EngineTry Gfx :=
  let q := w.quadAt n
  let put (acc : EngineTry Gfx) (i : Nat) : EngineTry Gfx :=
    if c.getD i false then
      acc.bind (fun g => g.store (w.r.depthAt (pixelOf q i).1 (pixelOf q i).2)
        (natBytes 4 (p.depth (pixelOf q i).1 (pixelOf q i).2).toNat))
    else acc
  if !w.tests then .ok g
  else ([0, 1, 2, 3].foldl put (.ok g)).bind (fun g =>
    if n % 16 = 15 ∧ w.r.hz then updateHz w.r (w.blockAt n) g else .ok g)

/-- Steps that reach the end of a stream. -/
def Walk.fuel (w : Walk) : Nat := w.prims.length * 1024 + 1

/-! ### `cov` (R399, R400, R407, R442) -/

/-- A delivered quad: delivery number, primitive identifier, primitive, top-left pixel, covered pixels. -/
structure Quad where
  number : Nat
  id : BitVec 32
  prim : Prim
  at_ : Nat × Nat
  cover : List Bool
  deriving DecidableEq, Repr, Inhabited

/-- A batch under way: the unit, the stream, the queues, the quads taken. -/
structure Batch where
  g : Gfx
  st : Stream
  blend : Tab (List Token)
  quads : List Quad

/-- The next quad of a batch: none where the stream has ended, or where the quad's queue holds seven tokens
(R442). -/
def Batch.take (b : Batch) (w : Walk) : EngineTry (Batch × Bool) :=
  (w.next w.fuel b.st.pos b.g).bind (fun r => match r.1 with
    | none => .ok (({ b with
        g := r.2
        st := b.st.seek (w.prims.length * 1024) }), false)
    | some (n, p, c) =>
      let q := w.quadAt n
      let key := quadOf q.1 q.2
      let queue := (b.blend.get key).getD []
      if 7 ≤ queue.length then .ok (({ b with
        g := r.2
        st := b.st.seek n }), false)
      else
        (w.commit n p c r.2).map (fun g =>
          let num := b.st.delivered
          let st := { b.st.seek (n + 1) with delivered := num + 1 }
          (⟨g, st, b.blend.put key (queue ++ [⟨num, 0xF⟩]), b.quads ++ [⟨num, w.prims.getD (n / 1024) 0, p, q, c⟩]⟩, true)))

/-- Quads for `n` segments. -/
def Batch.fill (w : Walk) : Nat → Batch → EngineTry Batch
  | 0, b => .ok b
  | n + 1, b => (b.take w).bind (fun r => if r.2 then Batch.fill w n r.1 else .ok r.1)

/-- The position moves on to the next deliverable quad; whether the stream has ended. -/
def Batch.ahead (b : Batch) (w : Walk) : EngineTry (Batch × Bool) :=
  (w.next w.fuel b.st.pos b.g).map (fun r => match r.1 with
    | none => ({ b with
        g := r.2
        st := b.st.seek (w.prims.length * 1024) }, true)
    | some (n, _, _) => ({ b with
        g := r.2
        st := b.st.seek n }, false))

/-- The words of the bin of a screen tile, ascending. -/
def sortIds (l : List (BitVec 32)) : List (BitVec 32) :=
  let put (x : BitVec 32) : List (BitVec 32) → List (BitVec 32) :=
    let rec go : List (BitVec 32) → List (BitVec 32)
      | [] => [x]
      | y :: r => if x ≤ y then x :: y :: r else y :: go r
    go
  l.foldr put []

/-- The stream of a tile as its first `cov` opens it (R396). -/
def openStream (bytes : List Byte) (x y : Nat) (g : Gfx) : EngineTry (Stream × Gfx) :=
  let r := rasterOf bytes
  if r.sw < 64 * x ∨ r.sh < 64 * y then .ok (⟨bytes, [], 0, 0, 0, 0⟩, g)
  else
    (g.num (r.bin x y) 4).bind (fun c =>
      let n := min c.1 r.bincap
      (c.2.load (r.bin x y + 4) (4 * n)).map (fun b => (⟨bytes, sortIds (bytesWords n b.1), 0, 0, 0, 0⟩, b.2)))

/-- The segments of four threads that are all live and active (R399). -/
def Issue.quads (is : Issue) (sh : Sheaf) : List Nat :=
  (List.range (sh.width / 4)).filter (fun m => (List.range 4).all (fun i => decide (4 * m + i ∈ is.act) && !sh.exited (4 * m + i)))

/-- The status word of a thread (R399). -/
def covStatus (valid helper done : Bool) (x y : Nat) : Word :=
  BitVec.ofNat 32 (cat [(b2n valid, 1), (b2n helper, 1), (b2n done, 1), (0, 1), (y, 14), (x, 14)])

/-- The raster state of a thread that receives a pixel (R400). -/
def Quad.raster (q : Quad) (i : Nat) : Raster :=
  let p := pixelOf q.at_ i
  ⟨p.1, p.2, q.prim.lambda 1 p.1 p.2, q.prim.lambda 2 p.1 p.2, q.prim.persp 1 p.1 p.2, q.prim.persp 2 p.1 p.2,
    !(q.cover.getD i false), some q.number⟩

/-- What the threads of a `cov` receive: the quads in the segments, and the status words, tainted as A of the lowest active
thread is (R39, R399). -/
def State.covWrite (s : State) (is : Issue) (f : Fields) (segs : List (Nat × Quad)) (done : Bool) : State :=
  let sh := s.sheaf is.sid
  let taint := sh.taintOf is.lead f.a
  let quad (t : Nat) : Option Quad := (segs.find? (fun p => p.1 = t / 4)).map (·.2)
  let out (t : Nat) : LaneOut := match quad t with
    | some q =>
      let p := pixelOf q.at_ (t % 4)
      ⟨t, [(covStatus true (!(q.cover.getD (t % 4) false)) done p.1 p.2, taint), (q.id, taint)], 0⟩
    | none => ⟨t, [(covStatus false false done 0 0, taint), (0, taint)], 0⟩
  let s := s.writeLanes is.sid f.d 2 (is.act.map out)
  s.modSheaf is.sid (fun sh' => each is.act (fun t sh' => sh'.modThread t (fun th => { th with
    raster := (quad t).map (fun q => q.raster (t % 4))
    bare := false
    xmask := (is.seg sh sh.width t).mask })) sh')

/-- `cov` of a tile's workgroup (R396 to R399): the next batch of the tile's stream; where no quad can be taken
because its queue is full, the word waits. -/
def covTile (is : Issue) (f : Fields) (bytes : List Byte) (tr : TileRun) (s : State) : Result :=
  let sh := s.sheaf is.sid
  let q := s.wg sh.wg
  let opened : EngineTry (Stream × Gfx) := match tr.stream with
    | some st => .ok (st, is.unit_ s is.lead)
    | none => openStream bytes q.tx q.ty (is.unit_ s is.lead)
  let go : EngineTry (Batch × Bool × Bool) :=
    opened.bind (fun o =>
        let w : Walk := ⟨rasterOf o.1.record, !q.desc.discard && !q.desc.depthout, q.tx, q.ty, o.1.prims⟩
        (Batch.fill w (is.quads sh).length ⟨o.2, o.1, tr.blend, []⟩).bind (fun b =>
          (b.ahead w).map (fun e => (e.1, e.2, b.quads.isEmpty && !e.2 && !(is.quads sh).isEmpty))))
  match go with
  | .error e => is.gfxWait s e
  | .ok (_, _, true) => .wait s
  | .ok (b, done, false) =>
    let s := b.g.s.modTile q.graph q.pass q.tile (fun tr => { tr with
      stream := some b.st
      blend := b.blend })
    is.gfxDone { b.g with s := s.covWrite is f (List.zip (is.quads sh) b.quads) done }

/-- `cov` (R399): it first gives back the token shares of its threads (R407); a workgroup that is not of a tile
has an empty stream. -/
def execCov (f : Fields) : State → Host.Outcome State Fault Refusal :=
  issued (.cov f) fun is s₀ =>
    if is.act = [] then .done s₀
    else
      let sh := s₀.sheaf is.sid
      let a := sh.read f.imm is.lead f.a
      match s₀.localAt sh.wg a 16 64 with
      | some k => is.fault 3 k [is.lead] a.toNat s₀
      | none => if is.barred s₀ (fun t => t == is.lead && sh.taintOf t f.a) then .wait s₀ else is.inScratch false s₀ fun s =>
        let bytes := s.spRead sh.wg a 0 64
        if !(rasterOf bytes).ok then is.fault 9 3 [is.lead] 0 s
        else
          let s := each is.act (fun t s => s.releaseToken is.sid t) s
          let q := s.wg sh.wg
          match q.work, s.tileRun q.graph q.pass q.tile with
          | .tile, some tr => covTile is f bytes tr s
          | _, _ => .done (s.covWrite is f [] true)

/-- The hierarchical update of late mode: every block of the screen tile (R398). -/
def lateHz (st : Stream) (x y : Nat) (g : Gfx) : EngineTry Gfx :=
  let r := rasterOf st.record
  if !r.hz then .ok g
  else (List.range 64).foldl (fun acc i => acc.bind (fun g => updateHz r (8 * x + i % 8, 8 * y + i / 8) g)) (.ok g)

/-! ### `discard`, `ddx`, `ddy`, `interp` (R402 to R404) -/

/-- `discard` (R402). -/
def execDiscard (f : Fields) : State → Host.Outcome State Fault Refusal :=
  issued (.discard f) fun is s =>
    if !(s.wg (s.sheaf is.sid).wg).desc.discard then is.illegal s
    else .done (s.modSheaf is.sid (fun sh => each is.act (fun t sh => sh.modThread t (fun th => { th with
      raster := th.raster.map (fun r => { r with helper := true })
      bare := th.bare || th.raster.isNone })) sh))

/-- A difference across a quad: position `i` receives the value of position `hi i` less that of `lo i`
(R403). -/
def quadDiff (f : Fields) (lo hi : Nat → Nat) (is : Issue) (s : State) : Result :=
  let sh := s.sheaf is.sid
  let z := s.ftz is.sid
  let val (t i : Nat) : Word × Bool :=
    let u := t - t % 4 + i
    if sh.exited u then (0, false) else (sh.read f.imm u f.a, sh.taintOf u f.a)
  let out (t : Nat) : LaneOut :=
    let a := val t (hi (t % 4))
    let b := val t (lo (t % 4))
    let r := fsubVal z .rne false a.1 b.1
    ⟨t, [(r.1, a.2 || b.2)], r.2⟩
  let s' := s.writeLanes is.sid f.d 1 (is.act.map out)
  .done (s'.modSheaf is.sid (fun sh' => each is.act
    (fun t sh' => sh'.modThread t (fun th => { th with xmask := (is.seg sh 4 t).mask })) sh'))

/-- `ddx` (R403). -/
def execDdx (f : Fields) : State → Host.Outcome State Fault Refusal :=
  issued (.ddx f) (quadDiff f (fun i => i / 2 * 2) (fun i => i / 2 * 2 + 1))

/-- `ddy` (R403). -/
def execDdy (f : Fields) : State → Host.Outcome State Fault Refusal :=
  issued (.ddy f) (quadDiff f (fun i => i % 2) (fun i => i % 2 + 2))

/-- The weights of a thread: perspective, or screen with `.lin`; 0 without raster state (R404). -/
def Thread.weights (th : Thread) (lin : Bool) : Word × Word :=
  match th.raster with
  | none => (0, 0)
  | some r => if lin then (r.l1, r.l2) else (r.b1, r.b2)

/-- `A + w1 (B - A) + w2 (C - A)`, exact, with one rounding (R404). -/
def interpVal (ftz : Bool) (w1 w2 a b c : Word) : Word × Word :=
  let x := exactOf (srcF32 ftz a)
  let d (v : Word) : Exact := Exact.add (exactOf (srcF32 ftz v)) (Exact.neg x)
  Exact.round ftz (Exact.add (Exact.add x (Exact.mul (exactW w1) (d b))) (Exact.mul (exactW w2) (d c)))

/-- `interp` (R404). -/
def execInterp (f : Fields) : State → Host.Outcome State Fault Refusal :=
  issued (.interp f) fun is s =>
    let z := s.ftz is.sid
    laneOp f.d 1 (fun sh t =>
      let w := (sh.thread t).weights (f.mod 0 1 == 1)
      let srcs := [f.a, f.b, f.c]
      let r := interpVal z w.1 w.2 (sh.read f.imm t f.a) (sh.read f.imm t f.b) (sh.read f.imm t f.c)
      ⟨t, [(r.1, srcs.any (sh.taintOf t))], r.2⟩) is s

/-! ### `vism` (R405) -/

/-- `vism` (R405): a 64-bit unsigned minimum of the value that B and C make. -/
def execVism (f : Fields) : State → Host.Outcome State Fault Refusal :=
  issued (.vism f) (globalOp (.vism f) f f.e .atomic false [f.c, f.b] (regRun f.d 2) false)

/-! ### `blend` (R406, R407) -/

/-- Helpers give their token shares back at their `blend` (R407). -/
def State.suppress (s : State) (is : Issue) (i : Instr) : State :=
  let sh := s.sheaf is.sid
  each ((guarded i sh is.group).filter (fun t => (sh.thread t).helper)) (fun t s => s.releaseToken is.sid t) s

/-- A lane of a `blend`: its pixel, and one more than its token's number. -/
def Sheaf.blendLane (sh : Sheaf) (f : Fields) (act : List Nat) (t : Nat) : Option Lane :=
  (sh.thread t).raster.map (fun r => { sh.lane f.imm act (dataFields f.a 4) [] t with
    pa := BitVec.ofNat 64 (r.y * 2 ^ 14 + r.x)
    entry := match r.token with
      | some n => n + 1
      | none => 0 })

/-- `blend` (R406): long-latency; threads without raster state write nothing. -/
def execBlend (f : Fields) : State → Host.Outcome State Fault Refusal :=
  issued (.blend f) fun is s =>
    let s := s.suppress is (.blend f)
    let sh := s.sheaf is.sid
    .done (s.launch is (.blend f) (is.act.filterMap (sh.blendLane f is.act)))

/-- The exact result of one channel: source, source alpha, stored value, all scaled by `k` but the alpha
(R406). -/
def blendExact (op : Nat) (one s sa d : Exact) : Exact :=
  match op with
  | 0 => s
  | 1 => Exact.add (Exact.mul s sa) (Exact.mul d (Exact.add one (Exact.neg sa)))
  | 2 => Exact.add s d
  | 3 => Exact.pick false s d
  | _ => Exact.pick true s d

/-- A whole number as an exact value. -/
def exactNat (n : Nat) : Exact := exactOf (.fin false n 0)

/-- A channel of RGBA8 from a result that is scaled by 255. -/
def unorm8 (v : FVal) : Byte :=
  match v with
  | .nan _ => 0
  | .inf n => if n then 0 else 255
  | .fin n m e => if n then 0 else BitVec.ofNat 8 (min 255 (roundInt .rne false m e).1.toNat)

/-- A channel blended: the stored bytes (R406). -/
def blendChannel (half : Bool) (op : Nat) (s sa : Word) (old : List Byte) : List Byte :=
  let one := exactNat 1
  if half then
    let d := exactOf (f16.decode (leNat old))
    natBytes 2 (roundVal f16 false .rne (blendExact op one (exactW s) (exactW sa) d).1).1
  else [unorm8 (blendExact op one (Exact.mul (exactW s) (exactNat 255)) (exactW sa) (exactNat (leNat old))).1]

/-- A pixel blended: the bytes stored (R406). -/
def blendPixel (half : Bool) (op : Nat) (src : List Word) (old : List Byte) : List Byte :=
  let n := if half then 2 else 1
  (List.range 4).flatMap (fun c => blendChannel half op (src.getD c 0) (src.getD 3 0) ((old.drop (n * c)).take n))

/-- The operation of a `blend`. -/
def blendOp : Instr → Option Nat
  | .blend f => some (f.mod 0 3)
  | _ => none

/-- A lane's `blend` may be performed: earlier tokens of its pixel quad are released, lanes of earlier tokens in
the instruction are done, and the thread's earlier blends are done (R407). -/
def State.mayBlend (s : State) (o : Nat) (op : LongOp) (l : Lane) (tr : TileRun) : Bool :=
  let x := bits l.pa.toNat 0 14
  let y := bits l.pa.toNat 14 14
  let queue := (tr.blend.get (quadOf x y)).getD []
  op.lanes.all (fun k => k.done || decide (l.entry ≤ k.entry)) &&
    s.ops.all (fun p => decide (o ≤ p.1) || p.2.sid != op.sid || p.2.gen != op.gen || (blendOp p.2.instr).isNone ||
      p.2.lanes.all (fun k => k.done || k.thread != l.thread)) &&
    (l.entry == 0 || queue.all (fun k => decide (l.entry ≤ k.number + 1)))

/-- A lane's pixel is written: or what stops it. -/
def State.blendLane (s : State) (op : LongOp) (l : Lane) (r : RasterRec) (m : Nat) : EngineTry Gfx :=
  let x := bits l.pa.toNat 0 14
  let y := bits l.pa.toNat 14 14
  let (ws, s) := s.landSrcs op.sid l.thread l.srcs
  let a := r.pixelAt x y
  (Gfx.load ⟨s, op.core, op.ctx, op.priv, none, op.pc.toNat⟩ a (if r.rtHalf then 8 else 4)).bind (fun p =>
    p.2.store a (blendPixel r.rtHalf m ws p.1))

/-- BLEND_PERFORMED (R406, R407): a lane's blend is performed at its pixel's home and its share released; the
instruction completes with its last lane. -/
def execBlendPerformed (op lane : Nat) (s : State) : Host.Outcome State Fault Refusal :=
  .next (match s.ops.get op with
    | none => s
    | some q =>
      match blendOp q.instr, q.lanes.find? (fun l => l.thread = lane && !l.done) with
      | some m, some l =>
        let w := s.wg q.wg
        let st := (s.tileRun w.graph w.pass w.tile)
        match st.bind (·.stream) with
        | none => s
        | some stream =>
          if !s.mayBlend op q l (st.getD TileRun.reset) then s
          else match s.blendLane q l (rasterOf stream.record) m with
            | .error e => s.gfxFail q.sid q.ctx q.gen q.pc e
            | .ok g =>
              let s := g.s
              let s := if s.opAlive q ∧ (((s.sheaf q.sid).thread lane).raster.bind (·.token)) = some (l.entry - 1) ∧ l.entry ≠ 0 then
                  s.releaseToken q.sid lane
                else s
              let q := q.laneDone lane
              let s := s.modOp op (fun _ => q)
              let s := if q.allDone then s.completeOp op else s
              match g.poison with
              | some va => s.lateFault q 0x11 0 [lane] va
              | none => s
      | _, _ => s)

end Sys2Proof.Machine
end

