-- ==== Sys2Proof/Machine/Texture.lean ====
section
/-! DEFINITION. The texture sampler (R408 to R411). -/

namespace Sys2Proof.Machine

/-! ### Descriptors (R408) -/

/-- A texture descriptor. -/
structure Tex where
  va : Nat
  w : Nat
  h : Nat
  levels : Nat
  fmt : Nat
  ok : Bool
  deriving DecidableEq, Repr, Inhabited

/-- A texture descriptor from its words. -/
def texOf (ws : List Word) : Tex :=
  let x := leNat (wordsBytes ws)
  { va := bits x 208 48 * 16, w := bits x 194 14, h := bits x 180 14, levels := bits x 176 4, fmt := bits x 174 2,
    ok := bit x 173 && bits x 174 2 != 3 }

/-- A sampler descriptor. -/
structure Samp where
  filter : Nat
  addru : Nat
  addrv : Nat
  maxlvl : Nat
  ok : Bool
  deriving DecidableEq, Repr, Inhabited

/-- A sampler descriptor from its words. -/
def sampOf (ws : List Word) : Samp :=
  let x := leNat (wordsBytes ws)
  { filter := bits x 126 2, addru := bits x 124 2, addrv := bits x 122 2, maxlvl := bits x 118 4,
    ok := bit x 117 && bits x 126 2 != 3 && bits x 124 2 != 3 && bits x 122 2 != 3 }

/-- The words of a texture descriptor; none where the index lies beyond its table (R408, R446). -/
def Gfx.texWords (g : Gfx) (n : Nat) : EngineTry (Option (List Word) × Gfx) :=
  if 4096 ≤ n then .ok (none, g)
  else
    (Gfx.load { g with priv := true } ((g.s.ctx g.ctx).field 552 47 * 32 + 32 * n) 32).map (fun p =>
      let ws := bytesWords 8 p.1
      (if (texOf ws).ok then some ws else none, { p.2 with priv := g.priv }))

/-- The words of a sampler descriptor. -/
def Gfx.sampWords (g : Gfx) (n : Nat) : EngineTry (Option (List Word) × Gfx) :=
  if 256 ≤ n then .ok (none, g)
  else
    (Gfx.load { g with priv := true } ((g.s.ctx g.ctx).field 504 48 * 16 + 16 * n) 16).map (fun p =>
      let ws := bytesWords 4 p.1
      (if (sampOf ws).ok then some ws else none, { p.2 with priv := g.priv }))

/-! ### The level (R410) -/

/-- The scale at which levels are compared. -/
def levelUnit : Nat := 320

/-- A level times 2^320: minus infinity, or a number. -/
inductive Lvl where
  | low
  | high
  | at_ (x : Int)
  | unknown
  deriving DecidableEq, Repr, Inhabited

/-- The level of a bias or a level operand. -/
def lvlOf (w : Word) : Lvl :=
  match f32.decode w.toNat with
  | .nan _ => .unknown
  | .inf n => if n then .low else .high
  | .fin _ _ _ => .at_ ((exact32 w).getD 0 * 2 ^ (levelUnit - unit32))

/-- Lambda of a rate that is a multiple of 2^-149 (R410). -/
def lambdaOf (m : Nat) : Lvl :=
  let k := Nat.log2 m
  if m = 0 ∨ k + 126 < unit32 then .low
  else .at_ (((k : Int) - unit32 - 1) * 2 ^ levelUnit + (m : Int) * 2 ^ (levelUnit - k))

/-- The sum of a lambda and a bias. -/
def Lvl.add (a b : Lvl) : Lvl :=
  match a, b with
  | .unknown, _ | _, .unknown | .low, .high | .high, .low => .unknown
  | .low, _ | _, .low => .low
  | .high, _ | _, .high => .high
  | .at_ x, .at_ y => .at_ (x + y)

/-- A level in units of 1/256, rounded down and held to 0 to mx; none where it is not stated. -/
def Lvl.steps (l : Lvl) (mx : Nat) : Option Nat :=
  match l with
  | .unknown => none
  | .low => some 0
  | .high => some (mx * 256)
  | .at_ x => some (min (x * 256 / 2 ^ levelUnit).toNat (mx * 256))

/-- The coordinate of thread `u` of a sheaf: word `c` of the pair at A; an exited thread supplies 0. -/
def Sheaf.coord (sh : Sheaf) (f : Fields) (u c : Nat) : Word :=
  if sh.exited u then 0
  else if c = 0 then (sh.readPair f.imm u f.a false).extractLsb' 0 32
  else (sh.readPair f.imm u f.a false).extractLsb' 32 32

/-- The coordinates of the quad of thread `t`: word `c` of its thread `i` at `2 * i + c`. -/
def Sheaf.quadCoords (sh : Sheaf) (f : Fields) (t : Nat) : List Word :=
  (List.range 8).map (fun j => sh.coord f (t - t % 4 + j / 2) (j % 2))

/-- The magnitude of a difference across a quad, times a size. -/
def texRate (crd : List Word) (c lo hi size : Nat) : Option Nat :=
  match exact32 (opd crd (2 * lo + c)), exact32 (opd crd (2 * hi + c)) with
  | some a, some b => some ((b - a).natAbs * size)
  | _, _ => none

/-- The implicit lambda of thread `i` of a quad (R410). -/
def texImplicit (crd : List Word) (x : Tex) (i : Nat) : Lvl :=
  let l := [texRate crd 0 (i / 2 * 2) (i / 2 * 2 + 1) (x.w + 1), texRate crd 1 (i / 2 * 2) (i / 2 * 2 + 1) (x.h + 1),
    texRate crd 0 (i % 2) (i % 2 + 2) (x.w + 1), texRate crd 1 (i % 2) (i % 2 + 2) (x.h + 1)]
  if l.any (·.isNone) then .unknown else lambdaOf ((l.map (·.getD 0)).foldl max 0)

/-- Which texture instruction, with its fields. -/
inductive TexKind where
  | tex | texg | texq
  deriving DecidableEq, Repr, Inhabited

/-- The level of thread `t` in units of 1/256, from the coordinates of its quad and the word of field E. -/
def texLevel (k : TexKind) (f : Fields) (crd : List Word) (e : Word) (x : Tex) (y : Samp) (t : Nat) : Option Nat :=
  let mx := min x.levels y.maxlvl
  match k with
  | .tex => (if f.mod 0 1 = 1 then lvlOf e else Lvl.add (texImplicit crd x (t % 4)) (lvlOf e)).steps mx
  | .texg => some (min e.toNat mx * 256)
  | .texq => some 0

/-! ### Issue (R411) -/

/-- What a lane of a texture instruction works on beside its own coordinates: its level and the words of the descriptors,
from the words of B, C and E and the coordinates of the quad; none where a descriptor fails. -/
def texFetch (k : TexKind) (f : Fields) (crd : List Word) (bce : List Word) (t : Nat) (g : Gfx) :
    EngineTry (Option (List Word) × Gfx) :=
  (g.texWords (opd bce 0).toNat).bind (fun x =>
    (if k = .texq then .ok (some [], x.2) else x.2.sampWords (opd bce 1).toNat).map (fun y =>
      match x.1, y.1 with
      | some xs, some ys =>
        let q := texLevel k f crd (opd bce 2) (texOf xs) (sampOf ys) t
        let (r, s) := y.2.s.pick ((min (texOf xs).levels (sampOf ys).maxlvl) * 256 + 1)
        (some ((BitVec.ofNat 32 (q.getD r) :: xs) ++ ys), { y.2 with s := if q.isNone then s else y.2.s })
      | _, _ => (none, y.2)))

/-- The registers of a texture instruction that hold coordinates. -/
def texCoords (k : TexKind) (f : Fields) : List (BitVec 8) := if k = .texq then [] else dataFields f.a 2

/-- Its other source fields. -/
def texFields (k : TexKind) (f : Fields) : List (BitVec 8) := [f.b] ++ (if k = .texq then [] else [f.c, f.e])

/-- One lane of a texture instruction as it issues: its coordinates, and what `texFetch` gives it.  Its address fields are
B, C and E and the coordinates of its quad (R25). -/
def texLane (k : TexKind) (f : Fields) (is : Issue) (sh : Sheaf) (g : Gfx) (t : Nat) : EngineTry (Option Lane × Gfx) :=
  let bce := (texFields k f).map (sh.read f.imm t)
  let crd := sh.quadCoords f t
  (texFetch k f crd bce t g).map (fun r =>
    (r.1.map (fun ws =>
      let ln := sh.lane f.imm is.act (texCoords k f) (regRun f.d (if k = .texq then 1 else 4)) t
      { ln with
        srcs := ln.srcs ++ ws.map (fun w => (0xF0, w))
        addrs := sh.capture f.imm t (texFields k f) ++ crd.map (fun w => (0xF0, w))
        taint := ln.taint || (texFields k f).any (sh.taintOf t) }), r.2))

/-- The lanes of a texture instruction, and those that meet graphics fault 4. -/
def texLanes (k : TexKind) (f : Fields) (is : Issue) (sh : Sheaf) : List Nat → Gfx → EngineTry (List Lane × List Nat × Gfx)
  | [], g => .ok ([], [], g)
  | t :: l, g =>
    (texLane k f is sh g t).bind (fun p =>
      (texLanes k f is sh l p.2).map (fun r => match p.1 with
        | some ln => (ln :: r.1, r.2)
        | none => (r.1, t :: r.2.1, r.2.2)))

/-- A texture instruction enters flight, its descriptors read after the `ld.con` operations on which their indices depend
(R183); `tex` without `.l` gives its threads the exited mask of their quad (R403, R411); a poisoned descriptor is reported
(R271). -/
def texOp (i : Instr) (k : TexKind) (f : Fields) (is : Issue) (s : State) : Result :=
  let sh := s.sheaf is.sid
  let tainted (t : Nat) : Bool := sh.taintOf t f.b || (k != .texq && sh.taintOf t f.c)
  if is.act.any (fun t => tainted t && s.consuming is.sid sh.gen t s.next) then .wait s
  else match texLanes k f is sh is.act (is.unit_ s is.lead) with
  | .error e => is.gfxWait s e
  | .ok (lanes, bad, g) =>
    match is.faultLanes 9 (bad.map (fun t => (t, 4, 0))) s with
    | some r => r
    | none =>
      let s := g.s.launch is i lanes
      let s := if k = .tex ∧ f.mod 0 1 = 0 then
          s.modSheaf is.sid (fun sh' => each is.act (fun t sh' => sh'.modThread t (fun th => { th with
            xmask := (is.seg sh 4 t).mask })) sh')
        else s
      is.gfxDone { g with s := s }

/-- `tex` (R411). -/
def execTex (f : Fields) : State → Host.Outcome State Fault Refusal := issued (.tex f) (texOp (.tex f) .tex f)

/-- `texg` (R411). -/
def execTexg (f : Fields) : State → Host.Outcome State Fault Refusal := issued (.texg f) (texOp (.texg f) .texg f)

/-- `texq` (R411). -/
def execTexq (f : Fields) : State → Host.Outcome State Fault Refusal := issued (.texq f) (texOp (.texq f) .texq f)

/-! ### Filtering (R409) -/

/-- Texels across and down a level. -/
def Tex.size (x : Tex) (l : Nat) : Nat × Nat := (max 1 ((x.w + 1) / 2 ^ l), max 1 ((x.h + 1) / 2 ^ l))

/-- Bytes of a texel. -/
def Tex.bpp (x : Tex) : Nat := if x.fmt = 1 then 8 else 4

/-- Bytes of a row of a level. -/
def Tex.rowB (x : Tex) (l : Nat) : Nat := up16 ((x.size l).1 * x.bpp)

/-- Address of a level. -/
def Tex.base (x : Tex) (l : Nat) : Nat :=
  x.va + ((List.range l).map (fun k => x.rowB k * (x.size k).2)).sum

/-- An index along an axis after wrapping, clamping, or the border. -/
def texIndex (mode : Nat) (i : Int) (n : Nat) : Option Nat :=
  match mode with
  | 0 => some (i % n).toNat
  | 1 => some (min (max i 0).toNat (n - 1))
  | _ => if 0 ≤ i ∧ i < n then some i.toNat else none

/-- Channels of a texel from its bytes; those of RGBA8 are scaled by 255. -/
def texelOf (fmt : Nat) (bs : List Byte) : List Exact :=
  match fmt with
  | 0 => bs.map (fun b => exactNat b.toNat)
  | 1 => (List.range 4).map (fun c => exactOf (f16.decode (leNat ((bs.drop (2 * c)).take 2))))
  | _ => [exactOf (f32.decode (leNat bs)), exactNat 0, exactNat 0, exactNat 1]

/-- A texel at a level. -/
def Tex.texel (x : Tex) (y : Samp) (l : Nat) (i j : Int) (g : Gfx) : EngineTry (List Exact × Gfx) :=
  match texIndex y.addru i (x.size l).1, texIndex y.addrv j (x.size l).2 with
  | some i, some j => (g.load (x.base l + j * x.rowB l + i * x.bpp) x.bpp).map (fun p => (texelOf x.fmt p.1, p.2))
  | _, _ => .ok (List.replicate 4 (exactNat 0), g)

/-- A coordinate in units of 1/256 texel less half a texel: the index and the fraction; or the texel itself. -/
def texPlace (bilinear : Bool) (u : Int) (n : Nat) : Int × Nat :=
  if bilinear then
    let s := (256 * u * n - 128 * onePx) / onePx
    (s / 256, (s % 256).toNat)
  else (u * n / onePx, 0)

/-- The texels of a footprint at a level with their weights in units of 2^-24 after scaling by `k`. -/
def footprint (bilinear : Bool) (x : Tex) (u v : Int) (l k : Nat) : List (Nat × Int × Int × Nat) :=
  let a := texPlace bilinear u (x.size l).1
  let b := texPlace bilinear v (x.size l).2
  if bilinear then
    [(l, a.1, b.1, k * (256 - a.2) * (256 - b.2)), (l, a.1 + 1, b.1, k * a.2 * (256 - b.2)),
     (l, a.1, b.1 + 1, k * (256 - a.2) * b.2), (l, a.1 + 1, b.1 + 1, k * a.2 * b.2)]
  else [(l, a.1, b.1, k * 65536)]

/-- Texels that a filter reads, at the level `q` in units of 1/256 (R409, R410). -/
def texReads (x : Tex) (y : Samp) (u v : Int) (q : Nat) : List (Nat × Int × Int × Nat) :=
  let mx := min x.levels y.maxlvl
  if y.filter = 2 then
    footprint true x u v (q / 256) (256 - q % 256) ++ footprint true x u v (min (q / 256 + 1) mx) (q % 256)
  else footprint (y.filter == 1) x u v (min ((q + 128) / 256) mx) 256

/-- The weighted sum of texels. -/
def texSum (x : Tex) (y : Samp) : List (Nat × Int × Int × Nat) → List Exact → Gfx → EngineTry (List Exact × Gfx)
  | [], acc, g => .ok (acc, g)
  | (l, i, j, k) :: r, acc, g =>
    (x.texel y l i j g).bind (fun p =>
      texSum x y r (List.zipWith (fun a c => Exact.add a (Exact.mul (exactOf (.fin false k (-24))) c)) acc p.1) p.2)

/-- A channel's exact value rounded to F32; that of RGBA8 is divided by 255. -/
def texRound (fmt : Nat) (v : Exact) : Word :=
  if fmt = 0 then quotient v.1 (.fin false 255 0) else (Exact.round false v).1

/-- One channel of the four texels of a bilinear footprint (R411). -/
def texGather (x : Tex) (y : Samp) (c : Nat) : List (Nat × Int × Int × Nat) → Gfx → EngineTry (List Word × Gfx)
  | [], g => .ok ([], g)
  | (l, i, j, _) :: r, g =>
    (x.texel y l i j g).bind (fun p =>
      (texGather x y c r p.2).map (fun q => (texRound x.fmt (p.1.getD c (exactNat 0)) :: q.1, q.2)))

/-- The result words of a lane from its captured words (R409 to R411). -/
def texResult (k : TexKind) (ch : Nat) (ws : List Word) (g : Gfx) : EngineTry (List Word × Gfx) :=
  if k = .texq then
    let x := texOf (ws.drop 1)
    .ok ([BitVec.ofNat 32 (cat [(x.levels, 4), (x.h, 14), (x.w, 14)])], g)
  else
    let x := texOf ((ws.drop 3).take 8)
    let y := sampOf (ws.drop 11)
    let q := (ws.getD 2 0).toNat
    match exact32 (ws.getD 0 0), exact32 (ws.getD 1 0) with
    | some u, some v =>
      if k = .texg then texGather x y ch (footprint true x u v (q / 256) 256) g
      else (texSum x y (texReads x y u v q) (List.replicate 4 (exactNat 0)) g).map (fun p =>
        (p.1.map (texRound x.fmt), p.2))
    | _, _ => .ok ([0, 0, 0, 0], g)

/-- A unit that serves an operation in flight. -/
def LongOp.unit_ (op : LongOp) (s : State) : Gfx := ⟨s, op.core, op.ctx, op.priv, none, op.pc.toNat⟩

/-- A lane of an operation receives its words; poison that was met is reported. -/
def State.landGfx (s : State) (o : Nat) (op : LongOp) (ln : Lane) (d : BitVec 8) (r : EngineTry (List Word × Gfx)) : State :=
  match r with
  | .error e => s.gfxFail op.sid op.ctx op.gen op.pc e
  | .ok (ws, g) =>
    let (us, s) := if g.poison.isSome then g.s.undefs ws.length else (ws, g.s)
    let s := (s.landDsts o op.sid ln d us).modOp o (fun op => op.laneDone ln.thread)
    match g.poison with
    | some va => s.lateFault op 0x11 0 [ln.thread] va
    | none => s

/-- A lane of a texture instruction in flight takes values that the program has written into its registers since (R25): bit
`i` of `mask` for the `i`-th of B, C and E, bit `3 + j` for coordinate word `j` of its quad.  It keeps what it had where the
descriptors so named meet a fault, poison or an absent page. -/
def State.reTex (s : State) (o : Nat) (op : LongOp) (ln : Lane) (mask : Nat) (k : TexKind) (f : Fields) : State :=
  let sh := s.sheaf op.sid
  let n := (texFields k f).length
  let bce := ((ln.addrs.take n).mapIdx (fun i p => if bit mask i ∧ p.1.toNat < 0xF0 then sh.read 0 ln.thread p.1 else p.2))
  let old := (ln.addrs.drop n).map (·.2)
  let crd := List.zipWith (fun p w => if bit mask (3 + p.1) then w else p.2) (old.mapIdx (fun j w => (j, w)))
    (sh.quadCoords f ln.thread)
  match texFetch k f crd bce ln.thread (op.unit_ s) with
  | .ok (some ws, g) =>
    if g.poison.isSome then s
    else g.s.modOp o (fun op => { op with lanes := op.lanes.map (fun l =>
      if l.thread = ln.thread then
        { l with
          srcs := l.srcs.take (texCoords k f).length ++ ws.map (fun w => (0xF0, w))
          taint := l.taint || ((texFields k f).mapIdx (fun i v => bit mask i && sh.taintOf ln.thread v)).any id }
      else l) })
  | _ => s

/-- A lane of a texture instruction lands (R411). -/
def State.landTexture (s : State) (o : Nat) (op : LongOp) (ln : Lane) : State :=
  let (ws, s') := s.landSrcs op.sid ln.thread ln.srcs
  match op.instr with
  | .tex f => s.landGfx o op ln f.d (texResult .tex 0 ws (op.unit_ s'))
  | .texg f => s.landGfx o op ln f.d (texResult .texg (f.mod 0 2) ws (op.unit_ s'))
  | .texq f => s.landGfx o op ln f.d (texResult .texq 0 ws (op.unit_ s'))
  | _ => s

end Sys2Proof.Machine
end

