-- ==== Sys2Proof/Machine/Rays.lean ====
section
/-! DEFINITION. Rays: bounding-volume hierarchies, their exact traversal, and the hit state (R412 to
R414). -/

namespace Sys2Proof.Machine

/-! ### Exact fractions -/

/-- A fraction with a positive divisor. -/
abbrev Frac := Int × Int

/-- A fraction from a numerator and a nonzero divisor. -/
def fracOf (n d : Int) : Frac := if d < 0 then (-n, -d) else (n, d)

/-- Not above. -/
def Frac.le (a b : Frac) : Bool := decide (a.1 * b.2 ≤ b.1 * a.2)

/-- Below. -/
def Frac.lt (a b : Frac) : Bool := decide (a.1 * b.2 < b.1 * a.2)

/-- The greater. -/
def Frac.max (a b : Frac) : Frac := if Frac.le a b then b else a

/-- The lesser. -/
def Frac.min (a b : Frac) : Frac := if Frac.le a b then a else b

/-! ### Vectors of exact coordinates -/

/-- Three coordinates as multiples of 2^-149. -/
structure V3 where
  x : Int
  y : Int
  z : Int
  deriving DecidableEq, Repr, Inhabited

/-- A difference. -/
def V3.sub (a b : V3) : V3 := ⟨a.x - b.x, a.y - b.y, a.z - b.z⟩

/-- A vector product. -/
def V3.cross (a b : V3) : V3 := ⟨a.y * b.z - a.z * b.y, a.z * b.x - a.x * b.z, a.x * b.y - a.y * b.x⟩

/-- A scalar product. -/
def V3.dot (a b : V3) : Int := a.x * b.x + a.y * b.y + a.z * b.z

/-- Coordinate `i`. -/
def V3.at_ (a : V3) (i : Nat) : Int :=
  match i with
  | 0 => a.x
  | 1 => a.y
  | _ => a.z

/-- Three words as exact coordinates; none where one is not finite. -/
def v3Of (ws : List Word) : Option V3 :=
  match exact32 (ws.getD 0 0), exact32 (ws.getD 1 0), exact32 (ws.getD 2 0) with
  | some x, some y, some z => some ⟨x, y, z⟩
  | _, _, _ => none

/-! ### The traversal (R412, R413) -/

/-- A ray with its flags. -/
structure Ray where
  o : V3
  d : V3
  tmin : Frac
  tmax : Frac
  cull : Bool
  first : Bool
  mask : BitVec 8
  deriving DecidableEq, Repr, Inhabited

/-- A hit kept. -/
structure Found where
  t : Frac
  b1 : Frac
  b2 : Frac
  prim : Word
  user : Word
  node : Nat
  deriving DecidableEq, Repr, Inhabited

/-- The interval of one slab meets an interval: what remains (R413). -/
def slab (r : Ray) (lo hi : V3) (i : Nat) (acc : Option (Frac × Frac)) : Option (Frac × Frac) :=
  acc.bind (fun p =>
    let a := lo.at_ i - r.o.at_ i
    let b := hi.at_ i - r.o.at_ i
    let d := r.d.at_ i
    if b < a then none
    else if d = 0 then (if a ≤ 0 ∧ 0 ≤ b then some p else none)
    else
      let x := fracOf a d
      let y := fracOf b d
      let e := Frac.max p.1 (Frac.min x y)
      let l := Frac.min p.2 (Frac.max x y)
      if Frac.le e l then some (e, l) else none)

/-- Where a ray enters a box, as a closed interval within tmin to best (R413). -/
def Ray.entry (r : Ray) (best : Frac) (box : List Word) : Option Frac :=
  match v3Of (box.take 3), v3Of (box.drop 3) with
  | some lo, some hi =>
    if Frac.lt best r.tmin then none
    else (slab r lo hi 2 (slab r lo hi 1 (slab r lo hi 0 (some (r.tmin, best))))).map (·.1)
  | _, _ => none

/-- A stacked child: its entry, whether it is a leaf, its address. -/
structure Child where
  entry : Frac
  leaf : Bool
  va : Nat
  deriving DecidableEq, Repr, Inhabited

/-- Entry `k` of a box node as a number. -/
def boxEntry (bs : List Byte) (k : Nat) : Nat := leNat ((bs.drop (32 * k)).take 32)

/-- A box-node entry is malformed: TYPE 3, a nonzero MBZ field, a misaligned child (R413). -/
def badEntry (e : Nat) : Bool :=
  bits e 192 2 == 3 || bits e 194 4 != 0 || bits e 244 12 != 0 || (bits e 192 2 == 1 && bits e 198 46 % 2 != 0)

/-- The children of a box node that the ray enters, by index. -/
def Ray.children (r : Ray) (best : Frac) (bs : List Byte) : List Child :=
  (List.range 4).filterMap (fun k =>
    let e := boxEntry bs k
    if bits e 192 2 = 0 then none
    else (r.entry best (bytesWords 6 (natBytes 24 e))).map (fun t =>
      ⟨t, bits e 192 2 == 2, bits e 198 46 * 64⟩))

/-- A child in its place, nearest entry first; equal entries keep their order. -/
def putChild (c : Child) : List Child → List Child
  | [] => [c]
  | x :: l => if Frac.lt x.entry c.entry then x :: putChild c l else c :: x :: l

/-- Children by entry. -/
def sortChildren (l : List Child) : List Child := l.foldr putChild []

/-- A leaf solved exactly (R413): none where it is not hit. -/
def Ray.solve (r : Ray) (best : Frac) (w : List Word) : Option (Frac × Frac × Frac) :=
  match v3Of (w.take 3), v3Of ((w.drop 3).take 3), v3Of ((w.drop 6).take 3) with
  | some v0, some v1, some v2 =>
    let e1 := v1.sub v0
    let e2 := v2.sub v0
    let p := r.d.cross e2
    let det := e1.dot p
    if det = 0 ∨ (r.cull ∧ 0 < (e1.cross e2).dot r.d) then none
    else
      let tv := r.o.sub v0
      let q := tv.cross e1
      let t := fracOf (e2.dot q) det
      let b1 := fracOf (tv.dot p) det
      let b2 := fracOf (r.d.dot q) det
      if 0 ≤ b1.1 ∧ 0 ≤ b2.1 ∧ b1.1 + b2.1 ≤ b1.2 ∧ Frac.le r.tmin t ∧ Frac.le t best then some (t, b1, b2) else none
  | _, _, _ => none

/-- The hit that a leaf gives, where it is kept: the least t, then the lower PRIM, then the one met first. -/
def Ray.leaf (r : Ray) (hit : Option Found) (bs : List Byte) : Option Found :=
  let w := bytesWords 16 bs
  let x := leNat bs
  let best := (hit.map (·.t)).getD r.tmax
  if bits x 360 8 &&& r.mask.toNat = 0 then none
  else
    (r.solve best w).bind (fun s =>
      let f : Found := ⟨s.1, s.2.1, s.2.2, w.getD 9 0, w.getD 10 0, bits x 352 8⟩
      match hit with
      | none => some f
      | some h => if Frac.lt f.t h.t ∨ f.prim < h.prim then some f else none)

/-- What a traversal ends with: the hit, dropped children, a malformed node. -/
structure Traced where
  hit : Option Found
  ovf : Bool
  err : Bool
  deriving DecidableEq, Repr, Inhabited

/-- The traversal from the next child: none where it has not ended after so many nodes (R413). -/
def traverse (r : Ray) : Nat → List Child → Option Found → Bool → Gfx → EngineTry (Option Traced × Gfx)
  | 0, _, _, _, g => .ok (none, g)
  | _, [], hit, ovf, g => .ok (some ⟨hit, ovf, false⟩, g)
  | fuel + 1, c :: stack, hit, ovf, g =>
    let best := (hit.map (·.t)).getD r.tmax
    if Frac.lt best c.entry then traverse r fuel stack hit ovf g
    else if c.leaf then
      (g.load c.va 64).bind (fun b =>
        if bits (leNat b.1) 368 144 ≠ 0 then .ok (some ⟨none, ovf, true⟩, b.2)
        else match r.leaf hit b.1 with
          | some h => if r.first then .ok (some ⟨some h, ovf, false⟩, b.2) else traverse r fuel stack (some h) ovf b.2
          | none => traverse r fuel stack hit ovf b.2)
    else
      (g.load c.va 128).bind (fun b =>
        if (List.range 4).any (fun k => badEntry (boxEntry b.1 k)) then .ok (some ⟨none, ovf, true⟩, b.2)
        else
          let l := sortChildren (r.children best b.1)
          let room := 64 - stack.length
          let far := l.tail.drop (l.tail.length - room)
          traverse r fuel (l.take 1 ++ far ++ stack) hit (ovf || decide (room < l.tail.length)) b.2)

/-- The status word (R414). -/
def Traced.status (x : Traced) (miss : Nat) : Word :=
  BitVec.ofNat 32 (cat [(b2n x.hit.isSome, 1), (b2n x.ovf, 1), (b2n x.err, 1), (0, 21),
    ((x.hit.map (·.node)).getD miss, 8)])

/-- The ray of a lane: eight words and the flags; none where an input is not finite. -/
def rayOf (w : List Word) (flags : Nat) : Option Ray :=
  match v3Of w, v3Of (w.drop 4), exact32 (w.getD 3 0), exact32 (w.getD 7 0) with
  | some o, some d, some a, some b =>
    some ⟨o, d, (a, onePx), (b, onePx), bit flags 0, bit flags 1, BitVec.ofNat 8 (bits flags 8 8)⟩
  | _, _, _, _ => none

/-- A ray is traversed from its root. -/
def traceRay (w : List Word) (root flags : Nat) (g : Gfx) : EngineTry (Option Traced × Gfx) :=
  match rayOf w flags with
  | none => .ok (some ⟨none, false, false⟩, g)
  | some r =>
    if root % 128 ≠ 0 then .ok (some ⟨none, false, true⟩, g)
    else if Frac.lt r.tmax r.tmin then .ok (some ⟨none, false, false⟩, g)
    else traverse r (2 ^ 30) [⟨r.tmin, false, root⟩] none false g

/-! ### `trace` and `hit.rd` (R413, R414) -/

/-- `trace` (R413): it enters flight; its threads have executed a trace. -/
def execTrace (f : Fields) : State → Host.Outcome State Fault Refusal :=
  issued (.trace f) fun is s =>
    let sh := s.sheaf is.sid
    let srcs := regRun f.a 8 ++ dataFields f.b 2 ++ [f.c]
    let s := s.launch is (.trace f) (is.act.map (fun t =>
      { sh.lane f.imm is.act srcs [f.d] t with ataint := (dataFields f.b 2).any (sh.taintOf t) }))
    .done (s.modSheaf is.sid (fun sh => each is.act (fun t sh => sh.modThread t (fun th => { th with
      hit := some (th.hit.getD default) })) sh))

/-- The hit state of a finished traversal; on a miss its other fields are undefined (R414). -/
def State.hitOf (s : State) (x : Traced) (miss : Nat) : Hit × State :=
  let st := x.status miss
  match x.hit with
  | some h => (⟨st, roundDiv h.t.1 h.t.2, roundDiv h.b1.1 h.b1.2, roundDiv h.b2.1 h.b2.2, h.prim, h.user⟩, s)
  | none =>
    let (u, s) := s.undefs 5
    (⟨st, u.getD 0 0, u.getD 1 0, u.getD 2 0, u.getD 3 0, u.getD 4 0⟩, s)

/-- A lane of `trace` lands: its status and its thread's hit state. -/
def State.landTrace (s : State) (o : Nat) (op : LongOp) (ln : Lane) (f : Fields) : State :=
  let (ws, s') := s.landSrcs op.sid ln.thread ln.srcs
  let root := (ws.getD 8 0).toNat + 2 ^ 32 * (ws.getD 9 0).toNat
  let flags := (ws.getD 10 0).toNat
  if ln.ataint && s.consuming op.sid op.gen ln.thread o then s
  else match traceRay (ws.take 8) root flags (op.unit_ s') with
  | .error e => s.gfxFail op.sid op.ctx op.gen op.pc e
  | .ok (none, _) => s
  | .ok (some x, g) =>
    let (h, s) := g.s.hitOf x (bits flags 16 8)
    let s := s.landDsts o op.sid ln f.d [h.status]
    let s := if s.opAlive op then
        s.modSheaf op.sid (fun sh => sh.modThread ln.thread (fun th => { th with hit := some h }))
      else s
    let s := s.modOp o (fun op => op.laneDone ln.thread)
    match g.poison with
    | some va => s.lateFault op 0x11 0 [ln.thread] va
    | none => s

/-- A field of the hit state (R414). -/
def Hit.field (h : Hit) (n : Nat) : Word :=
  match n with
  | 0 => h.t
  | 1 => h.b1
  | 2 => h.b2
  | 3 => h.prim
  | 4 => h.user
  | _ => h.status

/-- `hit.rd` (R414). -/
def execHitRd (f : Fields) : State → Host.Outcome State Fault Refusal :=
  issued (.hitRd f) (longOp (.hitRd f) f [] 1)

/-- A lane of `hit.rd` lands. -/
def State.landHit (s : State) (o : Nat) (op : LongOp) (ln : Lane) (f : Fields) : State :=
  let w := ((((s.sheaf op.sid).thread ln.thread).hit).getD default).field (f.mod 0 3)
  (s.landDsts o op.sid ln f.d [w]).modOp o (fun op => op.laneDone ln.thread)

end Sys2Proof.Machine
end

