-- ==== Sys2Proof/Machine/Special.lean ====
section
/-! DEFINITION. The special-function instructions (R149 to R151). The approximate functions are
`Config.special`, held to the bounds of R150 and the special inputs of R151. -/

namespace Sys2Proof.Machine

/-! ### The functions to 256 fractional bits -/

/-- One in fixed point with 256 fractional bits. -/
def fxOne : Int := 2 ^ 256

/-- Natural logarithm of 2, times 2^256. -/
def fxLn2 : Int :=
  80260960185991308862233904206310070533990667611589946606122867505419956976171

/-- 2 over the square root of pi, times 2^256. -/
def fxErf : Int :=
  130657381209852114387528029350014196574164286124850014242073919076264802271585

/-- The square root of one half, times 2^256. -/
def fxHalfRoot : Int :=
  81877371507464127617551201542979628307507432471243237061821853600756754782485

/-- Pi, times 2^448. -/
def pi448 : Int :=
  2283431196591655772568293192637813162989505182201807620455461503647463674352091780948082810000813750461678719846639713479115845689692381

/-- Product in fixed point. -/
def fxMul (a b : Int) : Int := a * b / fxOne

/-- Sum of a series: the first term, and each next term from its number and the one before. -/
def fxSum (next : Nat → Int → Int) : Nat → Nat → Int → Int
  | 0, _, _ => 0
  | n + 1, k, t => t + fxSum next n (k + 1) (next k t)

/-- e to the power of a fixed-point number of small magnitude. -/
def fxExp (r : Int) : Int := fxSum (fun k t => fxMul t r / (k + 1)) 60 0 fxOne

/-- e to the power of minus a fixed-point number that is not negative. -/
def fxExpNeg (y : Int) : Int :=
  let n := y / fxLn2
  fxExp (-(y % fxLn2)) / 2 ^ (min n 400).toNat

/-- The error function of a fixed-point number of magnitude below 6. -/
def fxErfOf (z : Int) : Int :=
  let z2 := fxMul z z
  -- the term k is (-1)^k z^(2k+1) / k!, divided by 2k+1 in the sum
  let rec go : Nat → Nat → Int → Int
    | 0, _, _ => 0
    | n + 1, k, t => t / (2 * k + 1) + go n (k + 1) (-(fxMul t z2) / (k + 1))
  fxMul fxErf (go 180 0 z)

/-- The natural logarithm of a fixed-point number from 1 to 2. -/
def fxLog (z : Int) : Int :=
  let y := (z - fxOne) * fxOne / (z + fxOne)
  let y2 := fxMul y y
  let rec go : Nat → Nat → Int → Int
    | 0, _, _ => 0
    | n + 1, k, t => t / (2 * k + 1) + go n (k + 1) (fxMul t y2)
  2 * go 90 0 y

/-- A finite value in fixed point, rounded down. -/
def fxOf (neg : Bool) (m : Nat) (e : Int) : Int :=
  let x := signed neg m
  if 0 ≤ e + 256 then x * 2 ^ (e + 256).toNat else x / 2 ^ (-(e + 256)).toNat

/-- The remainder of a magnitude modulo 2 pi, in fixed point. -/
def fxMod2Pi (m : Nat) (e : Int) : Int := ((m : Int) * 2 ^ (e + 448).toNat % (2 * pi448)) / 2 ^ 192

/-- A positive result whose exact value lies above 0 and below `top`, kept so where the fixed point is too short to tell them
apart: a bound of R150 ends on multiples of 2^-149 alone. -/
def fxInside (top n : Int) : Int := max 1 (min n (top - 1))

/-- Sine of a fixed-point number above 0 and below 2 pi. -/
def fxSin (x : Int) : Int :=
  min (fxSum (fun k t => -(fxMul (fxMul t x) x) / ((2 * k + 2) * (2 * k + 3))) 60 0 x) (x - 1)

/-- Cosine of a fixed-point number above 0 and below 2 pi. -/
def fxCos (x : Int) : Int :=
  min (fxSum (fun k t => -(fxMul (fxMul t x) x) / ((2 * k + 1) * (2 * k + 2))) 60 0 fxOne) (fxOne - 1)

/-- The logistic function of a fixed-point number. -/
def fxSigm (x : Int) : Int :=
  let q := fxExpNeg x.natAbs
  fxInside fxOne (if 0 ≤ x then fxOne * fxOne / (fxOne + q) else q * fxOne / (fxOne + q))

/-- The hyperbolic tangent of a fixed-point number above 0. -/
def fxTanh (x : Int) : Int :=
  let q := fxExpNeg (2 * x)
  fxInside (min x fxOne) ((fxOne - q) * fxOne / (fxOne + q))

/-- The continued fraction x + 1/(x + 2/(x + 3/...)) of Mills' ratio from its partial numerator `k` on, to depth `n`. -/
def fxMills (x : Int) : Nat → Nat → Int
  | 0, _ => x
  | n + 1, k => x + (k : Int) * fxOne * fxOne / fxMills x n (k + 1)

/-- The normal distribution's tail beyond a fixed-point number of 6 or more. -/
def fxTail (x : Int) : Int :=
  fxMul (fxMul fxErf fxHalfRoot / 2) (fxExpNeg (fxMul x x / 2)) * fxOne / fxMills x 80 1

/-- The exact function of a special-function opcode at a finite nonzero value, as a significand and an exponent, precise enough
to tell on which side of the end of a bound of R150 it lies. -/
def specExact (op : Nat) (neg : Bool) (m : Nat) (e : Int) : Int × Int :=
  let x := fxOf neg m e
  match op with
  | 0xC0 => (signed neg (2 ^ 200 / m), -200 - e)
  | 0xC1 =>
    let m' := if e % 2 = 0 then m else 2 * m
    let e' := if e % 2 = 0 then e else e - 1
    ((Nat.sqrt (2 ^ 400 / m') : Int), -200 - e' / 2)
  | 0xC4 => let n := max (-400) (x / fxOne); (fxExp (fxMul (x % fxOne) fxLn2), n - 256)
  | 0xC5 =>
    let l := Nat.log2 m
    (fxLog ((m : Int) * fxOne / 2 ^ l) * fxOne / fxLn2 + (l + e) * fxOne, -256)
  | 0xC6 => (if neg then -(fxSin (fxMod2Pi m e)) else fxSin (fxMod2Pi m e), -256)
  | 0xC7 => (fxCos (fxMod2Pi m e), -256)
  | 0xC8 =>
    let t := fxTanh x.natAbs
    (if neg then -t else t, -256)
  | 0xC9 => (fxSigm x, -256)
  | 0xCA =>
    let big : Bool := decide (6 * fxOne ≤ x.natAbs)
    let phi : Int := if big then (if neg then fxTail x.natAbs else fxOne - fxTail x.natAbs) else
      (fxOne + fxErfOf (fxMul x fxHalfRoot)) / 2
    (signed neg m * fxInside fxOne phi, e - 256)
  | _ => (signed neg m * fxSigm x, e - 256)

/-- The bound of R150 for an exact result and an input magnitude: significand and exponent. -/
def specBound (op : Nat) (m : Nat) (e : Int) (exact : Int × Int) : Nat × Int :=
  let ulp : Int := max ((Nat.log2 exact.1.natAbs : Int) + exact.2 - 23) (-149)
  let wide : Nat × Int := if magLt m e 1 0 then (1, -21) else (m, e - 21)
  match op with
  | 0xC0 => (1, ulp)
  | 0xC1 => (2, ulp)
  | 0xC4 => (2, ulp)
  | 0xC5 => if magLt m e 1 (-1) ∨ magLt 1 1 m e then (2, ulp) else (1, -22)
  | 0xC6 | 0xC7 | 0xC8 => (1, -21)
  | 0xC9 => (1, -22)
  | _ => wide

/-- A finite value lies within a bound of an exact result. -/
def withinBound (neg : Bool) (m : Nat) (e : Int) (exact : Int × Int) (bound : Nat × Int) : Bool :=
  let lo := min e exact.2
  let d := signed neg (m * 2 ^ (e - lo).toNat) - exact.1 * 2 ^ (exact.2 - lo).toNat
  !magLt bound.1 bound.2 d.natAbs lo

/-- Whether R150 makes the result exact. -/
def specIsExact (op : Nat) (m : Nat) (e : Int) (ex : Rounded) : Bool :=
  let pow2 := m == 2 ^ Nat.log2 m
  let k := (Nat.log2 m : Int) + e
  match op with
  | 0xC0 => pow2 && !ex.tiny && !ex.ovf
  | 0xC1 => pow2 && k % 2 == 0
  | 0xC4 => (roundInt .rtz false m e).2 == false && !ex.tiny && !ex.ovf
  | 0xC5 => pow2
  | _ => false

/-- The range of a result (R150). -/
def inRange (op : Nat) (neg : Bool) (m : Nat) (e : Int) : Bool :=
  match op with
  | 0xC6 | 0xC7 | 0xC8 => !magLt 1 0 m e
  | 0xC9 => !neg && !magLt 1 0 m e
  | _ => true

/-- An approximate special function at a finite nonzero value: `Config.special`'s value where it keeps
R150, else the nearest F32 value; flags and flushing by R76 and R151.  DESIGN CHOICE (log 105): the exact result decides whether the
result is tiny (R75). -/
def specFinite (ftz : Bool) (op : Nat) (x : Nat) (neg : Bool) (m : Nat) (e : Int) : Nat × Word :=
  let ex := specExact op neg m e
  let r := roundFin f32 .rne (ex.1 < 0) ex.1.natAbs ex.2 true
  let near := f32.encode r.val
  let flags : Word := if op = 0xC0 ∨ op = 0xC4 then
      (if r.ovf then astOF ||| astNX else if r.tiny then astUF ||| astNX else 0)
    else 0
  let y : Nat := if r.ovf ∨ specIsExact op m e r then near else
    let v := (Config.special op (BitVec.ofNat 32 x)).toNat
    match f32.decode v with
    | .fin n' m' e' =>
      if withinBound n' m' e' ex (specBound op m e ex) ∧ inRange op n' m' e' ∧ (op ≠ 0xC0 ∨ !r.tiny ∨ bits v 23 8 = 0)
      then v else near
    | _ => near
  if ftz ∧ r.tiny then (f32.sign (ex.1 < 0), astUF ||| astNX)
  else (y, flags)

/-- The special inputs of R151: an infinity or a zero. -/
def specSpecial (op : Nat) (isInf neg : Bool) : Nat × Word :=
  let pinf := f32.inf
  let ninf := f32.sign true + f32.inf
  let nz := f32.sign true
  let one := 0x3F800000
  let bad := nanOut f32 true
  match op, isInf, neg with
  | 0xC0, true, n => (f32.sign n, 0)
  | 0xC0, false, n => (f32.sign n + pinf, astDZ)
  | 0xC1, true, true => bad
  | 0xC1, true, false => (0, 0)
  | 0xC1, false, n => (f32.sign n + pinf, astDZ)
  | 0xC4, true, true => (0, 0)
  | 0xC4, true, false => (pinf, 0)
  | 0xC4, false, _ => (one, 0)
  | 0xC5, true, true => bad
  | 0xC5, true, false => (pinf, 0)
  | 0xC5, false, _ => (ninf, astDZ)
  | 0xC6, true, _ => bad
  | 0xC6, false, n => (f32.sign n, 0)
  | 0xC7, true, _ => bad
  | 0xC7, false, _ => (one, 0)
  | 0xC8, true, n => (f32.sign n + one, 0)
  | 0xC8, false, n => (f32.sign n, 0)
  | 0xC9, true, true => (0, 0)
  | 0xC9, true, false => (one, 0)
  | 0xC9, false, _ => (0x3F000000, 0)
  | _, true, true => (nz, 0)
  | _, true, false => (pinf, 0)
  | _, false, n => (f32.sign n, 0)

/-- An approximate special function of an F32 word (R150, R151). -/
def specVal (ftz : Bool) (op : Nat) (w : Word) : Word × Word :=
  let x := f32.source ftz w.toNat
  patWord (match f32.decode x with
    | .nan s => nanOut f32 s
    | .inf n => specSpecial op true n
    | .fin n m e =>
      if m = 0 then specSpecial op false n
      else if n ∧ (op = 0xC1 ∨ op = 0xC5) then nanOut f32 true
      else if op = 0xC4 ∧ !n ∧ !magLt m e 1 7 then (f32.inf, astOF ||| astNX)
      else specFinite ftz op x n m e)

/-- The value of a special-function or division instruction from its operands (R129, R150): none for
another instruction. -/
def computeLong (ftz : Bool) (i : Instr) (l : List Word) : Option (Word × Word) :=
  match i with
  | .idiv f => let r := divide (f.mod 0 1 == 1) (opd l 0) (opd l 1); some (r.1, flagIf r.2.2 astDIV)
  | .irem f => let r := divide (f.mod 0 1 == 1) (opd l 0) (opd l 1); some (r.2.1, flagIf r.2.2 astDIV)
  | .fsqrt f => some (patWord (sqrtVal f32 ftz (rmOf f) (srcF32 ftz (opd l 0))))
  | .fdiv f => some (patWord (divVal f32 ftz (rmOf f) (srcF32 ftz (opd l 0)) (srcF32 ftz (opd l 1))))
  | .frcp _ => some (specVal ftz 0xC0 (opd l 0))
  | .frsq _ => some (specVal ftz 0xC1 (opd l 0))
  | .fexp2 _ => some (specVal ftz 0xC4 (opd l 0))
  | .flog2 _ => some (specVal ftz 0xC5 (opd l 0))
  | .fsin _ => some (specVal ftz 0xC6 (opd l 0))
  | .fcos _ => some (specVal ftz 0xC7 (opd l 0))
  | .ftanh _ => some (specVal ftz 0xC8 (opd l 0))
  | .fsigm _ => some (specVal ftz 0xC9 (opd l 0))
  | .fgelu _ => some (specVal ftz 0xCA (opd l 0))
  | .fsilu _ => some (specVal ftz 0xCB (opd l 0))
  | _ => none

/-- A lane of a computing long-latency instruction lands: its result is written and its flags are kept
for completion (R25, R80). -/
def State.landCompute (s : State) (o : Nat) (ln : Lane) : State :=
  match s.ops.get o with
  | none => s
  | some op =>
    let (l, s) := s.landSrcs op.sid ln.thread ln.srcs
    match computeLong (s.wg op.wg).desc.ftz op.instr l with
    | none => s
    | some r =>
      let d := match op.instr.isa? with
        | some (_, _, f) => f.d
        | none => 0xF0
      (s.landDsts o op.sid ln d [r.1]).modOp o (fun op => (op.addAst ln.thread r.2).laneDone ln.thread)

/-! ### Meanings: the instruction enters flight -/

/-- A special-function instruction enters flight; it waits at issue while the core's unit is busy, and occupies it for 16
threads of its issue group a core cycle (R149). -/
def specialOp (i : Instr) (f : Fields) (srcs : List (BitVec 8)) (is : Issue) (s : State) : Result :=
  let c := coreOf is.sid
  if s.time.core < (s.core c).sfu then .wait s
  else longOp i f srcs 1 is (s.modCore c (fun k => { k with sfu := s.time.core + ceilDiv is.group.length 16 }))

/-- `frcp` (R149). -/
def execFrcp (f : Fields) : State → Host.Outcome State Fault Refusal :=
  issued (.frcp f) (specialOp (.frcp f) f [f.a])

/-- `frsq` (R149). -/
def execFrsq (f : Fields) : State → Host.Outcome State Fault Refusal :=
  issued (.frsq f) (specialOp (.frsq f) f [f.a])

/-- `fsqrt` (R149). -/
def execFsqrt (f : Fields) : State → Host.Outcome State Fault Refusal :=
  issued (.fsqrt f) (specialOp (.fsqrt f) f [f.a])

/-- `fdiv` (R149). -/
def execFdiv (f : Fields) : State → Host.Outcome State Fault Refusal :=
  issued (.fdiv f) (specialOp (.fdiv f) f [f.a, f.b])

/-- `fexp2` (R149). -/
def execFexp2 (f : Fields) : State → Host.Outcome State Fault Refusal :=
  issued (.fexp2 f) (specialOp (.fexp2 f) f [f.a])

/-- `flog2` (R149). -/
def execFlog2 (f : Fields) : State → Host.Outcome State Fault Refusal :=
  issued (.flog2 f) (specialOp (.flog2 f) f [f.a])

/-- `fsin` (R149). -/
def execFsin (f : Fields) : State → Host.Outcome State Fault Refusal :=
  issued (.fsin f) (specialOp (.fsin f) f [f.a])

/-- `fcos` (R149). -/
def execFcos (f : Fields) : State → Host.Outcome State Fault Refusal :=
  issued (.fcos f) (specialOp (.fcos f) f [f.a])

/-- `ftanh` (R149). -/
def execFtanh (f : Fields) : State → Host.Outcome State Fault Refusal :=
  issued (.ftanh f) (specialOp (.ftanh f) f [f.a])

/-- `fsigm` (R149). -/
def execFsigm (f : Fields) : State → Host.Outcome State Fault Refusal :=
  issued (.fsigm f) (specialOp (.fsigm f) f [f.a])

/-- `fgelu` (R149). -/
def execFgelu (f : Fields) : State → Host.Outcome State Fault Refusal :=
  issued (.fgelu f) (specialOp (.fgelu f) f [f.a])

/-- `fsilu` (R149). -/
def execFsilu (f : Fields) : State → Host.Outcome State Fault Refusal :=
  issued (.fsilu f) (specialOp (.fsilu f) f [f.a])

end Sys2Proof.Machine
end

