-- ==== Sys2Proof/Machine/Completion.lean ====
section
/-! DEFINITION. LONG_LATENCY_COMPLETION: an operation in flight has written its destinations and its completion
flag counts down (R23 to R25, R80). -/

namespace Sys2Proof.Machine

/-- One lane of a computing, texture or ray operation lands, where it has not landed yet. -/
def State.landLane (s : State) (o t : Nat) : State :=
  match s.ops.get o with
  | none => s
  | some op =>
    match op.lanes.find? (fun l => l.thread = t && !l.done) with
    | none => s
    | some l =>
      match op.instr with
      | .tex _ | .texg _ | .texq _ => s.landTexture o op l
      | .trace f => s.landTrace o op l f
      | .hitRd f => s.landHit o op l f
      | _ => s.landCompute o l

/-- The lanes of an operation land in ascending order, up to the first that cannot. -/
def State.landLanes (s : State) (o : Nat) : List Nat → State
  | [] => s
  | t :: r =>
    let s := s.landLane o t
    match s.ops.get o with
    | some op => if op.lanes.any (fun l => l.thread = t && !l.done) then s else s.landLanes o r
    | none => s

/-- The lanes not yet landed land; with the last one the operation completes. -/
def State.landAll (s : State) (o : Nat) (op : LongOp) : State :=
  (s.landLanes o ((op.lanes.filter (!·.done)).map (·.thread))).tryComplete o

/-- A lane's destination registers will land one by one (R25). -/
def State.splitLane (s : State) (o t : Nat) : State :=
  s.modOp o (fun op => { op with lanes := op.lanes.map (fun l =>
    if l.thread = t ∧ !l.done then { l with split := true } else l) })

/-- Register `i` of those that a lane has still to land reaches its place (R25). -/
def State.landReg (s : State) (o t i : Nat) : State :=
  match s.ops.get o with
  | none => s
  | some op =>
    match op.lanes.find? (fun l => l.thread = t) with
    | none => s
    | some l =>
      let s := if s.opAlive op then s.landValues op.sid l ((l.late.drop i).take 1) else s
      (s.modOp o (fun op => { op with lanes := op.lanes.map (fun k =>
        if k.thread = t then { k with late := k.late.eraseIdx i } else k) })).tryEnd o

/-- The values that a lane's address fields hold now where `mask` says so, else those read at issue (R25). -/
def Lane.addrVals (l : Lane) (sh : Sheaf) (mask : Nat) : List Word :=
  l.addrs.mapIdx (fun i p => if bit mask i ∧ p.1.toNat < 0xF0 then sh.read 0 l.thread p.1 else p.2)

/-- Some register of which a lane takes the present value carries consume taint. -/
def Lane.addrTaint (l : Lane) (sh : Sheaf) (mask : Nat) : Bool :=
  (l.addrs.mapIdx (fun i p => bit mask i && decide (p.1.toNat < 0xF0) && sh.taintOf l.thread p.1)).any id

/-- The kind of an access to global memory. -/
def accessKind : Instr → Access
  | .st _ | .stSub _ | .stRel _ | .stk _ => .store
  | .red _ | .atom _ | .atomCas _ | .rcn _ | .vism _ => .atomic
  | _ => .load

/-- The access lacks no memory before it is at its home (R435). -/
def lateAccess : Instr → Bool
  | .st _ | .stSub _ | .stRel _ | .stk _ | .red _ => true
  | _ => false

/-- Lanes of an operation changed. -/
def State.modLanes (s : State) (o : Nat) (f : Lane → Lane) : State :=
  s.modOp o (fun op => { op with lanes := op.lanes.map f })

/-- An access in flight whose address fields give `vals` now, where the address so formed meets no fault; else nothing
changes (R25).  A row of an accumulator tile that `acc.rd` has read is read again while no write has come after. -/
def State.reForm (s : State) (o : Nat) (op : LongOp) (l : Lane) (vals : List Word) (tn : Bool) : State :=
  let put (s : State) (l' : Lane) : State :=
    s.modLanes o (fun k => if k.thread = l.thread then { l' with taint := l'.taint || tn, ataint := l'.ataint || tn } else k)
  match op.instr with
  | .lds f | .sts f | .ats f =>
    let n := match op.instr with
      | .ats _ => 4
      | _ => sizeBytes (f.mod 0 3)
    let a := opd vals 0 + opd vals 1
    if (s.scratchFault op.wg a n).isSome then s
    else
      let v := (s.scratchWg op.wg a).getD op.wg
      (put s { l with va := BitVec.ofNat 64 (scratchOff a), pa := BitVec.ofNat 64 v }).modCore op.core (fun k =>
        if v = op.wg then { k with fifo := if o ∈ k.fifo then k.fifo else k.fifo ++ [o] }
        else { k with rfifo := if o ∈ k.rfifo then k.rfifo else k.rfifo ++ [o] })
  | .ldw f =>
    let n := 4 * wideRegs (f.mod 0 2)
    let off := opd vals 0 + opd vals 1
    let die := dieOf op.core
    if ((s.die die).weightFault off.toNat n n 2).isSome then s
    else (put s { l with va := off.zeroExtend 64 }).settleRegions die
  | .accRd f =>
    let n := f.c.toNat
    let row := BitVec.ofNat 64 ((opd vals 0).toNat % 64)
    let col := (opd vals 1).toNat % 64
    if col % wideRegs (f.mod 0 2) ≠ 0 then s
    else if row = l.va then put s { l with pa := BitVec.ofNat 64 col }
    else if l.srcs = [] ∨ l.cells = (s.acc op.wg n).ver then
      (put s { l with va := row, pa := BitVec.ofNat 64 col, srcs := [] }).readRows op.wg n
    else s
  | .accLd f | .accSt f =>
    let fmt := f.mod 0 5
    let r := rowRange fmt f.imm
    let a := opd vals 0
    if (s.scratchFaultAl op.wg a ((r.2.1 - 1) * r.1 + rowBytes fmt 64) 1).isSome then s
    else
      let v := (s.scratchWg op.wg a).getD op.wg
      let ld := match op.instr with
        | .accLd _ => true
        | _ => false
      s.modLanes o (fun k =>
        let off := scratchOff a + (k.va.toNat - r.2.2) * r.1
        { k with
          off := off
          pa := BitVec.ofNat 64 v
          taint := k.taint || tn
          srcs := if ld then (s.scratchWords v off (rowBytes fmt 64)).map (fun x => (0xF0, x)) else k.srcs })
  | i =>
    let base : BitVec 64 := if vals.length = 2 then (opd vals 0).zeroExtend 64 else opd vals 1 ++ opd vals 0
    let va := base + (opd vals (vals.length - 1)).signExtend 64
    match s.place op.core op.ctx va.toNat (accessSize i) (accessKind i) (lateAccess i) op.priv with
    | (.ok lf, s') =>
      if lf.plural = l.leaf.plural ∧ lf.cell = l.leaf.cell ∧ (!lf.plural ∨ (s'.pregion (s'.ctx op.ctx) lf.pa).isSome) then
        put s' { l with va := va, pa := BitVec.ofNat 64 lf.pa, entry := lf.entry }
      else s
    | _ => s

/-- A lane of an operation in flight takes values that the program has written since into the registers of which it forms an
address or picks what it reads: those that `mask` names (R25). -/
def State.reAddr (s : State) (o t mask : Nat) : State :=
  match s.ops.get o with
  | none => s
  | some op =>
    if !s.opAlive op then s else
    match op.lanes.find? (fun l => l.thread = t && !l.done && l.applied.isNone && l.addrs != []) with
    | none => s
    | some l =>
      let sh := s.sheaf op.sid
      match op.instr with
      | .tex f => s.reTex o op l mask .tex f
      | .texg f => s.reTex o op l mask .texg f
      | .texq f => s.reTex o op l mask .texq f
      | _ => s.reForm o op l (l.addrVals sh mask) (l.addrTaint sh mask)

/-- An engine holds the matrix operation of an operation in flight. -/
def State.matrixHeld (s : State) (o : Nat) : Bool :=
  s.pods.any (fun p => (p.2.mul ++ p.2.sel).any (fun m => m.op == o))

/-- Where operation `o` stands in the way of no rule, it completes.  An operation with an event of its own for
its lanes (an access to global memory or to scratchpad, a blend) completes there unless no lane acts. -/
def State.completeLong (s : State) (o : Nat) (op : LongOp) : State :=
  match op.instr with
  | .accZ f => s.landAccZ o op f.d.toNat
  | .accCvt f => s.landAccCvt o op f
  | .hbias f => s.landHbias o op f
  | .accRd f => if op.lanes = [] then s.completeOp o else s.landAccRd o op f
  | .accLd f => if op.lanes = [] then s.completeOp o else s.landAccLd o op f
  | .accSt f => if op.lanes = [] then s.completeOp o else s.landAccSt o op f
  | .ldw f => if op.lanes = [] then s.completeOp o else s.landLdw o op f
  | .mma _ | .mmat _ | .mmas _ => if s.matrixHeld o then s else s.completeOp o
  | .tex _ | .texg _ | .texq _ | .trace _ | .hitRd _ => s.landAll o op
  | i =>
    if op.lanes = [] then s.completeOp o
    else if (computeLong false i []).isSome then s.landAll o op
    else s

/-- LONG_LATENCY_COMPLETION (R24, R80). -/
def execLongLatencyCompletion (op : Nat) (s : State) : Host.Outcome State Fault Refusal :=
  .next (match s.ops.get op with
    | some q => s.completeLong op q
    | none => s)

end Sys2Proof.Machine
end

