-- ==== Sys2Proof/Machine/Traps.lean ====
section
/-! DEFINITION. Special registers, system calls, handler entry and return, and the events of a sheaf that
traps (R92, R418 to R431, R436). -/

namespace Sys2Proof.Machine

/-! ### Special registers (R418) -/

/-- A selector that only the handler may use (R418). -/
def srPriv (n : Nat) : Bool := decide (0x20 ≤ n)

/-- A selector that `swr` may write (R418). -/
def srWritable (n : Nat) : Bool :=
  decide (n ∈ [0x00, 0x1A, 0x1B, 0x21, 0x22, 0x23, 0x24, 0x2C, 0x2D, 0x2E, 0x2F])

/-- The sheaf's register area (`scalar` false) or scalar area in its frame, 0 when none is assigned (R439). -/
def State.saveVa (s : State) (sh : Sheaf) (scalar : Bool) : Nat :=
  match (s.wg sh.wg).frame with
  | none => 0
  | some f => (s.ctx sh.ctx).frameVa f +
      (if scalar then 0x608000 + 512 * sh.idx else 0x080000 + 0xC000 * sh.idx)

/-- Half `i` of a 52-bit address. -/
def halfOf (x i : Nat) : Nat := if i = 0 then bits x 0 32 else bits x 32 20

/-- A workgroup's special register (R92, R352). -/
def Workgroup.sr (g : Workgroup) (n : Nat) : Nat :=
  match n with
  | 0x13 => g.desc.sheaves
  | 0x14 => g.wgid.toNat
  | 0x15 => 4 * g.team + 2 * b2n g.paired + g.pos
  | 0x1C => g.ty * 2 ^ 16 + g.tx
  | 0x1D => g.clip.toNat
  | _ => g.clipx.toNat

/-- A thread's special register (R79, R92, R289, R400, R418). -/
def Thread.sr (th : Thread) (n : Nat) : Nat :=
  match n with
  | 0x00 => th.ast.toNat
  | 0x03 => th.tbhi.toNat
  | 0x17 => bits th.xmask.toNat 0 32
  | 0x18 => bits th.xmask.toNat 32 32
  | 0x1B => th.mst.toNat
  | 0x1F => 2 * b2n th.helper + b2n th.raster.isSome
  | 0x21 => halfOf th.epc.toNat 0
  | 0x22 => halfOf th.epc.toNat 1
  | _ => (th.ks.getD (n - 0x2C) 0).toNat

/-- A sheaf's special register (R40, R92, R118, R186, R418). -/
def State.sheafSr (s : State) (sid : Nat) (n : Nat) : Nat :=
  let sh := s.sheaf sid
  match n with
  | 0x01 => ((List.range 12).map (fun k => b2n (decide (sh.flags.getD k 0 ≠ 0)) * 2 ^ k)).sum
  | 0x10 => Config.lanes
  | 0x11 => sh.width
  | 0x12 => sh.idx
  | 0x16 => sh.gen.toNat * 256 + slotOf sid
  | 0x19 => sh.regs
  | 0x1A => ((List.range 4).map (fun k => sh.tags.getD k 0 % 64 * 2 ^ (8 + 6 * k))).sum + b2n sh.cpoison
  | 0x20 => sh.cause.toNat
  | 0x23 => bits sh.live.toNat 0 32
  | 0x24 => bits sh.live.toNat 32 32
  | 0x25 => bits sh.fmask.toNat 0 32
  | 0x26 => bits sh.fmask.toNat 32 32
  | 0x27 => halfOf sh.fa.toNat 0
  | 0x28 => halfOf sh.fa.toNat 1
  | 0x29 => halfOf (s.saveVa sh false) 0
  | 0x2A => halfOf (s.saveVa sh false) 1
  | 0x2B => sh.ctx
  | 0x30 => halfOf (s.saveVa sh true) 0
  | _ => halfOf (s.saveVa sh true) 1

/-- The value that a thread reads from a special register (R418). -/
def State.srVal (s : State) (sid t n : Nat) : Word :=
  let sh := s.sheaf sid
  BitVec.ofNat 32 (
    if n = 0x02 then bits s.now 0 32
    else if n ∈ [0x00, 0x03, 0x17, 0x18, 0x1B, 0x1F, 0x21, 0x22, 0x2C, 0x2D, 0x2E, 0x2F] then (sh.thread t).sr n
    else if n ∈ [0x13, 0x14, 0x15, 0x1C, 0x1D, 0x1E] then (s.wg sh.wg).sr n
    else s.sheafSr sid n)

/-- Some acting thread is not privileged. -/
def Issue.common (is : Issue) (s : State) : Bool := is.act.any (fun t => !((s.sheaf is.sid).thread t).priv)

/-- `srd` (R418, R419): a read of `sr.tlo` latches the high half for `sr.thi`. -/
def execSrd (f : Fields) : State → Host.Outcome State Fault Refusal :=
  issued (.srd f) fun is s =>
    let n := f.mod 0 6
    if srPriv n && is.common s then is.illegal s
    else
      let s' := s.writeLanes is.sid f.d 1 (is.act.map (fun t => ⟨t, [(s.srVal is.sid t n, false)], 0⟩))
      .done (if n = 0x02 then s'.modSheaf is.sid (fun sh => each is.act (fun t sh =>
          sh.modThread t (fun th => { th with tbhi := BitVec.ofNat 32 (bits s.now 32 32) })) sh)
        else s')

/-- A thread's special register written (R79, R289, R418, R420). -/
def Thread.setSr (th : Thread) (n : Nat) (x : Word) : Thread :=
  match n with
  | 0x00 => { th with ast := x &&& 0xFF }
  | 0x1B => { th with mst := x.extractLsb' 0 2 }
  | 0x21 => { th with epc := 0#12 ++ th.epc.extractLsb' 32 20 ++ (x &&& 0xFFFFFFF8), mid := none, wait := none, ends := default }
  | 0x22 => { th with epc := 0#12 ++ x.extractLsb' 0 20 ++ (th.epc.extractLsb' 0 32 &&& 0xFFFFFFF8), mid := none, wait := none, ends := default }
  | _ => { th with ks := th.ks.set (n - 0x2C) x }

/-- A sheaf's special register written (R186, R418, R420). -/
def Sheaf.setSr (sh : Sheaf) (n : Nat) (x : Word) : Sheaf :=
  match n with
  | 0x1A => { sh with cpoison := x.getLsbD 0 }
  | 0x23 => { sh with live := sh.live.extractLsb' 32 32 ++ x }
  | _ => { sh with live := x ++ sh.live.extractLsb' 0 32 }

/-- `swr` (R420). -/
def execSwr (f : Fields) : State → Host.Outcome State Fault Refusal :=
  issued (.swr f) fun is s =>
    let n := f.mod 0 6
    if is.act = [] then .done s
    else if !srWritable n || (srPriv n && is.common s) then is.illegal s
    else
      let sh := s.sheaf is.sid
      if n ∈ [0x1A, 0x23, 0x24] then .done (s.modSheaf is.sid (fun sh' => sh'.setSr n (sh.read f.imm is.lead f.a)))
      else .done (s.modSheaf is.sid (fun sh' => each is.act (fun t sh' =>
        sh'.modThread t (fun th => th.setSr n (sh.read f.imm t f.a))) sh'))

/-! ### System calls (R422, R423) -/

/-- Virtual address of a context's system-call record `k` (R422). -/
def Ctx.callVa (c : Ctx) (k : Nat) : Nat := c.field 845 46 * 64 + 64 * (k % 2 ^ (c.field 841 4 + 4))

/-- The 64-byte record of a system call (R422). -/
def callRecord (time arg code mask ctx core slot gen : Nat) : List Byte :=
  natBytes 64 (cat [(time, 64), (arg, 64), (code, 32), (mask, 64), (ctx, 32), (core, 8), (slot, 6), (gen, 24),
    (0, 152), (1, 2), (0, 32), (0, 32)])

/-- The trapping threads park at the word after `trap`; where it is the clause's last word the clause's end
moves them on (R423, R425). -/
def Sheaf.parkCall (sh : Sheaf) (act : List Nat) (words : Nat) : Sheaf :=
  match sh.run with
  | none => sh
  | some r =>
    if r.k + words < r.words.length then sh.parkAt act r.pc (some (r.k + words)) .sysCall
    else each act (fun t sh => sh.modThread t (fun th => { th with st := .parked .sysCall })) sh

/-- `trap` (R422, R423): it waits at issue for its record and as a release at system scope; then the record is posted and the trapping threads park. -/
def execTrap (f : Fields) : State → Host.Outcome State Fault Refusal :=
  issued (.trap f) fun is s =>
    if is.act = [] then .done s
    else
      let sh := s.sheaf is.sid
      let c := coreOf is.sid
      let k := (s.ctx sh.ctx).calls
      let va := (s.ctx sh.ctx).callVa k
      let priv := (sh.thread is.lead).priv
      if !s.fenceOk is.sid is.act 4 then .wait s
      else if !s.peersAcked c sh.wg (s.wordRel is.sid) then .wait (s.awaitWord is.sid)
      else match s.devNum sh.ctx (va + 8) 1 true (some (baseOfCore c)) with
        | (none, s) => .wait s
        | (some st, s) =>
          if st % 4 = 1 ∨ st % 4 = 2 then .wait s
          else
            let arg := (sh.readPair f.imm is.lead f.a false).toNat
            match s.devStore sh.ctx va (callRecord s.now arg f.imm.toNat (maskOf is.act).toNat sh.ctx c (slotOf is.sid) sh.gen.toNat) true none (some (baseOfCore c)) with
            | (.error _, s) => .wait s
            | (.ok _, s) =>
              let s := (s.modCtx sh.ctx (fun q => { q with calls := q.calls + 1 })).interrupt 1
              .done (s.modSheaf is.sid (fun sh =>
                { sh.parkCall is.act 2 with calls := sh.calls ++ [⟨k, maskOf is.act, f.d, priv, sh.taintRun is.lead f.a (if single f.a then 1 else 2)⟩] }))

/-- An answered call: D is written, tainted as the call's argument is, STATE becomes 0, and the parked threads are
ready, but those of another call that waits (R39, R423). -/
def State.answer (s : State) (sid : Nat) (c : SysCall) (x : Word) : State :=
  let ctx := (s.sheaf sid).ctx
  let s := s.modSheaf sid (fun sh =>
    let sh := sh.writeGroup c.d (((bitsOf 64 c.mask).filter (fun t => !sh.exited t)).map (fun t => (t, x, c.taint)))
    let left := sh.calls.filter (fun q => q != c)
    { sh with
      calls := left
      threads := sh.threads.mapIdx (fun t th =>
        if th.st = .parked .sysCall ∧ !left.any (fun q => q.mask.getLsbD t) then th.wake else th) })
  let s := (s.devStore ctx ((s.ctx ctx).callVa c.index + 8) [0] true none (some (baseOfCore (coreOf sid)))).2
  s.acquired (coreOf sid) ctx (some 4)

/-- The first call of a list whose record the host has answered, and whose threads are parked for it or have exited
since, is completed (R423, R429). -/
def State.answerFirst (sid : Nat) : List SysCall → State → State
  | [], s => s
  | c :: l, s =>
    let sh := s.sheaf sid
    if (bitsOf 64 c.mask).any (fun t => (sh.thread t).st ≠ .parked .sysCall && !sh.exited t) then State.answerFirst sid l s
    else match s.devNum sh.ctx ((s.ctx sh.ctx).callVa c.index) 16 true (some (baseOfCore (coreOf sid))) with
      | (none, s) => State.answerFirst sid l s
      | (some x, s) => if bits x 64 2 = 2 then s.answer sid c (BitVec.ofNat 32 x) else State.answerFirst sid l s

/-- SYSTEM_CALL_ANSWERED (R423): the host has set the record's STATE to 2. -/
def execSystemCallAnswered (sid : Nat) (s : State) : Host.Outcome State Fault Refusal :=
  .next (
    let sh := s.sheaf sid
    if sh.entry.isSome then s
    else State.answerFirst sid (sh.calls.filter (fun c => c.priv == sh.inHandler)) s)

/-! ### Parking and handler entry (R425, R426, R430) -/

/-- SHEAF_PARK (R425, R423): the threads of a sheaf that must enter its handler, or that waits for the answer
of a system call, park. -/
def execSheafPark (sid : Nat) (s : State) : Host.Outcome State Fault Refusal :=
  .next (
    let sh := s.sheaf sid
    match sh.entry with
    | some e => s.modSheaf sid (fun sh => sh.parkRest (if e.code = 0x19 then .doubleFault else .handler))
    | none => if sh.calling then s.modSheaf sid (fun sh => sh.parkReady .sysCall) else s)

/-- HANDLER_ENTRY (R426, R427): a sheaf that has parked and drained enters its handler. -/
def execHandlerEntry (sid : Nat) (s : State) : Host.Outcome State Fault Refusal :=
  .next (
    let sh := s.sheaf sid
    match sh.entry with
    | none => s
    | some e =>
      if e.code = 0x19 ∨ sh.inHandler ∨ !sh.allParked ∨ !sh.drained ∨ sh.liveThreads = [] then s
      else s.modSheaf sid (fun sh => sh.enterHandler (BitVec.ofNat 64 (s.ctx sh.ctx).handler) e))

/-- DOUBLE_FAULT (R430): the sheaf parks without entering its handler again; CODE 0x19 is reported with the
inner code in SUB. -/
def execDoubleFault (sid : Nat) (s : State) : Host.Outcome State Fault Refusal :=
  .next (
    let sh := s.sheaf sid
    match sh.entry with
    | none => s
    | some e =>
      if e.code ≠ 0x19 ∨ sh.run.isSome then s
      else
        let s := s.modSheaf sid (fun sh => { sh.parkRest .doubleFault with entry := none })
        s.contextFault sh.ctx { code := 0x19, sub := e.sub.toNat, pc := e.pc.toNat, addr := e.addr.toNat, gen := sh.gen.toNat, slot := slotOf sid, core := coreOf sid, die := baseOfCore (coreOf sid), mask := e.mask.toNat } (some sid))

/-! ### Leaving the handler (R429, R436) -/

/-- Every thread of a sheaf exits (R429, R434): nothing of the handler or of a call is left. -/
def State.killSheaf (s : State) (sid : Nat) : State :=
  let s := each (List.range (s.sheaf sid).width) (fun t s => s.releaseToken sid t) s
  s.modSheaf sid (fun sh => { sh with
    threads := sh.threads.map (fun th => { th with st := .exited, priv := false, wait := none })
    run := none
    entry := none
    calls := []
    inHandler := false
    cause := 0
    live := 0 })

/-- The return of an issue group to its threads' resume addresses; threads whose live bit is 0 exit and give
their token shares back (R407, R429). -/
def State.leave (s : State) (sid : Nat) (act : List Nat) : State :=
  let sh := s.sheaf sid
  let hold : Option Park := if s.halted sh.ctx || s.heldOn (coreOf sid) sh.ctx then some .resume else none
  (s.releaseDead sid act).modSheaf sid (fun sh => sh.leaveHandler act hold)

/-- `tret` (R429, R436): a full fence at device scope, then resumption, eviction or the sheaf's end. -/
def execTret (f : Fields) : State → Host.Outcome State Fault Refusal :=
  issued (.tret f) fun is s =>
    let sh := s.sheaf is.sid
    let c := coreOf is.sid
    if is.act = [] then .done s
    else if is.common s then is.illegal s
    else if !s.fenceOk is.sid is.act 3 then .wait s
    else
      let done (s : State) : State :=
        (if is.act = is.group then s.endClause is.sid else s).acquired c sh.ctx (some 3)
      match f.mod 0 2 with
      | 1 =>
        if s.opsOf is.sid ≠ [] ∨ !sh.drained ∨ s.tokenBusy is.sid then .wait s
        else match s.takeFrame sh.wg with
          | none => .wait s
          | some s => .done ((done s).evictSheaf is.sid)
      | 2 => .done ((done s).killSheaf is.sid)
      | _ => .done ((done s).leave is.sid is.act)

end Sys2Proof.Machine
end

