-- ==== Sys2Proof/Machine/Retire.lean ====
section
/-! DEFINITION. Closing output edges, drains, the retirement of tiles, passes, graphs and workgroups, the ends
of reads, the fills of staging tiles from the rings, and ring queries (R100, R331, R333, R356, R359, R361,
R363, R365, R366, R387). -/

namespace Sys2Proof.Machine

/-! ### `tile.ret` (R359, R365) -/

/-- Output edges that a workgroup may close: those of its pass, one for a recipe slice, none for a batch. -/
def State.edgeCount (s : State) (w : Nat) : Nat :=
  let q := s.wg w
  match q.work with
  | .tile => ((s.graph q.graph).outs q.pass).length
  | .recipe _ => 1
  | .batch _ => 0

/-- A workgroup is launched for a tile. -/
def Workgroup.forTile (q : Workgroup) : Bool :=
  match q.work with
  | .batch _ => false
  | _ => true

/-- A drain that closing edges `ks` asks for is held by a remapping step (R322). -/
def State.drainHeld (s : State) (w : Nat) (ks : List Nat) : Bool :=
  let q := s.wg w
  let g := s.graph q.graph
  match q.work with
  | .tile => ks.any (fun k => let r := g.res ((g.outs q.pass).getD k default).res; r.cls == 1 && (s.base r.die).ring.hold)
  | .recipe c => (s.base (g.res (g.recipe c).target).die).ring.hold
  | .batch _ => false

/-- The leader workgroup of team 0 has executed `tile.ret` on edges `ks`; a slice has on its output. -/
def State.leaderRet (s : State) (w : Nat) (ks : BitVec 24) : State :=
  let q := s.wg w
  match q.work with
  | .tile =>
    if q.team = 0 ∧ q.pos = 0 then
      s.modTile q.graph q.pass q.tile (fun r => { r with leader := r.leader ||| (ks &&& ~~~ r.done_) })
    else s
  | .recipe _ => s.modGraph q.graph (fun g => { g with chains := g.chains.map (fun (c : Nat × Chain) =>
      (c.1, if c.2.launched = some w then { c.2 with ret := true } else c.2)) })
  | .batch _ => s

/-- `tile.ret` (R359, R360, R365): a release at device scope at issue, then the edges are closed for the acting
threads; a closed edge stays closed. -/
def execTileRet (f : Fields) : State → Host.Outcome State Fault Refusal :=
  issued (.tileRet f) fun is s =>
    let w := s.wgOf is.sid
    let n := s.edgeCount w
    let all : Bool := f.mod 5 1 == 1
    let k := f.mod 0 5
    if !(s.wg w).forTile || (all && k != 0) || (!all && decide (n ≤ k)) then is.illegal s
    else if is.act = [] then .done s
    else
      let ks := if all then List.range n else [k]
      let m : BitVec 24 := ks.foldl (fun m k => m ||| BitVec.ofNat 24 (2 ^ k)) 0
      if !s.fenceOk is.sid is.act 3 ∨ s.drainHeld w ks then .wait s
      else
        let sh := s.sheaf is.sid
        let new := is.act.foldl (fun (x : BitVec 24) t => x ||| (m &&& ~~~ (sh.thread t).closed)) 0
        .done ((s.modSheaf is.sid (fun sh => each is.act (fun t sh =>
          sh.modThread t (fun th => { th with closed := th.closed ||| m })) sh)).leaderRet w new)

/-! ### Edges done and drains (R333, R359) -/

/-- Every thread of a workgroup has closed edge `k`. -/
def State.closedIn (s : State) (w k : Nat) : Bool :=
  let q := s.wg w
  let open_ (th : Thread) : Bool := th.st != .exited && !th.closed.getLsbD k
  match q.stage with
  | .retired => true
  | .running | .saved =>
    (s.seated w).all (fun sid => let sh := s.sheaf sid; sh.threads != [] && !sh.threads.any open_) &&
    q.saved.all (fun p => (List.range p.2.threads.length).all (fun t => !p.2.live.getLsbD t || !open_ (p.2.thread t)))
  | _ => false

/-- A held tile is tried again, in dispatch order, when a slot or entry may have been released (R334). -/
def State.retryHeld (s : State) (n : Nat) : State :=
  let g := s.graph n
  if s.halted g.ctx then s
  else
    let l : Tab (Nat × Nat) := (List.range g.passes.length).foldl (fun (l : Tab (Nat × Nat)) p =>
      (g.run p).tiles.foldl (fun (l : Tab (Nat × Nat)) x =>
        if x.2.board = .held then l.put (g.tileKey p x.1) (p, x.1) else l) l) []
    each l (fun x s => State.dispatchFirst (g.unit_ x.2.1) [(x.1, n, x.2.1, x.2.2)] s) s

/-- The leader workgroup of team 0 of a tile. -/
def TileRun.lead (r : TileRun) : Nat := r.wgs.headD 0

/-- The staging tile of output edge `e` is still bound in workgroup `w`. -/
def State.bound (s : State) (w : Nat) (e : Edge) : Bool := (s.tile w e.tile).kind == 1

/-- A tile whose edges are all done is draining. -/
def State.checkDraining (s : State) (n p t : Nat) : State :=
  let k := ((s.graph n).outs p).length
  s.modTile n p t (fun r => if r.board = .running ∧ (List.range k).all (fun i => r.done_.getLsbD i) then
    { r with board := .draining } else r)

/-- The staging tile of a done edge, once it is ready, begins to drain (R170, R359). -/
def State.beginDrain (s : State) (n p t k : Nat) : State :=
  match ((s.graph n).outs p)[k]?, s.tileRun n p t with
  | some e, some r =>
    if (s.tile r.lead e.tile).state ≠ .ready then s
    else
      (s.modTileN r.lead e.tile (fun x => { x with
        state := .draining
        pend := BitVec.ofNat 20 x.fillB })).modTile n p t (fun r => { r with begun := r.begun ||| BitVec.ofNat 24 (2 ^ k) })
  | _, _ => s

/-- EDGE_DONE (R359): no thread of the tile's teams has the edge open any more; its staging tile is to be
drained, or the resource tile becomes unwritten. -/
def execEdgeDone (n p t k : Nat) (s : State) : Host.Outcome State Fault Refusal :=
  .next (
    let g := s.graph n
    match (g.outs p)[k]?, s.tileRun n p t with
    | some e, some r =>
      if r.board ≠ .running ∨ r.done_.getLsbD k ∨ r.placed ≠ (g.pass p).teams ∨ !r.wgs.all (fun w => s.closedIn w k) then s
      else
        let bit : BitVec 24 := BitVec.ofNat 24 (2 ^ k)
        let trans : Bool := (g.res e.res).cls == 1
        let drains : Bool := trans && r.leader.getLsbD k && s.bound r.lead e
        let s := s.modTile n p t (fun r => { r with
          done_ := r.done_ ||| bit
          drained := if drains then r.drained else r.drained ||| bit })
        let s := if drains then s.beginDrain n p t k else s
        let s := if trans && !drains then (s.modGraph n (fun g => g.unwrite e.res t)).retryHeld n else s
        s.checkDraining n p t
    | _, _ => s)

/-- The bytes of a drained staging tile, as many as the resource's tag gives it, go to the slot or entry of ring tile `i`
of resource `r`: the state, or nothing where they cannot be written yet (R256). -/
def State.drainTo (s : State) (n r i w k : Nat) : Option State × State :=
  let g := s.graph n
  let c := (s.wg w).core
  let s := s.flushScratch c false
  if !s.scratchClear c false then (none, s)
  else match s.writeRing n r i (s.tileImage w { s.tile w k with dom := (g.res r).dom }) with
  | .ok s => (some (s.modTileN w k Tile.toEmpty), s)
  | .error (0, va) => (none, s.engineReplay g.ctx va true 255)
  | .error (20, _) => (none, s)
  | .error (e, va) => (none, if s.halted g.ctx then s else s.engineFault g.ctx e 0 va 255 8 (g.res r).die)

/-- DRAIN_COMPLETE (R333, R359): the staging tile of a done edge begins to drain once it is ready, and is drained whole into
its slot or overflow entry; where the program has released it first, nothing is drained. -/
def execDrainComplete (n p t k : Nat) (s : State) : Host.Outcome State Fault Refusal :=
  .next (
    let g := s.graph n
    match (g.outs p)[k]?, s.tileRun n p t with
    | some e, some r =>
      let bit : BitVec 24 := BitVec.ofNat 24 (2 ^ k)
      if !r.done_.getLsbD k ∨ r.drained.getLsbD k ∨ !(s.wg r.lead).resident then s
      else if !r.begun.getLsbD k then
        if s.bound r.lead e then s.beginDrain n p t k
        else ((s.modGraph n (fun g => g.unwrite e.res t)).modTile n p t (fun r => { r with drained := r.drained ||| bit })).retryHeld n
      else if (s.base (g.res e.res).die).ring.hold ∨ (s.tile r.lead e.tile).state ≠ .draining then s
      else match s.drainTo n e.res t r.lead e.tile with
        | (none, s) => s
        | (some s, _) =>
          ((s.modGraph n (fun g => g.drained e.res t)).modTile n p t (fun r => { r with
            drained := r.drained ||| bit })).retryHeld n
    | _, _ => s)

/-- REMAPPING_STEP_END (R322, R323, R334): the transfers have landed; the tiles that a lost bank held are gone, the extents
stand below the new capacity, the registers show the new map, and held tiles are tried again. -/
def execRemappingStepEnd (d : Nat) (s : State) : Host.Outcome State Fault Refusal :=
  .next (
    let r := (s.base d).ring
    if !r.busy ∨ r.rotating.isSome then s
    else
      let s := s.loseTiles d
      let banks := banksOf r.target
      let s := s.readWords d (s.carries d (packExtents 0 r.extents) true)
      let s := s.modRing d (fun r =>
        { r.relocate banks.dropLast (packExtents 0 r.extents) with
          avail := r.target
          lost := 0
          thermal := r.thermal &&& r.target
          spare := banks.getLastD 0
          go := false
          busy := false
          hold := false
          res := 0 })
      each ((s.graphs.filter (fun p => p.2.stage = .admitted && p.2.ress.any (fun q => q.cls = 1 && q.die = d))).map (·.1))
        (fun n s => s.retryHeld n) s)

/-! ### The retirement of tiles, passes and graphs (R356, R361, R363) -/

/-- Stands for a whole pass in a retire notice. -/
def wholePass : Nat := 2 ^ 14

/-- Some pass homed on die `d` has an IN or ORDER edge from pass `p`. -/
def Graph.consumerOn (g : Graph) (p d : Nat) : Bool :=
  (List.range g.passes.length).any (fun q => (g.pass q).home == d && (g.edgesOf q).any (fun e => e.dir != 1 && e.prod == p))

/-- A retire known at a die. -/
def PassRun.learn (r : PassRun) (d t : Nat) : PassRun :=
  if t = wholePass then { r with passKnown := r.passKnown.set d true }
  else { r with known := modAt r.known d (fun l => t :: l) }

/-- A tile of a pass, or a node as a whole, has retired: its home knows, and the other die is told (R363). -/
def State.tellRetire (s : State) (n p t : Nat) : State :=
  let g := s.graph n
  let d := (g.pass p).home
  let s := s.modPassRun n p (fun r => r.learn d t)
  if g.consumerOn p (1 - d) then
    s.modBase (1 - d) (fun b => { b with notices := b.notices ++ [⟨n, p, t⟩] })
  else s

/-- A pass has retired (R361); the time is kept for the trail. -/
def State.passRetired (s : State) (n p : Nat) : State :=
  let g := s.graph n
  (s.modPassRun n p (fun r => { r with
    retired := true
    retiredAt := s.now
    passKnown := r.passKnown.set (g.pass p).home true })).formAll n

/-- A late-mode tile's hierarchical depths, before it retires (R398): nothing where an access waits. -/
def State.finishRaster (s : State) (n p t : Nat) (r : TileRun) : Option State × State :=
  let g := s.graph n
  let e := g.pass p
  match r.stream with
  | none => (some s, s)
  | some st =>
    if !e.desc.discard ∧ !e.desc.depthout then (some s, s)
    else match lateHz st (t % e.w) (t / e.w) ⟨s, (s.wg r.lead).core, g.ctx, false, none, 0⟩ with
      | .ok x => (some (match x.poison with
          | some va => s.contextFault g.ctx { code := 0x11, addr := va, core := (s.wg r.lead).core, die := e.home } none
          | none => x.s), x.s)
      | .error (0, va, wr) => (none, s.engineReplay g.ctx va wr 255)
      | .error (20, _, _) => (none, s)
      | .error (c, va, _) => (none, if s.halted g.ctx then s else s.engineFault g.ctx c 0 va 255 0 e.home)

/-- TILE_RETIRE (R356, R361, R363): every drain is complete; a tile with no output edge retires with its last
team, and so does one whose hierarchical depths late mode updates then (R398). -/
def execTileRetire (n p t : Nat) (s : State) : Host.Outcome State Fault Refusal :=
  .next (
    let g := s.graph n
    match s.tileRun n p t with
    | none => s
    | some r =>
      let k := (g.outs p).length
      let ended : Bool := r.placed == (g.pass p).teams && r.ended == r.wgs.length
      let hz : Bool := match r.stream with
        | some st => (rasterOf st.record).hz
        | none => false
      let late : Bool := hz && ((g.pass p).desc.discard || (g.pass p).desc.depthout)
      let ready : Bool := if k = 0 then r.board == .running && ended
        else r.board == .draining && (List.range k).all (fun i => r.drained.getLsbD i) && (!late || ended)
      if !ready then s
      else match s.finishRaster n p t r with
        | (none, s) => s
        | (some s, _) =>
          let s := (s.modTile n p t (fun r => { r with board := .retired })).tellRetire n p t
          let x := s.passRun n p
          if x.tiles.length = (g.pass p).count ∧ x.tiles.all (fun q => q.2.board == .retired) then s.passRetired n p
          else s)

/-- RETIRE_NOTICE (R363): the oldest notice on its way to a die arrives; `k` other than 0 would overtake it. -/
def execRetireNotice (d k : Nat) (s : State) : Host.Outcome State Fault Refusal :=
  .next (match (s.base d).notices with
    | [] => s
    | x :: l =>
      if k ≠ 0 ∨ 2 ≤ d then s
      else
        let s := s.modBase d (fun b => { b with notices := l })
        let s := s.modPassRun x.graph x.pass (fun r =>
          let r := r.learn d x.tile
          if ((r.known.getD d []).length = ((s.graph x.graph).pass x.pass).count ∧ x.tile ≠ wholePass) then
            { r with passKnown := r.passKnown.set d true }
          else r)
        s.formAll x.graph)

/-- NODE_RETIRE (R387): every feeder has retired, no record waits, every batch workgroup has retired. -/
def execNodeRetire (n p : Nat) (s : State) : Host.Outcome State Fault Refusal :=
  .next (
    let g := s.graph n
    let r := g.run p
    if g.stage ≠ .admitted ∨ g.passes.length ≤ p ∨ (g.pass p).kind ≠ 1 ∨ !r.entered ∨ r.retired ∨ !g.fed p ∨
      r.queue ≠ [] ∨ r.coming ≠ [] ∨ r.live ≠ 0 then s
    else (s.tellRetire n p wholePass).passRetired n p)

/-- A retired graph whose workgroups have all retired and whose completion word is written is forgotten. -/
def State.forgetGraph (s : State) (n : Nat) : State :=
  match s.graphs.get n with
  | none => s
  | some g =>
    if g.stage = .retired ∧ g.owing = none ∧ s.wgs.all (fun p => p.2.graph != n || p.2.stage == .retired) then
      { s.dropGraph n with wgs := s.wgs.filter (fun p => p.2.graph ≠ n) }
    else s

/-- A graph's ring extents are released. -/
def State.freeExtents (s : State) (n : Nat) : State :=
  { s with bases := s.bases.map (fun (p : Nat × BaseDie) =>
      (p.1, { p.2 with ring := { p.2.ring with extents := p.2.ring.extents.filter (fun e => e.graph ≠ n) } })) }

/-- The trail's stamps of a graph that retires: the last retire of each pass at the time of that retire, then the graph
(R361, R457). -/
def State.stampRetired (s : State) (g : Graph) : State :=
  let s := if g.trail then
      each (g.runs.mapIdx (fun p r => (p, r))) (fun q s =>
        s.trail { event := 4, graph := g.va.toNat, pass := q.1, ctx := g.ctx, time := some q.2.retiredAt }) s
    else s
  s.trail { event := 5, graph := g.va.toNat, ctx := g.ctx }

/-- GRAPH_RETIRE (R361): every pass has retired and every drain and recipe has ended; the extents and reservations are
released, DONEVAL is owed to DONEVA and the trail is stamped.  A completion word that is still owed is tried again. -/
def execGraphRetire (n : Nat) (s : State) : Host.Outcome State Fault Refusal :=
  .next (match s.graphs.get n with
    | none => s
    | some g =>
      if g.stage = .retired then (s.payCompletion n).forgetGraph n
      else if g.stage ≠ .admitted ∨ !g.runs.all (·.retired) ∨ g.chains ≠ [] then s
      else
        let s := (s.freeExtents n).modGraph n (fun g => { g with
          stage := .retired
          resv := []
          owing := some g.doneval })
        let s := (s.payCompletion n).stampRetired g
        (s.modRegs (fun r => if r.ttGraph = some n then { r with ttGraph := none } else r)).forgetGraph n)

/-! ### The retirement of workgroups (R100, R386, R387, R407) -/

/-- Records of a context that satisfy a condition go back to their pools. -/
def State.freeRecs (s : State) (ctx : Nat) (l : List (BitVec 32)) : State :=
  each l (fun h s => s.modRecs ctx (fun t => t.del (handleKey h))) s

/-- What a drain still has to read stands in the workgroup. -/
def State.owesDrain (s : State) (w : Nat) : Bool :=
  let q := s.wg w
  match q.work with
  | .tile =>
    if q.team = 0 ∧ q.pos = 0 then
      (match s.tileRun q.graph q.pass q.tile with
        | some r => (r.leader &&& ~~~ r.drained) != 0
        | none => false)
    else false
  | .recipe _ => (s.graph q.graph).chains.any (fun c => c.2.launched == some w && c.2.ret)
  | .batch _ => false

/-- A workgroup has ended: every sheaf has retired, and no engine has anything of it in hand. -/
def State.wgEnded (s : State) (w : Nat) : Bool :=
  let q := s.wg w
  q.stage == .running && s.seated w == [] && q.saved == [] && s.wgQuiet w false &&
    (s.graph q.graph).fills.all (fun f => f.2.wg != w) && !s.owesDrain w

/-- What the end of a workgroup means for the work it was launched for. -/
def State.workEnded (s : State) (q : Workgroup) : State :=
  match q.work with
  | .tile => s.modTile q.graph q.pass q.tile (fun r => { r with ended := r.ended + 1 })
  | .batch hs => (s.freeRecs q.ctx hs).modPassRun q.graph q.pass (fun r => { r with live := r.live - 1 })
  | .recipe _ => s

/-- WORKGROUP_RETIRE (R100): its scratchpad, tiles, threshold registers and accumulator tiles are released, and
the records that it owns are discarded. -/
def execWorkgroupRetire (w : Nat) (s : State) : Host.Outcome State Fault Refusal :=
  .next (
    let q := s.wg w
    if (s.wgs.get w).isNone ∨ !s.wgEnded w then s
    else
      let bank := bankBytes (((s.core q.core).fmt.get q.ctx).getD [])
      let s := (s.giveFrame w).freeRecs q.ctx q.owned
      let s := s.modWg w (fun q => { q with
        stage := .retired
        scratch := []
        tiles := []
        thr := []
        acc := []
        owned := [] })
      let s := s.saveBank q.core q.ctx bank
      (s.workEnded q).forgetGraph q.graph)

/-! ### The ends of reads (R331) -/

/-- Workgroup `w` has released every staging tile bound to tile `i` of resource `r`, or has retired. -/
def State.released (s : State) (w r i : Nat) (staged : Bool) : Bool :=
  let q := s.wg w
  q.stage == .retired || (staged && q.stage != .placed && q.tiles.all (fun t =>
    !(t.kind == 1 && t.user.extractLsb' 7 25 == (bindingUser 0 r i 0).extractLsb' 7 25)))

/-- Some staged IN edge of pass `p` names tile `i` of resource `r` for tile `t`. -/
def Graph.stagedRead (g : Graph) (p t r i : Nat) : Bool :=
  (g.ins p).any (fun e => e.stage && e.res == r && decide (i ∈ g.edgeTiles p t e))

/-- READ_END (R331): the read of ring tile `i` of resource `r` by tile `t` of pass `p` ends; `k` counts
(p, t, r, i) with 14, 10 and 14 bits for t, r and i. -/
def execReadEnd (n k : Nat) (s : State) : Host.Outcome State Fault Refusal :=
  .next (
    let i := bits k 0 14
    let r := bits k 14 10
    let t := bits k 24 14
    let p := k / 2 ^ 38
    let g := s.graph n
    match s.tileRun n p t with
    | none => s
    | some x =>
      if g.stage ≠ .admitted ∨ (g.res r).cls ≠ 1 ∨ i ∉ g.reads p t r ∨ (r, i) ∈ x.reads ∨ x.placed ≠ (g.pass p).teams ∨
        !x.wgs.all (fun w => s.released w r i (g.stagedRead p t r i)) then s
      else ((s.modTile n p t (fun x => { x with reads := (r, i) :: x.reads })).modGraph n (fun g => g.endRead r i)).retryHeld n)

/-! ### Fills from the rings (R170, R326, R341, R351, R366) -/

/-- Who asks for a fill: the pass and tile of its workgroup, or its recipe, and the word of its query. -/
def State.askerOf (s : State) (f : RingFill) (reason : Nat) : Asker :=
  let q := s.wg f.wg
  match q.work with
  | .recipe k => { reason := reason, pc := f.pc, recipe := k, depth := (((s.graph q.graph).chainOf f.wg).map (·.depth)).getD 0 }
  | _ => { reason := reason, pc := f.pc, pass := q.pass, tile := q.tile }

/-- A fill of a staging tile lands: its bytes, PEND and POISON, and the fault of what could not be read. -/
def State.landFill (s : State) (n k : Nat) (q : RingFill) (f : Fetch) : State :=
  let t := s.tile q.wg q.tile
  let s := s.landImage q.wg t f.bytes
  let s := s.modTileN q.wg q.tile (fun t => { t.land t.fillB f.poison with uses := t.uses - 1 })
  let s := s.modGraph n (fun g =>
    Graph.settle settleFuel q.res q.idx { g with fills := g.fills.del k })
  let s := s.retryHeld n
  match f.fault with
  | some (code, la) => s.ringFault n q.res q.idx code la (s.askerOf q 0)
  | none => s

/-- A fill meets a transient miss: it is held (R341). -/
def State.missFill (s : State) (n k : Nat) (q : RingFill) (reason : Nat) : State :=
  (s.ringFault n q.res q.idx 0x15 (s.slotLa n q.res q.idx) (s.askerOf q reason)).modGraph n (fun g =>
    { g with fills := g.fills.mod k (fun f => { f with held := true }) })

/-- A read of a free or unwritten tile is a transient miss, on RESUME again (R341, R477); of any other tile, none. -/
def State.missAt (s : State) (n k : Nat) (q : RingFill) : Option State :=
  let g := s.graph n
  let miss (reason : Nat) : Option State := some (if s.halted g.ctx then s else s.missFill n k q reason)
  match (g.ringTile q.res q.idx).st with
  | .free => miss 1
  | .unwritten => miss 2
  | _ => none

/-- A fill that can be served now is served.  DESIGN CHOICE (log 86): one that outlives its graph, whose extents have
been released, delivers undefined bytes. -/
def State.serveFill (s : State) (n k : Nat) (q : RingFill) : State :=
  let g := s.graph n
  let die := (g.res q.res).die
  if let some s := s.missAt n k q then s
  else if g.stage = .retired then
    s.landFill n k q ⟨s.openBytes q.idx (g.res q.res).shape.imageB, false, none⟩
  else match (g.ringTile q.res q.idx).st with
  | .resident | .overflowed =>
    (match s.readRing n q.res q.idx with
      | .ok (f, s) => s.landFill n k q f
      | .error (0, va) => s.engineReplay g.ctx va false 255
      | .error (20, _) => s
      | .error (e, va) =>
        if s.halted g.ctx then s
        else (s.engineFault g.ctx e q.pc va 255 8 die).modGraph n (fun g =>
          { g with fills := g.fills.mod k (fun f => { f with held := true }) }))
  | _ => s

/-- RING_FILL_COMPLETE (R170, R366, R341): the read of a ring tile lands in its staging tile; a read of a free or
unwritten tile is a transient miss; a read of any other tile waits. -/
def execRingFillComplete (k : Nat) (s : State) : Host.Outcome State Fault Refusal :=
  .next (match s.graphs.find? (fun g => (g.2.fills.get k).isSome) with
    | none => s
    | some (n, g) =>
      match g.fills.get k with
      | none => s
      | some q =>
        if s.onHold g.ctx q.held ∨ (s.base (g.res q.res).die).ring.hold ∨ !(s.wg q.wg).resident ∨
          !s.joins (some (g.res q.res).die) (baseOfCore (s.wg q.wg).core) then s
        else s.serveFill n k q)

/-! ### `rs.q` (R366) -/

/-- The word of a ring query. -/
def Graph.query (g : Graph) (r i : Nat) : Word :=
  let t := g.ringTile r i
  BitVec.ofNat 32 (cat [(t.st.code, 3), (b2n (g.pinned r i), 1), (min t.c 4095, 12), (min t.h 4095, 12), (0, 4)])

/-- Resource and tile of a query are those of a transient tile. -/
def Graph.queryOk (g : Graph) (r i : Nat) : Bool :=
  decide (r < g.ress.length) && (g.res r).cls == 1 && decide (i < (g.res r).w * (g.res r).h)

/-- A staging tile can take a tile of a resource (R366). -/
def Tile.matches (t : Tile) (r : Resource) : Bool :=
  t.state == .empty && t.kind == 0 && t.rows == r.shape.rows && t.cols == r.shape.cols && t.fmt == r.shape.fmt &&
    t.pitchB == r.shape.pitchB && t.dom == r.dom

/-- A word that asks a controller on the base dies `dies` waits at issue until it has answered, no earlier than `least`
core cycles later, which breaks its sheaf's run (R96): 100 for the record pool and the nodes, 200 for a ring (R366, R388);
a die across UCIe answers while a link stands (R5, R451). -/
def Issue.answered (is : Issue) (least : Nat) (s : State) (dies : List Nat) (k : State → Result) : Result :=
  if is.act = [] then k s
  else if !dies.all (s.joins (some (baseOfCore (coreOf is.sid)))) then .wait s
  else match (s.run is.sid).asked with
    | none => .wait (s.modSheaf is.sid (fun sh => { sh with
        run := sh.run.map (fun r => { r with asked := some s.time.core }) }))
    | some n => if s.time.core < n + least then .wait s else k s

/-- `rs.q` (R366, R477): a snapshot of a ring tile in each acting lane, or an undeclared fill of a tile, which finds its
transient miss at once. -/
def execRsQ (f : Fields) : State → Host.Outcome State Fault Refusal :=
  issued (.rsQ f) fun is s =>
    let w := s.wgOf is.sid
    let n := (s.wg w).graph
    let g := s.graph n
    let sh := s.sheaf is.sid
    let at_ (t : Nat) : Nat × Nat := ((sh.read f.imm t f.a).toNat, (sh.read f.imm t f.b).toNat)
    if f.mod 0 1 = 0 then
      if !is.act.all (fun t => g.queryOk (at_ t).1 (at_ t).2) then is.illegal s
      else is.answered 200 s (is.act.map (fun t => (g.res (at_ t).1).die)) fun s =>
        .done (s.writeLanes is.sid f.d 1 (is.act.map (fun t =>
          ⟨t, [(g.query (at_ t).1 (at_ t).2, sh.taintOf t f.a || sh.taintOf t f.b)], 0⟩)))
    else
      tileOp (f.mod 1 5) (fun w t _ ld s =>
        let (r, i) := at_ ld
        if !g.queryOk r i || !t.matches (g.res r) then is.illegal s
        else is.answered 200 s [(g.res r).die] fun s =>
          let (k, s) := s.fresh
          let q : RingFill := ⟨w, f.mod 1 5, r, i, false, (wordAddr (s.run is.sid).pc (some (s.run is.sid).k)).toNat⟩
          let s := (s.modTileN w (f.mod 1 5) (fun t => { t with
            state := .filling
            pend := BitVec.ofNat 20 t.fillB
            uses := t.uses + 1 })).modGraph n (fun g => { g with fills := g.fills.put k q })
          .done ((s.missAt n k q).getD s)) is s

end Sys2Proof.Machine
end

