-- ==== Sys2Proof/Machine/Recipes.lean ====
section
/-! DEFINITION. The recipe sequencer: gathering the sources of a dropped tile, the reservation of its slot, the
launch of its slice, and the end of the recipe (R336 to R341). -/

namespace Sys2Proof.Machine

/-! ### The gather (R338, R341) -/

/-- A chain changed. -/
def State.modChain (s : State) (n k : Nat) (f : Chain → Chain) : State :=
  s.modGraph n (fun g => { g with chains := g.chains.mod k f })

/-- The target tile of a chain. -/
def Graph.targetOf (g : Graph) (c : Chain) : Nat × Nat := ((g.recipe c.recipe).target, c.tile)

/-- The chains that work for a tile, with their numbers. -/
def Graph.chainsFor (g : Graph) (r t : Nat) : List (Nat × Chain) := g.chains.filter (fun c => g.targetOf c.2 == (r, t))

/-- The depth at which a dropped tile is demanded: 1 by a fill; one more than its own by a recipe that gathers
it (R338). -/
def State.demand (s : State) (n r t : Nat) : Option Nat :=
  let g := s.graph n
  let fill : Bool := g.fills.any (fun f => f.2.res == r && f.2.idx == t && !s.onHold g.ctx f.2.held)
  if fill then some 1
  else ((g.chains.find? (fun c => decide ((r, t) ∈ c.2.waits) && !s.onHold g.ctx c.2.held)).map (fun c => c.2.depth + 1))

/-- Everything that demands a tile is held. -/
def Graph.holdDemand (g : Graph) (r t : Nat) : Graph :=
  { g with
    fills := g.fills.map (fun (f : Nat × RingFill) => (f.1, if f.2.res = r ∧ f.2.idx = t then { f.2 with held := true } else f.2))
    chains := g.chains.map (fun (c : Nat × Chain) => (c.1, if (r, t) ∈ c.2.waits then { c.2 with held := true } else c.2)) }

/-- Greatest depth of the recipe chains of a resource's die (R328, R338). -/
def State.depthLimit (s : State) (n r : Nat) : Nat := (s.base ((s.graph n).res r).die).ring.depth.toNat + 1

/-- A dropped tile's gather starts, or is a recipe-depth fault (R338). -/
def State.startChain (s : State) (n r t d : Nat) : State :=
  let g := s.graph n
  match g.recipeOf r with
  | none => s
  | some k =>
    if s.depthLimit n r < d then
      if s.halted g.ctx then s
      else (s.ringFault n r t 0x16 (s.slotLa n r t) { recipe := k, depth := d }).modGraph n (fun g => g.holdDemand r t)
    else
      let (x, s) := s.fresh
      s.modGraph n (fun g =>
        let g := g.modRing r t (fun q => { q with st := .rematerialising })
        { g with chains := g.chains.put x ⟨k, t, d, [], g.sources k t, false, none, false, false⟩ })

/-- One source of a chain is looked at: pinned, waited for, or a transient miss of reason 3 (R338). -/
def State.gatherSource (s : State) (n x : Nat) (p : Nat × Nat) : State :=
  let g := s.graph n
  match g.chains.get x with
  | none => s
  | some c =>
    match (g.ringTile p.1 p.2).st with
    | .resident | .overflowed =>
      s.modChain n x (fun c => { c with
        pinned := p :: c.pinned
        waits := c.waits.erase p })
    | .free | .unwritten | .pending =>
      if c.held || s.halted g.ctx then s
      else (s.ringFault n p.1 p.2 0x15 (s.slotLa n p.1 p.2) { reason := 3, recipe := c.recipe, depth := c.depth }).modChain n x (fun c => { c with held := true })
    | _ => s

/-- The slot of a chain's target is reserved, once its sources are pinned: an unpinned occupant becomes dropped
(R338). -/
def State.chainSlot (s : State) (n x : Nat) : State :=
  let g := s.graph n
  match g.chains.get x with
  | none => s
  | some c =>
    if c.waits ≠ [] ∨ c.slot then s
    else
      let r := (g.recipe c.recipe).target
      match g.occupant r (c.tile % (g.res r).slots) with
      | none => s.modChain n x (fun c => { c with slot := true })
      | some o =>
        if (g.ringTile r o).st = .resident ∧ !g.pinned r o then
          (s.modGraph n (fun g => g.modRing r o (fun q => { q with st := .dropped }))).modChain n x (fun c => { c with slot := true })
        else s

/-- A chain goes as far as it can. -/
def State.advanceChain (s : State) (n x : Nat) : State :=
  match (s.graph n).chains.get x with
  | none => s
  | some c =>
    if s.onHold (s.graph n).ctx c.held then s
    else (each c.waits (fun p s => s.gatherSource n x p) (s.modChain n x (fun c => { c with held := false }))).chainSlot n x

/-- RECIPE_GATHER (R338): a read of a dropped tile starts its recipe; a recipe under way pins the sources that
are there, and reserves its slot when it has them all. -/
def execRecipeGather (n r t : Nat) (s : State) : Host.Outcome State Fault Refusal :=
  .next (
    let g := s.graph n
    if g.stage ≠ .admitted ∨ (g.res r).cls ≠ 1 then s
    else match (g.ringTile r t).st with
      | .dropped =>
        (match s.demand n r t with
          | none => s
          | some d => s.startChain n r t d)
      | .rematerialising => each (g.chainsFor r t) (fun x s => s.advanceChain n x.1) s
      | _ => s)

/-! ### The launch (R337, R339) -/

/-- Ring work that a recipe would touch is held (R322). -/
def State.chainHeldByRing (s : State) (g : Graph) (c : Chain) : Bool :=
  ((g.recipe c.recipe).target :: (g.sources c.recipe c.tile).map (·.1)).any (fun r => (s.base (g.res r).die).ring.hold)

/-- A chain waits for a recipe slot. -/
def State.launchable (s : State) (n : Nat) (c : Chain) : Bool :=
  let g := s.graph n
  c.slot && c.launched.isNone && !s.onHold g.ctx c.held && !s.chainHeldByRing g c

/-- The core group that runs a recipe. -/
def Graph.groupOf (g : Graph) (c : Chain) : Nat := (g.pass (g.recipe c.recipe).pass).cg

/-- A free recipe slot of a core group: its number and core (R339). -/
def State.recipeSlot (s : State) (n cg : Nat) : Option (Nat × Nat) :=
  ((s.graph n).resv.mapIdx (fun i r => (i, r))).findSome? (fun x =>
    if x.2.2.1 = cg ∧ !s.slotBusy n x.1 then some (x.1, x.2.1) else none)

/-- The workgroup of a recipe slice (R337). -/
def State.newSlice (s : State) (n : Nat) (c : Chain) (slot core : Nat) : Workgroup :=
  let g := s.graph n
  let q := g.recipe c.recipe
  let wd := (g.res q.target).w
  let x := c.tile % wd
  let y := c.tile / wd
  let inp := g.inputs q.pass (.recipe c.recipe)
  { s.newWg n q.pass (.recipe c.recipe) q.desc q.desca with
    wgid := BitVec.ofNat 32 c.tile
    prio := 0
    tile := c.tile
    tx := x
    ty := y
    clip := g.clip inp x y
    clipx := g.clipx inp x y
    slot := some slot
    core := core }

/-- RECIPE_LAUNCH (R338, R339): the oldest recipe of its core group that can launch takes a free recipe slot. -/
def execRecipeLaunch (n k : Nat) (s : State) : Host.Outcome State Fault Refusal :=
  .next (
    let g := s.graph n
    match g.chains.get k with
    | none => s
    | some c =>
      let cg := g.groupOf c
      if g.stage ≠ .admitted ∨ !s.launchable n c ∨
        g.chains.any (fun d => decide (d.1 < k) && s.launchable n d.2 && g.groupOf d.2 == cg) then s
      else match s.recipeSlot n cg with
        | none => s
        | some (i, core) =>
          let (w, s) := s.fresh
          { s with wgs := s.wgs.put w (s.newSlice n c i core) }.modChain n k (fun c => { c with launched := some w }))

/-! ### The end of a recipe (R337, R338, R340) -/

/-- A chain is gone and its pins fall. -/
def State.dropChain (s : State) (n k : Nat) : State :=
  s.modGraph n (fun g =>
    match g.chains.get k with
    | none => g
    | some c => c.pinned.foldl (fun g p => Graph.settle settleFuel p.1 p.2 g) { g with chains := g.chains.del k })

/-- RECIPE_DRAINED (R337, R338): the slice's threads have closed its output; the target becomes resident with what
the slice drains, or unwritten where it drains nothing. -/
def execRecipeDrained (n k : Nat) (s : State) : Host.Outcome State Fault Refusal :=
  .next (
    let g := s.graph n
    match g.chains.get k with
    | none => s
    | some c =>
      match c.launched with
      | none => s
      | some w =>
        let q := g.recipe c.recipe
        let e := ((g.outputs q.pass (.recipe c.recipe)).head?).getD default
        if !s.closedIn w 0 ∨ s.onHold g.ctx c.held then s
        else if !c.ret ∨ !s.bound w e then
          ((s.dropChain n k).modGraph n (fun g => g.unwrite q.target c.tile)).retryHeld n
        else if (s.base (g.res q.target).die).ring.hold ∨ !(s.wg w).resident ∨ (s.tile w e.tile).state ≠ .ready then s
        else match s.drainTo n q.target c.tile w e.tile with
          | (none, s) => s
          | (some s, _) => ((s.dropChain n k).modGraph n (fun g => g.drained q.target c.tile)).retryHeld n)

end Sys2Proof.Machine
end

