-- ==== Sys2Proof/Machine/Records.lean ====
section
/-! DEFINITION. The record instructions and `cont` (R384 to R390, R415). -/

namespace Sys2Proof.Machine

/-! ### Pools (R385, R446) -/

/-- Entries of a context's record pool on a base die. -/
def Ctx.poolN (c : Ctx) (d : Nat) : Nat := (if d = 0 then c.field 655 16 else c.field 599 16) + 1

/-- Physical address of an entry of a context's record pool. -/
def Ctx.entryPa (c : Ctx) (d e : Nat) : Nat := (if d = 0 then c.field 671 40 else c.field 615 40) * 256 + 256 * e

/-- The free entries of a pool. -/
def State.freeEntries (s : State) (ctx d : Nat) : List Nat :=
  let t := (s.recs.get ctx).getD []
  (List.range ((s.ctx ctx).poolN d)).filter (fun e => (t.get (d * 65536 + e)).isNone)

/-- A handle of a record; bits 29:16 are zero. -/
def handleOf (d e : Nat) : BitVec 32 := BitVec.ofNat 32 (d * 2 ^ 30 + e)

/-- The retry handle. -/
def retryHandle : BitVec 32 := 0x80000000

/-- Physical address of a record's payload. -/
def State.recPa (s : State) (ctx : Nat) (h : BitVec 32) : Nat := (s.ctx ctx).entryPa (bits h.toNat 30 1) (bits h.toNat 0 16)

/-- Payload bytes of a record of node `n` of a graph. -/
def Graph.payload (g : Graph) (n : Nat) : Nat := (g.pass n).desc.recsz * 16

/-! ### Record faults (R389, R424) -/

/-- The record fault of lanes with their sub-codes, as R424 chooses it: none where no lane has one. -/
def Issue.recFault (is : Issue) (code : Nat) (l : List (Nat × Option Nat)) (s : State) : Option Result :=
  match l.filterMap (fun p => p.2.map (fun k => (p.1, k))) with
  | [] => none
  | p :: ps => some (is.fault code p.2 ((p :: ps).map (·.1)) 0 s)

/-- Sub-code 3 of an allocation: the node is no record node of the graph that the workgroup's pass feeds, or the
issuer is a recipe slice. -/
def State.allocFault (s : State) (w n : Nat) : Option Nat :=
  let q := s.wg w
  let g := s.graph q.graph
  let slice : Bool := match q.work with
    | .recipe _ => true
    | _ => false
  if slice || decide (g.passes.length ≤ n) || (g.pass n).kind != 1 ||
    !(g.edgesOf n).any (fun e => e.dir == 2 && e.prod == q.pass) then some 3 else none

/-- The record that a handle names, where workgroup `w` owns it and has not committed it. -/
def State.ownedRec (s : State) (w : Nat) (h : BitVec 32) : Option Rec :=
  if bits h.toNat 16 14 ≠ 0 then none
  else match s.rec_ (s.wg w).ctx h with
    | none => none
    | some r => if r.st = .allocated w then some r else none

/-- Sub-code 2: an access of `n` bytes at offset `o` of a payload. -/
def offsetFault (o n len : Nat) : Option Nat := if o % n ≠ 0 ∨ len < o + n then some 2 else none

/-! ### `rec.alloc`, `rec.put`, `rec.commit` (R386, R389) -/

/-- The fault of a store of a record's bytes at its home (R435): 1 no memory, 2 poison. -/
def State.badRec (s : State) (pa n : Nat) : Option Nat :=
  if !s.inGddr pa n then some 1 else if s.poisoned pa n then some 2 else none

/-- The base die on which node `n` of the graph of workgroup `w` has its home. -/
def State.nodeHome (s : State) (w n : Nat) : Nat := ((s.graph (s.wg w).graph).pass n).home

/-- One record taken for node `n` by workgroup `w`: its handle, or the retry handle. -/
def State.allocRec (s : State) (w n : Nat) : BitVec 32 × State :=
  let q := s.wg w
  let g := s.graph q.graph
  let d := (g.pass n).home
  match s.freeEntries q.ctx d with
  | [] => (retryHandle, s)
  | e :: es =>
    let (k, s) := s.pick (e :: es).length
    let x := (e :: es).getD k e
    let h := handleOf d x
    let s := s.modRecs q.ctx (fun t => t.put (handleKey h) ⟨q.graph, n, .allocated w⟩)
    let s := if s.joins (some d) (homeDie (s.recPa q.ctx h)) && (s.badRec (s.recPa q.ctx h) (g.payload n)).isNone then
        s.homeStore (s.ctx q.ctx) ⟨s.recPa q.ctx h, 0⟩ (List.replicate (g.payload n) 0)
      else s
    (h, s.modWg w (fun q => { q with owned := h :: q.owned }))

/-- Records for lanes, in ascending order. -/
def State.allocRecs (s : State) (w : Nat) (l : List (Nat × Nat)) : List (Nat × BitVec 32) × State :=
  l.foldl (fun (acc : List (Nat × BitVec 32) × State) p =>
    let (h, s) := acc.2.allocRec w p.2
    (acc.1 ++ [(p.1, h)], s)) ([], s)

/-- `rec.alloc` (R389). -/
def execRecAlloc (f : Fields) : State → Host.Outcome State Fault Refusal :=
  issued (.recAlloc f) fun is s =>
    let w := s.wgOf is.sid
    let sh := s.sheaf is.sid
    let l := is.act.map (fun t => (t, bits (sh.read f.imm t f.a).toNat 0 8))
    is.answered 100 s (l.map (fun p => s.nodeHome w p.2)) fun s =>
    match is.recFault 8 (l.map (fun p => (p.1, s.allocFault w p.2))) s with
    | some r => r
    | none =>
      let (hs, s) := s.allocRecs w l
      .done (s.writeLanes is.sid f.d 1 (hs.map (fun p => ⟨p.1, [(p.2, sh.taintOf p.1 f.a)], 0⟩)))

/-- Bytes of a `rec.put` or `rec.get`. -/
def recSize (f : Fields) : Nat := 4 * wideRegs (f.mod 0 2)

/-- One lane's `rec.put`: its bytes are stored indivisibly at their home, or the store is dropped and reported
(R390, R435). -/
def State.putRec (s : State) (is : Issue) (w t pa : Nat) (bs : List Byte) : State :=
  let ctx := (s.wg w).ctx
  match s.badRec pa bs.length with
  | none => s.homeStore (s.ctx ctx) ⟨pa, 0⟩ bs
  | some sub =>
    let sh := s.sheaf is.sid
    let r := s.run is.sid
    s.lateFaultAt is.sid sh.gen ctx (sh.thread t).priv (wordAddr r.pc (some r.k)) 0x17 sub [t] pa

/-- `rec.put` (R389): a handle with RETRY has no effect. -/
def execRecPut (f : Fields) : State → Host.Outcome State Fault Refusal :=
  issued (.recPut f) fun is s =>
    let w := s.wgOf is.sid
    let sh := s.sheaf is.sid
    let g := s.graph (s.wg w).graph
    let n := recSize f
    let h (t : Nat) : BitVec 32 := sh.read f.imm t f.a
    let o (t : Nat) : Nat := (sh.read f.imm t f.b).toNat
    let live := is.act.filter (fun t => !(h t).getLsbD 31)
    let sub (t : Nat) : Option Nat := match s.ownedRec w (h t) with
      | none => some 1
      | some r => offsetFault (o t) n (g.payload r.node)
    if is.barred s (fun t => sh.taintOf t f.a || sh.taintOf t f.b) then .wait s else
    is.answered 100 s (live.map (fun t => homeDie (s.recPa sh.ctx (h t) + o t))) fun s =>
    match is.recFault 8 (live.map (fun t => (t, sub t))) s with
    | some r => r
    | none => .done (each live (fun t s =>
        s.putRec is w t (s.recPa sh.ctx (h t) + o t)
          (wordsBytes ((dataFields f.c (wideRegs (f.mod 0 2))).map (sh.read f.imm t)))) s)

/-- A record is committed: it joins its node's queue, at once on the node's home die and later from the other (R386). -/
def State.commitRec (s : State) (w : Nat) (h : BitVec 32) : State :=
  let q := s.wg w
  match s.rec_ q.ctx h with
  | none => s
  | some r =>
    let s := (s.setRec q.ctx h .committed).modWg w (fun q => { q with owned := q.owned.erase h })
    if ((s.graph r.graph).pass r.node).home = baseOfCore q.core then
      (s.modPassRun r.graph r.node (fun x => { x with queue := x.queue ++ [(h, s.now)] })).formBatches r.graph r.node
    else s.modPassRun r.graph r.node (fun x => { x with coming := x.coming ++ [(h, s.now)] })

/-- The first record on its way to node `p` of graph `n` arrives (R386). -/
def State.recArrives (s : State) (n p : Nat) : State :=
  match (s.passRun n p).coming with
  | [] => s
  | x :: l => (s.modPassRun n p (fun r => { r with queue := r.queue ++ [x], coming := l })).formBatches n p

/-- Sub-code 1 of each lane of a commit: its handle is not its workgroup's, or a lower lane commits it. -/
def State.commitFaults (s : State) (w : Nat) : List (Nat × BitVec 32) → List (BitVec 32) → List (Nat × Option Nat)
  | [], _ => []
  | (t, h) :: l, seen =>
    (t, if (s.ownedRec w h).isNone ∨ h ∈ seen then some 1 else none) :: s.commitFaults w l (h :: seen)

/-- `rec.commit` (R389, R390): a release at device scope, then the records in the order of their lanes. -/
def execRecCommit (f : Fields) : State → Host.Outcome State Fault Refusal :=
  issued (.recCommit f) fun is s =>
    let w := s.wgOf is.sid
    let sh := s.sheaf is.sid
    let l := (is.act.map (fun t => (t, sh.read f.imm t f.a))).filter (fun p => !p.2.getLsbD 31)
    if !s.fenceOk is.sid is.act 3 then .wait s
    else is.answered 100 s (l.map (fun p => bits p.2.toNat 30 1)) fun s =>
      match is.recFault 8 (s.commitFaults w l []) s with
      | some r => r
      | none => .done (each l (fun p s => s.commitRec w p.2) s)

/-! ### `rec.get`, `rec.count` (R389) -/

/-- The batch of a workgroup. -/
def Workgroup.batch (q : Workgroup) : Option (List (BitVec 32)) :=
  match q.work with
  | .batch l => some l
  | _ => none

/-- The bytes of a record that a lane reads, undefined where they are poison: with it whether they are. -/
def State.getRec (s : State) (ctx pa n : Nat) : List Byte × Bool × State :=
  let (bs, po) := s.homeLoad (s.ctx ctx) ⟨pa, 0⟩ n
  if po then ((List.range n).map (fun i => Config.freeByte (s.free * 2 ^ 48 + pa + i)), true, { s with free := s.free + 1 })
  else (bs, false, s)

/-- `rec.get` (R389, R271). -/
def execRecGet (f : Fields) : State → Host.Outcome State Fault Refusal :=
  issued (.recGet f) fun is s =>
    let w := s.wgOf is.sid
    let q := s.wg w
    let sh := s.sheaf is.sid
    let n := recSize f
    let hs := (q.batch).getD []
    let i (t : Nat) : Nat := (sh.read f.imm t f.a).toNat
    let o (t : Nat) : Nat := (sh.read f.imm t f.b).toNat
    let sub (t : Nat) : Option Nat :=
      if hs.length ≤ i t then some 4 else offsetFault (o t) n ((s.graph q.graph).payload q.pass)
    let pa (t : Nat) : Nat := s.recPa q.ctx (hs.getD (i t) 0) + o t
    if is.barred s (fun t => sh.taintOf t f.a || sh.taintOf t f.b) then .wait s else
    is.answered 100 s (is.act.map (fun t => homeDie (pa t))) fun s =>
    match is.recFault 8 (is.act.map (fun t => (t, sub t))) s with
    | some r => r
    | none =>
      let none_ := is.act.filter (fun t => !s.inGddr (pa t) n)
      if none_ ≠ [] then is.fault 0x10 6 none_ (pa (none_.headD 0)) s
      else
        let (outs, bad, s') := is.act.foldl (fun (acc : List LaneOut × List Nat × State) t =>
          let (bs, po, s) := acc.2.2.getRec q.ctx (pa t) n
          let taint := sh.taintOf t f.a || sh.taintOf t f.b
          (acc.1 ++ [⟨t, (bytesWords (wideRegs (f.mod 0 2)) bs).map (fun x => (x, taint)), 0⟩],
            if po then acc.2.1 ++ [t] else acc.2.1, s)) ([], [], s)
        let s' := s'.writeLanes is.sid f.d (wideRegs (f.mod 0 2)) outs
        let r := s.run is.sid
        .done (match bad with
          | [] => s'
          | t :: _ => s'.lateFaultAt is.sid sh.gen sh.ctx (is.group.any (fun t => (sh.thread t).priv)) (wordAddr r.pc (some r.k))
              0x11 0 bad (pa t))

/-- `rec.count` (R389). -/
def execRecCount (f : Fields) : State → Host.Outcome State Fault Refusal :=
  issued (.recCount f) fun is s =>
    let w := s.wgOf is.sid
    let out (n : Nat) : State := s.writeLanes is.sid f.d 1 (is.act.map (fun t => ⟨t, [(BitVec.ofNat 32 n, false)], 0⟩))
    if f.mod 0 1 = 1 then .done (out (s.freeEntries (s.wg w).ctx (baseOfCore (coreOf is.sid))).length)
    else match (s.wg w).batch with
      | some l => .done (out l.length)
      | none => if is.act = [] then .done s else is.fault 8 4 is.act 0 s

/-! ### `cont` (R415) -/

/-- A lane of `cont`: thread, node, scratchpad address. -/
abbrev ContLane := Nat × Nat × Word

/-- Why a lane of `cont` faults: code and sub-code (R161, R389, R415). -/
def State.contFault (s : State) (w : Nat) (th : Thread) (n : Nat) (a : Word) : Option (Nat × Nat) :=
  let len := (s.graph (s.wg w).graph).payload n
  if th.hit.isNone then some (9, 5)
  else match s.allocFault w n with
    | some k => some (8, k)
    | none => (s.localAt w a 16 len).map (fun k => (3, k))

/-- One lane of `cont`: a record is taken, filled from the scratchpad and committed. -/
def State.contLane (s : State) (is : Issue) (w : Nat) (p : ContLane) : BitVec 32 × State :=
  let (h, s) := s.allocRec w p.2.1
  if h = retryHandle then (h, s)
  else
    let q := s.wg w
    let bs := s.spRead w p.2.2 0 ((s.graph q.graph).payload p.2.1)
    (h, (s.putRec is w p.1 (s.recPa q.ctx h) bs).commitRec w h)

/-- `cont` (R415): allocation for the node that the hit state names, the payload's copy, and the commit. -/
def execCont (f : Fields) : State → Host.Outcome State Fault Refusal :=
  issued (.cont f) fun is s₀ =>
    is.inScratch false s₀ fun s =>
    let w := s.wgOf is.sid
    let sh := s.sheaf is.sid
    let lane (t : Nat) : ContLane :=
      (t, bits (((sh.thread t).hit.map (fun (h : Hit) => h.status)).getD 0).toNat 0 8, sh.read f.imm t f.a)
    let l := is.act.map lane
    if is.barred s (fun t => sh.taintOf t f.a) || !s.fenceOk is.sid is.act 3 then .wait s
    else is.answered 100 s (l.map (fun p => s.nodeHome w p.2.1)) fun s =>
      let bad := l.filterMap (fun p => (s.contFault w (sh.thread p.1) p.2.1 p.2.2).map (fun e => (p, e)))
      match bad with
      | x :: _ => is.fault x.2.1 x.2.2 (bad.map (fun y => y.1.1)) (if x.2.1 = 3 then x.1.2.2.toNat else 0) s
      | [] =>
        let (hs, s) := l.foldl (fun (acc : List (Nat × BitVec 32) × State) p =>
          let (h, s) := acc.2.contLane is w p
          (acc.1 ++ [(p.1, h)], s)) ([], s)
        .done (s.writeLanes is.sid f.d 1 (hs.map (fun p => ⟨p.1, [(p.2, sh.taintOf p.1 f.a)], 0⟩)))

end Sys2Proof.Machine
end

