-- ==== Sys2Proof/Machine/Queues.lean ====
section
/-! DEFINITION. Queues, the queue mapper, queue commands, and the time-triggered table (R368 to R378). -/

namespace Sys2Proof.Machine

/-! ### Tables that the host keeps at physical addresses (R368, R446) -/

/-- A number of `n` bytes at a physical address: 0 where there is no memory, undefined where it is poison. -/
def State.physNum (s : State) (pa n : Nat) : Nat × State :=
  if !s.inGddr pa n then (0, s)
  else if s.poisoned pa n then
    (leNat ((List.range n).map (fun i => Config.freeByte (s.free * 2 ^ 48 + pa + i))), { s with free := s.free + 1 })
  else (s.mem.num pa n, s)

/-- Bytes stored at a physical address, where there is memory that is not poison. -/
def State.physStore (s : State) (pa : Nat) (bs : List Byte) : State :=
  if s.inGddr pa bs.length ∧ !s.poisoned pa bs.length then s.poke pa bs else s

/-! ### Wakes (R458) -/

/-- The device is in Doze or Sleep: what starts its wake waits for the end of it (R458; DEDUCED, log 98). -/
def State.asleep (s : State) : Bool := decide (2 ≤ s.regs.pstate.toNat)

/-- A wake is started: it ends within the latency of the state. -/
def State.rouse (s : State) : State :=
  if s.asleep ∧ s.regs.waking = none then
    s.modRegs (fun r => { r with waking := some (s.now + if r.pstate = 3 then 2000000 else 40000) })
  else s

/-- The device in Run. -/
def Regs.awake (r : Regs) : Regs := { r with
  pstate := 0
  waking := none }

/-- A wake whose latency is over has ended. -/
def Regs.woken (r : Regs) (now : Nat) : Regs := if r.waking.any (fun t => decide (t ≤ now)) then r.awake else r

/-! ### Queue states and descriptors (R368, R369, R372, R373) -/

/-- The code of a queue state (R368). -/
def QState.code : QState → Nat
  | .disabled => 0
  | .idle => 1
  | .waiting => 2
  | .active => 3
  | .error => 4

/-- Ring entries of a queue (R370). -/
def Queue.entries (q : Queue) : Nat := 2 ^ (q.size + 4)

/-- Entries announced and not taken (R371). -/
def Queue.left (q : Queue) : Nat := (q.write - q.read).toNat

/-- Where the queue table holds a queue's descriptor (R368, R445). -/
def State.queuePa (s : State) (q : Nat) : Nat := bits s.regs.qtbase.toNat 16 32 * 65536 + 64 * q

/-- The queue that a descriptor describes, enabled (R368). -/
def queueOf (x : Nat) : Queue where
  state := .idle
  ring := BitVec.ofNat 64 (bits x 466 46 * 64)
  size := bits x 462 4
  prio := bits x 458 4
  home := bits x 457 1
  slice := bits x 440 16
  ctx := bits x 408 32
  read := 0
  write := 0

/-- A descriptor keeps the limits of R368. -/
def queueOk (x : Nat) : Bool :=
  decide (bits x 462 4 ≤ 12) && decide (bits x 408 32 ≤ 4095) && bits x 384 24 == 0 && bits x 0 317 == 0

/-- READ, WRITE and STATE are written into a queue's descriptor (R369). -/
def State.writeBack (s : State) (n : Nat) : State :=
  let q := s.queue n
  s.physStore (s.queuePa n + 39) (natBytes 1 (q.state.code * 32) ++ natBytes 4 q.write.toNat ++ natBytes 4 q.read.toNat)

/-- V of a queue's descriptor is cleared (R369). -/
def State.clearV (s : State) (n : Nat) : State :=
  let (x, s) := s.physNum (s.queuePa n + 57) 1
  s.physStore (s.queuePa n + 57) (natBytes 1 (setBits x 0 1 0))

/-- The queue error record (R373). -/
def queueRecord (now read write ctx code q : Nat) : List Byte :=
  natBytes 32 (cat [(now, 64), (read, 32), (write, 32), (ctx, 32), (code, 16), (q, 10), (0, 62), (0x40, 8)])

/-- The slots of a queue are freed; with it the graphs that they had in hand. -/
def State.freeSlots (s : State) (n : Nat) : List Nat × State :=
  (s.bases.flatMap (fun p => (p.2.slots.filter (fun m => m.2.queue = n)).filterMap (fun m => m.2.graph)),
   { s with bases := s.bases.map (fun (p : Nat × BaseDie) =>
      (p.1, { p.2 with slots := p.2.slots.filter (fun m => m.2.queue ≠ n) })) })

/-- A queue goes into error (R372, R373): its slot is freed, the entry that it had in hand is dropped, and a
record is written. -/
def State.queueError (s : State) (n code : Nat) (write : BitVec 32) : State :=
  let q := s.queue n
  let (l, s) := s.freeSlots n
  let s := each l (fun g s => s.dropGraph g) s
  (s.modQueue n (fun q => { q with state := .error })).record q.ctx
    (queueRecord s.now q.read.toNat write.toNat q.ctx code n)

/-- NOTIFY_STORE (R371, R372, R458): a store of `size` bytes at offset `off` of a queue's notify register, which starts a
wake. -/
def execNotifyStore (n off size value : Nat) (s : State) : Host.Outcome State Fault Refusal :=
  .next (
    let s := s.rouse
    let q := s.queue n
    let w := BitVec.ofNat 32 value
    if 1024 ≤ n ∨ off ≠ 0 ∨ (size ≠ 4 ∧ size ≠ 8) ∨ q.state = .disabled ∨ q.state = .error then s
    else
      let k := (w - q.read).toNat
      if k ≤ q.entries ∧ q.left ≤ k then
        s.modQueue n (fun q => { q with
          write := w
          state := if q.state = .idle ∧ 0 < k then .waiting else q.state })
      else s.queueError n 1 w)

/-! ### Commands (R369) -/

/-- The command with operation `op` on queue `n` is running. -/
def State.queueCmd (s : State) (op n : Nat) : Bool :=
  s.regs.qcmd.busy && s.regs.qcmd.op.toNat % 4 == op && s.regs.qcmd.target.toNat % 1024 == n

/-- The running queue command ends. -/
def State.endQueueCmd (s : State) (err : Bool) : State :=
  s.modRegs (fun r => { r with qcmd := { r.qcmd with
    busy := false
    err := r.qcmd.err || err } })

/-- ENABLE (R368, R369). -/
def execEnable (n : Nat) (s : State) : Host.Outcome State Fault Refusal :=
  .next (
    if !s.queueCmd 1 n then s
    else if (s.queue n).state ≠ .disabled then s.endQueueCmd true
    else
      let (x, s) := s.physNum (s.queuePa n) 64
      if !bit x 456 then s.endQueueCmd true
      else if !queueOk x then
        (s.record (bits x 408 32) (queueRecord s.now (s.queue n).read.toNat (s.queue n).write.toNat (bits x 408 32) 4 n)).endQueueCmd true
      else ((s.modQueue n (fun _ => queueOf x)).writeBack n).endQueueCmd false)

/-- DISABLE (R369, R372): an entry in intake is first admitted or rejected. -/
def execDisable (n : Nat) (s : State) : Host.Outcome State Fault Refusal :=
  .next (
    let (l, s') := s.freeSlots n
    if !s.queueCmd 2 n ∨ l ≠ [] then s
    else (((s'.modQueue n (fun q => { q with state := .disabled })).writeBack n).clearV n).endQueueCmd false)

/-- SYNC (R369). -/
def execSync (n : Nat) (s : State) : Host.Outcome State Fault Refusal :=
  .next (if s.queueCmd 3 n then (s.writeBack n).endQueueCmd false else s)

/-! ### The mapper (R374, R375) -/

/-- Active slots of a mapper. -/
def slotCount : Nat := 16

/-- The queue that a mapper grants a slot: of the waiting ones of its die whose context is loaded those of the
lowest PRIO, and of these the first after the one granted last (R374). -/
def State.granted (s : State) (d : Nat) : Option Nat :=
  let w := s.queues.filter (fun q => q.2.state == .waiting && q.2.home == d && (s.ctxs.get q.2.ctx).isSome)
  match w with
  | [] => none
  | _ =>
    let prio := w.foldl (fun m q => min m q.2.prio) 16
    let last := ((s.base d).lastGrant.get prio).getD 1023
    let dist (n : Nat) : Nat := (n + 1024 - last - 1) % 1024
    (w.filter (fun q => q.2.prio = prio)).foldl (fun (b : Option Nat) q => match b with
      | none => some q.1
      | some y => if dist q.1 < dist y then some q.1 else some y) none

/-- SLOT_GRANT (R372, R374): once the device is awake (R458). -/
def execSlotGrant (d : Nat) (s : State) : Host.Outcome State Fault Refusal :=
  .next (
    let b := s.base d
    match (List.range slotCount).find? (fun k => (b.slots.get k).isNone), s.granted d with
    | some k, some n =>
      if 2 ≤ d ∨ s.asleep then s
      else (s.modQueue n (fun q => { q with state := .active })).modBase d (fun b => { b with
        slots := b.slots.put k ⟨n, s.now, none⟩
        lastGrant := b.lastGrant.put (s.queue n).prio n })
    | _, _ => s)

/-- A slot's slice has expired while a queue of equal or higher priority waits (R374). -/
def State.sliceOver (s : State) (d : Nat) (m : MapSlot) : Bool :=
  let q := s.queue m.queue
  q.slice != 0 && decide (m.granted + 1000 * q.slice ≤ s.now) &&
    s.queues.any (fun p => p.2.state == .waiting && p.2.home == d && decide (p.2.prio ≤ q.prio))

/-- A slot is freed; its queue is in state `st`. -/
def State.freeSlot (s : State) (d k n : Nat) (st : QState) : State :=
  (s.modBase d (fun b => { b with slots := b.slots.del k })).modQueue n (fun q => { q with state := st })

/-- TIME_SLICE_EXPIRY (R372, R374): the slot is freed once the graph in hand is admitted or rejected. -/
def execTimeSliceExpiry (d k : Nat) (s : State) : Host.Outcome State Fault Refusal :=
  .next (match (s.base d).slots.get k with
    | none => s
    | some m =>
      if m.graph.isSome ∨ !s.sliceOver d m then s
      else s.freeSlot d k m.queue (if (s.queue m.queue).left = 0 then .idle else .waiting))

/-- A graph whose intake begins. -/
def newGraph (ctx : Nat) (va : Nat) (queue : Option Nat) (die : Nat) (serial : Bool) (mark : Nat) (prio : Nat) : Graph :=
  { (default : Graph) with
    ctx := ctx
    va := BitVec.ofNat 64 va
    queue := queue
    die := die
    serial := serial
    mark := BitVec.ofNat 64 mark
    stage := .intake
    prio := prio }

/-- The stamps of an entry with a nonzero MARK: its input sample, then its intake (R370, R457). -/
def State.stampIntake (s : State) (g : Graph) (arg : Nat) : State :=
  (s.trail { event := 1, graph := g.va.toNat, ctx := g.ctx, time := some g.mark.toNat }).trail
    { event := 2, graph := g.va.toNat, ctx := g.ctx, arg := arg }

/-- An entry is taken in hand by slot `k`, or is malformed (R370, R372, R375). -/
def State.takeEntry (s : State) (d k n x : Nat) : State :=
  let q := s.queue n
  if bits x 0 16 ≠ 0 ∨ 2 ≤ bits x 16 2 then s.queueError n 2 q.write
  else
    let (g, s) := s.fresh
    let gr := newGraph q.ctx (bits x 18 46 * 64) (some n) d (bits x 16 2 == 1) (bits x 64 64) q.prio
    let s := { s with graphs := s.graphs.put g gr }
    let s := s.modBase d (fun b => { b with slots := b.slots.mod k (fun m => { m with graph := some g }) })
    if bits x 64 64 = 0 then s else s.stampIntake gr n

/-- ENTRY_READ (R372, R375): a slot with nothing in hand reads its queue's next entry; with no entry left the
queue is idle and the slot is freed. -/
def execEntryRead (d k : Nat) (s : State) : Host.Outcome State Fault Refusal :=
  .next (match (s.base d).slots.get k with
    | none => s
    | some m =>
      let q := s.queue m.queue
      if m.graph.isSome ∨ s.queueCmd 2 m.queue ∨ s.sliceOver d m then s
      else if q.left = 0 then s.freeSlot d k m.queue .idle
      else
        let va := q.ring.toNat + 16 * (q.read.toNat % q.entries)
        if (s.ctxs.get q.ctx).isNone ∨ va / 65536 ∈ (s.ctx q.ctx).replays then s
        else match s.devLoad q.ctx va 16 false none (some d) with
          | (.ok (bs, false), s) => s.takeEntry d k m.queue (leNat bs)
          | (.error (0, a), s) => s.engineReplay q.ctx a false 255
          | (.error (20, _), s) => s
          | (_, s) => s.queueError m.queue 3 q.write)

/-! ### The time-triggered table (R377, R378) -/

/-- The valid entries of the table. -/
def Regs.valid (r : Regs) : Tab TTEntry := r.tt.filter (fun e => e.2.v)

/-- The offsets of a list of entries rise strictly. -/
def rising : Tab TTEntry → Bool
  | a :: b :: l => decide (a.2.offset.toNat < b.2.offset.toNat) && rising (b :: l)
  | _ => true

/-- RUN = 1 is refused (R377). -/
def Regs.ttRefused (r : Regs) : Bool :=
  !rising r.valid || r.valid.any (fun e => (r.ttperiod != 0 && decide (r.ttperiod.toNat ≤ e.2.offset.toNat)) ||
    decide (4095 < e.2.ctx.toNat))

/-- TTCTL_RUN (R377): a write of TTCTL; instants before it are past. -/
def execTtctlRun (value : Nat) (s : State) : Host.Outcome State Fault Refusal :=
  .next (s.modRegs (fun r =>
    if !bit value 0 then { r with ttRun := false }
    else if r.ttRun then r
    else if r.ttRefused then { r with ttErr := true }
    else { r with
      ttRun := true
      ttErr := false
      ttSince := s.now }))

/-- The first instant of an entry that is not before `t` (R378). -/
def Regs.instant (r : Regs) (e : TTEntry) (t : Nat) : Option Nat :=
  let a := r.ttbase.toNat + e.offset.toNat
  let p := r.ttperiod.toNat
  if t ≤ a then some a else if p = 0 then none else some (a + ceilDiv (t - a) p * p)

/-- Entry `k` falls due now: its next instant has come, and no other entry's comes earlier. -/
def State.dueInstant (s : State) (k : Nat) : Option (TTEntry × Nat) :=
  let r := s.regs
  match r.valid.get k with
  | none => none
  | some e =>
    match r.instant e r.ttSince with
    | none => none
    | some i =>
      if r.ttRun ∧ i ≤ s.now ∧ r.valid.all (fun p => match r.instant p.2 r.ttSince with
        | some j => decide (i ≤ j)
        | none => true) then some (e, i) else none

/-- TABLE_INSTANT (R378): a due entry starts intake of its graph, or is skipped while the last one runs; where the device
sleeps it starts a wake and waits for it (R458). -/
def execTableInstant (k : Nat) (s : State) : Host.Outcome State Fault Refusal :=
  .next (match s.dueInstant k with
    | none => s
    | some (e, i) =>
      if s.asleep then s.rouse
      else
      let s := s.modRegs (fun r => { r with ttSince := i + 1 })
      let va := e.graph.toNat * 64
      if s.regs.ttGraph.isSome then
        let n := min (e.skips.toNat + 1) 65535
        (s.modRegs (fun r => { r with tt := r.tt.put k { e with skips := BitVec.ofNat 16 n } })).trail
          { event := 9, graph := va, pass := k, ctx := e.ctx.toNat, arg := n, time := some i }
      else
        let (g, s) := s.fresh
        let gr := newGraph e.ctx.toNat va none 0 false 0 0
        ({ s with graphs := s.graphs.put g gr }.modRegs (fun r => { r with ttGraph := some g })).trail
          { event := 2, graph := va, ctx := e.ctx.toNat, arg := 0xFFFFFFFF })

end Sys2Proof.Machine
end

