-- ==== Sys2Proof/Machine/Halt.lean ====
section
/-! DEFINITION. The halt of a context: the halt line, the stop records of the parts of its partition with what
they hold, and the faults of engines (R188, R431 to R434). -/

namespace Sys2Proof.Machine

/-! ### The halt line (R431) -/

/-- A sheaf of the context enters its handler for the halt, unless it faulted itself, runs its handler, or has no
live thread. -/
def Sheaf.halt (sh : Sheaf) (h : Halt) : Sheaf :=
  if sh.inHandler ∨ sh.liveThreads = [] ∨ sh.threads = [] then sh
  else sh.owe ⟨0x20, 0, h.engine, 0, 0, 0⟩

/-- HALT_LINE (R431): the line reaches the partition. -/
def execHaltLine (ctx : Nat) (s : State) : Host.Outcome State Fault Refusal :=
  .next (match (s.ctx ctx).halt with
    | none => s
    | some h =>
      if h.reached ∨ (s.ctxs.get ctx).isNone then s
      else
        let s := s.modCtx ctx (fun c => { c with halt := some { h with reached := true } })
        each (s.sheavesOf ctx) (fun sid s => if some sid = h.sid then s else s.modSheaf sid (fun sh => sh.halt h)) s)

/-! ### Stop records (R432, R433) -/

/-- Scratchpad address bits 24 and 18:0 as a stop record holds them. -/
def stopSp (a : Word) : Nat := b2n (a.getLsbD 24) * 2 ^ 19 + bits a.toNat 0 19

/-- One entry of 16 bytes. -/
def stopEntry (l : List (Nat × Nat)) : List Byte := natBytes 16 (cat l)

/-- The entries of a held copy: one for each lane that has not landed. -/
def Copy.entries (k : Copy) : List (List Byte) :=
  (k.lanes.filter (fun l => !l.done)).map (fun l => stopEntry [(l.va.toNat, 52), (stopSp l.sp, 20), (l.valid, 6), (k.tag, 2),
    (b2n k.s2g, 1), (slotOf k.sid, 6), (k.gen.toNat, 24), (0, 17)])

/-- The entry of a held record, with the bytes of the elements that have landed. -/
def Req.entry (r : Req) : List Byte :=
  let (op, z) := match r.kind with
    | .tensor => ((recOf r.bytes).op, (recOf r.bytes).dsz)
    | _ => (0, 4)
  stopEntry [(stopSp r.addr, 20), (r.pos * z, 32), (op, 4), (0, 72)]

/-- The entry of a held matrix operation. -/
def MatOp.entry (m : MatOp) : List Byte :=
  stopEntry [(m.acc, 8), (m.groups, 3), (slotOf m.sid, 6), (m.gen.toNat, 24), (m.pc.toNat, 52), (0, 35)]

/-- The code of a lift job. -/
def JobKind.code : JobKind → Nat
  | .sth => 0
  | .hfwd => 1
  | .hinv => 2
  | .hmaskUpd => 3
  | .forced => 4

/-- The entry of a held lift job. -/
def Job.entry (j : Job) : List Byte := stopEntry [(j.tile, 8), (b2n j.acc, 1), (j.kind.code, 3), (0, 116)]

/-- The entry of a held fill. -/
def Fill.entry (f : Fill) : List Byte :=
  stopEntry [(f.va.toNat, 52), (f.off, 30), (f.left, 24), (f.region, 6), (0, 16)]

/-- The record of a stopped part: KIND 0x51 with its entries. -/
def State.stopRecord (s : State) (ctx : Nat) (i : FaultInfo) (l : List (List Byte)) : State :=
  s.record ctx (faultHeader s.now ctx 0x51 l.length i ++ l.flatten)

/-- The context has work on a core. -/
def State.worksOn (s : State) (ctx c : Nat) : Bool := (s.wgsOn c).any (fun p => p.2.ctx == ctx)

/-- A part of the partition has work or state of the context (R431): an engine that holds none of its work is no such part
(R478). -/
def State.hasPart (s : State) (ctx part unit : Nat) : Bool :=
  match part with
  | 0 => s.worksOn ctx unit
  | 1 => (s.core unit).copies.any (fun k => k.2.ctx == ctx)
  | 2 => (s.core unit).reqs.any (fun r => r.2.ctx == ctx)
  | 3 => (s.wgsOn unit).any (fun q => q.2.ctx == ctx && q.2.stage == .prologue && q.2.bindings != [])
  | 4 | 5 => ((s.pod unit).queue (part - 4)).any (fun m => m.ctx == ctx)
  | 6 => (s.core unit).jobs.any (fun j => (s.wg j.wg).ctx == ctx)
  | 7 => (s.die unit).fills.any (fun f => f.2.ctx == ctx)
  | 8 => s.graphs.any (fun g => g.2.ctx == ctx && g.2.stage == .admitted && g.2.ress.any (fun r => r.cls == 1 && r.die == unit))
  | 9 => s.graphs.any (fun g => g.2.ctx == ctx && g.2.stage == .admitted && g.2.passes.any (fun p => p.home == unit))
  | _ => false

/-- The copies of a context on a core are held; their tags are withdrawn. -/
def State.holdCopies (s : State) (ctx c : Nat) : State :=
  each ((s.core c).copies.filter (fun k => k.2.ctx = ctx)) (fun k s =>
    (s.lowerTag k.2).modCore c (fun x => { x with copies := x.copies.mod k.1 (fun k => { k with
      held := true
      withdrawn := true }) })) s

/-- A matrix operation finishes reading its operands, its flag counts down, and it is held (R432). -/
def State.holdMat (s : State) (pod eng : Nat) (m : MatOp) : State :=
  let (m', s) := s.readOperands m
  let s := s.modEngine pod eng (fun l => l.map (fun x => if x.op = m.op then { m' with
    held := true
    regs := [] } else x))
  let s := s.completeOp m.op
  match m.weights with
  | some (d, _, _) => s.settleRegions d
  | none => s

/-- The binding that a prologue holds: workgroup index, the binding's number in its pass, and the bytes that have landed. -/
def State.bindingEntry (s : State) (q : Workgroup) : List Byte :=
  let i := q.bindings.headD 0
  let z := (recOf (bindingOf ((s.graph q.graph).binds.getD i [])).record).dsz
  stopEntry [(q.wgid.toNat, 32), (i - ((s.graph q.graph).pass q.pass).bfirst, 4), (q.bindPos * z, 32), (0, 60)]

/-- What a part holds is marked held; with it the program counter of the first held operation and the entries
in the order of acceptance. -/
def State.holdPart (s : State) (ctx part unit : Nat) : Nat × List (List Byte) × State :=
  match part with
  | 1 =>
    let l := (s.core unit).copies.filter (fun k => k.2.ctx = ctx)
    (((l.head?).map (fun k => k.2.pc.toNat)).getD 0, l.flatMap (fun k => k.2.entries), s.holdCopies ctx unit)
  | 2 =>
    let l := (s.core unit).reqs.filter (fun r => r.2.ctx = ctx)
    (((l.head?).map (fun r => r.2.pc.toNat)).getD 0, l.map (fun r => r.2.entry),
      s.modCore unit (fun k => { k with reqs := k.reqs.map (fun (r : Nat × Req) =>
        (r.1, if r.2.ctx = ctx then { r.2 with held := true } else r.2)) }))
  | 3 =>
    let l := (s.wgsOn unit).filter (fun q => q.2.ctx = ctx && q.2.stage == .prologue && q.2.bindings != [])
    (0, l.map (fun q => s.bindingEntry q.2), each l (fun q s => s.modWg q.1 (fun q => { q with heldBinding := true })) s)
  | 4 | 5 =>
    let l := ((s.pod unit).queue (part - 4)).filter (fun m => m.ctx = ctx)
    (((l.head?).map (fun m => m.pc.toNat)).getD 0, l.map MatOp.entry,
      each (l.filter (fun m => !m.held)) (fun m s => s.holdMat unit (part - 4) m) s)
  | 6 =>
    let mine (j : Job) : Bool := (s.wg j.wg).ctx == ctx
    ((((s.core unit).jobs.find? mine).map (fun j => j.pc.toNat)).getD 0, ((s.core unit).jobs.filter mine).map Job.entry,
      s.modCore unit (fun k => { k with jobs := k.jobs.map (fun j => if mine j then { j with held := true } else j) }))
  | 7 =>
    let l := (s.die unit).fills.filter (fun f => f.2.ctx = ctx)
    (((l.head?).map (fun f => f.2.pc.toNat)).getD 0, l.map (fun f => f.2.entry),
      s.modDie unit (fun d => { d with fills := d.fills.map (fun (f : Nat × Fill) =>
        (f.1, if f.2.ctx = ctx then { f.2 with held := true } else f.2)) }))
  | 8 => (0, [], { s with graphs := s.graphs.map (fun (g : Nat × Graph) =>
      (g.1, if g.2.ctx ≠ ctx then g.2 else { g.2 with chains := g.2.chains.map (fun (c : Nat × Chain) =>
        (c.1, if (g.2.res (g.2.targetOf c.2).1).die = unit then { c.2 with held := true } else c.2)) })) })
  | _ => (0, [], s)

/-- Core and base die of a part, for its stop record: a pod's engines name the pod's first core. -/
def partPlace (part unit : Nat) : Nat × Nat :=
  match part with
  | 0 | 1 | 2 | 3 | 6 => (unit, baseOfCore unit)
  | 4 | 5 => (2 * unit, baseOfCore (2 * unit))
  | 7 => (255, baseOfCore (32 * unit))
  | _ => (255, unit)

/-- The lift unit of a core is within a job of the context, which it finishes before it stops (R246, R432). -/
def State.midJob (s : State) (ctx c : Nat) : Bool :=
  (s.core c).jobs.any (fun j => j.grouped && j.rows != [] && (s.wg j.wg).ctx == ctx)

/-- PART_STOP (R432, R433): a part of a halted context's partition stops and writes its stop record; that of the ring-store
controller which raised the fault is the fault's own record (R341, R478). -/
def execPartStop (ctx part unit : Nat) (s : State) : Host.Outcome State Fault Refusal :=
  .next (
    let c := s.ctx ctx
    match c.halt with
    | none => s
    | some h =>
      if !h.reached ∨ (part, unit) ∈ c.stopped ∨ !s.hasPart ctx part unit ∨ (part = 6 ∧ s.midJob ctx unit) then s
      else
        let (pc, l, s) := s.holdPart ctx part unit
        let (core, die) := partPlace part unit
        let s := if part = 8 ∧ h.engine = 8 ∧ h.die = unit then s
          else s.stopRecord ctx { code := 0, pc := pc, core := core, engine := part, die := die } l
        s.modCtx ctx (fun c => { c with stopped := (part, unit) :: c.stopped }))

/-! ### Engine faults (R188, R424, R432) -/

/-- The access that a lane of a copy, whose turn it is, cannot make. -/
def State.badCopy (s : State) (c op : Nat) (k : Copy) : Option (Nat × Nat) :=
  (k.lanes.filter (fun l => !l.done && s.mayCopy c op k l)).findSome? (fun l => match s.copyBytes c k l with
    | .error (e, va, _) => if engineBad e then some (e, va) else none
    | .ok _ => none)

/-- A copy engine's fault: the copy is held. -/
def State.faultCopy (s : State) (c op : Nat) : State :=
  match (s.core c).copies.get op with
  | none => s
  | some k =>
    match s.badCopy c op k with
    | none => s
    | some (e, va) =>
      if s.halted k.ctx then s
      else (s.modCore c (fun x => { x with copies := x.copies.mod op (fun k => { k with held := true }) })).engineFault
        k.ctx e k.pc.toNat va c 1 (baseOfCore c)

/-- A request engine's fault: the record is held, with what has landed before the element that faults. -/
def State.faultReq (s : State) (c op : Nat) : State :=
  match (s.core c).reqs.get op with
  | none => s
  | some r =>
    match s.tryReq c op r with
    | (s', some (e, va, _)) =>
      if !engineBad e ∨ s.halted r.ctx then s
      else (s'.modCore c (fun x => { x with reqs := x.reqs.mod op (fun r => { r with held := true }) })).engineFault
        r.ctx e r.pc.toNat va c 2 (baseOfCore c)
    | _ => s

/-- A prologue engine's fault: the binding is held, with what has landed before the element that faults. -/
def State.faultBinding (s : State) (w : Nat) : State :=
  let q := s.wg w
  match s.nextBinding w with
  | none => s
  | some (_, b) =>
    match s.runBinding w b with
    | (s', some (e, va, _)) =>
      if !engineBad e ∨ s.halted q.ctx then s
      else (s'.modWg w (fun q => { q with heldBinding := true })).engineFault q.ctx e 0 va q.core 3 (baseOfCore q.core)
    | _ => s

/-- ENGINE_FAULT (R188, R424): an engine's next access fails: 1 copy, 2 request, 3 prologue, 7 fill engine; the
ring-store controller and the graph engines raise theirs with the events that make the access. -/
def execEngineFault (engine unit op : Nat) (s : State) : Host.Outcome State Fault Refusal :=
  .next (match engine with
    | 1 => s.faultCopy unit op
    | 2 => s.faultReq unit op
    | 3 => s.faultBinding op
    | 7 => s.faultFill unit op
    | _ => s)

end Sys2Proof.Machine
end

