-- ==== Sys2Proof/Machine/Contexts.lean ====
section
/-! DEFINITION. The context commands: LOAD, INVAL, REPLAY, RESUME, ABANDON and UNLOAD, and the table's base
(R267, R269, R434, R446, R447). -/

namespace Sys2Proof.Machine

/-- The command with operation `op` on context `n` is running, in a device that is awake (R458). -/
def State.ctxCmd (s : State) (op n : Nat) : Bool :=
  !s.asleep && s.regs.ctxcmd.busy && s.regs.ctxcmd.op.toNat == op && s.regs.ctxcmd.target.toNat == n

/-- The running context command ends. -/
def State.endCtxCmd (s : State) (err : Bool) : State :=
  s.modRegs (fun r => { r with ctxcmd := { r.ctxcmd with
    busy := false
    err := r.ctxcmd.err || err } })

/-! ### What a context holds (R447) -/

/-- An operation of a context is held. -/
def State.holdsHeld (s : State) (ctx : Nat) : Bool :=
  s.cores.any (fun k => k.2.copies.any (fun p => p.2.held && p.2.ctx == ctx) || k.2.reqs.any (fun p => p.2.held && p.2.ctx == ctx) ||
    k.2.jobs.any (fun j => j.held && (s.wg j.wg).ctx == ctx)) ||
  s.pods.any (fun p => (p.2.mul ++ p.2.sel).any (fun m => m.held && m.ctx == ctx)) ||
  s.dies.any (fun d => d.2.fills.any (fun f => f.2.held && f.2.ctx == ctx))

/-- A context holds work (R447): a graph counts from its intake until it is rejected or retired. -/
def State.holdsWork (s : State) (ctx : Nat) : Bool :=
  s.queues.any (fun q => q.2.state != .disabled && q.2.ctx == ctx) ||
  s.graphs.any (fun g => g.2.ctx == ctx && g.2.stage != .retired && g.2.stage != .rejected) ||
  s.wgs.any (fun w => w.2.ctx == ctx && w.2.stage != .retired) || s.holdsHeld ctx ||
  (s.regs.ttRun && s.regs.valid.any (fun e => e.2.ctx.toNat == ctx))

/-! ### LOAD, UNLOAD, CTXBASE (R446, R447) -/

/-- A descriptor keeps the limits of R446. -/
def ctxOk (x : Nat) : Bool := bit x 0 && decide (bits x 841 4 ≤ 8) && bits x 2 502 == 0

/-- Cached translations of a context are dropped, and every core's fetch cache is invalidated: no fetch takes a
clause as it was before a store performed when the command was written (R20, R267, R273). -/
def State.dropCaches (s : State) (ctx : Nat) : State :=
  { s with
    cores := s.cores.map (fun (p : Nat × Core) => (p.1, { p.2 with tlb := p.2.tlb.filter (fun t => t.ctx ≠ ctx) }))
    dies := s.dies.map (fun (p : Nat × ComputeDie) => (p.1, { p.2 with tlb := p.2.tlb.filter (fun t => t.ctx ≠ ctx) }))
    was := s.was.filter (fun p => decide (s.regs.invalAt ≤ p.1)) }

/-- A context that has just been loaded. -/
def newCtx (x : Nat) : Ctx where
  desc := BitVec.ofNat 1024 x
  halt := none
  calls := 0
  frames := []
  replays := []
  stopped := []
  banks := []

/-- A live descriptor is replaced; the slots of the format-table banks that the device has written are those of the save
area, so that none of a new one has been (R86, R439, R447). -/
def Ctx.redescribed (c : Ctx) (d : BitVec 1024) : Ctx :=
  let e := { c with desc := d }
  if e.field 810 31 = c.field 810 31 then e else { e with banks := [] }

/-- LOAD (R447). -/
def execLoad (n : Nat) (s : State) : Host.Outcome State Fault Refusal :=
  .next (
    if !s.ctxCmd 1 n then s
    else
      let (x, s) := s.physNum (s.regs.ctxbase.toNat + 128 * n) 128
      if !ctxOk x then s.endCtxCmd true
      else match s.ctxs.get n with
        | none => { s with ctxs := s.ctxs.put n (newCtx x) }.endCtxCmd false
        | some _ =>
          if s.holdsWork n then s.endCtxCmd true
          else ((s.modCtx n (fun c => c.redescribed (BitVec.ofNat 1024 x))).dropCaches n).endCtxCmd false)

/-- UNLOAD (R447). -/
def execUnload (n : Nat) (s : State) : Host.Outcome State Fault Refusal :=
  .next (
    if !s.ctxCmd 6 n then s
    else if s.holdsWork n then s.endCtxCmd true
    else { s.dropCaches n with ctxs := s.ctxs.del n }.endCtxCmd false)

/-- CTXBASE_WRITE (R447): ignored while any context is loaded. -/
def execCtxbaseWrite (value : Nat) (s : State) : Host.Outcome State Fault Refusal :=
  .next (if s.ctxs = [] then s.modRegs (fun r => { r with ctxbase := BitVec.ofNat 64 (bits value 19 29 * 2 ^ 19) }) else s)

/-! ### INVAL, REPLAY (R267, R269) -/

/-- An access of the context that was translated earlier is in flight. -/
def State.accessing (s : State) (ctx : Nat) : Bool :=
  s.ops.any (fun p => p.2.ctx == ctx && isGlobal p.2.instr && p.2.lanes.any (fun l => !l.done)) ||
  s.bases.any (fun b => b.2.posted.any (fun p => p.2.ctx == ctx))

/-- INVAL (R267, R447): entries and fetched clauses are dropped at once; it ends when no access in flight uses an
older entry. -/
def execInval (n : Nat) (s : State) : Host.Outcome State Fault Refusal :=
  .next (
    if !s.ctxCmd 2 n then s
    else
      let s := s.dropCaches n
      if s.accessing n then s else s.endCtxCmd false)

/-- A sheaf's threads that a replayable fault parked go on (R269). -/
def Sheaf.replay (sh : Sheaf) : Sheaf :=
  { sh with threads := sh.threads.map (fun th => match th.st with
      | .parked (.replay _) => th.wake
      | _ => th) }

/-- REPLAY (R269, R447): parked threads go back to their word, and engines' requests are translated again. -/
def execReplay (n : Nat) (s : State) : Host.Outcome State Fault Refusal :=
  .next (
    if !s.ctxCmd 3 n then s
    else
      let s := s.modCtx n (fun c => { c with replays := [] })
      (each (s.sheavesOf n) (fun sid s => s.modSheaf sid Sheaf.replay) s).endCtxCmd false)

/-! ### RESUME (R434) -/

/-- The chains and fills of a context's graphs that a fault cut short start again (R341). -/
def Graph.rerun (g : Graph) : Graph :=
  { g with
    fills := g.fills.map (fun (f : Nat × RingFill) => (f.1, { f.2 with held := false }))
    chains := g.chains.map (fun (c : Nat × Chain) => (c.1, { c.2 with held := false })) }

/-- RESUME (R434, R447): the held operations may run, in their order; a context that is not halted is left as it
is. -/
def execResume (n : Nat) (s : State) : Host.Outcome State Fault Refusal :=
  .next (
    if !s.ctxCmd 4 n then s
    else if !s.halted n then s.endCtxCmd false
    else
      let again (m : MatOp) : MatOp := if m.ctx = n then { m with expired := false } else m
      let s := s.modCtx n (fun c => { c with
        halt := none
        stopped := [] })
      { s with
        pods := s.pods.map (fun (p : Nat × Pod) => (p.1, ⟨p.2.mul.map again, p.2.sel.map again⟩))
        graphs := s.graphs.map (fun (g : Nat × Graph) => (g.1, if g.2.ctx = n then g.2.rerun else g.2)) }.endCtxCmd false)

/-! ### ABANDON (R364, R434) -/

/-- What the engines of the cores hold of a context is discarded. -/
def State.discardCores (s : State) (ctx : Nat) : State :=
  let mine (j : Job) : Bool := (s.wg j.wg).ctx == ctx
  let s := each (s.cores.flatMap (fun k => k.2.jobs.filter (fun j => mine j && j.acc))) (fun j s =>
    s.modAcc j.wg j.tile (fun a => a.leave j.ticket)) s
  let s := each (s.cores.flatMap (fun k => k.2.copies.filter (fun p => p.2.ctx = ctx))) (fun k s => s.lowerTag k.2) s
  { s with cores := s.cores.map (fun (p : Nat × Core) => (p.1, { p.2 with
      copies := p.2.copies.filter (fun k => k.2.ctx ≠ ctx)
      reqs := p.2.reqs.filter (fun r => r.2.ctx ≠ ctx)
      jobs := p.2.jobs.filter (fun j => !mine j) })) }

/-- The matrix operations of a context are discarded. -/
def State.discardPods (s : State) (ctx : Nat) : State :=
  let l := s.pods.flatMap (fun p => (p.2.mul ++ p.2.sel).filter (fun m => m.ctx = ctx))
  let s := { s with pods := s.pods.map (fun (p : Nat × Pod) =>
    (p.1, ⟨p.2.mul.filter (fun m => m.ctx ≠ ctx), p.2.sel.filter (fun m => m.ctx ≠ ctx)⟩)) }
  each l (fun m s =>
    let s := (s.modAcc m.wg m.acc (fun a => a.leave m.ticket)).completeOp m.op
    match m.weights with
    | some (d, _, _) => s.settleRegions d
    | none => s) s

/-- The fills of a context into weight stores are discarded. -/
def State.discardFills (s : State) (ctx : Nat) : State :=
  each s.dies (fun d s =>
    each (d.2.fills.filter (fun f => f.2.ctx = ctx)) (fun f s =>
      let s := s.modRegion d.1 f.2.region (fun r => { r with pend := r.pend - BitVec.ofNat 24 f.2.left })
      (s.modDie d.1 (fun d => { d with fills := d.fills.del f.1 })).settleRegion d.1 f.2.region) s) s

/-- Instructions of a context in flight that only change what is given up are ended; global accesses go on.  Transitions of
weight-store regions that waited for them take place (R228). -/
def State.discardOps (s : State) (ctx : Nat) : State :=
  let s := each (s.ops.filter (fun p => p.2.ctx = ctx && !isGlobal p.2.instr)) (fun p s => s.completeOp p.1) s
  each s.dies (fun d s => s.settleRegions d.1) s

/-- A workgroup is given up: its sheaves are killed, or are gone where they had not started or were saved; the format bank
leaves the core with the context's last workgroup (R86). -/
def State.killWg (s : State) (w : Nat) : State :=
  let q := s.wg w
  match q.stage with
  | .retired => s
  | .running =>
    let s := s.modWg w (fun q => { q with
      saved := []
      evicted := 0
      leaving := false
      relaunch := [] })
    each (s.seated w) (fun sid s => s.killSheaf sid) s
  | _ =>
    let s := { s with sheaves := s.sheaves.filter (fun p => p.2.wg ≠ w) }
    let s := ((s.giveFrame w).freeRecs q.ctx q.owned).modWg w (fun q => { q with
      stage := .retired
      saved := []
      owned := []
      bindings := []
      heldBinding := false
      scratch := []
      tiles := []
      thr := []
      acc := [] })
    if q.resident then s.saveBank q.core q.ctx (bankBytes (((s.core q.core).fmt.get q.ctx).getD [])) else s

/-- An admitted graph is given up (R364): its entries, extents and reservations are released, and DONEVAL is not
written. -/
def State.killGraph (s : State) (n : Nat) : State :=
  let s := s.freeExtents n
  let s := { s with
    launches := s.launches.map (fun (u : Nat × Launch) => (u.1, { u.2 with
      tiles := u.2.tiles.filter (fun x => x.1 ≠ n)
      batches := u.2.batches.filter (fun x => x.1 ≠ n) }))
    bases := s.bases.map (fun (b : Nat × BaseDie) => (b.1, { b.2 with notices := b.2.notices.filter (fun x => x.graph ≠ n) }))
    recs := s.recs.map (fun (c : Nat × Tab Rec) =>
      (c.1, if c.1 = (s.graph n).ctx then c.2.filter (fun r => r.2.graph ≠ n) else c.2)) }
  let s := s.modGraph n (fun g => { g with
    stage := .retired
    resv := []
    rings := []
    fills := []
    chains := []
    runs := g.runs.map (fun r => { r with
      tiles := []
      queue := []
      coming := [] }) })
  (s.modRegs (fun r => if r.ttGraph = some n then { r with ttGraph := none } else r)).forgetGraph n

/-- ABANDON (R364, R434): held operations are discarded, sheaves are killed, admitted graphs are dropped. -/
def execAbandon (n : Nat) (s : State) : Host.Outcome State Fault Refusal :=
  .next (
    if !s.ctxCmd 5 n then s
    else
      let ws := (s.wgs.filter (fun p => p.2.ctx = n)).map (·.1)
      let s := (((s.discardCores n).discardPods n).discardFills n).discardOps n
      let s := (each ws (fun w s => s.killWg w) s).noIncoming ws
      let gs := (s.graphs.filter (fun g => g.2.ctx = n && g.2.stage == .admitted)).map (·.1)
      let s := each gs (fun g s => s.killGraph g) s
      (s.modCtx n (fun c => { c with
        halt := none
        stopped := []
        replays := [] })).endCtxCmd false)

end Sys2Proof.Machine
end

