-- ==== Sys2Proof/Machine/Links.lean ====
section
/-! DEFINITION. The peer ports, the links between the base dies, and the accesses of peers and of the application
cores (R288 to R290, R450 to R452, R315, R275). -/

namespace Sys2Proof.Machine

/-! ### Posted stores (R288) -/

/-- No store of the same core posted earlier to the same package, and not performed, overlaps posted store `n`; nor one of an
engine of the pod, whose threads may have seen its report (R182, R276). -/
def BaseDie.firstPosted (b : BaseDie) (n : Nat) (p : Posted) : Bool :=
  b.posted.all (fun q => decide (n ≤ q.1) || q.2.performed ||
    (if q.2.engine then coreOf q.2.sid / 2 != coreOf p.sid / 2 else coreOf q.2.sid != coreOf p.sid) || q.2.pkg != p.pkg ||
    !overlap q.2.pa q.2.data.length p.pa p.data.length)

/-- The lane whose store has the place `n` in the core order is done. -/
def State.finishApplied (s : State) (n : Nat) : State :=
  match s.ops.findSome? (fun p => (p.2.lanes.find? (fun l => l.applied == some n && !l.done)).map (fun l => (p.1, l.thread))) with
  | none => s
  | some (o, t) => s.finishLane o t

/-- PEER_WRITE_ACKNOWLEDGED (R288): a posted store has been performed at its home, and its acknowledgement has come
back. -/
def execPeerWriteAcknowledged (n : Nat) (s : State) : Host.Outcome State Fault Refusal :=
  .next (match s.bases.find? (fun b => (b.2.posted.get n).isSome) with
    | none => s
    | some b =>
      match b.2.posted.get n with
      | none => s
      | some p =>
        if s.linkUp p.pkg ∧ (p.performed ∨ b.2.firstPosted n p = true) then
          ((if p.performed then s else s.performPosted p).modBase b.1 (fun b => { b with
            posted := b.posted.del n })).finishApplied n
        else s)

/-! ### Link loss (R288 to R290) -/

/-- An entry of a link-loss record (R290). -/
def lossEntry (p : Posted) : List Byte := natBytes 16 (cat [(p.va.toNat % 2 ^ 52, 52), (p.data.length - 1, 7), (0, 69)])

/-- A link-loss record (R290). -/
def lossRecord (time pc gen slot port ctx : Nat) (l : List Posted) : List Byte :=
  natBytes 32 (cat [(time, 64), (pc, 64), (gen, 24), (slot, 6), (b2n (decide (4096 < l.length)), 1), (port, 1),
    (min 4096 l.length, 32), (ctx, 32), (0, 24), (0x21, 8)]) ++ (l.take 4096).flatMap lossEntry

/-- Stores that a context has posted through a port. -/
def State.postedOf (s : State) (ctx d : Nat) : List Posted :=
  ((s.base d).posted.map (·.2)).filter (fun p => p.ctx = ctx)

/-- The link of port `d` is down for stores that a core's release in a context waits for (R288, R452). -/
def State.portLost (s : State) (ctx d : Nat) : Bool :=
  let p := (s.base d).port
  !p.en || p.state == 0 || (s.postedOf ctx d).any (fun q => s.linkDown q.pkg)

/-- A release that waits learns that port `d`'s stores have been listed by another release. -/
def RelWait.owe (r : RelWait) (d : Nat) : RelWait := { r with owes := r.owes ||| BitVec.ofNat 2 (2 ^ d) }

/-- A release has counted the stores of port `d` as resolved. -/
def RelWait.settle (r : RelWait) (d : Nat) : RelWait := { r with
  lost := r.lost ||| BitVec.ofNat 2 (2 ^ d)
  owes := r.owes &&& ~~~ BitVec.ofNat 2 (2 ^ d) }

/-- The timebase at which a release gives up on port `d`. -/
def RelWait.until_ (r : RelWait) (d : Nat) : Nat := if d = 0 then r.until0 else r.until1

/-- Every release of the context that waits for a listed store of its own core, or of an engine (`all`), has it to answer
for. -/
def State.oweAll (s : State) (ctx d : Nat) (cores : List Nat) (all : Bool) : State :=
  { s with
    sheaves := s.sheaves.map (fun (p : Nat × Sheaf) =>
      if p.2.ctx = ctx ∧ (all ∨ coreOf p.1 ∈ cores) then
        (p.1, { p.2 with run := p.2.run.map (fun r => { r with rel := r.rel.map (·.owe d) }) })
      else p)
    ops := s.ops.map (fun (p : Nat × LongOp) =>
      if p.2.ctx = ctx ∧ (all ∨ p.2.core ∈ cores) then (p.1, { p.2 with rel := p.2.rel.map (·.owe d) }) else p) }

/-- The stores of a context on port `d` count as resolved: each has been performed or not. -/
def State.resolvePosted (s : State) (ctx d : Nat) : State :=
  let l := (s.base d).posted.filter (fun p => p.2.ctx = ctx)
  let s := each l (fun p s =>
    if p.2.performed then s else let (b, s) := s.flip; if b then s.performPosted p.2 else s) s
  let s := (s.modBase d (fun b => { b with posted := b.posted.filter (fun p => p.2.ctx ≠ ctx) })).oweAll ctx d
    (l.map (fun p => coreOf p.2.sid)) (l.any (fun p => p.2.engine))
  each l (fun p s => s.finishApplied p.1) s

/-- A release of threads `who` of a sheaf ends its wait for port `d` (R288, R289); LOSSES counts the link-loss record that is
written (R452). -/
def State.loseLink (s : State) (sid ctx d : Nat) (gen : BitVec 24) (pc : BitVec 64) (who : List Nat) : State :=
  let s := s.modSheaf sid (fun sh => each who (fun t sh =>
    sh.modThread t (fun th => { th with mst := th.mst ||| BitVec.ofNat 2 (2 ^ d) })) sh)
  let (written, s) := s.tryRecord ctx (lossRecord s.now pc.toNat gen.toNat (slotOf sid) d ctx (s.postedOf ctx d))
  let s := if written then s.modBase d (fun b => { b with port := { b.port with losses := min 255 (b.port.losses + 1) } }) else s
  s.resolvePosted ctx d

/-- A port for which a release has waited long enough, or whose link is down. -/
def State.expiredPort (s : State) (c ctx w : Nat) (r : RelWait) : Option Nat :=
  [0, 1].find? (fun d => s.awaits c w (some r) d && (decide (r.until_ d ≤ s.now) || s.portLost ctx d))

/-- The threads in which the present word acts. -/
def State.wordActors (s : State) (sid : Nat) (r : ClauseRun) : List Nat :=
  let group := bitsOf 64 r.mask
  match Sys2Proof.decode (r.words.getD r.k 0) (r.words.getD (r.k + 1) 0) with
  | .ok i => actors i (s.sheaf sid) group
  | .error _ => group

/-- RETRAIN_LIMIT_EXPIRY (R288): a release of a sheaf, its present word or an access in flight, has waited for a
port's acknowledgements as long as the retrain limit allows, or the link is down. -/
def execRetrainLimitExpiry (sid : Nat) (s : State) : Host.Outcome State Fault Refusal :=
  .next (
    let sh := s.sheaf sid
    let c := coreOf sid
    let word := match sh.run with
      | some r => (r.rel.bind (fun w => s.expiredPort c sh.ctx sh.wg w)).map (fun d => (r, d))
      | none => none
    match word with
    | some (r, d) =>
      (s.loseLink sid sh.ctx d sh.gen (wordAddr r.pc (some r.k)) (s.wordActors sid r)).modSheaf sid (fun sh =>
        { sh with run := sh.run.map (fun r => { r with rel := r.rel.map (·.settle d) }) })
    | none =>
      match s.ops.find? (fun p => p.2.sid = sid && (p.2.rel.bind (fun w => s.expiredPort p.2.core p.2.ctx p.2.wg w)).isSome) with
      | none => s
      | some (o, op) =>
        match op.rel.bind (fun w => s.expiredPort op.core op.ctx op.wg w) with
        | none => s
        | some d =>
          let who := if s.opAlive op then (op.lanes.filter (!·.done)).map (·.thread) else []
          (s.loseLink sid op.ctx d op.gen op.pc who).modOp o (fun op => { op with rel := op.rel.map (·.settle d) }))

/-- A load or an atomic, to a peer page (R288). -/
def answersPeer : Instr → Bool
  | .st _ | .stSub _ | .stRel _ => false
  | i => isGlobal i

/-- Registers that a load or an atomic writes in each lane. -/
def peerD (i : Instr) : BitVec 8 × Nat :=
  match i with
  | .ld f | .ldCon f | .ldAcq f => (f.d, regsOf (accessSize i))
  | i => (atomD i, regsOf (accessSize i))

/-- LINK_LOSS_FAULT (R288): the lanes of a load or an atomic whose link is down receive poison, and the context
fault of code 0x14 is raised. -/
def execLinkLossFault (o lane : Nat) (s : State) : Host.Outcome State Fault Refusal :=
  .next (match s.ops.get o with
    | none => s
    | some op =>
      let lost (l : Lane) : Bool := !l.done && l.leaf.ca == 3 && s.linkDown l.leaf.peer && s.mayApply o op l
      let bad := op.lanes.filter lost
      if !answersPeer op.instr ∨ !(bad.any (fun l => l.thread = lane)) then s
      else
        let (d, n) := peerD op.instr
        let con := match op.instr with
          | .ldCon _ => true
          | _ => false
        let s := each bad (fun l s =>
          let (ws, s) := s.undefs n
          s.landDsts o op.sid { l with taint := l.taint || con } d ws) s
        let s := s.acquired op.core op.ctx (acqScope op.instr)
        let s := each bad (fun l s => s.finishLane o l.thread) s
        s.lateFault op 0x14 0 (bad.map (·.thread)) ((bad.head?.map (fun l => l.va.toNat)).getD 0))

/-- PEER_LINK_STATE_CHANGE (R452): a port is down, trains, is up or retrains, eight or four lanes wide; a port
that is not enabled stays down. -/
def execPeerLinkStateChange (port st narrow : Nat) (s : State) : Host.Outcome State Fault Refusal :=
  .next (
    let p := (s.base port).port
    let q := { p with
      state := st
      narrow := decide (narrow ≠ 0) }
    if 2 ≤ port ∨ 4 ≤ st ∨ (!p.en ∧ st ≠ 0) ∨ q = p then s
    else (s.modBase port (fun b => { b with port := q })).interrupt 4)

/-- UCIE_LINK_FAILURE (R451): with both links down every loaded context has unavailable memory. -/
def execUcieLinkFailure (link : Nat) (s : State) : Host.Outcome State Fault Refusal :=
  .next (
    if s.regs.ucie.getD link false = false then s
    else
      let s := (s.modRegs (fun r => { r with ucie := r.ucie.set link false })).interrupt 4
      if s.regs.ucie.any id then s
      else each s.ctxs.keys (fun n s => s.contextFault n { code := 0x13 } none) s)

/-! ### Accesses from outside the cores (R288, R450) -/

/-- The mapping that an access from outside comes through: PLURAL, CELL8, BDI and the context whose tables they
name. -/
structure Outside where
  leaf : Leaf
  ctx : Nat
  deriving DecidableEq, Repr, Inhabited

/-- The mapping packed in `kind` above its operation in bits 4:0: bit 5 PLURAL, bit 6 CELL8, bits 18:7 BDI, bits
30:19 the context. -/
def outsideOf (kind pa : Nat) : Outside :=
  ⟨⟨pa, bits kind 5 2 * 2 ^ 5 + bits kind 7 12 * 2 ^ 48⟩, bits kind 19 12⟩

/-- Bytes stored from outside: on a plural mapping a blind write in each cell, refused where it would fault
(R315). -/
def State.outsideStore (s : State) (x : Outside) (bs : List Byte) : State :=
  if x.leaf.plural then (s.blindWrites (s.ctx x.ctx) x.leaf bs).2
  else s.homeStore (s.ctx x.ctx) x.leaf bs

/-- An atomic from outside (R284, R295, R297): `op` is its operation, 16 a compare-and-swap. -/
def outsideNew (op n data cmp old : Nat) : Nat :=
  if op = 16 then (if old = cmp % 2 ^ (8 * n) then data else old)
  else (atomicRun (8 * n) op old [data % 2 ^ (8 * n)]).1

/-- An access from outside is performed at its home: operation 0 a load, 1 a store, 2 + k the atomic k. -/
def State.outside (s : State) (kind pa size data cmp : Nat) : State :=
  let x := outsideOf kind pa
  let op := kind % 32
  if !s.inGddr pa size then s
  else
    match op with
    | 0 => s
    | 1 => s.outsideStore x (natBytes size data)
    | k =>
      let r := s.homeLoad (s.ctx x.ctx) x.leaf size
      if r.2 ∨ !(size = 4 ∨ size = 8) ∨ 18 < k ∨ (11 < k ∧ k < 18) ∨ (k = 11 ∧ size = 8) then s
      else s.outsideStore x (natBytes size (outsideNew (k - 2) size data cmp (leNat r.1)))

/-- PEER_ACCESS_REQUEST (R288): it is performed at its home and acknowledged or answered; a compare-and-swap
carries the compared value in the low half of `data`. -/
def execPeerAccessRequest (kind pa size data : Nat) (s : State) : Host.Outcome State Fault Refusal :=
  .next (
    if kind % 32 = 18 then s.outside kind pa size (data / 2 ^ (8 * size)) data
    else s.outside kind pa size data 0)

/-- APPLICATION_CORE_ACCESS (R450): GDDR 7 through the homes; loads and stores reach the register windows
(R445). -/
def execApplicationCoreAccess (kind pa size data cmp : Nat) (s : State) : Host.Outcome State Fault Refusal :=
  .next (
    if (windowOf pa).isSome then
      (if kind % 32 = 1 then s.windowStore pa (natBytes size data) else s)
    else s.outside kind pa size data cmp)

end Sys2Proof.Machine
end

