-- ==== Sys2Proof/Machine/Power.lean ====
section
/-! DEFINITION. The timebase, power-aware admission, the power states, fixed-clock mode, the display heads, the
measurements and attestation (R382, R449, R454 to R461). -/

namespace Sys2Proof.Machine

/-! ### Timebase (R456) -/

/-- TBSTEP (R456): a positive offset is added at once, a negative one is slewed out. -/
def execTbstep (value : Nat) (s : State) : Host.Outcome State Fault Refusal :=
  .next (
    let x := sext 64 value
    if 0 ≤ x then { s with time := { s.time with now := s.time.now + BitVec.ofInt 64 x } }
    else { s with time := { s.time with slew := s.time.slew + x.natAbs * 2 ^ 36 } })

/-- The rate trim as TBRATE holds it: within 500 ppm (R456). -/
def clampRate (value : Nat) : BitVec 32 :=
  let x := sext 32 value
  let m : Int := 2147483
  BitVec.ofInt 32 (if m < x then m else if x < -m then -m else x)

/-- Time passes: `n` sixteenths of a nanosecond before the rate trim.  The fabric clock runs at 2.0 GHz; the core clock counts
`cycles` cycles, no more than 3.2 GHz gives, and exactly those where it is `fixed` (R6, R456). -/
def Time.tick (t : Time) (n cycles : Nat) (fixed : Bool) : Time :=
  let whole : Int := (n : Int) * (2 ^ 32 + t.rate.toInt)
  let back := min t.slew (n * 2147483)
  let sum := t.frac + (whole - (back : Int)).toNat
  let most := (t.parts + n) / 5 - t.parts / 5
  { t with
    now := t.now + BitVec.ofNat 64 (sum / 2 ^ 36)
    frac := sum % 2 ^ 36
    slew := t.slew - back
    parts := t.parts + n
    core := t.core + (if fixed then most else min cycles most)
    fabric := t.fabric + ((t.parts + n) / 8 - t.parts / 8) }

/-! ### Power-aware admission (R382) -/

/-- A power in milliwatts reaches a percentage of the limit of the device's form (R1). -/
def State.reachesPower (s : State) (pct mw : Nat) : Bool := decide (pct * s.form.limit ≤ 100 * mw)

/-- POWER_STRETCH (R382). -/
def execPowerStretch (mw : Nat) (s : State) : Host.Outcome State Fault Refusal :=
  .next (
    if s.regs.fixedOn = true ∧ s.regs.stretch = false ∧ s.reachesPower 97 mw = true then
      (s.modRegs (fun r => { r with stretch := true })).trail { event := 10, arg := mw }
    else s)

/-- POWER_HOLD (R382). -/
def execPowerHold (mw : Nat) (s : State) : Host.Outcome State Fault Refusal :=
  .next (
    if s.regs.fixedOn = true ∧ s.regs.hold = false ∧ s.reachesPower 99 mw = true then
      (s.modRegs (fun r => { r with
        hold := true
        holdSince := s.now
        holdLimited := false })).trail { event := 12, arg := mw }
    else s)

/-- HOLD_RATE_LIMITED_RESUME (R382): a hold has lasted 1 ms. -/
def execHoldRateLimitedResume (die : Nat) (s : State) : Host.Outcome State Fault Refusal :=
  .next (
    if die < 2 ∧ s.regs.hold = true ∧ s.regs.holdSince + 1000000 ≤ s.now then
      s.modRegs (fun r => { r with holdLimited := true })
    else s)

/-- Stretch and hold end, each with its trail event (R382). -/
def State.relieve (s : State) (mw : Nat) : State :=
  let s := if s.regs.stretch then
      (s.modRegs (fun r => { r with stretch := false })).trail { event := 11, arg := mw }
    else s
  if s.regs.hold then
    (s.modRegs (fun r => { r with
      hold := false
      holdLimited := false })).trail { event := 13, arg := mw }
  else s

/-- POWER_RELIEF (R382). -/
def execPowerRelief (mw : Nat) (s : State) : Host.Outcome State Fault Refusal :=
  .next (if s.reachesPower 95 mw then s else s.relieve mw)

/-! ### Fixed clock (R459) -/

/-- Fixed-clock mode ends: admission is no longer governed by R382, and an event 14 is written. -/
def State.leaveFixed (s : State) (arg : Nat) : State :=
  let (w, s) := if s.regs.stretch || s.regs.hold then s.undef else (0, s)
  let s := s.relieve w.toNat
  (s.modRegs (fun r => { r with
    fixed := false
    fixedOn := false })).trail { event := 14, arg := arg }

/-- FIXED_CLOCK_ENTRY (R459). -/
def execFixedClockEntry (s : State) : Host.Outcome State Fault Refusal :=
  .next (
    if s.regs.fixed = true ∧ s.regs.fixedOn = false then
      (s.modRegs (fun r => { r with fixedOn := true })).trail { event := 14, arg := 1 }
    else s)

/-- THERMAL_TRIP (R459). -/
def execThermalTrip (s : State) : Host.Outcome State Fault Refusal :=
  .next (
    if s.regs.fixedOn then (s.modRegs (fun r => { r with trip := true })).leaveFixed 2 else s)

/-! ### Power states (R458) -/

/-- A pod holds a sheaf. -/
def State.podBusy (s : State) (p : Nat) : Bool := s.sheaves.any (fun q => coreOf q.1 / 2 == p)

/-- Work that keeps the device from Doze. -/
def State.busy (s : State) : Bool :=
  s.wgs.any (fun p => p.2.resident) || s.cores.any (fun p => p.2.copies.any (·.2.held) || p.2.reqs.any (·.2.held) ||
    p.2.jobs.any (·.held)) || s.pods.any (fun p => (p.2.mul ++ p.2.sel).any (·.held)) ||
  s.dies.any (fun p => p.2.fills.any (·.2.held)) ||
  s.graphs.any (fun p => p.2.stage == .admitted || p.2.fills.any (·.2.held) || p.2.chains.any (·.2.held)) ||
  s.queues.any (fun p => p.2.state != .idle && p.2.state != .disabled)

/-- A table instant lies within `ns`. -/
def State.instantWithin (s : State) (ns : Nat) : Bool :=
  s.regs.ttRun && s.regs.valid.any (fun e => match s.regs.instant e.2 s.regs.ttSince with
    | some i => decide (i ≤ s.now + ns)
    | none => false)

/-- The lowest state whose condition holds and whose wake latency the tolerance allows (R458, R459). -/
def State.lowest (s : State) : BitVec 2 :=
  let tol := s.regs.ltol.toNat
  let idle : Bool := !s.regs.fixedOn && !s.busy
  if idle = true ∧ 2000000 ≤ tol ∧ s.instantWithin 2100000 = false then 3
  else if idle = true ∧ 40000 ≤ tol ∧ s.instantWithin 50000 = false then 2
  else if 20 ≤ tol ∧ (List.range 128).any (fun p => !s.podBusy p) = true then 1
  else 0

/-- POWER_STATE_ENTRY (R458): a lower state is entered, unless a wake is under way. -/
def execPowerStateEntry (s : State) : Host.Outcome State Fault Refusal :=
  .next (s.modRegs (fun r =>
    if r.pstate.toNat < s.lowest.toNat ∧ r.waking = none then { r with pstate := s.lowest } else r))

/-- WAKE (R458): a wake that has been started ends before its latency is over; the device also leaves a state whose
condition has ended. -/
def execWake (s : State) : Host.Outcome State Fault Refusal :=
  .next (if s.regs.waking.isSome ∨ s.lowest.toNat < s.regs.pstate.toNat then s.modRegs Regs.awake else s)

/-! ### Display (R455) -/

/-- A head. -/
def State.modHead (s : State) (h : Nat) (f : Head → Head) : State := { s with heads := s.heads.put h (f (s.head h)) }

/-- A trail record of a surface (R455, R457). -/
def presentInfo (event h : Nat) (p : BitVec 128) : TrailInfo :=
  { event := event, pass := h, ctx := bits p.toNat 56 32, arg := bits p.toNat 0 32 }

/-- PRESENT (R455): the surface is pending; the one it replaces is dropped.  One that meets the start of vertical blanking in
one fabric cycle is applied first: its surface is current at once, and the one that became so is dropped. -/
def execPresent (h value : Nat) (s : State) : Host.Outcome State Fault Refusal :=
  .next (
    if 5 ≤ h then s
    else
      let x := s.head h
      let p : BitVec 128 := BitVec.ofNat 128 (value % 2 ^ 64 * 2 ^ 64 + x.lo.toNat)
      let meets : Bool := x.blankAt == some s.time.fabric
      let old := if meets then (if x.took then x.current else none) else x.pending
      let s := s.modHead h (fun x =>
        if meets then { x with current := some p, shown := false, took := true } else { x with pending := some p })
      let s := s.trail (presentInfo 6 h p)
      match old with
      | some q => s.trail (presentInfo 8 h q)
      | none => s)

/-- VERTICAL_BLANKING (R455): the pending surface becomes current. -/
def execVerticalBlanking (h : Nat) (s : State) : Host.Outcome State Fault Refusal :=
  .next (
    let x := s.head h
    if !x.hctl.getLsbD 0 ∨ x.blankAt = some s.time.fabric then s
    else s.modHead h (fun x => { x with
      pending := none
      current := x.pending.or x.current
      shown := x.shown && x.pending.isNone
      blankAt := some s.time.fabric
      took := x.pending.isSome }))

/-- Bytes of a pixel (R455). -/
def Head.pixelB (x : Head) : Nat := if bits x.hctl.toNat 18 2 = 0 then 4 else 8

/-- Rows of a head's surface `p`: the physical address and the bytes of each (R455). -/
def Head.rows (x : Head) (p : BitVec 128) : List (Nat × Nat) :=
  let c := x.hctl.toNat
  (List.range (bits c 36 14 + 1)).map (fun y =>
    (bits p.toNat 88 40 * 256 + y * (bits c 20 16 * 16), (bits c 50 14 + 1) * x.pixelB))

/-- A row as the display engine reads it at its home, at device scope, expanded (R275, R454).  DESIGN CHOICE (log
96): one that meets poison, or no memory, delivers undefined bytes. -/
def State.scanRow (s : State) (pa n : Nat) : List Byte :=
  if s.inGddr pa n && !s.poisoned pa n then s.mem.readN pa n else s.openBytes pa n

/-- SCAN_OUT (R454, R455): the first active pixel of the current surface leaves the output, after the blanking interval; the
surface is read (log 96: whole, then). -/
def execScanOut (h : Nat) (s : State) : Host.Outcome State Fault Refusal :=
  .next (
    let x := s.head h
    match x.current with
    | some p =>
      if x.hctl.getLsbD 0 = true ∧ x.shown = false ∧ x.blankAt ≠ some s.time.fabric then
        (s.modHead h (fun y => { y with
          shown := true
          out := (x.rows p).flatMap (fun r => s.scanRow r.1 r.2) })).trail (presentInfo 7 h p)
      else s
    | none => s)

/-! ### Interrupts, measurements, attestation (R449, R460, R461) -/

/-- INTSTAT_CLEAR (R449). -/
def execIntstatClear (value : Nat) (s : State) : Host.Outcome State Fault Refusal :=
  .next (s.modRegs (fun r => { r with intstat := r.intstat &&& ~~~ BitVec.ofNat 8 value }))

/-- EXTEND (R460): the host extends MR4 to MR15 by the digest last stored. -/
def execExtend (idx : Nat) (s : State) : Host.Outcome State Fault Refusal :=
  .next (
    if 4 ≤ idx ∧ idx < 16 then
      s.modRegs (fun r => { r with mr := modAt r.mr idx (fun m => measure m (natBytes 32 r.extendLo.toNat)) })
    else s)

/-- The shallot extends MR0 to MR3, once each (R460). -/
def State.boot (s : State) (i : Nat) : State :=
  if i < 4 ∧ !s.regs.measured.getLsbD i then
    s.modRegs (fun r => { r with
      mr := modAt r.mr i (fun m => measure m (natBytes 32 (Config.bootDigest i).toNat))
      measured := r.measured ||| BitVec.ofNat 4 (2 ^ i) })
  else s

/-- ATTEST (R461): GO starts a report. -/
def execAttest (value : Nat) (s : State) : Host.Outcome State Fault Refusal :=
  .next (
    if s.regs.attestBusy then s
    else s.modRegs (fun r => { r with
      attest := BitVec.ofNat 64 (bits value 10 38 * 1024 + bits value 0 1)
      attestBusy := bit value 0 }))

/-- Bytes 0 to 639 of a report (R461). -/
def State.reportBytes (s : State) (nonce : List Byte) : List Byte :=
  let r := s.regs
  natBytes 4 1 ++ natBytes 4 (b2n r.fixedOn + 2 * b2n r.trip) ++ natBytes 16 Config.serial.toNat ++ natBytes 8 s.now ++
    nonce ++ r.mr.flatMap (fun m => natBytes 32 m.toNat) ++ natBytes 32 r.trailhash.toNat ++
    natBytes 8 r.trailwr.toNat ++ natBytes 8 r.traillost.toNat ++ List.replicate 16 0

/-- ATTESTATION_DONE (R461): every value belongs to the instant of this step. -/
def execAttestationDone (s : State) : Host.Outcome State Fault Refusal :=
  .next (
    if s.regs.attestBusy then
      let pa := s.regs.attest.toNat / 1024 * 1024
      let (n, s) := s.physNum (pa + 32) 32
      let bs := s.reportBytes (natBytes 32 n)
      let sig := (Config.signature bs ++ List.replicate 384 0).take 384
      ((s.physStore pa (bs ++ sig)).modRegs (fun r => { r with attestBusy := false })).interrupt 6
    else s)

end Sys2Proof.Machine
end

