-- ==== Sys2Proof/Machine/Registers.lean ====
section
/-! DEFINITION. REGISTER_WRITE: the RW fields of the registers that only hold what is written, and the command
registers whose write starts a command (R328, R369, R377, R445, R447, R449, R452, R455, R456, R459, R462). -/

namespace Sys2Proof.Machine

/-- The 8-byte part at offset `o` of a wide register replaced. -/
def putPart (old o v : Nat) : Nat := setBits old (8 * o) 64 v

/-- A command register written: while a command runs the write is ignored and ERR set; a bad operation or target
is refused; else the command runs (R369, R447, R462). -/
def Command.write (c : Command) (op target : Nat) (ok : Bool) : Command :=
  if c.busy then { c with err := true }
  else { busy := ok, err := !ok, op := BitVec.ofNat 4 op, target := BitVec.ofNat 12 target }

/-- An entry of the time-triggered table from its 256 bits; SKIPS stays (R377). -/
def TTEntry.ofNum (x : Nat) (skips : BitVec 16) : TTEntry where
  offset := BitVec.ofNat 64 (bits x 192 64)
  graph := BitVec.ofNat 64 (bits x 146 46)
  ctx := BitVec.ofNat 32 (bits x 114 32)
  skips := skips
  v := bit x 97
  mbz := BitVec.ofNat 97 (bits x 0 97)

/-- A part of a table entry written; ignored while the table runs (R377). -/
def Regs.writeEntry (r : Regs) (o v : Nat) : Regs :=
  if r.ttRun then r
  else
    let e := (r.tt.get (o / 32)).getD TTEntry.reset
    { r with tt := r.tt.put (o / 32) (TTEntry.ofNum (putPart e.num (o % 32) v) e.skips) }

/-- The context window (R447); a CTXCMD write starts a wake (R458). -/
def State.writeContext (s : State) (o v : Nat) : State :=
  if o = 8 then
    let op := bits v 56 4
    s.rouse.modRegs (fun r => { r with
      ctxcmd := r.ctxcmd.write op (bits v 0 12) (decide (1 ≤ op ∧ op ≤ 6))
      invalAt := if (op = 1 ∨ op = 2) ∧ !r.ctxcmd.busy then s.writes else r.invalAt })
  else s

/-- The mapper window (R369, R377, R445). -/
def State.writeMapper (s : State) (o v : Nat) : State :=
  if o = 0 then s.modRegs (fun r => { r with qtbase := BitVec.ofNat 64 (bits v 16 32 * 2 ^ 16) })
  else if o = 8 then
    s.modRegs (fun r => { r with qcmd := r.qcmd.write (bits v 56 2) (bits v 0 10) (bits v 56 2 != 0) })
  else if o = 0x108 then s.modRegs (fun r => { r with ttbase := BitVec.ofNat 64 v })
  else if o = 0x110 then s.modRegs (fun r => { r with ttperiod := BitVec.ofNat 64 v })
  else if 0x800 ≤ o ∧ o < 0x1000 then s.modRegs (fun r => r.writeEntry (o - 0x800) v)
  else s

/-- A ring-store window (R328). -/
def RingStore.writeReg (r : RingStore) (o v : Nat) : RingStore :=
  if o = 0 then { r with
    depth := BitVec.ofNat 2 (bits v 2 2)
    rot := bit v 1 }
  else if 0x60 ≤ o ∧ o < 0x80 then { r with newmap := BitVec.ofNat 256 (putPart r.newmap.toNat (o - 0x60) v) }
  else if o = 0x80 then { r with go := r.go || bit v 0 }
  else r

/-- A peer port's RW fields (R452). -/
def Port.writeReg (p : Port) (v : Nat) : Port := { p with
  retrain := max 1 (bits v 24 20)
  en := bit v 0 }

/-- PWRCTL's RW fields; FIXED = 0 ends fixed-clock mode (R459). -/
def State.writePower (s : State) (v : Nat) : State :=
  let s := s.modRegs (fun r => { r with
    ltol := BitVec.ofNat 32 (bits v 8 32)
    fixed := bit v 2 })
  if !bit v 2 && s.regs.fixedOn then s.leaveFixed 0 else s

/-- REPAIR (R462). -/
def State.writeRepair (s : State) (v : Nat) : State :=
  let op := bits v 56 4
  let t := bits v 0 8
  let s := if s.regs.repair.busy then s else s.modRegs (fun r => { r with repairDone := false })
  s.modRegs (fun r => { r with repair := r.repair.write op t (op == 1 || op == 2 || (op == 3 && decide (t < 8))) })

/-- The system window (R449). -/
def State.writeSystem (s : State) (o v : Nat) : State :=
  if o = 0 then s.writePower v
  else if o = 0x18 then { s with time := { s.time with rate := clampRate v } }
  else if o = 0x20 then s.modRegs (fun r => { r with trail := BitVec.ofNat 64 (bits v 12 36 * 4096 + bits v 0 4) })
  else if o = 0x30 then s.modRegs (fun r => { r with trailrd := BitVec.ofNat 64 v })
  else if o = 0x40 ∨ o = 0x48 then s.modBase (o / 8 % 2) (fun b => { b with port := b.port.writeReg v })
  else if 0x60 ≤ o ∧ o < 0x80 then
    s.modRegs (fun r => { r with peers := r.peers.set ((o - 0x60) / 8) (bit v 0, bits v 1 1) })
  else if o = 0x88 then s.writeRepair v
  else if 0x300 ≤ o ∧ o < 0x320 then
    s.modRegs (fun r => { r with extendLo := BitVec.ofNat 256 (putPart r.extendLo.toNat (o - 0x300) v) })
  else s

/-- A display head's window (R455): a refused format leaves HCTL as it was. -/
def Head.writeReg (h : Head) (o v : Nat) : Head :=
  if o = 0 then
    (if 2 ≤ bits v 18 2 then h else { h with hctl := BitVec.ofNat 64 (bits v 18 46 * 2 ^ 18 + bits v 0 1) })
  else if 0x40 ≤ o ∧ o < 0x80 then
    let l := h.timing ++ List.replicate (8 - h.timing.length) 0
    { h with timing := l.set ((o - 0x40) / 8) (BitVec.ofNat 64 v) }
  else if o = 0x100 then { h with lo := BitVec.ofNat 64 v }
  else h

/-- REGISTER_WRITE (R445): an aligned 8-byte store to a register without a row of its own. -/
def execRegisterWrite (pa value : Nat) (s : State) : Host.Outcome State Fault Refusal :=
  .next (
    if pa % 8 ≠ 0 then s
    else match windowOf pa with
      | some (.context, o) => s.writeContext o value
      | some (.mapper, o) => s.writeMapper o value
      | some (.ring d, o) => s.modRing d (fun r => r.writeReg o value)
      | some (.weight c, o) =>
        if o < 0x400 ∧ o % 16 = 0 ∧ bits value 62 2 = 3 then s.refuseRegion c else s
      | some (.system, o) => s.writeSystem o value
      | some (.head h, o) => s.modHead h (fun x => x.writeReg o value)
      | _ => s)

/-- A store that reaches a weight-store region window: its STATE field says what the driver asks (R228). -/
def State.storeRegion (s : State) (c i value pa : Nat) : Host.Outcome State Fault Refusal :=
  match bits value 62 2 with
  | 0 => execRegionRelease c i value s
  | 1 => execRegionOpen c i value s
  | 2 => execRegionSeal c i value s
  | _ => execRegisterWrite pa value s

/-- An aligned 8-byte store of `value` at offset `o` of a window: the row that the register belongs to (R445); one to a
ring-store window that finds the device asleep starts its wake, and stands next after it (R458). -/
def State.storeWord (s : State) (w : Window) (o pa value : Nat) : Host.Outcome State Fault Refusal :=
  match w with
  | .doorbell => execNotifyStore (o / 0x10000) (o % 0x10000) 8 value s
  | .context => if o = 0 then execCtxbaseWrite value s else execRegisterWrite pa value s
  | .mapper => if o = 0x100 then execTtctlRun value s else execRegisterWrite pa value s
  | .weight c => if o < 0x400 ∧ o % 16 = 0 then s.storeRegion c (o / 16) value pa else execRegisterWrite pa value s
  | .system =>
    if o = 0x10 then execTbstep value s
    else if o = 0x80 then execIntstatClear value s
    else if o = 0x320 then execExtend value s
    else if o = 0x340 then execAttest value s
    else execRegisterWrite pa value s
  | .head h => if o = 0x108 then execPresent h value s else execRegisterWrite pa value s
  | .ring _ =>
    if s.asleep then
      let s := s.rouse
      .next { s with schedule := .event .wake :: .store pa (natBytes 8 value) :: s.schedule }
    else execRegisterWrite pa value s

/-- A store that reaches a register window: aligned, of 8 bytes, or of 4 in a notify register (R445, R371). -/
def State.storeAt (s : State) (pa : Nat) (bs : List Byte) : Host.Outcome State Fault Refusal :=
  match windowOf pa with
  | none => .next s
  | some (w, o) =>
    if bs.length = 8 ∧ pa % 8 = 0 then s.storeWord w o pa (leNat bs)
    else if bs.length = 4 ∧ pa % 4 = 0 ∧ w = .doorbell then execNotifyStore (o / 0x10000) (o % 0x10000) 4 (leNat bs) s
    else .next s

end Sys2Proof.Machine
end

