-- ==== Sys2Proof/Machine/Repair.lean ====
section
/-! DEFINITION. Repair in service, and package reset (R437, R460, R462). -/

namespace Sys2Proof.Machine

/-- The repair operation `op` on `target` is running and has not done its part. -/
def State.repairing (s : State) (op target : Nat) : Bool :=
  let c := s.regs.repair
  c.busy && c.op.toNat == op && c.target.toNat == target && !s.regs.repairDone

/-- A running repair operation has done its part. -/
def State.repaired (s : State) : State := s.modRegs (fun r => { r with
  repairDone := true
  repairAt := s.now })

/-- A sheaf of a fenced core can be made to leave now: it has started, has live threads, and neither owes an
entry nor is in its handler. -/
def State.ousted (s : State) (sid : Nat) : Bool :=
  let sh := s.sheaf sid
  sh.threads != [] && sh.entry.isNone && !sh.inHandler && sh.liveThreads != []

/-- A workgroup is made to leave its fenced core whole, once it has a frame; in a halted context it stays until the
resume (R437, R462). -/
def State.oust (s : State) (w : Nat) : State :=
  if s.halted (s.wg w).ctx ∨ (s.wg w).stage ≠ .running then s
  else match s.takeFrame w with
    | none => s
    | some s => each ((s.seated w).filter s.ousted) (fun sid s => s.oweEvict sid)
        (s.modWg w (fun g => { g with leaving := true }))

/-- Cores are fenced, and their workgroups are made to leave. -/
def State.fence (s : State) (cs : List Nat) : State :=
  each cs (fun c s =>
    each ((s.wgsOn c).map (·.1)) (fun w s => s.oust w) (s.modCore c (fun k => { k with fenced := true }))) s

/-- No workgroup is resident on the cores. -/
def State.vacant (s : State) (cs : List Nat) : Bool := cs.all (fun c => (s.wgsOn c).isEmpty)

/-- FENCE_CORE (R462): the operation ends once the core is empty. -/
def execFenceCore (c : Nat) (s : State) : Host.Outcome State Fault Refusal :=
  .next (
    if !s.repairing 1 c then s
    else
      let s := s.fence [c]
      if s.vacant [c] then s.repaired else s)

/-- UNFENCE_CORE (R462). -/
def execUnfenceCore (c : Nat) (s : State) : Host.Outcome State Fault Refusal :=
  .next (
    if !s.repairing 2 c then s
    else (s.modCore c (fun k => { k with fenced := false })).repaired)

/-- The cores of a compute die (R3). -/
def coresOfDie (d : Nat) : List Nat := List.range' (32 * d) 32

/-- RESET_COMPUTE_DIE (R462): the die's cores are fenced; once they are empty its 5 ms begin. -/
def execResetComputeDie (d : Nat) (s : State) : Host.Outcome State Fault Refusal :=
  .next (
    if !s.repairing 3 d then s
    else
      let s := s.fence (coresOfDie d)
      if s.vacant (coresOfDie d) then s.repaired else s)

/-- A compute die after its reset, its regions unused and its cores unfenced (R462). -/
def State.resetDie (s : State) (d : Nat) : State :=
  let s := each (coresOfDie d) (fun c s => s.modCore c (fun _ => Core.reset)) s
  let s := each (List.range' (16 * d) 16) (fun p s => s.modPod p (fun _ => Pod.reset)) s
  s.modDie d (fun _ => ComputeDie.reset)

/-- REPAIR_DONE (R462): BUSY clears; interrupt bit 5 and trail event 15 follow. -/
def execRepairDone (s : State) : Host.Outcome State Fault Refusal :=
  .next (
    let c := s.regs.repair
    if !c.busy ∨ !s.regs.repairDone then s
    else if c.op = 3 ∧ s.now < s.regs.repairAt + 5000000 then s
    else
      let word := cat [(c.op.toNat, 4), (0, 44), (c.target.toNat, 12)]
      let s := if c.op = 3 then s.resetDie c.target.toNat else s
      let s := s.modRegs (fun r => { r with
        repair := { r.repair with busy := false }
        repairDone := false })
      (s.interrupt 5).trail { event := 15, pass := c.target.toNat, arg := word % 2 ^ 32 })

/-- PACKAGE_RESET (R460, R328): every register at its reset value; the contents of GDDR 7 and of the peers stay,
with the state in which the compressor and the plural cells hold them, and so do the form of the device and the model's own fields. -/
def execPackageReset (s : State) : Host.Outcome State Fault Refusal :=
  .next { State.reset with
    form := s.form
    schedule := s.schedule
    turn := s.turn
    free := s.free
    next := s.next
    mem := s.mem
    poison := s.poison
    squeezed := s.squeezed
    peers := s.peers }

end Sys2Proof.Machine
end

