-- ==== Sys2Proof/Machine/Dispatch.lean ====
section
/-! DEFINITION. What each instruction and event does: one arm per constructor, each a direct call of its meaning. -/

namespace Sys2Proof.Machine

/-- The meaning of an instruction or event. -/
def exec (i : Instr) (s : State) : Host.Outcome State Fault Refusal :=
  match i with
  | .nop f => Sys2Proof.Machine.execNop f s
  | .bra f => Sys2Proof.Machine.execBra f s
  | .brx f => Sys2Proof.Machine.execBrx f s
  | .call f => Sys2Proof.Machine.execCall f s
  | .ret f => Sys2Proof.Machine.execRet f s
  | .exit f => Sys2Proof.Machine.execExit f s
  | .yield f => Sys2Proof.Machine.execYield f s
  | .sleep f => Sys2Proof.Machine.execSleep f s
  | .brk f => Sys2Proof.Machine.execBrk f s
  | .shfl f => Sys2Proof.Machine.execShfl f s
  | .vote f => Sys2Proof.Machine.execVote f s
  | .ballot f => Sys2Proof.Machine.execBallot f s
  | .matchV f => Sys2Proof.Machine.execMatchV f s
  | .rdx f => Sys2Proof.Machine.execRdx f s
  | .scan f => Sys2Proof.Machine.execScan f s
  | .elect f => Sys2Proof.Machine.execElect f s
  | .iadd f => Sys2Proof.Machine.execIadd f s
  | .isub f => Sys2Proof.Machine.execIsub f s
  | .iaddc f => Sys2Proof.Machine.execIaddc f s
  | .imul f => Sys2Proof.Machine.execImul f s
  | .imulh f => Sys2Proof.Machine.execImulh f s
  | .imad f => Sys2Proof.Machine.execImad f s
  | .imadw f => Sys2Proof.Machine.execImadw f s
  | .idiv f => Sys2Proof.Machine.execIdiv f s
  | .irem f => Sys2Proof.Machine.execIrem f s
  | .imin f => Sys2Proof.Machine.execImin f s
  | .imax f => Sys2Proof.Machine.execImax f s
  | .iabs f => Sys2Proof.Machine.execIabs f s
  | .ineg f => Sys2Proof.Machine.execIneg f s
  | .and f => Sys2Proof.Machine.execAnd f s
  | .or f => Sys2Proof.Machine.execOr f s
  | .xor f => Sys2Proof.Machine.execXor f s
  | .not f => Sys2Proof.Machine.execNot f s
  | .andn f => Sys2Proof.Machine.execAndn f s
  | .shl f => Sys2Proof.Machine.execShl f s
  | .shr f => Sys2Proof.Machine.execShr f s
  | .sar f => Sys2Proof.Machine.execSar f s
  | .rot f => Sys2Proof.Machine.execRot f s
  | .bfe f => Sys2Proof.Machine.execBfe f s
  | .bfi f => Sys2Proof.Machine.execBfi f s
  | .popc f => Sys2Proof.Machine.execPopc f s
  | .clz f => Sys2Proof.Machine.execClz f s
  | .ctz f => Sys2Proof.Machine.execCtz f s
  | .brev f => Sys2Proof.Machine.execBrev f s
  | .prmt f => Sys2Proof.Machine.execPrmt f s
  | .icmp f => Sys2Proof.Machine.execIcmp f s
  | .isel f => Sys2Proof.Machine.execIsel f s
  | .mov f => Sys2Proof.Machine.execMov f s
  | .movi f => Sys2Proof.Machine.execMovi f s
  | .lea f => Sys2Proof.Machine.execLea f s
  | .vspill f => Sys2Proof.Machine.execVspill f s
  | .vfill f => Sys2Proof.Machine.execVfill f s
  | .fadd f => Sys2Proof.Machine.execFadd f s
  | .fsub f => Sys2Proof.Machine.execFsub f s
  | .fmul f => Sys2Proof.Machine.execFmul f s
  | .ffma f => Sys2Proof.Machine.execFfma f s
  | .fmin f => Sys2Proof.Machine.execFmin f s
  | .fmax f => Sys2Proof.Machine.execFmax f s
  | .fcmp f => Sys2Proof.Machine.execFcmp f s
  | .fsel f => Sys2Proof.Machine.execFsel f s
  | .frnd f => Sys2Proof.Machine.execFrnd f s
  | .fclass f => Sys2Proof.Machine.execFclass f s
  | .fcpysgn f => Sys2Proof.Machine.execFcpysgn f s
  | .hadd2 f => Sys2Proof.Machine.execHadd2 f s
  | .hmul2 f => Sys2Proof.Machine.execHmul2 f s
  | .hfma2 f => Sys2Proof.Machine.execHfma2 f s
  | .hmin2 f => Sys2Proof.Machine.execHmin2 f s
  | .hmax2 f => Sys2Proof.Machine.execHmax2 f s
  | .pairWord x y => Sys2Proof.Machine.execPairWord x y s
  | .frcp f => Sys2Proof.Machine.execFrcp f s
  | .frsq f => Sys2Proof.Machine.execFrsq f s
  | .fsqrt f => Sys2Proof.Machine.execFsqrt f s
  | .fdiv f => Sys2Proof.Machine.execFdiv f s
  | .fexp2 f => Sys2Proof.Machine.execFexp2 f s
  | .flog2 f => Sys2Proof.Machine.execFlog2 f s
  | .fsin f => Sys2Proof.Machine.execFsin f s
  | .fcos f => Sys2Proof.Machine.execFcos f s
  | .ftanh f => Sys2Proof.Machine.execFtanh f s
  | .fsigm f => Sys2Proof.Machine.execFsigm f s
  | .fgelu f => Sys2Proof.Machine.execFgelu f s
  | .fsilu f => Sys2Proof.Machine.execFsilu f s
  | .cvt f => Sys2Proof.Machine.execCvt f s
  | .cvtEf f => Sys2Proof.Machine.execCvtEf f s
  | .pack f => Sys2Proof.Machine.execPack f s
  | .unpack f => Sys2Proof.Machine.execUnpack f s
  | .qscale f => Sys2Proof.Machine.execQscale f s
  | .lds f => Sys2Proof.Machine.execLds f s
  | .sts f => Sys2Proof.Machine.execSts f s
  | .ats f => Sys2Proof.Machine.execAts f s
  | .scratchpadAccessApplied core q => Sys2Proof.Machine.execScratchpadAccessApplied core q s
  | .tlSet f => Sys2Proof.Machine.execTlSet f s
  | .tlFill f => Sys2Proof.Machine.execTlFill f s
  | .tlDrain f => Sys2Proof.Machine.execTlDrain f s
  | .tlStat f => Sys2Proof.Machine.execTlStat f s
  | .tlDom f => Sys2Proof.Machine.execTlDom f s
  | .tlRel f => Sys2Proof.Machine.execTlRel f s
  | .jcInit f => Sys2Proof.Machine.execJcInit f s
  | .jcArv f => Sys2Proof.Machine.execJcArv f s
  | .jcExp f => Sys2Proof.Machine.execJcExp f s
  | .jcTest f => Sys2Proof.Machine.execJcTest f s
  | .waitm f => Sys2Proof.Machine.execWaitm f s
  | .waitmReevaluation sid t => Sys2Proof.Machine.execWaitmReevaluation sid t s
  | .waitmTimeout sid t => Sys2Proof.Machine.execWaitmTimeout sid t s
  | .cpa f => Sys2Proof.Machine.execCpa f s
  | .cpaLaneComplete core op lane => Sys2Proof.Machine.execCpaLaneComplete core op lane s
  | .cpw f => Sys2Proof.Machine.execCpw f s
  | .reqKick f => Sys2Proof.Machine.execReqKick f s
  | .requestRecordComplete core op => Sys2Proof.Machine.execRequestRecordComplete core op s
  | .collRed f => Sys2Proof.Machine.execCollRed f s
  | .collectiveRedComplete core op => Sys2Proof.Machine.execCollectiveRedComplete core op s
  | .collBcast f => Sys2Proof.Machine.execCollBcast f s
  | .collectiveBcastReady core op => Sys2Proof.Machine.execCollectiveBcastReady core op s
  | .fmtLoad f => Sys2Proof.Machine.execFmtLoad f s
  | .prologueRun wg => Sys2Proof.Machine.execPrologueRun wg s
  | .prologueComplete wg => Sys2Proof.Machine.execPrologueComplete wg s
  | .mma f => Sys2Proof.Machine.execMma f s
  | .mmat f => Sys2Proof.Machine.execMmat f s
  | .mmas f => Sys2Proof.Machine.execMmas f s
  | .matrixRowGroup pod eng => Sys2Proof.Machine.execMatrixRowGroup pod eng s
  | .matrixOperationComplete pod eng => Sys2Proof.Machine.execMatrixOperationComplete pod eng s
  | .mopRdy f => Sys2Proof.Machine.execMopRdy f s
  | .matrixSpanFault sid => Sys2Proof.Machine.execMatrixSpanFault sid s
  | .accZ f => Sys2Proof.Machine.execAccZ f s
  | .accRd f => Sys2Proof.Machine.execAccRd f s
  | .accWr f => Sys2Proof.Machine.execAccWr f s
  | .accLd f => Sys2Proof.Machine.execAccLd f s
  | .accSt f => Sys2Proof.Machine.execAccSt f s
  | .accWm f => Sys2Proof.Machine.execAccWm f s
  | .accCvt f => Sys2Proof.Machine.execAccCvt f s
  | .ldw f => Sys2Proof.Machine.execLdw f s
  | .wstFill f => Sys2Proof.Machine.execWstFill f s
  | .weightFillBytesWritten die fill => Sys2Proof.Machine.execWeightFillBytesWritten die fill s
  | .wstStat f => Sys2Proof.Machine.execWstStat f s
  | .retentionExpiredFault op => Sys2Proof.Machine.execRetentionExpiredFault op s
  | .sth f => Sys2Proof.Machine.execSth f s
  | .hfwd f => Sys2Proof.Machine.execHfwd f s
  | .hinv f => Sys2Proof.Machine.execHinv f s
  | .thset f => Sys2Proof.Machine.execThset f s
  | .thget f => Sys2Proof.Machine.execThget f s
  | .hbias f => Sys2Proof.Machine.execHbias f s
  | .hmask f => Sys2Proof.Machine.execHmask f s
  | .liftJob core => Sys2Proof.Machine.execLiftJob core s
  | .ld f => Sys2Proof.Machine.execLd f s
  | .ldCon f => Sys2Proof.Machine.execLdCon f s
  | .ldAcq f => Sys2Proof.Machine.execLdAcq f s
  | .st f => Sys2Proof.Machine.execSt f s
  | .stSub f => Sys2Proof.Machine.execStSub f s
  | .stRel f => Sys2Proof.Machine.execStRel f s
  | .atom f => Sys2Proof.Machine.execAtom f s
  | .atomCas f => Sys2Proof.Machine.execAtomCas f s
  | .red f => Sys2Proof.Machine.execRed f s
  | .fence f => Sys2Proof.Machine.execFence f s
  | .cctl f => Sys2Proof.Machine.execCctl f s
  | .pref f => Sys2Proof.Machine.execPref f s
  | .tclr f => Sys2Proof.Machine.execTclr f s
  | .globalAccessPerformed op lane => Sys2Proof.Machine.execGlobalAccessPerformed op lane s
  | .translationWalk ctx va => Sys2Proof.Machine.execTranslationWalk ctx va s
  | .peerWriteAcknowledged op => Sys2Proof.Machine.execPeerWriteAcknowledged op s
  | .retrainLimitExpiry sid => Sys2Proof.Machine.execRetrainLimitExpiry sid s
  | .ldk f => Sys2Proof.Machine.execLdk f s
  | .stk f => Sys2Proof.Machine.execStk f s
  | .rcn f => Sys2Proof.Machine.execRcn f s
  | .tileRet f => Sys2Proof.Machine.execTileRet f s
  | .rsQ f => Sys2Proof.Machine.execRsQ f s
  | .recAlloc f => Sys2Proof.Machine.execRecAlloc f s
  | .recPut f => Sys2Proof.Machine.execRecPut f s
  | .recCommit f => Sys2Proof.Machine.execRecCommit f s
  | .recGet f => Sys2Proof.Machine.execRecGet f s
  | .recCount f => Sys2Proof.Machine.execRecCount f s
  | .interp f => Sys2Proof.Machine.execInterp f s
  | .ddx f => Sys2Proof.Machine.execDdx f s
  | .ddy f => Sys2Proof.Machine.execDdy f s
  | .discard f => Sys2Proof.Machine.execDiscard f s
  | .vism f => Sys2Proof.Machine.execVism f s
  | .blend f => Sys2Proof.Machine.execBlend f s
  | .blendPerformed op lane => Sys2Proof.Machine.execBlendPerformed op lane s
  | .tex f => Sys2Proof.Machine.execTex f s
  | .texg f => Sys2Proof.Machine.execTexg f s
  | .texq f => Sys2Proof.Machine.execTexq f s
  | .trace f => Sys2Proof.Machine.execTrace f s
  | .hitRd f => Sys2Proof.Machine.execHitRd f s
  | .cont f => Sys2Proof.Machine.execCont f s
  | .cov f => Sys2Proof.Machine.execCov f s
  | .emitp f => Sys2Proof.Machine.execEmitp f s
  | .trap f => Sys2Proof.Machine.execTrap f s
  | .systemCallAnswered sid => Sys2Proof.Machine.execSystemCallAnswered sid s
  | .tret f => Sys2Proof.Machine.execTret f s
  | .srd f => Sys2Proof.Machine.execSrd f s
  | .swr f => Sys2Proof.Machine.execSwr f s
  | .clauseStart core => Sys2Proof.Machine.execClauseStart core s
  | .longLatencyCompletion op => Sys2Proof.Machine.execLongLatencyCompletion op s
  | .issueGroupRotation sid => Sys2Proof.Machine.execIssueGroupRotation sid s
  | .schedulerRunBreak core => Sys2Proof.Machine.execSchedulerRunBreak core s
  | .runLimit core => Sys2Proof.Machine.execRunLimit core s
  | .stallEnd sid => Sys2Proof.Machine.execStallEnd sid s
  | .sleepExpiry sid t => Sys2Proof.Machine.execSleepExpiry sid t s
  | .crossLaneWaitRelease sid => Sys2Proof.Machine.execCrossLaneWaitRelease sid s
  | .crossLaneWatchdog sid => Sys2Proof.Machine.execCrossLaneWatchdog sid s
  | .tileWaitFault sid => Sys2Proof.Machine.execTileWaitFault sid s
  | .workgroupAdmission wg => Sys2Proof.Machine.execWorkgroupAdmission wg s
  | .sheafStart wg => Sys2Proof.Machine.execSheafStart wg s
  | .sheafRetire sid => Sys2Proof.Machine.execSheafRetire sid s
  | .workgroupRetire wg => Sys2Proof.Machine.execWorkgroupRetire wg s
  | .handlerEntry sid => Sys2Proof.Machine.execHandlerEntry sid s
  | .sheafPark sid => Sys2Proof.Machine.execSheafPark sid s
  | .doubleFault sid => Sys2Proof.Machine.execDoubleFault sid s
  | .haltLine ctx => Sys2Proof.Machine.execHaltLine ctx s
  | .partStop ctx part unit => Sys2Proof.Machine.execPartStop ctx part unit s
  | .impreciseStoreFault op lane => Sys2Proof.Machine.execImpreciseStoreFault op lane s
  | .memoryErrorFault op => Sys2Proof.Machine.execMemoryErrorFault op s
  | .engineFault engine unit op => Sys2Proof.Machine.execEngineFault engine unit op s
  | .workgroupSave wg => Sys2Proof.Machine.execWorkgroupSave wg s
  | .workgroupResumption wg core => Sys2Proof.Machine.execWorkgroupResumption wg core s
  | .notifyStore q off size value => Sys2Proof.Machine.execNotifyStore q off size value s
  | .enable q => Sys2Proof.Machine.execEnable q s
  | .disable q => Sys2Proof.Machine.execDisable q s
  | .sync q => Sys2Proof.Machine.execSync q s
  | .slotGrant die => Sys2Proof.Machine.execSlotGrant die s
  | .timeSliceExpiry die slot => Sys2Proof.Machine.execTimeSliceExpiry die slot s
  | .entryRead die slot => Sys2Proof.Machine.execEntryRead die slot s
  | .graphIntake g => Sys2Proof.Machine.execGraphIntake g s
  | .graphAdmission g => Sys2Proof.Machine.execGraphAdmission g s
  | .passEntry g p => Sys2Proof.Machine.execPassEntry g p s
  | .tileRelease g p t => Sys2Proof.Machine.execTileRelease g p t s
  | .tileDispatch pods => Sys2Proof.Machine.execTileDispatch pods s
  | .teamPlacement pods => Sys2Proof.Machine.execTeamPlacement pods s
  | .edgeDone g p t e => Sys2Proof.Machine.execEdgeDone g p t e s
  | .drainComplete g p t e => Sys2Proof.Machine.execDrainComplete g p t e s
  | .tileRetire g p t => Sys2Proof.Machine.execTileRetire g p t s
  | .retireNotice die k => Sys2Proof.Machine.execRetireNotice die k s
  | .graphRetire g => Sys2Proof.Machine.execGraphRetire g s
  | .readEnd g k => Sys2Proof.Machine.execReadEnd g k s
  | .ringFillComplete k => Sys2Proof.Machine.execRingFillComplete k s
  | .recipeGather g r t => Sys2Proof.Machine.execRecipeGather g r t s
  | .recipeLaunch g k => Sys2Proof.Machine.execRecipeLaunch g k s
  | .recipeDrained g k => Sys2Proof.Machine.execRecipeDrained g k s
  | .remappingStep die => Sys2Proof.Machine.execRemappingStep die s
  | .bankRotation die => Sys2Proof.Machine.execBankRotation die s
  | .rotationCopyEnd die => Sys2Proof.Machine.execRotationCopyEnd die s
  | .bankLost die bank => Sys2Proof.Machine.execBankLost die bank s
  | .thermalRetirementRequest die bank => Sys2Proof.Machine.execThermalRetirementRequest die bank s
  | .transferParityRetry die chan group tries tries2 lanes => Sys2Proof.Machine.execTransferParityRetry die chan group tries tries2 lanes s
  | .batchTimeout g p => Sys2Proof.Machine.execBatchTimeout g p s
  | .nodeRetire g p => Sys2Proof.Machine.execNodeRetire g p s
  | .tableInstant k => Sys2Proof.Machine.execTableInstant k s
  | .ttctlRun value => Sys2Proof.Machine.execTtctlRun value s
  | .load ctx => Sys2Proof.Machine.execLoad ctx s
  | .inval ctx => Sys2Proof.Machine.execInval ctx s
  | .replay ctx => Sys2Proof.Machine.execReplay ctx s
  | .resume ctx => Sys2Proof.Machine.execResume ctx s
  | .abandon ctx => Sys2Proof.Machine.execAbandon ctx s
  | .unload ctx => Sys2Proof.Machine.execUnload ctx s
  | .ctxbaseWrite value => Sys2Proof.Machine.execCtxbaseWrite value s
  | .fenceCore core => Sys2Proof.Machine.execFenceCore core s
  | .unfenceCore core => Sys2Proof.Machine.execUnfenceCore core s
  | .resetComputeDie die => Sys2Proof.Machine.execResetComputeDie die s
  | .regionOpen die region value => Sys2Proof.Machine.execRegionOpen die region value s
  | .regionSeal die region value => Sys2Proof.Machine.execRegionSeal die region value s
  | .regionRelease die region value => Sys2Proof.Machine.execRegionRelease die region value s
  | .regionDeadline die region => Sys2Proof.Machine.execRegionDeadline die region s
  | .weightStoreRefresh die bank => Sys2Proof.Machine.execWeightStoreRefresh die bank s
  | .present head value => Sys2Proof.Machine.execPresent head value s
  | .verticalBlanking head => Sys2Proof.Machine.execVerticalBlanking head s
  | .scanOut head => Sys2Proof.Machine.execScanOut head s
  | .tbstep value => Sys2Proof.Machine.execTbstep value s
  | .extend idx => Sys2Proof.Machine.execExtend idx s
  | .attest value => Sys2Proof.Machine.execAttest value s
  | .attestationDone => Sys2Proof.Machine.execAttestationDone s
  | .intstatClear value => Sys2Proof.Machine.execIntstatClear value s
  | .fixedClockEntry => Sys2Proof.Machine.execFixedClockEntry s
  | .thermalTrip => Sys2Proof.Machine.execThermalTrip s
  | .powerStretch mw => Sys2Proof.Machine.execPowerStretch mw s
  | .powerHold mw => Sys2Proof.Machine.execPowerHold mw s
  | .holdRateLimitedResume die => Sys2Proof.Machine.execHoldRateLimitedResume die s
  | .powerRelief mw => Sys2Proof.Machine.execPowerRelief mw s
  | .powerStateEntry => Sys2Proof.Machine.execPowerStateEntry s
  | .wake => Sys2Proof.Machine.execWake s
  | .ucieLinkFailure link => Sys2Proof.Machine.execUcieLinkFailure link s
  | .peerLinkStateChange port st narrow => Sys2Proof.Machine.execPeerLinkStateChange port st narrow s
  | .linkLossFault op lane => Sys2Proof.Machine.execLinkLossFault op lane s
  | .registerWrite pa value => Sys2Proof.Machine.execRegisterWrite pa value s
  | .packageReset => Sys2Proof.Machine.execPackageReset s
  | .remappingStepEnd die => Sys2Proof.Machine.execRemappingStepEnd die s
  | .repairDone => Sys2Proof.Machine.execRepairDone s
  | .peerAccessRequest kind pa size data => Sys2Proof.Machine.execPeerAccessRequest kind pa size data s
  | .applicationCoreAccess kind pa size data cmp => Sys2Proof.Machine.execApplicationCoreAccess kind pa size data cmp s

end Sys2Proof.Machine
end

