-- ==== Sys2Proof/Machine/Moves.lean ====
section
/-! DEFINITION. The moves of the machine: a core issues the next word of the sheaf it chooses, an event takes
place, a store reaches a register window, time passes, the surroundings act (R16, R28, R37, R95, R445). -/

namespace Sys2Proof.Machine

/-- The next move, and the state without it: the schedule's head, else an open choice.  What a move leaves open it takes from
free values that no earlier move has seen. -/
def State.nextMove (s : State) : Move × State :=
  match s.schedule with
  | m :: l => (m, { s with
      schedule := l
      free := s.free + 1 })
  | [] => (Config.freeMove s.turn, { s with
      turn := s.turn + 1
      free := s.free + 1 })

/-- The instruction that begins with the next word of a sheaf's clause. -/
def ClauseRun.decode (r : ClauseRun) : Except Undecoded Instr :=
  Sys2Proof.decode (r.words.getD r.k 0) (r.words.getD (r.k + 1) 0)

/-- The next word of sheaf `sid` issues: it is executed, or it is illegal because it does not decode (R37). -/
def State.issueWord (s : State) (sid : Nat) : Host.Outcome State Fault Refusal :=
  match (s.sheaf sid).run with
  | none => .next s
  | some r =>
    if r.words.length ≤ r.k then .next (s.endClause sid)
    else match r.decode with
      | .ok i => exec i { s with cur := some sid }
      | .error e =>
        let group := bitsOf 64 r.mask
        .next (s.fault sid group r.pc (some r.k) 1 e.cause group 0)

/-- The word in hand waits at issue. -/
def Sheaf.stalled (sh : Sheaf) : Bool := sh.blocked && sh.run.isSome

/-- The first sheaf of a list that is ready: its next word issues, or it starts a clause.  One whose word waits at
issue, or that can start no clause, is not ready and breaks its run (R96). -/
def State.issueFirst : List Nat → State → Host.Outcome State Fault Refusal
  | [], s => .next s
  | sid :: l, s =>
    if (s.sheaf sid).run.isSome then
      match (s.setCurrent sid).issueWord sid with
      | .next s => if (s.sheaf sid).stalled then State.issueFirst l s else .next s
      | r => r
    else match s.trySheaf sid with
      | (true, s) => .next (s.setCurrent sid)
      | (false, s) => State.issueFirst l (s.breakRun sid)

/-- A core issues: the sheaf it chooses issues its next word or starts a clause (R95, R96). -/
def State.issueOn (s : State) (core : Nat) : Host.Outcome State Fault Refusal :=
  let s := s.limitRun core
  State.issueFirst (s.tryOrder core) s

/-- An entry of the table that is an event and not an instruction word. -/
def isEvent (i : Instr) : Bool :=
  match i with
  | .pairWord _ _ => false
  | i => i.isa?.isNone

/-- The weight store of a die meets an error (R226): a single-bit error is counted, a double-bit error makes the eight
bytes of its word poison. -/
def State.weightError (s : State) (d off : Nat) (double : Bool) : State :=
  s.modDie d (fun x =>
    if double then
      { x with poison := (List.range' (off / 8 * 8) 8).filter (fun a => a ∉ x.poison) ++ x.poison }
    else { x with errors := x.errors + 1 })

/-- What reaches the machine from its surroundings. -/
def State.env (s : State) (e : Env) : State :=
  match e with
  | .memoryError pa => if s.inGddr pa 1 ∧ pa ∉ s.poison then { s with poison := pa :: s.poison } else s
  | .ringError d bank cw sym u => if d < 2 ∧ bank < 256 ∧ cw < 2 ^ 20 ∧ sym < 144 then s.ringError d bank cw sym u else s
  | .weightError d off double => if d < 8 ∧ off < 2 ^ 30 then s.weightError d off double else s
  | .peerByte pkg off v =>
    if pkg < 4 ∧ off < 2 ^ 48 then s.pokePeer pkg off [BitVec.ofNat 8 v] else s
  | .landLane o t => s.landLane o t
  | .boot i => s.boot i
  | .recArrives n p => s.recArrives n p
  | .splitLane o t => s.splitLane o t
  | .landReg o t i => s.landReg o t i
  | .reAddr o t mask => s.reAddr o t mask
  | .reqElement c o => s.reqElement c o
  | .squeeze ctx bdi pa code => s.squeeze ctx bdi pa code
  | .layerPower d l on => if d < 2 ∧ l < 8 then s.layerPower d l on else s

/-- Time passes: threads note since when they stand, and the watched waits count the core cycles (R6, R109, R171). -/
def State.pass (s : State) (parts cycles : Nat) : State :=
  let time := s.time.tick parts cycles s.regs.fixedOn
  let s := s.stampStood
  { s.modRegs (fun r => r.woken time.now.toNat) with
    time := time
    sheaves := s.sheaves.map (fun (p : Nat × Sheaf) => (p.1, s.watchWait (time.core - s.time.core) p.2)) }

/-- The shallot has measured, and so released, the firmware of the engines and the application cores (R460). -/
def Regs.released (r : Regs) : Bool := r.measured == 15

/-- One move.  Before MR0 to MR3 stand, no part of the package but the shallot acts, and no register is written (R460; DEDUCED,
log 97). -/
def State.move (s : State) (m : Move) : Host.Outcome State Fault Refusal :=
  match m with
  | .issue core => s.issueOn core
  | .event i => if isEvent i && s.regs.released then exec i s else .next s
  | .store pa bs => if s.regs.released then s.storeAt pa bs else .next s
  | .tick parts cycles => .next (s.pass parts cycles)
  | .env e => .next (s.env e)

/-- A sheaf with one ready thread and nothing running. -/
def Sheaf.single : Sheaf := { (default : Sheaf) with
  width := 16
  regs := 192
  flags := List.replicate 12 0
  tags := [0, 0, 0, 0]
  s := List.replicate 48 0
  threads := [Thread.start 0 192] }

/-- `words` stand next in the sheaf in slot 0 of core 0, and that core issues next. -/
def State.withWords (s : State) (words : List (BitVec 64)) : State :=
  let sh := (s.sheaves.get 0).getD Sheaf.single
  let sh := { sh with
    issued := 0
    run := some { pc := 0, header := 0x7F8001, words := words, k := 0, mask := 1, ll := 0, yielded := false, sleeps := [], waits := [], targets := [], since := none, place := none, rel := none } }
  { s with
    sheaves := s.sheaves.put 0 sh
    cores := s.cores.put 0 { s.core 0 with current := some 0 }
    schedule := .issue 0 :: s.schedule }

end Sys2Proof.Machine
end

