-- ==== Sys2Proof/Machine/Step.lean ====
section
/-! DEFINITION. One step: the next move of the machine. -/

namespace Sys2Proof.Machine

/-- One step of the machine. -/
def step (s : State) : Host.Outcome State Fault Refusal := s.nextMove.2.move s.nextMove.1

/-- The instruction whose bits are `w` stands where the machine fetches its next instruction word: in the
running clause of the sheaf in slot 0 of core 0, which issues next. -/
def State.withFetchWord (s : State) (nbits w : Nat) : State :=
  s.withWords [BitVec.ofNat 64 (w % 2 ^ nbits), BitVec.ofNat 64 (w % 2 ^ nbits / 2 ^ 64)]

end Sys2Proof.Machine
end

