-- ==== Sys2Proof/Laws/PerInstr.lean ====
section
/-! SUPPORT. For every constructor: an instruction word's opcode number leads back to the instruction, and is a number
of ten bits (R31, R43); a row of the table without an opcode number is a pair word or an event, of at most one word. -/

namespace Sys2Proof.Laws.Opcode

/-- The opcode number of an instruction gives the instruction back and fits its field; what has no opcode number has
at most one word. -/
def Statement (i : Instr) : Prop :=
  (∀ op m f, i.isa? = some (op, m, f) → ofOpcode op f = some i ∧ op < 1024) ∧
    (i.isa? = none → (encode i).length ≤ 1)

/-- An instruction with an opcode number. -/
theorem of_some {i : Instr} {op : Nat} {m : Form} {f : Fields} (h : i.isa? = some (op, m, f))
    (ho : ofOpcode op f = some i) (hl : op < 1024) : Statement i := by
  refine ⟨fun op' m' f' h' => ?_, fun h' => ?_⟩
  · rw [h] at h'; cases h'; exact ⟨ho, hl⟩
  · rw [h] at h'; cases h'

/-- A row without one. -/
theorem of_none {i : Instr} (h : i.isa? = none) (hl : (encode i).length ≤ 1) : Statement i := by
  refine ⟨fun op' m' f' h' => ?_, fun _ => hl⟩
  rw [h] at h'; cases h'

theorem nop (f : Fields) : Statement (.nop f) :=
  of_some rfl rfl (by decide)
theorem bra (f : Fields) : Statement (.bra f) :=
  of_some rfl rfl (by decide)
theorem brx (f : Fields) : Statement (.brx f) :=
  of_some rfl rfl (by decide)
theorem call (f : Fields) : Statement (.call f) :=
  of_some rfl rfl (by decide)
theorem ret (f : Fields) : Statement (.ret f) :=
  of_some rfl rfl (by decide)
theorem exit (f : Fields) : Statement (.exit f) :=
  of_some rfl rfl (by decide)
theorem yield (f : Fields) : Statement (.yield f) :=
  of_some rfl rfl (by decide)
theorem sleep (f : Fields) : Statement (.sleep f) :=
  of_some rfl rfl (by decide)
theorem brk (f : Fields) : Statement (.brk f) :=
  of_some rfl rfl (by decide)
theorem shfl (f : Fields) : Statement (.shfl f) :=
  of_some rfl rfl (by decide)
theorem vote (f : Fields) : Statement (.vote f) :=
  of_some rfl rfl (by decide)
theorem ballot (f : Fields) : Statement (.ballot f) :=
  of_some rfl rfl (by decide)
theorem matchV (f : Fields) : Statement (.matchV f) :=
  of_some rfl rfl (by decide)
theorem rdx (f : Fields) : Statement (.rdx f) :=
  of_some rfl rfl (by decide)
theorem scan (f : Fields) : Statement (.scan f) :=
  of_some rfl rfl (by decide)
theorem elect (f : Fields) : Statement (.elect f) :=
  of_some rfl rfl (by decide)
theorem iadd (f : Fields) : Statement (.iadd f) :=
  of_some rfl rfl (by decide)
theorem isub (f : Fields) : Statement (.isub f) :=
  of_some rfl rfl (by decide)
theorem iaddc (f : Fields) : Statement (.iaddc f) :=
  of_some rfl rfl (by decide)
theorem imul (f : Fields) : Statement (.imul f) :=
  of_some rfl rfl (by decide)
theorem imulh (f : Fields) : Statement (.imulh f) :=
  of_some rfl rfl (by decide)
theorem imad (f : Fields) : Statement (.imad f) :=
  of_some rfl rfl (by decide)
theorem imadw (f : Fields) : Statement (.imadw f) :=
  of_some rfl rfl (by decide)
theorem idiv (f : Fields) : Statement (.idiv f) :=
  of_some rfl rfl (by decide)
theorem irem (f : Fields) : Statement (.irem f) :=
  of_some rfl rfl (by decide)
theorem imin (f : Fields) : Statement (.imin f) :=
  of_some rfl rfl (by decide)
theorem imax (f : Fields) : Statement (.imax f) :=
  of_some rfl rfl (by decide)
theorem iabs (f : Fields) : Statement (.iabs f) :=
  of_some rfl rfl (by decide)
theorem ineg (f : Fields) : Statement (.ineg f) :=
  of_some rfl rfl (by decide)
theorem and (f : Fields) : Statement (.and f) :=
  of_some rfl rfl (by decide)
theorem or (f : Fields) : Statement (.or f) :=
  of_some rfl rfl (by decide)
theorem xor (f : Fields) : Statement (.xor f) :=
  of_some rfl rfl (by decide)
theorem not (f : Fields) : Statement (.not f) :=
  of_some rfl rfl (by decide)
theorem andn (f : Fields) : Statement (.andn f) :=
  of_some rfl rfl (by decide)
theorem shl (f : Fields) : Statement (.shl f) :=
  of_some rfl rfl (by decide)
theorem shr (f : Fields) : Statement (.shr f) :=
  of_some rfl rfl (by decide)
theorem sar (f : Fields) : Statement (.sar f) :=
  of_some rfl rfl (by decide)
theorem rot (f : Fields) : Statement (.rot f) :=
  of_some rfl rfl (by decide)
theorem bfe (f : Fields) : Statement (.bfe f) :=
  of_some rfl rfl (by decide)
theorem bfi (f : Fields) : Statement (.bfi f) :=
  of_some rfl rfl (by decide)
theorem popc (f : Fields) : Statement (.popc f) :=
  of_some rfl rfl (by decide)
theorem clz (f : Fields) : Statement (.clz f) :=
  of_some rfl rfl (by decide)
theorem ctz (f : Fields) : Statement (.ctz f) :=
  of_some rfl rfl (by decide)
theorem brev (f : Fields) : Statement (.brev f) :=
  of_some rfl rfl (by decide)
theorem prmt (f : Fields) : Statement (.prmt f) :=
  of_some rfl rfl (by decide)
theorem icmp (f : Fields) : Statement (.icmp f) :=
  of_some rfl rfl (by decide)
theorem isel (f : Fields) : Statement (.isel f) :=
  of_some rfl rfl (by decide)
theorem mov (f : Fields) : Statement (.mov f) :=
  of_some rfl rfl (by decide)
theorem movi (f : Fields) : Statement (.movi f) :=
  of_some rfl rfl (by decide)
theorem lea (f : Fields) : Statement (.lea f) :=
  of_some rfl rfl (by decide)
theorem vspill (f : Fields) : Statement (.vspill f) :=
  of_some rfl rfl (by decide)
theorem vfill (f : Fields) : Statement (.vfill f) :=
  of_some rfl rfl (by decide)
theorem fadd (f : Fields) : Statement (.fadd f) :=
  of_some rfl rfl (by decide)
theorem fsub (f : Fields) : Statement (.fsub f) :=
  of_some rfl rfl (by decide)
theorem fmul (f : Fields) : Statement (.fmul f) :=
  of_some rfl rfl (by decide)
theorem ffma (f : Fields) : Statement (.ffma f) :=
  of_some rfl rfl (by decide)
theorem fmin (f : Fields) : Statement (.fmin f) :=
  of_some rfl rfl (by decide)
theorem fmax (f : Fields) : Statement (.fmax f) :=
  of_some rfl rfl (by decide)
theorem fcmp (f : Fields) : Statement (.fcmp f) :=
  of_some rfl rfl (by decide)
theorem fsel (f : Fields) : Statement (.fsel f) :=
  of_some rfl rfl (by decide)
theorem frnd (f : Fields) : Statement (.frnd f) :=
  of_some rfl rfl (by decide)
theorem fclass (f : Fields) : Statement (.fclass f) :=
  of_some rfl rfl (by decide)
theorem fcpysgn (f : Fields) : Statement (.fcpysgn f) :=
  of_some rfl rfl (by decide)
theorem hadd2 (f : Fields) : Statement (.hadd2 f) :=
  of_some rfl rfl (by decide)
theorem hmul2 (f : Fields) : Statement (.hmul2 f) :=
  of_some rfl rfl (by decide)
theorem hfma2 (f : Fields) : Statement (.hfma2 f) :=
  of_some rfl rfl (by decide)
theorem hmin2 (f : Fields) : Statement (.hmin2 f) :=
  of_some rfl rfl (by decide)
theorem hmax2 (f : Fields) : Statement (.hmax2 f) :=
  of_some rfl rfl (by decide)
theorem pairWord (x y : Slot) : Statement (.pairWord x y) :=
  of_none rfl (Nat.le_of_ble_eq_true rfl)
theorem frcp (f : Fields) : Statement (.frcp f) :=
  of_some rfl rfl (by decide)
theorem frsq (f : Fields) : Statement (.frsq f) :=
  of_some rfl rfl (by decide)
theorem fsqrt (f : Fields) : Statement (.fsqrt f) :=
  of_some rfl rfl (by decide)
theorem fdiv (f : Fields) : Statement (.fdiv f) :=
  of_some rfl rfl (by decide)
theorem fexp2 (f : Fields) : Statement (.fexp2 f) :=
  of_some rfl rfl (by decide)
theorem flog2 (f : Fields) : Statement (.flog2 f) :=
  of_some rfl rfl (by decide)
theorem fsin (f : Fields) : Statement (.fsin f) :=
  of_some rfl rfl (by decide)
theorem fcos (f : Fields) : Statement (.fcos f) :=
  of_some rfl rfl (by decide)
theorem ftanh (f : Fields) : Statement (.ftanh f) :=
  of_some rfl rfl (by decide)
theorem fsigm (f : Fields) : Statement (.fsigm f) :=
  of_some rfl rfl (by decide)
theorem fgelu (f : Fields) : Statement (.fgelu f) :=
  of_some rfl rfl (by decide)
theorem fsilu (f : Fields) : Statement (.fsilu f) :=
  of_some rfl rfl (by decide)
theorem cvt (f : Fields) : Statement (.cvt f) :=
  of_some rfl rfl (by decide)
theorem cvtEf (f : Fields) : Statement (.cvtEf f) :=
  of_some rfl rfl (by decide)
theorem pack (f : Fields) : Statement (.pack f) :=
  of_some rfl rfl (by decide)
theorem unpack (f : Fields) : Statement (.unpack f) :=
  of_some rfl rfl (by decide)
theorem qscale (f : Fields) : Statement (.qscale f) :=
  of_some rfl rfl (by decide)
theorem lds (f : Fields) : Statement (.lds f) :=
  of_some rfl rfl (by decide)
theorem sts (f : Fields) : Statement (.sts f) :=
  of_some rfl rfl (by decide)
theorem ats (f : Fields) : Statement (.ats f) :=
  of_some rfl rfl (by decide)
theorem scratchpadAccessApplied (core q : Nat) : Statement (.scratchpadAccessApplied core q) :=
  of_none rfl (Nat.le_of_ble_eq_true rfl)
theorem tlSet (f : Fields) : Statement (.tlSet f) :=
  of_some rfl rfl (by decide)
theorem tlFill (f : Fields) : Statement (.tlFill f) :=
  of_some rfl rfl (by decide)
theorem tlDrain (f : Fields) : Statement (.tlDrain f) :=
  of_some rfl rfl (by decide)
theorem tlStat (f : Fields) : Statement (.tlStat f) :=
  of_some rfl rfl (by decide)
theorem tlDom (f : Fields) : Statement (.tlDom f) :=
  of_some rfl rfl (by decide)
theorem tlRel (f : Fields) : Statement (.tlRel f) :=
  of_some rfl rfl (by decide)
theorem jcInit (f : Fields) : Statement (.jcInit f) :=
  of_some rfl rfl (by decide)
theorem jcArv (f : Fields) : Statement (.jcArv f) :=
  of_some rfl rfl (by decide)
theorem jcExp (f : Fields) : Statement (.jcExp f) :=
  of_some rfl rfl (by decide)
theorem jcTest (f : Fields) : Statement (.jcTest f) :=
  of_some rfl rfl (by decide)
theorem waitm (f : Fields) : Statement (.waitm f) :=
  of_some rfl rfl (by decide)
theorem waitmReevaluation (sid t : Nat) : Statement (.waitmReevaluation sid t) :=
  of_none rfl (Nat.le_of_ble_eq_true rfl)
theorem waitmTimeout (sid t : Nat) : Statement (.waitmTimeout sid t) :=
  of_none rfl (Nat.le_of_ble_eq_true rfl)
theorem cpa (f : Fields) : Statement (.cpa f) :=
  of_some rfl rfl (by decide)
theorem cpaLaneComplete (core op lane : Nat) : Statement (.cpaLaneComplete core op lane) :=
  of_none rfl (Nat.le_of_ble_eq_true rfl)
theorem cpw (f : Fields) : Statement (.cpw f) :=
  of_some rfl rfl (by decide)
theorem reqKick (f : Fields) : Statement (.reqKick f) :=
  of_some rfl rfl (by decide)
theorem requestRecordComplete (core op : Nat) : Statement (.requestRecordComplete core op) :=
  of_none rfl (Nat.le_of_ble_eq_true rfl)
theorem collRed (f : Fields) : Statement (.collRed f) :=
  of_some rfl rfl (by decide)
theorem collectiveRedComplete (core op : Nat) : Statement (.collectiveRedComplete core op) :=
  of_none rfl (Nat.le_of_ble_eq_true rfl)
theorem collBcast (f : Fields) : Statement (.collBcast f) :=
  of_some rfl rfl (by decide)
theorem collectiveBcastReady (core op : Nat) : Statement (.collectiveBcastReady core op) :=
  of_none rfl (Nat.le_of_ble_eq_true rfl)
theorem fmtLoad (f : Fields) : Statement (.fmtLoad f) :=
  of_some rfl rfl (by decide)
theorem prologueRun (wg : Nat) : Statement (.prologueRun wg) :=
  of_none rfl (Nat.le_of_ble_eq_true rfl)
theorem prologueComplete (wg : Nat) : Statement (.prologueComplete wg) :=
  of_none rfl (Nat.le_of_ble_eq_true rfl)
theorem mma (f : Fields) : Statement (.mma f) :=
  of_some rfl rfl (by decide)
theorem mmat (f : Fields) : Statement (.mmat f) :=
  of_some rfl rfl (by decide)
theorem mmas (f : Fields) : Statement (.mmas f) :=
  of_some rfl rfl (by decide)
theorem matrixRowGroup (pod eng : Nat) : Statement (.matrixRowGroup pod eng) :=
  of_none rfl (Nat.le_of_ble_eq_true rfl)
theorem matrixOperationComplete (pod eng : Nat) : Statement (.matrixOperationComplete pod eng) :=
  of_none rfl (Nat.le_of_ble_eq_true rfl)
theorem mopRdy (f : Fields) : Statement (.mopRdy f) :=
  of_some rfl rfl (by decide)
theorem matrixSpanFault (sid : Nat) : Statement (.matrixSpanFault sid) :=
  of_none rfl (Nat.le_of_ble_eq_true rfl)
theorem accZ (f : Fields) : Statement (.accZ f) :=
  of_some rfl rfl (by decide)
theorem accRd (f : Fields) : Statement (.accRd f) :=
  of_some rfl rfl (by decide)
theorem accWr (f : Fields) : Statement (.accWr f) :=
  of_some rfl rfl (by decide)
theorem accLd (f : Fields) : Statement (.accLd f) :=
  of_some rfl rfl (by decide)
theorem accSt (f : Fields) : Statement (.accSt f) :=
  of_some rfl rfl (by decide)
theorem accWm (f : Fields) : Statement (.accWm f) :=
  of_some rfl rfl (by decide)
theorem accCvt (f : Fields) : Statement (.accCvt f) :=
  of_some rfl rfl (by decide)
theorem ldw (f : Fields) : Statement (.ldw f) :=
  of_some rfl rfl (by decide)
theorem wstFill (f : Fields) : Statement (.wstFill f) :=
  of_some rfl rfl (by decide)
theorem weightFillBytesWritten (die fill : Nat) : Statement (.weightFillBytesWritten die fill) :=
  of_none rfl (Nat.le_of_ble_eq_true rfl)
theorem wstStat (f : Fields) : Statement (.wstStat f) :=
  of_some rfl rfl (by decide)
theorem retentionExpiredFault (op : Nat) : Statement (.retentionExpiredFault op) :=
  of_none rfl (Nat.le_of_ble_eq_true rfl)
theorem sth (f : Fields) : Statement (.sth f) :=
  of_some rfl rfl (by decide)
theorem hfwd (f : Fields) : Statement (.hfwd f) :=
  of_some rfl rfl (by decide)
theorem hinv (f : Fields) : Statement (.hinv f) :=
  of_some rfl rfl (by decide)
theorem thset (f : Fields) : Statement (.thset f) :=
  of_some rfl rfl (by decide)
theorem thget (f : Fields) : Statement (.thget f) :=
  of_some rfl rfl (by decide)
theorem hbias (f : Fields) : Statement (.hbias f) :=
  of_some rfl rfl (by decide)
theorem hmask (f : Fields) : Statement (.hmask f) :=
  of_some rfl rfl (by decide)
theorem liftJob (core : Nat) : Statement (.liftJob core) :=
  of_none rfl (Nat.le_of_ble_eq_true rfl)
theorem ld (f : Fields) : Statement (.ld f) :=
  of_some rfl rfl (by decide)
theorem ldCon (f : Fields) : Statement (.ldCon f) :=
  of_some rfl rfl (by decide)
theorem ldAcq (f : Fields) : Statement (.ldAcq f) :=
  of_some rfl rfl (by decide)
theorem st (f : Fields) : Statement (.st f) :=
  of_some rfl rfl (by decide)
theorem stSub (f : Fields) : Statement (.stSub f) :=
  of_some rfl rfl (by decide)
theorem stRel (f : Fields) : Statement (.stRel f) :=
  of_some rfl rfl (by decide)
theorem atom (f : Fields) : Statement (.atom f) :=
  of_some rfl rfl (by decide)
theorem atomCas (f : Fields) : Statement (.atomCas f) :=
  of_some rfl rfl (by decide)
theorem red (f : Fields) : Statement (.red f) :=
  of_some rfl rfl (by decide)
theorem fence (f : Fields) : Statement (.fence f) :=
  of_some rfl rfl (by decide)
theorem cctl (f : Fields) : Statement (.cctl f) :=
  of_some rfl rfl (by decide)
theorem pref (f : Fields) : Statement (.pref f) :=
  of_some rfl rfl (by decide)
theorem tclr (f : Fields) : Statement (.tclr f) :=
  of_some rfl rfl (by decide)
theorem globalAccessPerformed (op lane : Nat) : Statement (.globalAccessPerformed op lane) :=
  of_none rfl (Nat.le_of_ble_eq_true rfl)
theorem translationWalk (ctx va : Nat) : Statement (.translationWalk ctx va) :=
  of_none rfl (Nat.le_of_ble_eq_true rfl)
theorem peerWriteAcknowledged (op : Nat) : Statement (.peerWriteAcknowledged op) :=
  of_none rfl (Nat.le_of_ble_eq_true rfl)
theorem retrainLimitExpiry (sid : Nat) : Statement (.retrainLimitExpiry sid) :=
  of_none rfl (Nat.le_of_ble_eq_true rfl)
theorem ldk (f : Fields) : Statement (.ldk f) :=
  of_some rfl rfl (by decide)
theorem stk (f : Fields) : Statement (.stk f) :=
  of_some rfl rfl (by decide)
theorem rcn (f : Fields) : Statement (.rcn f) :=
  of_some rfl rfl (by decide)
theorem tileRet (f : Fields) : Statement (.tileRet f) :=
  of_some rfl rfl (by decide)
theorem rsQ (f : Fields) : Statement (.rsQ f) :=
  of_some rfl rfl (by decide)
theorem recAlloc (f : Fields) : Statement (.recAlloc f) :=
  of_some rfl rfl (by decide)
theorem recPut (f : Fields) : Statement (.recPut f) :=
  of_some rfl rfl (by decide)
theorem recCommit (f : Fields) : Statement (.recCommit f) :=
  of_some rfl rfl (by decide)
theorem recGet (f : Fields) : Statement (.recGet f) :=
  of_some rfl rfl (by decide)
theorem recCount (f : Fields) : Statement (.recCount f) :=
  of_some rfl rfl (by decide)
theorem interp (f : Fields) : Statement (.interp f) :=
  of_some rfl rfl (by decide)
theorem ddx (f : Fields) : Statement (.ddx f) :=
  of_some rfl rfl (by decide)
theorem ddy (f : Fields) : Statement (.ddy f) :=
  of_some rfl rfl (by decide)
theorem discard (f : Fields) : Statement (.discard f) :=
  of_some rfl rfl (by decide)
theorem vism (f : Fields) : Statement (.vism f) :=
  of_some rfl rfl (by decide)
theorem blend (f : Fields) : Statement (.blend f) :=
  of_some rfl rfl (by decide)
theorem blendPerformed (op lane : Nat) : Statement (.blendPerformed op lane) :=
  of_none rfl (Nat.le_of_ble_eq_true rfl)
theorem tex (f : Fields) : Statement (.tex f) :=
  of_some rfl rfl (by decide)
theorem texg (f : Fields) : Statement (.texg f) :=
  of_some rfl rfl (by decide)
theorem texq (f : Fields) : Statement (.texq f) :=
  of_some rfl rfl (by decide)
theorem trace (f : Fields) : Statement (.trace f) :=
  of_some rfl rfl (by decide)
theorem hitRd (f : Fields) : Statement (.hitRd f) :=
  of_some rfl rfl (by decide)
theorem cont (f : Fields) : Statement (.cont f) :=
  of_some rfl rfl (by decide)
theorem cov (f : Fields) : Statement (.cov f) :=
  of_some rfl rfl (by decide)
theorem emitp (f : Fields) : Statement (.emitp f) :=
  of_some rfl rfl (by decide)
theorem trap (f : Fields) : Statement (.trap f) :=
  of_some rfl rfl (by decide)
theorem systemCallAnswered (sid : Nat) : Statement (.systemCallAnswered sid) :=
  of_none rfl (Nat.le_of_ble_eq_true rfl)
theorem tret (f : Fields) : Statement (.tret f) :=
  of_some rfl rfl (by decide)
theorem srd (f : Fields) : Statement (.srd f) :=
  of_some rfl rfl (by decide)
theorem swr (f : Fields) : Statement (.swr f) :=
  of_some rfl rfl (by decide)
theorem clauseStart (core : Nat) : Statement (.clauseStart core) :=
  of_none rfl (Nat.le_of_ble_eq_true rfl)
theorem longLatencyCompletion (op : Nat) : Statement (.longLatencyCompletion op) :=
  of_none rfl (Nat.le_of_ble_eq_true rfl)
theorem issueGroupRotation (sid : Nat) : Statement (.issueGroupRotation sid) :=
  of_none rfl (Nat.le_of_ble_eq_true rfl)
theorem schedulerRunBreak (core : Nat) : Statement (.schedulerRunBreak core) :=
  of_none rfl (Nat.le_of_ble_eq_true rfl)
theorem runLimit (core : Nat) : Statement (.runLimit core) :=
  of_none rfl (Nat.le_of_ble_eq_true rfl)
theorem stallEnd (sid : Nat) : Statement (.stallEnd sid) :=
  of_none rfl (Nat.le_of_ble_eq_true rfl)
theorem sleepExpiry (sid t : Nat) : Statement (.sleepExpiry sid t) :=
  of_none rfl (Nat.le_of_ble_eq_true rfl)
theorem crossLaneWaitRelease (sid : Nat) : Statement (.crossLaneWaitRelease sid) :=
  of_none rfl (Nat.le_of_ble_eq_true rfl)
theorem crossLaneWatchdog (sid : Nat) : Statement (.crossLaneWatchdog sid) :=
  of_none rfl (Nat.le_of_ble_eq_true rfl)
theorem tileWaitFault (sid : Nat) : Statement (.tileWaitFault sid) :=
  of_none rfl (Nat.le_of_ble_eq_true rfl)
theorem workgroupAdmission (wg : Nat) : Statement (.workgroupAdmission wg) :=
  of_none rfl (Nat.le_of_ble_eq_true rfl)
theorem sheafStart (wg : Nat) : Statement (.sheafStart wg) :=
  of_none rfl (Nat.le_of_ble_eq_true rfl)
theorem sheafRetire (sid : Nat) : Statement (.sheafRetire sid) :=
  of_none rfl (Nat.le_of_ble_eq_true rfl)
theorem workgroupRetire (wg : Nat) : Statement (.workgroupRetire wg) :=
  of_none rfl (Nat.le_of_ble_eq_true rfl)
theorem handlerEntry (sid : Nat) : Statement (.handlerEntry sid) :=
  of_none rfl (Nat.le_of_ble_eq_true rfl)
theorem sheafPark (sid : Nat) : Statement (.sheafPark sid) :=
  of_none rfl (Nat.le_of_ble_eq_true rfl)
theorem doubleFault (sid : Nat) : Statement (.doubleFault sid) :=
  of_none rfl (Nat.le_of_ble_eq_true rfl)
theorem haltLine (ctx : Nat) : Statement (.haltLine ctx) :=
  of_none rfl (Nat.le_of_ble_eq_true rfl)
theorem partStop (ctx part unit : Nat) : Statement (.partStop ctx part unit) :=
  of_none rfl (Nat.le_of_ble_eq_true rfl)
theorem impreciseStoreFault (op lane : Nat) : Statement (.impreciseStoreFault op lane) :=
  of_none rfl (Nat.le_of_ble_eq_true rfl)
theorem memoryErrorFault (op : Nat) : Statement (.memoryErrorFault op) :=
  of_none rfl (Nat.le_of_ble_eq_true rfl)
theorem engineFault (engine unit op : Nat) : Statement (.engineFault engine unit op) :=
  of_none rfl (Nat.le_of_ble_eq_true rfl)
theorem workgroupSave (wg : Nat) : Statement (.workgroupSave wg) :=
  of_none rfl (Nat.le_of_ble_eq_true rfl)
theorem workgroupResumption (wg core : Nat) : Statement (.workgroupResumption wg core) :=
  of_none rfl (Nat.le_of_ble_eq_true rfl)
theorem notifyStore (q off size value : Nat) : Statement (.notifyStore q off size value) :=
  of_none rfl (Nat.le_of_ble_eq_true rfl)
theorem enable (q : Nat) : Statement (.enable q) :=
  of_none rfl (Nat.le_of_ble_eq_true rfl)
theorem disable (q : Nat) : Statement (.disable q) :=
  of_none rfl (Nat.le_of_ble_eq_true rfl)
theorem sync (q : Nat) : Statement (.sync q) :=
  of_none rfl (Nat.le_of_ble_eq_true rfl)
theorem slotGrant (die : Nat) : Statement (.slotGrant die) :=
  of_none rfl (Nat.le_of_ble_eq_true rfl)
theorem timeSliceExpiry (die slot : Nat) : Statement (.timeSliceExpiry die slot) :=
  of_none rfl (Nat.le_of_ble_eq_true rfl)
theorem entryRead (die slot : Nat) : Statement (.entryRead die slot) :=
  of_none rfl (Nat.le_of_ble_eq_true rfl)
theorem graphIntake (g : Nat) : Statement (.graphIntake g) :=
  of_none rfl (Nat.le_of_ble_eq_true rfl)
theorem graphAdmission (g : Nat) : Statement (.graphAdmission g) :=
  of_none rfl (Nat.le_of_ble_eq_true rfl)
theorem passEntry (g p : Nat) : Statement (.passEntry g p) :=
  of_none rfl (Nat.le_of_ble_eq_true rfl)
theorem tileRelease (g p t : Nat) : Statement (.tileRelease g p t) :=
  of_none rfl (Nat.le_of_ble_eq_true rfl)
theorem tileDispatch (pods : Nat) : Statement (.tileDispatch pods) :=
  of_none rfl (Nat.le_of_ble_eq_true rfl)
theorem teamPlacement (pods : Nat) : Statement (.teamPlacement pods) :=
  of_none rfl (Nat.le_of_ble_eq_true rfl)
theorem edgeDone (g p t e : Nat) : Statement (.edgeDone g p t e) :=
  of_none rfl (Nat.le_of_ble_eq_true rfl)
theorem drainComplete (g p t e : Nat) : Statement (.drainComplete g p t e) :=
  of_none rfl (Nat.le_of_ble_eq_true rfl)
theorem tileRetire (g p t : Nat) : Statement (.tileRetire g p t) :=
  of_none rfl (Nat.le_of_ble_eq_true rfl)
theorem retireNotice (die k : Nat) : Statement (.retireNotice die k) :=
  of_none rfl (Nat.le_of_ble_eq_true rfl)
theorem graphRetire (g : Nat) : Statement (.graphRetire g) :=
  of_none rfl (Nat.le_of_ble_eq_true rfl)
theorem readEnd (g k : Nat) : Statement (.readEnd g k) :=
  of_none rfl (Nat.le_of_ble_eq_true rfl)
theorem ringFillComplete (k : Nat) : Statement (.ringFillComplete k) :=
  of_none rfl (Nat.le_of_ble_eq_true rfl)
theorem recipeGather (g r t : Nat) : Statement (.recipeGather g r t) :=
  of_none rfl (Nat.le_of_ble_eq_true rfl)
theorem recipeLaunch (g k : Nat) : Statement (.recipeLaunch g k) :=
  of_none rfl (Nat.le_of_ble_eq_true rfl)
theorem recipeDrained (g k : Nat) : Statement (.recipeDrained g k) :=
  of_none rfl (Nat.le_of_ble_eq_true rfl)
theorem remappingStep (die : Nat) : Statement (.remappingStep die) :=
  of_none rfl (Nat.le_of_ble_eq_true rfl)
theorem bankRotation (die : Nat) : Statement (.bankRotation die) :=
  of_none rfl (Nat.le_of_ble_eq_true rfl)
theorem rotationCopyEnd (die : Nat) : Statement (.rotationCopyEnd die) :=
  of_none rfl (Nat.le_of_ble_eq_true rfl)
theorem bankLost (die bank : Nat) : Statement (.bankLost die bank) :=
  of_none rfl (Nat.le_of_ble_eq_true rfl)
theorem thermalRetirementRequest (die bank : Nat) : Statement (.thermalRetirementRequest die bank) :=
  of_none rfl (Nat.le_of_ble_eq_true rfl)
theorem transferParityRetry (die chan group tries tries2 lanes : Nat) : Statement (.transferParityRetry die chan group tries tries2 lanes) :=
  of_none rfl (Nat.le_of_ble_eq_true rfl)
theorem batchTimeout (g p : Nat) : Statement (.batchTimeout g p) :=
  of_none rfl (Nat.le_of_ble_eq_true rfl)
theorem nodeRetire (g p : Nat) : Statement (.nodeRetire g p) :=
  of_none rfl (Nat.le_of_ble_eq_true rfl)
theorem tableInstant (k : Nat) : Statement (.tableInstant k) :=
  of_none rfl (Nat.le_of_ble_eq_true rfl)
theorem ttctlRun (value : Nat) : Statement (.ttctlRun value) :=
  of_none rfl (Nat.le_of_ble_eq_true rfl)
theorem load (ctx : Nat) : Statement (.load ctx) :=
  of_none rfl (Nat.le_of_ble_eq_true rfl)
theorem inval (ctx : Nat) : Statement (.inval ctx) :=
  of_none rfl (Nat.le_of_ble_eq_true rfl)
theorem replay (ctx : Nat) : Statement (.replay ctx) :=
  of_none rfl (Nat.le_of_ble_eq_true rfl)
theorem resume (ctx : Nat) : Statement (.resume ctx) :=
  of_none rfl (Nat.le_of_ble_eq_true rfl)
theorem abandon (ctx : Nat) : Statement (.abandon ctx) :=
  of_none rfl (Nat.le_of_ble_eq_true rfl)
theorem unload (ctx : Nat) : Statement (.unload ctx) :=
  of_none rfl (Nat.le_of_ble_eq_true rfl)
theorem ctxbaseWrite (value : Nat) : Statement (.ctxbaseWrite value) :=
  of_none rfl (Nat.le_of_ble_eq_true rfl)
theorem fenceCore (core : Nat) : Statement (.fenceCore core) :=
  of_none rfl (Nat.le_of_ble_eq_true rfl)
theorem unfenceCore (core : Nat) : Statement (.unfenceCore core) :=
  of_none rfl (Nat.le_of_ble_eq_true rfl)
theorem resetComputeDie (die : Nat) : Statement (.resetComputeDie die) :=
  of_none rfl (Nat.le_of_ble_eq_true rfl)
theorem regionOpen (die i value : Nat) : Statement (.regionOpen die i value) :=
  of_none rfl (Nat.le_of_ble_eq_true rfl)
theorem regionSeal (die i value : Nat) : Statement (.regionSeal die i value) :=
  of_none rfl (Nat.le_of_ble_eq_true rfl)
theorem regionRelease (die i value : Nat) : Statement (.regionRelease die i value) :=
  of_none rfl (Nat.le_of_ble_eq_true rfl)
theorem regionDeadline (die i : Nat) : Statement (.regionDeadline die i) :=
  of_none rfl (Nat.le_of_ble_eq_true rfl)
theorem weightStoreRefresh (die bank : Nat) : Statement (.weightStoreRefresh die bank) :=
  of_none rfl (Nat.le_of_ble_eq_true rfl)
theorem present (head value : Nat) : Statement (.present head value) :=
  of_none rfl (Nat.le_of_ble_eq_true rfl)
theorem verticalBlanking (head : Nat) : Statement (.verticalBlanking head) :=
  of_none rfl (Nat.le_of_ble_eq_true rfl)
theorem scanOut (head : Nat) : Statement (.scanOut head) :=
  of_none rfl (Nat.le_of_ble_eq_true rfl)
theorem tbstep (value : Nat) : Statement (.tbstep value) :=
  of_none rfl (Nat.le_of_ble_eq_true rfl)
theorem extend (idx : Nat) : Statement (.extend idx) :=
  of_none rfl (Nat.le_of_ble_eq_true rfl)
theorem attest (value : Nat) : Statement (.attest value) :=
  of_none rfl (Nat.le_of_ble_eq_true rfl)
theorem attestationDone : Statement (.attestationDone) :=
  of_none rfl (Nat.le_of_ble_eq_true rfl)
theorem intstatClear (value : Nat) : Statement (.intstatClear value) :=
  of_none rfl (Nat.le_of_ble_eq_true rfl)
theorem fixedClockEntry : Statement (.fixedClockEntry) :=
  of_none rfl (Nat.le_of_ble_eq_true rfl)
theorem thermalTrip : Statement (.thermalTrip) :=
  of_none rfl (Nat.le_of_ble_eq_true rfl)
theorem powerStretch (mw : Nat) : Statement (.powerStretch mw) :=
  of_none rfl (Nat.le_of_ble_eq_true rfl)
theorem powerHold (mw : Nat) : Statement (.powerHold mw) :=
  of_none rfl (Nat.le_of_ble_eq_true rfl)
theorem holdRateLimitedResume (die : Nat) : Statement (.holdRateLimitedResume die) :=
  of_none rfl (Nat.le_of_ble_eq_true rfl)
theorem powerRelief (mw : Nat) : Statement (.powerRelief mw) :=
  of_none rfl (Nat.le_of_ble_eq_true rfl)
theorem powerStateEntry : Statement (.powerStateEntry) :=
  of_none rfl (Nat.le_of_ble_eq_true rfl)
theorem wake : Statement (.wake) :=
  of_none rfl (Nat.le_of_ble_eq_true rfl)
theorem ucieLinkFailure (link : Nat) : Statement (.ucieLinkFailure link) :=
  of_none rfl (Nat.le_of_ble_eq_true rfl)
theorem peerLinkStateChange (port st narrow : Nat) : Statement (.peerLinkStateChange port st narrow) :=
  of_none rfl (Nat.le_of_ble_eq_true rfl)
theorem linkLossFault (op lane : Nat) : Statement (.linkLossFault op lane) :=
  of_none rfl (Nat.le_of_ble_eq_true rfl)
theorem registerWrite (pa value : Nat) : Statement (.registerWrite pa value) :=
  of_none rfl (Nat.le_of_ble_eq_true rfl)
theorem packageReset : Statement (.packageReset) :=
  of_none rfl (Nat.le_of_ble_eq_true rfl)
theorem remappingStepEnd (die : Nat) : Statement (.remappingStepEnd die) :=
  of_none rfl (Nat.le_of_ble_eq_true rfl)
theorem repairDone : Statement (.repairDone) :=
  of_none rfl (Nat.le_of_ble_eq_true rfl)
theorem peerAccessRequest (kind pa size data : Nat) : Statement (.peerAccessRequest kind pa size data) :=
  of_none rfl (Nat.le_of_ble_eq_true rfl)
theorem applicationCoreAccess (kind pa size data cmp : Nat) : Statement (.applicationCoreAccess kind pa size data cmp) :=
  of_none rfl (Nat.le_of_ble_eq_true rfl)

end Sys2Proof.Laws.Opcode
end

