-- ==== Sys2Proof/Safety.lean ====
section
/-! DEFINITION. What a safe step is, and the words in which claims speak of the issue of one instruction: when a
word goes to its own effect, which lanes act, what the effect on one register is. -/

namespace Sys2Proof

open Machine

/-- A step from `s` neither faults nor is refused. -/
def Safe (s : State) : Prop := ∃ t, step s = .next t

/-- The word `i` issues from sheaf `sid`, whose running clause is `r`, and comes to its own effect: no home holds
the sheaf (R311), its fields are legal (R37), and no matrix operation in flight holds a register that it
names or that its guards read (R25). -/
structure Issues (s : State) (i : Instr) (sid : Nat) (r : ClauseRun) : Prop where
  cur : s.cur = some sid
  run : (s.sheaf sid).run = some r
  free : s.holds sid = false
  legal : i.cause (s.sheaf sid).regs (s.sheaf sid).width = none
  apart : s.touches sid (namedRegs (s.sheaf sid).width i) = false
  still : s.touches sid (guardRegs i) = false

/-- The issue group of a clause (R93). -/
def groupOf (r : ClauseRun) : List Nat := bitsOf 64 r.mask

/-- The threads in which the word acts (R36). -/
def acts (s : State) (i : Instr) (sid : Nat) (r : ClauseRun) : List Nat := actors i (s.sheaf sid) (groupOf r)

/-- The issue of the word. -/
def issueOf (s : State) (i : Instr) (sid : Nat) (r : ClauseRun) : Issue := ⟨sid, groupOf r, acts s i sid r⟩

/-- The word issues with the effect that takes the machine to `s'`, and the sheaf goes on after it (R28). -/
def Goes (s : State) (i : Instr) (sid : Nat) (s' : State) : Prop := exec i s = .next (s'.advance sid i)

/-- The word waits at issue, `s'` being the machine with what the wait itself changes. -/
def Waits (s : State) (i : Instr) (sid : Nat) (s' : State) : Prop := exec i s = .next (s'.block sid)

/-- The word meets a precise fault, `s'` being the machine after the faulting threads have parked; the threads that
do not fault, where there are any, go on (R105, R425). -/
def Traps (s : State) (i : Instr) (sid : Nat) (s' : State) : Prop :=
  exec i s = .next (if (s'.sheaf sid).run.isNone then s' else s'.advance sid i)

/-- Every active lane of `i` gets in its register D the value that `g` computes from the kernel's FTZ and the
values of the operand fields `srcs` in that lane, sets the sticky bits that `g` answers, and gets the taint of
the operands (R36, R39, R79, R285); nothing else happens but the advance to the next word. -/
def WordResult (i : Instr) (f : Fields) (srcs : List (BitVec 8)) (g : Bool → List Word → Word × Word) : Prop :=
  ∀ s sid r, Issues s i sid r →
    Goes s i sid (s.writeLanes sid f.d 1 ((acts s i sid r).map fun t =>
      let x := g (s.wg (s.sheaf sid).wg).desc.ftz (srcs.map ((s.sheaf sid).read f.imm t))
      ⟨t, [(x.1, srcs.any ((s.sheaf sid).taintOf t))], x.2⟩))

/-- The same for two operands and no sticky bit. -/
def Result2 (i : Instr) (f : Fields) (g : Word → Word → Word) : Prop :=
  WordResult i f [f.a, f.b] fun _ l => (g (l.getD 0 0) (l.getD 1 0), 0)

/-- The same for one operand. -/
def Result1 (i : Instr) (f : Fields) (g : Word → Word) : Prop :=
  WordResult i f [f.a] fun _ l => (g (l.getD 0 0), 0)

/-- Every active lane writes `n` registers from D upwards with the words, taints and sticky bits that `g` computes
from the kernel's FTZ and the sheaf. -/
def LaneWrites (i : Instr) (d : BitVec 8) (n : Nat) (g : Bool → Sheaf → Nat → LaneOut) : Prop :=
  ∀ s sid r, Issues s i sid r →
    Goes s i sid (s.writeLanes sid d n
      ((acts s i sid r).map (g (s.wg (s.sheaf sid).wg).desc.ftz (s.sheaf sid))))

/-- An exact integer result kept to a word: by wrap (0), or held to the signed (1) or unsigned (2) range, with
SAT where that changes it (R126, R39). -/
def keep (mode : Nat) (x : Int) : Word × Word :=
  let lo : Int := if mode = 1 then -2147483648 else 0
  let hi : Int := if mode = 1 then 2147483647 else 4294967295
  if mode = 1 ∨ mode = 2 then (BitVec.ofInt 32 (max lo (min hi x)), if x < lo ∨ hi < x then 64 else 0)
  else (BitVec.ofInt 32 x, 0)

/-- A word as the exact integer that saturating mode `mode` takes it for (R126). -/
def exactInt (mode : Nat) (x : Word) : Int := if mode = 2 then x.toNat else x.toInt

/-- A long-latency instruction enters flight: one lane for each active thread, with the values of the sources
captured, the registers it will write named, and its completion flag counted (R24, R25, R28). -/
def Launches (i : Instr) (f : Fields) (srcs : List (BitVec 8)) (n : Nat) : Prop :=
  ∀ s sid r, Issues s i sid r →
    Goes s i sid (s.launch (issueOf s i sid r) i
      ((acts s i sid r).map ((s.sheaf sid).lane f.imm (acts s i sid r) srcs (regRun f.d n))))

end Sys2Proof
end

