-- ==== Sys2Proof/Certificates/Slice0/Obligations.lean ====
section
/-! DEFINITION. The statements about the machine that are to be proved.  A statement that covers several rules is the
conjunction of its `Claims`. -/

open Sys2Proof Sys2Proof.Machine

/-! ### Control flow (R103 to R105) -/

/-- Where the active threads go at the clause's end. -/
def Branches (i : Instr) (target : ClauseRun → Sheaf → Nat → BitVec 64) (link : State → ClauseRun → State) : Prop :=
  ∀ s sid r, Issues s i sid r →
    (∀ t ∈ acts s i sid r, (target r (s.sheaf sid) t).toNat % 8 = 0) →
    Goes s i sid ((link s r).modRun sid fun q =>
      { q with targets := (acts s i sid r).map fun t => (t, target r (s.sheaf sid) t) })

/-- R103: `bra` and `call` go to the clause address plus IMM32, `brx` to it plus A, `ret` to A with the upper bits
of the program counter; `call` writes the address of the next clause to D.  Each completes for every operand that
names a multiple of 8. -/
def Claims.BranchesSetTargets : Prop :=
  ∀ f : Fields,
    Branches (.bra f) (fun r _ _ => r.pc + f.imm.signExtend 64) (fun s _ => s) ∧
    Branches (.brx f) (fun r sh t => r.pc + (sh.read f.imm t f.a).signExtend 64) (fun s _ => s) ∧
    Branches (.ret f) (fun r sh t => BitVec.ofNat 64
      (r.pc.toNat / 2 ^ 32 % 2 ^ 20 * 2 ^ 32 + (sh.read f.imm t f.a).toNat)) (fun s _ => s) ∧
    (∀ s sid r, Issues s (.call f) sid r →
      ((acts s (.call f) sid r) = [] ∨ (r.pc + f.imm.signExtend 64).toNat % 8 = 0) →
      Goes s (.call f) sid ((s.writeLanes sid f.d 1 ((acts s (.call f) sid r).map fun t =>
          ⟨t, [(BitVec.ofNat 32 (r.pc.toNat + 8 + 8 * r.words.length), false)], 0⟩)).modRun sid fun q =>
        { q with targets := (acts s (.call f) sid r).map fun t => (t, r.pc + f.imm.signExtend 64) }))

/-- The issue group meets cause 12 where a target of an active thread is no multiple of 8. -/
def BadTarget (i : Instr) (target : ClauseRun → Sheaf → Nat → BitVec 64) : Prop :=
  ∀ s sid r, Issues s i sid r → (∃ t ∈ acts s i sid r, (target r (s.sheaf sid) t).toNat % 8 ≠ 0) →
    Traps s i sid (s.fault sid (groupOf r) r.pc (some r.k) 1 12 (groupOf r) 0)

/-- R103: a target of `bra`, `brx`, `call` or `ret` that is no multiple of 8 in some active thread is an illegal
use of
the whole group: cause 12 at the word, no thread branches, and D is not written. -/
def Claims.MisalignedTargetTraps : Prop :=
  ∀ f : Fields,
    BadTarget (.bra f) (fun r _ _ => r.pc + f.imm.signExtend 64) ∧
    BadTarget (.call f) (fun r _ _ => r.pc + f.imm.signExtend 64) ∧
    BadTarget (.brx f) (fun r sh t => r.pc + (sh.read f.imm t f.a).signExtend 64) ∧
    BadTarget (.ret f) (fun r sh t => BitVec.ofNat 64
      (r.pc.toNat / 2 ^ 32 % 2 ^ 20 * 2 ^ 32 + (sh.read f.imm t f.a).toNat))

/-- R104, R105: `nop` only goes on; `exit` makes its active threads exited and takes their bits from the live
mask; `yield` marks the clause; `sleep` notes a count of at most 2^24 - 1 core cycles for each active thread, the last
one that is not 0 standing (the model's choice, log entry 65); `brk` in which no guard holds goes on. -/
def Claims.ControlEffects : Prop :=
  ∀ (f : Fields) s sid r,
    (Issues s (.nop f) sid r → Goes s (.nop f) sid s) ∧
    (Issues s (.exit f) sid r → Goes s (.exit f) sid
      ((each (acts s (.exit f) sid r) (fun t s => s.releaseToken sid t) s).modSheaf sid fun sh =>
        { each (acts s (.exit f) sid r) (fun t sh => sh.modThread t fun th => { th with st := .exited }) sh with
          live := sh.live &&& ~~~ maskOf (acts s (.exit f) sid r) })) ∧
    (Issues s (.yield f) sid r → Goes s (.yield f) sid (if acts s (.yield f) sid r = [] then s
      else s.modRun sid fun q => { q with yielded := true })) ∧
    (Issues s (.sleep f) sid r → Goes s (.sleep f) sid (s.modRun sid fun q => { q with
      sleeps := (acts s (.sleep f) sid r).foldl (fun tab t =>
        let n := min ((s.sheaf sid).read f.imm t f.a).toNat (2 ^ 24 - 1)
        if n = 0 then tab else tab.put t n) q.sleeps })) ∧
    (Issues s (.brk f) sid r → acts s (.brk f) sid r = [] → Goes s (.brk f) sid s)

/-- R105: `brk n` is a breakpoint trap, CODE 0x02 with sub-code n, of exactly the threads in which the guard holds;
they park at the word, and the rest of the group goes on. -/
def Claims.BreakpointTraps : Prop :=
  ∀ (f : Fields) s sid r, Issues s (.brk f) sid r → acts s (.brk f) sid r ≠ [] →
    Traps s (.brk f) sid (s.fault sid (acts s (.brk f) sid r) r.pc (some r.k) 2 (f.xmod.toNat % 64)
      (acts s (.brk f) sid r) 0)

/-! ### Integer instructions (R126 to R139) -/

/-- R126 to R130: sums, differences and products are exact and then kept by wrap or by saturation with SAT;
`iaddc` gives the sum with carry or the carry itself; `imulh` the upper half of the product. -/
def Obligations.IntegerArithmetic : Prop :=
  ∀ f : Fields,
    let m := f.xmod.toNat % 4
    let u := f.xmod.toNat % 2
    WordResult (.iadd f) f [f.a, f.b] (fun _ l => keep m (exactInt m (l.getD 0 0) + exactInt m (l.getD 1 0))) ∧
    WordResult (.isub f) f [f.a, f.b] (fun _ l => keep m (exactInt m (l.getD 0 0) - exactInt m (l.getD 1 0))) ∧
    WordResult (.imad f) f [f.a, f.b, f.c]
      (fun _ l => keep m (exactInt m (l.getD 0 0) * exactInt m (l.getD 1 0) + exactInt m (l.getD 2 0))) ∧
    Result2 (.imul f) f (· * ·) ∧
    Result2 (.imulh f) f (fun a b => if u = 1 then (a.zeroExtend 64 * b.zeroExtend 64).extractLsb' 32 32
      else (a.signExtend 64 * b.signExtend 64).extractLsb' 32 32) ∧
    WordResult (.iaddc f) f [f.a, f.b, f.c] (fun _ l =>
      let a := l.getD 0 0
      let b := l.getD 1 0
      let c := (l.getD 2 0).toNat % 2
      (if f.xmod.toNat / 2 % 2 = 1 then
        (if u = 1 then (if a.toNat < b.toNat + c then 1 else 0) else a - b - BitVec.ofNat 32 c)
       else (if u = 1 then (if 2 ^ 32 ≤ a.toNat + b.toNat + c then 1 else 0) else a + b + BitVec.ofNat 32 c), 0)) ∧
    Result2 (.imin f) f (fun a b => if u = 1 then (if a.toNat ≤ b.toNat then a else b)
      else (if a.toInt ≤ b.toInt then a else b)) ∧
    Result2 (.imax f) f (fun a b => if u = 1 then (if b.toNat ≤ a.toNat then a else b)
      else (if b.toInt ≤ a.toInt then a else b)) ∧
    WordResult (.iabs f) f [f.a] (fun _ l => keep u |(l.getD 0 0).toInt|) ∧
    WordResult (.ineg f) f [f.a] (fun _ l => keep u (-(l.getD 0 0).toInt))

/-- R131, R132: the bitwise operations, and the shifts, which give 0 (or the sign) for a count of 32 or more unless
`.wrap` takes the count modulo 32. -/
def Claims.BitwiseAndShifts : Prop :=
  ∀ f : Fields,
    let w := f.xmod.toNat % 2
    let n (b : Word) : Nat := if w = 1 then b.toNat % 32 else b.toNat
    Result2 (.and f) f (fun a b => BitVec.ofFnLE fun i => a[i] && b[i]) ∧
    Result2 (.or f) f (fun a b => BitVec.ofFnLE fun i => a[i] || b[i]) ∧
    Result2 (.xor f) f (fun a b => BitVec.ofFnLE fun i => a[i] != b[i]) ∧
    Result1 (.not f) f (fun a => BitVec.ofFnLE fun i => !a[i]) ∧
    Result2 (.andn f) f (fun a b => BitVec.ofFnLE fun i => a[i] && !b[i]) ∧
    Result2 (.shl f) f (fun a b => BitVec.ofNat 32 (a.toNat * 2 ^ n b)) ∧
    Result2 (.shr f) f (fun a b => BitVec.ofNat 32 (a.toNat / 2 ^ n b)) ∧
    Result2 (.sar f) f (fun a b => BitVec.ofInt 32 (a.toInt / 2 ^ n b)) ∧
    Result2 (.rot f) f (fun a b =>
      let k := if w = 1 then (32 - b.toNat % 32) % 32 else b.toNat % 32
      BitVec.ofNat 32 (a.toNat * 2 ^ k + a.toNat / 2 ^ (32 - k)))

/-- R133: a field of length 0 or from bit 32 upwards is empty, a longer one is cut at bit 31; `bfe` extracts it with
zeros or its sign above it, `bfi` replaces it in A by the low bits of B. -/
def Claims.BitFields : Prop :=
  ∀ f : Fields,
    let pos (k : Word) : Nat := k.toNat % 256
    let len (k : Word) : Nat := if 32 ≤ pos k then 0 else min (k.toNat / 256 % 256) (32 - pos k)
    Result2 (.bfe f) f (fun a k =>
      let x : Nat := a.toNat / 2 ^ pos k % 2 ^ len k
      if f.xmod.toNat % 2 = 1 ∧ 0 < len k ∧ 2 ^ (len k - 1) ≤ x then BitVec.ofInt 32 ((x : Int) - 2 ^ len k)
      else BitVec.ofNat 32 x) ∧
    WordResult (.bfi f) f [f.a, f.b, f.c] (fun _ l => (BitVec.ofFnLE fun i =>
      if pos (l.getD 2 0) ≤ i.val ∧ i.val < pos (l.getD 2 0) + len (l.getD 2 0) then
        (l.getD 1 0).getLsbD (i.val - pos (l.getD 2 0)) else (l.getD 0 0)[i], 0))

/-- R134: `popc` counts the 1 bits; `clz` and `ctz` count the zeros above the highest and below the lowest 1 bit and
give 32 for 0; `brev` moves bit i to bit 31 - i. -/
def Claims.BitCounts : Prop :=
  ∀ f : Fields,
    Result1 (.popc f) f (fun a => BitVec.ofNat 32 ((List.range 32).map (fun i => (a.getLsbD i).toNat)).sum) ∧
    Result1 (.clz f) f (fun a => if a = 0 then 32 else BitVec.ofNat 32 (31 - Nat.log2 a.toNat)) ∧
    Result1 (.brev f) f (fun a => BitVec.ofFnLE fun i => a.getLsbD (31 - i.val)) ∧
    Result1 (.ctz f) f (fun a =>
      BitVec.ofNat 32 (((List.range 32).find? (fun i => a.getLsbD i)).getD 32))

/-- R135: byte k of `prmt` is the byte g of A and B that control k names, the same with its bits reversed, 0x00 or
0xFF. -/
def Claims.BytePermute : Prop :=
  ∀ f : Fields,
    WordResult (.prmt f) f [f.a, f.b, f.c] (fun _ l => (BitVec.ofFnLE fun i =>
      let c := (l.getD 2 0).toNat / 2 ^ (5 * (i.val / 8)) % 32
      let src (k : Nat) : Bool := if k < 32 then (l.getD 0 0).getLsbD k else (l.getD 1 0).getLsbD (k - 32)
      if c < 8 then src (8 * c + i.val % 8)
      else if c < 16 then src (8 * (c - 8) + (7 - i.val % 8))
      else decide (24 ≤ c), 0))

/-- R136 to R138: a comparison replaces one bit of D by the outcome, alone or combined with the old bit; `isel`
chooses by one bit of C; `mov` copies; `movi` writes IMM32, or half of it, keeping the other half of D. -/
def Obligations.CompareSelectMove : Prop :=
  ∀ f : Fields,
    let x := f.xmod.toNat
    WordResult (.icmp f) f [f.a, f.b, f.c, f.d] (fun _ l =>
      let a := l.getD 0 0
      let b := l.getD 1 0
      let p := ((l.getD 2 0).toNat + x / 64 % 32) % 32
      let lt (a b : Word) : Bool := if x / 8 % 2 = 1 then decide (a.toNat < b.toNat) else decide (a.toInt < b.toInt)
      let out : Bool := match x % 8 with
        | 0 => a == b
        | 1 => a != b
        | 2 => lt a b
        | 3 => !lt b a
        | 4 => lt b a
        | _ => !lt a b
      let old := (l.getD 3 0).getLsbD p
      let new : Bool := match x / 16 % 4 with
        | 0 => out
        | 1 => old && out
        | 2 => old || out
        | _ => old != out
      (BitVec.ofFnLE fun i => if i.val = p then new else (l.getD 3 0)[i], 0)) ∧
    WordResult (.isel f) f [f.a, f.b, f.c] (fun _ l =>
      (if (l.getD 2 0).getLsbD (x % 32) = (x / 32 % 2 == 0) then l.getD 0 0 else l.getD 1 0, 0)) ∧
    Result1 (.mov f) f id ∧
    (x % 4 = 0 → WordResult (.movi f) f [] (fun _ _ => (f.imm, 0))) ∧
    (x % 4 = 1 → WordResult (.movi f) f [f.d] (fun _ l =>
      (BitVec.ofNat 32 ((l.getD 0 0).toNat / 65536 * 65536 + f.imm.toNat % 65536), 0))) ∧
    (x % 4 = 2 → WordResult (.movi f) f [f.d] (fun _ l =>
      (BitVec.ofNat 32 (f.imm.toNat % 65536 * 65536 + (l.getD 0 0).toNat % 65536), 0)))

/-! ### Register pairs and groups (R123, R128, R139) -/

/-- R128, R139: `imadw` adds the exact product and the pair C; `lea` adds to the pair A the index B, sign-extended
or with `.u` zero-extended, shifted left by MOD bits 2:0.  Both write the pair D, low word first, with the taint of
all that they read. -/
def Claims.PairResults : Prop :=
  ∀ f : Fields,
    let u : Bool := f.xmod.toNat % 2 == 1
    let low (x : BitVec 64) (t : Nat) (taint : Bool) : LaneOut :=
      ⟨t, [(BitVec.ofNat 32 x.toNat, taint), (BitVec.ofNat 32 (x.toNat / 2 ^ 32), taint)], 0⟩
    LaneWrites (.imadw f) f.d 2 (fun _ sh t =>
      let a := sh.read f.imm t f.a
      let b := sh.read f.imm t f.b
      let p : BitVec 64 := if u then a.zeroExtend 64 * b.zeroExtend 64 else a.signExtend 64 * b.signExtend 64
      low (p + sh.readPair f.imm t f.c (!u)) t (sh.taintOf t f.a || sh.taintOf t f.b || sh.taintRun t f.c 2)) ∧
    LaneWrites (.lea f) f.d 2 (fun _ sh t =>
      let b := sh.read f.imm t f.b
      let x : BitVec 64 := if f.xmod.toNat / 8 % 2 = 1 then b.zeroExtend 64 else b.signExtend 64
      low (sh.readPair f.imm t f.a false + x * BitVec.ofNat 64 (2 ^ (f.xmod.toNat % 8))) t
        (sh.taintRun t f.a 2 || sh.taintOf t f.b))

/-- R123: `vspill` writes a format word and the nonzero registers of an aligned group of eight, zeros after them;
`vfill` expands such a group.  They complete where the group is aligned and the ranges are apart. -/
def Claims.SpillAndFill : Prop :=
  ∀ (f : Fields) s sid r,
    (Issues s (.vspill f) sid r → f.a.toNat % 8 = 0 →
      (f.d.toNat + 9 ≤ f.a.toNat ∨ f.a.toNat + 8 ≤ f.d.toNat) →
      Goes s (.vspill f) sid (s.writeLanes sid f.d 9 ((acts s (.vspill f) sid r).map fun t =>
        let g := (regRun f.a 8).map fun v => ((s.sheaf sid).read 0 t v, (s.sheaf sid).taintOf t v)
        let nz := g.filter fun p => p.1 ≠ 0
        let zeros := ((List.range 8).map fun k => if (g.getD k (0, false)).1 = 0 then 2 ^ k else 0).sum
        ⟨t, (BitVec.ofNat 32 (nz.length * 256 + zeros), g.any (·.2)) ::
          (nz ++ List.replicate (8 - nz.length) (0, false)), 0⟩))) ∧
    (Issues s (.vfill f) sid r → f.d.toNat % 8 = 0 →
      (f.d.toNat + 8 ≤ f.a.toNat ∨ f.a.toNat + 9 ≤ f.d.toNat) →
      Goes s (.vfill f) sid (s.writeLanes sid f.d 8 ((acts s (.vfill f) sid r).map fun t =>
        let z := ((s.sheaf sid).read 0 t f.a).toNat
        let data := (regRun (regAt f.a 1) 8).map fun v => ((s.sheaf sid).read 0 t v, (s.sheaf sid).taintOf t v)
        let rank (k : Nat) : Nat := ((List.range k).filter fun j => z / 2 ^ j % 2 = 0).length
        ⟨t, (List.range 8).map fun k => if z / 2 ^ k % 2 = 1 then (0, false) else data.getD (rank k) (0, false), 0⟩)))

/-- R123: what `vspill` writes of a group, `vfill` expands to the same eight words, for every group. -/
def Obligations.FillUndoesSpill : Prop :=
  ∀ g : List (Word × Bool), g.length = 8 →
    (fillVals (((spillVals g).headD (0, false)).1.toNat % 256) (spillVals g).tail).map (·.1) = g.map (·.1)

/-! ### Floating point (R140 to R157) -/

/-- R142 to R148: the F32 instructions complete in every lane with the value and the sticky bits of their rule,
flushing denormals where the kernel says FTZ; a comparison replaces one bit of D. -/
def Claims.FloatResults : Prop :=
  ∀ f : Fields,
    let rm := modeOf (f.xmod.toNat % 4)
    let sat : Bool := f.xmod.toNat / 4 % 2 == 1
    let o (l : List Word) (k : Nat) : Word := l.getD k 0
    WordResult (.fadd f) f [f.a, f.b] (fun z l => faddVal z rm sat (o l 0) (o l 1)) ∧
    WordResult (.fsub f) f [f.a, f.b] (fun z l => fsubVal z rm sat (o l 0) (o l 1)) ∧
    WordResult (.fmul f) f [f.a, f.b] (fun z l => fmulVal z rm sat (o l 0) (o l 1)) ∧
    WordResult (.ffma f) f [f.a, f.b, f.c] (fun z l => ffmaVal z rm sat (o l 0) (o l 1) (o l 2)) ∧
    WordResult (.fmin f) f [f.a, f.b] (fun z l => fminmaxVal z false (f.xmod.toNat % 2 == 1) (o l 0) (o l 1)) ∧
    WordResult (.fmax f) f [f.a, f.b] (fun z l => fminmaxVal z true (f.xmod.toNat % 2 == 1) (o l 0) (o l 1)) ∧
    WordResult (.fcmp f) f [f.a, f.b, f.c, f.d] (fun z l =>
      let p := ((o l 2).toNat + f.xmod.toNat / 64 % 32) % 32
      let res := (fcmpRes z f (o l 0) (o l 1)).1
      let old := (o l 3).getLsbD p
      let new : Bool := match f.xmod.toNat / 16 % 4 with
        | 0 => res
        | 1 => old && res
        | 2 => old || res
        | _ => old != res
      (BitVec.ofFnLE fun i => if i.val = p then new else (o l 3)[i], (fcmpRes z f (o l 0) (o l 1)).2)) ∧
    WordResult (.fsel f) f [f.a, f.b, f.c] (fun _ l =>
      (if fcond (f.xmod.toNat % 8) (f32.decode (o l 2).toNat) (.fin false 0 0) then o l 0 else o l 1, 0)) ∧
    WordResult (.frnd f) f [f.a] (fun z l => patWord (roundIntegral z rm sat (o l 0).toNat)) ∧
    WordResult (.fclass f) f [f.a] (fun _ l =>
      (BitVec.ofNat 32 (2 ^ (if f.xmod.toNat % 2 = 1 then classBit f16 ((o l 0).toNat % 65536)
        else classBit f32 (o l 0).toNat)), 0)) ∧
    Result2 (.fcpysgn f) f (fun a b => BitVec.ofFnLE fun i =>
      if i.val < 31 then a[i] else match f.xmod.toNat % 4 with
        | 0 => b.getLsbD 31
        | 1 => !b.getLsbD 31
        | _ => a.getLsbD 31 != b.getLsbD 31)

/-- R142, R143: the packed F16 instructions compute each half by itself and join the sticky bits of both. -/
def Claims.PackedHalfResults : Prop :=
  ∀ f : Fields,
    let rm := modeOf (f.xmod.toNat % 4)
    let sat : Bool := f.xmod.toNat / 4 % 2 == 1
    let nan : Bool := f.xmod.toNat % 2 == 1
    let o (l : List Word) (k : Nat) : Word := l.getD k 0
    let half (k : Nat) (w : Word) : Nat := w.toNat / 2 ^ (16 * k) % 2 ^ 16
    let src (z : Bool) (k : Nat) (w : Word) : FVal := f16.decode (f16.source z (half k w))
    let both (g : Nat → Nat × Word) : Word × Word :=
      (BitVec.ofNat 32 ((g 1).1 * 2 ^ 16 + (g 0).1), (g 0).2 ||| (g 1).2)
    WordResult (.hadd2 f) f [f.a, f.b] (fun z l => both fun k =>
      satIf f16 sat (addVal f16 z rm (src z k (o l 0)) (src z k (o l 1)))) ∧
    WordResult (.hmul2 f) f [f.a, f.b] (fun z l => both fun k =>
      satIf f16 sat (mulOp f16 z rm (src z k (o l 0)) (src z k (o l 1)))) ∧
    WordResult (.hfma2 f) f [f.a, f.b, f.c] (fun z l => both fun k =>
      satIf f16 sat (fmaOp f16 z rm (src z k (o l 0)) (src z k (o l 1)) (src z k (o l 2)))) ∧
    WordResult (.hmin2 f) f [f.a, f.b] (fun z l => both fun k =>
      minMax f16 false nan (f16.source z (half k (o l 0))) (f16.source z (half k (o l 1)))) ∧
    WordResult (.hmax2 f) f [f.a, f.b] (fun z l => both fun k =>
      minMax f16 true nan (f16.source z (half k (o l 0))) (f16.source z (half k (o l 1))))

/-- R34: both slots of a pair word read before either writes.  The word is unguarded, so it acts in the whole
group. -/
def Claims.PairWordReadsFirst : Prop :=
  ∀ (x y : Slot) s sid r, Issues s (.pairWord x y) sid r →
    let out (q : Slot) (t : Nat) : LaneOut :=
      let v := pairVal (s.wg (s.sheaf sid).wg).desc.ftz q.op ((s.sheaf sid).read 0 t q.a)
        ((s.sheaf sid).read 0 t q.b) ((s.sheaf sid).read 0 t q.d)
      ⟨t, [(v.1, q.reads.any ((s.sheaf sid).taintOf t))], v.2⟩
    Goes s (.pairWord x y) sid
      ((s.writeLanes sid x.d 1 ((groupOf r).map (out x))).writeLanes sid y.d 1 ((groupOf r).map (out y)))

/-- R153 to R157: conversions complete in every lane: `cvt` writes the converted value, `cvt.ef` also the residual,
`pack` one element of a packed vector, `unpack` one element widened, `qscale` a block scale.
It rests on what the model chose or read by inference in log entry 73. -/
def Obligations.ConversionResults : Prop :=
  ∀ f : Fields,
    let rm := modeOf (f.xmod.toNat % 4)
    let code := f.xmod.toNat / 4 % 16
    WordResult (.cvt f) f [f.a] (fun z l =>
      let v := readCode (z && !decide (3 ≤ code ∧ code ≤ 7)) (f.xmod.toNat / 64 % 16) (l.getD 0 0)
      ((convert z code rm v.1).1, (convert z code rm v.1).2 ||| v.2)) ∧
    WordResult (.qscale f) f [f.a] (fun z l => qscaleVal z code (f.xmod.toNat % 2 == 1) (l.getD 0 0)) ∧
    LaneWrites (.cvtEf f) f.d 2 (fun z sh t =>
      let r := cvtEfVals z code rm (sh.read f.imm t f.a)
      ⟨t, [(r.1, sh.taintOf t f.a), (r.2.1, sh.taintOf t f.a)], r.2.2⟩) ∧
    LaneWrites (.pack f) f.d (packRegs code) (fun z sh t =>
      let e := packElem z code rm (sh.read f.imm t f.a)
      let old := leNat (wordsBytes (sh.readRun f.imm t f.d (packRegs code)))
      let x := packInto code old ((sh.read f.imm t f.b).toNat % 32 % (packShape code).2) e.1
      ⟨t, (List.range (packRegs code)).map (fun k => (BitVec.ofNat 32 (x / 2 ^ (32 * k)),
        sh.taintOf t f.a || sh.taintOf t f.b || sh.taintRun t f.d (packRegs code))), e.2⟩) ∧
    LaneWrites (.unpack f) f.d 1 (fun z sh t =>
      let x := leNat (wordsBytes (sh.readRun f.imm t f.a (packRegs code)))
      let e := unpackElem z code x ((sh.read f.imm t f.b).toNat % 32 % (packShape code).2)
      ⟨t, [(e.1, sh.taintRun t f.a (packRegs code) || sh.taintOf t f.b)], e.2⟩)

/-! ### Cross-lane instructions (R106 to R113) -/

/-- A cross-lane instruction whose segments are no wider than the sheaf writes what `g` says of each active lane's
segment, and each active lane's exited mask. -/
def CrossLane (i : Instr) (f : Fields) (n : Nat → Nat) (g : Sheaf → Bool → Seg → Nat → LaneOut) : Prop :=
  ∀ s sid r, Issues s i sid r →
    let sh := s.sheaf sid
    let z := if f.xmod.toNat / 8 % 8 = 0 then sh.width else 2 ^ (f.xmod.toNat / 8 % 8)
    let seg (t : Nat) : Seg := (issueOf s i sid r).seg sh z t
    z ≤ sh.width →
    Goes s i sid ((s.writeLanes sid f.d (n z) ((acts s i sid r).map fun t =>
        g sh (s.wg sh.wg).desc.ftz (seg t) t)).modSheaf sid fun sh' =>
      each (acts s i sid r) (fun t sh' => sh'.modThread t fun th => { th with xmask := (seg t).mask }) sh')

/-- R106 to R113: the waiting cross-lane instructions complete for every segment the sheaf holds: `shfl` moves a
value, `vote` and `match` write their words, `ballot` and `match.mask` masks, `rdx` the reduction by halving,
`scan` the prefix of each thread. -/
def Claims.CrossLaneResults : Prop :=
  ∀ f : Fields,
    CrossLane (.shfl f) f (fun _ => 1) (shflLane f) ∧
    CrossLane (.vote f) f (fun _ => 1) (voteLane f) ∧
    CrossLane (.ballot f) f (fun n => if n = 64 then 2 else 1) (ballotLane f) ∧
    CrossLane (.matchV f) f (fun n => if f.xmod.toNat % 2 = 1 then (if n = 64 then 2 else 1) else 1) (matchLane f) ∧
    CrossLane (.rdx f) f (fun _ => 1) (rdxLane f) ∧
    CrossLane (.scan f) f (fun _ => 1) (scanLane f)

/-- R111: `shfl.idx` by a constant index reads the thread of that index in the segment, and a thread that has exited
supplies 0; so does `shfl.xor`, by the index combined with the thread's own. -/
def Claims.ShuffleReadsLane : Prop :=
  ∀ (f : Fields) (sh : Sheaf) (z : Bool) (g : Seg) (t : Nat), 0 < g.size →
    let b := (sh.read f.imm t f.b).toNat
    let from_ (j : Nat) : LaneOut := if j ∈ g.exited then ⟨t, [(0, false)], 0⟩
      else ⟨t, [(sh.read f.imm (g.base + j) f.a, sh.taintOf (g.base + j) f.a)], 0⟩
    (f.xmod.toNat / 2 % 4 = 0 → shflLane f sh z g t = from_ (b % g.size)) ∧
    (f.xmod.toNat / 2 % 4 = 3 → f.xmod.toNat % 2 = 0 → shflLane f sh z g t = from_ ((t - g.base) ^^^ (b % g.size)))

/-- R110: `elect` never waits: it writes in each active thread of a segment the election word without taint, which
holds
the count of the active threads in bits 23:16, the chosen one's index in bits 15:8, and in bit 0 a 1 in the chosen
thread
alone: the active thread of lowest index, or with `.hi` of highest. -/
def Claims.ElectChoosesOne : Prop :=
  (∀ (f : Fields) s sid r, Issues s (.elect f) sid r →
    let sh := s.sheaf sid
    let z := if f.xmod.toNat / 8 % 8 = 0 then sh.width else 2 ^ (f.xmod.toNat / 8 % 8)
    z ≤ sh.width →
    Goes s (.elect f) sid (s.writeLanes sid f.d 1 ((acts s (.elect f) sid r).map fun t =>
      ⟨t, [(electWord (f.xmod.toNat % 2 == 1) ((issueOf s (.elect f) sid r).seg sh z t).act (t - (t - t % z)), false)], 0⟩))) ∧
  (∀ (hi : Bool) (act : List Nat), act ≠ [] → act.Pairwise (· < ·) → (∀ i ∈ act, i < 64) →
    ∃ w ∈ act, (∀ i ∈ act, electWord hi act i =
        BitVec.ofNat 32 (act.length * 2 ^ 16 + w * 2 ^ 8 + if i = w then 1 else 0)) ∧
      (∀ i ∈ act, if hi then i ≤ w else w ≤ i))

/-! ### Instructions in flight (R23 to R29, R129, R149, R150) -/

/-- A special-function instruction enters flight where the core's unit is free, and occupies it for one core cycle
per 16
threads of its issue group; while the unit is busy it waits at issue. -/
def UnitLaunches (i : Instr) (f : Fields) (srcs : List (BitVec 8)) : Prop :=
  ∀ s sid r, Issues s i sid r →
    let busy := s.modCore (sid / 64) fun k => { k with sfu := s.time.core + ((groupOf r).length + 15) / 16 }
    ((s.core (sid / 64)).sfu ≤ s.time.core → Goes s i sid (busy.launch (issueOf s i sid r) i
      ((acts s i sid r).map ((s.sheaf sid).lane f.imm (acts s i sid r) srcs (regRun f.d 1))))) ∧
    (s.time.core < (s.core (sid / 64)).sfu → Waits s i sid s)

/-- R24, R25, R28, R129, R149: a division or a special function enters flight with its sources captured; its
destination is written later, at LONG_LATENCY_COMPLETION.  The one special-function unit of a core takes one
instruction
at a time. -/
def Claims.LongLatencyEntersFlight : Prop :=
  ∀ f : Fields,
    Launches (.idiv f) f [f.a, f.b] 1 ∧ Launches (.irem f) f [f.a, f.b] 1 ∧ UnitLaunches (.fdiv f) f [f.a, f.b] ∧
    UnitLaunches (.fsqrt f) f [f.a] ∧ UnitLaunches (.frcp f) f [f.a] ∧ UnitLaunches (.frsq f) f [f.a] ∧
    UnitLaunches (.fexp2 f) f [f.a] ∧ UnitLaunches (.flog2 f) f [f.a] ∧ UnitLaunches (.fsin f) f [f.a] ∧
    UnitLaunches (.fcos f) f [f.a] ∧ UnitLaunches (.ftanh f) f [f.a] ∧ UnitLaunches (.fsigm f) f [f.a] ∧
    UnitLaunches (.fgelu f) f [f.a] ∧ UnitLaunches (.fsilu f) f [f.a]

/-- What R25 leaves undetermined does not arise for the lanes of `op`: every source still holds what was captured,
and the destination what it held at issue; no matrix operation in flight holds it, and each lane's registers land
together. -/
def Undisturbed (s : State) (op : LongOp) (d : BitVec 8) (n : Nat) : Prop :=
  d.toNat + n ≤ 0xC0 ∧ (op.lanes.map (·.thread)).Nodup ∧ (∀ k < n, s.touches op.sid [d.toNat + k] = false) ∧
  ∀ ln ∈ op.lanes, ln.done = false ∧ ln.split = false ∧ ln.late = [] ∧ ln.thread < (s.sheaf op.sid).threads.length ∧
    d.toNat + n ≤ ((s.sheaf op.sid).thread ln.thread).v.length ∧
    (∀ p ∈ ln.srcs, p.1.toNat < 0xF0 → (s.sheaf op.sid).read 0 ln.thread p.1 = p.2) ∧
    ln.dsts = (regRun d n).map fun v => (v, (s.sheaf op.sid).read 0 ln.thread v)

/-- R24, R25, R129, R150: at LONG_LATENCY_COMPLETION every lane of a division or a special function has the value
of its rule in D, the operation is gone and its completion flag has counted down.
It rests on what the model chose or read by inference in log entry 63. -/
def Obligations.LongLatencyLands : Prop :=
  ∀ (s : State) (o : Nat) (op : LongOp) (opc : Nat) (form : Form) (f : Fields),
    s.ops.get o = some op → s.opAlive op = true → op.instr.isa? = some (opc, form, f) →
    (computeLong false op.instr []).isSome = true → Undisturbed s op f.d 1 →
    ∃ t, exec (.longLatencyCompletion o) s = .next t ∧ t.ops.get o = none ∧
      (∀ n, op.flag = some n →
        (t.sheaf op.sid).flags.getD n 0 = (s.sheaf op.sid).flags.getD n 0 - 1) ∧
      ∀ ln ∈ op.lanes, some ((t.sheaf op.sid).read 0 ln.thread f.d) =
        (computeLong (s.wg op.wg).desc.ftz op.instr (ln.srcs.map (·.2))).map (·.1)

/-- R129: quotient and remainder of `idiv` and `irem`, signed or unsigned; division by 0 and the quotient that does
not fit set DIV. -/
def Claims.DivisionResults : Prop :=
  ∀ (ftz : Bool) (f : Fields) (a b : Word),
    let u : Bool := f.xmod.toNat % 2 == 1
    computeLong ftz (.idiv f) [a, b] = some
      (if u then (if b = 0 then (0xFFFFFFFF, 32) else (BitVec.ofNat 32 (a.toNat / b.toNat), 0))
       else if b = 0 then (if 0 ≤ a.toInt then 0x7FFFFFFF else 0x80000000, 32)
       else if a = 0x80000000 ∧ b = 0xFFFFFFFF then (0x7FFFFFFF, 32)
       else (BitVec.ofInt 32 (a.toInt.tdiv b.toInt), 0)) ∧
    computeLong ftz (.irem f) [a, b] = some
      (if u then (if b = 0 then (a, 32) else (BitVec.ofNat 32 (a.toNat % b.toNat), 0))
       else if b = 0 then (a, 32)
       else if a = 0x80000000 ∧ b = 0xFFFFFFFF then (0, 32)
       else (BitVec.ofInt 32 (a.toInt.tmod b.toInt), 0))

/-! ### Scratchpad (R158 to R167) -/

/-- The address `a` of workgroup `w` is legal for an access of `size` bytes at a multiple of `al` and names the
allocation of `v`: the must-be-zero bits are 0 and the bytes lie inside the allocation, the own one or with bit 24 the
partner's (R160, R161). -/
def ReachesBy (s : State) (w : Nat) (a : Word) (size al v : Nat) : Prop :=
  a.toNat / 2 ^ 25 = 0 ∧ a.toNat / 2 ^ 19 % 2 ^ 5 = 0 ∧ a.toNat % al = 0 ∧
  (if a.toNat / 2 ^ 24 % 2 = 1 then (s.wg w).partner = some v else v = w) ∧
  a.toNat % 2 ^ 19 + size ≤ (s.wg v).size

/-- The same for an access at a multiple of its size. -/
def Reaches (s : State) (w : Nat) (a : Word) (size v : Nat) : Prop := ReachesBy s w a size size v

/-- The lanes of an access enter flight with their addresses, and the instruction takes its place behind the
accesses that its core has issued. -/
def ScratchIssues (i : Instr) (f : Fields) (size : Nat) (srcs : List (BitVec 8)) (n : Nat) : Prop :=
  ∀ s sid r (home : Nat → Nat), Issues s i sid r →
    let sh := s.sheaf sid
    let addr (t : Nat) : Word := sh.read f.imm t f.a + sh.read f.imm t f.b
    let lanes := (acts s i sid r).map fun t =>
      { sh.lane f.imm (acts s i sid r) srcs (regRun f.d n) t with
        va := BitVec.ofNat 64 ((addr t).toNat % 2 ^ 19), pa := BitVec.ofNat 64 (home t)
        addrs := [(f.a, sh.read f.imm t f.a), (f.b, sh.read f.imm t f.b)]
        ataint := sh.taintOf t f.a || sh.taintOf t f.b
        taint := (f.a :: f.b :: srcs).any (sh.taintOf t) }
    (∀ t ∈ acts s i sid r, Reaches s sh.wg (addr t) size (home t)) →
    Goes s i sid (if acts s i sid r = [] then s.launch (issueOf s i sid r) i [] else
      (s.launch (issueOf s i sid r) i lanes).modCore (sid / 64) fun k => { k with
        fifo := if lanes.any (fun l => l.pa.toNat == sh.wg) then k.fifo ++ [s.next] else k.fifo
        rfifo := if lanes.any (fun l => l.pa.toNat != sh.wg) then k.rfifo ++ [s.next] else k.rfifo })

/-- R163, R166, R167: a scratchpad load, store or atomic whose addresses are legal in every lane enters flight. -/
def Claims.ScratchAccessesIssue : Prop :=
  ∀ f : Fields,
    let n := f.xmod.toNat % 8
    ScratchIssues (.lds f) f (sizeBytes n) [] (sizeRegs n) ∧
    ScratchIssues (.sts f) f (sizeBytes n) (dataFields f.c (sizeRegs n)) 0 ∧
    ScratchIssues (.ats f) f 4 (if f.xmod.toNat % 16 = 9 then dataFields f.c 2 else [f.c]) 1

/-- The sub-code that an access of `size` bytes at the address `a` meets, 0 where it is legal: 1 for must-be-zero bits or
bytes beyond the allocation named, 2 for an address that is no multiple of the size, 3 for bit 24 in a team of one
(R160, R161). -/
def scratchSub (s : State) (w : Nat) (a : Word) (size : Nat) : Nat :=
  let far : Bool := a.toNat / 2 ^ 24 % 2 == 1
  let room : Option Nat := if far then (s.wg w).partner.map fun v => (s.wg v).size else some (s.wg w).size
  if a.toNat / 2 ^ 25 ≠ 0 ∨ a.toNat / 2 ^ 19 % 2 ^ 5 ≠ 0 ∨ (∃ n, room = some n ∧ n < a.toNat % 2 ^ 19 + size) then 1
  else if a.toNat % size ≠ 0 then 2
  else if room = none then 3
  else 0

/-- A scratchpad access with an address that is not legal in some active lane traps the whole group with CODE 0x03: the
lowest such lane gives sub-code and address, the mask lists every one. -/
def ScratchTraps (i : Instr) (f : Fields) (size : Nat) : Prop :=
  ∀ s sid r t rest, Issues s i sid r →
    let sh := s.sheaf sid
    let addr (t : Nat) : Word := sh.read f.imm t f.a + sh.read f.imm t f.b
    (acts s i sid r).filter (fun t => scratchSub s sh.wg (addr t) size ≠ 0) = t :: rest →
    Traps s i sid (s.fault sid (groupOf r) r.pc (some r.k) 3 (scratchSub s sh.wg (addr t) size) (t :: rest)
      (addr t).toNat)

/-- R161: a scratchpad load, store or atomic with an address outside its allocation, with a must-be-zero bit, no multiple
of its size, or at a partner that is not there, traps the whole group, and nothing is accessed. -/
def Claims.IllegalScratchTraps : Prop :=
  ∀ f : Fields,
    ScratchTraps (.lds f) f (sizeBytes (f.xmod.toNat % 8)) ∧
    ScratchTraps (.sts f) f (sizeBytes (f.xmod.toNat % 8)) ∧
    ScratchTraps (.ats f) f 4

/-- No acquire and no `ld.con` that an access of operation `o` has to wait for is in flight (R280, R285). -/
def Unbarred (s : State) (o : Nat) (op : LongOp) : Prop :=
  ∀ p ∈ s.ops, p.1 < o → p.2.sid = op.sid → p.2.gen = op.gen → acqScope p.2.instr = none ∧
    ∀ f, p.2.instr ≠ .ldCon f

/-- R163, R166, R167: SCRATCHPAD_ACCESS_APPLIED takes the oldest access of the core, where no acquire holds it
back; a
store's lanes write their bytes in ascending order, a load's lanes get theirs, an atomic reads and writes its word
lane
after lane.
It rests on what the model chose or read by inference in log entry 68. -/
def Obligations.ScratchAccessesApply : Prop :=
  ∀ (s : State) (core o : Nat) (rest : List Nat) (op : LongOp),
    (s.core core).fifo = o :: rest → s.ops.get o = some op → (s.wgs.get op.wg).isSome = true →
    Unbarred s o op → (∀ ln ∈ op.lanes, ln.pa.toNat = op.wg) →
    (∀ f, op.instr = .sts f → Undisturbed s op 0 0 →
      ∃ t, exec (.scratchpadAccessApplied core 0) s = .next t ∧ (t.core core).fifo = rest ∧ t.ops.get o = none ∧
        (t.wg op.wg).scratch = op.lanes.foldl (fun m ln =>
          Memory.writeN m ln.va.toNat (storeBytes (f.xmod.toNat % 8) (ln.srcs.map (·.2)))) (s.wg op.wg).scratch) ∧
    (∀ f, op.instr = .lds f → Undisturbed s op f.d (sizeRegs (f.xmod.toNat % 8)) → s.opAlive op = true →
      ∃ t, exec (.scratchpadAccessApplied core 0) s = .next t ∧ (t.core core).fifo = rest ∧ t.ops.get o = none ∧
        (t.wg op.wg).scratch = (s.wg op.wg).scratch ∧
        ∀ ln ∈ op.lanes, (t.sheaf op.sid).readRun 0 ln.thread f.d (sizeRegs (f.xmod.toNat % 8)) =
          loadVals (f.xmod.toNat % 8)
            ((s.wg op.wg).scratch.readN ln.va.toNat (sizeBytes (f.xmod.toNat % 8)))) ∧
    (∀ f, op.instr = .ats f → Undisturbed s op f.d 1 →
      ∃ t, exec (.scratchpadAccessApplied core 0) s = .next t ∧ (t.core core).fifo = rest ∧ t.ops.get o = none ∧
        (t.wg op.wg).scratch = op.lanes.foldl (fun m ln =>
          Memory.putNum m ln.va.toNat 4 (atsNew (f.xmod.toNat % 16) (BitVec.ofNat 32 (Memory.num m ln.va.toNat 4))
            (opd (ln.srcs.map (·.2)) 0) (opd (ln.srcs.map (·.2)) 1)).toNat) (s.wg op.wg).scratch)

/-! ### Tiles (R168 to R174) -/

/-- Every access that a core has issued to its own scratchpad, or with `partner` to its partner's, can be applied
before the
word that follows it (R163): none has to wait for an acquire. -/
def Settled (s : State) (core : Nat) (partner : Bool) : Prop :=
  (s.flushScratch core partner).scratchClear core partner = true

/-- R170, R172, R173: each tile instruction completes where its operands are legal and the tile's state lets it
issue: `tl.set` leaves the new descriptor in an empty tile, `tl.fill` of N bytes makes it filling with PEND N (ready
where N is 0), `tl.drain` draining with PEND N (empty where N is 0), `tl.dom` changes DOM alone, `tl.rel` empties the
tile. -/
def Claims.TileInstructionsComplete : Prop :=
  ∀ (f : Fields) s sid r,
    let q := s.flushScratch (sid / 64) false
    let n := f.xmod.toNat % 32
    let w := (s.sheaf sid).wg
    let g := q.wg w
    let t := g.tiles.getD n default
    let arg (i : Instr) (v : BitVec 8) : Word := (q.sheaf sid).read f.imm ((acts s i sid r).headD 0) v
    let cleared (t : Tile) : Tile := { t with state := .empty, pend := 0 }
    n < (s.wg w).tiles.length → Settled s (sid / 64) false →
    (Issues s (.tlSet f) sid r → acts s (.tlSet f) sid r ≠ [] → t.kind = 0 → t.uses = 0 →
      (t.state = .empty ∨ t.state = .ready) →
      ∀ t', tileOf t (arg (.tlSet f) f.a) (arg (.tlSet f) f.b) (arg (.tlSet f) f.c) (arg (.tlSet f) f.e) = some t' →
      t'.shapeOk g.size = true → t'.tagOk g.desc.thresh g.size = true →
      Goes s (.tlSet f) sid (q.modTileN w n fun _ => if t.state = .ready then
        { cleared t' with sat := false, ovr := false, poison := false } else t')) ∧
    (Issues s (.tlFill f) sid r → acts s (.tlFill f) sid r ≠ [] → t.kind = 0 → t.state = .empty →
      t.shapeOk g.size = true → (arg (.tlFill f) f.a).toNat ≤ t.sizeB →
      Goes s (.tlFill f) sid (q.modTileN w n fun t => if arg (.tlFill f) f.a = 0 then { t with state := .ready }
        else { t with state := .filling, pend := BitVec.ofNat 20 (arg (.tlFill f) f.a).toNat })) ∧
    (Issues s (.tlDrain f) sid r → acts s (.tlDrain f) sid r ≠ [] → t.kind = 0 → t.state = .ready → t.uses = 0 →
      t.shapeOk g.size = true → (arg (.tlDrain f) f.a).toNat ≤ t.sizeB →
      Goes s (.tlDrain f) sid (q.modTileN w n fun t => if arg (.tlDrain f) f.a = 0 then cleared t
        else { t with state := .draining, pend := BitVec.ofNat 20 (arg (.tlDrain f) f.a).toNat })) ∧
    (Issues s (.tlDom f) sid r → acts s (.tlDom f) sid r ≠ [] → t.kind = 0 →
      (t.state = .empty ∨ t.state = .ready) → (arg (.tlDom f) f.a).toNat < 2 ^ 16 →
      let t' := { t with dom := (arg (.tlDom f) f.a).extractLsb' 0 16 }
      t'.shapeOk g.size = true → t'.tagOk g.desc.thresh g.size = true → Goes s (.tlDom f) sid (q.modTileN w n fun _ => t')) ∧
    (Issues s (.tlRel f) sid r → acts s (.tlRel f) sid r ≠ [] → t.uses = 0 → (t.state = .empty ∨ t.state = .ready) →
      Goes s (.tlRel f) sid (q.modTileN w n fun u => { (if t.state = .ready then cleared u else u) with kind := 0 }))

/-- R174: `tl.stat` never waits: it writes STATE, KIND, SAT, OVR, POISON and PEND to D in every lane, and `.clr`
clears the sticky bits after the read. -/
def Claims.TileStatus : Prop :=
  ∀ (f : Fields) s sid r, Issues s (.tlStat f) sid r →
    let q := s.flushScratch (sid / 64) false
    let n := f.xmod.toNat % 32
    let w := (s.sheaf sid).wg
    let t := (q.wg w).tiles.getD n default
    n < (s.wg w).tiles.length →
    let st : Nat := match t.state with
      | .empty => 0
      | .filling => 1
      | .ready => 2
      | .draining => 3
    let x : Word := BitVec.ofNat 32 (st * 2 ^ 30 + t.kind.toNat * 2 ^ 28 + t.sat.toNat * 2 ^ 27 + t.ovr.toNat * 2 ^ 26 +
      t.poison.toNat * 2 ^ 25 + t.pend.toNat)
    let q' := q.writeLanes sid f.d 1 ((acts s (.tlStat f) sid r).map fun l => ⟨l, [(x, false)], 0⟩)
    Goes s (.tlStat f) sid (if f.xmod.toNat / 32 % 2 = 1 ∧ acts s (.tlStat f) sid r ≠ [] then
      q'.modTileN w n fun t => { t with sat := false, ovr := false, poison := false } else q')

/-- R170: bytes that an engine lands in a filling tile count PEND down, and the tile is ready when it reaches 0;
bytes
beyond PEND, or in a tile that is not filling, set OVR.  Bytes read of a draining tile count down likewise, and at
0 the
tile is empty. -/
def Claims.TileCounting : Prop :=
  ∀ (t : Tile) (b : Nat) (p : Bool),
    (t.state = .filling → b < t.pend.toNat →
      t.land b p = { t with poison := t.poison || p, pend := t.pend - BitVec.ofNat 20 b }) ∧
    (t.state = .filling → b = t.pend.toNat →
      t.land b p = { t with poison := t.poison || p, pend := 0, state := .ready }) ∧
    (t.state = .filling → t.pend.toNat < b →
      t.land b p = { t with poison := t.poison || p, pend := 0, state := .ready, ovr := true }) ∧
    (t.state ≠ .filling → t.land b p = { t with poison := t.poison || p, ovr := true }) ∧
    (t.state = .draining → b < t.pend.toNat → t.drained b = { t with pend := t.pend - BitVec.ofNat 20 b }) ∧
    (t.state = .draining → t.pend.toNat ≤ b → t.drained b = { t with state := .empty, pend := 0 })

/-- R171, R214: a word that has waited 2^20 core cycles for a tile while it was empty, or for operand tokens, traps
its group with CODE 0x04 or 0x05; the two events are these traps. -/
def Claims.WatchedWaitsTrap : Prop :=
  ∀ (s : State) (sid : Nat) (r : ClauseRun) (n k : Nat), (s.sheaf sid).run = some r → (s.sheaf sid).blocked = true →
    2 ^ 20 ≤ k →
    (r.since = some ⟨some n, k⟩ → exec (.tileWaitFault sid) s =
      .next (s.fault sid (groupOf r) r.pc (some r.k) 4 0 (groupOf r) 0)) ∧
    (r.since = some ⟨none, k⟩ → exec (.matrixSpanFault sid) s =
      .next (s.fault sid (groupOf r) r.pc (some r.k) 5 0 (groupOf r) 0))

/-! ### Join cells (R175 to R181) -/

/-- No acquire holds back an access that thread `t` of a sheaf makes at its issue, nor a `ld.con` where the address
carries
consume taint (R280, R285). -/
def FreeOf (s : State) (sid t : Nat) (taint : Bool) : Prop :=
  s.barred sid (s.sheaf sid).gen t taint s.next = false

/-- The state once the accesses that a core has issued before a word have been applied: to its own scratchpad where
the word
accesses that, and to its partner's where it accesses that (R163). -/
def Behind (s : State) (core : Nat) (own partner : Bool) : State :=
  let q := if own then s.flushScratch core false else s
  if partner then q.flushScratch core true else q

/-- All of those accesses can be applied. -/
def SettledBoth (s : State) (core : Nat) (own partner : Bool) : Prop :=
  (own = true → Settled s core false) ∧ (partner = true → Settled (Behind s core own false) core true)

/-- A join instruction whose cells are legal acts lane after lane in ascending order, each lane on the cell as the
lower ones left it (R178). -/
def Joins (i : Instr) (f : Fields) (legal : Nat → Prop) (g : Nat → Nat → Nat × Word) : Prop :=
  ∀ s sid r, Issues s i sid r →
    let sh := s.sheaf sid
    let l := acts s i sid r
    (∀ t ∈ l, legal (sh.read f.imm t f.b).toNat) →
    (∀ t ∈ l, ∃ v, Reaches s sh.wg (sh.read f.imm t f.a) 16 v) →
    (∀ t ∈ l, FreeOf s sid t (sh.taintOf t f.a)) →
    let own := l.any fun t => !(sh.read f.imm t f.a).getLsbD 24
    let far := l.any fun t => (sh.read f.imm t f.a).getLsbD 24
    SettledBoth s (sid / 64) own far →
    let q := Behind s (sid / 64) own far
    let x := l.foldl (fun (acc : List LaneOut × State) t =>
      let a := sh.read f.imm t f.a
      let v := if a.getLsbD 24 then ((acc.2.wg sh.wg).partner).getD sh.wg else sh.wg
      let y := g (sh.read f.imm t f.b).toNat ((acc.2.wg v).scratch.num (a.toNat % 2 ^ 19) 16)
      (acc.1 ++ [⟨t, [(y.2, sh.taintOf t f.a || sh.taintOf t f.b)], 0⟩],
       acc.2.modCell v (a.toNat % 2 ^ 19) fun _ => y.1)) ([], q)
    Goes s i sid (x.2.writeLanes sid f.d 1 x.1)

/-- R178, R179: the join instructions complete: `jc.init` for an EXPECT of 12 bits, `jc.arv` for the arrivals of B
(one without `.n`), `jc.exp` for a byte count below 2^23, `jc.test` for every phase. -/
def Claims.JoinInstructionsComplete : Prop :=
  ∀ f : Fields,
    let many : Bool := f.xmod.toNat / 2 % 2 == 1
    Joins (.jcInit f) f (fun e => e ≤ 4095) (fun e x => (e * 2 ^ 108 + x % 2 ^ 32, 0)) ∧
    Joins (.jcArv f) f (fun n => many → 1 ≤ n ∧ n ≤ 4095)
      (fun n x => jcArrive (f.xmod.toNat % 2 == 1) (if many then n else 1) x) ∧
    Joins (.jcExp f) f (fun b => b < 2 ^ 23) jcExpectBytes ∧
    Joins (.jcTest f) f (fun _ => True) (fun p x =>
      let done : Bool := jcPhase x != p % 256
      let y := if f.xmod.toNat % 2 = 1 ∧ done = true then jcObserve x else x
      (y, BitVec.ofNat 32 (done.toNat * 2 ^ 31 + jcArrived y * 256 + jcPhase x)))

/-- R176, R179: arrivals that do not end the phase raise ARRIVED (and REG with `.reg`) and leave PHASE; the arrivals
that reach EXPECT with PEND 0 end it: PHASE goes up by 1 modulo 256, ARRIVED is 0, OBS takes REG and REG is 0.
It rests on what the model chose or read by inference in log entry 67. -/
def Obligations.JoinPhases : Prop :=
  ∀ (x n : Nat) (reg : Bool), x < 2 ^ 128 → jcObs x = 0 → jcArrived x + n ≤ jcExpect x → jcReg x < 4095 →
    let y := (jcArrive reg n x).1
    (jcArrived x + n < jcExpect x ∨ jcPend x ≠ 0 →
      jcArrived y = jcArrived x + n ∧ jcPhase y = jcPhase x ∧ jcReg y = jcReg x + reg.toNat ∧ jcObs y = 0 ∧
        jcPend y = jcPend x) ∧
    (jcArrived x + n = jcExpect x → 1 ≤ jcExpect x → jcPend x = 0 →
      jcPhase y = (jcPhase x + 1) % 256 ∧ jcArrived y = 0 ∧ jcReg y = 0 ∧ jcObs y = jcReg x + reg.toNat ∧
        jcPend y = 0) ∧
    jcExpect y = jcExpect x

/-- R180, R181: `waitm` on scratchpad completes at issue where every address is legal: each lane evaluates its
condition, writes the value to D, and the lanes whose condition fails wait from the clause's end on. -/
def Claims.WaitmCompletes : Prop :=
  ∀ (f : Fields) s sid r, Issues s (.waitm f) sid r → f.xmod.toNat / 8 % 2 = 0 →
    (∀ t ∈ acts s (.waitm f) sid r, ∃ v, Reaches s (s.sheaf sid).wg
      (((s.sheaf sid).waitOf f (wordAddr r.pc (some r.k)) s.time.core t).addr.setWidth 32)
      (if f.xmod.toNat % 8 = 4 then 16 else 4) v) →
    (∀ t ∈ acts s (.waitm f) sid r, FreeOf s sid t ((s.sheaf sid).taintOf t f.a)) →
    let own := (acts s (.waitm f) sid r).any fun t => !((s.sheaf sid).read f.imm t f.a).getLsbD 24
    let far := (acts s (.waitm f) sid r).any fun t => ((s.sheaf sid).read f.imm t f.a).getLsbD 24
    SettledBoth s (sid / 64) own far →
    Goes s (.waitm f) sid ((Behind s (sid / 64) own far).doWaitm (issueOf s (.waitm f) sid r) f
      ((acts s (.waitm f) sid r).map fun t =>
        (t, (s.sheaf sid).waitOf f (wordAddr r.pc (some r.k)) s.time.core t)))

/-- R180, R181: a thread that waits on a scratchpad word becomes ready when the condition holds of the masked word, or
when its time-out has expired; D then holds the word.  Otherwise it waits on. -/
def Claims.WaitEvents : Prop :=
  ∀ (s : State) (sid t : Nat) (w : Wait),
    ((s.sheaf sid).thread t).st = .waiting w → w.global = false → w.cond.toNat < 4 → w.addr.toNat < 2 ^ 19 →
    (s.core (sid / 64)).fifo = [] → FreeOf s sid t w.ataint →
    let x : Word := BitVec.ofNat 32 ((s.wg (s.sheaf sid).wg).scratch.num w.addr.toNat 4)
    let a := x &&& w.mask
    let b := w.cmp &&& w.mask
    let holds : Prop := (w.cond = 0 → a = b) ∧ (w.cond = 1 → a ≠ b) ∧ (w.cond = 2 → a.toNat < b.toNat) ∧
      (w.cond = 3 → b.toNat ≤ a.toNat)
    let ready := s.modSheaf sid fun sh =>
      (sh.write w.d t x w.taint).modThread t fun th => { th with st := .ready }
    let still := s.modSheaf sid fun sh => sh.modThread t fun th => { th with st := .waiting { w with seen := x } }
    (holds → exec (.waitmReevaluation sid t) s = .next ready) ∧
    (¬ holds → exec (.waitmReevaluation sid t) s = .next still) ∧
    (∀ n, w.deadline = some n → n ≤ s.time.core → exec (.waitmTimeout sid t) s = .next ready)

/-! ### Copy engine, request engine, collectives, formats, prologue (R182 to R200) -/

/-- R184, R185, R187: `cpa` enters the copy engine with one lane copy for each active thread where its scratchpad
bytes and cells are legal, the tag counter is below 63 and fewer than 16 copies wait in the engine; the tag and the
tile's use count go up; where no lane acts nothing is copied and the tag stands as before.  `cpw` goes on once every selected tag counter is at most the limit, and waits until then. -/
def Claims.CopiesIssue : Prop :=
  ∀ (f : Fields) s sid r,
    let sh := s.sheaf sid
    let l := (acts s (.cpa f) sid r).map fun t => { sh.copyLane f t with bar := sh.copyBar f s.next t }
    let tag := f.xmod.toNat % 4
    let tile : Option Nat := if f.xmod.toNat / 16 % 2 = 1 then some (f.xmod.toNat / 32 % 32) else none
    (Issues s (.cpa f) sid r → (∀ n, tile = some n → n < (s.wg sh.wg).tiles.length) →
      (∀ x ∈ l, (∃ v, ReachesBy s sh.wg x.sp 32 16 v) ∧ ∀ c, x.cell = some c → ∃ v, Reaches s sh.wg c 16 v) →
      sh.tags.getD tag 0 ≠ 63 → s.queuedCopies (sid / 64) < 16 → acts s (.cpa f) sid r ≠ [] →
      let s1 := { s with next := s.next + 1 }
      let s2 := s1.modSheaf sid fun sh => { sh with tags := modAt sh.tags tag (· + 1) }
      let copy : Copy := Copy.mk sid sh.gen sh.wg sh.ctx (wordAddr r.pc (some r.k)) tag false
        (f.xmod.toNat / 4 % 2 == 1) tile l ((acts s (.cpa f) sid r).any fun t => (sh.thread t).priv) false
      let s3 := s2.modCore (sid / 64) fun k => { k with copies := k.copies.put s.next copy }
      Goes s (.cpa f) sid (match tile with
        | some n => s3.useTile sh.wg n (· + 1)
        | none => s3)) ∧
    (Issues s (.cpa f) sid r → (∀ n, tile = some n → n < (s.wg sh.wg).tiles.length) → acts s (.cpa f) sid r = [] →
      sh.tags.getD tag 0 ≠ 63 → s.queuedCopies (sid / 64) < 16 → Goes s (.cpa f) sid s) ∧
    (Issues s (.cpw f) sid r → acts s (.cpw f) sid r ≠ [] →
      let k := (sh.read f.imm ((acts s (.cpw f) sid r).headD 0) f.a).toNat
      ((∀ n < 4, f.xmod.toNat / 2 ^ n % 2 = 1 → sh.tags.getD n 0 ≤ k) → Goes s (.cpw f) sid s) ∧
      ((∃ n < 4, f.xmod.toNat / 2 ^ n % 2 = 1 ∧ k < sh.tags.getD n 0) → Waits s (.cpw f) sid s))

/-- R185: a lane of a copy that moves completes: its bytes have moved, then its join cell and its tile count 32
bytes; with the last
lane the copy leaves the engine. -/
def Claims.CopyLaneCompletes : Prop :=
  ∀ (s s1 : State) (core n t : Nat) (k : Copy) (l : CopyLane) (poison : Bool),
    (s.core core).copies.get n = some k → k.held = false → n ∈ s.movingCopies core → k.lanes.all (·.done) = false →
    k.lanes.find? (fun x => x.thread = t && !x.done) = some l → l.stuck = none → l.bar = 0 →
    s.copyBytes core k l = .ok (poison, s1) →
    let s2 := s1.copyPoison k poison
    let s3 := match l.cell with
      | some c => s2.countAt k.wg c 32
      | none => s2
    let s4 := match k.tile with
      | some n => s3.countTile k.wg n 32 (!k.s2g) poison
      | none => s3
    let k' := { k with lanes := k.lanes.map fun x => if x.thread = t then { x with done := true } else x }
    let s5 := s4.modCore core fun c => { c with copies := c.copies.put n k' }
    exec (.cpaLaneComplete core n t) s = .next (if k'.lanes.all (·.done) then s5.endCopy core n k' else s5)

/-- R185: the bytes of a copy's lane: into scratchpad the valid bytes and zeros up to 32, out of scratchpad the valid
bytes alone; with none valid global memory is not accessed. -/
def Claims.CopyMovesBytes : Prop :=
  ∀ (s : State) (core : Nat) (k : Copy) (l : CopyLane),
    let v := (s.scratchWg k.wg l.sp).getD k.wg
    let off := l.sp.toNat % 2 ^ 19
    (k.s2g = false → l.valid = 0 →
      s.copyBytes core k l = .ok (false, s.modScratch v fun m => m.writeN off (List.replicate 32 0))) ∧
    (k.s2g = true → l.valid = 0 → s.copyBytes core k l = .ok (false, s)) ∧
    (∀ bs po s', k.s2g = false → 0 < l.valid →
      s.devLoad k.ctx l.va.toNat l.valid k.priv (some core) = (.ok (bs, po), s') →
      s.copyBytes core k l = .ok (po, s'.modScratch ((s'.scratchWg k.wg l.sp).getD k.wg) fun m =>
        m.writeN off (bs ++ List.replicate (32 - l.valid) 0))) ∧
    (∀ s', k.s2g = true → 0 < l.valid →
      s.devStore k.ctx l.va.toNat ((s.wg v).scratch.readN off l.valid) k.priv (some core) = (.ok (), s') →
      s.copyBytes core k l = .ok (false, s'.dropPodLines core k.ctx l.va.toNat l.valid k.priv))

/-- A record of `n` bytes stands in the local allocation at a multiple of 32 (R192). -/
def RecordAt (s : State) (w : Nat) (a : Word) (n : Nat) : Prop :=
  a.toNat % 32 = 0 ∧ a.toNat < 2 ^ 19 ∧ a.toNat + n ≤ (s.wg w).size

/-- One side of a record lies in scratchpad as R190 to R192 ask: elements of `z` bytes at offsets `lo` to `hi` from
the
address `a`, which is a multiple of `al`. -/
def SideLegal (s : State) (w a z al : Nat) (lo hi : Int) : Prop :=
  ∃ v, Reaches s w (BitVec.ofNat 32 a) 1 v ∧ 0 ≤ ((a % 2 ^ 19 : Nat) : Int) + lo ∧
    ((a % 2 ^ 19 : Nat) : Int) + hi + z ≤ (s.wg v).size ∧ a % al = 0

/-- A join cell that a record counts (R192). -/
def CellLegal (s : State) (w : Nat) (valid : Bool) (jc : Nat) : Prop :=
  valid = true → ∃ v, Reaches s w (BitVec.ofNat 32 jc) 16 v ∧ jc % 16 = 0

/-- A tensor record is legal (R189 to R192): its codes are defined, its must-be-zero fields 0, its conversions
those of
its element sizes, its strides and addresses aligned, its scratchpad sides inside their allocation, its tile and
cell there. -/
def TensorLegal (s : State) (w : Nat) (r : TRec) : Prop :=
  (r.op ≤ 4 ∧ r.ndim ≤ 11 ∧ r.sspace ≤ 1 ∧ r.dspace ≤ 1 ∧ r.esize ≤ 4 ∧ r.mbz = 0 ∧ r.delivered < 2 ^ 32) ∧
  (∀ d ∈ r.dims, d.1 ≠ 0 ∧ d.2.2.2 = 0 ∧ d.2.1 % (r.ssz : Int) = 0 ∧ d.2.2.1 % (r.dsz : Int) = 0) ∧
  (r.op = 1 → r.esize = 0) ∧ (r.op = 2 ∨ r.op = 3 → r.esize = 2) ∧ (r.op = 4 → r.esize = 1) ∧ (r.op ≠ 1 → r.convas = 0) ∧
  (r.tlv = true → r.tile < (s.wg w).tiles.length ∧ (r.sspace = 1 ∨ r.dspace = 1) ∧
    (r.op = 1 → r.convas ≠ 3 → (s.tile w r.tile).fmt.toNat = if r.convas = 0 then 1 else if r.convas = 1 then 2 else 10)) ∧
  (if r.sspace = 1 then r.src < 2 ^ 32 ∧ SideLegal s w r.src r.ssz r.ssz (r.reach (·.1)).1 (r.reach (·.1)).2
    else r.src % r.ssz = 0) ∧
  (if r.dspace = 1 then r.dst < 2 ^ 32 ∧ SideLegal s w r.dst r.dsz r.dsz (r.reach (·.2)).1 (r.reach (·.2)).2
    else r.dst % r.dsz = 0) ∧
  CellLegal s w r.jcv r.jc

/-- A collective record is legal (R194): BUF, CNT, N and EXPECT as its kind asks, VEC and RES inside the allocation at
multiples of 16, its tile and cell there. -/
def CollectiveLegal (red : Bool) (z : Nat) (s : State) (w : Nat) (r : CRec) : Prop :=
  r.buf ≠ 0 ∧ r.buf % 16 = 0 ∧ r.cnt % 4 = 0 ∧ 1 ≤ r.n ∧ r.n ≤ 65536 ∧ r.mbz = 0 ∧
  (red = true → r.expect = 0) ∧ (red = false → r.expect ≠ 0 ∧ r.res = 0) ∧
  (r.tlv = true → r.tile < (s.wg w).tiles.length) ∧
  SideLegal s w r.vec 1 16 0 ((r.n * z : Nat) - 1 : Int) ∧
  (red = true → SideLegal s w r.res 1 16 0 ((16 + 4 * r.n : Nat) - 1 : Int)) ∧ CellLegal s w r.jcv r.jc

/-- A legal record is accepted where the engine's queue of eight has room. -/
def Accepts (i : Instr) (f : Fields) (len : List Byte → Nat) (legal : State → Nat → List Byte → Prop) (kind : ReqKind)
    (tile : List Byte → Option Nat) : Prop :=
  ∀ s sid r, Issues s i sid r → acts s i sid r ≠ [] → Settled s (sid / 64) false →
    (∀ t ∈ acts s i sid r, FreeOf s sid t ((s.sheaf sid).taintOf t f.a)) →
    let q := s.flushScratch (sid / 64) false
    let w := (s.sheaf sid).wg
    let a := (s.sheaf sid).read f.imm ((acts s i sid r).headD 0) f.a
    let n := len ((q.wg w).scratch.readN a.toNat 32)
    let bs := (q.wg w).scratch.readN a.toNat n
    RecordAt s w a 32 → RecordAt q w a n → legal q w bs → (s.core (sid / 64)).reqs.length < 8 →
    Goes s i sid (q.acceptReq (issueOf s i sid r) a n kind (tile bs))

/-- R192, R194 to R196: `req.kick`, `coll.red` and `coll.bcast` read the record at the lowest active thread's address
and, where it is legal and the engine's queue has room, hand it to the request engine. -/
def Claims.RecordsAccepted : Prop :=
  ∀ f : Fields,
    let fmt := f.xmod.toNat % 16
    let ctile (bs : List Byte) : Option Nat := if (crecOf bs).tlv then some (crecOf bs).tile else none
    Accepts (.reqKick f) f (fun h => 48 + 16 * min (leNat h / 2 ^ 88 % 16) 11)
      (fun s w bs => TensorLegal s w (recOf bs)) .tensor
      (fun bs => if (recOf bs).tlv then some (recOf bs).tile else none) ∧
    Accepts (.collRed f) f (fun _ => 64) (fun s w bs => CollectiveLegal true 4 s w (crecOf bs)) (.red fmt) ctile ∧
    Accepts (.collBcast f) f (fun _ => 64)
      (fun s w bs => CollectiveLegal false (if fmt = 1 ∨ fmt = 2 then 2 else 4) s w (crecOf bs)) (.bcast fmt) ctile

/-- R192: accepting a record makes its STATUS word 0, puts it last in the engine's queue, notes its address and counts
the tile's use. -/
def Claims.AcceptanceEffects : Prop :=
  ∀ (s : State) (is : Issue) (a : Word) (n : Nat) (kind : ReqKind),
    let w := (s.sheaf is.sid).wg
    let t := s.acceptReq is a n kind none
    (s.wgs.get w).isSome = true →
    (t.wg w).scratch = (s.wg w).scratch.writeN (a.toNat % 2 ^ 19) [0, 0, 0, 0] ∧
    (t.core (coreOf is.sid)).kick = a ∧ t.next = s.next + 1 ∧
    (∃ q, (t.core (coreOf is.sid)).reqs.get s.next = some q ∧ q.kind = kind ∧ q.addr = a ∧ q.held = false ∧
      q.bytes = (s.wg w).scratch.readN (a.toNat % 2 ^ 19) n) ∧
    t.mem = s.mem ∧ t.sheaves = s.sheaves ∧
    ∀ k, s.acceptReq is a n kind (some k) = t.modTileN w k fun x => { x with uses := x.uses + 1 }

/-- A record of a core's request engine runs: it is among the first four that no halt holds, it is not held itself,
and no
page of it waits for a replay. -/
def Runs (s : State) (core n : Nat) (q : Req) : Prop :=
  (s.core core).reqs.get n = some q ∧ q.held = false ∧ q.stuck = none ∧
    n ∈ (((s.core core).reqs.filter fun r => !s.onHold r.2.ctx r.2.held).take 4).map (·.1)

/-- A record has ended: it is out of its engine, and its STATUS word has DONE with the poison and the overflow met. -/
def Ended (t : State) (core n : Nat) (q : Req) (poison ovf : Bool) : Prop :=
  (t.core core).reqs.get n = none ∧
    (t.wg q.wg).scratch.readN (q.addr.toNat % 2 ^ 19) 4 =
      natBytes 4 (2 ^ 31 + poison.toNat * 2 ^ 30 + ovf.toNat * 2 ^ 29)

/-- R190, R191, R193: REQUEST_RECORD_COMPLETE finishes a running record where every access of it succeeds.  A
record from
scratchpad to scratchpad always ends: its elements move one after another, converted, and STATUS follows. -/
def Claims.TensorCompletes : Prop :=
  ∀ (s : State) (core n : Nat) (q : Req), Runs s core n q → q.kind = .tensor → (s.wgs.get q.wg).isSome = true →
    let r := recOf q.bytes
    (r.sspace = 1 → r.dspace = 1 → r.jcv = false → r.tlv = false → q.pos = 0 → r.src / 2 ^ 24 = 0 → r.dst / 2 ^ 24 = 0 →
      ∃ t ovf, exec (.requestRecordComplete core n) s = .next t ∧ Ended t core n q q.poison ovf ∧ t.mem = s.mem ∧
        (t.wg q.wg).scratch = Memory.writeN ((TRec.elems r.dims).foldl (fun m p =>
            Memory.writeN m (((r.dst % 2 ^ 19 : Nat) : Int) + p.2).toNat (convElem r.op q.bank
              (Memory.readN m (((r.src % 2 ^ 19 : Nat) : Int) + p.1).toNat r.ssz)).1) (s.wg q.wg).scratch)
          (q.addr.toNat % 2 ^ 19) (natBytes 4 (2 ^ 31 + q.poison.toNat * 2 ^ 30 + ovf.toNat * 2 ^ 29))) ∧
    (∀ m, moveAll (moveElem q.wg (q.engine core) q.ctx q.priv q.bank r) ((TRec.elems r.dims).drop q.pos)
        ⟨s, q.pos, q.poison, q.ovf⟩ = (m, none) →
      ∃ t, exec (.requestRecordComplete core n) s = .next t ∧ (t.core core).reqs.get n = none ∧ t.mem = m.s.mem)

/-- R195: COLLECTIVE_RED_COMPLETE finishes a running contribution where its elements and its arrival succeed: an
element with
its residual is rounded to the format and added to BUF, the new residual stands in RES, the arrival is one more in
CNT, and
TAG holds BUF.  R196: COLLECTIVE_BCAST_READY changes nothing while CNT is below EXPECT; once CNT
reaches it the N words of BUF stand converted in VEC, and the record ends. -/
def Claims.CollectivesComplete : Prop :=
  ∀ (s : State) (core n fmt : Nat) (q : Req), Runs s core n q → (s.wgs.get q.wg).isSome = true →
    let r := crecOf q.bytes
    let cell : Option Nat := if r.jcv then some r.jc else none
    let tile : Option Nat := if r.tlv then some r.tile else none
    let carry : Bool := q.carry.getD (leNat (s.spRead q.wg (BitVec.ofNat 32 r.res) 0 8) == r.buf)
    let num (l : List Byte × Bool × State) : Nat := leNat l.1
    (q.kind = .red fmt → ∀ m l s2,
      moveAll (redElem core fmt q r carry)
        ((List.range r.n).drop q.pos) ⟨s, q.pos, q.poison, q.ovf⟩ = (m, none) →
      m.s.engineLoad (q.engine core) q.ctx r.cnt 4 q.priv = .ok l →
      l.2.2.engineStore (q.engine core) q.ctx r.cnt (natBytes 4 (num l + 1)) q.priv = .ok s2 →
      ∃ t, exec (.collectiveRedComplete core n) s = .next t ∧ (t.core core).reqs.get n = none ∧ t.mem = s2.mem ∧
        t = (s2.spWrite q.wg (BitVec.ofNat 32 r.res) 0 (natBytes 8 r.buf ++ List.replicate 8 0)).endReq core n q cell tile
          (4 * r.n) (some false) m.poison m.ovf) ∧
    (q.kind = .red fmt → r.n = q.pos + 1 → ∀ l1 sB l sC,
      let old := if carry then f32.decode (leNat (s.spRead q.wg (BitVec.ofNat 32 r.res) (16 + 4 * q.pos) 4)) else .fin false 0 0
      let x := addExact (f32.decode (leNat (s.spRead q.wg (BitVec.ofNat 32 r.vec) (4 * q.pos) 4))) old
      let v := toFloat false fmt .rne (.flt x)
      let nv := (fmtOf fmt).decode v.1
      let sA := s.spWrite q.wg (BitVec.ofNat 32 r.res) (16 + 4 * q.pos) (natBytes 4 (residualOf x nv).toNat)
      sA.engineLoad (q.engine core) q.ctx (r.buf + 4 * q.pos) 4 q.priv = .ok l1 →
      l1.2.2.engineStore (q.engine core) q.ctx (r.buf + 4 * q.pos)
        (natBytes 4 (addVal f32 false .rne (f32.decode (leNat l1.1)) nv).1) q.priv = .ok sB →
      sB.engineLoad (q.engine core) q.ctx r.cnt 4 q.priv = .ok l →
      l.2.2.engineStore (q.engine core) q.ctx r.cnt (natBytes 4 (num l + 1)) q.priv = .ok sC →
      ∃ t ovf, exec (.collectiveRedComplete core n) s = .next t ∧ (t.core core).reqs.get n = none ∧ t.mem = sC.mem ∧
        t = (sC.spWrite q.wg (BitVec.ofNat 32 r.res) 0 (natBytes 8 r.buf ++ List.replicate 8 0)).endReq core n q cell tile
          (4 * r.n) (some false) (q.poison || l1.2.1) ovf) ∧
    (q.kind = .bcast fmt → ∀ l, s.engineLoad (q.engine core) q.ctx r.cnt 4 q.priv = .ok l → num l < r.expect →
      exec (.collectiveBcastReady core n) s = .next s) ∧
    (q.kind = .bcast fmt → ∀ l l2,
      s.engineLoad (q.engine core) q.ctx r.cnt 4 q.priv = .ok l → r.expect ≤ num l →
      l.2.2.engineLoad (q.engine core) q.ctx r.buf (4 * r.n) q.priv = .ok l2 →
      let out := (List.range r.n).map fun i => bcastElem fmt ((l2.1.drop (4 * i)).take 4)
      ∃ t, exec (.collectiveBcastReady core n) s = .next t ∧ (t.core core).reqs.get n = none ∧
        t = (l2.2.2.spWrite q.wg (BitVec.ofNat 32 r.vec) 0 (out.flatMap (·.1))).endReq core n q cell tile
          (r.n * vecBytes (.bcast fmt)) (some true) l2.2.1 (out.any (·.2)))

/-- R193: a record's end counts its join cell and its tile, writes STATUS with DONE and the poison and overflow
met, and
removes it from the engine. -/
def Claims.RecordEnd : Prop :=
  ∀ (s : State) (core n b : Nat) (q : Req) (poison ovf : Bool),
    s.endReq core n q none none b none poison ovf =
      ((s.modScratch q.wg fun m => m.writeN (q.addr.toNat % 2 ^ 19)
        (natBytes 4 (2 ^ 31 + poison.toNat * 2 ^ 30 + ovf.toNat * 2 ^ 29))).modCore core fun c =>
          { c with reqs := c.reqs.del n }) ∧
    (∀ a k l, s.endReq core n q (some a) k b l poison ovf =
      (s.countAt q.wg (BitVec.ofNat 32 a) b).endReq core n q none k b l poison ovf) ∧
    ∀ k l, s.endReq core n q none (some k) b (some l) poison ovf =
      ((s.modTileN q.wg k fun t => if l then t.land b poison else t.drained b).modTileN q.wg k fun t =>
        { t with uses := t.uses - 1 }).endReq core n q none none b none poison ovf

/-- R85, R197: `fmt.load` replaces the bank of the context on the core by the 512 bytes at a legal address: code c
stands
for the 16-bit word c of them. -/
def Claims.FormatLoad : Prop :=
  (∀ (f : Fields) s sid r, Issues s (.fmtLoad f) sid r → acts s (.fmtLoad f) sid r ≠ [] →
    let q := s.flushScratch (sid / 64) false
    let a := (s.sheaf sid).read f.imm ((acts s (.fmtLoad f) sid r).headD 0) f.a
    let w := (s.sheaf sid).wg
    a.toNat % 16 = 0 → a.toNat < 2 ^ 19 → a.toNat + 512 ≤ (s.wg w).size → Settled s (sid / 64) false →
    (∀ t ∈ acts s (.fmtLoad f) sid r, FreeOf s sid t ((s.sheaf sid).taintOf t f.a)) →
    Goes s (.fmtLoad f) sid (q.modCore (sid / 64) fun k =>
      { k with fmt := k.fmt.put (s.sheaf sid).ctx (bankOf ((q.wg w).scratch.readN a.toNat 512)) })) ∧
  ∀ (bs : List Byte) (c : Nat), c < 256 → bs.length = 512 →
    (((bankOf bs).get c).getD (BitVec.ofNat 16 c)).toNat =
      (bs.getD (2 * c) 0).toNat + 256 * (bs.getD (2 * c + 1) 0).toNat

/-- R200: the prologue engine runs the next binding of an admitted workgroup to its end where every access of it
succeeds; a
binding that sets its tile makes it filling first and counts the bytes when they have landed.  With no binding left
the
prologue is complete. -/
def Claims.PrologueRuns : Prop :=
  ∀ (s : State) (w n : Nat) (b : Binding),
    let g := s.wg w
    let r0 := recOf b.record
    let r := { r0 with src := (((r0.src : Int) + g.tx * b.xstep + g.ty * b.ystep) % 2 ^ 64).toNat }
    let bank := g.bindBank.getD (((s.core g.core).fmt.get g.ctx).getD [])
    let s1 := if b.tset ∧ g.bindPos = 0 then s.modTileN w b.tile (b.setTile r.delivered) else s
    (∀ m, s.nextBinding w = some (n, b) →
      moveAll (moveElem w ⟨g.core, 3, 0⟩ g.ctx false bank r)
        ((TRec.elems r.dims).drop g.bindPos) ⟨s1, g.bindPos, g.bindPoison, false⟩ = (m, none) →
      exec (.prologueRun w) s = .next ((if b.tset then m.s.countTile w b.tile r.delivered true m.poison else m.s).modWg w
        fun g => { g with
          bindings := g.bindings.tail, heldBinding := false, bindPos := 0, bindPoison := false, bindBank := none, bindStuck := none })) ∧
    (∀ p bs po s2, s.nextBinding w = some (n, b) → (TRec.elems r.dims).drop g.bindPos = [p] → r.sspace = 0 → r.dspace = 1 →
      r.dst / 2 ^ 24 = 0 →
      s1.engineLoad ⟨g.core, 3, 0⟩ g.ctx (((r.src : Int) + p.1) % 2 ^ 64).toNat r.ssz false = .ok (bs, po, s2) →
      ∃ t, exec (.prologueRun w) s = .next t ∧ t.mem = s2.mem ∧ ((s2.wgs.get w).isSome = true →
        (t.wg w).bindings = g.bindings.tail ∧
        (t.wg w).scratch = Memory.writeN (s2.wg w).scratch (((r.dst % 2 ^ 19 : Nat) : Int) + p.2).toNat
          (convElem r.op bank bs).1)) ∧
    (s.nextBinding w = some (n, b) → (TRec.elems r.dims).length ≤ g.bindPos →
      ∃ t, exec (.prologueRun w) s = .next t ∧ (t.wg w).bindings = g.bindings.tail ∧ t.mem = s.mem) ∧
    ((s.wg w).stage = .prologue → (s.wg w).bindings = [] →
      exec (.prologueComplete w) s = .next (s.modWg w fun g => { g with stage := .primed }))

/-! ### Matrix instructions (R201 to R218) -/

/-- A range of `n` bytes at `off` of a die's weight store may be read or filled: it ends within the store, `off` is a
multiple of `al`, and the lowest region in use that holds it is in state `want` (R230). -/
def InRegion (d : ComputeDie) (off n al i : Nat) (want : BitVec 2) : Prop :=
  off + n ≤ 2 ^ 30 ∧ off % al = 0 ∧ i < 64 ∧ (d.region i).state = want ∧ want ≠ 0 ∧
  (d.region i).range.1 ≤ off ∧ off + n ≤ (d.region i).range.1 + (d.region i).range.2 ∧
  ∀ j < i, ¬ ((d.region j).state ≠ 0 ∧ (d.region j).range.1 ≤ off ∧
    off + n ≤ (d.region j).range.1 + (d.region j).range.2)

/-- A permitted pairing of formats (R212): the kinds are 0 `mma`, 1 `mmat`, 2 `mmas`. -/
def Permitted (kind a b : Nat) (acci : Bool) : Prop :=
  (acci = true → 10 ≤ a ∧ a ≤ 16) ∧
  if kind = 0 then
    (a = 0 ∧ b = 0) ∨ (a ∈ [1, 2] ∧ b ∈ [1, 2]) ∨ (a ∈ [3, 4] ∧ b ∈ [3, 4]) ∨ (a ∈ [5, 6, 7] ∧ b ∈ [5, 6, 7]) ∨
    (a = 10 ∧ b = 10) ∨ (a ∈ [11, 12] ∧ b ∈ [11, 12]) ∨ (a ∈ [13, 14] ∧ b ∈ [13, 14])
  else if kind = 1 then a ∈ [15, 16] ∧ b = 11
  else (a ∈ [17, 18] ∧ b ∈ [17, 18]) ∨ (a ∈ [19, 20, 21] ∧ b ∈ [19, 20, 21])

/-- The fields of a matrix instruction keep R73 and R211 to R216: its pairing, span and selectors are legal, the
tiles that it
names are there, its fragments and scales lie in the sheaf's registers, its spanned sheaves in the workgroup. -/
def MatLegal (m : MatFields) (f : Fields) (sh : Sheaf) (g : Workgroup) : Prop :=
  let frag (v : BitVec 8) (n : Nat) : Prop := v.toNat < 0xC0 ∧ v.toNat + n ≤ sh.regs
  Permitted m.kind m.afmt m.bfmt m.acci ∧ m.span < 3 ∧ f.d.toNat < g.acc.length ∧
  (m.kind ≠ 2 → m.sela = 0 ∧ m.selb = 0) ∧ (m.asrc ≠ 2 → m.stride = 0) ∧
  (m.span ≠ 0 → m.asrc = 0 ∨ m.btile = false) ∧
  (m.asrc = 0 ∨ m.btile = false → 64 / 2 ^ m.span % sh.width = 0 ∧ sh.idx + 2 ^ m.span ≤ g.desc.sheaves) ∧
  (m.asrc = 0 → frag f.a (64 / 2 ^ m.span / sh.width * (m.rowA / 4))) ∧ (m.asrc = 1 → f.a.toNat < g.tiles.length) ∧
  (m.btile = false → frag f.b (64 / 2 ^ m.span / sh.width * (m.rowB / 4))) ∧ (m.btile = true → f.b.toNat < g.tiles.length) ∧
  (m.kind = 2 → frag f.c (64 / sh.width * (m.k / 32)) ∧ frag f.e (64 / sh.width * (m.k / 32)))

/-- A tile may be an operand of format `fmt` (R215): it is ready, of 64 rows of K elements of that format. -/
def OperandTile (t : Tile) (fmt k : Nat) : Prop :=
  t.state = .ready ∧ t.nrows = 64 ∧ t.ncols = k ∧ t.fmt.toNat = fmt

/-- A matrix instruction in which no guard holds only counts its flag.  Otherwise it is accepted: its fields are
legal, its
operand tiles are ready and fit, its sheaves' tokens are there, its engine and its accumulator tile have room; a
Haar tile
that the operation cannot use as it stands is not among its operands.  A read-modify accumulator whose tag must
first be
forced is forced.  The operation stands last in its engine's queue. -/
def MatrixAccepted (i : Instr) (kind : Nat) (f : Fields) : Prop :=
  ∀ s sid r, Issues s i sid r →
    let m := matFields kind f
    let sh := s.sheaf sid
    let w := sh.wg
    let d := f.d.toNat
    let is := issueOf s i sid r
    let off := if m.asrc = 2 then (sh.read f.imm is.lead f.a).toNat else 0
    let gb : BitVec 16 := if m.btile then (s.tile w f.b.toNat).dom else 0
    let gs := (s.acc w d).dom
    let coeff : Bool := tagAxis gb == 2 && tagInt gb == m.acci
    let tag : BitVec 16 := if coeff then coefTag gb else 0
    let eng := if m.afmt = 15 ∨ m.afmt = 16 then 1 else 0
    let taken (q : State) : Prop := ∃ t, is.acceptMat q i m f tag off = .done t ∧ Goes s i sid t ∧
      ∃ x, ((t.pod (sid / 128)).queue eng).getLast? = some x ∧ x.op = q.next ∧ x.sid = sid ∧ x.wg = w ∧ x.acc = d ∧
        x.groups = 0 ∧ x.z = m.z ∧ x.tag = tag
    (acts s i sid r = [] → Goes s i sid (s.launch is i [])) ∧
    (acts s i sid r ≠ [] → MatLegal m f sh (s.wg w) →
      (m.asrc = 2 → ∀ t ∈ acts s i sid r, FreeOf s sid t (t == is.lead && sh.taintOf t f.a)) →
      (m.asrc = 2 → ∃ k, InRegion (s.die (sid / 64 / 32)) off
        (63 * (if m.stride = 0 then m.rowA else 16 * m.stride) + m.rowA) 16 k 2) →
      (m.asrc = 1 → OperandTile (s.tile w f.a.toNat) m.afmt m.k ∧ tagAxis (s.tile w f.a.toNat).dom = 0) →
      (m.btile = true → OperandTile (s.tile w f.b.toNat) m.bfmt m.k) →
      (tagAxis gb = 0 ∨ (coeff = true ∧ (m.z = true ∨ gs = tag))) →
      (∀ k < 2 ^ m.span, let q := (s.wg w).slots.getD (sh.idx + k) 0
        q = sid ∨ (s.sheaf q).token = true) →
      ((s.pod (sid / 128)).queue eng).length < 4 →
      (m.z = true ∨ tag ≠ 0 ∨ tagAxis gs = 0 → (s.acc w d).order.length < 7 → taken s) ∧
      (m.z = false → tag = 0 → tagAxis gs ≠ 0 → (s.core (sid / 64)).jobs.length < 4 → (s.acc w d).order.length < 6 →
        taken (s.accJob sid w d .forced gs 0)))

/-- R209 to R217: `mma`, `mmat` and `mmas` are accepted by their engine; acceptance is their issue. -/
def Claims.MatrixInstructionsAccepted : Prop :=
  ∀ f : Fields, MatrixAccepted (.mma f) 0 f ∧ MatrixAccepted (.mmat f) 1 f ∧ MatrixAccepted (.mmas f) 2 f

/-- R214: `mop.rdy` puts the sheaf's operand token; `mop.rdy.w` goes on once the token has been consumed and the
operands
read. -/
def Claims.OperandTokens : Prop :=
  ∀ (f : Fields) s sid r, Issues s (.mopRdy f) sid r → acts s (.mopRdy f) sid r ≠ [] → (s.sheaf sid).token = false →
    (f.xmod.toNat % 2 = 0 → Goes s (.mopRdy f) sid (s.modSheaf sid fun sh => { sh with token := true })) ∧
    (f.xmod.toNat % 2 = 1 → s.tokenBusy sid = false → Goes s (.mopRdy f) sid s)

/-- The next row group of an operation with no weights to read may begin (R204, R208, R217, R218): the earlier writes and
reads of its rows have been made, what stands before it in the tile's order are matrix operations, and it meets no poison. -/
def GroupFree (s : State) (m : MatOp) : Prop :=
  m.weights = none ∧ m.expired = false ∧ m.groups < 4 ∧ (∀ k < 16, s.mayWrite m.wg m.acc m.ticket (16 * m.groups + k) = true) ∧
  (∀ p ∈ (s.acc m.wg m.acc).order, p.ticket < m.ticket → p.mat = true) ∧ (∀ g c off, m.poison = some (g, c, off) → g ≠ m.groups)

/-- R217, R218: an engine works on the first operation of its queue that no halt holds: the next row group is written
where it may begin, and after the fourth the operation leaves the queue and the tile's order and completes. -/
def Claims.MatrixEngineSteps : Prop :=
  ∀ (s : State) (pod eng : Nat) (m : MatOp),
    ((s.pod pod).queue eng).find? (fun m => !s.onHold m.ctx m.held) = some m →
    (GroupFree s m →
      exec (.matrixRowGroup pod eng) s = .next ((s.rowGroup m).2.modEngine pod eng
        fun l => l.map fun x => if x.op = (s.rowGroup m).1.op then (s.rowGroup m).1 else x)) ∧
    (m.groups = 4 → exec (.matrixOperationComplete pod eng) s =
      .next (((s.modEngine pod eng fun l => l.filter fun x => x.op ≠ m.op).modAcc m.wg m.acc
        fun a => a.leave m.ticket).completeOp m.op))

/-- R217: a row group of an operation whose operands have been read writes sixteen rows of the tile, the values of
`MatOp.resultRow` over what the tile held, and counts; the first gives the tokens and the other sheaves' registers back
(R214). -/
def Claims.RowGroupWrites : Prop :=
  ∀ (s : State) (m : MatOp) (ra rb : List (List Word)), m.a = .frag ra → m.b = .frag rb →
    m.groups < 4 → m.spoilt = false → m.acc < (s.wg m.wg).acc.length → (s.wgs.get m.wg).isSome = true →
    (s.rowGroup m).1 = (if m.groups = 0 then
      { m with groups := 1, tokens := [], regs := m.regs.filter fun q => q.1 = m.sid } else { m with groups := m.groups + 1 }) ∧
    ∀ r n, n < 64 →
      ((s.rowGroup m).2.acc m.wg m.acc).elem r n =
        if 16 * m.groups ≤ r ∧ r < 16 * m.groups + 16 then
          ((m.resultRow r ((s.acc m.wg m.acc).coefRow m.tag r)).getD n (0, false)).1
        else (s.acc m.wg m.acc).elem r n

/-- R82, R217: element n of a result row is the sum of row r of A with row n of B, added to what the tile held or with
`.z` to 0: of integers for the integer formats, of floating values with their scales for the others. -/
def Claims.ResultRows : Prop :=
  ∀ (m : MatOp) (ra rb : List (List Word)) (start : List Word) (r n : Nat), m.a = .frag ra → m.b = .frag rb →
    m.surv = [] → n < 64 →
    let old : Word := if m.z then 0 else start.getD n 0
    let a := ra.getD r []
    let b := rb.getD n []
    (m.resultRow r start).getD n (0, false) =
      if 10 ≤ m.afmt ∧ m.afmt ≤ 16 then
        dotInts m.k m.acci old (rowInts m.afmt m.k a) (rowInts m.bfmt m.k b)
      else dotFloats m.k old (rowFloats m.afmt m.k (m.sa.getD r []) a) (rowFloats m.bfmt m.k (m.sb.getD n []) b)

/-- R82: with integer operands and an I32 accumulator every element is the accumulator with the exact sums of the
blocks
of sixteen products added one after the other, each sum held to the signed range. -/
def Claims.IntegerDotProduct : Prop :=
  ∀ (k : Nat) (c : Word) (a b : List Int), a.length = 16 * k → b.length = 16 * k →
    dotInts (16 * k) true c a b =
      (List.range k).foldl (fun acc q =>
        let x := acc.1.toInt + ((List.range 16).map fun j => a.getD (16 * q + j) 0 * b.getD (16 * q + j) 0).sum
        (BitVec.ofInt 32 (max (-2147483648) (min 2147483647 x)),
          acc.2 || decide (x < -2147483648 ∨ 2147483647 < x))) (c, false)

/-! ### Accumulator tiles (R219 to R224) -/

/-- R219 to R224: the accumulator instructions complete where the tile exists, its order has room and no tag has to
be
forced: `acc.z` zeroes the tile at once where nothing writes it and otherwise takes its place, `acc.rd`, `acc.ld`,
`acc.st`
and `acc.cvt` enter flight, `acc.wr` writes its elements where earlier writes and reads of the rows have been made, `acc.wm` writes
the
status word (or with `.dom` the tag). -/
def Claims.AccumulatorInstructions : Prop :=
  ∀ (f : Fields) s sid r,
    let sh := s.sheaf sid
    let w := sh.wg
    let k := wideRegs (f.xmod.toNat % 4)
    let row (t : Nat) : Nat := (sh.read f.imm t f.a).toNat % 64
    let col (t : Nat) : Nat := (sh.read f.imm t f.b).toNat % 64
    let lead (i : Instr) : Nat := (acts s i sid r).headD 0
    let plain (n : Nat) : Prop := n < (s.wg w).acc.length ∧ tagAxis (s.acc w n).dom = 0
    (Issues s (.accZ f) sid r → acts s (.accZ f) sid r ≠ [] → f.d.toNat < (s.wg w).acc.length →
      ((s.acc w f.d.toNat).order = [] →
        Goes s (.accZ f) sid (s.modAcc w f.d.toNat fun a => { a.zeroed with dom := 0 })) ∧
      (0 < (s.acc w f.d.toNat).order.length → (s.acc w f.d.toNat).order.length < 7 →
        Goes s (.accZ f) sid ((s.launch (issueOf s (.accZ f) sid r) (.accZ f) [] id false).modAcc w f.d.toNat
          fun a => { a.join s.next false (BitVec.allOnes 64) with dom := 0 }))) ∧
    (Issues s (.accRd f) sid r → acts s (.accRd f) sid r ≠ [] → plain f.c.toNat →
      (s.acc w f.c.toNat).order.length ≤ 7 → (∀ t ∈ acts s (.accRd f) sid r, col t % k = 0) →
      Goes s (.accRd f) sid ((s.launch (issueOf s (.accRd f) sid r) (.accRd f) ((acts s (.accRd f) sid r).map fun t =>
        { sh.lane f.imm (acts s (.accRd f) sid r) [] (regRun f.d k) t with
          va := BitVec.ofNat 64 (row t), pa := BitVec.ofNat 64 (col t)
          addrs := [(f.a, sh.read f.imm t f.a), (f.b, sh.read f.imm t f.b)]
          taint := sh.taintOf t f.a || sh.taintOf t f.b })).readRows w f.c.toNat)) ∧
    (Issues s (.accWr f) sid r → acts s (.accWr f) sid r ≠ [] → f.d.toNat < (s.wg w).acc.length →
      (s.acc w f.d.toNat).order.length < 7 → (∀ t ∈ acts s (.accWr f) sid r, col t % k = 0) →
      (∀ t ∈ acts s (.accWr f) sid r, s.mayWrite w f.d.toNat s.next (row t) = true) →
      Goes s (.accWr f) sid (s.modAcc w f.d.toNat fun a => (acts s (.accWr f) sid r).foldl (fun a t =>
        let vals := (dataFields f.c k).map (sh.read f.imm t)
        ((vals.mapIdx fun i x => (i, x)).foldl (fun a p => a.setElem (row t) (col t + p.1) p.2) a).markRaw
          a.dom (row t) (col t) k) a)) ∧
    (Issues s (.accWm f) sid r → acts s (.accWm f) sid r ≠ [] → f.a.toNat < (s.wg w).acc.length →
      let a := s.acc w f.a.toNat
      let x : Word := if f.xmod.toNat % 2 = 1 then a.dom.zeroExtend 32 else a.status
      let q := s.writeLanes sid f.d 1 ((acts s (.accWm f) sid r).map fun t => ⟨t, [(x, false)], 0⟩)
      Goes s (.accWm f) sid (if f.xmod.toNat / 2 % 2 = 1 then
        q.modAcc w f.a.toNat fun a => { a with ovf := false, nan := false, inv := false, cvt := false } else q)) ∧
    (Issues s (.accCvt f) sid r → acts s (.accCvt f) sid r ≠ [] → plain f.d.toNat →
      (s.acc w f.d.toNat).order.length < 7 →
      Goes s (.accCvt f) sid ((s.launch (issueOf s (.accCvt f) sid r) (.accCvt f)
        [sh.lane f.imm (acts s (.accCvt f) sid r) [f.a] [] (lead (.accCvt f))]
        (fun op => { op with tag := (s.acc w f.d.toNat).dom }) false).modAcc w f.d.toNat
          fun a => a.join s.next false (BitVec.allOnes 64)))

/-- R219, R222: `acc.ld` and `acc.st` move the rows that IMM32 names, one lane a row, between the tile and the
bytes at
the lowest active thread's address; they complete where the format and the rows are legal and the bytes lie in the
allocation. -/
def Claims.AccumulatorTransfers : Prop :=
  ∀ (f : Fields) s sid r,
    let sh := s.sheaf sid
    let w := sh.wg
    let n := f.d.toNat
    let fmt := f.xmod.toNat % 32
    let pitch := if f.imm.toNat / 2 ^ 12 % 2 ^ 16 = 0 then (rowBytes fmt 64 + 15) / 16 * 16
      else 16 * (f.imm.toNat / 2 ^ 12 % 2 ^ 16)
    let count := f.imm.toNat / 2 ^ 6 % 2 ^ 6 + 1
    let row0 := f.imm.toNat % 2 ^ 6
    let addr (i : Instr) : Word := sh.read f.imm ((acts s i sid r).headD 0) f.a
    let unbarred (i : Instr) : Prop := ∀ t ∈ acts s i sid r,
      FreeOf s sid t (t == (acts s i sid r).headD 0 && sh.taintOf t f.a)
    let lanes (i : Instr) (v : Nat) : List Lane := (List.range count).map fun j =>
      { thread := (acts s i sid r).headD 0, off := (addr i).toNat % 2 ^ 19 + j * pitch, va := BitVec.ofNat 64 (row0 + j)
        pa := BitVec.ofNat 64 v, addrs := [(f.a, addr i)], srcs := [], dsts := [], taint := false, done := false }
    f.imm.toNat < 2 ^ 28 → row0 + count ≤ 64 → n < (s.wg w).acc.length →
    (∀ v, Issues s (.accLd f) sid r → acts s (.accLd f) sid r ≠ [] → fmt ∈ [0, 1, 2, 8, 11] →
      ReachesBy s w (addr (.accLd f)) ((count - 1) * pitch + rowBytes fmt 64) 1 v →
      (s.acc w n).order.length < 7 → Settled s (sid / 64) (v ≠ w) → unbarred (.accLd f) →
      let q := s.flushScratch (sid / 64) (v ≠ w)
      let l := (lanes (.accLd f) v).map fun l =>
        { l with srcs := (q.scratchWords l.pa.toNat l.off (rowBytes fmt 64)).map fun x => (0xF0, x) }
      Goes s (.accLd f) sid ((q.launch (issueOf s (.accLd f) sid r) (.accLd f) l
        (fun op => { op with tag := (q.acc w n).dom })).modAcc w n fun a =>
          a.join q.next false (maskOf (l.map (·.va.toNat))))) ∧
    (∀ v, Issues s (.accSt f) sid r → acts s (.accSt f) sid r ≠ [] → fmt < 16 →
      ReachesBy s w (addr (.accSt f)) ((count - 1) * pitch + rowBytes fmt 64) 1 v →
      tagAxis (s.acc w n).dom = 0 → (s.acc w n).order.length ≤ 7 → Settled s (sid / 64) (v ≠ w) → unbarred (.accSt f) →
      let q := s.flushScratch (sid / 64) (v ≠ w)
      Goes s (.accSt f) sid ((q.launch (issueOf s (.accSt f) sid r) (.accSt f)
        (lanes (.accSt f) v)).readRows w n))

/-! ### Weight store (R226 to R234) -/

/-- R230, R232 to R234: `ldw` enters flight where every lane's words lie in a sealed region; `wst.stat` writes
STATE,
SHORT and PEND of the region that its lane names; `wst.fill` of N bytes, a multiple of 64 up to 2^24, is accepted
into an
open region, whose PEND goes up by N / 64. -/
def Claims.WeightInstructions : Prop :=
  ∀ (f : Fields) s sid r,
    let sh := s.sheaf sid
    let die := sid / 64 / 32
    let d := s.die die
    let k := wideRegs (f.xmod.toNat % 4)
    let off (t : Nat) : Word := sh.read f.imm t f.a + sh.read f.imm t f.b
    (Issues s (.ldw f) sid r →
      (∀ t ∈ acts s (.ldw f) sid r, ∃ i, InRegion d (off t).toNat (4 * k) (4 * k) i 2) →
      Goes s (.ldw f) sid (s.launch (issueOf s (.ldw f) sid r) (.ldw f) ((acts s (.ldw f) sid r).map fun t =>
        { sh.lane f.imm (acts s (.ldw f) sid r) [] (regRun f.d k) t with
          va := (off t).zeroExtend 64, addrs := [(f.a, sh.read f.imm t f.a), (f.b, sh.read f.imm t f.b)], ataint := sh.taintOf t f.a || sh.taintOf t f.b
          taint := sh.taintOf t f.a || sh.taintOf t f.b }))) ∧
    (Issues s (.wstStat f) sid r → (∀ t ∈ acts s (.wstStat f) sid r, (sh.read f.imm t f.a).toNat < 64) →
      Goes s (.wstStat f) sid (s.writeLanes sid f.d 1 ((acts s (.wstStat f) sid r).map fun t =>
        let g := d.region (sh.read f.imm t f.a).toNat
        ⟨t, [(BitVec.ofNat 32 (g.state.toNat * 2 ^ 30 + g.short.toNat * 2 ^ 29 + g.pend.toNat),
          sh.taintOf t f.a)], 0⟩))) ∧
    (∀ i, Issues s (.wstFill f) sid r → acts s (.wstFill f) sid r ≠ [] →
      let ld := (acts s (.wstFill f) sid r).headD 0
      let o := (sh.read f.imm ld f.b).toNat
      let n := (sh.read f.imm ld f.c).toNat
      0 < n → n ≤ 2 ^ 24 → n % 64 = 0 → InRegion d o n 64 i 1 →
      let s1 := { s with next := s.next + 1 }
      let s2 := s1.modRegion die i fun g => { g with pend := g.pend + BitVec.ofNat 24 (n / 64) }
      let fill : Fill := Fill.mk sh.ctx (sh.readPair f.imm ld f.a false) o (n / 64) i sid sh.gen ld
        (wordAddr r.pc (some r.k)) ((groupOf r).any fun t => (sh.thread t).priv) false none
        (if sh.taintRun ld f.a (if single f.a then 1 else 2) || sh.taintOf ld f.b || sh.taintOf ld f.c then s.next else 0)
      Goes s (.wstFill f) sid (s2.modDie die fun d => { d with fills := d.fills.put s.next fill }))

/-- R232: each WEIGHT_FILL_BYTES_WRITTEN moves the fill's next 64 bytes into the store; PEND of its region goes
down by 1,
and the fill leaves with its last bytes. -/
def Claims.FillProgress : Prop :=
  ∀ (s s' : State) (die k : Nat) (q : Fill) (bs : List Byte) (po : Bool),
    (s.die die).fills.get k = some q → q.held = false → q.stuck = none → q.bar = 0 →
    s.devLoad q.ctx q.va.toNat 64 q.priv (some (coreOf q.sid)) = (.ok (bs, po), s') →
    let s1 := s'.modDie die fun d => d.fillBytes q.off bs (if po then s.fillPoison q else [])
    let s2 := s1.modRegion die q.region fun g => { g with pend := g.pend - 1 }
    let rest : Fill := { q with va := q.va + 64, off := q.off + 64, left := q.left - 1 }
    let s3 := s2.modDie die fun d =>
      { d with fills := if q.left ≤ 1 then d.fills.del k else d.fills.put k rest }
    exec (.weightFillBytesWritten die k) s = .next (s3.settleRegion die q.region)

/-- A descriptor write that R227 does not ignore. -/
def Heeded (s : State) (die i v state : Nat) : Prop := (s.die die).refuses i (setBits v 62 2 state) = false

/-- R228: an unused region that is opened is open, with DEADLINE now + LIFE × 1000 ns where it is short-lived; an
open
one with no fill pending is sealed at once, and with fills pending waits for them; a sealed one that nothing reads
is opened again at once, its DEADLINE set anew, as is one that has expired; one that is not read is released, and a release
empties its bytes.  A short-lived region expires at its DEADLINE. -/
def Claims.RegionTransitions : Prop :=
  ∀ (s : State) (die i v : Nat),
    let d := s.die die
    let g := d.region i
    let busy := s.readsWeights die g.range.1 g.range.2
    (Heeded s die i v 1 → g.state = 0 → g.wait = none → exec (.regionOpen die i v) s = .next (s.modRegion die i fun r =>
      let n := regionOf r v
      let until_ := if n.short then BitVec.ofNat 64 (s.now + n.life.toNat * 1000) else r.deadline
      { n with state := 1, wait := none, pend := 0, deadline := until_ })) ∧
    (Heeded s die i v 1 → g.wait = none → g.state = 2 ∧ busy = false ∨ g.state = 3 →
      ∃ t, exec (.regionOpen die i v) s = .next t ∧ (t.die die).region i = { g with
          state := 1, deadline := if g.short then BitVec.ofNat 64 (s.now + g.life.toNat * 1000) else g.deadline } ∧
        (g.short = false → (t.die die).bytes = d.bytes)) ∧
    (Heeded s die i v 2 → g.state = 1 → g.wait = none → g.pend = 0 →
      ∃ t, exec (.regionSeal die i v) s = .next t ∧ ((t.die die).region i) = { g with state := 2, wait := none }) ∧
    (Heeded s die i v 2 → g.state = 1 → g.wait = none → g.pend ≠ 0 →
      ∃ t, exec (.regionSeal die i v) s = .next t ∧ ((t.die die).region i) = { g with wait := some .seal }) ∧
    (Heeded s die i v 0 → g.state ≠ 0 → g.pend = 0 → busy = false →
      ∃ t, exec (.regionRelease die i v) s = .next t ∧ ((t.die die).region i).state = 0 ∧
        ∀ p ∈ (t.die die).bytes, p.1 < g.range.1 ∨ g.range.1 + g.range.2 ≤ p.1) ∧
    (g.short = true → (g.state = 1 ∨ g.state = 2) → g.deadline.toNat ≤ s.now →
      ∃ t, exec (.regionDeadline die i) s = .next t ∧ ((t.die die).region i).state = 3)

/-- R227: a descriptor write that R227 ignores changes the count of ignored writes and nothing else. -/
def Claims.RefusedRegionWrites : Prop :=
  ∀ (s : State) (die i v : Nat),
    let t := s.modDie die fun d => { d with refused := d.refused + 1 }
    (¬ Heeded s die i v 1 → exec (.regionOpen die i v) s = .next t) ∧
    (¬ Heeded s die i v 2 → exec (.regionSeal die i v) s = .next t) ∧
    (¬ Heeded s die i v 0 → exec (.regionRelease die i v) s = .next t)

/-- R229, R231: a bank of a region that is refreshed is unreadable for 96 ns from the refresh on; a read in a
region whose
DEADLINE has come ends with the context fault of code 0x12. -/
def Claims.RefreshAndRetention : Prop :=
  (∀ (s : State) (die bank i : Nat), i < 64 →
    (∀ p, (s.die die).refresh = some p → p.2 ≤ s.now) →
    ((s.die die).region i).state ≠ 0 → ((s.die die).region i).short = false →
    ((s.die die).region i).base.toNat ≤ bank → bank ≤ ((s.die die).region i).base.toNat + ((s.die die).region i).size.toNat →
    exec (.weightStoreRefresh die bank) s =
      .next (s.modDie die fun d => { d with refresh := some (bank, s.now + 96) })) ∧
  (∀ (s : State) (o : Nat) (op : LongOp) (f : Fields) (l : Lane) (i : Nat),
    let die := op.core / 32
    let n := 4 * wideRegs (f.xmod.toNat % 4)
    s.ops.get o = some op → op.instr = .ldw f → op.lanes = [l] → l.done = false →
    s.refreshing die l.va.toNat n = false → s.barred op.sid op.gen l.thread l.ataint o = false →
    (s.die die).regionAt l.va.toNat n = some i → ((s.die die).region i).short = true →
    ((s.die die).region i).deadline.toNat ≤ s.now →
    exec (.retentionExpiredFault o) s = .next
      (((s.landLdwLanes o f).settleRegions die).lateFault op 0x12 0 [l.thread] l.va.toNat))

/-! ### Haar domain (R235 to R257) -/

/-- R237, R239: the integer transform of a line loses nothing: with thresholds 0 the inverse of every level count
gives
the line back. -/
def Obligations.IntegerHaarRoundTrip : Prop :=
  ∀ (levels : Nat) (line : List Int), 2 ^ levels ∣ line.length →
    haarInv true levels (haarFwd true levels [0, 0, 0, 0, 0, 0] line) = line

/-- R253: `thset` writes one level, or all six, of the kernel's threshold register; `thget` reads a level in every
lane. -/
def Claims.ThresholdRegisters : Prop :=
  ∀ (f : Fields) s sid r,
    let sh := s.sheaf sid
    let w := sh.wg
    let n := f.xmod.toNat % 8
    n < (s.wg w).desc.thresh →
    (Issues s (.thset f) sid r → acts s (.thset f) sid r ≠ [] →
      let ld := (acts s (.thset f) sid r).headD 0
      let l := (sh.read f.imm ld f.a).toNat
      let v := sh.read f.imm ld f.b
      l ≤ 6 → v.toNat < 2 ^ 16 →
      let levels := if l = 0 then List.replicate 6 (v.extractLsb' 0 16)
        else ((s.thresholds w n).take 6).set (l - 1) (v.extractLsb' 0 16)
      Goes s (.thset f) sid (s.modWg w fun g => { g with thr := g.thr.modify n fun _ => levels })) ∧
    (Issues s (.thget f) sid r →
      (∀ t ∈ acts s (.thget f) sid r, 1 ≤ (sh.read f.imm t f.a).toNat ∧ (sh.read f.imm t f.a).toNat ≤ 6) →
      Goes s (.thget f) sid (s.writeLanes sid f.d 1 ((acts s (.thget f) sid r).map fun t =>
        ⟨t, [(((s.thresholds w n).getD ((sh.read f.imm t f.a).toNat - 1) 0).zeroExtend 32, sh.taintOf t f.a)], 0⟩)))

/-- The state once the lift unit has accepted the job of an `sth` of sheaf `sid` into tile `n` of workgroup `w` under tag `g`, from
accumulator tile (`acc`) or tile `src`: the job is the last of its core's queue, with the thresholds as they stand, and the
tile is filling with PEND 0 and one use more (R246, R251). -/
def SthJob (q : State) (sid w n : Nat) (acc : Bool) (src : Nat) (pc : BitVec 64) (g : BitVec 16) : State :=
  let q1 := { q with next := q.next + 1 }
  let q2 := q1.pushJob (sid / 64) {
    kind := .sth, wg := w, acc := false, tile := n, srcAcc := acc, src := src, tag := g, thr := q1.thresholds w (tagTh g),
    ticket := q.next, rows := [], sat := 0, pc := pc, held := false }
  q2.modTileN w n fun t => { t with state := .filling, pend := 0, uses := t.uses + 1 }

/-- R250 to R255: the Haar instructions on a spatial or a Haar tile complete where the tile exists, the lift unit
and the
tile's order have room, and no earlier job must be waited for: `sth` and `hfwd` accept their job (after the job that
reconstructs a Haar source), `hinv` and `hmask.upd` theirs (none on a spatial tile), `hbias` adds in every lane
(one that
held its place behind a forced job goes on once it has taken effect), `hmask` reads a word of the mask. -/
def Claims.HaarInstructions : Prop :=
  ∀ (f : Fields) s sid r,
    let sh := s.sheaf sid
    let w := sh.wg
    let c := sid / 64
    let room := (s.core c).jobs.length
    let arg (i : Instr) (v : BitVec 8) : Word := sh.read f.imm ((acts s i sid r).headD 0) v
    let n := f.d.toNat
    let a := s.acc w n
    (Issues s (.hfwd f) sid r → acts s (.hfwd f) sid r ≠ [] → n < (s.wg w).acc.length →
      let g := (arg (.hfwd f) f.a).extractLsb' 0 16
      (arg (.hfwd f) f.a).toNat < 2 ^ 16 → tagAxis g ≠ 0 → accTagOk g (s.wg w).desc.thresh = true →
      (tagAxis a.dom = 0 → room < 4 → a.order.length < 7 →
        Goes s (.hfwd f) sid (s.accJob sid w n .hfwd g g)) ∧
      (tagAxis a.dom ≠ 0 → room < 3 → a.order.length < 6 →
        Goes s (.hfwd f) sid ((s.accJob sid w n .forced a.dom 0).accJob sid w n .hfwd g g))) ∧
    (Issues s (.hinv f) sid r → acts s (.hinv f) sid r ≠ [] → f.xmod.toNat % 2 = 1 → n < (s.wg w).acc.length →
      (tagAxis a.dom = 0 → Goes s (.hinv f) sid s) ∧
      (tagAxis a.dom ≠ 0 → room < 4 → a.order.length < 7 → Goes s (.hinv f) sid (s.accJob sid w n .hinv a.dom 0))) ∧
    (Issues s (.hinv f) sid r → acts s (.hinv f) sid r ≠ [] → f.xmod.toNat % 2 = 0 → n < (s.wg w).tiles.length →
      let q := s.flushScratch c false
      let t := q.tile w n
      Settled s c false → t.state = .ready → t.uses = 0 →
      (tagAxis t.dom = 0 → Goes s (.hinv f) sid q) ∧
      (tagAxis t.dom ≠ 0 → (q.core c).jobs.length < 4 → Goes s (.hinv f) sid (q.tileJob sid w n .hinv t.dom))) ∧
    (Issues s (.hbias f) sid r → acts s (.hbias f) sid r ≠ [] → n < (s.wg w).acc.length →
      r.place = none → (tagAxis a.dom = 0 ∨ tagInt a.dom = (f.xmod.toNat % 2 == 1)) → a.order = [] →
      Goes s (.hbias f) sid (s.modAcc w n fun a => (acts s (.hbias f) sid r).foldl (fun a t =>
        a.bias (s.acc w n).dom (f.xmod.toNat % 2 == 1) ((sh.read f.imm t f.b).toNat % 64) (sh.read f.imm t f.a)) a)) ∧
    (∀ o, Issues s (.hbias f) sid r → acts s (.hbias f) sid r ≠ [] → n < (s.wg w).acc.length → r.place = some o →
      s.ops.get o = none → Goes s (.hbias f) sid s) ∧
    (Issues s (.hmask f) sid r → acts s (.hmask f) sid r ≠ [] → f.xmod.toNat % 2 = 1 →
      f.b.toNat < (s.wg w).acc.length →
      let b := s.acc w f.b.toNat
      (f.xmod.toNat / 2 % 2 = 1 → tagAxis b.dom ≠ 0 → room < 4 → b.order.length < 7 →
        Goes s (.hmask f) sid (s.accJob sid w f.b.toNat .hmaskUpd b.dom b.dom)) ∧
      (f.xmod.toNat / 2 % 2 = 1 → tagAxis b.dom = 0 → Goes s (.hmask f) sid s) ∧
      (f.xmod.toNat / 2 % 2 = 0 → b.order = [] → tagAxis b.dom = 0 →
        Goes s (.hmask f) sid (s.writeLanes sid f.d 1 ((acts s (.hmask f) sid r).map fun t =>
          ⟨t, [(0, sh.taintOf t f.a)], 0⟩))) ∧
      (f.xmod.toNat / 2 % 2 = 0 → b.order = [] → tagAxis b.dom ≠ 0 →
        (∀ t ∈ acts s (.hmask f) sid r, (sh.read f.imm t f.a).toNat < 16) →
        Goes s (.hmask f) sid (s.writeLanes sid f.d 1 ((acts s (.hmask f) sid r).map fun t =>
          ⟨t, [(b.mask.extractLsb' (32 * (sh.read f.imm t f.a).toNat) 32, sh.taintOf t f.a)], 0⟩)))) ∧
    (Issues s (.hmask f) sid r → acts s (.hmask f) sid r ≠ [] → f.xmod.toNat % 2 = 0 →
      f.b.toNat < (s.wg w).tiles.length →
      let q := s.flushScratch c false
      let t := q.tile w f.b.toNat
      Settled s c false → t.state = .ready →
      (f.xmod.toNat / 2 % 2 = 1 → tagAxis t.dom ≠ 0 → (q.core c).jobs.length < 4 →
        Goes s (.hmask f) sid (q.tileJob sid w f.b.toNat .hmaskUpd t.dom)) ∧
      (f.xmod.toNat / 2 % 2 = 1 → tagAxis t.dom = 0 → Goes s (.hmask f) sid q) ∧
      (f.xmod.toNat / 2 % 2 = 0 → tagAxis t.dom = 0 →
        Goes s (.hmask f) sid (q.writeLanes sid f.d 1 ((acts s (.hmask f) sid r).map fun l =>
          ⟨l, [(0, (q.sheaf sid).taintOf l f.a)], 0⟩))) ∧
      (f.xmod.toNat / 2 % 2 = 0 → tagAxis t.dom ≠ 0 →
        (∀ l ∈ acts s (.hmask f) sid r, ((q.sheaf sid).read f.imm l f.a).toNat * 32 < t.maskBits) →
        Goes s (.hmask f) sid (q.writeLanes sid f.d 1 ((acts s (.hmask f) sid r).map fun l =>
          ⟨l, [(maskWord (q.maskBit w t) t.maskBits ((q.sheaf sid).read f.imm l f.a).toNat,
            (q.sheaf sid).taintOf l f.a)], 0⟩)))) ∧
    (Issues s (.sth f) sid r → acts s (.sth f) sid r ≠ [] → n < (s.wg w).tiles.length → f.xmod.toNat % 2 = 1 →
      f.a.toNat < (s.wg w).acc.length →
      let q := s.flushScratch c false
      let t := q.tile w n
      let dom := (q.acc w f.a.toNat).dom
      Settled s c false → t.uses = 0 → (t.state = .empty ∨ t.state = .ready) → t.nrows ≤ 64 → t.ncols ≤ 64 →
      (tagAxis dom = 0 → (q.core c).jobs.length < 4 →
        Goes s (.sth f) sid ((SthJob q sid w n true f.a.toNat (q.wordPc sid) t.dom).readRows w f.a.toNat)) ∧
      (tagAxis dom ≠ 0 → (q.core c).jobs.length < 3 → (q.acc w f.a.toNat).order.length < 7 →
        Goes s (.sth f) sid ((SthJob (q.accJob sid w f.a.toNat .forced dom 0) sid w n true f.a.toNat (q.wordPc sid)
          t.dom).readRows w f.a.toNat))) ∧
    (Issues s (.sth f) sid r → acts s (.sth f) sid r ≠ [] → n < (s.wg w).tiles.length → f.xmod.toNat % 2 = 0 →
      f.a.toNat < (s.wg w).tiles.length →
      let q := s.flushScratch c false
      let t := q.tile w n
      let u := q.tile w f.a.toNat
      Settled s c false → t.uses = 0 → (t.state = .empty ∨ t.state = .ready) → u.state = .ready → u.rows = t.rows → u.cols = t.cols →
      u.fmt.toNat ∈ [0, 1, 2, 8, 10, 11] →
      (tagAxis u.dom = 0 → (q.core c).jobs.length < 4 →
        Goes s (.sth f) sid ((SthJob q sid w n false f.a.toNat (q.wordPc sid) t.dom).useTile w f.a.toNat (· + 1))) ∧
      (tagAxis u.dom ≠ 0 → (q.core c).jobs.length < 3 →
        Goes s (.sth f) sid ((SthJob (q.tileJob sid w f.a.toNat .forced u.dom) sid w n false f.a.toNat (q.wordPc sid)
          t.dom).useTile w f.a.toNat (· + 1))))

/-- R246: LIFT_JOB runs the job that the core's lift unit is within, else the first accepted one that no halt holds, where
its reads and writes stand at their place: a job that writes its tile as a whole leaves the queue.  A spatial or Haar-x
result of an accumulator tile is written in row groups of sixteen, and the job leaves with the last; nothing else of the
core runs between them. -/
def Claims.LiftJobs : Prop :=
  ∀ (s : State) (core : Nat) (j : Job),
    let jobs := (s.core core).jobs
    (jobs.find? (fun j => j.grouped && j.rows != []) = some j ∨
      (∀ x ∈ jobs, x.grouped = true → x.rows = []) ∧
        jobs.find? (fun j => !s.onHold (s.wg j.wg).ctx j.held) = some j) →
    (j.acc = true → ∀ m < 64, s.mayWrite j.wg j.tile j.ticket m = true) →
    (j.acc = false → j.srcAcc = true → j.rows.length = 64) →
    let q := s.modCore core fun k => { k with jobs := k.jobs.erase j }
    let rows := if j.rows = [] then (j.result (s.acc j.wg j.tile)).1 else j.rows
    let sat := if j.rows = [] then (j.result (s.acc j.wg j.tile)).2 else j.sat
    (j.acc = true → j.grouped = false → exec (.liftJob core) s = .next (q.runAccJob j)) ∧
    (j.grouped = true → exec (.liftJob core) s = .next ((s.writeResult j (rows.take 16) sat).modCore core fun k =>
      { k with jobs := if rows.drop 16 = [] then k.jobs.erase j
          else k.jobs.replace j { j with rows := rows.drop 16, sat := sat } })) ∧
    (j.acc = false → exec (.liftJob core) s = .next ((q.runTileJob j).stillFilling core j))

/-! ### Global memory (R258 to R301) -/

/-- Every lane of a global access has a page that permits it, at an address below 2^52 that is a multiple of its
size;
the pages are ordinary, or the access is a load and they lie in plural regions.  Then it enters flight with what
translation gave, and goes on. -/
def GlobalIssues (i : Instr) (f : Fields) (off : BitVec 8) (acc : Access) (late : Bool) (srcs dsts : List (BitVec 8)) :
    Prop :=
  ∀ s sid r, Issues s i sid r →
    let sh := s.sheaf sid
    let x := s.placeAll (sid / 64) sh (accessSize i) acc late
      ((acts s i sid r).map fun t => (t, (sh.globalAddr f off t).toNat))
    (∀ p ∈ x.1, ∃ l, p.2.2 = .ok l ∧
      (l.plural = true → acc = .load ∧ (s.pregion (s.ctx sh.ctx) l.pa).isSome = true)) →
    Goes s i sid (x.2.launch (issueOf s i sid r) i ((presents x.1).map fun p =>
      { sh.lane f.imm (acts s i sid r) srcs dsts p.1 with
        va := BitVec.ofNat 64 p.2.1, pa := BitVec.ofNat 64 p.2.2.pa, entry := p.2.2.entry
        addrs := sh.capture f.imm p.1 (addrFields f off)
        ataint := sh.addrTaint f off p.1, taint := sh.addrTaint f off p.1 || srcs.any (sh.taintOf p.1) })
      (fun op => { op with hold := false }))

/-- The page of an access in state `s`: no translation of the address is cached, its walk ends in the leaf entry
`e` at
`a`, which maps 2^b bytes and permits the access, the homes of the entries read answer, and memory that the access reaches
stands behind the page `l` (R259 to R268, R451). -/
structure Mapped (s : State) (core ctx va n : Nat) (acc : Access) (late priv : Bool) (a e b : Nat) (l : Leaf) : Prop where
  below : va < 2 ^ 52
  aligned : va % n = 0
  fresh : s.cached (some core) ctx va = []
  walk : s.walk (s.ctx ctx) va = .leaf a e b
  near : ∀ x ∈ s.walkReads va 4 0 (s.ctx ctx).root, s.joins (some (baseOfCore core)) (homeDie x) = true
  permits : permits e acc priv = true
  leaf : l = leafAt va e b
  guarded : priv = true ∨ l.guarded = false
  reaches : late = true ∨ s.reaches l n acc = true

/-- Where one lane acts and its page is there, the access enters flight with that page: one lane at the address,
whose
physical address the leaf gives.  `plural` says for which pages; a write to a plural page holds its group at the
word. -/
def GlobalCompletes (i : Instr) (f : Fields) (off : BitVec 8) (acc : Access) (late plural hold : Bool) : Prop :=
  ∀ s sid r t a e b l, Issues s i sid r → acts s i sid r = [t] →
    let sh := s.sheaf sid
    let va := sh.globalAddr f off t
    Mapped s (sid / 64) sh.ctx va.toNat (accessSize i) acc late (sh.thread t).priv a e b l → l.plural = plural →
    (plural = true → l.cell = accessSize i ∧ (s.pregion (s.ctx sh.ctx) l.pa).isSome = true) →
    ∃ q op, (if hold then Waits s i sid q else Goes s i sid q) ∧ q.ops.get s.next = some op ∧ op.instr = i ∧
      op.sid = sid ∧ op.hold = hold ∧
      op.lanes.map (fun ln => (ln.thread, ln.va, ln.pa)) = [(t, va, BitVec.ofNat 64 l.pa)]

/-- R268, R280, R281, R292 to R297: global loads, stores and atomics whose lanes translate enter flight.
It rests on what the model chose or read by inference in log entry 14. -/
def Obligations.GlobalAccessesIssue : Prop :=
  ∀ f : Fields,
    let n := sizeRegs (f.xmod.toNat % 8)
    let k := if f.xmod.toNat / 512 % 2 = 1 then 2 else 1
    GlobalIssues (.ld f) f f.b .load false [] (regRun f.d n) ∧
    GlobalIssues (.ldCon f) f f.b .load false [] (regRun f.d n) ∧
    GlobalIssues (.ldAcq f) f f.b .load false [] (regRun f.d n) ∧
    GlobalIssues (.st f) f f.b .store true (dataFields f.c n) [] ∧
    GlobalIssues (.stRel f) f f.b .store true (dataFields f.c n) [] ∧
    GlobalIssues (.stSub f) f f.e .store true [f.b, f.c] [] ∧
    GlobalIssues (.atom f) f f.b .atomic false (dataFields f.c k) (regRun f.d k) ∧
    GlobalIssues (.atomCas f) f f.b .atomic false (dataFields f.c (2 * k)) (regRun f.d k) ∧
    GlobalIssues (.red f) f f.b .atomic true (dataFields f.c k) [] ∧
    GlobalCompletes (.ld f) f f.b .load false false false ∧ GlobalCompletes (.ldCon f) f f.b .load false false false ∧
    GlobalCompletes (.ldAcq f) f f.b .load false false false ∧ GlobalCompletes (.st f) f f.b .store true false false ∧
    GlobalCompletes (.stRel f) f f.b .store true false false ∧ GlobalCompletes (.stSub f) f f.e .store true false false ∧
    GlobalCompletes (.atom f) f f.b .atomic false false false ∧
    GlobalCompletes (.atomCas f) f f.b .atomic false false false ∧
    GlobalCompletes (.red f) f f.b .atomic true false false

/-- R259, R268: an address at or above 2^52 gives sub-code 1, another that is no multiple of the size sub-code 2,
before
any translation; so a load whose active lanes all have such addresses traps its group with CODE 0x10, the lowest lane
giving the sub-code and the low 52 bits of the address, the lanes in the mask. -/
def Claims.AddressFaults : Prop :=
  (∀ (s : State) (core ctx va n : Nat) (acc : Access) (late priv : Bool),
    (2 ^ 52 ≤ va → s.place core ctx va n acc late priv = (.bad 1, s)) ∧
    (va < 2 ^ 52 → va % n ≠ 0 → s.place core ctx va n acc late priv = (.bad 2, s))) ∧
  (∀ (f : Fields) s sid r, Issues s (.ld f) sid r → acts s (.ld f) sid r ≠ [] →
    let a (t : Nat) : Nat := ((s.sheaf sid).globalAddr f f.b t).toNat
    let lead := (acts s (.ld f) sid r).headD 0
    (∀ t ∈ acts s (.ld f) sid r, 2 ^ 52 ≤ a t ∨ a t % sizeBytes (f.xmod.toNat % 8) ≠ 0) →
    Traps s (.ld f) sid (s.fault sid (groupOf r) r.pc (some r.k) 0x10 (if 2 ^ 52 ≤ a lead then 1 else 2)
      (acts s (.ld f) sid r) (a lead % 2 ^ 52)))

/-- R260, R262: the walk of an address whose level-0 and level-1 tables are in memory and whose level-2 entry is a
well-formed leaf ends there, and the leaf maps 2 MiB. -/
def Claims.WalkFindsLeaf : Prop :=
  ∀ (s : State) (c : Ctx) (va e0 e1 e2 : Nat),
    let t0 := c.root + 8 * (va / 2 ^ 41 % 2 ^ 11)
    let t1 := e0 / 2 ^ 8 % 2 ^ 40 * 256 + 8 * (va / 2 ^ 30 % 2 ^ 11)
    let t2 := e1 / 2 ^ 8 % 2 ^ 40 * 256 + 8 * (va / 2 ^ 21 % 2 ^ 9)
    s.inGddr t0 8 = true → s.inGddr t1 8 = true → s.inGddr t2 8 = true →
    s.mem.num t0 8 = e0 → s.mem.num t1 8 = e1 → s.mem.num t2 8 = e2 →
    e0 % 4 = 1 → badTable 0 e0 = false → e1 % 4 = 1 → badTable 1 e1 = false → e2 % 4 = 3 →
    s.badLeaf c 2 e2 = false →
    s.walk c va = .leaf t2 e2 21

/-- R262, R268: what a leaf permits: user accesses not on a privileged page, stores and atomics on a writable one,
instruction fetches on an executable one. -/
def Claims.LeafPermissions : Prop :=
  ∀ (e : Nat) (priv : Bool),
    let user := priv = true ∨ e / 2 ^ 4 % 2 = 0
    (permits e .load priv = true ↔ user) ∧ (permits e .store priv = true ↔ user ∧ e / 2 ^ 2 % 2 = 1) ∧
    (permits e .atomic priv = true ↔ user ∧ e / 2 ^ 2 % 2 = 1) ∧
    (permits e .fetch priv = true ↔ user ∧ e / 2 ^ 3 % 2 = 1)

/-- An atomic on an ordinary page whose turn has come, where its home answers with memory and without poison and no store
of the core to its bytes is on the way, is performed for every lane of its address that is not done (`single_` for that
lane alone): the home is read and written in one step, each lane's register D gets its old value, an acquire is made, and
the lanes are done. -/
def AtomicPerforms (s : State) (o t : Nat) (op : LongOp) (ln : Lane) (d : BitVec 8) (single_ : Bool) : Prop :=
  let ls := if single_ then [ln] else op.lanes.filter fun l => l.key = ln.key && !l.done
  let n := accessSize op.instr
  (∀ l ∈ ls, s.mayApply o op l = true) → ln.leaf.plural = false →
  (∀ p ∈ s.pendingStores op.core, overlap p.2.1 p.2.2.length ln.key n = false) →
  s.inGddr ln.pa.toNat n = true → (s.homeLoad (s.ctx op.ctx) ln.leaf n).2 = false →
  let x := s.landMany op.sid ls
  let y := x.2.atomicHome op ln.leaf n x.1
  let q := (List.zip ls y.1).foldl (fun q p => q.landDsts o op.sid p.1 d (bytesWords (n / 4) (natBytes n p.2))) y.2
  exec (.globalAccessPerformed o t) s =
    .next (ls.foldl (fun q l => q.finishLane o l.thread) (q.acquired op.core op.ctx (acqScope op.instr)))

/-- The bytes of a store with the mask of their bits: those of `st` whole, those of `st.sub` where its mask says (R293,
R294). -/
def StoreBits (i : Instr) (l : List Word) : List (Byte × Byte) :=
  match i with
  | .stSub f => List.zip (natBytes 4 (l.getD 0 0).toNat) (natBytes 4 (subMask (f.xmod.toNat % 2 == 1) (l.getD 1 0)).toNat)
  | .st f => (storeBytes (f.xmod.toNat % 8) l).map fun b => (b, (0xFF : Byte))
  | _ => []

/-- R5, R276, R292 to R297: GLOBAL_ACCESS_PERFORMED, where the home answers: a load whose turn has come gives its lane the
bytes of the line or the home, `ld.acq` acquires and `ld.con` taints what it writes; a lane of `st`, or of `st.sub` whose word no other lane names, is applied, and once it is
applied and first in the core order it is performed at the home; `atom`, `red` and `atom.cas` read and write their home in
one step and give their lanes the old values. -/
def Claims.GlobalAccessesPerformed : Prop :=
  ∀ (s : State) (o t : Nat) (op : LongOp) (ln : Lane) (f : Fields),
    s.ops.get o = some op → op.lanes.find? (fun l => l.thread = t && !l.done) = some ln → ln.leaf.ca ≠ 3 →
    s.open_ (some op.core) ln.leaf = true →
    (op.instr = .ld f ∨ op.instr = .ldAcq f ∨ op.instr = .ldCon f → s.mayApply o op ln = true →
      let x := s.loadBytes op.core op.ctx ln.leaf (sizeBytes (f.xmod.toNat % 8)) (f.hint.toNat % 4) ln.ataint
      x.1.2 = false →
      exec (.globalAccessPerformed o t) s =
        .next (((x.2.landDsts o op.sid { ln with taint := ln.taint || decide (op.instr = .ldCon f) } f.d
          (loadVals (f.xmod.toNat % 8) x.1.1)).acquired op.core op.ctx (acqScope op.instr)).finishLane o ln.thread)) ∧
    (op.instr = .st f ∨ op.instr = .stSub f ∧ (op.lanes.filter fun l => l.key = ln.key && !l.done) = [ln] →
      ln.applied = none → s.mayApply o op ln = true → ln.leaf.plural = false → ln.pa.toNat < windowBase →
      let x := s.landSrcs op.sid ln.thread ln.srcs
      let data := StoreBits op.instr x.1
      (∃ p ∈ data, p.2 ≠ 0) →
      let q1 := { x.2 with next := x.2.next + 1 }
      let q2 := q1.modOp o fun op => { op with
        lanes := op.lanes.map fun l => if l.thread = ln.thread then
          { l with applied := some x.2.next, srcs := List.zipWith (fun p w => (p.1, w)) l.srcs x.1 } else l }
      exec (.globalAccessPerformed o t) s =
        .next (q2.modCore op.core fun k => k.storeLines ln.pa.toNat data)) ∧
    (∀ n, op.instr = .st f ∨ op.instr = .stSub f → ln.applied = some n → ln.pa.toNat < windowBase →
      let data := StoreBits op.instr (ln.srcs.map (·.2))
      (∀ p ∈ s.pendingStores op.core, n ≤ p.1 ∨ overlap p.2.1 p.2.2.length ln.key data.length = false) →
      s.badStore op.ctx op.instr ln.leaf data.length = none →
      exec (.globalAccessPerformed o t) s = .next ((s.homeStoreMasked op.ctx ln.leaf data).finishLane o ln.thread)) ∧
    (op.instr = .red f → AtomicPerforms s o t op ln 0xF0 false) ∧
    (op.instr = .atom f → AtomicPerforms s o t op ln f.d false) ∧
    (op.instr = .atomCas f → AtomicPerforms s o t op ln f.d true)

/-- R294: the mask of `st.sub.bit` is C; that of `st.sub` has the four bits of each nibble whose bit of C is set. -/
def Claims.SubMasks : Prop :=
  ∀ (c : Word) (i : Nat), i < 32 → subMask true c = c ∧ (subMask false c).getLsbD i = c.getLsbD (i / 4)

/-- R167, R295 to R297: what an atomic leaves and what its lanes receive: the integer operations in ascending thread order,
each lane the value that the one before it left; a compare-and-swap stores where the word is the one compared; a
floating sum of one lane; and what leaves the home is the new value. -/
def Claims.AtomicResults : Prop :=
  (∀ (n old op : Nat) (vs : List Nat), n = 32 ∨ n = 64 → old < 2 ^ n → (∀ v ∈ vs, v < 2 ^ n) → op ≤ 8 →
    let sg (x : Nat) : Int := if x < 2 ^ (n - 1) then x else x - 2 ^ n
    let new (a v : Nat) : Nat := match op with
      | 0 => (a + v) % 2 ^ n
      | 1 => if sg v < sg a then v else a
      | 2 => if sg a < sg v then v else a
      | 3 => min a v
      | 4 => max a v
      | 5 => a &&& v
      | 6 => a ||| v
      | 7 => a ^^^ v
      | _ => v
    (atomicRun n op old vs).1 = vs.foldl new old ∧ (atomicRun n op old vs).2.length = vs.length ∧
    ∀ k < vs.length, (atomicRun n op old vs).2.getD k 0 = (vs.take k).foldl new old) ∧
  (∀ old v : Nat, atomicRun 32 9 old [v] =
    ((addVal f32 false .rne (f32.decode (old % 2 ^ 32)) (f32.decode (v % 2 ^ 32))).1 % 2 ^ 32, [old])) ∧
  (∀ (f : Fields) (old : Nat) (l : List Word),
    let k := if f.xmod.toNat / 512 % 2 = 1 then 2 else 1
    let num (l : List Word) : Nat := leNat (wordsBytes l)
    atomicDo (.atomCas f) old [l] = (if old = num (l.take k) then num ((l.drop k).take k) else old, [old])) ∧
  (∀ (s : State) (op : LongOp) (l : Leaf) (n : Nat) (ls : List (List Word)), l.ca ≠ 3 →
    let x := atomicDo op.instr (leNat (s.homeLoad (s.ctx op.ctx) l n).1) ls
    (s.atomicHome op l n ls).1 = x.2 ∧
    (s.atomicHome op l n ls).2.mem = (s.homeStore (s.ctx op.ctx) l (natBytes n x.1)).mem)

/-- R283, R298 to R301: a fence that only acquires, or whose release conditions hold, completes, and drops the
context's
lines at a scope wider than the core where it acquires; `cctl` in every form, `pref` and `tclr` complete on all operands,
and change nothing where no guard holds. -/
def Claims.FencesAndCacheControl : Prop :=
  ∀ (f : Fields) s sid r,
    let sh := s.sheaf sid
    let c := sid / 64
    (Issues s (.fence f) sid r → acts s (.fence f) sid r ≠ [] →
      (f.xmod.toNat % 4 = 1 ∨ (s.fenceOk sid (acts s (.fence f) sid r) (f.xmod.toNat / 4 % 8) = true ∧
        (f.xmod.toNat / 4 % 8 = 4 → s.peersAcked c sh.wg (s.wordRel sid) = true))) →
      Goes s (.fence f) sid (if f.xmod.toNat % 4 ≠ 2 ∧ f.xmod.toNat / 4 % 8 ∈ [0, 3, 4] then
        s.modCore c fun k => { k with l1 := k.l1.filter fun l => l.ctx ≠ sh.ctx } else s)) ∧
    (Issues s (.cctl f) sid r → f.xmod.toNat % 8 = 1 → acts s (.cctl f) sid r ≠ [] →
      Goes s (.cctl f) sid (s.modCore c fun k => { k with l1 := k.l1.filter fun l => l.ctx ≠ sh.ctx })) ∧
    (Issues s (.cctl f) sid r → f.xmod.toNat % 8 = 0 →
      Goes s (.cctl f) sid ((acts s (.cctl f) sid r).foldl (fun q t =>
        match q.xlate sh.ctx (sh.globalAddr f f.b t).toNat .load (sh.thread t).priv (some c) false with
        | (.ok l, q') => q'.modCore c fun k => k.dropLines l.pa 1
        | (_, q') => q') s)) ∧
    (Issues s (.cctl f) sid r → f.xmod.toNat % 8 = 1 → acts s (.cctl f) sid r = [] → Goes s (.cctl f) sid s) ∧
    (Issues s (.cctl f) sid r → 2 ≤ f.xmod.toNat % 8 → Goes s (.cctl f) sid s) ∧
    (Issues s (.fence f) sid r → acts s (.fence f) sid r = [] → Goes s (.fence f) sid s) ∧
    (Issues s (.pref f) sid r → f.xmod.toNat % 2 = 1 → Goes s (.pref f) sid s) ∧
    (Issues s (.pref f) sid r → f.xmod.toNat % 2 = 0 → acts s (.pref f) sid r = [] → Goes s (.pref f) sid s) ∧
    (Issues s (.pref f) sid r → f.xmod.toNat % 2 = 0 → ∃ t, Goes s (.pref f) sid t ∧ t.sheaves = s.sheaves ∧ t.wgs = s.wgs) ∧
    LaneWrites (.tclr f) f.d 1 (fun _ sh t => ⟨t, [(sh.read f.imm t f.a, false)], 0⟩)

/-- R262, R266: a walk of the device for a core that ends in a leaf fills the translation caches of the core and of
its die, and marks nothing in memory.  Which entry makes room in a full cache is the model's choice (log entry 74). -/
def Claims.TranslationWalkFills : Prop :=
  ∀ (s : State) (ctx core va a e n : Nat), (s.ctxs.get ctx).isSome = true → va < 2 ^ 52 → core < 256 →
    s.walk (s.ctx ctx) va = .leaf a e n →
    let t : Trans := { ctx := ctx, va := va / 2 ^ n * 2 ^ n, bits := n, leaf := BitVec.ofNat 64 e, entry := a }
    exec (.translationWalk ctx (core * 2 ^ 52 + va)) s =
      .next ((s.modCore core fun k => { k with tlb := tlbPut 64 t k.tlb }).modDie (core / 32)
        fun d => { d with tlb := tlbPut 4096 t d.tlb })

/-- R271, R435: MEMORY_ERROR_FAULT completes an operation that has delivered poison in lanes that are all done,
with the
context fault 0x11 of those lanes; IMPRECISE_STORE_FAULT drops an applied store that finds no memory or poison,
with the
fault 0x17. -/
def Claims.LateMemoryFaults : Prop :=
  ∀ (s : State) (o t : Nat) (op : LongOp), s.ops.get o = some op →
    (∀ p, op.faults = [p] → p.2.1 = 0x11 → op.allDone = true →
      exec (.memoryErrorFault o) s = .next ((s.endOp o).lateFault op 0x11 0 [p.1] p.2.2.2)) ∧
    (∀ (f : Fields) (ln : Lane) (n sub : Nat), op.instr = .st f →
      op.lanes.find? (fun l => l.thread = t && !l.done) = some ln → ln.applied = some n →
      s.badStore op.ctx op.instr ln.leaf (sizeBytes (f.xmod.toNat % 8)) = some sub →
      exec (.impreciseStoreFault o t) s = .next ((s.finishLane o t).lateFault op 0x17 sub [t] ln.va.toNat))

/-! ### Plural memory (R302 to R317) -/

/-- R302, R311, R312: `ldk` enters flight on plural pages of its cell size inside a region; `stk` and `rcn` enter
flight
there too, and their group is held at the word until the home has answered. -/
def Claims.PluralInstructionsIssue : Prop :=
  ∀ (f : Fields) s sid r,
    let sh := s.sheaf sid
    let fits (i : Instr) (x : List (Nat × Nat × Xlate) × State) : Prop :=
      ∀ p ∈ x.1, ∃ l, p.2.2 = .ok l ∧ l.plural = true ∧ l.cell = accessSize i ∧
        (s.pregion (s.ctx sh.ctx) l.pa).isSome = true
    let go (i : Instr) (off : BitVec 8) (srcs dsts : List (BitVec 8)) (hold : Bool)
        (x : List (Nat × Nat × Xlate) × State) : State :=
      x.2.launch (issueOf s i sid r) i ((presents x.1).map fun p =>
        { sh.lane f.imm (acts s i sid r) srcs dsts p.1 with
          va := BitVec.ofNat 64 p.2.1, pa := BitVec.ofNat 64 p.2.2.pa, entry := p.2.2.entry
          addrs := sh.capture f.imm p.1 (addrFields f off)
          ataint := sh.addrTaint f off p.1, taint := sh.addrTaint f off p.1 || srcs.any (sh.taintOf p.1) })
        (fun op => { op with hold := hold })
    let at_ (i : Instr) (off : BitVec 8) (acc : Access) (late : Bool) : List (Nat × Nat × Xlate) × State :=
      s.placeAll (sid / 64) sh (accessSize i) acc late
        ((acts s i sid r).map fun t => (t, (sh.globalAddr f off t).toNat))
    let b64 : Bool := f.xmod.toNat % 2 == 1
    (Issues s (.ldk f) sid r → fits (.ldk f) (at_ (.ldk f) f.b .load false) →
      Goes s (.ldk f) sid (go (.ldk f) f.b [if f.xmod.toNat / 2 % 2 = 1 then f.c else 0xF0]
        (regRun f.d (groupRegs b64)) false (at_ (.ldk f) f.b .load false))) ∧
    (Issues s (.stk f) sid r → acts s (.stk f) sid r ≠ [] → fits (.stk f) (at_ (.stk f) f.e .store true) →
      Waits s (.stk f) sid (go (.stk f) f.e (dataFields f.b (if b64 then 2 else 1) ++ pairFields f.c) [f.d] true
        (at_ (.stk f) f.e .store true))) ∧
    (Issues s (.rcn f) sid r → acts s (.rcn f) sid r ≠ [] → fits (.rcn f) (at_ (.rcn f) f.b .atomic false) →
      Waits s (.rcn f) sid (go (.rcn f) f.b [] (regRun f.d (groupRegs (f.xmod.toNat / 16 % 2 == 1))) true
        (at_ (.rcn f) f.b .atomic false))) ∧
    GlobalCompletes (.ldk f) f f.b .load false true false ∧ GlobalCompletes (.stk f) f f.e .store true true true ∧
    GlobalCompletes (.rcn f) f f.b .atomic false true true

/-- R277, R310, R313, R314: GLOBAL_ACCESS_PERFORMED on a lane of a plural instruction whose turn has come, no store of its
core to the bytes being on the way: `ldk` gives the lane the
group of its sibling, `rcn` collapses the cell first, and `stk` writes the cell and answers the result word, or the
sub-code
of its plural fault; lines of the core that hold the cell are dropped.  Sets that the manual leaves undefined are made so
first (`unsettle`, the model's choice, log entry 90). -/
def Claims.PluralPerformed : Prop :=
  ∀ (s : State) (o t : Nat) (op : LongOp) (ln : Lane) (f : Fields) (c : PRegion),
    s.ops.get o = some op → op.lanes.find? (fun l => l.thread = t && !l.done) = some ln →
    s.mayApply o op ln = true → s.open_ (some op.core) ln.leaf = true →
    (∀ l ∈ op.lanes, l.thread < ln.thread → l.key = ln.key → l.done = true) →
    s.storesPend op.core ln.key (accessSize op.instr) = false →
    let pa := ln.pa.toNat
    let n := accessSize op.instr
    let q := (s.unsettle (s.ctx op.ctx) ln.leaf n).modCore op.core fun k => k.dropLines pa n
    q.pregion (q.ctx op.ctx) pa = some c → (q.homeLoad (q.ctx op.ctx) ln.leaf n).2 = false →
    let x := q.landSrcs op.sid ln.thread ln.srcs
    (op.instr = .ldk f → exec (.globalAccessPerformed o t) s =
      .next ((x.2.landDsts o op.sid ln f.d (groupVals (n == 8) pa (q.pcell c pa n) (x.1.getD 0 0).toNat)).finishLane o ln.thread)) ∧
    (op.instr = .rcn f →
      let q := q.collapse c pa n (f.xmod.toNat % 16)
      exec (.globalAccessPerformed o t) s =
        .next ((q.landDsts o op.sid ln f.d (groupVals (n == 8) pa (q.pcell c pa n) 0)).finishLane o ln.thread)) ∧
    (op.instr = .stk f →
      let v := leNat (wordsBytes (x.1.take (n / 4)))
      exec (.globalAccessPerformed o t) s = .next
        ((match x.2.stkHome c pa n v (x.1.getD (n / 4) 0) (x.1.getD (n / 4 + 1) 0) with
          | .ok y => y.2.landDsts o op.sid ln f.d [y.1]
          | .error k => x.2.laneFault o ln.thread 7 k pa).finishLane o ln.thread))

/-- R306 to R308, R314: a blind write to a cell that has room adds one sibling with the next sequence value as its dot and
keeps the others.  A cell of fewer than sixteen has room where at most four siblings stand after the write, or it holds a
pool entry, or one of its region's pool is free; without a free entry it refuses with sub-code 6, a cell of sixteen with
sub-code 1. -/
def Claims.SiblingsAdded : Prop :=
  ∀ (s : State) (r : PRegion) (pa size v : Nat) (c : PCell) (keep : List (Nat × Nat)),
    let room : Prop := keep.length < 4 ∨ c.spill ≠ 0 ∨ ∃ e < r.pooln, s.mem.read (r.pool + 256 * e + 192) = 0
    (16 ≤ keep.length → s.addSibling r pa size c keep v = .error 1) ∧
    (keep.length < 16 → ¬ room → s.addSibling r pa size c keep v = .error 6) ∧
    (keep.length < 16 → room → ∃ t c', s.addSibling r pa size c keep v = .ok (t, c') ∧
      c'.seq = (c.seq + 1) % 2 ^ 24 ∧ c'.sibs = keep ++ [((c.seq + 1) % 2 ^ 24, v % 2 ^ (8 * size))] ∧
      c'.sibs.length ≤ 16)

/-! ### Links and accesses from outside (R288 to R290, R450 to R452) -/

/-- R288: the acknowledgement of a posted store takes it out of its port, where the link is up; one that has not been
performed at the peer, and is the first of its core's stores to those bytes, is performed then. -/
def Claims.PeerWritesAcknowledged : Prop :=
  ∀ (s : State) (n d : Nat) (b : BaseDie) (p : Posted),
    s.bases.find? (fun b => (b.2.posted.get n).isSome) = some (d, b) → b.posted.get n = some p →
    s.linkUp p.pkg = true → (p.performed = true ∨ b.firstPosted n p = true) →
    exec (.peerWriteAcknowledged n) s =
      .next (((if p.performed then s else s.performPosted p).modBase d fun b =>
        { b with posted := b.posted.del n }).finishApplied n)

/-- R288, R452: a release that has waited for a port's acknowledgements as long as the retrain limit allows ends
its wait
for that port with a link-loss record; a lane of a load or an atomic whose link is down receives undefined
values, and the fault 0x14 is raised. -/
def Claims.LinkLoss : Prop :=
  (∀ (s : State) (sid d : Nat) (r : ClauseRun) (w : RelWait),
    let sh := s.sheaf sid
    sh.run = some r → r.rel = some w → s.expiredPort (sid / 64) sh.ctx sh.wg w = some d →
    exec (.retrainLimitExpiry sid) s = .next
      ((s.loseLink sid sh.ctx d sh.gen (wordAddr r.pc (some r.k)) (s.wordActors sid r)).modSheaf sid fun sh =>
        { sh with run := sh.run.map fun r => { r with rel := r.rel.map (·.settle d) } })) ∧
  (∀ (s : State) (o : Nat) (op : LongOp) (ln : Lane) (f : Fields) (d : BitVec 8),
    s.ops.get o = some op →
    (op.instr = .ld f ∨ op.instr = .ldCon f ∨ op.instr = .ldAcq f ∨ op.instr = .atom f ∨ op.instr = .atomCas f) ∧ d = f.d ∨ op.instr = .red f ∧ d = 0xF0 →
    op.lanes = [ln] → ln.done = false → ln.leaf.ca = 3 → s.linkDown ln.leaf.peer = true → s.mayApply o op ln = true →
    let x := s.undefs (regsOf (accessSize op.instr))
    exec (.linkLossFault o ln.thread) s = .next
      ((((x.2.landDsts o op.sid { ln with taint := ln.taint || decide (op.instr = .ldCon f) } d x.1).acquired op.core op.ctx (acqScope op.instr)).finishLane o ln.thread).lateFault
        op 0x14 0 [ln.thread] ln.va.toNat))

/-- R451, R452: a port that is enabled changes its state, and interrupt bit 4 is set; the loss of the last link
between
the dies is the context fault 0x13 in every loaded context. -/
def Claims.LinkStates : Prop :=
  (∀ (s : State) (port st narrow : Nat), port < 2 → st < 4 → (s.base port).port.en = true →
    ((s.base port).port.state ≠ st ∨ (s.base port).port.narrow ≠ decide (narrow ≠ 0)) →
    exec (.peerLinkStateChange port st narrow) s = .next ((s.modBase port fun b =>
      { b with port := { (s.base port).port with state := st, narrow := decide (narrow ≠ 0) } }).interrupt 4)) ∧
  (∀ (s : State) (link : Nat), s.regs.ucie.getD link false = true →
    let q := (s.modRegs fun r => { r with ucie := r.ucie.set link false }).interrupt 4
    exec (.ucieLinkFailure link) s = .next (if q.regs.ucie.any id then q else
      q.ctxs.keys.foldl (fun s n => s.contextFault n { code := 0x13 } none) q))

/-- R288, R450: a store from a peer or an application core to GDDR 7 through an ordinary mapping is performed at
its home;
a load changes nothing. -/
def Claims.OutsideAccesses : Prop :=
  ∀ (s : State) (pa size data cmp : Nat), s.inGddr pa size = true → pa < windowBase →
    exec (.peerAccessRequest 1 pa size data) s =
      .next (s.homeStore (s.ctx 0) { pa := pa, entry := 0 } (natBytes size data)) ∧
    exec (.applicationCoreAccess 1 pa size data cmp) s =
      .next (s.homeStore (s.ctx 0) { pa := pa, entry := 0 } (natBytes size data)) ∧
    exec (.peerAccessRequest 0 pa size data) s = .next s ∧
    exec (.applicationCoreAccess 0 pa size data cmp) s = .next s

/-! ### Byte memories -/

/-- A byte memory in canonical form reads at every address what was last stored there, and stays canonical; two
canonical
memories that read alike everywhere are equal.
It rests on what the model chose or read by inference in log entry 4. -/
def Obligations.MemoryLaws : Prop :=
  (∀ (m : Memory) (a b : Nat) (x : Byte), m.wf = true →
    (m.write a x).wf = true ∧ (m.write a x).read b = if b = a then x else m.read b) ∧
  (∀ m n : Memory, m.wf = true → n.wf = true → (∀ a, m.read a = n.read a) → m = n)

/-! ### Ring store (R318 to R328) -/

/-- R323 to R325: a bank that is lost has its LOST bit set with interrupt bit 3, and a rotation that uses it ends; a
thermal request names its bank and sets interrupt bit 2; a rotation begins with the busiest bank of the 4 ms before
when its
time has come and the spare is not lost, and ends with the map switched to the spare and the old bank as the new
spare. -/
def Claims.BanksAndRotation : Prop :=
  ∀ (s : State) (d b : Nat), d < 2 →
    let r := (s.base d).ring
    (b < 256 → r.avail.getLsbD b = true →
      exec (.bankLost d b) s = .next ((s.modRing d fun r =>
        let rot := if r.rotating = some b ∨ r.spare = b then none else r.rotating
        { r with lost := r.lost ||| BitVec.ofNat 256 (2 ^ b), rotating := rot }).interrupt 3)) ∧
    (r.avail.getLsbD b = true → exec (.thermalRetirementRequest d b) s =
      .next ((s.modRing d fun r => { r with thermal := r.thermal ||| BitVec.ofNat 256 (2 ^ b) }).interrupt 2)) ∧
    (r.rot = true → r.busy = false → r.rotating = none → r.nextRot ≤ s.now → r.lost.getLsbD r.spare = false →
      exec (.bankRotation d) s = .next (s.modRing d fun r =>
        { r.roll s.now with rotating := (r.roll s.now).busiest, nextRot := 4000000 * (s.now / 4000000 + 1) })) ∧
    (r.rotating = some b → ∃ t, exec (.rotationCopyEnd d) s = .next t ∧
      (t.base d).ring.map = r.map.map (fun x => if x = b then r.spare else x) ∧ (t.base d).ring.spare = b ∧
      (t.base d).ring.rotating = none)

/-- R322, R323: a remapping step whose parameters are accepted holds the ring work of its die and takes NEWMAP as
its
target; one that is refused answers the reason in RES; its end makes the target the map, empties LOST and ends the
hold. -/
def Claims.RemappingSteps : Prop :=
  ∀ (s : State) (d : Nat),
    let r := (s.base d).ring
    (r.go = true → r.busy = false → r.refuses = 0 → exec (.remappingStep d) s =
      .next (s.modRing d fun r => { r with busy := true, hold := true, target := r.newmap })) ∧
    (r.go = true → r.busy = false → r.refuses ≠ 0 → exec (.remappingStep d) s =
      .next (s.modRing d fun r => { r with go := false, res := BitVec.ofNat 2 r.refuses })) ∧
    (r.busy = true → r.rotating = none → ∃ t, exec (.remappingStepEnd d) s = .next t ∧
      (t.base d).ring.avail = r.target ∧ (t.base d).ring.lost = 0 ∧ (t.base d).ring.hold = false ∧
      (t.base d).ring.busy = false ∧ (t.base d).ring.go = false ∧ (t.base d).ring.res = 0)

/-- R327: a transfer that succeeds after 1 to 4 retries counts them in BRETRY, held at its largest value, and is
logged at
the next place of the bus log; no lane is swapped. -/
def Claims.ParityRetries : Prop :=
  ∀ (s : State) (d ch group tries : Nat), d < 2 → ch < 32 → group < 18 → 1 ≤ tries → tries ≤ 4 →
    let r := (s.base d).ring
    ((r.swap.get ch).getD (false, 0)).1 = false → ((r.swap.get ch).getD (false, 0)).2 ≤ 4 →
    ∃ t, exec (.transferParityRetry d ch group tries 0 0) s = .next t ∧
      (t.base d).ring.bretry.toNat = min (r.bretry.toNat + tries) (2 ^ 32 - 1) ∧
      (t.base d).ring.bnext = r.bnext + 1 ∧ (t.base d).ring.lost = r.lost ∧
      (t.base d).ring.swap.get ch = some (false, ((r.swap.get ch).getD (false, 0)).2)

/-! ### Retirement and the scoreboard (R356 to R364) -/

/-- R359: `tile.ret` closes edge K, or with `.all` every edge, in its active threads once the release at team scope
may be
made and no drain of the edge is held. -/
def Claims.TileRetCloses : Prop :=
  ∀ (f : Fields) s sid r, Issues s (.tileRet f) sid r → acts s (.tileRet f) sid r ≠ [] →
    let w := (s.sheaf sid).wg
    let n := s.edgeCount w
    let all : Bool := f.xmod.toNat / 32 % 2 == 1
    let k := f.xmod.toNat % 32
    let ks := if all then List.range n else [k]
    let m : BitVec 24 := ks.foldl (fun m k => m ||| BitVec.ofNat 24 (2 ^ k)) 0
    let new := (acts s (.tileRet f) sid r).foldl
      (fun (x : BitVec 24) t => x ||| (m &&& ~~~ ((s.sheaf sid).thread t).closed)) 0
    (s.wg w).forTile = true → (all = true → k = 0) → (all = false → k < n) →
    s.fenceOk sid (acts s (.tileRet f) sid r) 3 = true → s.drainHeld w ks = false →
    Goes s (.tileRet f) sid ((s.modSheaf sid fun sh => (acts s (.tileRet f) sid r).foldl (fun sh t =>
      sh.modThread t fun th => { th with closed := th.closed ||| m }) sh).leaderRet w new)

/-- The base dies that the present word of a sheaf asks answer its core now: they are its own, or a UCIe link stands (R5,
R451). -/
def Near (s : State) (sid : Nat) (dies : List Nat) : Prop := ∀ d ∈ dies, s.joins (some (baseOfCore (sid / 64))) d = true

/-- The controllers on the base dies `dies` have answered the present word, which asked them `least` core cycles ago or
earlier; where no guard holds nothing is asked (R366, R388). -/
def Answered (s : State) (sid : Nat) (act : List Nat) (least : Nat) (dies : List Nat) : Prop :=
  act = [] ∨ Near s sid dies ∧ ∃ r n, (s.sheaf sid).run = some r ∧ r.asked = some n ∧ n + least ≤ s.time.core

/-- The present word has asked now, and waits. -/
def NowAsked (s : State) (sid : Nat) : State :=
  s.modSheaf sid fun sh => { sh with run := sh.run.map fun r => { r with asked := some s.time.core } }

/-- R366, R477: `rs.q` asks the ring-store controller at its first attempt, and waits at issue for 200 core cycles; then it
writes the state, pin and counts of a transient ring tile in every lane; with `.fill` it asks for the tile's bytes to be
landed in a staging tile, which starts filling, and a tile that is free or unwritten is a transient miss in the same step,
but for a context that has halted. -/
def Claims.RingQueries : Prop :=
  ∀ (f : Fields) s sid r, Issues s (.rsQ f) sid r →
    let w := (s.sheaf sid).wg
    let n := (s.wg w).graph
    let g := s.graph n
    let l := acts s (.rsQ f) sid r
    let res (t : Nat) : Nat := ((s.sheaf sid).read f.imm t f.a).toNat
    let idx (t : Nat) : Nat := ((s.sheaf sid).read f.imm t f.b).toNat
    (f.xmod.toNat % 2 = 0 → (∀ t ∈ l, g.queryOk (res t) (idx t) = true) →
      let dies := l.map fun t => (g.res (res t)).die
      (l ≠ [] → Near s sid dies → r.asked = none → Waits s (.rsQ f) sid (NowAsked s sid)) ∧
      (Answered s sid l 200 dies →
        Goes s (.rsQ f) sid (s.writeLanes sid f.d 1 (l.map fun t =>
          ⟨t, [(g.query (res t) (idx t), (s.sheaf sid).taintOf t f.a || (s.sheaf sid).taintOf t f.b)], 0⟩)))) ∧
    (f.xmod.toNat % 2 = 1 → l ≠ [] →
      let k := f.xmod.toNat / 2 % 32
      let q := s.flushScratch (sid / 64) false
      let ld := l.headD 0
      let e := res ld
      let i := idx ld
      let dies := [(g.res e).die]
      k < (s.wg w).tiles.length → Settled s (sid / 64) false →
      g.queryOk e i = true → (q.tile w k).matches (g.res e) = true →
      ((q.run sid).asked = none → Near q sid dies → Waits s (.rsQ f) sid (NowAsked q sid)) ∧
      (Answered q sid l 200 dies →
        let q1 := { q with next := q.next + 1 }
        let fill : RingFill := RingFill.mk w k e i false (q.wordPc sid).toNat
        let q2 := (q1.modTileN w k fun t =>
          { t with state := .filling, pend := BitVec.ofNat 20 t.fillB, uses := t.uses + 1 }).modGraph n fun g =>
            { g with fills := g.fills.put q.next fill }
        let st := ((q2.graph n).ringTile e i).st
        Goes s (.rsQ f) sid (if (st = .free ∨ st = .unwritten) ∧ q2.halted (q2.graph n).ctx = false then
          q2.missFill n q.next fill (if st = .free then 1 else 2) else q2)))

/-- R355 to R358: a pass enters when every earlier pass has entered and those 64 and more before it have retired; a
tile of
an entered pass is released when every edge of it is satisfied, and with it, in pass and tile order, every other
such tile
of the scoreboard of its home. -/
def Claims.PassesAndReleases : Prop :=
  ∀ (s : State) (n p t : Nat),
    let g := s.graph n
    g.stage = .admitted → p < g.passes.length →
    ((g.run p).entered = false →
      (∀ q < p, (g.run q).entered = true ∧ (q + 64 ≤ p → (g.run q).retired = true)) →
      exec (.passEntry n p) s = .next (s.modPassRun n p fun r => { r with entered := true })) ∧
    ((g.run p).entered = true → (g.pass p).kind = 0 → t < (g.pass p).count → (g.run p).tiles.get t = none →
      g.satisfied p t = true →
      exec (.tileRelease n p t) s = .next (((List.range g.passes.length).filter fun q => (g.pass q).home = (g.pass p).home).foldl
        (fun s q => ((List.range (g.pass q).count).filter (g.releasable q)).foldl (fun s u => s.releaseTile n q u) s) s)) ∧
    (g.trail = false → s.releaseTile n p t = s.modPassRun n p fun r =>
        { r with released := true, tiles := r.tiles.put t TileRun.reset })

/-- R333, R358: TILE_DISPATCH dispatches the first tile of the unit's order whose outputs can all be reserved; one
with no
transient output needs none. -/
def Claims.TilesDispatch : Prop :=
  (∀ (s : State) (pods key n p t : Nat) (l : Tab (Nat × Nat × Nat)), s.dispatchOrder pods = (key, n, p, t) :: l →
    (∀ e ∈ (s.graph n).outs p, ((s.graph n).res e.res).cls ≠ 1) → (s.graphs.get n).isSome = true →
    ∃ q, exec (.tileDispatch pods) s = .next ((q.modTile n p t fun r => { r with board := .dispatched }).modLaunch pods
      fun u => { u with tiles := u.tiles ++ [(n, p, t)] }) ∧ q = { s with graphs := s.graphs.put n (s.graph n) }) ∧
  ∀ (s : State) (pods key n p t : Nat) (l : Tab (Nat × Nat × Nat)) (g : Graph),
    s.dispatchOrder pods = (key, n, p, t) :: l → s.outsHeld (s.graph n) p = false →
    (s.graph n).reserve p t = some g →
    let q := { s with graphs := s.graphs.put n g }
    exec (.tileDispatch pods) s = .next
      ((q.modTile n p t fun r => { r with board := .dispatched }).modLaunch pods fun u =>
        { u with tiles := u.tiles ++ [(n, p, t)] })

/-- R379: TEAM_PLACEMENT places the next team of the unit's first tile that no halt holds, where it can be placed. -/
def Claims.TeamsPlaced : Prop :=
  ∀ (s : State) (pods n p t : Nat) (r : TileRun) (l : List Seat),
    s.placing pods = false → (∀ b ∈ (s.launchUnit pods).batches, s.halted (s.graph b.1).ctx = true) →
    (s.launchUnit pods).tiles.find? (fun x => !s.halted (s.graph x.1).ctx) = some (n, p, t) →
    s.tileRun n p t = some r → (s.newTeam n p t r.placed).2.findSeats (s.newTeam n p t r.placed).1 = some l →
    let q := l.foldl (fun s x => s.modWg x.wg fun g => { g with core := x.core }) (s.newTeam n p t r.placed).2
    let q1 := q.modTile n p t fun x =>
      { x with placed := x.placed + 1, wgs := x.wgs ++ (s.newTeam n p t r.placed).1 }
    exec (.teamPlacement pods) s = .next (if r.placed + 1 = ((q1.graph n).pass p).teams then
      q1.modLaunch pods fun u => { u with tiles := u.tiles.erase (n, p, t) } else q1)

/-- R88, R90, R99, R100: a team whose seats are free is admitted; the sheaves of a primed team start; a sheaf whose
threads
have all exited and which has nothing unfinished leaves its slot; a workgroup that has ended retires and its stores
are
emptied. -/
def Claims.WorkgroupLife : Prop :=
  ∀ (s : State) (w : Nat), (s.wgs.get w).isSome = true →
    let q := s.wg w
    (∀ l, q.stage = .placed → s.findSeats (s.teamOf w) = some l →
      s.powerAllows (baseOfCore ((l.map (·.core)).headD 0)) = true →
      let a := (l.foldl (fun s x => s.enter x) s).noIncoming (s.teamOf w)
      let b := if (l.map (·.slot)).headD none = none then
          a.modLaunch ((a.graph q.graph).unit_ q.pass) fun u => { u with last := (l.head?).map fun x => x.core / 2 }
        else a
      b.regs.hold = false → exec (.workgroupAdmission w) s = .next b) ∧
    ((∀ v ∈ s.teamOf w, (s.wg v).stage = .primed) → s.halted q.ctx = false → q.work = .tile →
      s.startsLater w (s.teamOf w) = false →
      let d := baseOfCore q.core
      (∀ c, ((s.graph q.graph).run q.pass).lastStart.get d = some c →
        c + s.staggerOf ((s.graph q.graph).pass q.pass) ≤ s.time.core) →
      let a := (s.teamOf w).foldl (fun s v => s.startWg v) s
      exec (.sheafStart w) s = .next (a.modPassRun q.graph q.pass fun r =>
        { r with lastStart := r.lastStart.put d a.time.core })) ∧
    (s.wgEnded w = true →
      let bank := bankBytes (((s.core q.core).fmt.get q.ctx).getD [])
      exec (.workgroupRetire w) s = .next ((((((s.giveFrame w).freeRecs q.ctx q.owned).modWg w fun q =>
        { q with stage := .retired, scratch := [], tiles := [], thr := [], acc := [], owned := [] }).saveBank
          q.core q.ctx bank).workEnded q).forgetGraph q.graph))

/-- R99, R186, R214: a sheaf retires when every thread has exited, every flag and tag counter is 0, its operand
token is
clear with every consumed one read, and nothing that it issued is unfinished. -/
def Claims.SheavesRetire : Prop :=
  ∀ (s : State) (sid : Nat), (s.sheaves.get sid).isSome = true → (s.sheaf sid).threads ≠ [] →
    (∀ th ∈ (s.sheaf sid).threads, th.st = .exited) → (∀ n ∈ (s.sheaf sid).flags, n = 0) →
    (∀ n ∈ (s.sheaf sid).tags, n = 0) → (s.sheaf sid).token = false → s.tokenBusy sid = false →
    (∀ p ∈ s.ops, p.2.sid ≠ sid) →
    ∃ t, exec (.sheafRetire sid) s = .next t ∧ t.sheaves.get sid = none ∧
      (∀ k, k ≠ sid → t.sheaves.get k = s.sheaves.get k) ∧ t.mem = s.mem

/-- R331, R356, R359 to R364, R387: the ends of edges, drains, tiles, notices, nodes, graphs and reads.  A drain
whose
staging tile is ready begins; one whose tile has been released ends with the resource tile unwritten; one that has
begun
writes the tile's bytes to the slot. -/
def Claims.RetirementEvents : Prop :=
  ∀ (s s' : State) (n p t k : Nat),
    let g := s.graph n
    (∀ e r, (g.outs p)[k]? = some e → s.tileRun n p t = some r → r.board = .running → r.done_.getLsbD k = false →
      r.placed = (g.pass p).teams → (∀ w ∈ r.wgs, s.closedIn w k = true) → (g.res e.res).cls ≠ 1 →
      exec (.edgeDone n p t k) s = .next ((s.modTile n p t fun r => { r with
        done_ := r.done_ ||| BitVec.ofNat 24 (2 ^ k)
        drained := r.drained ||| BitVec.ofNat 24 (2 ^ k) }).checkDraining n p t)) ∧
    (∀ e r, (g.outs p)[k]? = some e → s.tileRun n p t = some r → r.done_.getLsbD k = true → r.drained.getLsbD k = false →
      (s.wg r.lead).resident = true → r.begun.getLsbD k = false →
      ((s.tile r.lead e.tile).kind = 1 → (s.tile r.lead e.tile).state = .ready → exec (.drainComplete n p t k) s = .next
        ((s.modTileN r.lead e.tile fun x => { x with state := .draining, pend := BitVec.ofNat 20 x.fillB }).modTile n p t
          fun r => { r with begun := r.begun ||| BitVec.ofNat 24 (2 ^ k) })) ∧
      ((s.tile r.lead e.tile).kind ≠ 1 → exec (.drainComplete n p t k) s = .next
        (((s.modGraph n fun g => g.unwrite e.res t).modTile n p t fun r => { r with
          drained := r.drained ||| BitVec.ofNat 24 (2 ^ k) }).retryHeld n))) ∧
    (∀ e r, (g.outs p)[k]? = some e → s.tileRun n p t = some r → r.done_.getLsbD k = true → r.drained.getLsbD k = false →
      (s.base (g.res e.res).die).ring.hold = false → (s.wg r.lead).resident = true → r.begun.getLsbD k = true →
      (s.tile r.lead e.tile).state = .draining → (s.drainTo n e.res t r.lead e.tile).1 = some s' →
      exec (.drainComplete n p t k) s = .next (((s'.modGraph n fun g => g.drained e.res t).modTile n p t fun r =>
        { r with drained := r.drained ||| BitVec.ofNat 24 (2 ^ k) }).retryHeld n)) ∧
    (∀ r, s.tileRun n p t = some r → r.stream = none →
      ((g.outs p).length = 0 ∧ r.board = .running ∧ r.placed = (g.pass p).teams ∧ r.ended = r.wgs.length ∨
        (g.outs p).length ≠ 0 ∧ r.board = .draining ∧ ∀ i < (g.outs p).length, r.drained.getLsbD i = true) →
      let q := (s.modTile n p t fun r => { r with board := .retired }).tellRetire n p t
      let x := q.passRun n p
      exec (.tileRetire n p t) s = .next (if x.tiles.length = (g.pass p).count ∧
        x.tiles.all (fun q => q.2.board == .retired) = true then q.passRetired n p else q)) ∧
    (∀ x l, k < 2 → (s.base k).notices = x :: l → x.tile = wholePass →
      exec (.retireNotice k 0) s = .next (((s.modBase k fun b => { b with notices := l }).modPassRun x.graph x.pass
        fun r => r.learn k x.tile).formAll x.graph)) ∧
    (g.stage = .admitted → p < g.passes.length → (g.pass p).kind = 1 → (g.run p).entered = true →
      (g.run p).retired = false → g.fed p = true → (g.run p).queue = [] → (g.run p).coming = [] → (g.run p).live = 0 →
      exec (.nodeRetire n p) s = .next ((s.tellRetire n p wholePass).passRetired n p)) ∧
    (∀ gr, s.graphs.get n = some gr → gr.stage = .admitted → gr.runs.all (·.retired) = true → gr.chains = [] →
      let q := ((((s.freeExtents n).modGraph n fun g => { g with
        stage := .retired, resv := [], owing := some g.doneval }).payCompletion n).stampRetired gr)
      exec (.graphRetire n) s = .next ((q.modRegs fun r =>
        if r.ttGraph = some n then { r with ttGraph := none } else r).forgetGraph n)) ∧
    (∀ x res i, p < 2 ^ 10 → t < 2 ^ 14 → res < 2 ^ 10 → i < 2 ^ 14 → s.tileRun n p t = some x →
      g.stage = .admitted → (g.res res).cls = 1 → i ∈ g.reads p t res → (res, i) ∉ x.reads →
      x.placed = (g.pass p).teams → (∀ w ∈ x.wgs, s.released w res i (g.stagedRead p t res i) = true) →
      exec (.readEnd n (i + res * 2 ^ 14 + t * 2 ^ 24 + p * 2 ^ 38)) s = .next
        (((s.modTile n p t fun x => { x with reads := (res, i) :: x.reads }).modGraph n fun g =>
          g.endRead res i).retryHeld n))

/-- R170, R335 to R341, R387: fills from the rings, recipes and batches: a fill whose ring and workgroup are there
is
served; a dropped tile that is demanded starts its chain; a launchable chain takes a slot and makes a workgroup; a
chain
whose workgroup has closed its edge without a bound tile ends; BATCH_TIMEOUT forms the batches that are due.
It rests on what the model chose or read by inference in log entries 29, 30, 35 and 46. -/
def Obligations.FillsRecipesBatches : Prop :=
  ∀ (s : State) (n k : Nat),
    let g := s.graph n
    (∀ gr q, s.graphs.find? (fun g => (g.2.fills.get k).isSome) = some (n, gr) → gr.fills.get k = some q →
      s.onHold gr.ctx q.held = false → (s.base (gr.res q.res).die).ring.hold = false → (s.wg q.wg).resident = true →
      s.joins (some (gr.res q.res).die) (baseOfCore (s.wg q.wg).core) = true →
      exec (.ringFillComplete k) s = .next (s.serveFill n k q)) ∧
    (∀ r t d, g.stage = .admitted → (g.res r).cls = 1 → (g.ringTile r t).st = .dropped → s.demand n r t = some d →
      exec (.recipeGather n r t) s = .next (s.startChain n r t d)) ∧
    (∀ c i core, g.chains.get k = some c → g.stage = .admitted → s.launchable n c = true →
      (∀ d ∈ g.chains, d.1 < k → s.launchable n d.2 = true → g.groupOf d.2 ≠ g.groupOf c) →
      s.recipeSlot n (g.groupOf c) = some (i, core) →
      let q := { s with next := s.next + 1 }
      exec (.recipeLaunch n k) s = .next ({ q with wgs := q.wgs.put s.next (q.newSlice n c i core) }.modChain n k
        fun c => { c with launched := some s.next })) ∧
    (∀ c w, g.chains.get k = some c → c.launched = some w → s.closedIn w 0 = true → s.onHold g.ctx c.held = false →
      c.ret = false → exec (.recipeDrained n k) s = .next
        (((s.dropChain n k).modGraph n fun g => g.unwrite (g.recipe c.recipe).target c.tile).retryHeld n)) ∧
    (∀ p, exec (.batchTimeout n p) s = .next ((List.range ((s.passRun n p).queue.length + 1)).foldl
      (fun s _ => s.formBatch n p) s))

/-! ### Records (R385 to R391, R415) -/

/-- The node of an allocation is a record node of the graph that the pass of workgroup `w` feeds, and `w` is no recipe
slice (R389). -/
def FeedsNode (s : State) (w n : Nat) : Prop :=
  let q := s.wg w
  let g := s.graph q.graph
  (∀ k, q.work ≠ .recipe k) ∧ n < g.passes.length ∧ (g.pass n).kind = 1 ∧
    ∃ e ∈ g.edgesOf n, e.dir = 2 ∧ e.prod = q.pass

/-- R388: a record instruction that acts waits at issue at its first attempt, which asks the dies `dies`. -/
def Asks (s : State) (i : Instr) (sid : Nat) (r : ClauseRun) (dies : List Nat) : Prop :=
  Issues s i sid r → acts s i sid r ≠ [] → r.asked = none →
    (∀ t ∈ acts s i sid r, ∀ x, FreeOf s sid t x) → s.fenceOk sid (acts s i sid r) 3 = true → Near s sid dies →
    Waits s i sid (NowAsked s sid)

/-- R386, R388 to R390: the record instructions complete, once their pool or node has answered: `rec.alloc` gives
each lane a handle of a node that its workgroup
may feed, or RETRY; `rec.put` stores in the payload of owned records, and has no effect for a handle with RETRY;
`rec.commit` queues owned records after the release at team scope; `rec.get` reads the payload of a record of the
batch;
`rec.count` counts the batch, or with `.free` the free entries of the pool.
It rests on what the model chose or read by inference in log entries 47, 48 and 88. -/
def Obligations.RecordInstructions : Prop :=
  ∀ (f : Fields) s sid r,
    let sh := s.sheaf sid
    let w := sh.wg
    let q := s.wg w
    let n := wideRegs (f.xmod.toNat % 4)
    let h (t : Nat) : BitVec 32 := sh.read f.imm t f.a
    let o (t : Nat) : Nat := (sh.read f.imm t f.b).toNat
    let live (l : List Nat) : List Nat := l.filter fun t => !(h t).getLsbD 31
    let pa (t : Nat) : Nat := s.recPa q.ctx ((q.batch.getD []).getD (h t).toNat 0) + o t
    let allocDies := (acts s (.recAlloc f) sid r).map fun t => s.nodeHome w ((h t).toNat % 2 ^ 8)
    let putDies := (live (acts s (.recPut f) sid r)).map fun t => homeDie (s.recPa sh.ctx (h t) + o t)
    let commitDies := (live (acts s (.recCommit f) sid r)).map fun t => (h t).toNat / 2 ^ 30 % 2
    let getDies := (acts s (.recGet f) sid r).map fun t => homeDie (pa t)
    Asks s (.recAlloc f) sid r allocDies ∧ Asks s (.recPut f) sid r putDies ∧ Asks s (.recCommit f) sid r commitDies ∧
    Asks s (.recGet f) sid r getDies ∧
    (Issues s (.recAlloc f) sid r → Answered s sid (acts s (.recAlloc f) sid r) 100 allocDies →
      (∀ t ∈ acts s (.recAlloc f) sid r, FeedsNode s w ((h t).toNat % 2 ^ 8)) →
      let x := s.allocRecs w ((acts s (.recAlloc f) sid r).map fun t => (t, (h t).toNat % 2 ^ 8))
      Goes s (.recAlloc f) sid (x.2.writeLanes sid f.d 1 (x.1.map fun p => ⟨p.1, [(p.2, sh.taintOf p.1 f.a)], 0⟩))) ∧
    (Issues s (.recPut f) sid r → Answered s sid (acts s (.recPut f) sid r) 100 putDies →
      (∀ t ∈ acts s (.recPut f) sid r, FreeOf s sid t (sh.taintOf t f.a || sh.taintOf t f.b)) →
      (∀ t ∈ live (acts s (.recPut f) sid r), ∃ x, s.ownedRec w (h t) = some x ∧ o t % (4 * n) = 0 ∧
        o t + 4 * n ≤ (s.graph q.graph).payload x.node) →
      Goes s (.recPut f) sid ((live (acts s (.recPut f) sid r)).foldl (fun s' t =>
        s'.putRec (issueOf s (.recPut f) sid r) w t (s.recPa sh.ctx (h t) + o t)
          (wordsBytes ((dataFields f.c n).map (sh.read f.imm t)))) s)) ∧
    (Issues s (.recCommit f) sid r → s.fenceOk sid (acts s (.recCommit f) sid r) 3 = true →
      Answered s sid (acts s (.recCommit f) sid r) 100 commitDies →
      let l := ((acts s (.recCommit f) sid r).map fun t => (t, h t)).filter fun p => !p.2.getLsbD 31
      (l.map (·.2)).Nodup → (∀ p ∈ l, (s.ownedRec w p.2).isSome = true) →
      Goes s (.recCommit f) sid (l.foldl (fun s p => s.commitRec w p.2) s)) ∧
    (Issues s (.recGet f) sid r → Answered s sid (acts s (.recGet f) sid r) 100 getDies →
      (∀ t ∈ acts s (.recGet f) sid r, FreeOf s sid t (sh.taintOf t f.a || sh.taintOf t f.b)) →
      let hs := q.batch.getD []
      let got (t : Nat) : List Byte × Bool := s.homeLoad (s.ctx q.ctx) { pa := pa t, entry := 0 } (4 * n)
      (∀ t ∈ acts s (.recGet f) sid r, (h t).toNat < hs.length ∧ o t % (4 * n) = 0 ∧
        o t + 4 * n ≤ (s.graph q.graph).payload q.pass ∧ s.inGddr (pa t) (4 * n) = true ∧ (got t).2 = false) →
      Goes s (.recGet f) sid (s.writeLanes sid f.d n ((acts s (.recGet f) sid r).map fun t =>
        ⟨t, (bytesWords n (got t).1).map fun x => (x, sh.taintOf t f.a || sh.taintOf t f.b), 0⟩))) ∧
    (Issues s (.recCount f) sid r →
      let out (k : Nat) : State := s.writeLanes sid f.d 1 ((acts s (.recCount f) sid r).map fun t =>
        ⟨t, [(BitVec.ofNat 32 k, false)], 0⟩)
      (f.xmod.toNat % 2 = 1 →
        Goes s (.recCount f) sid (out (s.freeEntries q.ctx (baseOfCore (sid / 64))).length)) ∧
      (∀ l, f.xmod.toNat % 2 = 0 → q.batch = some l → Goes s (.recCount f) sid (out l.length))) ∧
    (Issues s (.cont f) sid r → Settled s (sid / 64) false →
      let q := s.flushScratch (sid / 64) false
      let sh := q.sheaf sid
      let node (t : Nat) : Nat := (((sh.thread t).hit.map fun (x : Hit) => x.status).getD 0).toNat % 2 ^ 8
      let l := (acts s (.cont f) sid r).map fun t => (t, node t, sh.read f.imm t f.a)
      q.fenceOk sid (acts s (.cont f) sid r) 3 = true → Answered q sid (acts s (.cont f) sid r) 100 (l.map fun p => q.nodeHome sh.wg p.2.1) →
      (∀ t ∈ acts s (.cont f) sid r, FreeOf q sid t (sh.taintOf t f.a)) →
      (∀ p ∈ l, (sh.thread p.1).hit.isSome = true ∧ FeedsNode q sh.wg p.2.1 ∧ p.2.2.toNat % 16 = 0 ∧
        p.2.2.toNat < 2 ^ 19 ∧ p.2.2.toNat + (q.graph (q.wg sh.wg).graph).payload p.2.1 ≤ (q.wg sh.wg).size) →
      let x := l.foldl (fun (acc : List (Nat × BitVec 32) × State) p =>
        let y := acc.2.contLane (issueOf s (.cont f) sid r) sh.wg p
        (acc.1 ++ [(p.1, y.1)], y.2)) ([], q)
      Goes s (.cont f) sid (x.2.writeLanes sid f.d 1 (x.1.map fun p => ⟨p.1, [(p.2, sh.taintOf p.1 f.a)], 0⟩)))

/-! ### Graphics (R392 to R416) -/

/-- R401 to R404: `discard` makes its threads helpers, with raster state or without, where the kernel may discard;
`ddx` and `ddy` write the difference
of the quad's neighbours across and down, 0 standing for a thread that has exited; `interp` writes
A + w1 (B - A) + w2 (C - A) with the thread's weights. -/
def Claims.QuadInstructions : Prop :=
  (∀ (f : Fields) s sid r, Issues s (.discard f) sid r → (s.wg (s.sheaf sid).wg).desc.discard = true →
    Goes s (.discard f) sid (s.modSheaf sid fun sh => (acts s (.discard f) sid r).foldl (fun sh t =>
      sh.modThread t fun th => { th with
        raster := th.raster.map fun x => { x with helper := true }, bare := th.bare || th.raster.isNone }) sh)) ∧
  (∀ (f : Fields) (down : Bool) s sid r,
    let i : Instr := if down then .ddy f else .ddx f
    Issues s i sid r →
    let sh := s.sheaf sid
    let z := (s.wg sh.wg).desc.ftz
    let val (u : Nat) : Word × Bool := if (sh.thread u).st = .exited then (0, false)
      else (sh.read f.imm u f.a, sh.taintOf u f.a)
    let lo (t : Nat) : Nat := t - t % 4 + (if down then t % 2 else t % 4 / 2 * 2)
    let hi (t : Nat) : Nat := if down then lo t + 2 else lo t + 1
    (∀ t ∈ acts s i sid r, t < sh.width ∧ hi t < sh.width) → sh.threads.length = sh.width →
    ∃ q, Goes s i sid q ∧
      q = (s.writeLanes sid f.d 1 ((acts s i sid r).map fun t =>
        let x := fsubVal z .rne false (val (hi t)).1 (val (lo t)).1
        ⟨t, [(x.1, (val (hi t)).2 || (val (lo t)).2)], x.2⟩)).modSheaf sid fun sh' =>
          (acts s i sid r).foldl (fun sh' t => sh'.modThread t fun th =>
            { th with xmask := ((issueOf s i sid r).seg sh 4 t).mask }) sh') ∧
  (∀ f : Fields, LaneWrites (.interp f) f.d 1 fun z sh t =>
    let w := (sh.thread t).weights (f.xmod.toNat % 2 == 1)
    let x := interpVal z w.1 w.2 (sh.read f.imm t f.a) (sh.read f.imm t f.b) (sh.read f.imm t f.c)
    ⟨t, [(x.1, [f.a, f.b, f.c].any (sh.taintOf t))], x.2⟩)

/-- R396, R405 to R407, R412: `vism` enters flight as a 64-bit atomic; `blend` enters flight with the pixel and the
token
of each lane, after the helpers have given their shares back; `emitp` writes 0 for culled primitives and else,
where its writes succeed, what the raster unit gives it; `cov` finds an empty
stream in a workgroup that is not of a tile, and else takes what the stream gives. -/
def Claims.RasterInstructions : Prop :=
  (∀ f : Fields, GlobalIssues (.vism f) f f.e .atomic false [f.c, f.b] (regRun f.d 2) ∧
    GlobalCompletes (.vism f) f f.e .atomic false false false) ∧
  (∀ (f : Fields) s sid r, Issues s (.blend f) sid r →
    let q := s.suppress (issueOf s (.blend f) sid r) (.blend f)
    Goes s (.blend f) sid (q.launch (issueOf s (.blend f) sid r) (.blend f)
      ((acts s (.blend f) sid r).filterMap ((q.sheaf sid).blendLane f (acts s (.blend f) sid r))))) ∧
  (∀ (f : Fields) s sid r, Issues s (.emitp f) sid r →
    let sh := s.sheaf sid
    let is := issueOf s (.emitp f) sid r
    let rd (v : BitVec 8) (t : Nat) : Word := sh.read f.imm t v
    let q := s.flushScratch (sid / 64) false
    let lanes := (acts s (.emitp f) sid r).map fun t => (Emit.mk t (bytesWords 12 (q.spRead sh.wg (rd f.a t) 0 48))
      (rd f.b t).toNat (rasterOf (q.spRead sh.wg (rd f.c t) 0 64)) ([f.a, f.b, f.c].any (sh.taintOf t)))
    Settled s (sid / 64) false →
    (∀ t ∈ acts s (.emitp f) sid r, FreeOf s sid t ([f.a, f.b, f.c].any (sh.taintOf t))) →
    (∀ t ∈ acts s (.emitp f) sid r, (∃ v, ReachesBy s sh.wg (rd f.a t) 48 16 v) ∧ (rd f.c t).toNat % 16 = 0 ∧
      (rd f.c t).toNat < 2 ^ 19 ∧ (rd f.c t).toNat + 64 ≤ (s.wg sh.wg).size) →
    (∀ e ∈ lanes, e.rec_.ok = true ∧ (e.culled = true ∨ e.id < e.rec_.primn)) →
    ((∀ e ∈ lanes, e.culled = true) →
      Goes s (.emitp f) sid (q.writeLanes sid f.d 1 (lanes.map fun e => ⟨e.thread, [(0, e.taint)], 0⟩))) ∧
    ∀ g outs, emitLanes lanes (is.unit_ q is.lead) = .ok (g, outs, none) → g.poison = none →
    Goes s (.emitp f) sid (g.s.writeLanes sid f.d 1 outs)) ∧
  (∀ (f : Fields) s sid r, Issues s (.cov f) sid r → acts s (.cov f) sid r ≠ [] →
    let sh := s.sheaf sid
    let is := issueOf s (.cov f) sid r
    let a := sh.read f.imm is.lead f.a
    let q := s.flushScratch (sid / 64) false
    let bytes := q.spRead sh.wg a 0 64
    a.toNat % 16 = 0 → a.toNat < 2 ^ 19 → a.toNat + 64 ≤ (s.wg sh.wg).size → (rasterOf bytes).ok = true →
    Settled s (sid / 64) false →
    (∀ t ∈ acts s (.cov f) sid r, FreeOf s sid t (t == is.lead && sh.taintOf t f.a)) →
    let q1 := (acts s (.cov f) sid r).foldl (fun s t => s.releaseToken sid t) q
    let g := q1.wg sh.wg
    (g.work ≠ .tile → Goes s (.cov f) sid (q1.covWrite is f [] true)) ∧
    ∀ tr s', g.work = .tile → q1.tileRun g.graph g.pass g.tile = some tr → covTile is f bytes tr q1 = .done s' →
    Goes s (.cov f) sid s')

/-- R406, R407: BLEND_PERFORMED writes one lane's pixel when its token's turn has come and the read and the write
of the pixel
succeed; the lane's share is given back, and the operation completes with its last lane. -/
def Claims.BlendPerformed : Prop :=
  ∀ (s : State) (o t : Nat) (op : LongOp) (f : Fields) (ln : Lane) (tr : TileRun) (st : Stream),
    s.ops.get o = some op → op.instr = .blend f → op.lanes.find? (fun l => l.thread = t && !l.done) = some ln →
    let w := s.wg op.wg
    s.tileRun w.graph w.pass w.tile = some tr → tr.stream = some st → s.mayBlend o op ln tr = true →
    let r := rasterOf st.record
    let a := r.pixelAt (ln.pa.toNat % 2 ^ 14) (ln.pa.toNat / 2 ^ 14 % 2 ^ 14)
    let n := if r.rtHalf then 8 else 4
    let x := s.landSrcs op.sid t ln.srcs
    let g : Gfx := { s := x.2, core := op.core, ctx := op.ctx, priv := op.priv, poison := none, pc := op.pc.toNat }
    g.stuck a n = none → ∀ bs s1, x.2.engineLoad g.engine op.ctx a n op.priv = .ok (bs, false, s1) →
    let g1 := { g with s := { s1 with free := s1.free + 0 } }
    let new := blendPixel r.rtHalf (f.xmod.toNat % 8) x.1 bs
    g1.stuck a new.length = none → ∀ s2, s1.engineStore g1.engine op.ctx a new op.priv = .ok s2 →
    let q := op.laneDone t
    let s3 := if s2.opAlive op = true ∧ ((s2.sheaf op.sid).thread t).raster.bind (·.token) = some (ln.entry - 1) ∧
        ln.entry ≠ 0 then s2.releaseToken op.sid t else s2
    exec (.blendPerformed o t) s = .next (if q.allDone then (s3.modOp o fun _ => q).completeOp o
      else s3.modOp o fun _ => q)

/-- The descriptor of `n` bytes at `va` is read without poison in the unit's state `g`: the bytes and the state
after. -/
def Described (g : Gfx) (va n : Nat) (bs : List Byte) (s' : State) : Prop :=
  g.stuck va n = none ∧ g.s.engineLoad g.engine g.ctx va n true = .ok (bs, false, s')

/-- R408 to R411, R413, R414: the texture instructions whose descriptors are read and valid enter flight; `trace`
and `hit.rd`
enter flight, and `trace` gives its threads hit state. -/
def Claims.SamplingAndTracing : Prop :=
  (∀ (f : Fields) s sid r,
    let is (i : Instr) := issueOf s i sid r
    let free (i : Instr) (k : TexKind) : Prop := ∀ t ∈ acts s i sid r,
      (s.sheaf sid).taintOf t f.b = true ∨ (k ≠ .texq ∧ (s.sheaf sid).taintOf t f.c = true) →
        s.consuming sid (s.sheaf sid).gen t s.next = false
    let go (i : Instr) (k : TexKind) : Prop := Issues s i sid r → free i k →
      ∀ lanes g, texLanes k f (is i) (s.sheaf sid) (acts s i sid r) ((is i).unit_ s (is i).lead) = .ok (lanes, [], g) →
      g.poison = none →
      let q := g.s.launch (is i) i lanes
      Goes s i sid (if k = .tex ∧ f.xmod.toNat % 2 = 0 then q.modSheaf sid fun sh' =>
        (acts s i sid r).foldl (fun sh' t => sh'.modThread t fun th =>
          { th with xmask := ((is i).seg (s.sheaf sid) 4 t).mask }) sh' else q)
    let one (i : Instr) (k : TexKind) : Prop := ∀ t bs s1, Issues s i sid r → free i k → acts s i sid r = [t] →
      let g := (is i).unit_ s t
      let x := ((s.sheaf sid).read f.imm t f.b).toNat
      let y := ((s.sheaf sid).read f.imm t f.c).toNat
      x < 4096 → Described g ((s.ctx (s.sheaf sid).ctx).field 552 47 * 32 + 32 * x) 32 bs s1 →
      (texOf (bytesWords 8 bs)).ok = true →
      (k ≠ .texq → y < 256 ∧ ∃ bs2 s2, Described { g with s := { s1 with free := s1.free + 0 } }
        ((s1.ctx (s.sheaf sid).ctx).field 504 48 * 16 + 16 * y) 16 bs2 s2 ∧ (sampOf (bytesWords 4 bs2)).ok = true) →
      ∃ q n op, Goes s i sid q ∧ q.ops.get n = some op ∧ op.instr = i ∧ op.sid = sid ∧ op.lanes.map (·.thread) = [t]
    (go (.tex f) .tex ∧ go (.texg f) .texg ∧ go (.texq f) .texq) ∧
    one (.tex f) .tex ∧ one (.texg f) .texg ∧ one (.texq f) .texq) ∧
  (∀ (f : Fields) s sid r, Issues s (.trace f) sid r →
    let l := acts s (.trace f) sid r
    Goes s (.trace f) sid ((s.launch (issueOf s (.trace f) sid r) (.trace f)
      (l.map fun t => { (s.sheaf sid).lane f.imm l (regRun f.a 8 ++ dataFields f.b 2 ++ [f.c]) [f.d] t with
        ataint := (dataFields f.b 2).any ((s.sheaf sid).taintOf t) })).modSheaf sid fun sh =>
        l.foldl (fun sh t => sh.modThread t fun th => { th with hit := some (th.hit.getD default) }) sh)) ∧
  (∀ f : Fields, Launches (.hitRd f) f [] 1)

/-! ### Traps, handlers and system calls (R417 to R434) -/

/-- R424, R425, R430: a precise fault of a sheaf outside its handler parks exactly the faulting threads at the
faulting word, and the sheaf owes
a handler entry with the code, the sub-code, the mask and the address, unless it owes one already; a fault of a
sheaf
in its handler makes it owe the double fault 0x19 with the code as sub-code.
It rests on what the model chose or read by inference in log entries 8 and 9. -/
def Obligations.PreciseFaults : Prop :=
  ∀ (s : State) (sid : Nat) (who : List Nat) (pc : BitVec 64) (k code sub addr : Nat) (mask : List Nat),
    (s.sheaves.get sid).isSome = true → code < 0x10 →
    let t := s.fault sid who pc (some k) code sub mask addr
    let a := pc + BitVec.ofNat 64 (8 + 8 * k)
    (∀ u, u ∉ who → (t.sheaf sid).thread u = (s.sheaf sid).thread u) ∧
    ((s.sheaf sid).inHandler = false →
      (∀ u ∈ who, u < (s.sheaf sid).threads.length → ((t.sheaf sid).thread u).st = .parked .handler ∧
        ((t.sheaf sid).thread u).pc = pc ∧ ((t.sheaf sid).thread u).word = some k) ∧
      ((s.sheaf sid).entry = none → (t.sheaf sid).entry = some { code := BitVec.ofNat 8 code, sub := BitVec.ofNat 8 sub, engine := 0, mask := maskOf mask, addr := BitVec.ofNat 64 addr, pc := a }) ∧
      (∀ e, (s.sheaf sid).entry = some e → (t.sheaf sid).entry = some e)) ∧
    ((s.sheaf sid).inHandler = true →
      (t.sheaf sid).entry = some { code := 0x19, sub := BitVec.ofNat 8 code, engine := 0, mask := maskOf mask, addr := BitVec.ofNat 64 addr, pc := a })

/-- R425 to R427, R430: HANDLER_ENTRY moves every live thread of a parked and drained sheaf to the handler:
`sr.epc` holds
where it stood, it is privileged, the kernel scratch registers are 0, and `sr.cause`, `sr.fmask` and `sr.fa` say
why;
threads that have exited stay so; the registers of the threads and of the sheaf, `sr.ast` and all consume taint are kept. SHEAF_PARK parks, DOUBLE_FAULT ends the sheaf's entry. -/
def Obligations.TakingAnException : Prop :=
  ∀ (s : State) (sid : Nat) (e : Entry), (s.sheaves.get sid).isSome = true → (s.sheaf sid).entry = some e →
    (e.code ≠ 0x19 → (s.sheaf sid).inHandler = false → (s.sheaf sid).allParked = true → (s.sheaf sid).drained = true → (s.sheaf sid).liveThreads ≠ [] →
      ∃ t, exec (.handlerEntry sid) s = .next t ∧ (t.sheaf sid).entry = none ∧ (t.sheaf sid).inHandler = true ∧
        (t.sheaf sid).cause = e.cause ∧ (t.sheaf sid).fmask = e.mask ∧
        ((e.code ≠ 0x20 ∧ e.code ≠ 0x30 ∧ e.code ≠ 0x31) → (t.sheaf sid).fa = e.addr) ∧ t.mem = s.mem ∧
        (t.sheaf sid).s = (s.sheaf sid).s ∧ (t.sheaf sid).staint = (s.sheaf sid).staint ∧
        ∀ u < (s.sheaf sid).threads.length,
          let th := (s.sheaf sid).thread u
          let th' := (t.sheaf sid).thread u
          (th.st = .exited → th' = th) ∧
          (th.st ≠ .exited → th'.st = .ready ∧ th'.priv = true ∧ th'.epc = wordAddr th.pc th.word ∧ th'.mid = th.word ∧
            th'.pc = BitVec.ofNat 64 (s.ctx (s.sheaf sid).ctx).handler ∧ th'.word = none ∧ th'.ks = [0, 0, 0, 0] ∧
            th'.v = th.v ∧ th'.ast = th.ast ∧ th'.taint = th.taint)) ∧
    exec (.sheafPark sid) s = .next (s.modSheaf sid fun sh =>
      sh.parkRest (if e.code = 0x19 then .doubleFault else .handler)) ∧
    (e.code = 0x19 → (s.sheaf sid).run = none →
      ∃ t, exec (.doubleFault sid) s = .next t ∧ (t.sheaf sid).entry = none)

/-- R429: `tret` completes for privileged threads once the fence at device scope is done: its plain form takes the
threads back to where `sr.epc` says, with `tret.evict`, once all that the sheaf has issued is done, it leaves to
its frame, with `tret.exit` it ends. -/
def Claims.ReturnFromHandler : Prop :=
  ∀ (f : Fields) s sid r, Issues s (.tret f) sid r → acts s (.tret f) sid r ≠ [] →
    (∀ t ∈ acts s (.tret f) sid r, ((s.sheaf sid).thread t).priv = true) →
    s.fenceOk sid (acts s (.tret f) sid r) 3 = true →
    let ended (q : State) : State :=
      (if acts s (.tret f) sid r = groupOf r then q.endClause sid else q).acquired (sid / 64) (s.sheaf sid).ctx (some 3)
    (f.xmod.toNat % 4 ≠ 1 → f.xmod.toNat % 4 ≠ 2 →
      Goes s (.tret f) sid ((ended s).leave sid (acts s (.tret f) sid r))) ∧
    (f.xmod.toNat % 4 = 2 → Goes s (.tret f) sid ((ended s).killSheaf sid)) ∧
    (f.xmod.toNat % 4 = 1 → s.opsOf sid = [] → (s.sheaf sid).drained = true → s.tokenBusy sid = false →
      ((s.wg (s.sheaf sid).wg).frame.isSome = true → Goes s (.tret f) sid ((ended s).evictSheaf sid)) ∧
      ∀ q, s.takeFrame (s.sheaf sid).wg = some q → Goes s (.tret f) sid ((ended q).evictSheaf sid))

/-- R429: a thread that returns is no longer privileged; one whose live bit is 0 exits; another resumes at
`sr.epc`, inside
the clause that holds the word while the mid-clause mark stands. -/
def Claims.LeavingThreads : Prop :=
  ∀ th : Thread,
    (∀ live hold, (th.leave live hold).priv = false) ∧ (∀ hold, (th.leave false hold).st = .exited) ∧
    (th.mid = none → th.wait = none → (th.leave true none).st = .ready ∧ (th.leave true none).pc = th.epc ∧
      (th.leave true none).word = none) ∧
    (∀ k, th.mid = some k → th.wait = none → (th.leave true none).st = .ready ∧
      wordAddr (th.leave true none).pc (th.leave true none).word = th.epc)

/-- R418 to R420: `srd` reads a special register in every lane, privileged ones in the handler alone; a read of
`sr.tlo`
latches the upper half of the timebase; `swr` writes a writable one. -/
def Claims.SpecialRegisters : Prop :=
  ∀ (f : Fields) s sid r,
    let n := f.xmod.toNat % 64
    let allowed (i : Instr) : Prop := 0x20 ≤ n → ∀ t ∈ acts s i sid r, ((s.sheaf sid).thread t).priv = true
    (Issues s (.srd f) sid r → allowed (.srd f) →
      let q := s.writeLanes sid f.d 1 ((acts s (.srd f) sid r).map fun t => ⟨t, [(s.srVal sid t n, false)], 0⟩)
      Goes s (.srd f) sid (if n = 2 then q.modSheaf sid fun sh => (acts s (.srd f) sid r).foldl (fun sh t =>
        sh.modThread t fun th => { th with tbhi := BitVec.ofNat 32 (s.now / 2 ^ 32) }) sh else q)) ∧
    (Issues s (.swr f) sid r → acts s (.swr f) sid r ≠ [] → allowed (.swr f) → srWritable n = true →
      (n ∈ [0x1A, 0x23, 0x24] → Goes s (.swr f) sid (s.modSheaf sid fun sh' =>
        sh'.setSr n ((s.sheaf sid).read f.imm ((acts s (.swr f) sid r).headD 0) f.a))) ∧
      (n ∉ [0x1A, 0x23, 0x24] → Goes s (.swr f) sid (s.modSheaf sid fun sh' =>
        (acts s (.swr f) sid r).foldl (fun sh' t =>
          sh'.modThread t fun th => th.setSr n ((s.sheaf sid).read f.imm t f.a)) sh')))

/-- R418, R420, R429: a privileged special register, and `tret`, are illegal uses of a common thread: cause 12 in
the whole
group, and nothing is read or written. -/
def Claims.PrivilegeChecks : Prop :=
  ∀ (f : Fields) s sid r,
    let bad (i : Instr) : Prop := ∃ t ∈ acts s i sid r, ((s.sheaf sid).thread t).priv = false
    let trapped := s.fault sid (groupOf r) r.pc (some r.k) 1 12 (groupOf r) 0
    (Issues s (.srd f) sid r → 0x20 ≤ f.xmod.toNat % 64 → bad (.srd f) → Traps s (.srd f) sid trapped) ∧
    (Issues s (.swr f) sid r → 0x20 ≤ f.xmod.toNat % 64 → bad (.swr f) → Traps s (.swr f) sid trapped) ∧
    (Issues s (.tret f) sid r → bad (.tret f) → Traps s (.tret f) sid trapped)

/-- R422, R423: `trap` posts a system call once its record is free and the release at system scope is done: its
record is written with STATE 1, the call count and interrupt bit 1 are set, and its threads park.  Where the host has
set STATE 2, and every thread of the call is parked for it or has exited, the call is answered. -/
def Claims.SystemCalls : Prop :=
  (∀ (f : Fields) s sid r q q1 st, Issues s (.trap f) sid r → acts s (.trap f) sid r ≠ [] →
    let l := acts s (.trap f) sid r
    let sh := s.sheaf sid
    let k := (s.ctx sh.ctx).calls
    let va := (s.ctx sh.ctx).callVa k
    let priv := (sh.thread (l.headD 0)).priv
    s.fenceOk sid l 4 = true → s.peersAcked (sid / 64) sh.wg (s.wordRel sid) = true →
    s.devNum sh.ctx (va + 8) 1 true (some (baseOfCore (sid / 64))) = (some st, q) → st % 4 = 0 ∨ st % 4 = 3 →
    q.devStore sh.ctx va (callRecord q.now (sh.readPair f.imm (l.headD 0) f.a false).toNat f.imm.toNat (maskOf l).toNat
      sh.ctx (sid / 64) (sid % 64) sh.gen.toNat) true none (some (baseOfCore (sid / 64))) = (.ok (), q1) →
    Goes s (.trap f) sid (((q1.modCtx sh.ctx fun c => { c with calls := c.calls + 1 }).interrupt 1).modSheaf sid fun sh =>
      { sh.parkCall l 2 with calls := sh.calls ++ [{ index := k, mask := maskOf l, d := f.d, priv := priv, taint := sh.taintRun (l.headD 0) f.a (if single f.a then 1 else 2) }] })) ∧
  (∀ (s q : State) (sid x : Nat) (c : SysCall) (l : List SysCall),
    let sh := s.sheaf sid
    sh.calls.filter (fun c => c.priv == sh.inHandler) = c :: l → sh.entry = none →
    (∀ t ∈ bitsOf 64 c.mask, (sh.thread t).st = .parked .sysCall ∨ sh.exited t = true) →
    s.devNum sh.ctx ((s.ctx sh.ctx).callVa c.index) 16 true (some (baseOfCore (sid / 64))) = (some x, q) → x / 2 ^ 64 % 4 = 2 →
    exec (.systemCallAnswered sid) s = .next (q.answer sid c (BitVec.ofNat 32 x)))

/-- R39, R423: an answered call is no longer waited for; every vector register of its threads that have not exited stands as
it was but D, which holds the result, tainted as the call's argument is; the threads parked for a system call are ready
unless another call still waits for them, a `waitm` that stood at the call waiting on; and byte 8 of the record, which holds
STATE, becomes 0 in memory, as an acquire at system scope follows. -/
def Claims.AnsweredCalls : Prop :=
  ∀ (s : State) (sid : Nat) (c : SysCall) (x : Word), (s.sheaves.get sid).isSome = true →
    let sh := s.sheaf sid
    let rest := sh.calls.filter (· != c)
    ∃ q : State,
      s.answer sid c x = ((q.devStore sh.ctx ((s.ctx sh.ctx).callVa c.index + 8) [0] true none
        (some (baseOfCore (sid / 64)))).2.acquired (sid / 64) sh.ctx (some 4)) ∧
      q = { s with sheaves := q.sheaves } ∧ (∀ k, k ≠ sid → q.sheaf k = s.sheaf k) ∧ (q.sheaf sid).calls = rest ∧
      (∀ t, t < sh.threads.length →
        let th := sh.thread t
        let th' := (q.sheaf sid).thread t
        (th.st = .parked .sysCall → (∀ d ∈ rest, d.mask.getLsbD t = false) →
          (th.wait = none → th'.st = .ready) ∧ (∀ w, th.wait = some w → th'.st = .waiting w)) ∧
        (th.st = .parked .sysCall → (∃ d ∈ rest, d.mask.getLsbD t = true) → th'.st = .parked .sysCall) ∧
        (th.st ≠ .parked .sysCall → th'.st = th.st) ∧ th'.pc = th.pc ∧ th'.word = th.word ∧ th'.ast = th.ast) ∧
      ∀ t < 64, t < sh.threads.length → c.d.toNat < 0xC0 → c.d.toNat < (sh.thread t).v.length → c.mask.getLsbD t = true →
        sh.exited t = false → (q.sheaf sid).read 0 t c.d = x ∧ (q.sheaf sid).taintOf t c.d = c.taint

/-- R188, R424, R432: an engine whose next access fails for good raises CODE 0x18 with its number and the access's sub-code
and address, and holds its work, unless its context has stopped already: the copy engine (1) for a lane's turn to move, the
request engine (2) and the prologue engine (3) with what landed before the failing element, the fill engine (7) for its
next 64 bytes.  A page that is not present (code 0) or a way that is not open now (code 20) raises none.  The fault writes its
record and raises the halt line of its context, which keeps an earlier fault. -/
def Claims.EnginesFault : Prop :=
  ∀ (s : State) (unit op e va : Nat) (b : Bool),
    (∀ ctx i, (s.ctxs.get ctx).isSome = true → i.code = 0x18 → s.contextFault ctx i none =
      (s.record ctx (faultHeader s.now ctx 0x50 0 i)).modCtx ctx fun c => if c.halt.isSome then c else { c with
        halt := some ⟨0x18, BitVec.ofNat 8 i.sub, BitVec.ofNat 4 i.engine, BitVec.ofNat 64 i.addr, none, i.die, false⟩ }) ∧
    (∀ k, (s.core unit).copies.get op = some k → s.halted k.ctx = false →
      (∀ ln, (k.lanes.filter fun l => !l.done && s.mayCopy unit op k l) = [ln] → s.copyBytes unit k ln = .error (e, va, b) →
        (e ≠ 0 → e ≠ 20 → s.faultCopy unit op = (s.modCore unit fun x => { x with copies := x.copies.mod op fun k => { k with
          held := true } }).contextFault k.ctx {
            code := 0x18, sub := e, pc := k.pc.toNat, addr := va, core := unit, engine := 1, die := baseOfCore unit } none) ∧
        (e = 0 ∨ e = 20 → s.faultCopy unit op = s))) ∧
    (∀ r q, (s.core unit).reqs.get op = some r → s.tryReq unit op r = (q, some (e, va, b)) → s.halted r.ctx = false →
      (e ≠ 0 → e ≠ 20 → s.faultReq unit op = (q.modCore unit fun x => { x with reqs := x.reqs.mod op fun r => { r with
        held := true } }).contextFault r.ctx {
          code := 0x18, sub := e, pc := r.pc.toNat, addr := va, core := unit, engine := 2, die := baseOfCore unit } none) ∧
      (e = 0 ∨ e = 20 → s.faultReq unit op = s)) ∧
    (∀ i l q, s.nextBinding op = some (i, l) → s.runBinding op l = (q, some (e, va, b)) → s.halted (s.wg op).ctx = false →
      (e ≠ 0 → e ≠ 20 → s.faultBinding op = (q.modWg op fun g => { g with heldBinding := true }).contextFault (s.wg op).ctx
        { code := 0x18, sub := e, pc := 0, addr := va, core := (s.wg op).core, engine := 3, die := baseOfCore (s.wg op).core }
        none) ∧
      (e = 0 ∨ e = 20 → s.faultBinding op = s)) ∧
    (∀ q, (s.die unit).fills.get op = some q → s.mayFill unit op q = true →
      s.engineLoad q.engine q.ctx q.va.toNat 64 q.priv = .error (e, va, b) →
      (e ≠ 0 → e ≠ 20 → s.faultFill unit op = (s.modDie unit fun d => { d with fills := d.fills.put op { q with
        held := true } }).contextFault q.ctx {
          code := 0x18, sub := e, pc := q.pc.toNat, addr := va, core := 255, engine := 7, die := baseOfCore (32 * unit) } none) ∧
      (e = 0 ∨ e = 20 → s.faultFill unit op = s))

/-- R188, R431, R432: the halt line of a context that has faulted reaches its sheaves, the faulting one apart; a
part of its
partition stops once, with its record; an engine that cannot make an access faults and holds its work. -/
def Claims.HaltsAndEngines : Prop :=
  ∀ (s : State) (ctx : Nat) (h : Halt), (s.ctxs.get ctx).isSome = true → (s.ctx ctx).halt = some h →
    (h.reached = false → exec (.haltLine ctx) s = .next
      ((s.sheavesOf ctx).foldl (fun s sid => if some sid = h.sid then s else s.modSheaf sid fun sh => sh.halt h)
        (s.modCtx ctx fun c => { c with halt := some { h with reached := true } }))) ∧
    (∀ part unit, h.reached = true → (part, unit) ∉ (s.ctx ctx).stopped → s.hasPart ctx part unit = true →
      ¬ (part = 8 ∧ h.engine = 8) → ¬ (part = 6 ∧ s.midJob ctx unit = true) →
      let x := s.holdPart ctx part unit
      exec (.partStop ctx part unit) s = .next ((x.2.2.stopRecord ctx
        { code := 0, pc := x.1, core := (partPlace part unit).1, engine := part, die := (partPlace part unit).2, detail := 0 }
        x.2.1).modCtx ctx fun c => { c with stopped := (part, unit) :: c.stopped })) ∧
    (∀ unit op, exec (.engineFault 1 unit op) s = .next (s.faultCopy unit op) ∧
      exec (.engineFault 2 unit op) s = .next (s.faultReq unit op) ∧
      exec (.engineFault 3 unit op) s = .next (s.faultBinding op) ∧
      exec (.engineFault 7 unit op) s = .next (s.faultFill unit op))

/-! ### Scheduling (R93 to R109) -/

/-- R27, R94, R96, R105, R107: CLAUSE_START chooses a sheaf of a core that has no current one, the first in its
order that is inside a clause and does not
wait, or that can start one; ISSUE_GROUP_ROTATION and
SCHEDULER_RUN_BREAK choose anew, RUN_LIMIT ends a run of 256 issue cycles, STALL_END ends a stall whose cycles are
over,
SLEEP_EXPIRY makes a thread ready, or lets it wait, at the end of its sleep. -/
def Claims.SchedulingEvents : Prop :=
  ∀ (s : State) (core sid t : Nat),
    ((s.core core).current = none → exec (.clauseStart core) s = .next (State.select (s.tryOrder core) s).2) ∧
    (∀ l, (s.core core).current = none → s.tryOrder core = sid :: l → (s.sheaf sid).run.isSome = true →
      (s.sheaf sid).blocked = false → exec (.clauseStart core) s = .next (s.setCurrent sid)) ∧
    (64 ≤ (s.sheaf sid).streak → (s.core (sid / 64)).current = some (sid % 64) → exec (.issueGroupRotation sid) s = .next (s.trySheaf sid).2) ∧
    ((s.core core).current = none → exec (.schedulerRunBreak core) s = .next (s.chooseSheaf core).2) ∧
    (∀ k, (s.core core).current = some k → 256 ≤ (s.sheaf (core * 64 + k)).issued →
      exec (.runLimit core) s = .next ((s.modSheaf (core * 64 + k) fun sh =>
        { sh with passed := true, issued := 0 }).modCore core fun k => { k with current := none })) ∧
    ((s.sheaf sid).stall ≤ s.time.core →
      exec (.stallEnd sid) s = .next (s.modSheaf sid fun sh => { sh with stall := 0 })) ∧
    (∀ n, ((s.sheaf sid).thread t).st = .sleeping n none → n ≤ s.time.core →
      exec (.sleepExpiry sid t) s = .next (s.modSheaf sid fun sh => sh.modThread t fun th => { th with st := .ready })) ∧
    (∀ n w, ((s.sheaf sid).thread t).st = .sleeping n (some w) → n ≤ s.time.core →
      exec (.sleepExpiry sid t) s = .next (s.modSheaf sid fun sh => sh.modThread t fun th => { th with st := .waiting w })) ∧
    (let x := s.candidates sid
     exec (.crossLaneWaitRelease sid) s = .next ((x.1.flatMap (·.threads)).foldl (fun s t => s.modSheaf sid fun sh =>
      sh.modThread t fun th => match th.st with
        | .arrived => { th with st := .ready }
        | _ => th) x.2)) ∧
    (∀ ws q u l n, let sh := s.sheaf sid
      let th := sh.thread u
      (List.range sh.width).filter (s.overdue sid) = u :: l → s.fetch (sid / 64) sh.ctx th.pc th.priv = (.ok ws, q) →
      waitSpan sh.width (th.word.getD 0) ws.tail = some n →
      let here := (List.range sh.width).filter fun v => sh.standing v && (sh.thread v).key == th.key
      let missing := (List.range sh.width).filter fun v => v ∉ here && !sh.exited v &&
        here.any fun w => decide (v ∈ segment n w)
      exec (.crossLaneWatchdog sid) s = .next (q.fault sid here th.pc th.word 0x0A 0 missing 0))

/-! ### Saving and resumption (R435 to R443) -/

/-- R437, R438: a team that may leave, some of it evicted, is saved to its frames; a saved workgroup is resumed on
a core
that can seat it. -/
def Claims.SaveAndResume : Prop :=
  (∀ (s : State) (w : Nat), s.mate w = none → s.canLeave w = true → (s.wg w).evicted ≠ 0 →
    (s.wg w).frame.isSome = true → exec (.workgroupSave w) s = .next (s.saveWg [w] w)) ∧
  (∀ (s : State) (w c : Nat), (s.wg w).stage = .saved → s.mate w = none →
    ((s.wg w).paired = false ∨ c % 2 = (s.wg w).pos) →
    ∀ x, s.regrant w c = some x → exec (.workgroupResumption w c) s = .next (s.restoreWg w c x)) ∧
  (∀ (s : State) (w : Nat), (s.wg w).stage = .running → (s.wg w).evicted ≠ 0 →
    exec (.workgroupResumption w (s.wg w).core) s = .next (s.resumePart w))

/-! ### Queues and the mapper (R368 to R378) -/

/-- R371, R372: a store of 4 or 8 bytes to the notify register of a queue that is neither disabled nor in error sets
WRITE when n = (value - READ) mod 2^32 is at most the ring size and at least the n before it, and an idle queue with
n > 0 waits; any other value puts the queue in error with its slot freed; of a disabled queue or one in error the
store is
ignored.  Where the device is in Doze or Sleep the store starts its wake. -/
def Claims.NotifyStores : Prop :=
  ∀ (s : State) (n size value : Nat), n < 1024 → size = 4 ∨ size = 8 →
    let q := s.queue n
    let w : BitVec 32 := BitVec.ofNat 32 value
    let k := (w - q.read).toNat
    let good := k ≤ 2 ^ (q.size + 4) ∧ (q.write - q.read).toNat ≤ k
    (q.state = .disabled ∨ q.state = .error → exec (.notifyStore n 0 size value) s = .next s.rouse) ∧
    (q.state ≠ .disabled → q.state ≠ .error → good → ∃ t, exec (.notifyStore n 0 size value) s = .next t ∧
      (t.queue n) = { q with write := w, state := if q.state = .idle ∧ 0 < k then .waiting else q.state } ∧
      (∀ m, m ≠ n → t.queue m = s.queue m) ∧ t.mem = s.mem ∧ t.bases = s.bases ∧ t.sheaves = s.sheaves ∧
      t.regs = s.rouse.regs) ∧
    (q.state ≠ .disabled → q.state ≠ .error → ¬ good → ∃ t, exec (.notifyStore n 0 size value) s = .next t ∧
      (t.queue n).state = .error ∧ (t.queue n).write = q.write ∧ (t.queue n).read = q.read ∧
      ∀ b ∈ t.bases, ∀ m ∈ b.2.slots, m.2.queue ≠ n) ∧
    (s.asleep = false → s.rouse = s) ∧
    (s.asleep = true → s.regs.waking = none → s.rouse = { s with regs := { s.regs with
      waking := some (s.now + if s.regs.pstate = 3 then 2000000 else 40000) } })

/-- R369: ENABLE takes a disabled queue whose descriptor has V and keeps the limits to idle with READ and WRITE 0
and
writes the descriptor back; it is refused with ERR for a queue that is not disabled or a descriptor without V;
DISABLE with
no entry in intake frees the queue's slot and clears V; SYNC writes the descriptor back. -/
def Claims.QueueCommands : Prop :=
  ∀ (s : State) (n : Nat),
    let x := s.physNum (s.queuePa n) 64
    (s.queueCmd 1 n = true → (s.queue n).state = .disabled → bit x.1 456 = true → queueOk x.1 = true →
      exec (.enable n) s = .next (((x.2.modQueue n fun _ => queueOf x.1).writeBack n).endQueueCmd false) ∧
      (queueOf x.1).state = .idle ∧ (queueOf x.1).read = 0 ∧ (queueOf x.1).write = 0) ∧
    (s.queueCmd 1 n = true → (s.queue n).state ≠ .disabled → exec (.enable n) s = .next (s.endQueueCmd true)) ∧
    (s.queueCmd 1 n = true → (s.queue n).state = .disabled → bit x.1 456 = false →
      exec (.enable n) s = .next (x.2.endQueueCmd true)) ∧
    (s.queueCmd 2 n = true → (s.freeSlots n).1 = [] → exec (.disable n) s =
      .next ((((((s.freeSlots n).2.modQueue n fun q => { q with state := .disabled }).writeBack n).clearV n)).endQueueCmd
        false)) ∧
    (s.queueCmd 3 n = true → exec (.sync n) s = .next ((s.writeBack n).endQueueCmd false))

/-- R372, R374, R375, R458: while the device is awake a free slot is granted to the waiting queue that the mapper chooses, which becomes active; a
slot
whose slice is over frees once no graph is in hand; a slot whose queue has no entry left frees and the queue is
idle; an
entry that is well formed is taken in hand and its graph begins intake. -/
def Claims.MapperSlots : Prop :=
  ∀ (s : State) (d k n : Nat), d < 2 →
    let b := s.base d
    ((List.range 16).find? (fun k => (b.slots.get k).isNone) = some k → s.granted d = some n →
      (s.asleep = true → exec (.slotGrant d) s = .next s) ∧ (s.asleep = false → exec (.slotGrant d) s = .next ((s.modQueue n fun q => { q with state := .active }).modBase d fun b => { b with
        slots := b.slots.put k ⟨n, s.now, none⟩, lastGrant := b.lastGrant.put (s.queue n).prio n }))) ∧
    (∀ m, b.slots.get k = some m → m.graph = none →
      (s.sliceOver d m = true → exec (.timeSliceExpiry d k) s = .next (s.freeSlot d k m.queue
        (if (s.queue m.queue).left = 0 then .idle else .waiting))) ∧
      (s.sliceOver d m = false → s.queueCmd 2 m.queue = false → (s.queue m.queue).left = 0 →
        exec (.entryRead d k) s = .next (s.freeSlot d k m.queue .idle)) ∧
      (∀ bs q, s.sliceOver d m = false → s.queueCmd 2 m.queue = false → (s.queue m.queue).left ≠ 0 →
        (s.ctxs.get (s.queue m.queue).ctx).isSome = true →
        ((s.queue m.queue).ring.toNat + 16 * ((s.queue m.queue).read.toNat % 2 ^ ((s.queue m.queue).size + 4))) / 65536 ∉
          (s.ctx (s.queue m.queue).ctx).replays →
        s.devLoad (s.queue m.queue).ctx ((s.queue m.queue).ring.toNat +
          16 * ((s.queue m.queue).read.toNat % 2 ^ ((s.queue m.queue).size + 4))) 16 false none (some d) =
          (.ok (bs, false), q) →
        exec (.entryRead d k) s = .next (q.takeEntry d k m.queue (leNat bs))))

/-- R377, R378: RUN = 1 is refused with ERR when the offsets do not rise, one reaches the period, or a context is
above
4,095; else the table runs from this instant.  A due entry starts intake of its graph, or while the last one runs
counts a
skip; where the device is in Doze or Sleep it starts the wake and stays due. -/
def Claims.TimeTriggeredTable : Prop :=
  ∀ (s : State) (value : Nat),
    (value % 2 = 0 → exec (.ttctlRun value) s = .next { s with regs := { s.regs with ttRun := false } }) ∧
    (value % 2 = 1 → s.regs.ttRun = false →
      ((rising s.regs.valid = false ∨ (∃ e ∈ s.regs.valid, (s.regs.ttperiod ≠ 0 ∧ s.regs.ttperiod.toNat ≤ e.2.offset.toNat) ∨
          4095 < e.2.ctx.toNat)) →
        exec (.ttctlRun value) s = .next { s with regs := { s.regs with ttErr := true } }) ∧
      (rising s.regs.valid = true → (∀ e ∈ s.regs.valid, (s.regs.ttperiod ≠ 0 → e.2.offset.toNat < s.regs.ttperiod.toNat) ∧
          e.2.ctx.toNat ≤ 4095) →
        exec (.ttctlRun value) s = .next { s with regs := { s.regs with ttRun := true, ttErr := false, ttSince := s.now } })) ∧
    (∀ k e i, s.dueInstant k = some (e, i) → s.asleep = true → exec (.tableInstant k) s = .next s.rouse) ∧
    (∀ k e i, s.dueInstant k = some (e, i) → s.asleep = false →
      let q := { s with regs := { s.regs with ttSince := i + 1 } }
      let va := e.graph.toNat * 64
      (s.regs.ttGraph.isSome = true →
        let n := min (e.skips.toNat + 1) 65535
        exec (.tableInstant k) s = .next ((q.modRegs fun r => { r with
          tt := r.tt.put k { e with skips := BitVec.ofNat 16 n } }).trail
          { event := 9, graph := va, pass := k, ctx := e.ctx.toNat, arg := n, time := some i })) ∧
      (s.regs.ttGraph = none →
        let q1 := { q with next := s.next + 1 }
        exec (.tableInstant k) s = .next (({ q1 with
          graphs := s.graphs.put s.next (newGraph e.ctx.toNat va none 0 false 0 0) }.modRegs fun r =>
            { r with ttGraph := some s.next }).trail
          { event := 2, graph := va, ctx := e.ctx.toNat, arg := 0xFFFFFFFF })))

/-- A waiting graph may be admitted: its context is not halted, SERIAL is satisfied, no graph of the time-triggered
table
comes first, and on either die its scoreboard entries and the bytes of its rings can be granted (R355, R330, R375).
-/
def Admissible (s : State) (n : Nat) (g : Graph) : Prop :=
  g.stage = .waiting ∧ s.halted g.ctx = false ∧
  (g.serial = true → ∀ m o, (m, o) ∈ s.graphs → m < n → o.queue = g.queue → o.stage = .retired ∨ o.stage = .rejected) ∧
  (g.queue.isSome = true → s.tableWaits g.die = false) ∧
  ∀ d, d < 2 → s.entriesUsed d + g.entries d 0 ≤ 64 ∧
    (((s.base d).ring.extents).map (·.bytes)).sum + g.ringBytes d ≤ (s.base d).ring.capBanks * 2 ^ 26

/-- R353, R355, R375: a graph in intake whose records read and check waits for admission, one that breaks a limit is
rejected; a waiting graph whose scoreboard entries and ring space fit is admitted in its turn with fresh passes,
and READ of
its queue counts the entry; one that no ring needs bytes for is admitted at once where none waits before it. -/
def Claims.IntakeAndAdmission : Prop :=
  ∀ (s : State) (n : Nat) (g : Graph), s.graphs.get n = some g →
    (∀ g' q t, g.stage = .intake → s.readGraph g = ((g', .ok q), t) → q.phase1 = none → q.g.phase2 t.ringCap = none →
      q.g.dryErr = none →
      exec (.graphIntake n) s = .next { t with graphs := t.graphs.put n { q.g with stage := .waiting } }) ∧
    (∀ g' e t, g.stage = .intake → s.readGraph g = ((g', .error e), t) → e.code ≠ 0 →
      exec (.graphIntake n) s = .next (t.rejectGraph n g' e)) ∧
    (∀ g' q t e, g.stage = .intake → s.readGraph g = ((g', .ok q), t) → q.phase1 = some e →
      exec (.graphIntake n) s = .next (t.rejectGraph n q.g e)) ∧
    (∀ t l, g.stage = .waiting → s.halted g.ctx = false → s.serialOk n g = true →
      ¬ (g.queue.isSome = true ∧ s.tableWaits g.die = true) → s.outranked n = false →
      (∀ d < 2, s.entriesUsed d + g.entries d 0 ≤ 64) → (s.allocRings n g 0).bind (fun s => s.allocRings n g 1) = some t →
      g.placeGroups = .ok l → ∃ u, exec (.graphAdmission n) s = .next u ∧
        (∃ g', u.graphs.get n = some g' ∧ g'.stage = .admitted ∧ g'.resv = l ∧ g'.passes = g.passes ∧
          g'.runs = List.replicate g.passes.length PassRun.reset ∧ g'.order = t.next) ∧
        (∀ q, g.queue = some q → (u.queue q).read = (t.queue q).read + 1) ∧
        (∀ b ∈ u.bases, ∀ m ∈ b.2.slots, m.2.graph ≠ some n) ∧ u.mem = t.mem) ∧
    (∀ l, Admissible s n g → (∀ d, d < 2 → g.ringBytes d = 0) → (∀ p ∈ s.graphs, p.1 < n → p.2.stage ≠ .waiting) →
      g.placeGroups = .ok l → ∃ u, exec (.graphAdmission n) s = .next u ∧
        (∃ g', u.graphs.get n = some g' ∧ g'.stage = .admitted ∧ g'.resv = l ∧ g'.passes = g.passes) ∧
        (∀ q, g.queue = some q → (u.queue q).read = (s.queue q).read + 1) ∧ u.mem = s.mem)

/-! ### Contexts (R267, R269, R434, R446, R447) -/

/-- R447, R267, R269, R434: LOAD reads the context's descriptor and holds it, or sets ERR; UNLOAD drops a context
without
work; INVAL drops its cached translations on every core and die, leaves no fetch a clause from before the command,
and ends
when no access uses an older one; REPLAY sends the threads that wait for
it back; RESUME ends the halt and lets what was held run; ABANDON drops its admitted graphs; CTXBASE is written
while no
context is loaded.
It rests on what the model chose or read by inference in log entries 50, 52 and 98. -/
def Obligations.ContextCommands : Prop :=
  ∀ (s : State) (n value : Nat),
    let x := s.physNum (s.regs.ctxbase.toNat + 128 * n) 128
    (s.ctxCmd 1 n = true → ctxOk x.1 = false → exec (.load n) s = .next (x.2.endCtxCmd true)) ∧
    (s.ctxCmd 1 n = true → ctxOk x.1 = true → s.ctxs.get n = none → ∃ t, exec (.load n) s = .next t ∧
      t.ctxs.get n = some (newCtx x.1) ∧ (∀ m, m ≠ n → t.ctxs.get m = s.ctxs.get m) ∧ t.regs.ctxcmd.busy = false ∧
      t.mem = s.mem) ∧
    (s.ctxCmd 6 n = true → s.holdsWork n = true → exec (.unload n) s = .next (s.endCtxCmd true)) ∧
    (s.ctxCmd 6 n = true → s.holdsWork n = false → ∃ t, exec (.unload n) s = .next t ∧ t.ctxs.get n = none ∧
      (∀ m, m ≠ n → t.ctxs.get m = s.ctxs.get m) ∧ t.regs.ctxcmd.busy = false ∧ t.mem = s.mem) ∧
    (s.ctxCmd 2 n = true → ∃ t, exec (.inval n) s = .next t ∧ (∀ c ∈ t.cores, ∀ e ∈ c.2.tlb, e.ctx ≠ n) ∧
      (∀ d ∈ t.dies, ∀ e ∈ d.2.tlb, e.ctx ≠ n) ∧ (∀ p ∈ t.was, s.regs.invalAt ≤ p.1) ∧ t.mem = s.mem ∧
      (s.accessing n = false → t.regs.ctxcmd.busy = false) ∧
      (s.accessing n = true → t.regs = s.regs)) ∧
    (s.ctxCmd 3 n = true → exec (.replay n) s = .next (((s.modCtx n fun c => { c with replays := [] }) |>.sheavesOf n |>.foldl
      (fun s sid => s.modSheaf sid Sheaf.replay) (s.modCtx n fun c => { c with replays := [] })).endCtxCmd false)) ∧
    (s.ctxCmd 4 n = true → s.halted n = false → exec (.resume n) s = .next (s.endCtxCmd false)) ∧
    (s.ctxCmd 4 n = true → ∃ t, exec (.resume n) s = .next t ∧ (t.ctx n).halt = none ∧ t.regs.ctxcmd.busy = false ∧
      t.sheaves = s.sheaves ∧ t.mem = s.mem) ∧
    (s.ctxCmd 5 n = true → ∃ t, exec (.abandon n) s = .next t ∧ (t.ctx n).halt = none ∧ t.regs.ctxcmd.busy = false ∧
      ∀ k g, t.graphs.get k = some g → g.ctx = n → g.stage ≠ .admitted) ∧
    (s.ctxs = [] → exec (.ctxbaseWrite value) s = .next { s with regs := { s.regs with
      ctxbase := BitVec.ofNat 64 (value / 2 ^ 19 % 2 ^ 29 * 2 ^ 19) } }) ∧
    (s.ctxs ≠ [] → exec (.ctxbaseWrite value) s = .next s)

/-! ### Repair, reset (R460, R462) -/

/-- R437, R460, R462: FENCE_CORE fences its core, and with RESET_COMPUTE_DIE every core of its die, and is done
when the
cores are empty; UNFENCE_CORE ends the fence; REPAIR_DONE clears BUSY with interrupt bit 5 and trail event 15, a
reset die
being as at package reset after its 5 ms; PACKAGE_RESET puts every register at its reset value and keeps GDDR 7. -/
def Claims.RepairAndReset : Prop :=
  ∀ (s : State) (c d : Nat),
    (s.repairing 1 c = true → ∃ t, exec (.fenceCore c) s = .next t ∧ (t.core c).fenced = true ∧
      (t.vacant [c] = true → t.regs.repairDone = true)) ∧
    (s.repairing 2 c = true → ∃ t, exec (.unfenceCore c) s = .next t ∧ (t.core c).fenced = false ∧
      t.regs.repairDone = true ∧ t.mem = s.mem ∧ t.sheaves = s.sheaves) ∧
    (s.repairing 3 d = true → ∃ t, exec (.resetComputeDie d) s = .next t ∧
      (∀ k < 32, (t.core (32 * d + k)).fenced = true) ∧ (t.vacant (List.range' (32 * d) 32) = true → t.regs.repairDone = true)) ∧
    (s.regs.repair.busy = true → s.regs.repairDone = true →
      (s.regs.repair.op = 3 → s.regs.repairAt + 5000000 ≤ s.now) → ∃ t, exec .repairDone s = .next t ∧
        t.regs.repair.busy = false ∧ t.regs.repairDone = false ∧ t.regs.intstat.getLsbD 5 = true ∧
        (s.regs.repair.op = 3 → ∀ k < 32, t.core (32 * s.regs.repair.target.toNat + k) = Core.reset)) ∧
    exec .packageReset s = .next { State.reset with
      form := s.form, schedule := s.schedule, turn := s.turn, free := s.free, next := s.next, mem := s.mem
      poison := s.poison, squeezed := s.squeezed, peers := s.peers }

/-! ### Display, timebase, power, trust and registers (R382, R449 to R462) -/

/-- R455: PRESENT makes the surface pending and writes event 6, with event 8 for the surface it replaces; vertical
blanking of an enabled head makes it current; its first scan-out, after the blanking's cycle, writes event 7 and delivers
the surface's rows, each of WIDTH + 1 pixels at PITCH from the last, as they stand at their homes.  A PRESENT in the cycle of
the blanking is applied first: its surface is current at once.
It rests on what the model chose in log entry 96. -/
def Claims.DisplayHeads : Prop :=
  ∀ (s : State) (h value : Nat), h < 5 →
    let p : BitVec 128 := BitVec.ofNat 128 (value % 2 ^ 64 * 2 ^ 64 + (s.head h).lo.toNat)
    let q := (s.modHead h fun x => { x with pending := some p }).trail (presentInfo 6 h p)
    let now := s.time.fabric
    ((s.head h).blankAt ≠ some now → (s.head h).pending = none → exec (.present h value) s = .next q) ∧
    (∀ o, (s.head h).blankAt ≠ some now → (s.head h).pending = some o →
      exec (.present h value) s = .next (q.trail (presentInfo 8 h o))) ∧
    ((s.head h).blankAt = some now → (s.head h).took = false → exec (.present h value) s =
      .next ((s.modHead h fun x => { x with current := some p, shown := false, took := true }).trail (presentInfo 6 h p))) ∧
    (∀ o, (s.head h).blankAt = some now → (s.head h).took = true → (s.head h).current = some o →
      exec (.present h value) s = .next (((s.modHead h fun x => { x with
        current := some p, shown := false, took := true }).trail (presentInfo 6 h p)).trail (presentInfo 8 h o))) ∧
    ((s.head h).hctl.getLsbD 0 = true → (s.head h).blankAt ≠ some now →
      (∀ o, (s.head h).pending = some o → exec (.verticalBlanking h) s = .next (s.modHead h fun x => { x with
        pending := none, current := some o, shown := false, blankAt := some now, took := true })) ∧
      ((s.head h).pending = none → exec (.verticalBlanking h) s = .next (s.modHead h fun x => { x with
        blankAt := some now, took := false }))) ∧
    (∀ o, (s.head h).current = some o → (s.head h).hctl.getLsbD 0 = true → (s.head h).shown = false →
      (s.head h).blankAt ≠ some now → ∃ out, exec (.scanOut h) s =
        .next ((s.modHead h fun x => { x with shown := true, out := out }).trail (presentInfo 7 h o)) ∧
      let c := (s.head h).hctl.toNat
      let n := (c / 2 ^ 50 % 2 ^ 14 + 1) * (if c / 2 ^ 18 % 4 = 0 then 4 else 8)
      let row (y : Nat) : Nat := o.toNat / 2 ^ 88 % 2 ^ 40 * 256 + y * (c / 2 ^ 20 % 2 ^ 16 * 16)
      ((∀ y < c / 2 ^ 36 % 2 ^ 14 + 1, s.inGddr (row y) n = true ∧ s.poisoned (row y) n = false) →
        out = (List.range (c / 2 ^ 36 % 2 ^ 14 + 1)).flatMap fun y => s.mem.readN (row y) n))

/-- R456: TBSTEP adds a positive offset to the timebase at once; a negative one never makes it smaller and is slewed
out. -/
def Claims.TimebaseSteps : Prop :=
  ∀ (s : State) (value : Nat), ∃ t, exec (.tbstep value) s = .next t ∧
    (value % 2 ^ 64 < 2 ^ 63 → t.time = { s.time with now := s.time.now + BitVec.ofNat 64 value }) ∧
    (2 ^ 63 ≤ value % 2 ^ 64 →
      t.time = { s.time with slew := s.time.slew + (2 ^ 64 - value % 2 ^ 64) * 2 ^ 36 }) ∧
    t = { s with time := t.time }

/-- R382, R458, R459: in fixed-clock mode a stretch starts at 97% of the power limit and a hold at 99%, each with
its trail
event; a hold of 1 ms lets rate-limited admission go on; below 95% both end; fixed-clock mode is entered with event
14 and
left by the thermal trip; the power state is the lowest that the tolerance allows, entered from a higher one while no wake
is under way, and the end of a wake, or of the state's condition, leaves it. -/
def Claims.PowerEvents : Prop :=
  ∀ (s : State) (mw : Nat),
    (s.regs.fixedOn = true → s.regs.stretch = false → 97 * s.form.limit ≤ 100 * mw →
      exec (.powerStretch mw) s = .next ((s.modRegs fun r => { r with stretch := true }).trail { event := 10, arg := mw })) ∧
    (s.regs.fixedOn = true → s.regs.hold = false → 99 * s.form.limit ≤ 100 * mw →
      exec (.powerHold mw) s = .next ((s.modRegs fun r => { r with
        hold := true, holdSince := s.now, holdLimited := false }).trail { event := 12, arg := mw })) ∧
    (∀ d, d < 2 → s.regs.hold = true → s.regs.holdSince + 1000000 ≤ s.now →
      exec (.holdRateLimitedResume d) s = .next { s with regs := { s.regs with holdLimited := true } }) ∧
    (100 * mw < 95 * s.form.limit → ∃ t, exec (.powerRelief mw) s = .next t ∧ t.regs.stretch = false ∧
      t.regs.hold = false) ∧
    (s.regs.fixed = true → s.regs.fixedOn = false →
      exec .fixedClockEntry s = .next ((s.modRegs fun r => { r with fixedOn := true }).trail { event := 14, arg := 1 })) ∧
    (s.regs.fixedOn = true → ∃ t, exec .thermalTrip s = .next t ∧ t.regs.trip = true ∧ t.regs.fixedOn = false ∧
      t.regs.fixed = false ∧ t.regs.stretch = false ∧ t.regs.hold = false) ∧
    (s.regs.pstate.toNat < s.lowest.toNat → s.regs.waking = none →
      exec .powerStateEntry s = .next { s with regs := { s.regs with pstate := s.lowest } }) ∧
    (s.lowest.toNat ≤ s.regs.pstate.toNat ∨ s.regs.waking.isSome = true → exec .powerStateEntry s = .next s) ∧
    (s.regs.waking.isSome = true ∨ s.lowest.toNat < s.regs.pstate.toNat →
      exec .wake s = .next { s with regs := { s.regs with pstate := 0, waking := none } }) ∧
    (s.regs.waking = none → s.regs.pstate.toNat ≤ s.lowest.toNat → exec .wake s = .next s)

/-- R449, R460, R461: storing 1 clears a bit of INTSTAT; EXTEND makes MRi the SHA-256 of MRi and the digest for i
from 4
to 15 and is ignored for the others; ATTEST with GO starts a report, which is written with its signature, clears
the busy
bit and sets interrupt bit 6. -/
def Claims.TrustRegisters : Prop :=
  ∀ (s : State) (value : Nat),
    exec (.intstatClear value) s = .next { s with regs := { s.regs with
      intstat := s.regs.intstat &&& ~~~ BitVec.ofNat 8 value } } ∧
    (4 ≤ value → value < 16 → ∃ t, exec (.extend value) s = .next t ∧
      (value < s.regs.mr.length → t.regs.mr.getD value 0 = reg256 (sha256 (natBytes 32 (s.regs.mr.getD value 0).toNat ++
        natBytes 32 s.regs.extendLo.toNat))) ∧
      (∀ k, k ≠ value → t.regs.mr.getD k 0 = s.regs.mr.getD k 0) ∧ t.mem = s.mem) ∧
    (value < 4 ∨ 16 ≤ value → exec (.extend value) s = .next s) ∧
    (s.regs.attestBusy = false → exec (.attest value) s = .next { s with regs := { s.regs with
      attest := BitVec.ofNat 64 (value / 2 ^ 10 % 2 ^ 38 * 1024 + value % 2), attestBusy := value % 2 == 1 } }) ∧
    (s.regs.attestBusy = true →
      let pa := s.regs.attest.toNat / 1024 * 1024
      let x := s.physNum (pa + 32) 32
      let bs := x.2.reportBytes (natBytes 32 x.1)
      exec .attestationDone s = .next (((x.2.physStore pa (bs ++ (Config.signature bs ++ List.replicate 384 0).take 384)).modRegs
        fun r => { r with attestBusy := false }).interrupt 6))

/-- R445, R447, R449, R455, R456, R459, R462: a store to a register that only holds its value or starts a command: the
context command register starts a command, or while one runs sets ERR; TBRATE is held within 500 ppm; PWRCTL sets the
tolerance and asks for fixed-clock mode; the trail's ring and read counter are as written, as is a head's control unless
its format is none of the two; REPAIR starts a fence or its end while no repair command runs.  Where the device sleeps a
store to the context command register starts its wake first. -/
def Claims.RegisterStores : Prop :=
  ∀ (s : State) (value : Nat),
    let at_ (o : Nat) : Instr := .registerWrite (0x001004000000 + o) value
    let sys (o : Nat) : Instr := .registerWrite (0x0010040C0000 + o) value
    (s.asleep = false → s.regs.ctxcmd.busy = true → exec (at_ 8) s = .next { s with regs := { s.regs with
      ctxcmd := { s.regs.ctxcmd with err := true } } }) ∧
    (s.asleep = true → ∃ t, exec (at_ 8) s = .next t ∧ t.regs.waking.isSome = true) ∧
    (∀ h < 5, exec (.registerWrite (0x0010040D0000 + 0x1000 * h) value) s = .next (s.modHead h fun x =>
      if 2 ≤ value / 2 ^ 18 % 4 then x
      else { x with hctl := BitVec.ofNat 64 (value / 2 ^ 18 % 2 ^ 46 * 2 ^ 18 + value % 2) })) ∧
    (s.asleep = false → s.regs.ctxcmd.busy = false → 1 ≤ value / 2 ^ 56 % 16 → value / 2 ^ 56 % 16 ≤ 6 →
      ∃ k, exec (at_ 8) s = .next { s with regs := { s.regs with invalAt := k, ctxcmd := { s.regs.ctxcmd with
        busy := true, err := false, op := BitVec.ofNat 4 (value / 2 ^ 56 % 16), target := BitVec.ofNat 12 (value % 2 ^ 12) } } }) ∧
    (∃ t, exec (sys 0x18) s = .next t ∧ t.time.rate.toInt =
      max (-2147483) (min 2147483 (BitVec.ofNat 32 value).toInt) ∧ t.regs = s.regs) ∧
    (value / 4 % 2 = 1 → exec (sys 0) s = .next { s with regs := { s.regs with
      ltol := BitVec.ofNat 32 (value / 2 ^ 8 % 2 ^ 32), fixed := true } }) ∧
    (value / 4 % 2 = 0 → ∃ t, exec (sys 0) s = .next t ∧ t.regs.ltol = BitVec.ofNat 32 (value / 2 ^ 8 % 2 ^ 32) ∧
      t.regs.fixed = false ∧ t.regs.fixedOn = false) ∧
    exec (sys 0x20) s = .next { s with regs := { s.regs with
      trail := BitVec.ofNat 64 (value / 2 ^ 12 % 2 ^ 36 * 4096 + value % 16) } } ∧
    exec (sys 0x30) s = .next { s with regs := { s.regs with trailrd := BitVec.ofNat 64 value } } ∧
    (s.regs.repair.busy = false → value / 2 ^ 56 % 16 = 1 ∨ value / 2 ^ 56 % 16 = 2 → exec (sys 0x88) s =
      .next { s with regs := { s.regs with repairDone := false, repair := { s.regs.repair with
        busy := true, err := false, op := BitVec.ofNat 4 (value / 2 ^ 56 % 16), target := BitVec.ofNat 12 (value % 2 ^ 8) } } })

/-! ### Words and instructions (R30 to R46) -/

/-- R30 to R33, R43, R45: every instruction that some word encodes is what its own words decode to, whatever follows
them; and whatever two words decode to is encodable, its words being those. -/
def Obligations.DecodeInvertsEncode : Prop :=
  (∀ (i : Instr) (rest : List (BitVec 64)), i.encodable = true → decodeList (encode i ++ rest) = .ok (i, rest)) ∧
  (∀ (w0 w1 : BitVec 64) (i : Instr), decode w0 w1 = .ok i →
    i.encodable = true ∧ encode i = if isLong w0 then [w0, w1] else [w0])

/-- The fields of a full-form word with the always-guard (R31). -/
def plain (d a b c : BitVec 8) (m : BitVec 12) : Fields where
  long := false
  d := d
  a := a
  b := b
  c := c
  e := 0xF0
  xmod := m
  imm := 0
  g1 := Guard.always
  g2 := Guard.always
  hint := 0

/-- Words that the manual prints beside their source: `(!v9.2) iadd v3, v1, v2`, `iadd v4, v3, #100`, a pair word,
`ld v8, v2`, `frcp v10, v3`, `st.rel.sys v2, zero, v5`, `tile.ret.all`; an unassigned opcode and form 0b11 hold no
instruction. -/
def Obligations.DecodeWords : Prop :=
  decode 0x040030102F009140 0 =
    .ok (.iadd { plain 3 1 2 0xF0 0 with g1 := ⟨9, 2, true⟩ }) ∧
  decode 0x8400403F8F0F0000 0x00000064F007C010 = .ok (.iadd { plain 4 3 0xF8 0xF0 0 with long := true, imm := 100 }) ∧
  decode 0x4002028302070103 0 = .ok (.pairWord ⟨.fadd, 4, 5, 6⟩ ⟨.fmul, 7, 1, 3⟩) ∧
  decode 0x2000802F0F0F0040 0 = .ok (.ld (plain 8 2 0xF0 0xF0 0)) ∧
  decode 0x0C00A03F0F0F0040 0 = .ok (.frcp (plain 10 3 0xF0 0xF0 0)) ∧
  decode 0x205F002F005F0060 0 = .ok (.stRel (plain 0xF0 2 0xF0 5 0x20)) ∧
  decode 0x250F0F0F0F0F0060 0 = .ok (.tileRet (plain 0xF0 0xF0 0xF0 0xF0 0x20)) ∧
  decode 0x3FF0F0F0F0F00040 0 = .error .opcode ∧ decode 0xC000000000000000 0 = .error .form

/-! ### The step -/

/-- R16, R28, R37, R95, R96: when it is a core's turn and the first sheaf in its order has a word in hand that
decodes to an
instruction, the step is that instruction's meaning, with that sheaf issuing; where the word waits at issue the
core goes on
to the next sheaf in order; a word that decodes to nothing traps the issue group with cause 5 or 6; a clause whose
words are
all behind it ends; an event that is due has its meaning, once MR0 to MR3 stand.
It rests on what the model chose or read by inference in log entries 1 and 97. -/
def Obligations.StepRunsDecoded : Prop :=
  ∀ (s : State) (l : List Move),
    let s0 := { s with schedule := l, free := s.free + 1 }
    (∀ core sid rest r, s.schedule = .issue core :: l → (s0.limitRun core).tryOrder core = sid :: rest →
      ((s0.limitRun core).sheaf sid).run = some r →
      let q := (s0.limitRun core).setCurrent sid
      (∀ i t, r.k < r.words.length → decode (r.words.getD r.k 0) (r.words.getD (r.k + 1) 0) = .ok i →
        exec i { q with cur := some sid } = .next t →
        ((t.sheaf sid).stalled = false → step s = .next t) ∧
        ((t.sheaf sid).stalled = true → step s = State.issueFirst rest t)) ∧
      (∀ e, r.k < r.words.length → decode (r.words.getD r.k 0) (r.words.getD (r.k + 1) 0) = .error e →
        let t := q.fault sid (groupOf r) r.pc (some r.k) 1 (if e = .form then 5 else 6) (groupOf r) 0
        (t.sheaf sid).stalled = false → step s = .next t) ∧
      (r.words.length ≤ r.k → step s = .next (q.endClause sid))) ∧
    (∀ i, s.schedule = .event i :: l → isEvent i = true →
      (s.regs.measured = 15 → step s = exec i s0) ∧ (s.regs.measured ≠ 15 → step s = .next s0))

/-- R28, R37: no step of the machine faults or is refused: whatever the state, the next move leads to a state, and
every
instruction and event answers a next state.
It rests on what the model chose or read by inference in log entries 1 and 6. -/
def Obligations.EveryStepGoesOn : Prop := (∀ s, Safe s) ∧ ∀ i s, ∃ t, exec i s = .next t

/-- R460, R328, R369, R446, R449, R452, R456: right after package reset no context is loaded, no sheaf, workgroup,
graph or
queue is there, the sixteen measurement registers, the trail hash, its counters, INTSTAT and the timebase are 0, no
command
runs, no port is enabled, and the device is in its running power state.
It rests on what the model chose or read by inference in log entries 3 and 4. -/
def Obligations.ResetState : Prop :=
  let s := State.reset
  s.ctxs = [] ∧ s.sheaves = [] ∧ s.wgs = [] ∧ s.graphs = [] ∧ s.ops = [] ∧ s.mem = [] ∧ s.poison = [] ∧
  (∀ n, (s.queue n).state = .disabled) ∧ (∀ n < 16, s.regs.mr.getD n 1 = 0) ∧ s.regs.trailhash = 0 ∧
  s.regs.trailwr = 0 ∧ s.regs.traillost = 0 ∧ s.regs.intstat = 0 ∧ s.now = 0 ∧ s.regs.ctxcmd.busy = false ∧
  s.regs.qcmd.busy = false ∧ s.regs.repair.busy = false ∧ s.regs.ttRun = false ∧ s.regs.pstate = 0 ∧
  (∀ d < 2, (s.base d).port.en = false ∧ (s.base d).ring.rot = true ∧ (s.base d).ring.lost = 0) ∧
  (s.mem.wf = true ∧ s.peers.wf = true)

/-- Every step keeps the GDDR 7 memory of the device and the memory of its peers in canonical form: addresses rise strictly, and no entry equals
what an
unlisted address reads as.
It rests on what the model chose or read by inference in log entry 4. -/
def Obligations.MemoryStaysCanonical : Prop :=
  ∀ s t : State, s.mem.wf = true ∧ s.peers.wf = true → step s = .next t → t.mem.wf = true ∧ t.peers.wf = true

/-! ### Frames -/

/-- The instructions that write one register with a function of their operands. -/
def oneRegister (f : Fields) : List Instr :=
  [.iadd f, .isub f, .iaddc f, .imul f, .imulh f, .imad f, .imin f, .imax f, .iabs f, .ineg f, .and f, .or f, .xor f,
   .not f, .andn f] ++
  [.shl f, .shr f, .sar f, .rot f, .bfe f, .bfi f, .popc f, .clz f, .ctz f, .brev f, .prmt f, .icmp f, .isel f, .mov f,
   .movi f] ++
  [.fadd f, .fsub f, .fmul f, .ffma f, .fmin f, .fmax f, .fcmp f, .fsel f, .frnd f, .fclass f, .fcpysgn f, .hadd2 f,
   .hmul2 f, .hfma2 f, .hmin2 f, .hmax2 f, .cvt f, .qscale f, .unpack f]

/-- An instruction that writes `n` registers from D upwards in its active lanes completes, and changes no other
register
and no taint of one, no sticky bit but those of its active lanes, no handler, mask, hit or raster register of any
thread,
no flag, tag or handler register of any sheaf, no byte of memory and nothing else of the machine, apart from where
the
sheaf's threads stand and whom the scheduler favours. -/
def RegisterFrame (i : Instr) (d : BitVec 8) (n : Nat) : Prop :=
  ∀ s sid r, Issues s i sid r → ∃ t, exec i s = .next t ∧
    (∀ k u v, (k ≠ sid ∨ v ∉ regRun d n ∨ (v.toNat < 0xC0 ∧ u ∉ acts s i sid r)) →
      (t.sheaf k).read 0 u v = (s.sheaf k).read 0 u v ∧ (t.sheaf k).taintOf u v = (s.sheaf k).taintOf u v) ∧
    (∀ k u,
      let a := (s.sheaf k).thread u
      let b := (t.sheaf k).thread u
      ((k ≠ sid ∨ u ∉ acts s i sid r) → b.ast = a.ast) ∧ b.epc = a.epc ∧ b.priv = a.priv ∧ b.ks = a.ks ∧ b.mid = a.mid ∧
      b.mst = a.mst ∧ b.xmask = a.xmask ∧ b.hit = a.hit ∧ b.raster = a.raster ∧ b.closed = a.closed ∧ b.tbhi = a.tbhi) ∧
    (∀ k,
      let a := s.sheaf k
      let b := t.sheaf k
      b.flags = a.flags ∧ b.tags = a.tags ∧ b.cause = a.cause ∧ b.fmask = a.fmask ∧ b.fa = a.fa ∧ b.live = a.live ∧
      b.entry = a.entry ∧ b.calls = a.calls ∧ b.inHandler = a.inHandler ∧ b.cpoison = a.cpoison) ∧
    (∀ c, t.core c = { s.core c with current := (t.core c).current }) ∧ (∀ a, t.mem.read a = s.mem.read a) ∧
    t = { s with sheaves := t.sheaves, cores := t.cores }

/-- R36, R39, R79: the frame of the computing instructions: each completes, and changes no register and no taint but
those of its destination in its active lanes, no sticky bit but theirs, no handler, mask, hit or raster register,
no flag,
tag or exception register, no byte of memory, and nothing else of the machine but where the sheaf's threads stand
and whom
the scheduler favours. -/
def Obligations.RegisterFrames : Prop :=
  ∀ f : Fields, (∀ i ∈ oneRegister f, RegisterFrame i f.d 1) ∧ RegisterFrame (.imadw f) f.d 2 ∧
    RegisterFrame (.lea f) f.d 2 ∧ RegisterFrame (.cvtEf f) f.d 2

/-- R163, R166, R276: the frame of `sts` and `st`.  A scratchpad store that its own core performs changes, where it is
applied, no byte of any scratchpad but those from each lane's address on, no byte of GDDR 7 and no register.  A global
store on an ordinary page without a buffer descriptor changes no memory until it is performed, and then no scratchpad, no
byte of a peer and no register; nor any byte of GDDR 7 but those from the lane's physical address on, where none of them
lies in a compressed block or is a shadow or pool byte, of which the device makes more than those bytes unspecified (R275,
R304).
It rests on what the model chose or read by inference in log entry 62. -/
def Obligations.StoreFrames : Prop :=
  ∀ (s t : State) (o u : Nat) (op : LongOp) (f : Fields), s.ops.get o = some op →
    let n := sizeBytes (f.xmod.toNat % 8)
    let registers := ∀ k l v, (t.sheaf k).read 0 l v = (s.sheaf k).read 0 l v
    (∀ core rest, op.instr = .sts f → (s.core core).fifo = o :: rest →
      exec (.scratchpadAccessApplied core 0) s = .next t →
      (∀ w a, (∀ ln ∈ op.lanes, ln.pa.toNat = w → a < ln.va.toNat ∨ ln.va.toNat + n ≤ a) →
        (t.wg w).scratch.read a = (s.wg w).scratch.read a) ∧ t.mem = s.mem ∧ registers) ∧
    (∀ ln, op.instr = .st f → op.lanes.find? (fun l => l.thread = u && !l.done) = some ln →
      ln.leaf.plural = false → ln.leaf.ca ≠ 3 → ln.leaf.bdi = 0 → ln.pa.toNat < windowBase →
      exec (.globalAccessPerformed o u) s = .next t →
      (ln.applied = none → t.mem = s.mem) ∧
      ((∀ i < n, (ln.pa.toNat + i) / 256 ∉ s.squeezed ∧ ∀ c ∈ s.allRegions, c.owns (ln.pa.toNat + i) = false) →
        ∀ a, (a < ln.pa.toNat ∨ ln.pa.toNat + n ≤ a) → t.mem.read a = s.mem.read a) ∧
      t.wgs = s.wgs ∧ t.peers = s.peers ∧ registers)

/-! ### The statements that join several claims -/

/-- Branches, calls, returns, exit, yield, sleep and breakpoint complete or trap as their rule says.
It rests on what the model chose or read by inference in log entry 65. -/
def Obligations.ControlFlow : Prop :=
  Claims.BranchesSetTargets ∧ Claims.MisalignedTargetTraps ∧ Claims.ControlEffects ∧ Claims.BreakpointTraps

/-- Bitwise operations, shifts, fields, counts and byte permutation complete with their results. -/
def Obligations.BitOperations : Prop :=
  Claims.BitwiseAndShifts ∧ Claims.BitFields ∧ Claims.BitCounts ∧ Claims.BytePermute

/-- Wide results, spilling and filling, and pair words, which read before they write.
It rests on what the model chose or read by inference in log entry 92. -/
def Obligations.PairsAndSpills : Prop :=
  Claims.PairResults ∧ Claims.SpillAndFill ∧ Claims.PairWordReadsFirst

/-- Floating and packed half instructions complete with the value and sticky bits of their rule. -/
def Obligations.FloatResults : Prop :=
  Claims.FloatResults ∧ Claims.PackedHalfResults

/-- Cross-lane instructions complete over their segments; shuffles read the lane they name; elect chooses one
thread. -/
def Obligations.CrossLane : Prop :=
  Claims.CrossLaneResults ∧ Claims.ShuffleReadsLane ∧ Claims.ElectChoosesOne

/-- Divisions and special functions enter flight, and quotient and remainder have their fixed results. -/
def Obligations.LongLatencyEntersFlight : Prop :=
  Claims.LongLatencyEntersFlight ∧ Claims.DivisionResults

/-- Scratchpad accesses enter flight; misaligned ones trap. It rests on what the model chose or read by inference
in log entry 8. -/
def Obligations.ScratchAccessesIssue : Prop :=
  Claims.ScratchAccessesIssue ∧ Claims.IllegalScratchTraps

/-- Tile instructions complete, tiles count what engines land and read, and watched waits trap. It rests on what
the model chose or read by inference in log entry 8. -/
def Obligations.TileLifecycle : Prop :=
  Claims.TileInstructionsComplete ∧ Claims.TileStatus ∧ Claims.TileCounting ∧ Claims.WatchedWaitsTrap

/-- Join instructions and waitm complete, and a waiting thread becomes ready when its condition holds or its time
is over.
It rests on what the model chose or read by inference in log entries 65, 67 and 77. -/
def Obligations.JoinsAndWaits : Prop :=
  Claims.JoinInstructionsComplete ∧ Claims.WaitmCompletes ∧ Claims.WaitEvents

/-- Copies issue, their lanes complete and their bytes move.
It rests on what the model chose or read by inference in log entries 7, 15 and 99. -/
def Obligations.Copies : Prop :=
  Claims.CopiesIssue ∧ Claims.CopyLaneCompletes ∧ Claims.CopyMovesBytes

/-- Request records are accepted and complete; format tables load and the prologue runs.
It rests on what the model chose or read by inference in log entries 7, 27, 99, 100 and 101. -/
def Obligations.RequestRecords : Prop :=
  Claims.RecordsAccepted ∧ Claims.AcceptanceEffects ∧ Claims.TensorCompletes ∧ Claims.CollectivesComplete ∧
  Claims.RecordEnd ∧ Claims.FormatLoad ∧ Claims.PrologueRuns

/-- Matrix instructions are accepted, wait for their tokens, and the engines step through their row groups. It
rests on what the model chose or read by inference in log entries 21 and 83. -/
def Obligations.MatrixOperations : Prop :=
  Claims.MatrixInstructionsAccepted ∧ Claims.OperandTokens ∧ Claims.MatrixEngineSteps

/-- A row group writes its rows of the accumulator, and integer dot products are exact. It rests on what the model
chose or read by inference in log entry 21. -/
def Obligations.MatrixValues : Prop :=
  Claims.RowGroupWrites ∧ Claims.ResultRows ∧ Claims.IntegerDotProduct

/-- Accumulator instructions complete and accumulators are loaded and stored. It rests on what the model chose or
read by inference in log entry 20. -/
def Obligations.Accumulators : Prop :=
  Claims.AccumulatorInstructions ∧ Claims.AccumulatorTransfers

/-- Weight-store instructions, fills, regions and retention.
It rests on what the model chose or read by inference in log entries 23, 60, 64 and 103. -/
def Obligations.WeightStore : Prop :=
  Claims.WeightInstructions ∧ Claims.FillProgress ∧ Claims.RegionTransitions ∧ Claims.RefusedRegionWrites ∧
  Claims.RefreshAndRetention

/-- Thresholds, Haar instructions and the jobs of the lift unit. It rests on what the model chose or read by
inference in log entry 22. -/
def Obligations.HaarDomain : Prop :=
  Claims.ThresholdRegisters ∧ Claims.HaarInstructions ∧ Claims.LiftJobs

/-- Addresses that fault before translation, the walk to a leaf, what a leaf permits, and the cached walk.
It rests on what the model chose or read by inference in log entries 14 and 74. -/
def Obligations.Translation : Prop :=
  Claims.AddressFaults ∧ Claims.WalkFindsLeaf ∧ Claims.LeafPermissions ∧ Claims.TranslationWalkFills

/-- Global loads, stores and atomics are performed at their homes with the results of their rule. It rests on what
the model chose or read by inference in log entries 13, 62 and 69. -/
def Obligations.GlobalAccessesPerformed : Prop :=
  Claims.GlobalAccessesPerformed ∧ Claims.SubMasks ∧ Claims.AtomicResults

/-- Fences and cache control complete; late memory and link faults.
It rests on what the model chose or read by inference in log entries 16, 17, 19 and 94. -/
def Obligations.FencesAndLateFaults : Prop :=
  Claims.FencesAndCacheControl ∧ Claims.LateMemoryFaults ∧ Claims.LinkLoss

/-- Plural instructions issue, and a blind write adds one sibling.
It rests on what the model chose or read by inference in log entry 90. -/
def Obligations.PluralMemory : Prop :=
  Claims.PluralInstructionsIssue ∧ Claims.PluralPerformed ∧ Claims.SiblingsAdded

/-- Peer acknowledgements, link states and accesses from outside. It rests on what the model chose or read by
inference in log entries 53 and 54. -/
def Obligations.LinksAndOutside : Prop :=
  Claims.PeerWritesAcknowledged ∧ Claims.LinkStates ∧ Claims.OutsideAccesses

/-- Lost and rotating banks, remapping steps and retried transfers of the ring store. It rests on what the model
chose or read by inference in log entries 33 and 80. -/
def Obligations.RingStore : Prop :=
  Claims.BanksAndRotation ∧ Claims.RemappingSteps ∧ Claims.ParityRetries

/-- tile.ret and rs.q complete; edges, drains, tiles, nodes, graphs and reads end.
It rests on what the model chose or read by inference in log entries 34, 44, 45, 46, 87 and 88. -/
def Obligations.TileRetirement : Prop :=
  Claims.TileRetCloses ∧ Claims.RingQueries ∧ Claims.RetirementEvents

/-- Passes enter, tiles are released and dispatched, and teams are placed. It rests on what the model chose or read
by inference in log entry 29. -/
def Obligations.Scoreboard : Prop :=
  Claims.PassesAndReleases ∧ Claims.TilesDispatch ∧ Claims.TeamsPlaced

/-- Workgroups are admitted, start and retire; sheaves retire.
It rests on what the model chose or read by inference in log entries 27, 29, 36, 78 and 84. -/
def Obligations.WorkgroupLife : Prop :=
  Claims.WorkgroupLife ∧ Claims.SheavesRetire

/-- Quad, raster and blend instructions complete. It rests on what the model chose or read by inference in log
entries 37, 40 and 41. -/
def Obligations.GraphicsInstructions : Prop :=
  Claims.QuadInstructions ∧ Claims.RasterInstructions

/-- A blended pixel is written in its turn; texture and ray instructions enter flight. It rests on what the model
chose or read by inference in log entries 39, 42 and 43. -/
def Obligations.PixelsTexturesRays : Prop :=
  Claims.BlendPerformed ∧ Claims.SamplingAndTracing

/-- tret resumes, evicts or ends. It rests on what the model chose or read by inference in log entries 10 and 26. -/
def Obligations.ReturnFromHandler : Prop :=
  Claims.ReturnFromHandler ∧ Claims.LeavingThreads

/-- Special registers are read and written, privileged ones in the handler alone. -/
def Obligations.SpecialRegisters : Prop :=
  Claims.SpecialRegisters ∧ Claims.PrivilegeChecks

/-- System calls are posted and answered; halts reach the sheaves and the parts.
It rests on what the model chose or read by inference in log entries 10, 11, 18 and 25. -/
def Obligations.SystemCallsAndHalts : Prop :=
  Claims.SystemCalls ∧ Claims.AnsweredCalls ∧ Claims.HaltsAndEngines ∧ Claims.EnginesFault

/-- The scheduler, stalls, sleeps and cross-lane waits; saving and resuming workgroups. It rests on what the model
chose or read by inference in log entries 26, 28, 65 and 66. -/
def Obligations.SchedulingAndSaving : Prop :=
  Claims.SchedulingEvents ∧ Claims.SaveAndResume

/-- Notify stores, queue commands and mapper slots.
It rests on what the model chose or read by inference in log entries 49, 50 and 98. -/
def Obligations.Queues : Prop :=
  Claims.NotifyStores ∧ Claims.QueueCommands ∧ Claims.MapperSlots

/-- Intake and admission of graphs, and the time-triggered table.
It rests on what the model chose or read by inference in log entries 31, 32, 51, 81, 98 and 102. -/
def Obligations.IntakeAndTable : Prop :=
  Claims.TimeTriggeredTable ∧ Claims.IntakeAndAdmission

/-- Repair, package reset, the trust registers and stores to the other registers.
It rests on what the model chose or read by inference in log entries 58, 59, 61 and 98. -/
def Obligations.RepairResetRegisters : Prop :=
  Claims.RepairAndReset ∧ Claims.TrustRegisters ∧ Claims.RegisterStores

/-- Display heads, the timebase and power-aware admission.
It rests on what the model chose or read by inference in log entries 55, 56, 57, 96 and 98. -/
def Obligations.DisplayTimePower : Prop :=
  Claims.DisplayHeads ∧ Claims.TimebaseSteps ∧ Claims.PowerEvents
end

