-- ==== Sys2Proof/Laws/Issue.lean ====
section
/-! SUPPORT. What the issue of a word gives once its effect is known: the effect is taken and the sheaf goes on, the
word waits, or the threads trap. -/

namespace Sys2Proof.Laws

open Machine

/-- The effect of a word is that of its meaning where no register of a matrix operation is touched. -/
theorem runTouching_apart {s : State} {sid : Nat} {who regs : List Nat} {body : State → Result}
    (h : s.touches sid regs = false) : s.runTouching sid who regs body = body s := by
  unfold State.runTouching
  cases hb : body s <;> simp [h]

/-- Guards that read no register of a matrix operation touch nothing. -/
theorem touchGuards_still {s : State} {sid : Nat} {i : Instr} {group : List Nat}
    (h : s.touches sid (guardRegs i) = false) : s.touchGuards sid i group = s := by
  simp [State.touchGuards, h]

/-- A word that comes to its own effect and is done goes on with it. -/
theorem issue_done {s s' : State} {i : Instr} {sid : Nat} {r : ClauseRun} {body : Issue → State → Result}
    (h : Issues s i sid r) (hb : body (issueOf s i sid r) s = .done s') :
    s.issue i body = s'.advance sid i := by
  have hb' : body ⟨sid, bitsOf 64 r.mask, actors i (s.sheaf sid) (bitsOf 64 r.mask)⟩ s = .done s' := hb
  simp [State.issue, h.cur, h.run, h.free, h.legal, touchGuards_still h.still, runTouching_apart h.apart, hb']

/-- A word that waits is blocked. -/
theorem issue_wait {s s' : State} {i : Instr} {sid : Nat} {r : ClauseRun} {body : Issue → State → Result}
    (h : Issues s i sid r) (hb : body (issueOf s i sid r) s = .wait s') :
    s.issue i body = s'.block sid := by
  have hb' : body ⟨sid, bitsOf 64 r.mask, actors i (s.sheaf sid) (bitsOf 64 r.mask)⟩ s = .wait s' := hb
  simp [State.issue, h.cur, h.run, h.free, h.legal, touchGuards_still h.still, runTouching_apart h.apart, hb']

/-- A word that traps takes its fault; the threads that do not fault go on. -/
theorem issue_trap {s s' : State} {i : Instr} {sid code sub addr : Nat} {who mask : List Nat} {r : ClauseRun}
    {body : Issue → State → Result} (h : Issues s i sid r)
    (hb : body (issueOf s i sid r) s = .trap who code sub mask addr s') :
    s.issue i body =
      (if ((s'.fault sid who r.pc (some r.k) code sub mask addr).sheaf sid).run.isNone
        then s'.fault sid who r.pc (some r.k) code sub mask addr
        else (s'.fault sid who r.pc (some r.k) code sub mask addr).advance sid i) := by
  have hb' : body ⟨sid, bitsOf 64 r.mask, actors i (s.sheaf sid) (bitsOf 64 r.mask)⟩ s =
      .trap who code sub mask addr s' := hb
  simp [State.issue, h.cur, h.run, h.free, h.legal, touchGuards_still h.still, runTouching_apart h.apart, hb']

/-- A word done with the effect `s'` goes to it. -/
theorem goes_of_done {s s' : State} {i : Instr} {sid : Nat} {r : ClauseRun} {body : Issue → State → Result}
    (h : Issues s i sid r) (he : exec i s = issued i body s) (hb : body (issueOf s i sid r) s = .done s') :
    Goes s i sid s' := by
  rw [Goes, he, issued, issue_done h hb]

/-- A word that waits. -/
theorem waits_of_wait {s s' : State} {i : Instr} {sid : Nat} {r : ClauseRun} {body : Issue → State → Result}
    (h : Issues s i sid r) (he : exec i s = issued i body s) (hb : body (issueOf s i sid r) s = .wait s') :
    Waits s i sid s' := by
  rw [Waits, he, issued, issue_wait h hb]

/-- A word that traps. -/
theorem traps_of_trap {s s' : State} {i : Instr} {sid code sub addr : Nat} {who mask : List Nat} {r : ClauseRun}
    {body : Issue → State → Result} (h : Issues s i sid r) (he : exec i s = issued i body s)
    (hb : body (issueOf s i sid r) s = .trap who code sub mask addr s') :
    Traps s i sid (s'.fault sid who r.pc (some r.k) code sub mask addr) := by
  rw [Traps, he, issued, issue_trap h hb]

end Sys2Proof.Laws
end

