-- ==== Sys2Proof/Laws/State.lean ====
section
/-! SUPPORT. What each update of the state leaves of each field, and what a table, a part of the machine and a byte
memory hold after an update; every memory operation keeps the canonical form. -/

namespace Sys2Proof.Machine

/-! ### Tables -/

/-- What is put is got. -/
@[simp] theorem Tab.get_put_self {α : Type} (t : Tab α) (k : Nat) (v : α) : (t.put k v).get k = some v := by
  induction t with
  | nil => simp [Tab.put, Tab.get]
  | cons p t ih =>
    obtain ⟨i, a⟩ := p
    simp only [Tab.put]
    split
    · simp [Tab.get]
    · split
      · simp [Tab.get]
      · simp [Tab.get, *]

/-- What is put elsewhere does not matter. -/
theorem Tab.get_put_ne {α : Type} (t : Tab α) {k j : Nat} (v : α) (h : j ≠ k) : (t.put k v).get j = t.get j := by
  induction t with
  | nil => simp [Tab.put, Tab.get, h.symm]
  | cons p t ih =>
    obtain ⟨i, a⟩ := p
    simp only [Tab.put]
    split
    · simp [Tab.get, h.symm]
    · split
      · rename_i hi; subst hi; simp [Tab.get, h.symm]
      · simp [Tab.get, ih]

/-- What is changed is got changed. -/
@[simp] theorem Tab.get_mod_self {α : Type} (t : Tab α) (k : Nat) (f : α → α) : (t.mod k f).get k = (t.get k).map f := by
  induction t with
  | nil => simp [Tab.mod, Tab.get]
  | cons p t ih =>
    obtain ⟨i, a⟩ := p
    simp only [Tab.mod]
    split <;> simp [Tab.get, *]

/-- What is changed elsewhere does not matter. -/
theorem Tab.get_mod_ne {α : Type} (t : Tab α) {k j : Nat} (f : α → α) (h : j ≠ k) : (t.mod k f).get j = t.get j := by
  induction t with
  | nil => simp [Tab.mod]
  | cons p t ih =>
    obtain ⟨i, a⟩ := p
    simp only [Tab.mod]
    split
    · rename_i hi; subst hi; simp [Tab.get, h.symm]
    · simp [Tab.get, ih]

/-- What is deleted is gone. -/
@[simp] theorem Tab.get_del_self {α : Type} (t : Tab α) (k : Nat) : (t.del k).get k = none := by
  induction t with
  | nil => simp [Tab.del, Tab.get]
  | cons p t ih =>
    obtain ⟨i, a⟩ := p
    simp only [Tab.del, List.filter] at ih ⊢
    split
    · rename_i hi
      simp only [Tab.get]
      rw [if_neg (by simpa using hi)]
      exact ih
    · exact ih

/-- What is deleted elsewhere does not matter. -/
theorem Tab.get_del_ne {α : Type} (t : Tab α) {k j : Nat} (h : j ≠ k) : (t.del k).get j = t.get j := by
  induction t with
  | nil => simp [Tab.del]
  | cons p t ih =>
    obtain ⟨i, a⟩ := p
    simp only [Tab.del, List.filter] at ih ⊢
    split
    · simp only [Tab.get]; split
      · rfl
      · exact ih
    · rename_i hi; simp at hi; subst hi; simp only [Tab.get]; rw [if_neg h.symm]; exact ih

/-! ### Byte memories -/

/-- A canonical form above a bound is one above a lower bound. -/
theorem Memory.wfFrom_mono {m : Memory} {lo hi : Nat} (h : lo ≤ hi) (w : Memory.wfFrom hi m = true) :
    Memory.wfFrom lo m = true := by
  cases m with
  | nil => rfl
  | cons p m =>
    obtain ⟨i, b⟩ := p
    simp only [Memory.wfFrom, Bool.and_eq_true, decide_eq_true_eq] at w ⊢
    exact ⟨⟨by omega, w.1.2⟩, w.2⟩

/-- A write at or above the bound keeps the canonical form above it. -/
theorem Memory.wfFrom_write {m : Memory} {lo a : Nat} (b : Byte) (h : lo ≤ a) (w : Memory.wfFrom lo m = true) :
    Memory.wfFrom lo (m.write a b) = true := by
  induction m generalizing lo with
  | nil => unfold Memory.write; split <;> simp_all [Memory.wfFrom]
  | cons p m ih =>
    obtain ⟨i, c⟩ := p
    simp only [Memory.wfFrom, Bool.and_eq_true, decide_eq_true_eq] at w
    unfold Memory.write
    split
    · split <;> simp_all [Memory.wfFrom]
    · split
      · rename_i hi; subst hi
        split
        · exact Memory.wfFrom_mono (by omega) w.2
        · simp_all [Memory.wfFrom]
      · simp only [Memory.wfFrom, Bool.and_eq_true, decide_eq_true_eq]
        exact ⟨w.1, ih (by omega) w.2⟩

/-- A write keeps the canonical form. -/
theorem Memory.wf_write {m : Memory} (a : Nat) (b : Byte) (w : m.wf = true) : (m.write a b).wf = true :=
  Memory.wfFrom_write b (Nat.zero_le a) w

/-- So do the bytes stored from an address upwards. -/
theorem Memory.wf_writeN {m : Memory} (a : Nat) (bs : List Byte) (w : m.wf = true) : (m.writeN a bs).wf = true := by
  induction bs generalizing m a with
  | nil => exact w
  | cons b bs ih => exact ih (a + 1) (Memory.wf_write a b w)

/-- And a number stored in bytes. -/
theorem Memory.wf_putNum {m : Memory} (a n x : Nat) (w : m.wf = true) : (m.putNum a n x).wf = true :=
  Memory.wf_writeN a _ w

/-- The memories at reset are in canonical form. -/
theorem State.reset_wf : State.reset.mem.wf = true ∧ State.reset.peers.wf = true := ⟨rfl, rfl⟩

/-! ### Fields after an update -/

/-- What `State.modSheaf` leaves. -/
@[simp] theorem State.modSheaf_form (s : State) (k : Nat) (f : Sheaf → Sheaf) : (s.modSheaf k f).form = s.form := rfl
@[simp] theorem State.modSheaf_schedule (s : State) (k : Nat) (f : Sheaf → Sheaf) : (s.modSheaf k f).schedule = s.schedule := rfl
@[simp] theorem State.modSheaf_turn (s : State) (k : Nat) (f : Sheaf → Sheaf) : (s.modSheaf k f).turn = s.turn := rfl
@[simp] theorem State.modSheaf_free (s : State) (k : Nat) (f : Sheaf → Sheaf) : (s.modSheaf k f).free = s.free := rfl
@[simp] theorem State.modSheaf_next (s : State) (k : Nat) (f : Sheaf → Sheaf) : (s.modSheaf k f).next = s.next := rfl
@[simp] theorem State.modSheaf_cur (s : State) (k : Nat) (f : Sheaf → Sheaf) : (s.modSheaf k f).cur = s.cur := rfl
@[simp] theorem State.modSheaf_time (s : State) (k : Nat) (f : Sheaf → Sheaf) : (s.modSheaf k f).time = s.time := rfl
@[simp] theorem State.modSheaf_wgs (s : State) (k : Nat) (f : Sheaf → Sheaf) : (s.modSheaf k f).wgs = s.wgs := rfl
@[simp] theorem State.modSheaf_cores (s : State) (k : Nat) (f : Sheaf → Sheaf) : (s.modSheaf k f).cores = s.cores := rfl
@[simp] theorem State.modSheaf_pods (s : State) (k : Nat) (f : Sheaf → Sheaf) : (s.modSheaf k f).pods = s.pods := rfl
@[simp] theorem State.modSheaf_dies (s : State) (k : Nat) (f : Sheaf → Sheaf) : (s.modSheaf k f).dies = s.dies := rfl
@[simp] theorem State.modSheaf_bases (s : State) (k : Nat) (f : Sheaf → Sheaf) : (s.modSheaf k f).bases = s.bases := rfl
@[simp] theorem State.modSheaf_ctxs (s : State) (k : Nat) (f : Sheaf → Sheaf) : (s.modSheaf k f).ctxs = s.ctxs := rfl
@[simp] theorem State.modSheaf_graphs (s : State) (k : Nat) (f : Sheaf → Sheaf) : (s.modSheaf k f).graphs = s.graphs := rfl
@[simp] theorem State.modSheaf_queues (s : State) (k : Nat) (f : Sheaf → Sheaf) : (s.modSheaf k f).queues = s.queues := rfl
@[simp] theorem State.modSheaf_heads (s : State) (k : Nat) (f : Sheaf → Sheaf) : (s.modSheaf k f).heads = s.heads := rfl
@[simp] theorem State.modSheaf_launches (s : State) (k : Nat) (f : Sheaf → Sheaf) : (s.modSheaf k f).launches = s.launches := rfl
@[simp] theorem State.modSheaf_recs (s : State) (k : Nat) (f : Sheaf → Sheaf) : (s.modSheaf k f).recs = s.recs := rfl
@[simp] theorem State.modSheaf_mem (s : State) (k : Nat) (f : Sheaf → Sheaf) : (s.modSheaf k f).mem = s.mem := rfl
@[simp] theorem State.modSheaf_poison (s : State) (k : Nat) (f : Sheaf → Sheaf) : (s.modSheaf k f).poison = s.poison := rfl
@[simp] theorem State.modSheaf_peers (s : State) (k : Nat) (f : Sheaf → Sheaf) : (s.modSheaf k f).peers = s.peers := rfl
@[simp] theorem State.modSheaf_ops (s : State) (k : Nat) (f : Sheaf → Sheaf) : (s.modSheaf k f).ops = s.ops := rfl
@[simp] theorem State.modSheaf_regs (s : State) (k : Nat) (f : Sheaf → Sheaf) : (s.modSheaf k f).regs = s.regs := rfl
@[simp] theorem State.modSheaf_hot (s : State) (k : Nat) (f : Sheaf → Sheaf) : (s.modSheaf k f).hot = s.hot := rfl
@[simp] theorem State.modSheaf_squeezed (s : State) (k : Nat) (f : Sheaf → Sheaf) : (s.modSheaf k f).squeezed = s.squeezed := rfl
@[simp] theorem State.modSheaf_writes (s : State) (k : Nat) (f : Sheaf → Sheaf) : (s.modSheaf k f).writes = s.writes := rfl
@[simp] theorem State.modSheaf_was (s : State) (k : Nat) (f : Sheaf → Sheaf) : (s.modSheaf k f).was = s.was := rfl

/-- What `State.modWg` leaves. -/
@[simp] theorem State.modWg_form (s : State) (k : Nat) (f : Workgroup → Workgroup) : (s.modWg k f).form = s.form := rfl
@[simp] theorem State.modWg_schedule (s : State) (k : Nat) (f : Workgroup → Workgroup) : (s.modWg k f).schedule = s.schedule := rfl
@[simp] theorem State.modWg_turn (s : State) (k : Nat) (f : Workgroup → Workgroup) : (s.modWg k f).turn = s.turn := rfl
@[simp] theorem State.modWg_free (s : State) (k : Nat) (f : Workgroup → Workgroup) : (s.modWg k f).free = s.free := rfl
@[simp] theorem State.modWg_next (s : State) (k : Nat) (f : Workgroup → Workgroup) : (s.modWg k f).next = s.next := rfl
@[simp] theorem State.modWg_cur (s : State) (k : Nat) (f : Workgroup → Workgroup) : (s.modWg k f).cur = s.cur := rfl
@[simp] theorem State.modWg_time (s : State) (k : Nat) (f : Workgroup → Workgroup) : (s.modWg k f).time = s.time := rfl
@[simp] theorem State.modWg_sheaves (s : State) (k : Nat) (f : Workgroup → Workgroup) : (s.modWg k f).sheaves = s.sheaves := rfl
@[simp] theorem State.modWg_cores (s : State) (k : Nat) (f : Workgroup → Workgroup) : (s.modWg k f).cores = s.cores := rfl
@[simp] theorem State.modWg_pods (s : State) (k : Nat) (f : Workgroup → Workgroup) : (s.modWg k f).pods = s.pods := rfl
@[simp] theorem State.modWg_dies (s : State) (k : Nat) (f : Workgroup → Workgroup) : (s.modWg k f).dies = s.dies := rfl
@[simp] theorem State.modWg_bases (s : State) (k : Nat) (f : Workgroup → Workgroup) : (s.modWg k f).bases = s.bases := rfl
@[simp] theorem State.modWg_ctxs (s : State) (k : Nat) (f : Workgroup → Workgroup) : (s.modWg k f).ctxs = s.ctxs := rfl
@[simp] theorem State.modWg_graphs (s : State) (k : Nat) (f : Workgroup → Workgroup) : (s.modWg k f).graphs = s.graphs := rfl
@[simp] theorem State.modWg_queues (s : State) (k : Nat) (f : Workgroup → Workgroup) : (s.modWg k f).queues = s.queues := rfl
@[simp] theorem State.modWg_heads (s : State) (k : Nat) (f : Workgroup → Workgroup) : (s.modWg k f).heads = s.heads := rfl
@[simp] theorem State.modWg_launches (s : State) (k : Nat) (f : Workgroup → Workgroup) : (s.modWg k f).launches = s.launches := rfl
@[simp] theorem State.modWg_recs (s : State) (k : Nat) (f : Workgroup → Workgroup) : (s.modWg k f).recs = s.recs := rfl
@[simp] theorem State.modWg_mem (s : State) (k : Nat) (f : Workgroup → Workgroup) : (s.modWg k f).mem = s.mem := rfl
@[simp] theorem State.modWg_poison (s : State) (k : Nat) (f : Workgroup → Workgroup) : (s.modWg k f).poison = s.poison := rfl
@[simp] theorem State.modWg_peers (s : State) (k : Nat) (f : Workgroup → Workgroup) : (s.modWg k f).peers = s.peers := rfl
@[simp] theorem State.modWg_ops (s : State) (k : Nat) (f : Workgroup → Workgroup) : (s.modWg k f).ops = s.ops := rfl
@[simp] theorem State.modWg_regs (s : State) (k : Nat) (f : Workgroup → Workgroup) : (s.modWg k f).regs = s.regs := rfl
@[simp] theorem State.modWg_hot (s : State) (k : Nat) (f : Workgroup → Workgroup) : (s.modWg k f).hot = s.hot := rfl
@[simp] theorem State.modWg_squeezed (s : State) (k : Nat) (f : Workgroup → Workgroup) : (s.modWg k f).squeezed = s.squeezed := rfl
@[simp] theorem State.modWg_writes (s : State) (k : Nat) (f : Workgroup → Workgroup) : (s.modWg k f).writes = s.writes := rfl
@[simp] theorem State.modWg_was (s : State) (k : Nat) (f : Workgroup → Workgroup) : (s.modWg k f).was = s.was := rfl

/-- What `State.modCore` leaves. -/
@[simp] theorem State.modCore_form (s : State) (k : Nat) (f : Core → Core) : (s.modCore k f).form = s.form := rfl
@[simp] theorem State.modCore_schedule (s : State) (k : Nat) (f : Core → Core) : (s.modCore k f).schedule = s.schedule := rfl
@[simp] theorem State.modCore_turn (s : State) (k : Nat) (f : Core → Core) : (s.modCore k f).turn = s.turn := rfl
@[simp] theorem State.modCore_free (s : State) (k : Nat) (f : Core → Core) : (s.modCore k f).free = s.free := rfl
@[simp] theorem State.modCore_next (s : State) (k : Nat) (f : Core → Core) : (s.modCore k f).next = s.next := rfl
@[simp] theorem State.modCore_cur (s : State) (k : Nat) (f : Core → Core) : (s.modCore k f).cur = s.cur := rfl
@[simp] theorem State.modCore_time (s : State) (k : Nat) (f : Core → Core) : (s.modCore k f).time = s.time := rfl
@[simp] theorem State.modCore_sheaves (s : State) (k : Nat) (f : Core → Core) : (s.modCore k f).sheaves = s.sheaves := rfl
@[simp] theorem State.modCore_wgs (s : State) (k : Nat) (f : Core → Core) : (s.modCore k f).wgs = s.wgs := rfl
@[simp] theorem State.modCore_pods (s : State) (k : Nat) (f : Core → Core) : (s.modCore k f).pods = s.pods := rfl
@[simp] theorem State.modCore_dies (s : State) (k : Nat) (f : Core → Core) : (s.modCore k f).dies = s.dies := rfl
@[simp] theorem State.modCore_bases (s : State) (k : Nat) (f : Core → Core) : (s.modCore k f).bases = s.bases := rfl
@[simp] theorem State.modCore_ctxs (s : State) (k : Nat) (f : Core → Core) : (s.modCore k f).ctxs = s.ctxs := rfl
@[simp] theorem State.modCore_graphs (s : State) (k : Nat) (f : Core → Core) : (s.modCore k f).graphs = s.graphs := rfl
@[simp] theorem State.modCore_queues (s : State) (k : Nat) (f : Core → Core) : (s.modCore k f).queues = s.queues := rfl
@[simp] theorem State.modCore_heads (s : State) (k : Nat) (f : Core → Core) : (s.modCore k f).heads = s.heads := rfl
@[simp] theorem State.modCore_launches (s : State) (k : Nat) (f : Core → Core) : (s.modCore k f).launches = s.launches := rfl
@[simp] theorem State.modCore_recs (s : State) (k : Nat) (f : Core → Core) : (s.modCore k f).recs = s.recs := rfl
@[simp] theorem State.modCore_mem (s : State) (k : Nat) (f : Core → Core) : (s.modCore k f).mem = s.mem := rfl
@[simp] theorem State.modCore_poison (s : State) (k : Nat) (f : Core → Core) : (s.modCore k f).poison = s.poison := rfl
@[simp] theorem State.modCore_peers (s : State) (k : Nat) (f : Core → Core) : (s.modCore k f).peers = s.peers := rfl
@[simp] theorem State.modCore_ops (s : State) (k : Nat) (f : Core → Core) : (s.modCore k f).ops = s.ops := rfl
@[simp] theorem State.modCore_regs (s : State) (k : Nat) (f : Core → Core) : (s.modCore k f).regs = s.regs := rfl
@[simp] theorem State.modCore_hot (s : State) (k : Nat) (f : Core → Core) : (s.modCore k f).hot = s.hot := rfl
@[simp] theorem State.modCore_squeezed (s : State) (k : Nat) (f : Core → Core) : (s.modCore k f).squeezed = s.squeezed := rfl
@[simp] theorem State.modCore_writes (s : State) (k : Nat) (f : Core → Core) : (s.modCore k f).writes = s.writes := rfl
@[simp] theorem State.modCore_was (s : State) (k : Nat) (f : Core → Core) : (s.modCore k f).was = s.was := rfl

/-- What `State.modPod` leaves. -/
@[simp] theorem State.modPod_form (s : State) (k : Nat) (f : Pod → Pod) : (s.modPod k f).form = s.form := rfl
@[simp] theorem State.modPod_schedule (s : State) (k : Nat) (f : Pod → Pod) : (s.modPod k f).schedule = s.schedule := rfl
@[simp] theorem State.modPod_turn (s : State) (k : Nat) (f : Pod → Pod) : (s.modPod k f).turn = s.turn := rfl
@[simp] theorem State.modPod_free (s : State) (k : Nat) (f : Pod → Pod) : (s.modPod k f).free = s.free := rfl
@[simp] theorem State.modPod_next (s : State) (k : Nat) (f : Pod → Pod) : (s.modPod k f).next = s.next := rfl
@[simp] theorem State.modPod_cur (s : State) (k : Nat) (f : Pod → Pod) : (s.modPod k f).cur = s.cur := rfl
@[simp] theorem State.modPod_time (s : State) (k : Nat) (f : Pod → Pod) : (s.modPod k f).time = s.time := rfl
@[simp] theorem State.modPod_sheaves (s : State) (k : Nat) (f : Pod → Pod) : (s.modPod k f).sheaves = s.sheaves := rfl
@[simp] theorem State.modPod_wgs (s : State) (k : Nat) (f : Pod → Pod) : (s.modPod k f).wgs = s.wgs := rfl
@[simp] theorem State.modPod_cores (s : State) (k : Nat) (f : Pod → Pod) : (s.modPod k f).cores = s.cores := rfl
@[simp] theorem State.modPod_dies (s : State) (k : Nat) (f : Pod → Pod) : (s.modPod k f).dies = s.dies := rfl
@[simp] theorem State.modPod_bases (s : State) (k : Nat) (f : Pod → Pod) : (s.modPod k f).bases = s.bases := rfl
@[simp] theorem State.modPod_ctxs (s : State) (k : Nat) (f : Pod → Pod) : (s.modPod k f).ctxs = s.ctxs := rfl
@[simp] theorem State.modPod_graphs (s : State) (k : Nat) (f : Pod → Pod) : (s.modPod k f).graphs = s.graphs := rfl
@[simp] theorem State.modPod_queues (s : State) (k : Nat) (f : Pod → Pod) : (s.modPod k f).queues = s.queues := rfl
@[simp] theorem State.modPod_heads (s : State) (k : Nat) (f : Pod → Pod) : (s.modPod k f).heads = s.heads := rfl
@[simp] theorem State.modPod_launches (s : State) (k : Nat) (f : Pod → Pod) : (s.modPod k f).launches = s.launches := rfl
@[simp] theorem State.modPod_recs (s : State) (k : Nat) (f : Pod → Pod) : (s.modPod k f).recs = s.recs := rfl
@[simp] theorem State.modPod_mem (s : State) (k : Nat) (f : Pod → Pod) : (s.modPod k f).mem = s.mem := rfl
@[simp] theorem State.modPod_poison (s : State) (k : Nat) (f : Pod → Pod) : (s.modPod k f).poison = s.poison := rfl
@[simp] theorem State.modPod_peers (s : State) (k : Nat) (f : Pod → Pod) : (s.modPod k f).peers = s.peers := rfl
@[simp] theorem State.modPod_ops (s : State) (k : Nat) (f : Pod → Pod) : (s.modPod k f).ops = s.ops := rfl
@[simp] theorem State.modPod_regs (s : State) (k : Nat) (f : Pod → Pod) : (s.modPod k f).regs = s.regs := rfl
@[simp] theorem State.modPod_hot (s : State) (k : Nat) (f : Pod → Pod) : (s.modPod k f).hot = s.hot := rfl
@[simp] theorem State.modPod_squeezed (s : State) (k : Nat) (f : Pod → Pod) : (s.modPod k f).squeezed = s.squeezed := rfl
@[simp] theorem State.modPod_writes (s : State) (k : Nat) (f : Pod → Pod) : (s.modPod k f).writes = s.writes := rfl
@[simp] theorem State.modPod_was (s : State) (k : Nat) (f : Pod → Pod) : (s.modPod k f).was = s.was := rfl

/-- What `State.modDie` leaves. -/
@[simp] theorem State.modDie_form (s : State) (k : Nat) (f : ComputeDie → ComputeDie) : (s.modDie k f).form = s.form := rfl
@[simp] theorem State.modDie_schedule (s : State) (k : Nat) (f : ComputeDie → ComputeDie) : (s.modDie k f).schedule = s.schedule := rfl
@[simp] theorem State.modDie_turn (s : State) (k : Nat) (f : ComputeDie → ComputeDie) : (s.modDie k f).turn = s.turn := rfl
@[simp] theorem State.modDie_free (s : State) (k : Nat) (f : ComputeDie → ComputeDie) : (s.modDie k f).free = s.free := rfl
@[simp] theorem State.modDie_next (s : State) (k : Nat) (f : ComputeDie → ComputeDie) : (s.modDie k f).next = s.next := rfl
@[simp] theorem State.modDie_cur (s : State) (k : Nat) (f : ComputeDie → ComputeDie) : (s.modDie k f).cur = s.cur := rfl
@[simp] theorem State.modDie_time (s : State) (k : Nat) (f : ComputeDie → ComputeDie) : (s.modDie k f).time = s.time := rfl
@[simp] theorem State.modDie_sheaves (s : State) (k : Nat) (f : ComputeDie → ComputeDie) : (s.modDie k f).sheaves = s.sheaves := rfl
@[simp] theorem State.modDie_wgs (s : State) (k : Nat) (f : ComputeDie → ComputeDie) : (s.modDie k f).wgs = s.wgs := rfl
@[simp] theorem State.modDie_cores (s : State) (k : Nat) (f : ComputeDie → ComputeDie) : (s.modDie k f).cores = s.cores := rfl
@[simp] theorem State.modDie_pods (s : State) (k : Nat) (f : ComputeDie → ComputeDie) : (s.modDie k f).pods = s.pods := rfl
@[simp] theorem State.modDie_bases (s : State) (k : Nat) (f : ComputeDie → ComputeDie) : (s.modDie k f).bases = s.bases := rfl
@[simp] theorem State.modDie_ctxs (s : State) (k : Nat) (f : ComputeDie → ComputeDie) : (s.modDie k f).ctxs = s.ctxs := rfl
@[simp] theorem State.modDie_graphs (s : State) (k : Nat) (f : ComputeDie → ComputeDie) : (s.modDie k f).graphs = s.graphs := rfl
@[simp] theorem State.modDie_queues (s : State) (k : Nat) (f : ComputeDie → ComputeDie) : (s.modDie k f).queues = s.queues := rfl
@[simp] theorem State.modDie_heads (s : State) (k : Nat) (f : ComputeDie → ComputeDie) : (s.modDie k f).heads = s.heads := rfl
@[simp] theorem State.modDie_launches (s : State) (k : Nat) (f : ComputeDie → ComputeDie) : (s.modDie k f).launches = s.launches := rfl
@[simp] theorem State.modDie_recs (s : State) (k : Nat) (f : ComputeDie → ComputeDie) : (s.modDie k f).recs = s.recs := rfl
@[simp] theorem State.modDie_mem (s : State) (k : Nat) (f : ComputeDie → ComputeDie) : (s.modDie k f).mem = s.mem := rfl
@[simp] theorem State.modDie_poison (s : State) (k : Nat) (f : ComputeDie → ComputeDie) : (s.modDie k f).poison = s.poison := rfl
@[simp] theorem State.modDie_peers (s : State) (k : Nat) (f : ComputeDie → ComputeDie) : (s.modDie k f).peers = s.peers := rfl
@[simp] theorem State.modDie_ops (s : State) (k : Nat) (f : ComputeDie → ComputeDie) : (s.modDie k f).ops = s.ops := rfl
@[simp] theorem State.modDie_regs (s : State) (k : Nat) (f : ComputeDie → ComputeDie) : (s.modDie k f).regs = s.regs := rfl
@[simp] theorem State.modDie_hot (s : State) (k : Nat) (f : ComputeDie → ComputeDie) : (s.modDie k f).hot = s.hot := rfl
@[simp] theorem State.modDie_squeezed (s : State) (k : Nat) (f : ComputeDie → ComputeDie) : (s.modDie k f).squeezed = s.squeezed := rfl
@[simp] theorem State.modDie_writes (s : State) (k : Nat) (f : ComputeDie → ComputeDie) : (s.modDie k f).writes = s.writes := rfl
@[simp] theorem State.modDie_was (s : State) (k : Nat) (f : ComputeDie → ComputeDie) : (s.modDie k f).was = s.was := rfl

/-- What `State.modBase` leaves. -/
@[simp] theorem State.modBase_form (s : State) (k : Nat) (f : BaseDie → BaseDie) : (s.modBase k f).form = s.form := rfl
@[simp] theorem State.modBase_schedule (s : State) (k : Nat) (f : BaseDie → BaseDie) : (s.modBase k f).schedule = s.schedule := rfl
@[simp] theorem State.modBase_turn (s : State) (k : Nat) (f : BaseDie → BaseDie) : (s.modBase k f).turn = s.turn := rfl
@[simp] theorem State.modBase_free (s : State) (k : Nat) (f : BaseDie → BaseDie) : (s.modBase k f).free = s.free := rfl
@[simp] theorem State.modBase_next (s : State) (k : Nat) (f : BaseDie → BaseDie) : (s.modBase k f).next = s.next := rfl
@[simp] theorem State.modBase_cur (s : State) (k : Nat) (f : BaseDie → BaseDie) : (s.modBase k f).cur = s.cur := rfl
@[simp] theorem State.modBase_time (s : State) (k : Nat) (f : BaseDie → BaseDie) : (s.modBase k f).time = s.time := rfl
@[simp] theorem State.modBase_sheaves (s : State) (k : Nat) (f : BaseDie → BaseDie) : (s.modBase k f).sheaves = s.sheaves := rfl
@[simp] theorem State.modBase_wgs (s : State) (k : Nat) (f : BaseDie → BaseDie) : (s.modBase k f).wgs = s.wgs := rfl
@[simp] theorem State.modBase_cores (s : State) (k : Nat) (f : BaseDie → BaseDie) : (s.modBase k f).cores = s.cores := rfl
@[simp] theorem State.modBase_pods (s : State) (k : Nat) (f : BaseDie → BaseDie) : (s.modBase k f).pods = s.pods := rfl
@[simp] theorem State.modBase_dies (s : State) (k : Nat) (f : BaseDie → BaseDie) : (s.modBase k f).dies = s.dies := rfl
@[simp] theorem State.modBase_ctxs (s : State) (k : Nat) (f : BaseDie → BaseDie) : (s.modBase k f).ctxs = s.ctxs := rfl
@[simp] theorem State.modBase_graphs (s : State) (k : Nat) (f : BaseDie → BaseDie) : (s.modBase k f).graphs = s.graphs := rfl
@[simp] theorem State.modBase_queues (s : State) (k : Nat) (f : BaseDie → BaseDie) : (s.modBase k f).queues = s.queues := rfl
@[simp] theorem State.modBase_heads (s : State) (k : Nat) (f : BaseDie → BaseDie) : (s.modBase k f).heads = s.heads := rfl
@[simp] theorem State.modBase_launches (s : State) (k : Nat) (f : BaseDie → BaseDie) : (s.modBase k f).launches = s.launches := rfl
@[simp] theorem State.modBase_recs (s : State) (k : Nat) (f : BaseDie → BaseDie) : (s.modBase k f).recs = s.recs := rfl
@[simp] theorem State.modBase_mem (s : State) (k : Nat) (f : BaseDie → BaseDie) : (s.modBase k f).mem = s.mem := rfl
@[simp] theorem State.modBase_poison (s : State) (k : Nat) (f : BaseDie → BaseDie) : (s.modBase k f).poison = s.poison := rfl
@[simp] theorem State.modBase_peers (s : State) (k : Nat) (f : BaseDie → BaseDie) : (s.modBase k f).peers = s.peers := rfl
@[simp] theorem State.modBase_ops (s : State) (k : Nat) (f : BaseDie → BaseDie) : (s.modBase k f).ops = s.ops := rfl
@[simp] theorem State.modBase_regs (s : State) (k : Nat) (f : BaseDie → BaseDie) : (s.modBase k f).regs = s.regs := rfl
@[simp] theorem State.modBase_hot (s : State) (k : Nat) (f : BaseDie → BaseDie) : (s.modBase k f).hot = s.hot := rfl
@[simp] theorem State.modBase_squeezed (s : State) (k : Nat) (f : BaseDie → BaseDie) : (s.modBase k f).squeezed = s.squeezed := rfl
@[simp] theorem State.modBase_writes (s : State) (k : Nat) (f : BaseDie → BaseDie) : (s.modBase k f).writes = s.writes := rfl
@[simp] theorem State.modBase_was (s : State) (k : Nat) (f : BaseDie → BaseDie) : (s.modBase k f).was = s.was := rfl

/-- What `State.modRing` leaves. -/
@[simp] theorem State.modRing_form (s : State) (k : Nat) (f : RingStore → RingStore) : (s.modRing k f).form = s.form := rfl
@[simp] theorem State.modRing_schedule (s : State) (k : Nat) (f : RingStore → RingStore) : (s.modRing k f).schedule = s.schedule := rfl
@[simp] theorem State.modRing_turn (s : State) (k : Nat) (f : RingStore → RingStore) : (s.modRing k f).turn = s.turn := rfl
@[simp] theorem State.modRing_free (s : State) (k : Nat) (f : RingStore → RingStore) : (s.modRing k f).free = s.free := rfl
@[simp] theorem State.modRing_next (s : State) (k : Nat) (f : RingStore → RingStore) : (s.modRing k f).next = s.next := rfl
@[simp] theorem State.modRing_cur (s : State) (k : Nat) (f : RingStore → RingStore) : (s.modRing k f).cur = s.cur := rfl
@[simp] theorem State.modRing_time (s : State) (k : Nat) (f : RingStore → RingStore) : (s.modRing k f).time = s.time := rfl
@[simp] theorem State.modRing_sheaves (s : State) (k : Nat) (f : RingStore → RingStore) : (s.modRing k f).sheaves = s.sheaves := rfl
@[simp] theorem State.modRing_wgs (s : State) (k : Nat) (f : RingStore → RingStore) : (s.modRing k f).wgs = s.wgs := rfl
@[simp] theorem State.modRing_cores (s : State) (k : Nat) (f : RingStore → RingStore) : (s.modRing k f).cores = s.cores := rfl
@[simp] theorem State.modRing_pods (s : State) (k : Nat) (f : RingStore → RingStore) : (s.modRing k f).pods = s.pods := rfl
@[simp] theorem State.modRing_dies (s : State) (k : Nat) (f : RingStore → RingStore) : (s.modRing k f).dies = s.dies := rfl
@[simp] theorem State.modRing_ctxs (s : State) (k : Nat) (f : RingStore → RingStore) : (s.modRing k f).ctxs = s.ctxs := rfl
@[simp] theorem State.modRing_graphs (s : State) (k : Nat) (f : RingStore → RingStore) : (s.modRing k f).graphs = s.graphs := rfl
@[simp] theorem State.modRing_queues (s : State) (k : Nat) (f : RingStore → RingStore) : (s.modRing k f).queues = s.queues := rfl
@[simp] theorem State.modRing_heads (s : State) (k : Nat) (f : RingStore → RingStore) : (s.modRing k f).heads = s.heads := rfl
@[simp] theorem State.modRing_launches (s : State) (k : Nat) (f : RingStore → RingStore) : (s.modRing k f).launches = s.launches := rfl
@[simp] theorem State.modRing_recs (s : State) (k : Nat) (f : RingStore → RingStore) : (s.modRing k f).recs = s.recs := rfl
@[simp] theorem State.modRing_mem (s : State) (k : Nat) (f : RingStore → RingStore) : (s.modRing k f).mem = s.mem := rfl
@[simp] theorem State.modRing_poison (s : State) (k : Nat) (f : RingStore → RingStore) : (s.modRing k f).poison = s.poison := rfl
@[simp] theorem State.modRing_peers (s : State) (k : Nat) (f : RingStore → RingStore) : (s.modRing k f).peers = s.peers := rfl
@[simp] theorem State.modRing_ops (s : State) (k : Nat) (f : RingStore → RingStore) : (s.modRing k f).ops = s.ops := rfl
@[simp] theorem State.modRing_regs (s : State) (k : Nat) (f : RingStore → RingStore) : (s.modRing k f).regs = s.regs := rfl
@[simp] theorem State.modRing_hot (s : State) (k : Nat) (f : RingStore → RingStore) : (s.modRing k f).hot = s.hot := rfl
@[simp] theorem State.modRing_squeezed (s : State) (k : Nat) (f : RingStore → RingStore) : (s.modRing k f).squeezed = s.squeezed := rfl
@[simp] theorem State.modRing_writes (s : State) (k : Nat) (f : RingStore → RingStore) : (s.modRing k f).writes = s.writes := rfl
@[simp] theorem State.modRing_was (s : State) (k : Nat) (f : RingStore → RingStore) : (s.modRing k f).was = s.was := rfl

/-- What `State.modCtx` leaves. -/
@[simp] theorem State.modCtx_form (s : State) (k : Nat) (f : Ctx → Ctx) : (s.modCtx k f).form = s.form := rfl
@[simp] theorem State.modCtx_schedule (s : State) (k : Nat) (f : Ctx → Ctx) : (s.modCtx k f).schedule = s.schedule := rfl
@[simp] theorem State.modCtx_turn (s : State) (k : Nat) (f : Ctx → Ctx) : (s.modCtx k f).turn = s.turn := rfl
@[simp] theorem State.modCtx_free (s : State) (k : Nat) (f : Ctx → Ctx) : (s.modCtx k f).free = s.free := rfl
@[simp] theorem State.modCtx_next (s : State) (k : Nat) (f : Ctx → Ctx) : (s.modCtx k f).next = s.next := rfl
@[simp] theorem State.modCtx_cur (s : State) (k : Nat) (f : Ctx → Ctx) : (s.modCtx k f).cur = s.cur := rfl
@[simp] theorem State.modCtx_time (s : State) (k : Nat) (f : Ctx → Ctx) : (s.modCtx k f).time = s.time := rfl
@[simp] theorem State.modCtx_sheaves (s : State) (k : Nat) (f : Ctx → Ctx) : (s.modCtx k f).sheaves = s.sheaves := rfl
@[simp] theorem State.modCtx_wgs (s : State) (k : Nat) (f : Ctx → Ctx) : (s.modCtx k f).wgs = s.wgs := rfl
@[simp] theorem State.modCtx_cores (s : State) (k : Nat) (f : Ctx → Ctx) : (s.modCtx k f).cores = s.cores := rfl
@[simp] theorem State.modCtx_pods (s : State) (k : Nat) (f : Ctx → Ctx) : (s.modCtx k f).pods = s.pods := rfl
@[simp] theorem State.modCtx_dies (s : State) (k : Nat) (f : Ctx → Ctx) : (s.modCtx k f).dies = s.dies := rfl
@[simp] theorem State.modCtx_bases (s : State) (k : Nat) (f : Ctx → Ctx) : (s.modCtx k f).bases = s.bases := rfl
@[simp] theorem State.modCtx_graphs (s : State) (k : Nat) (f : Ctx → Ctx) : (s.modCtx k f).graphs = s.graphs := rfl
@[simp] theorem State.modCtx_queues (s : State) (k : Nat) (f : Ctx → Ctx) : (s.modCtx k f).queues = s.queues := rfl
@[simp] theorem State.modCtx_heads (s : State) (k : Nat) (f : Ctx → Ctx) : (s.modCtx k f).heads = s.heads := rfl
@[simp] theorem State.modCtx_launches (s : State) (k : Nat) (f : Ctx → Ctx) : (s.modCtx k f).launches = s.launches := rfl
@[simp] theorem State.modCtx_recs (s : State) (k : Nat) (f : Ctx → Ctx) : (s.modCtx k f).recs = s.recs := rfl
@[simp] theorem State.modCtx_mem (s : State) (k : Nat) (f : Ctx → Ctx) : (s.modCtx k f).mem = s.mem := rfl
@[simp] theorem State.modCtx_poison (s : State) (k : Nat) (f : Ctx → Ctx) : (s.modCtx k f).poison = s.poison := rfl
@[simp] theorem State.modCtx_peers (s : State) (k : Nat) (f : Ctx → Ctx) : (s.modCtx k f).peers = s.peers := rfl
@[simp] theorem State.modCtx_ops (s : State) (k : Nat) (f : Ctx → Ctx) : (s.modCtx k f).ops = s.ops := rfl
@[simp] theorem State.modCtx_regs (s : State) (k : Nat) (f : Ctx → Ctx) : (s.modCtx k f).regs = s.regs := rfl
@[simp] theorem State.modCtx_hot (s : State) (k : Nat) (f : Ctx → Ctx) : (s.modCtx k f).hot = s.hot := rfl
@[simp] theorem State.modCtx_squeezed (s : State) (k : Nat) (f : Ctx → Ctx) : (s.modCtx k f).squeezed = s.squeezed := rfl
@[simp] theorem State.modCtx_writes (s : State) (k : Nat) (f : Ctx → Ctx) : (s.modCtx k f).writes = s.writes := rfl
@[simp] theorem State.modCtx_was (s : State) (k : Nat) (f : Ctx → Ctx) : (s.modCtx k f).was = s.was := rfl

/-- What `State.modGraph` leaves. -/
@[simp] theorem State.modGraph_form (s : State) (k : Nat) (f : Graph → Graph) : (s.modGraph k f).form = s.form := rfl
@[simp] theorem State.modGraph_schedule (s : State) (k : Nat) (f : Graph → Graph) : (s.modGraph k f).schedule = s.schedule := rfl
@[simp] theorem State.modGraph_turn (s : State) (k : Nat) (f : Graph → Graph) : (s.modGraph k f).turn = s.turn := rfl
@[simp] theorem State.modGraph_free (s : State) (k : Nat) (f : Graph → Graph) : (s.modGraph k f).free = s.free := rfl
@[simp] theorem State.modGraph_next (s : State) (k : Nat) (f : Graph → Graph) : (s.modGraph k f).next = s.next := rfl
@[simp] theorem State.modGraph_cur (s : State) (k : Nat) (f : Graph → Graph) : (s.modGraph k f).cur = s.cur := rfl
@[simp] theorem State.modGraph_time (s : State) (k : Nat) (f : Graph → Graph) : (s.modGraph k f).time = s.time := rfl
@[simp] theorem State.modGraph_sheaves (s : State) (k : Nat) (f : Graph → Graph) : (s.modGraph k f).sheaves = s.sheaves := rfl
@[simp] theorem State.modGraph_wgs (s : State) (k : Nat) (f : Graph → Graph) : (s.modGraph k f).wgs = s.wgs := rfl
@[simp] theorem State.modGraph_cores (s : State) (k : Nat) (f : Graph → Graph) : (s.modGraph k f).cores = s.cores := rfl
@[simp] theorem State.modGraph_pods (s : State) (k : Nat) (f : Graph → Graph) : (s.modGraph k f).pods = s.pods := rfl
@[simp] theorem State.modGraph_dies (s : State) (k : Nat) (f : Graph → Graph) : (s.modGraph k f).dies = s.dies := rfl
@[simp] theorem State.modGraph_bases (s : State) (k : Nat) (f : Graph → Graph) : (s.modGraph k f).bases = s.bases := rfl
@[simp] theorem State.modGraph_ctxs (s : State) (k : Nat) (f : Graph → Graph) : (s.modGraph k f).ctxs = s.ctxs := rfl
@[simp] theorem State.modGraph_queues (s : State) (k : Nat) (f : Graph → Graph) : (s.modGraph k f).queues = s.queues := rfl
@[simp] theorem State.modGraph_heads (s : State) (k : Nat) (f : Graph → Graph) : (s.modGraph k f).heads = s.heads := rfl
@[simp] theorem State.modGraph_launches (s : State) (k : Nat) (f : Graph → Graph) : (s.modGraph k f).launches = s.launches := rfl
@[simp] theorem State.modGraph_recs (s : State) (k : Nat) (f : Graph → Graph) : (s.modGraph k f).recs = s.recs := rfl
@[simp] theorem State.modGraph_mem (s : State) (k : Nat) (f : Graph → Graph) : (s.modGraph k f).mem = s.mem := rfl
@[simp] theorem State.modGraph_poison (s : State) (k : Nat) (f : Graph → Graph) : (s.modGraph k f).poison = s.poison := rfl
@[simp] theorem State.modGraph_peers (s : State) (k : Nat) (f : Graph → Graph) : (s.modGraph k f).peers = s.peers := rfl
@[simp] theorem State.modGraph_ops (s : State) (k : Nat) (f : Graph → Graph) : (s.modGraph k f).ops = s.ops := rfl
@[simp] theorem State.modGraph_regs (s : State) (k : Nat) (f : Graph → Graph) : (s.modGraph k f).regs = s.regs := rfl
@[simp] theorem State.modGraph_hot (s : State) (k : Nat) (f : Graph → Graph) : (s.modGraph k f).hot = s.hot := rfl
@[simp] theorem State.modGraph_squeezed (s : State) (k : Nat) (f : Graph → Graph) : (s.modGraph k f).squeezed = s.squeezed := rfl
@[simp] theorem State.modGraph_writes (s : State) (k : Nat) (f : Graph → Graph) : (s.modGraph k f).writes = s.writes := rfl
@[simp] theorem State.modGraph_was (s : State) (k : Nat) (f : Graph → Graph) : (s.modGraph k f).was = s.was := rfl

/-- What `State.modPassRun` leaves. -/
@[simp] theorem State.modPassRun_form (s : State) (k p : Nat) (f : PassRun → PassRun) : (s.modPassRun k p f).form = s.form := rfl
@[simp] theorem State.modPassRun_schedule (s : State) (k p : Nat) (f : PassRun → PassRun) : (s.modPassRun k p f).schedule = s.schedule := rfl
@[simp] theorem State.modPassRun_turn (s : State) (k p : Nat) (f : PassRun → PassRun) : (s.modPassRun k p f).turn = s.turn := rfl
@[simp] theorem State.modPassRun_free (s : State) (k p : Nat) (f : PassRun → PassRun) : (s.modPassRun k p f).free = s.free := rfl
@[simp] theorem State.modPassRun_next (s : State) (k p : Nat) (f : PassRun → PassRun) : (s.modPassRun k p f).next = s.next := rfl
@[simp] theorem State.modPassRun_cur (s : State) (k p : Nat) (f : PassRun → PassRun) : (s.modPassRun k p f).cur = s.cur := rfl
@[simp] theorem State.modPassRun_time (s : State) (k p : Nat) (f : PassRun → PassRun) : (s.modPassRun k p f).time = s.time := rfl
@[simp] theorem State.modPassRun_sheaves (s : State) (k p : Nat) (f : PassRun → PassRun) : (s.modPassRun k p f).sheaves = s.sheaves := rfl
@[simp] theorem State.modPassRun_wgs (s : State) (k p : Nat) (f : PassRun → PassRun) : (s.modPassRun k p f).wgs = s.wgs := rfl
@[simp] theorem State.modPassRun_cores (s : State) (k p : Nat) (f : PassRun → PassRun) : (s.modPassRun k p f).cores = s.cores := rfl
@[simp] theorem State.modPassRun_pods (s : State) (k p : Nat) (f : PassRun → PassRun) : (s.modPassRun k p f).pods = s.pods := rfl
@[simp] theorem State.modPassRun_dies (s : State) (k p : Nat) (f : PassRun → PassRun) : (s.modPassRun k p f).dies = s.dies := rfl
@[simp] theorem State.modPassRun_bases (s : State) (k p : Nat) (f : PassRun → PassRun) : (s.modPassRun k p f).bases = s.bases := rfl
@[simp] theorem State.modPassRun_ctxs (s : State) (k p : Nat) (f : PassRun → PassRun) : (s.modPassRun k p f).ctxs = s.ctxs := rfl
@[simp] theorem State.modPassRun_queues (s : State) (k p : Nat) (f : PassRun → PassRun) : (s.modPassRun k p f).queues = s.queues := rfl
@[simp] theorem State.modPassRun_heads (s : State) (k p : Nat) (f : PassRun → PassRun) : (s.modPassRun k p f).heads = s.heads := rfl
@[simp] theorem State.modPassRun_launches (s : State) (k p : Nat) (f : PassRun → PassRun) : (s.modPassRun k p f).launches = s.launches := rfl
@[simp] theorem State.modPassRun_recs (s : State) (k p : Nat) (f : PassRun → PassRun) : (s.modPassRun k p f).recs = s.recs := rfl
@[simp] theorem State.modPassRun_mem (s : State) (k p : Nat) (f : PassRun → PassRun) : (s.modPassRun k p f).mem = s.mem := rfl
@[simp] theorem State.modPassRun_poison (s : State) (k p : Nat) (f : PassRun → PassRun) : (s.modPassRun k p f).poison = s.poison := rfl
@[simp] theorem State.modPassRun_peers (s : State) (k p : Nat) (f : PassRun → PassRun) : (s.modPassRun k p f).peers = s.peers := rfl
@[simp] theorem State.modPassRun_ops (s : State) (k p : Nat) (f : PassRun → PassRun) : (s.modPassRun k p f).ops = s.ops := rfl
@[simp] theorem State.modPassRun_regs (s : State) (k p : Nat) (f : PassRun → PassRun) : (s.modPassRun k p f).regs = s.regs := rfl
@[simp] theorem State.modPassRun_hot (s : State) (k p : Nat) (f : PassRun → PassRun) : (s.modPassRun k p f).hot = s.hot := rfl
@[simp] theorem State.modPassRun_squeezed (s : State) (k p : Nat) (f : PassRun → PassRun) : (s.modPassRun k p f).squeezed = s.squeezed := rfl
@[simp] theorem State.modPassRun_writes (s : State) (k p : Nat) (f : PassRun → PassRun) : (s.modPassRun k p f).writes = s.writes := rfl
@[simp] theorem State.modPassRun_was (s : State) (k p : Nat) (f : PassRun → PassRun) : (s.modPassRun k p f).was = s.was := rfl

/-- What `State.modTile` leaves. -/
@[simp] theorem State.modTile_form (s : State) (k p t : Nat) (f : TileRun → TileRun) : (s.modTile k p t f).form = s.form := rfl
@[simp] theorem State.modTile_schedule (s : State) (k p t : Nat) (f : TileRun → TileRun) : (s.modTile k p t f).schedule = s.schedule := rfl
@[simp] theorem State.modTile_turn (s : State) (k p t : Nat) (f : TileRun → TileRun) : (s.modTile k p t f).turn = s.turn := rfl
@[simp] theorem State.modTile_free (s : State) (k p t : Nat) (f : TileRun → TileRun) : (s.modTile k p t f).free = s.free := rfl
@[simp] theorem State.modTile_next (s : State) (k p t : Nat) (f : TileRun → TileRun) : (s.modTile k p t f).next = s.next := rfl
@[simp] theorem State.modTile_cur (s : State) (k p t : Nat) (f : TileRun → TileRun) : (s.modTile k p t f).cur = s.cur := rfl
@[simp] theorem State.modTile_time (s : State) (k p t : Nat) (f : TileRun → TileRun) : (s.modTile k p t f).time = s.time := rfl
@[simp] theorem State.modTile_sheaves (s : State) (k p t : Nat) (f : TileRun → TileRun) : (s.modTile k p t f).sheaves = s.sheaves := rfl
@[simp] theorem State.modTile_wgs (s : State) (k p t : Nat) (f : TileRun → TileRun) : (s.modTile k p t f).wgs = s.wgs := rfl
@[simp] theorem State.modTile_cores (s : State) (k p t : Nat) (f : TileRun → TileRun) : (s.modTile k p t f).cores = s.cores := rfl
@[simp] theorem State.modTile_pods (s : State) (k p t : Nat) (f : TileRun → TileRun) : (s.modTile k p t f).pods = s.pods := rfl
@[simp] theorem State.modTile_dies (s : State) (k p t : Nat) (f : TileRun → TileRun) : (s.modTile k p t f).dies = s.dies := rfl
@[simp] theorem State.modTile_bases (s : State) (k p t : Nat) (f : TileRun → TileRun) : (s.modTile k p t f).bases = s.bases := rfl
@[simp] theorem State.modTile_ctxs (s : State) (k p t : Nat) (f : TileRun → TileRun) : (s.modTile k p t f).ctxs = s.ctxs := rfl
@[simp] theorem State.modTile_queues (s : State) (k p t : Nat) (f : TileRun → TileRun) : (s.modTile k p t f).queues = s.queues := rfl
@[simp] theorem State.modTile_heads (s : State) (k p t : Nat) (f : TileRun → TileRun) : (s.modTile k p t f).heads = s.heads := rfl
@[simp] theorem State.modTile_launches (s : State) (k p t : Nat) (f : TileRun → TileRun) : (s.modTile k p t f).launches = s.launches := rfl
@[simp] theorem State.modTile_recs (s : State) (k p t : Nat) (f : TileRun → TileRun) : (s.modTile k p t f).recs = s.recs := rfl
@[simp] theorem State.modTile_mem (s : State) (k p t : Nat) (f : TileRun → TileRun) : (s.modTile k p t f).mem = s.mem := rfl
@[simp] theorem State.modTile_poison (s : State) (k p t : Nat) (f : TileRun → TileRun) : (s.modTile k p t f).poison = s.poison := rfl
@[simp] theorem State.modTile_peers (s : State) (k p t : Nat) (f : TileRun → TileRun) : (s.modTile k p t f).peers = s.peers := rfl
@[simp] theorem State.modTile_ops (s : State) (k p t : Nat) (f : TileRun → TileRun) : (s.modTile k p t f).ops = s.ops := rfl
@[simp] theorem State.modTile_regs (s : State) (k p t : Nat) (f : TileRun → TileRun) : (s.modTile k p t f).regs = s.regs := rfl
@[simp] theorem State.modTile_hot (s : State) (k p t : Nat) (f : TileRun → TileRun) : (s.modTile k p t f).hot = s.hot := rfl
@[simp] theorem State.modTile_squeezed (s : State) (k p t : Nat) (f : TileRun → TileRun) : (s.modTile k p t f).squeezed = s.squeezed := rfl
@[simp] theorem State.modTile_writes (s : State) (k p t : Nat) (f : TileRun → TileRun) : (s.modTile k p t f).writes = s.writes := rfl
@[simp] theorem State.modTile_was (s : State) (k p t : Nat) (f : TileRun → TileRun) : (s.modTile k p t f).was = s.was := rfl

/-- What `State.modQueue` leaves. -/
@[simp] theorem State.modQueue_form (s : State) (k : Nat) (f : Queue → Queue) : (s.modQueue k f).form = s.form := rfl
@[simp] theorem State.modQueue_schedule (s : State) (k : Nat) (f : Queue → Queue) : (s.modQueue k f).schedule = s.schedule := rfl
@[simp] theorem State.modQueue_turn (s : State) (k : Nat) (f : Queue → Queue) : (s.modQueue k f).turn = s.turn := rfl
@[simp] theorem State.modQueue_free (s : State) (k : Nat) (f : Queue → Queue) : (s.modQueue k f).free = s.free := rfl
@[simp] theorem State.modQueue_next (s : State) (k : Nat) (f : Queue → Queue) : (s.modQueue k f).next = s.next := rfl
@[simp] theorem State.modQueue_cur (s : State) (k : Nat) (f : Queue → Queue) : (s.modQueue k f).cur = s.cur := rfl
@[simp] theorem State.modQueue_time (s : State) (k : Nat) (f : Queue → Queue) : (s.modQueue k f).time = s.time := rfl
@[simp] theorem State.modQueue_sheaves (s : State) (k : Nat) (f : Queue → Queue) : (s.modQueue k f).sheaves = s.sheaves := rfl
@[simp] theorem State.modQueue_wgs (s : State) (k : Nat) (f : Queue → Queue) : (s.modQueue k f).wgs = s.wgs := rfl
@[simp] theorem State.modQueue_cores (s : State) (k : Nat) (f : Queue → Queue) : (s.modQueue k f).cores = s.cores := rfl
@[simp] theorem State.modQueue_pods (s : State) (k : Nat) (f : Queue → Queue) : (s.modQueue k f).pods = s.pods := rfl
@[simp] theorem State.modQueue_dies (s : State) (k : Nat) (f : Queue → Queue) : (s.modQueue k f).dies = s.dies := rfl
@[simp] theorem State.modQueue_bases (s : State) (k : Nat) (f : Queue → Queue) : (s.modQueue k f).bases = s.bases := rfl
@[simp] theorem State.modQueue_ctxs (s : State) (k : Nat) (f : Queue → Queue) : (s.modQueue k f).ctxs = s.ctxs := rfl
@[simp] theorem State.modQueue_graphs (s : State) (k : Nat) (f : Queue → Queue) : (s.modQueue k f).graphs = s.graphs := rfl
@[simp] theorem State.modQueue_heads (s : State) (k : Nat) (f : Queue → Queue) : (s.modQueue k f).heads = s.heads := rfl
@[simp] theorem State.modQueue_launches (s : State) (k : Nat) (f : Queue → Queue) : (s.modQueue k f).launches = s.launches := rfl
@[simp] theorem State.modQueue_recs (s : State) (k : Nat) (f : Queue → Queue) : (s.modQueue k f).recs = s.recs := rfl
@[simp] theorem State.modQueue_mem (s : State) (k : Nat) (f : Queue → Queue) : (s.modQueue k f).mem = s.mem := rfl
@[simp] theorem State.modQueue_poison (s : State) (k : Nat) (f : Queue → Queue) : (s.modQueue k f).poison = s.poison := rfl
@[simp] theorem State.modQueue_peers (s : State) (k : Nat) (f : Queue → Queue) : (s.modQueue k f).peers = s.peers := rfl
@[simp] theorem State.modQueue_ops (s : State) (k : Nat) (f : Queue → Queue) : (s.modQueue k f).ops = s.ops := rfl
@[simp] theorem State.modQueue_regs (s : State) (k : Nat) (f : Queue → Queue) : (s.modQueue k f).regs = s.regs := rfl
@[simp] theorem State.modQueue_hot (s : State) (k : Nat) (f : Queue → Queue) : (s.modQueue k f).hot = s.hot := rfl
@[simp] theorem State.modQueue_squeezed (s : State) (k : Nat) (f : Queue → Queue) : (s.modQueue k f).squeezed = s.squeezed := rfl
@[simp] theorem State.modQueue_writes (s : State) (k : Nat) (f : Queue → Queue) : (s.modQueue k f).writes = s.writes := rfl
@[simp] theorem State.modQueue_was (s : State) (k : Nat) (f : Queue → Queue) : (s.modQueue k f).was = s.was := rfl

/-- What `State.modOp` leaves. -/
@[simp] theorem State.modOp_form (s : State) (k : Nat) (f : LongOp → LongOp) : (s.modOp k f).form = s.form := rfl
@[simp] theorem State.modOp_schedule (s : State) (k : Nat) (f : LongOp → LongOp) : (s.modOp k f).schedule = s.schedule := rfl
@[simp] theorem State.modOp_turn (s : State) (k : Nat) (f : LongOp → LongOp) : (s.modOp k f).turn = s.turn := rfl
@[simp] theorem State.modOp_free (s : State) (k : Nat) (f : LongOp → LongOp) : (s.modOp k f).free = s.free := rfl
@[simp] theorem State.modOp_next (s : State) (k : Nat) (f : LongOp → LongOp) : (s.modOp k f).next = s.next := rfl
@[simp] theorem State.modOp_cur (s : State) (k : Nat) (f : LongOp → LongOp) : (s.modOp k f).cur = s.cur := rfl
@[simp] theorem State.modOp_time (s : State) (k : Nat) (f : LongOp → LongOp) : (s.modOp k f).time = s.time := rfl
@[simp] theorem State.modOp_sheaves (s : State) (k : Nat) (f : LongOp → LongOp) : (s.modOp k f).sheaves = s.sheaves := rfl
@[simp] theorem State.modOp_wgs (s : State) (k : Nat) (f : LongOp → LongOp) : (s.modOp k f).wgs = s.wgs := rfl
@[simp] theorem State.modOp_cores (s : State) (k : Nat) (f : LongOp → LongOp) : (s.modOp k f).cores = s.cores := rfl
@[simp] theorem State.modOp_pods (s : State) (k : Nat) (f : LongOp → LongOp) : (s.modOp k f).pods = s.pods := rfl
@[simp] theorem State.modOp_dies (s : State) (k : Nat) (f : LongOp → LongOp) : (s.modOp k f).dies = s.dies := rfl
@[simp] theorem State.modOp_bases (s : State) (k : Nat) (f : LongOp → LongOp) : (s.modOp k f).bases = s.bases := rfl
@[simp] theorem State.modOp_ctxs (s : State) (k : Nat) (f : LongOp → LongOp) : (s.modOp k f).ctxs = s.ctxs := rfl
@[simp] theorem State.modOp_graphs (s : State) (k : Nat) (f : LongOp → LongOp) : (s.modOp k f).graphs = s.graphs := rfl
@[simp] theorem State.modOp_queues (s : State) (k : Nat) (f : LongOp → LongOp) : (s.modOp k f).queues = s.queues := rfl
@[simp] theorem State.modOp_heads (s : State) (k : Nat) (f : LongOp → LongOp) : (s.modOp k f).heads = s.heads := rfl
@[simp] theorem State.modOp_launches (s : State) (k : Nat) (f : LongOp → LongOp) : (s.modOp k f).launches = s.launches := rfl
@[simp] theorem State.modOp_recs (s : State) (k : Nat) (f : LongOp → LongOp) : (s.modOp k f).recs = s.recs := rfl
@[simp] theorem State.modOp_mem (s : State) (k : Nat) (f : LongOp → LongOp) : (s.modOp k f).mem = s.mem := rfl
@[simp] theorem State.modOp_poison (s : State) (k : Nat) (f : LongOp → LongOp) : (s.modOp k f).poison = s.poison := rfl
@[simp] theorem State.modOp_peers (s : State) (k : Nat) (f : LongOp → LongOp) : (s.modOp k f).peers = s.peers := rfl
@[simp] theorem State.modOp_regs (s : State) (k : Nat) (f : LongOp → LongOp) : (s.modOp k f).regs = s.regs := rfl
@[simp] theorem State.modOp_hot (s : State) (k : Nat) (f : LongOp → LongOp) : (s.modOp k f).hot = s.hot := rfl
@[simp] theorem State.modOp_squeezed (s : State) (k : Nat) (f : LongOp → LongOp) : (s.modOp k f).squeezed = s.squeezed := rfl
@[simp] theorem State.modOp_writes (s : State) (k : Nat) (f : LongOp → LongOp) : (s.modOp k f).writes = s.writes := rfl
@[simp] theorem State.modOp_was (s : State) (k : Nat) (f : LongOp → LongOp) : (s.modOp k f).was = s.was := rfl

/-- What `State.modRegs` leaves. -/
@[simp] theorem State.modRegs_form (s : State) (f : Regs → Regs) : (s.modRegs f).form = s.form := rfl
@[simp] theorem State.modRegs_schedule (s : State) (f : Regs → Regs) : (s.modRegs f).schedule = s.schedule := rfl
@[simp] theorem State.modRegs_turn (s : State) (f : Regs → Regs) : (s.modRegs f).turn = s.turn := rfl
@[simp] theorem State.modRegs_free (s : State) (f : Regs → Regs) : (s.modRegs f).free = s.free := rfl
@[simp] theorem State.modRegs_next (s : State) (f : Regs → Regs) : (s.modRegs f).next = s.next := rfl
@[simp] theorem State.modRegs_cur (s : State) (f : Regs → Regs) : (s.modRegs f).cur = s.cur := rfl
@[simp] theorem State.modRegs_time (s : State) (f : Regs → Regs) : (s.modRegs f).time = s.time := rfl
@[simp] theorem State.modRegs_sheaves (s : State) (f : Regs → Regs) : (s.modRegs f).sheaves = s.sheaves := rfl
@[simp] theorem State.modRegs_wgs (s : State) (f : Regs → Regs) : (s.modRegs f).wgs = s.wgs := rfl
@[simp] theorem State.modRegs_cores (s : State) (f : Regs → Regs) : (s.modRegs f).cores = s.cores := rfl
@[simp] theorem State.modRegs_pods (s : State) (f : Regs → Regs) : (s.modRegs f).pods = s.pods := rfl
@[simp] theorem State.modRegs_dies (s : State) (f : Regs → Regs) : (s.modRegs f).dies = s.dies := rfl
@[simp] theorem State.modRegs_bases (s : State) (f : Regs → Regs) : (s.modRegs f).bases = s.bases := rfl
@[simp] theorem State.modRegs_ctxs (s : State) (f : Regs → Regs) : (s.modRegs f).ctxs = s.ctxs := rfl
@[simp] theorem State.modRegs_graphs (s : State) (f : Regs → Regs) : (s.modRegs f).graphs = s.graphs := rfl
@[simp] theorem State.modRegs_queues (s : State) (f : Regs → Regs) : (s.modRegs f).queues = s.queues := rfl
@[simp] theorem State.modRegs_heads (s : State) (f : Regs → Regs) : (s.modRegs f).heads = s.heads := rfl
@[simp] theorem State.modRegs_launches (s : State) (f : Regs → Regs) : (s.modRegs f).launches = s.launches := rfl
@[simp] theorem State.modRegs_recs (s : State) (f : Regs → Regs) : (s.modRegs f).recs = s.recs := rfl
@[simp] theorem State.modRegs_mem (s : State) (f : Regs → Regs) : (s.modRegs f).mem = s.mem := rfl
@[simp] theorem State.modRegs_poison (s : State) (f : Regs → Regs) : (s.modRegs f).poison = s.poison := rfl
@[simp] theorem State.modRegs_peers (s : State) (f : Regs → Regs) : (s.modRegs f).peers = s.peers := rfl
@[simp] theorem State.modRegs_ops (s : State) (f : Regs → Regs) : (s.modRegs f).ops = s.ops := rfl
@[simp] theorem State.modRegs_hot (s : State) (f : Regs → Regs) : (s.modRegs f).hot = s.hot := rfl
@[simp] theorem State.modRegs_squeezed (s : State) (f : Regs → Regs) : (s.modRegs f).squeezed = s.squeezed := rfl
@[simp] theorem State.modRegs_writes (s : State) (f : Regs → Regs) : (s.modRegs f).writes = s.writes := rfl
@[simp] theorem State.modRegs_was (s : State) (f : Regs → Regs) : (s.modRegs f).was = s.was := rfl

/-- What `State.interrupt` leaves. -/
@[simp] theorem State.interrupt_form (s : State) (b : Nat) : (s.interrupt b).form = s.form := rfl
@[simp] theorem State.interrupt_schedule (s : State) (b : Nat) : (s.interrupt b).schedule = s.schedule := rfl
@[simp] theorem State.interrupt_turn (s : State) (b : Nat) : (s.interrupt b).turn = s.turn := rfl
@[simp] theorem State.interrupt_free (s : State) (b : Nat) : (s.interrupt b).free = s.free := rfl
@[simp] theorem State.interrupt_next (s : State) (b : Nat) : (s.interrupt b).next = s.next := rfl
@[simp] theorem State.interrupt_cur (s : State) (b : Nat) : (s.interrupt b).cur = s.cur := rfl
@[simp] theorem State.interrupt_time (s : State) (b : Nat) : (s.interrupt b).time = s.time := rfl
@[simp] theorem State.interrupt_sheaves (s : State) (b : Nat) : (s.interrupt b).sheaves = s.sheaves := rfl
@[simp] theorem State.interrupt_wgs (s : State) (b : Nat) : (s.interrupt b).wgs = s.wgs := rfl
@[simp] theorem State.interrupt_cores (s : State) (b : Nat) : (s.interrupt b).cores = s.cores := rfl
@[simp] theorem State.interrupt_pods (s : State) (b : Nat) : (s.interrupt b).pods = s.pods := rfl
@[simp] theorem State.interrupt_dies (s : State) (b : Nat) : (s.interrupt b).dies = s.dies := rfl
@[simp] theorem State.interrupt_bases (s : State) (b : Nat) : (s.interrupt b).bases = s.bases := rfl
@[simp] theorem State.interrupt_ctxs (s : State) (b : Nat) : (s.interrupt b).ctxs = s.ctxs := rfl
@[simp] theorem State.interrupt_graphs (s : State) (b : Nat) : (s.interrupt b).graphs = s.graphs := rfl
@[simp] theorem State.interrupt_queues (s : State) (b : Nat) : (s.interrupt b).queues = s.queues := rfl
@[simp] theorem State.interrupt_heads (s : State) (b : Nat) : (s.interrupt b).heads = s.heads := rfl
@[simp] theorem State.interrupt_launches (s : State) (b : Nat) : (s.interrupt b).launches = s.launches := rfl
@[simp] theorem State.interrupt_recs (s : State) (b : Nat) : (s.interrupt b).recs = s.recs := rfl
@[simp] theorem State.interrupt_mem (s : State) (b : Nat) : (s.interrupt b).mem = s.mem := rfl
@[simp] theorem State.interrupt_poison (s : State) (b : Nat) : (s.interrupt b).poison = s.poison := rfl
@[simp] theorem State.interrupt_peers (s : State) (b : Nat) : (s.interrupt b).peers = s.peers := rfl
@[simp] theorem State.interrupt_ops (s : State) (b : Nat) : (s.interrupt b).ops = s.ops := rfl
@[simp] theorem State.interrupt_hot (s : State) (b : Nat) : (s.interrupt b).hot = s.hot := rfl
@[simp] theorem State.interrupt_squeezed (s : State) (b : Nat) : (s.interrupt b).squeezed = s.squeezed := rfl
@[simp] theorem State.interrupt_writes (s : State) (b : Nat) : (s.interrupt b).writes = s.writes := rfl
@[simp] theorem State.interrupt_was (s : State) (b : Nat) : (s.interrupt b).was = s.was := rfl

/-- What `State.fresh` leaves. -/
@[simp] theorem State.fresh_form (s : State) : (s.fresh).2.form = s.form := rfl
@[simp] theorem State.fresh_schedule (s : State) : (s.fresh).2.schedule = s.schedule := rfl
@[simp] theorem State.fresh_turn (s : State) : (s.fresh).2.turn = s.turn := rfl
@[simp] theorem State.fresh_free (s : State) : (s.fresh).2.free = s.free := rfl
@[simp] theorem State.fresh_cur (s : State) : (s.fresh).2.cur = s.cur := rfl
@[simp] theorem State.fresh_time (s : State) : (s.fresh).2.time = s.time := rfl
@[simp] theorem State.fresh_sheaves (s : State) : (s.fresh).2.sheaves = s.sheaves := rfl
@[simp] theorem State.fresh_wgs (s : State) : (s.fresh).2.wgs = s.wgs := rfl
@[simp] theorem State.fresh_cores (s : State) : (s.fresh).2.cores = s.cores := rfl
@[simp] theorem State.fresh_pods (s : State) : (s.fresh).2.pods = s.pods := rfl
@[simp] theorem State.fresh_dies (s : State) : (s.fresh).2.dies = s.dies := rfl
@[simp] theorem State.fresh_bases (s : State) : (s.fresh).2.bases = s.bases := rfl
@[simp] theorem State.fresh_ctxs (s : State) : (s.fresh).2.ctxs = s.ctxs := rfl
@[simp] theorem State.fresh_graphs (s : State) : (s.fresh).2.graphs = s.graphs := rfl
@[simp] theorem State.fresh_queues (s : State) : (s.fresh).2.queues = s.queues := rfl
@[simp] theorem State.fresh_heads (s : State) : (s.fresh).2.heads = s.heads := rfl
@[simp] theorem State.fresh_launches (s : State) : (s.fresh).2.launches = s.launches := rfl
@[simp] theorem State.fresh_recs (s : State) : (s.fresh).2.recs = s.recs := rfl
@[simp] theorem State.fresh_mem (s : State) : (s.fresh).2.mem = s.mem := rfl
@[simp] theorem State.fresh_poison (s : State) : (s.fresh).2.poison = s.poison := rfl
@[simp] theorem State.fresh_peers (s : State) : (s.fresh).2.peers = s.peers := rfl
@[simp] theorem State.fresh_ops (s : State) : (s.fresh).2.ops = s.ops := rfl
@[simp] theorem State.fresh_regs (s : State) : (s.fresh).2.regs = s.regs := rfl
@[simp] theorem State.fresh_hot (s : State) : (s.fresh).2.hot = s.hot := rfl
@[simp] theorem State.fresh_squeezed (s : State) : (s.fresh).2.squeezed = s.squeezed := rfl
@[simp] theorem State.fresh_writes (s : State) : (s.fresh).2.writes = s.writes := rfl
@[simp] theorem State.fresh_was (s : State) : (s.fresh).2.was = s.was := rfl

/-- What `State.flip` leaves. -/
@[simp] theorem State.flip_form (s : State) : (s.flip).2.form = s.form := rfl
@[simp] theorem State.flip_schedule (s : State) : (s.flip).2.schedule = s.schedule := rfl
@[simp] theorem State.flip_turn (s : State) : (s.flip).2.turn = s.turn := rfl
@[simp] theorem State.flip_next (s : State) : (s.flip).2.next = s.next := rfl
@[simp] theorem State.flip_cur (s : State) : (s.flip).2.cur = s.cur := rfl
@[simp] theorem State.flip_time (s : State) : (s.flip).2.time = s.time := rfl
@[simp] theorem State.flip_sheaves (s : State) : (s.flip).2.sheaves = s.sheaves := rfl
@[simp] theorem State.flip_wgs (s : State) : (s.flip).2.wgs = s.wgs := rfl
@[simp] theorem State.flip_cores (s : State) : (s.flip).2.cores = s.cores := rfl
@[simp] theorem State.flip_pods (s : State) : (s.flip).2.pods = s.pods := rfl
@[simp] theorem State.flip_dies (s : State) : (s.flip).2.dies = s.dies := rfl
@[simp] theorem State.flip_bases (s : State) : (s.flip).2.bases = s.bases := rfl
@[simp] theorem State.flip_ctxs (s : State) : (s.flip).2.ctxs = s.ctxs := rfl
@[simp] theorem State.flip_graphs (s : State) : (s.flip).2.graphs = s.graphs := rfl
@[simp] theorem State.flip_queues (s : State) : (s.flip).2.queues = s.queues := rfl
@[simp] theorem State.flip_heads (s : State) : (s.flip).2.heads = s.heads := rfl
@[simp] theorem State.flip_launches (s : State) : (s.flip).2.launches = s.launches := rfl
@[simp] theorem State.flip_recs (s : State) : (s.flip).2.recs = s.recs := rfl
@[simp] theorem State.flip_mem (s : State) : (s.flip).2.mem = s.mem := rfl
@[simp] theorem State.flip_poison (s : State) : (s.flip).2.poison = s.poison := rfl
@[simp] theorem State.flip_peers (s : State) : (s.flip).2.peers = s.peers := rfl
@[simp] theorem State.flip_ops (s : State) : (s.flip).2.ops = s.ops := rfl
@[simp] theorem State.flip_regs (s : State) : (s.flip).2.regs = s.regs := rfl
@[simp] theorem State.flip_hot (s : State) : (s.flip).2.hot = s.hot := rfl
@[simp] theorem State.flip_squeezed (s : State) : (s.flip).2.squeezed = s.squeezed := rfl
@[simp] theorem State.flip_writes (s : State) : (s.flip).2.writes = s.writes := rfl
@[simp] theorem State.flip_was (s : State) : (s.flip).2.was = s.was := rfl

/-- What `State.pick` leaves. -/
@[simp] theorem State.pick_form (s : State) (n : Nat) : (s.pick n).2.form = s.form := rfl
@[simp] theorem State.pick_schedule (s : State) (n : Nat) : (s.pick n).2.schedule = s.schedule := rfl
@[simp] theorem State.pick_turn (s : State) (n : Nat) : (s.pick n).2.turn = s.turn := rfl
@[simp] theorem State.pick_next (s : State) (n : Nat) : (s.pick n).2.next = s.next := rfl
@[simp] theorem State.pick_cur (s : State) (n : Nat) : (s.pick n).2.cur = s.cur := rfl
@[simp] theorem State.pick_time (s : State) (n : Nat) : (s.pick n).2.time = s.time := rfl
@[simp] theorem State.pick_sheaves (s : State) (n : Nat) : (s.pick n).2.sheaves = s.sheaves := rfl
@[simp] theorem State.pick_wgs (s : State) (n : Nat) : (s.pick n).2.wgs = s.wgs := rfl
@[simp] theorem State.pick_cores (s : State) (n : Nat) : (s.pick n).2.cores = s.cores := rfl
@[simp] theorem State.pick_pods (s : State) (n : Nat) : (s.pick n).2.pods = s.pods := rfl
@[simp] theorem State.pick_dies (s : State) (n : Nat) : (s.pick n).2.dies = s.dies := rfl
@[simp] theorem State.pick_bases (s : State) (n : Nat) : (s.pick n).2.bases = s.bases := rfl
@[simp] theorem State.pick_ctxs (s : State) (n : Nat) : (s.pick n).2.ctxs = s.ctxs := rfl
@[simp] theorem State.pick_graphs (s : State) (n : Nat) : (s.pick n).2.graphs = s.graphs := rfl
@[simp] theorem State.pick_queues (s : State) (n : Nat) : (s.pick n).2.queues = s.queues := rfl
@[simp] theorem State.pick_heads (s : State) (n : Nat) : (s.pick n).2.heads = s.heads := rfl
@[simp] theorem State.pick_launches (s : State) (n : Nat) : (s.pick n).2.launches = s.launches := rfl
@[simp] theorem State.pick_recs (s : State) (n : Nat) : (s.pick n).2.recs = s.recs := rfl
@[simp] theorem State.pick_mem (s : State) (n : Nat) : (s.pick n).2.mem = s.mem := rfl
@[simp] theorem State.pick_poison (s : State) (n : Nat) : (s.pick n).2.poison = s.poison := rfl
@[simp] theorem State.pick_peers (s : State) (n : Nat) : (s.pick n).2.peers = s.peers := rfl
@[simp] theorem State.pick_ops (s : State) (n : Nat) : (s.pick n).2.ops = s.ops := rfl
@[simp] theorem State.pick_regs (s : State) (n : Nat) : (s.pick n).2.regs = s.regs := rfl
@[simp] theorem State.pick_hot (s : State) (n : Nat) : (s.pick n).2.hot = s.hot := rfl
@[simp] theorem State.pick_squeezed (s : State) (n : Nat) : (s.pick n).2.squeezed = s.squeezed := rfl
@[simp] theorem State.pick_writes (s : State) (n : Nat) : (s.pick n).2.writes = s.writes := rfl
@[simp] theorem State.pick_was (s : State) (n : Nat) : (s.pick n).2.was = s.was := rfl

/-- What `State.undef` leaves. -/
@[simp] theorem State.undef_form (s : State) : (s.undef).2.form = s.form := rfl
@[simp] theorem State.undef_schedule (s : State) : (s.undef).2.schedule = s.schedule := rfl
@[simp] theorem State.undef_turn (s : State) : (s.undef).2.turn = s.turn := rfl
@[simp] theorem State.undef_next (s : State) : (s.undef).2.next = s.next := rfl
@[simp] theorem State.undef_cur (s : State) : (s.undef).2.cur = s.cur := rfl
@[simp] theorem State.undef_time (s : State) : (s.undef).2.time = s.time := rfl
@[simp] theorem State.undef_sheaves (s : State) : (s.undef).2.sheaves = s.sheaves := rfl
@[simp] theorem State.undef_wgs (s : State) : (s.undef).2.wgs = s.wgs := rfl
@[simp] theorem State.undef_cores (s : State) : (s.undef).2.cores = s.cores := rfl
@[simp] theorem State.undef_pods (s : State) : (s.undef).2.pods = s.pods := rfl
@[simp] theorem State.undef_dies (s : State) : (s.undef).2.dies = s.dies := rfl
@[simp] theorem State.undef_bases (s : State) : (s.undef).2.bases = s.bases := rfl
@[simp] theorem State.undef_ctxs (s : State) : (s.undef).2.ctxs = s.ctxs := rfl
@[simp] theorem State.undef_graphs (s : State) : (s.undef).2.graphs = s.graphs := rfl
@[simp] theorem State.undef_queues (s : State) : (s.undef).2.queues = s.queues := rfl
@[simp] theorem State.undef_heads (s : State) : (s.undef).2.heads = s.heads := rfl
@[simp] theorem State.undef_launches (s : State) : (s.undef).2.launches = s.launches := rfl
@[simp] theorem State.undef_recs (s : State) : (s.undef).2.recs = s.recs := rfl
@[simp] theorem State.undef_mem (s : State) : (s.undef).2.mem = s.mem := rfl
@[simp] theorem State.undef_poison (s : State) : (s.undef).2.poison = s.poison := rfl
@[simp] theorem State.undef_peers (s : State) : (s.undef).2.peers = s.peers := rfl
@[simp] theorem State.undef_ops (s : State) : (s.undef).2.ops = s.ops := rfl
@[simp] theorem State.undef_regs (s : State) : (s.undef).2.regs = s.regs := rfl
@[simp] theorem State.undef_hot (s : State) : (s.undef).2.hot = s.hot := rfl
@[simp] theorem State.undef_squeezed (s : State) : (s.undef).2.squeezed = s.squeezed := rfl
@[simp] theorem State.undef_writes (s : State) : (s.undef).2.writes = s.writes := rfl
@[simp] theorem State.undef_was (s : State) : (s.undef).2.was = s.was := rfl

/-! ### Parts after an update -/

/-- A part that was changed, and another one. -/
@[simp] theorem State.core_modCore (s : State) (k : Nat) (f) : (s.modCore k f).core k = f (s.core k) := by
  simp [State.core, State.modCore]

theorem State.core_modCore_ne (s : State) {k j : Nat} (f) (h : j ≠ k) : (s.modCore k f).core j = s.core j := by
  simp [State.core, State.modCore, Tab.get_put_ne _ _ h]

/-- A part that was changed, and another one. -/
@[simp] theorem State.pod_modPod (s : State) (k : Nat) (f) : (s.modPod k f).pod k = f (s.pod k) := by
  simp [State.pod, State.modPod]

theorem State.pod_modPod_ne (s : State) {k j : Nat} (f) (h : j ≠ k) : (s.modPod k f).pod j = s.pod j := by
  simp [State.pod, State.modPod, Tab.get_put_ne _ _ h]

/-- A part that was changed, and another one. -/
@[simp] theorem State.die_modDie (s : State) (k : Nat) (f) : (s.modDie k f).die k = f (s.die k) := by
  simp [State.die, State.modDie]

theorem State.die_modDie_ne (s : State) {k j : Nat} (f) (h : j ≠ k) : (s.modDie k f).die j = s.die j := by
  simp [State.die, State.modDie, Tab.get_put_ne _ _ h]

/-- A part that was changed, and another one. -/
@[simp] theorem State.base_modBase (s : State) (k : Nat) (f) : (s.modBase k f).base k = f (s.base k) := by
  simp [State.base, State.modBase]

theorem State.base_modBase_ne (s : State) {k j : Nat} (f) (h : j ≠ k) : (s.modBase k f).base j = s.base j := by
  simp [State.base, State.modBase, Tab.get_put_ne _ _ h]

/-- A part that was changed, and another one. -/
@[simp] theorem State.queue_modQueue (s : State) (k : Nat) (f) : (s.modQueue k f).queue k = f (s.queue k) := by
  simp [State.queue, State.modQueue]

theorem State.queue_modQueue_ne (s : State) {k j : Nat} (f) (h : j ≠ k) : (s.modQueue k f).queue j = s.queue j := by
  simp [State.queue, State.modQueue, Tab.get_put_ne _ _ h]

/-- A part that is there and was changed, and another one. -/
theorem State.sheaf_modSheaf {s : State} {k : Nat} (f) (h : (s.sheaves.get k).isSome = true) :
    (s.modSheaf k f).sheaf k = f (s.sheaf k) := by
  obtain ⟨x, hx⟩ := Option.isSome_iff_exists.1 h
  simp [State.sheaf, State.modSheaf, hx]

theorem State.sheaf_modSheaf_ne (s : State) {k j : Nat} (f) (h : j ≠ k) : (s.modSheaf k f).sheaf j = s.sheaf j := by
  simp [State.sheaf, State.modSheaf, Tab.get_mod_ne _ _ h]

/-- A part that is there and was changed, and another one. -/
theorem State.wg_modWg {s : State} {k : Nat} (f) (h : (s.wgs.get k).isSome = true) :
    (s.modWg k f).wg k = f (s.wg k) := by
  obtain ⟨x, hx⟩ := Option.isSome_iff_exists.1 h
  simp [State.wg, State.modWg, hx]

theorem State.wg_modWg_ne (s : State) {k j : Nat} (f) (h : j ≠ k) : (s.modWg k f).wg j = s.wg j := by
  simp [State.wg, State.modWg, Tab.get_mod_ne _ _ h]

/-- A part that is there and was changed, and another one. -/
theorem State.ctx_modCtx {s : State} {k : Nat} (f) (h : (s.ctxs.get k).isSome = true) :
    (s.modCtx k f).ctx k = f (s.ctx k) := by
  obtain ⟨x, hx⟩ := Option.isSome_iff_exists.1 h
  simp [State.ctx, State.modCtx, hx]

theorem State.ctx_modCtx_ne (s : State) {k j : Nat} (f) (h : j ≠ k) : (s.modCtx k f).ctx j = s.ctx j := by
  simp [State.ctx, State.modCtx, Tab.get_mod_ne _ _ h]

/-- A part that is there and was changed, and another one. -/
theorem State.graph_modGraph {s : State} {k : Nat} (f) (h : (s.graphs.get k).isSome = true) :
    (s.modGraph k f).graph k = f (s.graph k) := by
  obtain ⟨x, hx⟩ := Option.isSome_iff_exists.1 h
  simp [State.graph, State.modGraph, hx]

theorem State.graph_modGraph_ne (s : State) {k j : Nat} (f) (h : j ≠ k) : (s.modGraph k f).graph j = s.graph j := by
  simp [State.graph, State.modGraph, Tab.get_mod_ne _ _ h]

end Sys2Proof.Machine
end

