-- ==== Sys2Proof/Laws/Ops.lean ====
section
/-! SUPPORT. Once for each shared operation, all that it can do: the issue of a word, a word whose lanes compute by
themselves, an instruction that enters flight, the advance, the end of a clause, a fault, taking an exception, the
completion of an operation, a trail record. -/

namespace Sys2Proof.Laws

open Machine

/-! ### The issue of a word (R28, R36, R37) -/

/-- A word that no sheaf has in hand changes nothing; one that a home holds waits; one whose fields are illegal faults
with the cause they show. -/
theorem issue_none {s : State} {i : Instr} {body : Issue → State → Result} (h : s.cur = none) : s.issue i body = s := by
  simp [State.issue, h]

theorem issue_held {s : State} {i : Instr} {sid : Nat} {r : ClauseRun} {body : Issue → State → Result}
    (h : s.cur = some sid) (hr : (s.sheaf sid).run = some r) (hh : s.holds sid = true) :
    s.issue i body = s.block sid := by
  simp [State.issue, h, hr, hh]

theorem issue_illegal {s : State} {i : Instr} {sid c : Nat} {r : ClauseRun} {body : Issue → State → Result}
    (h : s.cur = some sid) (hr : (s.sheaf sid).run = some r) (hh : s.holds sid = false)
    (hc : i.cause (s.sheaf sid).regs (s.sheaf sid).width = some c) :
    s.issue i body = s.fault sid (groupOf r) r.pc (some r.k) 1 c (groupOf r) 0 := by
  simp [State.issue, h, hr, hh, hc, groupOf]

/-- A word whose lanes compute by themselves writes their results. -/
theorem laneWrites_of {i : Instr} {d : BitVec 8} {n : Nat} {g : Bool → Sheaf → Nat → LaneOut}
    (h : ∀ s, exec i s = issued i (fun is s => laneOp d n (g (s.ftz is.sid)) is s) s) : LaneWrites i d n g := by
  intro s sid r hi
  exact goes_of_done hi (h s) rfl

/-- A word that writes one register with a function of its operands. -/
theorem wordResult_of {i : Instr} {f : Fields} {srcs : List (BitVec 8)} {g : List Word → Word × Word}
    (h : ∀ s, exec i s = issued i (wordOp f srcs g) s) : WordResult i f srcs (fun _ => g) := by
  intro s sid r hi
  exact goes_of_done hi (h s) rfl

/-- The same where the function takes the kernel's FTZ. -/
theorem wordResult_of_ftz {i : Instr} {f : Fields} {srcs : List (BitVec 8)} {g : Bool → List Word → Word × Word}
    (h : ∀ s, exec i s = issued i (ftzOp f srcs g) s) : WordResult i f srcs g := by
  intro s sid r hi
  exact goes_of_done hi (h s) rfl

/-- A long-latency word enters flight. -/
theorem launches_of {i : Instr} {f : Fields} {srcs : List (BitVec 8)} {n : Nat}
    (h : ∀ s, exec i s = issued i (longOp i f srcs n) s) : Launches i f srcs n := by
  intro s sid r hi
  exact goes_of_done hi (h s) rfl

/-! ### Writes of lanes (R39) -/

/-- The writes of an issue group change the sheaf that issues and no other part of the machine. -/
theorem writeLanes_eq (s : State) (sid : Nat) (d : BitVec 8) (n : Nat) (l : List LaneOut) :
    s.writeLanes sid d n l = { s with sheaves := s.sheaves.mod sid fun sh => (sh.writeRegs d n l).orAst l } := rfl

/-- No other sheaf is changed. -/
theorem sheaf_writeLanes_ne (s : State) {sid k : Nat} (d : BitVec 8) (n : Nat) (l : List LaneOut) (h : k ≠ sid) :
    (s.writeLanes sid d n l).sheaf k = s.sheaf k :=
  State.sheaf_modSheaf_ne s _ h

/-! ### The end of a clause, the advance, a wait (R27, R28, R96) -/

/-- The end of a clause changes sheaves and cores only. -/
theorem endClause_eq (s : State) (sid : Nat) :
    s.endClause sid = { s with sheaves := (s.endClause sid).sheaves, cores := (s.endClause sid).cores } := by
  unfold State.endClause
  split
  · rfl
  · dsimp only
    split <;> rfl

/-- The advance to the next word changes sheaves and cores only: no memory, no context, no graph, no register window. -/
theorem advance_eq (s : State) (sid : Nat) (i : Instr) :
    s.advance sid i = { s with sheaves := (s.advance sid i).sheaves, cores := (s.advance sid i).cores } := by
  unfold State.advance
  dsimp only
  split
  · rfl
  · split
    · rw [endClause_eq]; rfl
    · rfl

/-- A word that waits marks its sheaf and leaves the core to another. -/
theorem block_eq (s : State) (sid : Nat) :
    s.block sid = { s with sheaves := s.sheaves.mod sid fun sh => { sh with blocked := true }
                           cores := (s.block sid).cores } := rfl

/-! ### Faults and the handler (R424 to R430) -/

/-- A fault below CODE 0x10 outside the handler parks its threads, makes the sheaf owe an entry, and is recorded. -/
theorem fault_common {s : State} {sid : Nat} {who : List Nat} {pc : BitVec 64} {k : Option Nat} {code sub : Nat}
    {mask : List Nat} {addr : Nat} (h : (s.sheaf sid).inHandler = false) (hc : code < 0x10) :
    s.fault sid who pc k code sub mask addr = (s.modSheaf sid fun sh => (sh.parkAt who pc k .handler).owe
      ⟨BitVec.ofNat 8 code, BitVec.ofNat 8 sub, 0, maskOf mask, BitVec.ofNat 64 addr, wordAddr pc k⟩).faultRecord
        (s.sheaf sid).ctx { code := code, sub := sub, pc := (wordAddr pc k).toNat, addr := addr
                            gen := (s.sheaf sid).gen.toNat, slot := slotOf sid, core := coreOf sid
                            die := baseOfCore (coreOf sid), mask := (maskOf mask).toNat } := by
  simp [State.fault, h, hc]

/-- A fault in the handler is a double fault, with the code as sub-code. -/
theorem fault_inHandler {s : State} {sid : Nat} {who : List Nat} {pc : BitVec 64} {k : Option Nat} {code sub : Nat}
    {mask : List Nat} {addr : Nat} (h : (s.sheaf sid).inHandler = true) :
    s.fault sid who pc k code sub mask addr = s.modSheaf sid fun sh => { sh.parkAt who pc k .doubleFault with
      entry := some ⟨0x19, BitVec.ofNat 8 code, 0, maskOf mask, BitVec.ofNat 64 addr, wordAddr pc k⟩ } := by
  simp [State.fault, h]

/-- Taking an exception changes one sheaf. -/
theorem handlerEntry_eq {s : State} {sid : Nat} {e : Entry} (he : (s.sheaf sid).entry = some e) (hc : e.code ≠ 0x19)
    (hh : (s.sheaf sid).inHandler = false) (hp : (s.sheaf sid).allParked = true) (hd : (s.sheaf sid).drained = true)
    (hl : (s.sheaf sid).liveThreads ≠ []) :
    execHandlerEntry sid s = .next (s.modSheaf sid fun sh =>
      sh.enterHandler (BitVec.ofNat 64 (s.ctx sh.ctx).handler) e) := by
  simp only [execHandlerEntry, he]
  rw [if_neg (by simp [hp, hd, hl, hh]; exact hc)]

/-! ### Flight (R23 to R25, R28) -/

/-- An instruction that enters flight takes the next number, counts its flag and is listed; nothing else changes. -/
theorem launch_eq {s : State} {is : Issue} {r : ClauseRun} (i : Instr) (lanes : List Lane) (upd : LongOp → LongOp)
    (tracked : Bool) (h : (s.sheaf is.sid).run = some r) :
    s.launch is i lanes upd tracked = { s with
      next := s.next + 1
      sheaves := (s.launch is i lanes upd tracked).sheaves
      ops := (s.launch is i lanes upd tracked).ops } := by
  simp only [State.launch, h]
  rfl

/-- What the landing of values changes: sheaves, matrix operations that hold a register, and free values used up. -/
def Landed (s t : State) : Prop := t = { s with sheaves := t.sheaves, pods := t.pods, free := t.free }

theorem Landed.trans {s t u : State} (h : Landed s t) (k : Landed t u) : Landed s u := by
  unfold Landed at *
  rw [h] at k
  exact k

/-- Steps that each change no more than that change no more together. -/
theorem Landed.foldl {α : Type} {f : State → α → State} (h : ∀ s a, Landed s (f s a)) (l : List α) :
    ∀ s, Landed s (l.foldl f s) := by
  induction l with
  | nil => exact fun _ => rfl
  | cons a l ih => exact fun s => (h s a).trans (ih _)

theorem undefReg_landed (s : State) (sid : Nat) (who : List Nat) (r : Nat) : Landed s (s.undefReg sid who r) := by
  unfold State.undefReg each
  refine Landed.foldl (fun s t => ?_) who s
  rfl

theorem spoil_landed (s : State) (sid : Nat) (who regs : List Nat) : Landed s (s.spoil sid who regs) := by
  unfold State.spoil each
  refine Landed.trans ?_ (Landed.foldl (fun s r => undefReg_landed s sid who r) _ _)
  rfl

theorem landDst_landed (s : State) (sid t : Nat) (p : BitVec 8 × Word) (x : Word) (taint : Bool) :
    Landed s (s.landDst sid t p x taint) := by
  unfold State.landDst
  split
  · exact spoil_landed ..
  · split
    · rfl
    · dsimp only
      split <;> rfl

theorem landValues_landed (s : State) (sid : Nat) (ln : Lane) (l : List (BitVec 8 × Word)) :
    Landed s (s.landValues sid ln l) := by
  refine Landed.foldl (fun s q => ?_) l s
  split
  · exact landDst_landed ..
  · rfl

/-- Completion takes the operation out of flight and changes, beside it, what the landing of values changes. -/
theorem completeOp_landed (s : State) (o : Nat) : Landed { s with ops := (s.completeOp o).ops } (s.completeOp o) := by
  unfold State.completeOp
  split
  · rfl
  · next op _ =>
    have h : Landed { s with ops := s.ops.del o } (op.lanes.foldl
        (fun s l => if s.opAlive op then s.landValues op.sid l l.late else s) { s with ops := s.ops.del o }) :=
      Landed.foldl (fun s l => by split; exacts [landValues_landed .., rfl]) _ _
    have e := congrArg State.ops h
    dsimp only at e ⊢
    split
    · show Landed { s with ops := _ } _
      have k : ∀ (u : State) f, (u.modSheaf op.sid f).ops = u.ops := fun _ _ => rfl
      rw [k, e]
      exact h.trans rfl
    · rw [e]; exact h

theorem completeOp_ops (s : State) (o : Nat) : (s.completeOp o).ops.get o = none := by
  unfold State.completeOp
  split
  · assumption
  · next op _ =>
    have h : Landed { s with ops := s.ops.del o } (op.lanes.foldl
        (fun s l => if s.opAlive op then s.landValues op.sid l l.late else s) { s with ops := s.ops.del o }) :=
      Landed.foldl (fun s l => by split; exacts [landValues_landed .., rfl]) _ _
    have e := congrArg State.ops h
    dsimp only at e ⊢
    split <;> simp [e]

/-! ### The trail (R457) -/

/-- A store to GDDR 7 changes memory, and what fetch caches may still hold. -/
theorem poke_eq (s : State) (pa : Nat) (bs : List Byte) :
    s.poke pa bs = { s with
      mem := s.mem.writeN pa bs
      writes := (s.poke pa bs).writes
      was := (s.poke pa bs).was } := by
  unfold State.poke State.remember
  split <;> rfl

/-- A trail record changes memory, what fetch caches may still hold, and the register window only. -/
theorem trail_eq (s : State) (i : TrailInfo) : ∃ m r w l,
    s.trail i = { s with mem := m, regs := r, writes := w, was := l } ∧ (m = s.mem ∨ ∃ a bs, m = s.mem.writeN a bs) := by
  unfold State.trail
  dsimp only
  split
  · exact ⟨s.mem, _, _, _, rfl, .inl rfl⟩
  · split
    · generalize Machine.measure s.regs.trailhash (trailBytes s.now i) = q
      generalize trailBytes s.now i = bs
      rw [poke_eq]
      exact ⟨_, _, _, _, rfl, .inr ⟨_, _, rfl⟩⟩
    · generalize Machine.measure s.regs.trailhash (trailBytes s.now i) = q
      exact ⟨s.mem, _, _, _, rfl, .inl rfl⟩

/-- It keeps the memory in canonical form. -/
theorem trail_wf {s : State} (i : TrailInfo) (h : s.mem.wf = true) : (s.trail i).mem.wf = true := by
  obtain ⟨m, r, w, l, e, hm⟩ := trail_eq s i
  rw [e]
  rcases hm with rfl | ⟨a, bs, rfl⟩
  · exact h
  · exact Memory.wf_writeN _ _ h

end Sys2Proof.Laws
end

