-- ==== Sys2Proof/Tests/Slice0.lean ====
section
/-! SUPPORT. Tests of the model, each one step on a small state or one word, and for the statements of this slice the
states and operands that meet their hypotheses.  Expected values are the manual's. -/

set_option Elab.async false

namespace Sys2Proof.Tests

open Machine

/-! ### One sheaf at a word -/

/-- The clause whose first word issues: thread 0 alone runs it. -/
def clause : ClauseRun where
  pc := 0x1000
  header := 0x7F8001
  words := [0]
  k := 0
  mask := 1
  ll := 0
  yielded := false
  sleeps := []
  waits := []
  targets := []
  since := none
  place := none
  rel := none
  asked := none

/-- A sheaf of one thread at that clause; its scalar registers hold 0, 1, 2, 4 and so on, `s40` a Haar tag. -/
def sheaf : Sheaf := { Sheaf.single with
  run := some clause
  s := (List.range 48).map fun n => if n = 0 then 0 else if n = 40 then 0x4800 else BitVec.ofNat 32 (2 ^ (n - 1)) }

/-- A running workgroup with 64 KiB of scratchpad. -/
def group : Workgroup := { (default : Workgroup) with
  stage := .running
  size := 65536
  slots := [0] }

/-- The machine with that sheaf at the head of core 0. -/
def here : State := { State.reset with
  cur := some 0
  sheaves := [(0, sheaf)]
  wgs := [(0, group)] }

/-- Whether the word `i` issues from sheaf 0 of `s` in that clause. -/
def issues (s : State) (i : Instr) : Bool :=
  s.cur == some 0 && (s.sheaf 0).run == some clause && !s.holds 0 &&
    (i.cause (s.sheaf 0).regs (s.sheaf 0).width).isNone && !s.touches 0 (namedRegs (s.sheaf 0).width i) &&
    !s.touches 0 (guardRegs i)

theorem issues_of {s : State} {i : Instr} (h : issues s i = true) : Issues s i 0 clause := by
  simp only [issues, Bool.and_eq_true, beq_iff_eq, Bool.not_eq_true', Option.isNone_iff_eq_none] at h
  exact ⟨h.1.1.1.1.1, h.1.1.1.1.2, h.1.1.1.2, h.1.1.2, h.1.2, h.2⟩

/-- The integer instructions, each in a form that some word encodes. -/
def integerWords (f1 f2 f3 : Fields) : List Instr :=
  [.iadd f2, .isub f2, .imad f3, .imul f2, .imulh f2, .iaddc f3, .imin f2, .imax f2, .iabs f1, .ineg f1,
   .and f2, .or f2, .xor f2, .not f1, .andn f2, .shl f2, .shr f2, .sar f2, .rot f2, .bfe f2, .bfi f3,
   .popc f1, .clz f1, .brev f1, .ctz f1, .prmt f3, .icmp f3, .isel f3, .mov f1]

/-- The floating and packed instructions and the conversions. -/
def floatWords (f1 f2 f3 : Fields) : List Instr :=
  [.fadd f2, .fsub f2, .fmul f2, .ffma f3, .fmin f2, .fmax f2, .fcmp f3, .fsel f3, .frnd f1, .fclass f1, .fcpysgn f2,
   .hadd2 f2, .hmul2 f2, .hfma2 f3, .hmin2 f2, .hmax2 f2, .cvt f1, .pack f2, .unpack f2, .interp f3, .tclr f1]

/-- The divisions and special functions. -/
def longWords (f1 f2 : Fields) : List Instr :=
  [.idiv f2, .irem f2, .fdiv f2, .fsqrt f1, .frcp f1, .frsq f1, .fexp2 f1, .flog2 f1, .fsin f1, .fcos f1, .ftanh f1,
   .fsigm f1, .fgelu f1, .fsilu f1]

/-- Those and the ones of another shape. -/
def computing : List Instr :=
  List.flatten [integerWords (plain 3 1 0xF0 0xF0 0) (plain 3 1 2 0xF0 0) (plain 3 1 2 4 0),
    floatWords (plain 3 1 0xF0 0xF0 0) (plain 3 1 2 0xF0 0) (plain 3 1 2 4 0),
    longWords (plain 3 1 0xF0 0xF0 0) (plain 3 1 2 0xF0 0),
    [.qscale (plain 3 1 0xF0 0xF0 12), .cvtEf (plain 6 1 0xF0 0xF0 4), .imadw (plain 6 1 2 8 0),
     .lea (plain 6 8 2 0xF0 0)]]

theorem witness_computing : ∀ i ∈ computing, Issues here i 0 clause ∧ acts here i 0 clause = [0] := by
  have h : ∀ i ∈ computing, issues here i = true ∧ acts here i 0 clause = [0] := by decide +kernel
  exact fun i hi => ⟨issues_of (h i hi).1, (h i hi).2⟩

/-! ### Control flow, moves, pairs, lanes -/

/-- A long-form instruction's fields with the always-guard. -/
def far (d a b c e : BitVec 8) (m : BitVec 12) (imm : Word) : Fields :=
  { plain d a b c m with long := true, e := e, imm := imm }

/-- Fields that name no register. -/
def bare (m : BitVec 12) : Fields := plain 0xF0 0xF0 0xF0 0xF0 m

theorem meets {s : State} {i : Instr} {p : Prop} (h : issues s i = true ∧ p) : Issues s i 0 clause ∧ p :=
  ⟨issues_of h.1, h.2⟩

theorem witness_branch : Issues here (.bra (far 0xF0 0xF0 0xF0 0xF0 0xF0 0 8)) 0 clause ∧
    (clause.pc + (8 : Word).signExtend 64).toNat % 8 = 0 := meets (by decide +kernel)

theorem witness_branch_indexed : Issues here (.brx (plain 0xF0 0xC4 0xF0 0xF0 0)) 0 clause ∧
    (clause.pc + (sheaf.read 0 0 0xC4).signExtend 64).toNat % 8 = 0 := meets (by decide +kernel)

theorem witness_ret : Issues here (.ret (plain 0xF0 0xC4 0xF0 0xF0 0)) 0 clause ∧
    (clause.pc.toNat / 2 ^ 32 % 2 ^ 20 * 2 ^ 32 + (sheaf.read 0 0 0xC4).toNat) % 8 = 0 := meets (by decide +kernel)

theorem witness_call : Issues here (.call (far 3 0xF0 0xF0 0xF0 0xF0 0 0xFFFFFFF8)) 0 clause ∧
    (clause.pc + (0xFFFFFFF8 : Word).signExtend 64).toNat % 8 = 0 := meets (by decide +kernel)

theorem witness_misaligned_target :
    (Issues here (.bra (far 0xF0 0xF0 0xF0 0xF0 0xF0 0 4)) 0 clause ∧ acts here (.bra (far 0xF0 0xF0 0xF0 0xF0 0xF0 0 4)) 0 clause = [0] ∧
      (clause.pc + (4 : Word).signExtend 64).toNat % 8 ≠ 0) ∧
    (Issues here (.call (far 3 0xF0 0xF0 0xF0 0xF0 0 4)) 0 clause ∧ acts here (.call (far 3 0xF0 0xF0 0xF0 0xF0 0 4)) 0 clause = [0]) ∧
    (Issues here (.brx (plain 0xF0 0xC3 0xF0 0xF0 0)) 0 clause ∧ acts here (.brx (plain 0xF0 0xC3 0xF0 0xF0 0)) 0 clause = [0] ∧
      (clause.pc + (sheaf.read 0 0 0xC3).signExtend 64).toNat % 8 ≠ 0) ∧
    Issues here (.ret (plain 0xF0 0xC3 0xF0 0xF0 0)) 0 clause ∧ acts here (.ret (plain 0xF0 0xC3 0xF0 0xF0 0)) 0 clause = [0] ∧
      (clause.pc.toNat / 2 ^ 32 % 2 ^ 20 * 2 ^ 32 + (sheaf.read 0 0 0xC3).toNat) % 8 ≠ 0 :=
  ⟨meets (by decide +kernel), meets (by decide +kernel), meets (by decide +kernel), meets (by decide +kernel)⟩

/-- A guard that holds in no thread. -/
def never : Guard := ⟨0xF0, 0, false⟩

theorem witness_control :
    Issues here (.nop (bare 0)) 0 clause ∧ Issues here (.exit (bare 0)) 0 clause ∧
    Issues here (.yield (bare 0)) 0 clause ∧ Issues here (.sleep (plain 0xF0 0xC1 0xF0 0xF0 0)) 0 clause ∧
    (Issues here (.brk { bare 1 with g1 := never }) 0 clause ∧ acts here (.brk { bare 1 with g1 := never }) 0 clause = []) :=
  ⟨issues_of (by decide +kernel), issues_of (by decide +kernel), issues_of (by decide +kernel),
    issues_of (by decide +kernel), meets (by decide +kernel)⟩

theorem witness_breakpoint : Issues here (.brk (bare 5)) 0 clause ∧ acts here (.brk (bare 5)) 0 clause ≠ [] :=
  meets (by decide +kernel)

theorem witness_movi : Issues here (.movi (far 3 0xF0 0xF0 0xF0 0xF0 0 77)) 0 clause ∧
    Issues here (.movi (far 3 0xF0 0xF0 0xF0 0xF0 1 77)) 0 clause ∧
    Issues here (.movi (far 3 0xF0 0xF0 0xF0 0xF0 2 77)) 0 clause :=
  ⟨issues_of (by decide +kernel), issues_of (by decide +kernel), issues_of (by decide +kernel)⟩

theorem witness_spill : Issues here (.vspill (plain 16 8 0xF0 0xF0 0)) 0 clause ∧ 8 % 8 = 0 ∧ 8 + 8 ≤ 16 :=
  meets (by decide +kernel)

theorem witness_fill : Issues here (.vfill (plain 8 16 0xF0 0xF0 0)) 0 clause ∧ 8 % 8 = 0 ∧ 8 + 8 ≤ 16 :=
  meets (by decide +kernel)

theorem witness_fill_undoes_spill : ((List.range 8).map fun k => ((BitVec.ofNat 32 (k % 3) : Word), false)).length = 8 := by
  decide

theorem witness_pair : Issues here (.pairWord ⟨.fadd, 4, 5, 6⟩ ⟨.fmul, 7, 1, 3⟩) 0 clause := issues_of (by decide +kernel)

theorem witness_cross_lane :
    (∀ i ∈ [Instr.shfl (plain 3 1 2 0xF0 0), .vote (plain 3 1 0xF0 0xF0 0), .ballot (plain 3 1 0xF0 0xF0 0),
      .matchV (plain 3 1 0xF0 0xF0 0), .rdx (plain 3 1 0xF0 0xF0 0), .scan (plain 3 1 0xF0 0xF0 0), .elect (plain 3 0xF0 0xF0 0xF0 0)],
      Issues here i 0 clause) ∧ (here.sheaf 0).width ≤ 16 := by
  have h : ∀ i ∈ [Instr.shfl (plain 3 1 2 0xF0 0), .vote (plain 3 1 0xF0 0xF0 0), .ballot (plain 3 1 0xF0 0xF0 0),
      .matchV (plain 3 1 0xF0 0xF0 0), .rdx (plain 3 1 0xF0 0xF0 0), .scan (plain 3 1 0xF0 0xF0 0), .elect (plain 3 0xF0 0xF0 0xF0 0)],
      issues here i = true := by decide +kernel
  exact ⟨fun i hi => issues_of (h i hi), by decide +kernel⟩

theorem witness_elect : [3, 5] ≠ [] ∧ [3, 5].Pairwise (· < ·) ∧ ∀ i ∈ [3, 5], i < 64 := by decide

theorem witness_shuffle : let g := (issueOf here (.shfl (plain 3 1 2 0xF0 0)) 0 clause).seg (here.sheaf 0) 16 0
    0 < g.size ∧ (plain 3 1 2 0xF0 0).xmod.toNat / 2 % 4 = 0 ∧ (plain 3 1 2 0xF0 6).xmod.toNat / 2 % 4 = 3 ∧
      (plain 3 1 2 0xF0 6).xmod.toNat % 2 = 0 := by decide +kernel

/-! ### In flight -/

/-- The machine after an instruction or event. -/
def after (i : Instr) (s : State) : State :=
  match exec i s with
  | .next t => t
  | _ => s

/-- Operation `o` in flight. -/
def flight (s : State) (o : Nat) : LongOp := (s.ops.get o).getD ⟨0, 0, 0, 0, 0, 0, .nop (bare 0), none, [], [], 0, none, 0, false, none, false, []⟩

/-- A division in flight. -/
def dividing : State := after (.idiv (plain 3 0xC4 0xC3 0xF0 0)) here

/-- Whether the lanes of `op` stand as they were captured. -/
def undisturbed (s : State) (op : LongOp) (d : BitVec 8) (n : Nat) : Bool :=
  decide (d.toNat + n ≤ 0xC0) && decide (op.lanes.map (·.thread)).Nodup &&
  (List.range n).all (fun k => !s.touches op.sid [d.toNat + k]) &&
  op.lanes.all fun ln => !ln.done && !ln.split && decide (ln.late = []) && decide (ln.thread < (s.sheaf op.sid).threads.length) &&
    decide (d.toNat + n ≤ ((s.sheaf op.sid).thread ln.thread).v.length) &&
    ln.srcs.all (fun p => decide (p.1.toNat < 0xF0 → (s.sheaf op.sid).read 0 ln.thread p.1 = p.2)) &&
    ln.dsts == (regRun d n).map fun v => (v, (s.sheaf op.sid).read 0 ln.thread v)

theorem undisturbed_of {s : State} {op : LongOp} {d : BitVec 8} {n : Nat} (h : undisturbed s op d n = true) :
    Undisturbed s op d n := by
  simp only [undisturbed, Bool.and_eq_true, List.all_eq_true, decide_eq_true_eq, beq_iff_eq, Bool.not_eq_true',
    List.mem_range] at h
  refine ⟨h.1.1.1, h.1.1.2, h.1.2, fun ln hl => ?_⟩
  have k := h.2 ln hl
  exact ⟨k.1.1.1.1.1.1, k.1.1.1.1.1.2, k.1.1.1.1.2, k.1.1.1.2, k.1.1.2, k.1.2, k.2⟩

theorem witness_lands : dividing.ops.get 0 = some (flight dividing 0) ∧
    dividing.opAlive (flight dividing 0) = true ∧
    (flight dividing 0).instr.isa? = some (0x47, .fl, plain 3 0xC4 0xC3 0xF0 0) ∧
    (computeLong false (flight dividing 0).instr []).isSome = true ∧ (flight dividing 0).lanes.length = 1 ∧
    Undisturbed dividing (flight dividing 0) 3 1 :=
  ⟨by decide +kernel, by decide +kernel, by decide +kernel, by decide +kernel, by decide +kernel,
    undisturbed_of (by decide +kernel)⟩

/-! ### Scratchpad, tiles, joins -/

theorem reachesBy_of {s : State} {w size al v : Nat} {a : Word} (h : (decide (a.toNat / 2 ^ 25 = 0) &&
    decide (a.toNat / 2 ^ 19 % 2 ^ 5 = 0) && decide (a.toNat % al = 0) &&
    (if a.toNat / 2 ^ 24 % 2 = 1 then (s.wg w).partner == some v else v == w) &&
    decide (a.toNat % 2 ^ 19 + size ≤ (s.wg v).size)) = true) : ReachesBy s w a size al v := by
  simp only [Bool.and_eq_true, decide_eq_true_eq] at h
  refine ⟨h.1.1.1.1, h.1.1.1.2, h.1.1.2, ?_, h.2⟩
  have h4 := h.1.2
  by_cases hb : a.toNat / 2 ^ 24 % 2 = 1
  · rw [if_pos hb] at h4 ⊢
    exact beq_iff_eq.mp h4
  · rw [if_neg hb] at h4 ⊢
    exact beq_iff_eq.mp h4

/-- The last word of the scratchpad, and the first of the partner's. -/
def lastWord : Word := 65532
def partnerWord : Word := 0x1000000

/-- The same machine with a team of two workgroups. -/
def team : State := { here with wgs := [(0, { group with partner := some 1 }), (1, { group with partner := some 0 })] }

theorem witness_scratch_issue :
    Issues here (.lds (far 3 0xC0 0xF8 0xF0 0xF0 0 lastWord)) 0 clause ∧
    Issues here (.sts (far 0xF0 0xC0 0xF8 4 0xF0 0 lastWord)) 0 clause ∧
    Issues here (.ats (far 3 0xC0 0xF8 4 0xF0 0 lastWord)) 0 clause ∧
    sheaf.read lastWord 0 0xC0 + sheaf.read lastWord 0 0xF8 = lastWord ∧ Reaches here 0 lastWord 4 0 :=
  ⟨issues_of (by decide +kernel), issues_of (by decide +kernel), issues_of (by decide +kernel), by decide +kernel,
    reachesBy_of (by decide +kernel)⟩

theorem witness_scratch_partner : Issues team (.sts (far 0xF0 0xC0 0xF8 4 0xF0 0 partnerWord)) 0 clause ∧
    Reaches team 0 partnerWord 4 1 := ⟨issues_of (by decide +kernel), reachesBy_of (by decide +kernel)⟩

theorem witness_misaligned_scratch : Issues here (.lds (far 3 0xC0 0xF8 0xF0 0xF0 3 4)) 0 clause ∧
    acts here (.lds (far 3 0xC0 0xF8 0xF0 0xF0 3 4)) 0 clause ≠ [] ∧
    (4 : Nat) % sizeBytes 3 ≠ 0 ∧ 4 / 2 ^ 19 = 0 ∧ 4 % 2 ^ 19 + sizeBytes 3 ≤ (here.wg 0).size := meets (by decide +kernel)

/-- A store, a load and an atomic in flight. -/
def storing : State := after (.sts (far 0xF0 0xC0 0xF8 0xC4 0xF0 0 lastWord)) here
def loading : State := after (.lds (far 3 0xC0 0xF8 0xF0 0xF0 0 lastWord)) here
def counting : State := after (.ats (far 3 0xC0 0xF8 0xC4 0xF0 0 lastWord)) here

/-- Whether operation 0 stands first in its core's order, in its own scratchpad. -/
def first (s : State) : Bool :=
  (s.core 0).fifo == [0] && s.ops.get 0 == some (flight s 0) && (s.wgs.get (flight s 0).wg).isSome &&
    (flight s 0).lanes.length == 1 && (flight s 0).lanes.all fun ln => ln.pa.toNat == (flight s 0).wg

theorem witness_scratch_applied :
    (first storing = true ∧ (flight storing 0).instr = .sts (far 0xF0 0xC0 0xF8 0xC4 0xF0 0 lastWord) ∧
      Undisturbed storing (flight storing 0) 0 0) ∧
    (first loading = true ∧ (flight loading 0).instr = .lds (far 3 0xC0 0xF8 0xF0 0xF0 0 lastWord) ∧
      loading.opAlive (flight loading 0) = true ∧ Undisturbed loading (flight loading 0) 3 1) ∧
    (first counting = true ∧ (flight counting 0).instr = .ats (far 3 0xC0 0xF8 0xC4 0xF0 0 lastWord) ∧
      Undisturbed counting (flight counting 0) 3 1) :=
  ⟨⟨by decide +kernel, by decide +kernel, undisturbed_of (by decide +kernel)⟩,
    ⟨by decide +kernel, by decide +kernel, by decide +kernel, undisturbed_of (by decide +kernel)⟩,
    ⟨by decide +kernel, by decide +kernel, undisturbed_of (by decide +kernel)⟩⟩

theorem witness_unbarred (s : State) : Unbarred s 0 (flight s 0) := fun _ _ h => absurd h (Nat.not_lt_zero _)

/-- A tile of one byte row, in a state. -/
def tileIn (st : TileState) : Tile := { (default : Tile) with state := st, pend := if st = .filling ∨ st = .draining then 4 else 0 }

/-- The machine whose workgroup has one tile in each state, two accumulator tiles and two threshold registers. -/
def tiled : State := { here with wgs := [(0, { group with
  tiles := [tileIn .empty, tileIn .ready, tileIn .filling, tileIn .draining]
  desc := { group.desc with thresh := 2 }
  thr := [[1, 2, 3, 4, 5, 6], [0, 0, 0, 0, 0, 0]]
  acc := [default, default] })] }

theorem witness_tile_set : ∀ n ∈ [0, 1],
    let f := far 0xF0 0xC0 0xC0 0xC0 0xC0 (BitVec.ofNat 12 n) 0
    let t := ((tiled.flushScratch 0 false).wg 0).tiles.getD n default
    n < (tiled.wg 0).tiles.length ∧ Issues tiled (.tlSet f) 0 clause ∧ acts tiled (.tlSet f) 0 clause ≠ [] ∧
      t.kind = 0 ∧ t.uses = 0 ∧ (t.state = .empty ∨ t.state = .ready) ∧
      ∃ t', tileOf t 0 0 0 0 = some t' ∧ t'.shapeOk (tiled.wg 0).size = true ∧ t'.tagOk (tiled.wg 0).desc.thresh (tiled.wg 0).size = true := by
  intro n hn
  have h : n = 0 ∨ n = 1 := by simpa using hn
  rcases h with rfl | rfl <;>
    exact ⟨by decide +kernel, issues_of (by decide +kernel), by decide +kernel, by decide +kernel, by decide +kernel,
      by decide +kernel, _, rfl, by decide +kernel, by decide +kernel⟩

theorem witness_tile_fill : let f := plain 0xF0 0xC1 0xF0 0xF0 0
    Issues tiled (.tlFill f) 0 clause ∧ acts tiled (.tlFill f) 0 clause ≠ [] ∧ (tiled.tile 0 0).kind = 0 ∧
      (tiled.tile 0 0).state = .empty ∧ (tiled.tile 0 0).shapeOk (tiled.wg 0).size = true ∧ (1 : Word).toNat ≤ (tiled.tile 0 0).sizeB := meets (by decide +kernel)

theorem witness_tile_drain : let f := plain 0xF0 0xC1 0xF0 0xF0 1
    Issues tiled (.tlDrain f) 0 clause ∧ acts tiled (.tlDrain f) 0 clause ≠ [] ∧ (tiled.tile 0 1).kind = 0 ∧
      (tiled.tile 0 1).state = .ready ∧ (tiled.tile 0 1).uses = 0 ∧
      (tiled.tile 0 1).shapeOk (tiled.wg 0).size = true ∧ (1 : Word).toNat ≤ (tiled.tile 0 1).sizeB :=
  meets (by decide +kernel)

theorem witness_tile_dom : let f := plain 0xF0 0xC0 0xF0 0xF0 1
    Issues tiled (.tlDom f) 0 clause ∧ acts tiled (.tlDom f) 0 clause ≠ [] ∧ (tiled.tile 0 1).kind = 0 ∧
      (tiled.tile 0 1).state = .ready ∧ (0 : Word).toNat < 2 ^ 16 ∧
      ({ tiled.tile 0 1 with dom := 0 } : Tile).shapeOk (tiled.wg 0).size = true ∧
      ({ tiled.tile 0 1 with dom := 0 } : Tile).tagOk (tiled.wg 0).desc.thresh (tiled.wg 0).size = true :=
  meets (by decide +kernel)

theorem witness_settled : Settled tiled 0 false ∧ Settled team 0 true ∧ SettledBoth team 0 true true ∧
    FreeOf here 0 0 true ∧ acts here (.lds (bare 0)) 0 clause = [0] := by
  refine ⟨?_, ?_, ⟨fun _ => ?_, fun _ => ?_⟩, ?_, ?_⟩ <;> (try unfold Settled) <;> (try unfold FreeOf) <;> decide +kernel

/-- The same core with its special-function unit busy, and free. -/
def unitBusy : State := here.modCore 0 fun k => { k with sfu := 1 }

theorem witness_unit : Issues unitBusy (.frcp (plain 3 1 0xF0 0xF0 0)) 0 clause ∧ unitBusy.time.core < (unitBusy.core 0).sfu ∧
    (here.core 0).sfu ≤ here.time.core := ⟨issues_of (by decide +kernel), by decide +kernel, by decide +kernel⟩

theorem witness_tile_release : Issues tiled (.tlRel (bare 1)) 0 clause ∧ acts tiled (.tlRel (bare 1)) 0 clause ≠ [] ∧
    (tiled.tile 0 1).uses = 0 ∧ (tiled.tile 0 1).state = .ready := meets (by decide +kernel)

theorem witness_tile_status : Issues tiled (.tlStat (plain 3 0xF0 0xF0 0xF0 0x23)) 0 clause ∧ 3 < (tiled.wg 0).tiles.length :=
  meets (by decide +kernel)

theorem witness_tile_counts : (tileIn .filling).state = .filling ∧ 3 < (tileIn .filling).pend.toNat ∧
    4 = (tileIn .filling).pend.toNat ∧ (tileIn .filling).pend.toNat < 5 ∧ (tileIn .ready).state ≠ .filling ∧
    (tileIn .draining).state = .draining ∧ 3 < (tileIn .draining).pend.toNat ∧ (tileIn .draining).pend.toNat ≤ 4 := by decide

/-- The machine whose sheaf has waited 2^20 core cycles for tile 0, or for operand tokens. -/
def late (tokens : Bool) : State := { here with
  sheaves := [(0, { sheaf with
    run := some { clause with since := some ⟨if tokens then none else some 0, 2 ^ 20⟩ }
    blocked := true })] }

theorem witness_watched_wait (b : Bool) :
    ((late b).sheaf 0).run = some { clause with since := some ⟨if b then none else some 0, 2 ^ 20⟩ } ∧
    ((late b).sheaf 0).blocked = true := by cases b <;> decide +kernel

/-- A join cell's address, and the join instructions on it. -/
def joinWords : List Instr :=
  [.jcInit (plain 0xF0 0xC5 0xC2 0xF0 0), .jcArv (plain 3 0xC5 0xC2 0xF0 2), .jcExp (plain 3 0xC5 0xC2 0xF0 0),
   .jcTest (plain 3 0xC5 0xC2 0xF0 1)]

theorem witness_join : ((joinWords.all fun i => issues here i) = true ∧ sheaf.read 0 0 0xC5 = 16 ∧ sheaf.read 0 0 0xC2 = 2) ∧
    Reaches here 0 16 16 0 := ⟨by decide +kernel, reachesBy_of (by decide +kernel)⟩

theorem witness_join_phase : let x := 3 * 2 ^ 108
    x < 2 ^ 128 ∧ jcObs x = 0 ∧ jcReg x < 4095 ∧ jcPend x = 0 ∧ 1 ≤ jcExpect x ∧ jcArrived x + 3 = jcExpect x ∧
      jcArrived x + 2 < jcExpect x := by decide +kernel

theorem witness_waitm : let f := plain 3 0xC5 0xC2 0xF0 0
    (Issues here (.waitm f) 0 clause ∧ f.xmod.toNat / 8 % 2 = 0 ∧
      (sheaf.waitOf f (wordAddr 0x1000 (some 0)) 0 0).addr.setWidth 32 = (16 : Word)) ∧ Reaches here 0 16 4 0 :=
  ⟨meets (by decide +kernel), reachesBy_of (by decide +kernel)⟩

/-- A wait on the word at 16 for the value `v`, until cycle 5. -/
def waitFor (c : BitVec 3) (v : Word) : Wait :=
  ⟨c, false, 16, 0xFFFFFFFF, v, false, 3, some 5, 0, 0x1008, false, false, false⟩

/-- The machine whose thread waits so, at cycle 5. -/
def awaiting (c : BitVec 3) (v : Word) : State := { here with
  sheaves := [(0, { sheaf with run := none, threads := [{ Thread.start 0 192 with st := .waiting (waitFor c v) }] })]
  time := { Time.reset with core := 5 } }

theorem witness_wait_event : ∀ c < 4, ∀ v < 2,
    let s := awaiting (BitVec.ofNat 3 c) (BitVec.ofNat 32 v)
    let w := waitFor (BitVec.ofNat 3 c) (BitVec.ofNat 32 v)
    ((s.sheaf 0).thread 0).st = .waiting w ∧ w.global = false ∧ w.cond.toNat < 4 ∧ w.addr.toNat < 2 ^ 19 ∧
      (s.core 0).fifo = [] ∧ s.barred 0 (s.sheaf 0).gen 0 w.ataint s.next = false ∧ w.deadline = some 5 ∧
      5 ≤ s.time.core := by decide +kernel

/-! ### Engines -/

/-- A context whose page table maps virtual 0 to 2 MiB at physical 0x200000 (ordinary, writable, executable), and
virtual 0x200000 to 2 MiB at 0x400000 (plural cells of 4 bytes, in a region). -/
def context : Ctx where
  desc := BitVec.ofNat 1024 (0x600 * 2 ^ 711)
  halt := none
  calls := 0
  frames := []
  replays := []
  stopped := []
  banks := []

/-- Its tables, and the region's descriptor. -/
def tables : Memory :=
  (((((Memory.putNum [] 0 8 0x4001).putNum 0x4000 8 0x8001).putNum 0x8000 8 0x20000F).putNum 0x8008 8 0x40002F).putNum
    0xC000 32 (1 + 0x40 * 2 ^ 224 + 0x6000 * 2 ^ 160 + 0x7000 * 2 ^ 120 + 4 * 2 ^ 96)).putNum 0x202000 4 1

/-- The machine with that context and a workgroup of four tiles. -/
def mapped : State := { tiled with ctxs := [(0, context)], mem := tables }

/-- The same with no context loaded: nothing is cached, so every access walks the tables (at physical 0). -/
def walking : State := { tiled with mem := tables }

/-- A result that is not an error. -/
def isOk {ε α : Type} (x : Except ε α) : Bool :=
  match x with
  | .ok _ => true
  | .error _ => false

theorem ok_of {ε α : Type} {x : Except ε α} (h : isOk x = true) : ∃ a, x = .ok a := by
  cases x with
  | ok a => exact ⟨a, rfl⟩
  | error e => simp [isOk] at h

/-- A result that is given, or is not given yet. -/
def given {ε α : Type} (want : Bool) (x : Except ε (Option α)) : Bool :=
  match x with
  | .ok y => y.isSome == want
  | .error _ => false

theorem given_some {ε α : Type} {x : Except ε (Option α)} (h : given true x = true) : ∃ a, x = .ok (some a) := by
  rcases x with e | _ | a
  · simp [given] at h
  · simp [given] at h
  · exact ⟨a, rfl⟩

theorem given_none {ε α : Type} {x : Except ε (Option α)} (h : given false x = true) : x = .ok none := by
  rcases x with e | _ | a
  · simp [given] at h
  · rfl
  · simp [given] at h

theorem some_of {α : Type} {x : Option α} (h : x.isSome = true) : ∃ a, x = some a := Option.isSome_iff_exists.mp h

/-- A copy of 32 bytes to scratchpad 0 that counts tile 2 and the cell at 64. -/
def copyFields : Fields := far 0xF0 8 0xC0 0xC6 0xC7 0x58 0

theorem witness_copy_issue : (Issues mapped (.cpa copyFields) 0 clause ∧ 2 < (mapped.wg 0).tiles.length ∧
      (mapped.sheaf 0).tags.getD 0 0 ≠ 63 ∧ mapped.queuedCopies 0 < 16 ∧
      (mapped.sheaf 0).copyLane copyFields 0 = ⟨0, 0, 0, 32, some 64, false, none, 0⟩) ∧
    ReachesBy mapped 0 0 32 16 0 ∧ Reaches mapped 0 64 16 0 :=
  ⟨meets (by decide +kernel), reachesBy_of (by decide +kernel), reachesBy_of (by decide +kernel)⟩

theorem witness_copy_wait : let busy : State := mapped.modSheaf 0 fun sh => { sh with tags := [1, 0, 0, 0] }
    (Issues busy (.cpw (plain 0xF0 0xC0 0xF0 0xF0 1)) 0 clause ∧ acts busy (.cpw (plain 0xF0 0xC0 0xF0 0xF0 1)) 0 clause ≠ [] ∧
      0 < (busy.sheaf 0).tags.getD 0 0) ∧
    Issues busy (.cpw (plain 0xF0 0xC1 0xF0 0xF0 15)) 0 clause ∧ ∀ n < 4, (busy.sheaf 0).tags.getD n 0 ≤ 1 :=
  ⟨meets (by decide +kernel), meets (by decide +kernel)⟩

/-- That copy in the engine. -/
def copying : State := after (.cpa copyFields) mapped
def theCopy : Copy := ((copying.core 0).copies.get 0).getD default
def theLane : CopyLane := theCopy.lanes.headD default

theorem witness_copy_completes : ((copying.core 0).copies.get 0 = some theCopy ∧ theCopy.held = false ∧ 0 ∈ copying.movingCopies 0 ∧
      theLane.stuck = none ∧ theLane.bar = 0 ∧
      theCopy.lanes.all (·.done) = false ∧ theCopy.lanes.find? (fun x => x.thread = 0 && !x.done) = some theLane) ∧
    ∃ x, copying.copyBytes 0 theCopy theLane = .ok x := ⟨by decide +kernel, ok_of (by decide +kernel)⟩

theorem witness_copy_bytes : (theCopy.s2g = false ∧ 0 < theLane.valid ∧ ({ theLane with valid := 0 } : CopyLane).valid = 0 ∧
      ({ theCopy with s2g := true } : Copy).s2g = true) ∧
    (∃ x, (copying.devLoad theCopy.ctx theLane.va.toNat theLane.valid theCopy.priv (some 0)).1 = .ok x) ∧
    ∃ x, (copying.devStore theCopy.ctx theLane.va.toNat ((copying.wg 0).scratch.readN 0 theLane.valid) theCopy.priv (some 0)).1 = .ok x :=
  ⟨by decide +kernel, ok_of (by decide +kernel), ok_of (by decide +kernel)⟩

/-- A record at 64 in scratchpad. -/
def withRecord (n x : Nat) (s : State) : State := s.modWg 0 fun g => { g with scratch := Memory.putNum [] 64 n x }

/-- A record that copies four words from scratchpad 256 to 512. -/
def tensor : State := withRecord 48 (512 * 2 ^ 192 + 256 * 2 ^ 128 + 2 ^ 86 + 2 ^ 84 + 2 * 2 ^ 81 +
  (4 * 2 ^ 96 + 4 * 2 ^ 48 + 4 * 2 ^ 16) * 2 ^ 256) mapped

/-- A contribution of one element to the buffer at 0x1000 with its counter at 0x2000, and a broadcast of it that expects
`n` contributions. -/
def contribution : State := withRecord 64 (0x1000 * 2 ^ 448 + 0x2000 * 2 ^ 384 + 256 * 2 ^ 352 + 512 * 2 ^ 320 + 2 ^ 288) mapped
def broadcast (n : Nat) : State := withRecord 64 (0x1000 * 2 ^ 448 + 0x2000 * 2 ^ 384 + 256 * 2 ^ 352 + 2 ^ 288 + n * 2 ^ 276) mapped

theorem witness_record_at : RecordAt tensor 0 64 32 ∧ RecordAt (tensor.flushScratch 0 false) 0 64 48 ∧
    RecordAt (contribution.flushScratch 0 false) 0 64 64 := by unfold RecordAt; decide +kernel

/-- The core has room for a record, nothing holds the thread back, and its record stands at 64. -/
def kickable (s : State) (i : Instr) : Bool :=
  decide (acts s i 0 clause = [0]) && decide (sheaf.read 0 0 0xC7 = 64) &&
    (s.flushScratch 0 false).scratchClear 0 false && !s.barred 0 (s.sheaf 0).gen 0 true s.next &&
    decide ((s.core 0).reqs.length < 8)

theorem side_of {s : State} {w a z al v : Nat} {lo hi : Int} (h : (decide (a / 2 ^ 25 = 0) && decide (a / 2 ^ 19 % 2 ^ 5 = 0) &&
    decide (a / 2 ^ 24 % 2 = 0) && decide (v = w) && decide (a % 2 ^ 19 + 1 ≤ (s.wg v).size) &&
    decide (0 ≤ ((a % 2 ^ 19 : Nat) : Int) + lo ∧ ((a % 2 ^ 19 : Nat) : Int) + hi + z ≤ (s.wg v).size ∧ a % al = 0)) = true) :
    SideLegal s w a z al lo hi := by
  simp only [Bool.and_eq_true, decide_eq_true_eq] at h
  obtain ⟨⟨⟨⟨⟨h1, h2⟩, h3⟩, rfl⟩, h5⟩, h6⟩ := h
  have e : (BitVec.ofNat 32 a).toNat = a := by
    rw [BitVec.toNat_ofNat, Nat.mod_eq_of_lt]
    omega
  refine ⟨v, ⟨?_, ?_, Nat.mod_one _, ?_, ?_⟩, h6⟩ <;> rw [e]
  · exact h1
  · exact h2
  · rw [h3]; rfl
  · exact h5

theorem witness_tensor : let q := tensor.flushScratch 0 false
    (Issues tensor (.reqKick (plain 0xF0 0xC7 0xF0 0xF0 0)) 0 clause ∧ kickable tensor (.reqKick (plain 0xF0 0xC7 0xF0 0xF0 0)) = true ∧
      48 + 16 * min (leNat ((q.wg 0).scratch.readN 64 32) / 2 ^ 88 % 16) 11 = 48) ∧
    TensorLegal q 0 (recOf ((q.wg 0).scratch.readN 64 48)) :=
  ⟨meets (by decide +kernel), by decide +kernel, by decide +kernel, by decide +kernel, by decide +kernel, by decide +kernel,
    by decide +kernel, by decide +kernel,
    (if_pos (by decide +kernel)).mpr ⟨by decide +kernel, side_of (v := 0) (by decide +kernel)⟩,
    (if_pos (by decide +kernel)).mpr ⟨by decide +kernel, side_of (v := 0) (by decide +kernel)⟩,
    fun h => absurd h (by decide +kernel)⟩

theorem witness_collective_red : let q := contribution.flushScratch 0 false
    (Issues contribution (.collRed (plain 0xF0 0xC7 0xF0 0xF0 1)) 0 clause ∧
      kickable contribution (.collRed (plain 0xF0 0xC7 0xF0 0xF0 1)) = true) ∧
    CollectiveLegal true 4 q 0 (crecOf ((q.wg 0).scratch.readN 64 64)) :=
  ⟨meets (by decide +kernel), by decide +kernel, by decide +kernel, by decide +kernel, by decide +kernel, by decide +kernel,
    by decide +kernel, by decide +kernel, by decide +kernel, by decide +kernel, side_of (v := 0) (by decide +kernel),
    fun _ => side_of (v := 0) (by decide +kernel), fun h => absurd h (by decide +kernel)⟩

theorem witness_collective_bcast : let q := (broadcast 1).flushScratch 0 false
    (Issues (broadcast 1) (.collBcast (plain 0xF0 0xC7 0xF0 0xF0 0)) 0 clause ∧
      kickable (broadcast 1) (.collBcast (plain 0xF0 0xC7 0xF0 0xF0 0)) = true) ∧
    CollectiveLegal false 4 q 0 (crecOf ((q.wg 0).scratch.readN 64 64)) :=
  ⟨meets (by decide +kernel), by decide +kernel, by decide +kernel, by decide +kernel, by decide +kernel, by decide +kernel,
    by decide +kernel, by decide +kernel, by decide +kernel, by decide +kernel, side_of (v := 0) (by decide +kernel),
    fun h => absurd h (by decide), fun h => absurd h (by decide +kernel)⟩

/-- The first record of core 0's request engine. -/
def record (s : State) : Req := ((s.core 0).reqs.headD (0, default)).2

/-- The three of them in the engine. -/
def kicked : State := after (.reqKick (plain 0xF0 0xC7 0xF0 0xF0 0)) tensor
def reduced : State := after (.collRed (plain 0xF0 0xC7 0xF0 0xF0 1)) contribution
def spread (n : Nat) : State := after (.collBcast (plain 0xF0 0xC7 0xF0 0xF0 0)) (broadcast n)

theorem runs_of {s : State} {q : Req} (h : ((s.core 0).reqs.get 0 == some q && !q.held && q.stuck == none &&
    decide (0 ∈ (((s.core 0).reqs.filter fun r => !s.onHold r.2.ctx r.2.held).take 4).map (·.1))) = true) : Runs s 0 0 q := by
  simp only [Bool.and_eq_true, beq_iff_eq, decide_eq_true_eq, Bool.not_eq_true'] at h
  exact ⟨h.1.1.1, h.1.1.2, h.1.2, h.2⟩

theorem witness_records_run : Runs kicked 0 0 (record kicked) ∧ Runs reduced 0 0 (record reduced) ∧
    Runs (spread 1) 0 0 (record (spread 1)) ∧ Runs (spread 2) 0 0 (record (spread 2)) :=
  ⟨runs_of (by decide +kernel), runs_of (by decide +kernel), runs_of (by decide +kernel), runs_of (by decide +kernel)⟩

theorem witness_records : (record kicked).kind = .tensor ∧ (record reduced).kind = .red 1 ∧
    (record (spread 1)).kind = .bcast 0 ∧ (record (spread 2)).kind = .bcast 0 ∧
    (let r := recOf (record kicked).bytes;
      r.sspace = 1 ∧ r.dspace = 1 ∧ r.jcv = false ∧ r.tlv = false ∧ (record kicked).pos = 0 ∧ r.src / 2 ^ 24 = 0 ∧
        r.dst / 2 ^ 24 = 0) ∧
    (let r := crecOf (record reduced).bytes;
      r.jcv = false ∧ r.tlv = false ∧ r.n = (record reduced).pos + 1) ∧
    (crecOf (record (spread 1)).bytes).jcv = false ∧ (crecOf (record (spread 1)).bytes).tlv = false := by decide +kernel

theorem none_of {α β : Type} {x : α × Option β} (h : x.2.isNone = true) : ∃ m, x = (m, none) := by
  obtain ⟨m, y⟩ := x
  cases y with
  | none => exact ⟨m, rfl⟩
  | some y => simp at h

theorem witness_tensor_moves : let q := record kicked
    ∃ m, moveAll (moveElem q.wg (q.engine 0) q.ctx q.priv q.bank (recOf q.bytes))
      ((TRec.elems (recOf q.bytes).dims).drop q.pos) ⟨kicked, q.pos, q.poison, q.ovf⟩ = (m, none) := none_of (by decide +kernel)

/-- The loads and stores of the contribution's element and of its arrival. -/
def contributing : EngineTry State :=
  let q := record reduced
  let r := crecOf q.bytes
  let go (s : State) (a : Nat) (f : Nat → Nat) : EngineTry State :=
    match s.engineLoad (q.engine 0) q.ctx a 4 q.priv with
    | .ok l => l.2.2.engineStore (q.engine 0) q.ctx a (natBytes 4 (f (leNat l.1))) q.priv
    | .error e => .error e
  match go reduced r.buf id with
  | .ok s => go s r.cnt (· + 1)
  | .error e => .error e

theorem witness_contributing : ∃ s, contributing = .ok s := ok_of (by decide +kernel)

/-- The counter of a broadcast, and its words. -/
def counter (n : Nat) : EngineTry (List Byte × Bool × State) :=
  let q := record (spread n)
  (spread n).engineLoad (q.engine 0) q.ctx (crecOf q.bytes).cnt 4 q.priv

theorem witness_broadcast : (∃ l, counter 1 = .ok l) ∧ (∃ l, counter 2 = .ok l) ∧
    (match counter 1 with
      | .ok l => leNat l.1 == 1 && (crecOf (record (spread 1)).bytes).expect == 1 &&
        isOk (l.2.2.engineLoad ((record (spread 1)).engine 0) 0 (crecOf (record (spread 1)).bytes).buf 4 false)
      | .error _ => false) = true ∧
    1 < (crecOf (record (spread 2)).bytes).expect :=
  ⟨ok_of (by decide +kernel), ok_of (by decide +kernel), by decide +kernel, by decide +kernel⟩

theorem witness_format_load : Issues here (.fmtLoad (plain 0xF0 0xC5 0xF0 0xF0 0)) 0 clause ∧
    acts here (.fmtLoad (plain 0xF0 0xC5 0xF0 0xF0 0)) 0 clause ≠ [] ∧ 16 % 16 = 0 ∧ 16 < 2 ^ 19 ∧ 16 + 512 ≤ (here.wg 0).size :=
  meets (by decide +kernel)

/-- A workgroup in its prologue with one binding, a word of global memory that goes to scratchpad 512. -/
def bound : State := { mapped with
  graphs := [(0, { (default : Graph) with
    binds := [natBytes 80 ((512 * 2 ^ 192 + 2 ^ 84 + 2 * 2 ^ 81 +
      (2 ^ 96 + 4 * 2 ^ 48 + 4 * 2 ^ 16) * 2 ^ 256) * 2 ^ 256)] })]
  wgs := [(0, { group with stage := .prologue, bindings := [0] })] }

/-- The next binding. -/
def binding : Binding := ((bound.nextBinding 0).getD (0, bindingOf [])).2

theorem witness_prologue : let r := recOf binding.record
    (bound.nextBinding 0 = some (0, binding) ∧ binding.tset = false ∧ r.src = 0 ∧ r.dst = 512 ∧ r.sspace = 0 ∧ r.dspace = 1 ∧
      (TRec.elems r.dims).drop 0 = [(0, 0)]) ∧ (∃ l, bound.engineLoad ⟨0, 3, 0⟩ 0 0 4 false = .ok l) ∧
    ∃ m, moveAll (moveElem 0 ⟨0, 3, 0⟩ 0 false [] r) ((TRec.elems r.dims).drop 0) ⟨bound, 0, false, false⟩ = (m, none) :=
  ⟨by decide +kernel, ok_of (by decide +kernel), none_of (by decide +kernel)⟩

theorem witness_prologue_landed : let s := bound.modWg 0 fun g => { g with bindPos := 1 }
    s.nextBinding 0 = some (0, binding) ∧ (TRec.elems (recOf binding.record).dims).length ≤ (s.wg 0).bindPos := by decide +kernel

theorem witness_prologue_complete : let s := bound.modWg 0 fun g => { g with bindings := [] }
    (s.wg 0).stage = .prologue ∧ (s.wg 0).bindings = [] := by decide +kernel

/-! ### Matrix and accumulator instructions -/

/-- A tile of 64 rows of `k` elements in format `fmt`. -/
def operandTile (fmt k : Nat) : Tile := { tileIn .ready with rows := 63, cols := BitVec.ofNat 10 (k - 1), fmt := BitVec.ofNat 5 fmt }

/-- The machine whose tiles 0 and 1 are such operands, with three accumulator tiles and a sealed region of weights. -/
def operands (fa fb k : Nat) : State := { mapped with
  wgs := [(0, { group with
    tiles := [operandTile fa k, operandTile fb k]
    desc := { group.desc with thresh := 2, sheaves := 1 }
    thr := [[1, 2, 3, 4, 5, 6], [0, 0, 0, 0, 0, 0]]
    acc := [default, { (default : Acc) with dom := 0x4800 }, { (default : Acc) with order := [⟨7, false, 0⟩] }] })]
  dies := [(0, { ComputeDie.reset with regions := [(0, { Region.reset with state := 2, size := 255 }), (1, { Region.reset with state := 1, base := 256, size := 255 })] })] }

/-- Two tile operands, or the weight store and a tile, with `.z` or without. -/
def matrixFields (fa fb asrc z d : Nat) : Fields :=
  far (BitVec.ofNat 8 d) (if asrc = 2 then 0xC0 else 0) 1 0xF0 0xF0 (BitVec.ofNat 12 (asrc * 1024 + 512 + z * 128)) (BitVec.ofNat 32 (fa * 2 ^ 27 + fb * 2 ^ 22))

/-- The two tiles serve a matrix instruction at once. -/
def MatrixReady (s : State) (kind : Nat) (f : Fields) : Prop :=
  let m := matFields kind f
  MatLegal m f (s.sheaf 0) (s.wg 0) ∧
    (m.asrc = 1 → OperandTile (s.tile 0 f.a.toNat) m.afmt m.k ∧ tagAxis (s.tile 0 f.a.toNat).dom = 0) ∧
    (m.btile = true → OperandTile (s.tile 0 f.b.toNat) m.bfmt m.k ∧ tagAxis (s.tile 0 f.b.toNat).dom = 0) ∧
    (∀ k < 2 ^ m.span, (s.wg 0).slots.getD ((s.sheaf 0).idx + k) 0 = 0) ∧
    ((s.pod 0).queue 0).length < 4 ∧ ((s.pod 0).queue 1).length < 4

theorem witness_mma : let f := matrixFields 0 0 1 1 0
    Issues (operands 0 0 32) (.mma f) 0 clause ∧ acts (operands 0 0 32) (.mma f) 0 clause ≠ [] ∧
      MatrixReady (operands 0 0 32) 0 f ∧ ((operands 0 0 32).acc 0 0).order.length < 7 := by
  refine meets ?_
  unfold MatrixReady MatLegal Permitted OperandTile
  dsimp only
  and_intros <;> decide +kernel

theorem witness_mma_forced : let f := matrixFields 0 0 1 0 1
    Issues (operands 0 0 32) (.mma f) 0 clause ∧ MatrixReady (operands 0 0 32) 0 f ∧
      (matFields 0 f).z = false ∧ tagAxis ((operands 0 0 32).acc 0 1).dom ≠ 0 ∧ ((operands 0 0 32).core 0).jobs.length < 4 ∧
      ((operands 0 0 32).acc 0 1).order.length < 6 := by
  refine meets ?_
  unfold MatrixReady MatLegal Permitted OperandTile
  dsimp only
  and_intros <;> decide +kernel

theorem witness_mma_weights : let f := matrixFields 0 0 2 1 0
    Issues (operands 0 0 32) (.mma f) 0 clause ∧ MatrixReady (operands 0 0 32) 0 f ∧
      InRegion ((operands 0 0 32).die 0) 0 (63 * (matFields 0 f).rowA + (matFields 0 f).rowA) 16 0 2 := by
  refine meets ?_
  unfold MatrixReady MatLegal Permitted OperandTile InRegion
  dsimp only
  and_intros <;> decide +kernel

theorem witness_mma_idle : let f := { matrixFields 0 0 1 1 0 with g1 := never }
    Issues (operands 0 0 32) (.mma f) 0 clause ∧ acts (operands 0 0 32) (.mma f) 0 clause = [] := meets (by decide +kernel)

theorem witness_mmat : let f := matrixFields 15 11 1 1 0
    Issues (operands 15 11 640) (.mmat f) 0 clause ∧ MatrixReady (operands 15 11 640) 1 f := by
  refine meets ?_
  unfold MatrixReady MatLegal Permitted OperandTile
  dsimp only
  and_intros <;> decide +kernel

theorem witness_mmas : let f := { matrixFields 17 17 1 1 0 with c := 16, e := 32 }
    Issues (operands 17 17 128) (.mmas f) 0 clause ∧ MatrixReady (operands 17 17 128) 2 f := by
  refine meets ?_
  unfold MatrixReady MatLegal Permitted OperandTile
  dsimp only
  and_intros <;> decide +kernel

theorem witness_token : (Issues here (.mopRdy (bare 0)) 0 clause ∧ acts here (.mopRdy (bare 0)) 0 clause ≠ [] ∧
      (here.sheaf 0).token = false) ∧ Issues here (.mopRdy (bare 1)) 0 clause ∧ here.tokenBusy 0 = false :=
  ⟨meets (by decide +kernel), meets (by decide +kernel)⟩

/-- An operation of which `n` row groups are written, alone in the multiplying engine of pod 0. -/
def matOp (n : Nat) : MatOp :=
  { (default : MatOp) with op := 7, ticket := 7, a := .frag [], b := .frag [], groups := n }
def multiplying (n : Nat) : State := { operands 0 0 32 with pods := [(0, ⟨[matOp n], []⟩)] }

theorem witness_engine : ∀ n ∈ [0, 3, 4], ((multiplying n).pod 0).mul.find? (fun m => !(multiplying n).onHold m.ctx m.held) = some (matOp n) ∧
    (n = 4 → (matOp n).groups = 4) := by decide +kernel

theorem witness_group_free : GroupFree (multiplying 0) (matOp 0) ∧ GroupFree (multiplying 3) (matOp 3) := by
  refine ⟨⟨by decide +kernel, by decide +kernel, by decide +kernel, by decide +kernel, by decide +kernel, ?_⟩,
    ⟨by decide +kernel, by decide +kernel, by decide +kernel, by decide +kernel, by decide +kernel, ?_⟩⟩ <;>
    exact fun _ _ _ h => nomatch h

theorem witness_row_group : ∀ n ∈ [0, 3], (matOp n).a = .frag [] ∧ (matOp n).b = .frag [] ∧ (matOp n).groups = n ∧ n < 4 ∧
    (matOp n).spoilt = false ∧ (matOp n).surv = [] ∧ (matOp n).acc < ((multiplying n).wg (matOp n).wg).acc.length ∧
    ((multiplying n).wgs.get (matOp n).wg).isSome = true := by decide +kernel

theorem witness_dot : (List.replicate 16 (1 : Int)).length = 16 * 1 := by decide

/-- The machine of the accumulator instructions. -/
def accs : State := operands 0 0 32

theorem witness_acc_zero : (Issues accs (.accZ (plain 0 0xF0 0xF0 0xF0 0)) 0 clause ∧
      acts accs (.accZ (plain 0 0xF0 0xF0 0xF0 0)) 0 clause ≠ [] ∧ 0 < (accs.wg 0).acc.length ∧ (accs.acc 0 0).order = []) ∧
    Issues accs (.accZ (plain 2 0xF0 0xF0 0xF0 0)) 0 clause ∧ 0 < (accs.acc 0 2).order.length ∧ (accs.acc 0 2).order.length < 7 :=
  ⟨meets (by decide +kernel), meets (by decide +kernel)⟩

theorem witness_acc_lanes : ((∀ i ∈ [Instr.accRd (plain 3 0xC1 0xC2 0 0), .accWr (plain 0 0xC1 0xC2 4 0), .accWm (plain 3 0 0xF0 0xF0 3),
      .accCvt (plain 0 0xC1 0xF0 0xF0 0)], issues accs i = true ∧ acts accs i 0 clause = [0]) ∧ 0 < (accs.wg 0).acc.length ∧
    tagAxis (accs.acc 0 0).dom = 0 ∧ (accs.acc 0 0).order.length < 7 ∧ 2 % 64 % 1 = 0 ∧
    (accs.acc 0 0).free accs.next ((sheaf.read 0 0 0xC1).toNat % 64) = true) := by decide +kernel

theorem witness_acc_transfers : (Issues accs (.accLd (far 0 0xC0 0xF0 0xF0 0xF0 0 63)) 0 clause ∧
      Issues accs (.accSt (far 0 0xC0 0xF0 0xF0 0xF0 0 63)) 0 clause ∧ (63 : Nat) < 2 ^ 28 ∧ 63 + 1 ≤ 64 ∧
      (accs.acc 0 0).order.length < 7) ∧ ReachesBy accs 0 0 (0 * 256 + rowBytes 0 64) 1 0 :=
  ⟨⟨issues_of (by decide +kernel), issues_of (by decide +kernel), by decide +kernel⟩, reachesBy_of (by decide +kernel)⟩

/-! ### Weight store and Haar domain -/

theorem inRegion_of {d : ComputeDie} {off n al i : Nat} {want : BitVec 2} (h : (decide (off + n ≤ 2 ^ 30 ∧ off % al = 0 ∧ i < 64 ∧
    (d.region i).state = want ∧ want ≠ 0 ∧ (d.region i).range.1 ≤ off ∧ off + n ≤ (d.region i).range.1 + (d.region i).range.2) &&
    (List.range i).all fun j => decide ¬ ((d.region j).state ≠ 0 ∧ (d.region j).range.1 ≤ off ∧
      off + n ≤ (d.region j).range.1 + (d.region j).range.2)) = true) : InRegion d off n al i want := by
  simp only [Bool.and_eq_true, decide_eq_true_eq, List.all_eq_true, List.mem_range] at h
  exact ⟨h.1.1, h.1.2.1, h.1.2.2.1, h.1.2.2.2.1, h.1.2.2.2.2.1, h.1.2.2.2.2.2.1, h.1.2.2.2.2.2.2, h.2⟩

theorem witness_weights : Issues accs (.ldw (plain 3 0xC0 0xC3 0xF0 0)) 0 clause ∧ InRegion (accs.die 0) 4 4 4 0 2 ∧
    Issues accs (.wstStat (plain 3 0xC0 0xF0 0xF0 0)) 0 clause ∧ (sheaf.read 0 0 0xC0).toNat < 64 :=
  ⟨issues_of (by decide +kernel), inRegion_of (by decide +kernel), issues_of (by decide +kernel), by decide +kernel⟩

/-- A fill of 64 bytes at the start of region 1. -/
def fillFields : Fields := far 0xF0 8 0xDE 0xC7 0xF0 0 0

theorem witness_weight_fill : (Issues accs (.wstFill fillFields) 0 clause ∧ acts accs (.wstFill fillFields) 0 clause ≠ [] ∧
    sheaf.read 0 0 0xDE = 0x20000000 ∧ sheaf.read 0 0 0xC7 = 64) ∧ InRegion (accs.die 0) 0x20000000 64 64 1 1 :=
  ⟨meets (by decide +kernel), inRegion_of (by decide +kernel)⟩

/-- That fill in the engine. -/
def filling : State := after (.wstFill fillFields) accs
def theFill : Fill := ((filling.die 0).fills.get 0).getD default

theorem witness_fill_progress : ((filling.die 0).fills.get 0 = some theFill ∧ filling.onHold theFill.ctx theFill.held = false) ∧
    ∃ x, (filling.devLoad theFill.ctx theFill.va.toNat 64 theFill.priv).1 = .ok x := ⟨by decide +kernel, ok_of (by decide +kernel)⟩

/-- The machine at 1,000 ns whose region 0 is `r`. -/
def region (r : Region) : State := { accs with
  dies := [(0, { ComputeDie.reset with regions := [(0, r)] })], time := { Time.reset with now := 1000 } }

theorem witness_regions :
    (((region Region.reset).die 0).refuses 0 (setBits 0 62 2 1) = false ∧ (((region Region.reset).die 0).region 0).state = 0) ∧
    (∀ p ∈ [(0 : BitVec 24), 1], let s := region { Region.reset with state := 1, pend := p };
      (s.die 0).refuses 0 (setBits 0 62 2 2) = false ∧ ((s.die 0).region 0).state = 1 ∧ ((s.die 0).region 0).wait = none) ∧
    (let s := region { Region.reset with state := 2 };
      (s.die 0).refuses 0 (setBits 0 62 2 0) = false ∧ ((s.die 0).region 0).state ≠ 0 ∧ ((s.die 0).region 0).pend = 0 ∧
        s.readsWeights 0 ((s.die 0).region 0).range.1 ((s.die 0).region 0).range.2 = false) ∧
    (let s := region { Region.reset with state := 2, short := true, deadline := 1000 };
      ((s.die 0).region 0).short = true ∧ ((s.die 0).region 0).deadline.toNat ≤ s.now) := by
  refine ⟨by decide +kernel, ?_, by decide +kernel, by decide +kernel⟩
  intro p hp
  have h : p = 0 ∨ p = 1 := by simpa using hp
  rcases h with rfl | rfl <;> decide +kernel

theorem witness_region_refused : ∀ st ∈ [1, 2, 0], ((region Region.reset).die 0).refuses 0 (setBits (2 ^ 24) 62 2 st) = true := by
  decide +kernel

theorem witness_refresh : let s := region { Region.reset with state := 2 };
    (s.die 0).refresh = none ∧ ((s.die 0).region 0).state ≠ 0 ∧ ((s.die 0).region 0).short = false ∧
      ((s.die 0).region 0).base.toNat ≤ 0 ∧ 0 ≤ ((s.die 0).region 0).base.toNat + ((s.die 0).region 0).size.toNat := by decide +kernel

/-- A weight load in flight when its short-lived region expires. -/
def expiring : State := after (.ldw (plain 3 0xC0 0xC3 0xF0 0)) (region { Region.reset with state := 2, short := true, deadline := 1000 })

theorem witness_retention : expiring.ops.get 0 = some (flight expiring 0) ∧
    (flight expiring 0).instr = .ldw (plain 3 0xC0 0xC3 0xF0 0) ∧ (flight expiring 0).lanes.length = 1 ∧
    (∀ l ∈ (flight expiring 0).lanes, (expiring.die 0).regionAt l.va.toNat 4 = some 0) ∧
    ((expiring.die 0).region 0).short = true ∧ ((expiring.die 0).region 0).deadline.toNat ≤ expiring.now := by decide +kernel

theorem witness_haar_lines : 2 ^ 2 ∣ ([1, -5, 7, 9] : List Int).length := by decide

theorem witness_thresholds : (Issues accs (.thset (far 0xF0 0xC0 0xC1 0xF0 0xF0 1 0)) 0 clause ∧
      acts accs (.thset (far 0xF0 0xC0 0xC1 0xF0 0xF0 1 0)) 0 clause ≠ [] ∧ 1 < (accs.wg 0).desc.thresh ∧
      (sheaf.read 0 0 0xC0).toNat = 0 ∧ (sheaf.read 0 0 0xC1).toNat < 2 ^ 16) ∧
    Issues accs (.thset (far 0xF0 0xF8 0xC1 0xF0 0xF0 1 6)) 0 clause ∧
    Issues accs (.thget (plain 3 0xC1 0xF0 0xF0 1)) 0 clause ∧ 1 ≤ (sheaf.read 0 0 0xC1).toNat ∧ (sheaf.read 0 0 0xC1).toNat ≤ 6 :=
  ⟨meets (by decide +kernel), issues_of (by decide +kernel), meets (by decide +kernel)⟩

/-- The machine whose tile 0 is spatial, 1 in the Haar domain and 2 empty, all of 64 by 64 words of F32, with a spatial
and a Haar accumulator tile. -/
def haar : State := { accs with wgs := [(0, { accs.wg 0 with
  tiles := [{ operandTile 0 64 with state := .ready }, { operandTile 0 64 with dom := 0x4800 }, { operandTile 0 64 with state := .empty }] })] }

theorem witness_haar_forward : let f (d : BitVec 8) := plain d 0xE8 0xF0 0xF0 0
    (Issues haar (.hfwd (f 0)) 0 clause ∧ acts haar (.hfwd (f 0)) 0 clause ≠ [] ∧ sheaf.read 0 0 0xE8 = 0x4800 ∧
      tagAxis 0x4800 ≠ 0 ∧ accTagOk 0x4800 (haar.wg 0).desc.thresh = true ∧ tagAxis (haar.acc 0 0).dom = 0 ∧
      (haar.core 0).jobs.length < 3 ∧ (haar.acc 0 0).order.length < 6) ∧
    Issues haar (.hfwd (f 1)) 0 clause ∧ tagAxis (haar.acc 0 1).dom ≠ 0 ∧ (haar.acc 0 1).order.length < 6 :=
  ⟨meets (by decide +kernel), meets (by decide +kernel)⟩

theorem witness_haar_inverse :
    (∀ d < 2, issues haar (.hinv (plain (BitVec.ofNat 8 d) 0xF0 0xF0 0xF0 1)) = true ∧ d < (haar.wg 0).acc.length ∧
      (tagAxis (haar.acc 0 d).dom = 0 ↔ d = 0) ∧ (haar.acc 0 d).order.length < 7) ∧
    (∀ d < 2, issues haar (.hinv (plain (BitVec.ofNat 8 d) 0xF0 0xF0 0xF0 0)) = true ∧ (haar.tile 0 d).state = .ready ∧
      (haar.tile 0 d).uses = 0 ∧ (tagAxis (haar.tile 0 d).dom = 0 ↔ d = 0)) := by decide +kernel

theorem witness_haar_bias : Issues haar (.hbias (plain 0 0xC1 0xC2 0xF0 0)) 0 clause ∧
    acts haar (.hbias (plain 0 0xC1 0xC2 0xF0 0)) 0 clause ≠ [] ∧ tagAxis (haar.acc 0 0).dom = 0 ∧ (haar.acc 0 0).order = [] :=
  meets (by decide +kernel)

theorem witness_haar_mask :
    (issues haar (.hmask (plain 0xF0 0xF0 1 0xF0 3)) = true ∧ issues haar (.hmask (plain 3 0xC1 1 0xF0 1)) = true ∧
      tagAxis (haar.acc 0 1).dom ≠ 0 ∧ (haar.acc 0 1).order = [] ∧ (sheaf.read 0 0 0xC1).toNat < 16) ∧
    issues haar (.hmask (plain 0xF0 0xF0 1 0xF0 2)) = true ∧ issues haar (.hmask (plain 3 0xC1 1 0xF0 0)) = true ∧
      (haar.tile 0 1).state = .ready ∧ tagAxis (haar.tile 0 1).dom ≠ 0 ∧ 1 * 32 < (haar.tile 0 1).maskBits := by decide +kernel

theorem witness_haar_store :
    (issues haar (.sth (plain 2 0 0xF0 0xF0 1)) = true ∧ 2 < (haar.wg 0).tiles.length ∧ (haar.tile 0 2).uses = 0 ∧
      (haar.tile 0 2).state = .empty ∧ (haar.tile 0 2).nrows ≤ 64 ∧ (haar.tile 0 2).ncols ≤ 64 ∧ tagAxis (haar.acc 0 0).dom = 0) ∧
    issues haar (.sth (plain 2 0 0xF0 0xF0 0)) = true ∧ (haar.tile 0 0).state = .ready ∧ (haar.tile 0 0).rows = (haar.tile 0 2).rows ∧
      (haar.tile 0 0).cols = (haar.tile 0 2).cols ∧ (haar.tile 0 0).fmt.toNat ∈ [0, 1, 2, 8, 10, 11] ∧
      tagAxis (haar.tile 0 0).dom = 0 := by decide +kernel

/-- A job on a tile or on an accumulator tile, first of its core. -/
def job (acc : Bool) (g : BitVec 16) : Job := { (default : Job) with kind := .hinv, acc := acc, tile := 1, tag := g }
def lifting (acc : Bool) (g : BitVec 16) : State := haar.modCore 0 fun k => { k with jobs := [job acc g] }

theorem free_of {a : Acc} {t m : Nat} (h : a.order = []) : a.free t m = true := by simp [Acc.free, h]

theorem witness_lift : (∀ acc ∈ [true, false], ((lifting acc 0x4800).core 0).jobs.find?
      (fun j => !(lifting acc 0x4800).onHold ((lifting acc 0x4800).wg j.wg).ctx j.held) = some (job acc 0x4800) ∧
        (job acc 0x4800).srcAcc = false ∧ (job acc 0x4800).acc = acc) ∧
    (∀ m, ((lifting true 0x4800).acc 0 1).free (job true 0x4800).ticket m = true) ∧
    (job true 0x4800).grouped = true ∧ ({ job true 0x8800 with kind := .hfwd } : Job).grouped = false :=
  ⟨by decide +kernel, fun _ => free_of (by decide +kernel), by decide +kernel, by decide +kernel⟩

/-! ### Global memory -/

/-- Whether every lane of a global access at virtual `va` of `mapped` translates to a page that `p` accepts.  Address
registers: 8 and 9 hold 0, the immediate is the offset. -/
def places (i : Instr) (f : Fields) (off : BitVec 8) (acc : Access) (late : Bool) (p : State → Leaf → Bool) : Bool :=
  let x := mapped.placeAll 0 (mapped.sheaf 0) (accessSize i) acc late
    ((acts mapped i 0 clause).map fun t => (t, ((mapped.sheaf 0).globalAddr f off t).toNat))
  issues mapped i && acts mapped i 0 clause == [0] && x.1.length == 1 && x.1.all fun q => match q.2.2 with
    | .ok l => p x.2 l
    | _ => false

theorem places_of {i : Instr} {f : Fields} {off : BitVec 8} {acc : Access} {late : Bool} {p : State → Leaf → Bool}
    (h : places i f off acc late p = true) :
    let x := mapped.placeAll 0 (mapped.sheaf 0) (accessSize i) acc late
      ((acts mapped i 0 clause).map fun t => (t, ((mapped.sheaf 0).globalAddr f off t).toNat))
    Issues mapped i 0 clause ∧ ∀ q ∈ x.1, ∃ l, q.2.2 = .ok l ∧ p x.2 l = true := by
  simp only [places, Bool.and_eq_true, List.all_eq_true] at h
  refine ⟨issues_of h.1.1.1, fun q hq => ?_⟩
  have := h.2 q hq
  split at this
  · rename_i l hl
    exact ⟨l, hl, this⟩
  · simp at this

/-- The fields of an access at `va` with its data in register 4. -/
def at_ (d b c e : BitVec 8) (m : BitVec 12) (va : Word) : Fields := far d 8 b c e m va

/-- An ordinary page; a plural page of four-byte cells inside a region. -/
def ordinary (_ : State) (l : Leaf) : Bool := !l.plural
def pluralCells (s : State) (l : Leaf) : Bool := l.plural && l.cell == 4 && (s.pregion (s.ctx 0) l.pa).isSome

theorem witness_global_issue :
    places (.ld (at_ 3 0xF8 0xF0 0xF0 0 4)) (at_ 3 0xF8 0xF0 0xF0 0 4) 0xF8 .load false ordinary = true ∧
    places (.ldCon (at_ 3 0xF8 0xF0 0xF0 3 8)) (at_ 3 0xF8 0xF0 0xF0 3 8) 0xF8 .load false ordinary = true ∧
    places (.ldAcq (at_ 3 0xF8 0xF0 0xF0 0 4)) (at_ 3 0xF8 0xF0 0xF0 0 4) 0xF8 .load false ordinary = true ∧
    places (.st (at_ 0xF0 0xF8 4 0xF0 1 5)) (at_ 0xF0 0xF8 4 0xF0 1 5) 0xF8 .store true ordinary = true ∧
    places (.stRel (at_ 0xF0 0xF8 4 0xF0 0 4)) (at_ 0xF0 0xF8 4 0xF0 0 4) 0xF8 .store true ordinary = true ∧
    places (.stSub (at_ 0xF0 4 5 0xF8 0 4)) (at_ 0xF0 4 5 0xF8 0 4) 0xF8 .store true ordinary = true ∧
    places (.atom (at_ 3 0xF8 4 0xF0 0 4)) (at_ 3 0xF8 4 0xF0 0 4) 0xF8 .atomic false ordinary = true ∧
    places (.atomCas (at_ 3 0xF8 4 0xF0 0 4)) (at_ 3 0xF8 4 0xF0 0 4) 0xF8 .atomic false ordinary = true ∧
    places (.red (at_ 0xF0 0xF8 4 0xF0 0 4)) (at_ 0xF0 0xF8 4 0xF0 0 4) 0xF8 .atomic true ordinary = true := by decide +kernel

theorem witness_plural_issue :
    places (.ldk (at_ 12 0xF8 0xF0 0xF0 0 0x200000)) (at_ 12 0xF8 0xF0 0xF0 0 0x200000) 0xF8 .load false pluralCells = true ∧
    places (.stk (at_ 3 4 6 0xF8 0 0x3FFFFC)) (at_ 3 4 6 0xF8 0 0x3FFFFC) 0xF8 .store true
      (fun _ l => l.plural && l.cell == 4) = true ∧
    places (.stk (at_ 3 4 6 0xF8 0 0x200004)) (at_ 3 4 6 0xF8 0 0x200004) 0xF8 .store true pluralCells = true ∧
    places (.rcn (at_ 12 0xF8 0xF0 0xF0 0 0x200004)) (at_ 12 0xF8 0xF0 0xF0 0 0x200004) 0xF8 .atomic false pluralCells = true ∧
    places (.vism (at_ 12 4 5 0xF8 0 8)) (at_ 12 4 5 0xF8 0 8) 0xF8 .atomic false ordinary = true := by decide +kernel

theorem witness_misaligned_global : Issues mapped (.ld (at_ 4 0xF8 0xF0 0xF0 3 4)) 0 clause ∧
    acts mapped (.ld (at_ 4 0xF8 0xF0 0xF0 3 4)) 0 clause ≠ [] ∧
    ((mapped.sheaf 0).globalAddr (at_ 4 0xF8 0xF0 0xF0 3 4) 0xF8 0).toNat < 2 ^ 52 ∧
    ((mapped.sheaf 0).globalAddr (at_ 4 0xF8 0xF0 0xF0 3 4) 0xF8 0).toNat % sizeBytes 3 ≠ 0 := meets (by decide +kernel)

theorem witness_walk : mapped.inGddr context.root 8 = true ∧ mapped.inGddr 0x4000 8 = true ∧ mapped.inGddr 0x8000 8 = true ∧
    mapped.mem.num context.root 8 = 0x4001 ∧ mapped.mem.num 0x4000 8 = 0x8001 ∧ mapped.mem.num 0x8000 8 = 0x20000F ∧
    0x4001 % 4 = 1 ∧ badTable 0 0x4001 = false ∧ 0x8001 % 4 = 1 ∧ badTable 1 0x8001 = false ∧ 0x20000F % 4 = 3 ∧
    mapped.badLeaf context 2 0x20000F = false := by decide +kernel

theorem witness_walk_fills : (mapped.ctxs.get 0).isSome = true ∧ 5 < 2 ^ 52 ∧
    mapped.walk (mapped.ctx 0) 5 = .leaf 0x8000 0x20000F 21 := by decide +kernel

/-- A load, a store and a reduction in flight, and the store once it has been applied. -/
def loadFields : Fields := at_ 3 0xF8 0xF0 0xF0 0 4
def storeFields : Fields := at_ 0xF0 0xF8 4 0xF0 1 5
def loaded : State := after (.ld loadFields) mapped
def stored : State := after (.st storeFields) mapped
def applied : State := after (.globalAccessPerformed 0 0) stored
def reducing : State := after (.red (at_ 0xF0 0xF8 4 0xF0 0 4)) mapped

/-- The lane of operation 0 that is not done. -/
def lane (s : State) : Lane := (flight s 0).lanes.headD default

/-- Whether operation 0 has that one lane still to do. -/
def pending (s : State) : Bool :=
  s.ops.get 0 == some (flight s 0) && (flight s 0).lanes == [lane s] && !(lane s).done && (lane s).thread == 0 &&
    s.open_ (some 0) (lane s).leaf && (lane s).leaf.ca != 3 && decide ((lane s).pa.toNat < windowBase) && !(lane s).leaf.plural

theorem joins_of {s : State} {die : Option Nat} {d : Nat} (h : s.regs.ucie.any id = true) : s.joins die d = true := by
  simp only [State.joins, h, Bool.true_or]

/-- The page of an access of one byte or more at `va` of `mapped`. -/
theorem mapped_of {va n a e b : Nat} {acc : Access} {late : Bool} {l : Leaf} (h : (decide (va < 2 ^ 52) && decide (va % n = 0) &&
    mapped.cached (some 0) 0 va == [] && mapped.walk (mapped.ctx 0) va == .leaf a e b && permits e acc false && l == leafAt va e b &&
    !l.guarded && (late || mapped.reaches l n acc) && mapped.regs.ucie.any id) = true) : Mapped mapped 0 0 va n acc late false a e b l := by
  simp only [Bool.and_eq_true, decide_eq_true_eq, beq_iff_eq, Bool.not_eq_true', Bool.or_eq_true] at h
  have hu := h.2
  replace h := h.1
  exact ⟨h.1.1.1.1.1.1.1, h.1.1.1.1.1.1.2, h.1.1.1.1.1.2, h.1.1.1.1.2, fun _ _ => joins_of hu, h.1.1.1.2, h.1.1.2, .inr h.1.2,
    h.2⟩

theorem witness_mapped : Mapped mapped 0 0 4 4 .load false false 0x8000 0x20000F 21 (leafAt 4 0x20000F 21) ∧
    Mapped mapped 0 0 5 1 .store true false 0x8000 0x20000F 21 (leafAt 5 0x20000F 21) ∧
    Mapped mapped 0 0 4 4 .atomic false false 0x8000 0x20000F 21 (leafAt 4 0x20000F 21) ∧
    (leafAt 4 0x20000F 21).plural = false :=
  ⟨mapped_of (by decide +kernel), mapped_of (by decide +kernel), mapped_of (by decide +kernel), by decide +kernel⟩

/-- The plural page, with ACC and DIRTY set in its entry. -/
def marked : State := { mapped with mem := mapped.mem.putNum 0x8008 8 0x40062F }

theorem witness_mapped_plural : marked.markEntry 0x8008 .store = marked ∧
    marked.walk (marked.ctx 0) 0x200004 = .leaf 0x8008 0x40062F 21 ∧ marked.cached (some 0) 0 0x200004 = [] ∧
    permits 0x40062F .store false = true ∧ (leafAt 0x200004 0x40062F 21).plural = true ∧
    (leafAt 0x200004 0x40062F 21).cell = 4 ∧
    (marked.pregion (marked.ctx 0) (leafAt 0x200004 0x40062F 21).pa).isSome = true :=
  ⟨by
    have h : marked.mem.num 0x8008 8 = 0x40062F := by decide +kernel
    simp only [State.markEntry, h]
    exact if_pos (by decide), by decide +kernel⟩

theorem witness_load_performed : pending loaded = true ∧ (flight loaded 0).instr = .ld loadFields ∧
    loaded.mayApply 0 (flight loaded 0) (lane loaded) = true ∧
    (loaded.loadBytes 0 0 (lane loaded).leaf 4 0 (lane loaded).ataint).1.2 = false := by decide +kernel

theorem witness_store_applied : pending stored = true ∧ (flight stored 0).instr = .st storeFields ∧ (lane stored).applied = none ∧
    stored.mayApply 0 (flight stored 0) (lane stored) = true ∧ (lane stored).srcs ≠ [] := by decide +kernel

theorem witness_store_performed : (pending applied = true ∧ (flight applied 0).instr = .st storeFields ∧
      (lane applied).applied.isSome = true ∧ applied.badStore 0 (.st storeFields) (lane applied).leaf 1 = none) ∧
    (applied.pendingStores 0).all (fun p => decide ((lane applied).applied.getD 0 ≤ p.1)) = true := by decide +kernel

theorem witness_reduction : pending reducing = true ∧ (flight reducing 0).instr = .red (at_ 0xF0 0xF8 4 0xF0 0 4) ∧
    reducing.mayApply 0 (flight reducing 0) (lane reducing) = true ∧ (reducing.pendingStores 0).isEmpty = true ∧
    reducing.inGddr (lane reducing).pa.toNat 4 = true ∧ (reducing.homeLoad (reducing.ctx 0) (lane reducing).leaf 4).2 = false := by decide +kernel

theorem witness_atomic : (5 : Nat) < 2 ^ 32 ∧ ([7, 2 ^ 32 - 1] : List Nat).all (fun v => decide (v < 2 ^ 32)) = true := by decide

theorem witness_fence :
    (issues mapped (.fence (bare 1)) = true ∧ acts mapped (.fence (bare 1)) 0 clause ≠ []) ∧
    (issues mapped (.fence (bare 0x10)) = true ∧ mapped.fenceOk 0 (acts mapped (.fence (bare 0x10)) 0 clause) 4 = true ∧
      mapped.peersAcked 0 0 (mapped.wordRel 0) = true) ∧
    (issues mapped (.cctl (bare 1)) = true ∧ acts mapped (.cctl (bare 1)) 0 clause ≠ []) ∧
    issues mapped (.cctl (at_ 0xF0 0xF8 0xF0 0xF0 0 4)) = true ∧ issues mapped (.pref (at_ 0xF0 0xF8 0xF0 0xF0 1 4)) = true ∧
    issues mapped (.pref (at_ 0xF0 0xF8 0xF0 0xF0 0 4)) = true ∧
    issues mapped (.pref { at_ 0xF0 0xF8 0xF0 0xF0 0 4 with g1 := never }) = true ∧
    acts mapped (.pref { at_ 0xF0 0xF8 0xF0 0xF0 0 4 with g1 := never }) 0 clause = [] ∧
    issues mapped (.tclr (plain 3 1 0xF0 0xF0 0)) = true := by decide +kernel

theorem witness_memory_error : let s := loaded.modOp 0 fun op => { op with
      faults := [(0, 0x11, 0, 4)], lanes := op.lanes.map fun l => { l with done := true } }
    s.ops.get 0 = some (flight s 0) ∧ (flight s 0).faults = [(0, 0x11, 0, 4)] ∧ (flight s 0).allDone = true := by decide +kernel

theorem witness_imprecise_store : let s : State := { applied with poison := [0x200005] };
    s.ops.get 0 = some (flight s 0) ∧ (flight s 0).lanes = [lane s] ∧ (lane s).done = false ∧
      (flight s 0).instr = .st storeFields ∧ (lane s).applied.isSome = true ∧ s.badStore 0 (.st storeFields) (lane s).leaf 1 = some 2 := by decide +kernel

/-- A package 1 whose link is down and a load of it. -/
def lost : State := loaded.modOp 0 fun op => { op with
  lanes := op.lanes.map fun l => { l with entry := 2 ^ 62 + 0x20018F } }

theorem witness_link_loss : lost.ops.get 0 = some (flight lost 0) ∧ (flight lost 0).instr = .ld loadFields ∧
    (flight lost 0).lanes = [lane lost] ∧ (lane lost).done = false ∧ (lane lost).leaf.ca = 3 ∧
    lost.linkDown (lane lost).leaf.peer = true ∧ lost.mayApply 0 (flight lost 0) (lane lost) = true := by decide +kernel

/-- A store posted to package 1 through port 0, whose link is up. -/
def posting : State := { mapped with
  bases := [(0, { BaseDie.reset 0 with port := ⟨1000, 2, false, 0, true⟩, posted := [(9, ⟨0, 1, 0, 64, [(1, 0xFF)], 0, 0, 0, false, false⟩)] }), (1, BaseDie.reset 1)]
  regs := { Regs.reset with peers := [(false, 0), (true, 0), (false, 0), (false, 0)] } }

theorem witness_acknowledged : ((posting.bases.find? (fun b => (b.2.posted.get 9).isSome)).map (·.1) = some 0 ∧
      (posting.base 0).posted.get 9 = some ⟨0, 1, 0, 64, [(1, 0xFF)], 0, 0, 0, false, false⟩) ∧ posting.linkUp 1 = true ∧
    (posting.base 0).firstPosted 9 ⟨0, 1, 0, 64, [(1, 0xFF)], 0, 0, 0, false, false⟩ = true := by decide +kernel

/-- A release that has waited for port 0 beyond its limit. -/
def releasing : State := { posting with
  sheaves := [(0, { sheaf with run := some { clause with rel := some ⟨5, 5, 0, 0⟩ } })], time := { Time.reset with now := 5 } }

theorem witness_retrain : (releasing.sheaf 0).run = some { clause with rel := some ⟨5, 5, 0, 0⟩ } ∧
    releasing.expiredPort 0 0 0 ⟨5, 5, 0, 0⟩ = some 0 := by decide +kernel

theorem witness_link_state : (posting.base 0).port.en = true ∧ (posting.base 0).port.state ≠ 3 ∧
    State.reset.regs.ucie.getD 1 false = true := by decide +kernel

theorem witness_outside : State.reset.inGddr (State.reset.form.gddr - 8) 8 = true ∧ State.reset.form.gddr - 8 < windowBase := by decide +kernel

/-- A plural cell of one sibling in the region of `context`. -/
def aRegion : PRegion := (mapped.pregion context 0x400000).getD ⟨0, 0, 0, 0, 0⟩

theorem witness_sibling : isOk (mapped.addSibling aRegion 0x400000 4 ⟨2 ^ 24 - 1, [(0, 5)], 0⟩ [(0, 5)] 6) = true ∧
    16 ≤ (List.replicate 16 ((0, 0) : Nat × Nat)).length := by decide +kernel

/-- A plural load of a lane in flight. -/
def pluralLoad : State := after (.ldk (at_ 12 0xF8 0xF0 0xF0 0 0x200000)) mapped

theorem witness_plural_performed : let s := pluralLoad
    s.ops.get 0 = some (flight s 0) ∧ (flight s 0).instr = .ldk (at_ 12 0xF8 0xF0 0xF0 0 0x200000) ∧
    (flight s 0).lanes = [lane s] ∧ (lane s).done = false ∧ s.mayApply 0 (flight s 0) (lane s) = true ∧
    s.open_ (some 0) (lane s).leaf = true ∧
    (let q := (s.unsettle (s.ctx 0) (lane s).leaf 4).modCore 0 fun k => k.dropLines (lane s).pa.toNat 4;
      (q.pregion (q.ctx 0) (lane s).pa.toNat).isSome = true ∧ (q.homeLoad (q.ctx 0) (lane s).leaf 4).2 = false) := by decide +kernel

theorem witness_memory : (Memory.write [] 5 7).wf = true ∧ (Memory.write [(5, 7)] 5 Config.unlistedByte).wf = true := by decide

/-! ### Ring store -/

/-- A base die 0 whose ring store is `r`. -/
def ringed (r : RingStore) : State := { State.reset with bases := [(0, { BaseDie.reset 0 with ring := r }), (1, BaseDie.reset 1)], time := { Time.reset with now := 4000000 } }

/-- Four banks, the last one spare. -/
def ring : RingStore := { RingStore.reset 0 with avail := 15, spare := 3, map := [0, 1, 2] }

theorem witness_ring : ((ringed ring).base 0).ring = ring ∧ ring.avail.getLsbD 2 = true ∧ ring.rot = true ∧ ring.busy = false ∧
    ring.rotating = none ∧ ring.nextRot ≤ (ringed ring).now ∧ ring.lost.getLsbD ring.spare = false ∧
    ({ ring with rotating := some 2 } : RingStore).rotating = some 2 := ⟨rfl, by decide +kernel⟩

theorem witness_remapping : (∀ m ∈ [(3 : BitVec 256), 1], let r : RingStore := { ring with go := true, newmap := m }
      r.go = true ∧ r.busy = false ∧ (r.refuses = 0 ↔ m = 3)) ∧ ({ ring with busy := true } : RingStore).busy = true := by
  refine ⟨fun m hm => ?_, rfl⟩
  have h : m = 3 ∨ m = 1 := by simpa using hm
  rcases h with rfl | rfl <;> decide +kernel

theorem witness_parity : ((ring.swap.get 31).getD (false, 0)).1 = false ∧ ((ring.swap.get 31).getD (false, 0)).2 ≤ 4 := by decide +kernel

/-! ### Graphs -/

/-- A ring resource of two tiles, and one that is no ring. -/
def ringRes : Resource := { (default : Resource) with cls := 1, w := 2, h := 1, nt := 2, slots := 2, slotb := 4096, policy := 2 }
def plainRes : Resource := { (default : Resource) with w := 2, h := 1 }

/-- A pass of `w` tiles with `n` edges from `e`. -/
def passOf (kind w e n : Nat) : Pass := { (default : Pass) with
  kind := kind, teams := 1, w := w, h := 1, efirst := e, ecount := n
  desc := { (default : Desc) with sheaves := 1, width := 16, regs := 8, recsz := if kind = 1 then 1 else 0 } }

/-- Pass 0 writes a plain resource and the ring, pass 1 is a record node that pass 0 feeds, pass 2 reads the ring, pass 3
has no edge; one recipe makes the ring's tiles. -/
def graph (runs : List PassRun) : Graph := { (default : Graph) with
  stage := .admitted
  passes := [passOf 0 2 0 2, passOf 1 1 2 1, passOf 0 2 3 1, passOf 0 1 4 0]
  groups := [⟨1, 1, 0⟩]
  ress := [ringRes, plainRes]
  edges := [⟨1, 1, 0, 0, 0, false, 0, 0⟩, ⟨1, 0, 0, 0, 0, true, 0, 0⟩, ⟨2, 0, 0, 0, 0, false, 0, 0⟩, ⟨0, 0, 0, 0, 1, true, 0, 0⟩]
  stens := [⟨0, 2 ^ 24, 1, 1, 1, 1, 0⟩]
  recipes := [{ (default : Recipe) with pass := 2, target := 0 }]
  resv := [(0, 0, default), (1, 257, default)]
  rings := [(0, [(0, ⟨.resident, 1, 0, none⟩), (1, ⟨.dropped, 1, 0, none⟩)])]
  runs := runs }

/-- A pass that has entered, and one that has not. -/
def passRun (tiles : Tab TileRun) : PassRun := { (default : PassRun) with
  entered := true, tiles := tiles, known := [[0], []], passKnown := [true, false] }

/-- A tile at a board state whose one team, workgroup 0, is placed. -/
def tileRunOf (b : Board) : TileRun := { TileRun.reset with board := b, placed := 1, wgs := [0] }

/-- The machine with that graph, workgroup `g`, and the ring of die 0. -/
def graphed (g : Workgroup) (gr : Graph) : State := { ringed ring with
  cur := some 0, sheaves := [(0, sheaf)], wgs := [(0, g)], graphs := [(0, gr)] }

/-- Workgroup 0, with a tile of the ring's shape that is empty and one that is ready. -/
def staged : Workgroup := { group with tiles := [ringRes.shape, { ringRes.shape with state := .ready }] }

theorem witness_tile_ret : ∀ b ∈ [false, true],
    let f := bare (if b then 0x20 else 0)
    let s := graphed group (graph [passRun []])
    Issues s (.tileRet f) 0 clause ∧ acts s (.tileRet f) 0 clause ≠ [] ∧ (s.wg 0).forTile = true ∧ 0 < s.edgeCount 0 ∧
      s.fenceOk 0 (acts s (.tileRet f) 0 clause) 3 = true ∧ s.drainHeld 0 (List.range 2) = false := by
  intro b _
  cases b <;> exact ⟨issues_of (by decide +kernel), by decide +kernel⟩

theorem witness_ring_query : let s := graphed staged (graph [passRun []])
    Issues s (.rsQ (plain 3 0xC0 0xC1 0xF0 0)) 0 clause ∧ (s.graph 0).queryOk 0 1 = true ∧
      sheaf.read 0 0 0xC0 = 0 ∧ sheaf.read 0 0 0xC1 = 1 := meets (by decide +kernel)

theorem witness_ring_fill : let s := graphed staged (graph [passRun []])
    let f := plain 0xF0 0xC0 0xC1 0xF0 1
    Issues s (.rsQ f) 0 clause ∧ acts s (.rsQ f) 0 clause ≠ [] ∧ 0 < (s.wg 0).tiles.length ∧ (s.graph 0).queryOk 0 1 = true ∧
      ((s.flushScratch 0 false).tile 0 0).matches ((s.graph 0).res 0) = true := meets (by decide +kernel)

theorem witness_pass_entry : let g := (graphed group (graph [passRun []])).graph 0
    g.stage = .admitted ∧ 1 < g.passes.length ∧ (g.run 1).entered = false ∧ (g.run 0).entered = true := by decide +kernel

theorem witness_release_tile : let g := (graphed group (graph [passRun [], default, passRun []])).graph 0
    g.stage = .admitted ∧ (g.run 2).entered = true ∧ (g.pass 2).kind = 0 ∧ 0 < (g.pass 2).count ∧ (g.run 2).tiles.get 0 = none ∧
      g.satisfied 2 0 = true ∧ g.trail = false := by decide +kernel

theorem witness_dispatch : let s := graphed group (graph [passRun [(0, TileRun.reset)]])
    s.dispatchOrder 1 = [(0, 0, 0, 0)] ∧ s.outsHeld (s.graph 0) 0 = false ∧ ((s.graph 0).reserve 0 1).isSome = true := by decide +kernel

/-- A dispatched tile handed over to the launch unit. -/
def handed : State := { graphed group (graph [passRun [(0, { TileRun.reset with board := .dispatched })]]) with
  launches := [(1, ⟨none, [(0, 0, 0)], []⟩)] }

theorem witness_dispatch_plain : let s := graphed group (graph [passRun [], passRun [], passRun [], passRun [(0, TileRun.reset)]])
    s.dispatchOrder 1 = [(49152, 0, 3, 0)] ∧ (∀ e ∈ (s.graph 0).outs 3, ((s.graph 0).res e.res).cls ≠ 1) ∧
      (s.graphs.get 0).isSome = true := by decide +kernel

theorem witness_placement : handed.placing 1 = false ∧
    (∀ b ∈ (handed.launchUnit 1).batches, handed.halted (handed.graph b.1).ctx = true) ∧
    (handed.launchUnit 1).tiles.find? (fun x => !handed.halted (handed.graph x.1).ctx) = some (0, 0, 0) ∧
    handed.tileRun 0 0 0 = some { TileRun.reset with board := .dispatched } ∧
    ((handed.newTeam 0 0 0 0).2.findSeats (handed.newTeam 0 0 0 0).1).isSome = true := by decide +kernel

/-- A workgroup of pass 0 at a stage, with no sheaf in a slot. -/
def seatless (st : Stage) : State := { graphed { group with stage := st, slots := [], desc := (passOf 0 2 0 2).desc }
  (graph [passRun [(0, tileRunOf .running)]]) with sheaves := [], cur := none }

theorem witness_admission : let s := seatless .placed
    (s.wgs.get 0).isSome = true ∧ (s.wg 0).stage = .placed ∧ (s.findSeats (s.teamOf 0)).isSome = true ∧
      s.powerAllows (baseOfCore ((((s.findSeats (s.teamOf 0)).getD []).map (·.core)).headD 0)) = true ∧ s.regs.hold = false := by decide +kernel

theorem witness_admitted_hold : (match (seatless .placed).findSeats ((seatless .placed).teamOf 0) with
    | some l => !(((l.foldl (fun s x => s.enter x) (seatless .placed)).noIncoming [0]).modLaunch 1 fun u =>
        { u with last := (l.head?).map fun x => x.core / 2 }).regs.hold
    | none => false) = true := by decide +kernel

theorem witness_start : let s := seatless .primed
    (s.teamOf 0).all (fun v => (s.wg v).stage == .primed) = true ∧ s.halted (s.wg 0).ctx = false ∧ (s.wg 0).work = .tile ∧
      s.startsLater 0 (s.teamOf 0) = false ∧
      ((s.graph 0).run 0).lastStart.get 0 = none := by decide +kernel

theorem witness_workgroup_end : (seatless .running).wgEnded 0 = true := by decide +kernel

/-- The sheaf whose one thread has exited. -/
def ended : Sheaf := { sheaf with run := none, threads := [{ Thread.start 0 192 with st := .exited }] }

theorem witness_sheaf_end : let s : State := { here with sheaves := [(0, ended)] }
    (s.sheaves.get 0).isSome = true ∧ (s.sheaf 0).threads ≠ [] ∧ ((s.sheaf 0).threads.all fun th => th.st == .exited) = true ∧
      ((s.sheaf 0).flags.all (· == 0)) = true ∧ ((s.sheaf 0).tags.all (· == 0)) = true ∧ (s.sheaf 0).token = false ∧
      s.tokenBusy 0 = false ∧ s.ops = [] := by decide +kernel

/-- The machine whose workgroup's threads have exited, tile 0 of pass 0 as `r`. -/
def closing (p : Nat) (r : TileRun) : State := { graphed { staged with tiles := staged.tiles.reverse }
  (graph ((List.range 4).map fun q => passRun (if q = p then [(0, r)] else []))) with sheaves := [(0, ended)] }

theorem witness_edge_done : let s := closing 0 (tileRunOf .running)
    (((s.graph 0).outs 0)[0]?).isSome = true ∧ s.tileRun 0 0 0 = some (tileRunOf .running) ∧ s.closedIn 0 0 = true ∧
      (tileRunOf .running).done_.getLsbD 0 = false ∧ ((s.graph 0).pass 0).teams = (tileRunOf .running).placed ∧ ((s.graph 0).res 1).cls ≠ 1 := by decide +kernel

/-- The tile whose edges are done, its drain begun or not, and the machine with its staging tile at `st`. -/
def doneRun (begun : BitVec 24) : TileRun := { tileRunOf .draining with done_ := 3, leader := 2, begun := begun }
def draining (begun : BitVec 24) (kind : Nat) (st : TileState) : State :=
  { closing 0 (doneRun begun) with wgs := [(0, { staged with tiles := [{ ringRes.shape with kind := kind, state := st }] })] }

/-- What the three clauses of a drain share. -/
def drains (s : State) (begun : BitVec 24) : Bool :=
  decide (((s.graph 0).outs 0)[1]? = some ⟨1, 0, 0, 0, 0, true, 0, 0⟩) && decide (s.tileRun 0 0 0 = some (doneRun begun)) &&
    (doneRun begun).done_.getLsbD 1 && !(doneRun begun).drained.getLsbD 1 && (s.wg 0).resident && decide ((doneRun begun).lead = 0)

theorem witness_drain :
    (drains (draining 0 1 .ready) 0 = true ∧ (doneRun 0).begun.getLsbD 1 = false ∧ ((draining 0 1 .ready).tile 0 0).kind = 1 ∧
      ((draining 0 1 .ready).tile 0 0).state = .ready) ∧
    (drains (draining 0 0 .empty) 0 = true ∧ ((draining 0 0 .empty).tile 0 0).kind ≠ 1) ∧
    (drains (draining 2 1 .draining) 2 = true ∧ (doneRun 2).begun.getLsbD 1 = true ∧
      ((draining 2 1 .draining).tile 0 0).state = .draining ∧
      ((draining 2 1 .draining).base (((draining 2 1 .draining).graph 0).res 0).die).ring.hold = false ∧
      ((draining 2 1 .draining).drainTo 0 0 0 0 0).1.isSome = true) := by decide +kernel

theorem witness_tile_retire : let s := closing 3 { tileRunOf .running with ended := 1 }
    s.tileRun 0 3 0 = some { tileRunOf .running with ended := 1 } ∧ ((s.graph 0).outs 3).length = 0 ∧
      ((s.graph 0).pass 3).teams = 1 ∧ (tileRunOf .running).placed = 1 ∧ (tileRunOf .running).wgs.length = 1 ∧
      (tileRunOf .running).stream = none := by decide +kernel

theorem witness_tile_drained : let r : TileRun := { tileRunOf .draining with done_ := 3, drained := 3 }
    let s := closing 0 r
    s.tileRun 0 0 0 = some r ∧ ((s.graph 0).outs 0).length = 2 ∧ (∀ i < 2, r.drained.getLsbD i = true) ∧ r.stream = none ∧
      r.board = .draining := by decide +kernel

theorem witness_notice : let s : State := { State.reset with bases := [(0, { BaseDie.reset 0 with notices := [⟨0, 1, wholePass⟩] }), (1, BaseDie.reset 1)] }
    (s.base 0).notices = [⟨0, 1, wholePass⟩] ∧ (⟨0, 1, wholePass⟩ : Notice).tile = wholePass := by decide +kernel

theorem witness_node_retire : let g := (closing 4 TileRun.reset).graph 0
    g.stage = .admitted ∧ 1 < g.passes.length ∧ (g.pass 1).kind = 1 ∧ (g.run 1).entered = true ∧ (g.run 1).retired = false ∧
      g.fed 1 = true ∧ (g.run 1).queue = [] ∧ (g.run 1).coming = [] ∧ (g.run 1).live = 0 := by decide +kernel

theorem witness_graph_retire : let s := graphed group (graph ((List.range 4).map fun _ => { (passRun []) with retired := true }))
    (s.graphs.get 0).isSome = true ∧ (s.graph 0).stage = .admitted ∧ (s.graph 0).runs.all (·.retired) = true ∧
      (s.graph 0).chains = [] := by decide +kernel

theorem witness_read_end : let s := closing 2 (tileRunOf .running)
    s.tileRun 0 2 0 = some (tileRunOf .running) ∧ (s.graph 0).stage = .admitted ∧ ((s.graph 0).res 0).cls = 1 ∧
      0 ∈ (s.graph 0).reads 2 0 0 ∧ (s.graph 0).stagedRead 2 0 0 0 = true ∧ s.released 0 0 0 true = true ∧
      (0, 0) ∉ (tileRunOf .running).reads ∧ ((s.graph 0).pass 2).teams = (tileRunOf .running).placed := by decide +kernel

/-- A graph with a fill of ring tile 1, which is dropped, and one with a recipe under way for it. -/
def filling_ : State := graphed staged { graph [passRun []] with fills := [(5, ⟨0, 0, 0, 1, false, 0⟩)] }
def chained (l : Option Nat) : State := { graphed group { graph [passRun []] with chains := [(3, ⟨0, 1, 1, [], [], true, l, false, false⟩)] } with
  sheaves := [(0, ended)] }

theorem witness_ring_fill_complete : ∃ q, (filling_.graph 0).fills.get 5 = some q ∧
    (filling_.graphs.find? (fun g => (g.2.fills.get 5).isSome)).map (·.1) = some 0 ∧
    filling_.onHold (filling_.graph 0).ctx q.held = false ∧ (filling_.base ((filling_.graph 0).res q.res).die).ring.hold = false ∧
      (filling_.wg q.wg).resident = true := ⟨⟨0, 0, 0, 1, false, 0⟩, by decide +kernel⟩

theorem witness_gather : (filling_.graph 0).stage = .admitted ∧ ((filling_.graph 0).res 0).cls = 1 ∧
    ((filling_.graph 0).ringTile 0 1).st = .dropped ∧ filling_.demand 0 0 1 = some 1 := by decide +kernel

theorem witness_recipe_launch : ∃ c, ((chained none).graph 0).chains = [(3, c)] ∧ (chained none).launchable 0 c = true ∧
    (chained none).recipeSlot 0 (((chained none).graph 0).groupOf c) = some (0, 0) :=
  ⟨⟨0, 1, 1, [], [], true, none, false, false⟩, by decide +kernel⟩

theorem witness_recipe_end : ∃ c, ((chained (some 0)).graph 0).chains.get 3 = some c ∧ c.launched = some 0 ∧
    (chained (some 0)).closedIn 0 0 = true ∧ (chained (some 0)).onHold 0 c.held = false ∧ c.ret = false :=
  ⟨⟨0, 1, 1, [], [], true, some 0, false, false⟩, by decide +kernel⟩

/-! ### Records -/

/-- The machine with record `st` of node 1, entry 0. -/
def recorded (w : Workgroup) (st : RecState) : State := { graphed w (graph [passRun [], passRun []]) with
  recs := [(0, [(0, ⟨0, 1, st⟩)])] }

/-- `issues` for any clause. -/
def issuesAs (r : ClauseRun) (s : State) (i : Instr) : Bool :=
  s.cur == some 0 && (s.sheaf 0).run == some r && !s.holds 0 &&
    (i.cause (s.sheaf 0).regs (s.sheaf 0).width).isNone && !s.touches 0 (namedRegs (s.sheaf 0).width i) &&
    !s.touches 0 (guardRegs i)

theorem issuesAs_of {r : ClauseRun} {s : State} {i : Instr} {p : Prop} (h : issuesAs r s i = true ∧ p) : Issues s i 0 r ∧ p := by
  have h1 := h.1
  simp only [issuesAs, Bool.and_eq_true, beq_iff_eq, Bool.not_eq_true', Option.isNone_iff_eq_none] at h1
  exact ⟨⟨h1.1.1.1.1.1, h1.1.1.1.1.2, h1.1.1.1.2, h1.1.1.2, h1.1.2, h1.2⟩, h.2⟩

/-- The clause whose word has asked at cycle 0, and a machine at cycle 200 that waits there. -/
def askedClause : ClauseRun := { clause with asked := some 0 }
def answered (s : State) : State :=
  { s.modSheaf 0 (fun sh => { sh with run := some askedClause }) with time := { Time.reset with core := 200 } }

theorem near_of {s : State} {dies : List Nat} (h : s.regs.ucie.any id = true) : Near s 0 dies := fun _ _ => joins_of h

theorem answered_of {s : State} {l dies : List Nat} {k : Nat} (h : (s.sheaf 0).run = some askedClause ∧ 0 + k ≤ s.time.core ∧
    s.regs.ucie.any id = true) : Answered s 0 l k dies :=
  .inr ⟨near_of h.2.2, askedClause, 0, h.1, rfl, h.2.1⟩

/-- Whether a workgroup is a recipe slice. -/
def isSlice (w : Work) : Bool :=
  match w with
  | .recipe _ => true
  | _ => false

theorem feedsNode_of {s : State} {w n : Nat} (h : isSlice (s.wg w).work = false ∧ n < (s.graph (s.wg w).graph).passes.length ∧
    ((s.graph (s.wg w).graph).pass n).kind = 1 ∧
    ∃ e ∈ (s.graph (s.wg w).graph).edgesOf n, e.dir = 2 ∧ e.prod = (s.wg w).pass) : FeedsNode s w n :=
  ⟨fun k hk => by (have := h.1; rw [hk] at this; cases this), h.2⟩

/-- The four words that ask. -/
def recordWords : List Instr :=
  [.recAlloc (plain 3 0xC1 0xF0 0xF0 0), .recPut (plain 0xF0 0xC0 0xC3 4 0), .recCommit (plain 0xF0 0xC0 0xF0 0xF0 0),
   .recGet (plain 3 0xC0 0xC3 0xF0 0)]

theorem witness_record_asks : let s := recorded group (.allocated 0)
    (recordWords.all fun i => issues s i && acts s i 0 clause == [0]) = true ∧ clause.asked = none ∧
      (∀ b ∈ [true, false], s.barred 0 (s.sheaf 0).gen 0 b s.next = false) ∧ s.fenceOk 0 [0] 3 = true ∧
      s.regs.ucie.any id = true := by decide +kernel

theorem witness_record_alloc : let s := answered (graphed group (graph [passRun []]))
    (Issues s (.recAlloc (plain 3 0xC1 0xF0 0xF0 0)) 0 askedClause ∧ sheaf.read 0 0 0xC1 = 1) ∧ Answered s 0 [0] 100 [s.nodeHome 0 1] ∧
      FeedsNode s 0 1 :=
  ⟨issuesAs_of (by decide +kernel), answered_of (by decide +kernel), feedsNode_of (by decide +kernel)⟩

theorem witness_record_put : let s := answered (recorded group (.allocated 0))
    (Issues s (.recPut (plain 0xF0 0xC0 0xC3 4 0)) 0 askedClause ∧ (sheaf.read 0 0 0xC0).getLsbD 31 = false ∧
      s.ownedRec 0 (sheaf.read 0 0 0xC0) = some ⟨0, 1, .allocated 0⟩ ∧ (sheaf.read 0 0 0xC3).toNat % 4 = 0 ∧
      (sheaf.read 0 0 0xC3).toNat + 4 ≤ (s.graph 0).payload 1) ∧ Answered s 0 [0] 100 [homeDie (s.recPa 0 0)] ∧ FreeOf s 0 0 false :=
  ⟨issuesAs_of (by decide +kernel), answered_of (by decide +kernel), by unfold FreeOf; decide +kernel⟩

theorem witness_record_commit : let s := answered (recorded group (.allocated 0))
    (Issues s (.recCommit (plain 0xF0 0xC0 0xF0 0xF0 0)) 0 askedClause ∧
      s.fenceOk 0 (acts s (.recCommit (plain 0xF0 0xC0 0xF0 0xF0 0)) 0 askedClause) 3 = true ∧
      (s.ownedRec 0 (sheaf.read 0 0 0xC0)).isSome = true) ∧ Answered s 0 [0] 100 [0] :=
  ⟨issuesAs_of (by decide +kernel), answered_of (by decide +kernel)⟩

theorem witness_record_get : let s := answered (recorded { group with work := .batch [0], pass := 1 } .batched)
    let pa := s.recPa 0 0 + (sheaf.read 0 0 0xC3).toNat
    (Issues s (.recGet (plain 3 0xC0 0xC3 0xF0 0)) 0 askedClause ∧ (s.wg 0).batch = some [0] ∧
      (sheaf.read 0 0 0xC3).toNat % 4 = 0 ∧
      (sheaf.read 0 0 0xC3).toNat + 4 ≤ (s.graph 0).payload 1 ∧ s.inGddr pa 4 = true ∧
      (s.homeLoad (s.ctx 0) { pa := pa, entry := 0 } 4).2 = false) ∧ Answered s 0 [0] 100 [homeDie pa] ∧ FreeOf s 0 0 false :=
  ⟨issuesAs_of (by decide +kernel), answered_of (by decide +kernel), by unfold FreeOf; decide +kernel⟩

theorem witness_record_count : let s := recorded { group with work := .batch [0], pass := 1 } .batched
    (Issues s (.recCount (plain 3 0xF0 0xF0 0xF0 0)) 0 clause ∧ (s.wg 0).batch = some [0]) ∧
    Issues s (.recCount (plain 3 0xF0 0xF0 0xF0 1)) 0 clause := ⟨meets (by decide +kernel), issues_of (by decide +kernel)⟩

/-- The machine whose thread has hit state that names node 1. -/
def traced : State := answered ((graphed group (graph [passRun [], passRun []])).modSheaf 0 fun sh => { sh with
  threads := [{ Thread.start 0 192 with hit := some ⟨1, 0, 0, 0, 0, 0⟩ }] })

theorem witness_continuation : let q := traced.flushScratch 0 false
    (Issues traced (.cont (plain 3 0xC5 0xF0 0xF0 0)) 0 askedClause ∧
      q.fenceOk 0 (acts traced (.cont (plain 3 0xC5 0xF0 0xF0 0)) 0 askedClause) 3 = true ∧
      ((q.sheaf 0).thread 0).hit.isSome = true ∧ ((q.sheaf 0).read 0 0 0xC5).toNat = 16 ∧
      16 + (q.graph 0).payload 1 ≤ (q.wg 0).size) ∧ Settled traced 0 false ∧ Answered q 0 [0] 100 [q.nodeHome 0 1] ∧ FreeOf q 0 0 false ∧
    FeedsNode q 0 1 :=
  ⟨issuesAs_of (by decide +kernel), by unfold Settled; decide +kernel, answered_of (by decide +kernel),
    by unfold FreeOf; decide +kernel, feedsNode_of (by decide +kernel)⟩

/-! ### Quads, rasters, textures, rays -/

/-- A clause of four threads, and a triangle with its corners at pixels (0, 0), (8, 0) and (0, 8). -/
def quadClause : ClauseRun := { clause with mask := 0xF }
def triangle : List Byte := wordsBytes [0, 0, 0, 0x3F800000, 0x41000000, 0, 0, 0x3F800000, 0, 0x41000000, 0, 0x3F800000]

/-- A raster record: 64 by 64 pixels, primitives from 0x1000, bins from 0x3000, visibility words, a target at 0x4000. -/
def rasterBytes : List Byte := natBytes 64 (0x100 * 2 ^ 464 + 4 * 2 ^ 440 + 0x300 * 2 ^ 392 + 8 * 2 ^ 376 + 63 * 2 ^ 362 +
  63 * 2 ^ 348 + 2 ^ 283 + 0x400 * 2 ^ 182 + 16 * 2 ^ 166 + 1)

/-- The triangle as it is emitted. -/
def emitted : Emit := ⟨0, bytesWords 12 triangle, 0, rasterOf rasterBytes, false⟩

/-- The raster state of a thread, which holds a token. -/
def rasterState : Raster := ⟨3, 5, 0, 0, 0, 0, false, some 0⟩

/-- The machine with the triangle at 256 and the record at 512 in scratchpad, the primitive and a bin that names it in
memory, the tile's stream as `st`, and four threads with raster state. -/
def rastered (r : ClauseRun) (st : Option Stream) : State := { walking with
  sheaves := [(0, { sheaf with
    regs := 8
    run := some r
    threads := List.replicate 16 { Thread.start 0 8 with raster := some rasterState } })]
  wgs := [(0, { group with desc := { group.desc with discard := true }, scratch := (Memory.writeN [] 256 triangle).writeN 512 rasterBytes })]
  graphs := [(0, graph [passRun [(0, { tileRunOf .running with stream := st, blend := [(quadOf 3 5, [⟨0, 0xF⟩])] })]])]
  mem := (tables.putNum 0x203000 4 1).writeN 0x201000 emitted.bytes }

theorem witness_discard : Issues (rastered quadClause none) (.discard (bare 0)) 0 quadClause ∧
    ((rastered quadClause none).wg 0).desc.discard = true := issuesAs_of (by decide +kernel)

theorem witness_differences : ∀ down ∈ [true, false], let i : Instr := if down then .ddy (plain 3 0xC4 0xF0 0xF0 0) else .ddx (plain 3 0xC4 0xF0 0xF0 0)
    Issues (rastered quadClause none) i 0 quadClause ∧ acts (rastered quadClause none) i 0 quadClause = [0, 1, 2, 3] ∧
      ((rastered quadClause none).sheaf 0).width = 16 ∧ ((rastered quadClause none).sheaf 0).threads.length = 16 := by
  intro d _
  cases d <;> exact issuesAs_of (by decide +kernel)

theorem witness_raster : Issues (rastered quadClause none) (.blend (plain 0xF0 4 0xF0 0xF0 0)) 0 quadClause ∧
    Issues (rastered clause none) (.emitp (plain 3 0xC9 0xC0 0xCA 0)) 0 clause ∧
    Issues (rastered quadClause none) (.cov (plain 4 0xCA 0xF0 0xF0 0)) 0 quadClause :=
  ⟨(issuesAs_of (p := True) (by decide +kernel)).1, (issuesAs_of (p := True) (by decide +kernel)).1,
    (issuesAs_of (p := True) (by decide +kernel)).1⟩

/-- The word's effect on the raster unit: the lanes of an `emitp` with whether they can all be emitted. -/
def emitWord : Fields := plain 3 0xC9 0xC0 0xCA 0
def emits : List Emit × Bool :=
  let s := rastered clause none
  let q := s.flushScratch 0 false
  let is := issueOf s (.emitp emitWord) 0 clause
  let rd (v : BitVec 8) (t : Nat) : Word := (s.sheaf 0).read 0 t v
  let lanes := is.act.map fun t => (Emit.mk t (bytesWords 12 (q.spRead 0 (rd 0xC9 t) 0 48)) (rd 0xC0 t).toNat
    (rasterOf (q.spRead 0 (rd 0xCA t) 0 64)) false)
  (lanes, match emitLanes lanes (is.unit_ q is.lead) with
    | .ok (g, _, none) => g.poison.isNone
    | _ => false)

theorem witness_emit : emits.1 = [emitted] ∧ emitted.rec_.ok = true ∧
    emitted.culled = false ∧ emitted.id < emitted.rec_.primn ∧ emits.2 = true := by decide +kernel

theorem witness_emit_reach : ReachesBy (rastered clause none) 0 256 48 16 0 ∧ 512 % 16 = 0 ∧ 512 < 2 ^ 19 ∧ 512 + 64 ≤ 65536 :=
  ⟨reachesBy_of (by decide +kernel), by decide⟩

/-- Whether a word of a tile's workgroup is done. -/
def isDone (r : Result) : Bool :=
  match r with
  | .done _ => true
  | _ => false

theorem done_of {r : Result} (h : isDone r = true) : ∃ s, r = .done s := by
  cases r with
  | done s => exact ⟨s, rfl⟩
  | _ => simp [isDone] at h

/-- The machine at a `cov`, its threads' token shares given back. -/
def covWord : Fields := plain 4 0xCA 0xF0 0xF0 0
def covering : State := (acts (rastered quadClause none) (.cov covWord) 0 quadClause).foldl (fun s t => s.releaseToken 0 t)
  ((rastered quadClause none).flushScratch 0 false)

theorem witness_coverage : (acts (rastered quadClause none) (.cov covWord) 0 quadClause ≠ [] ∧ (covering.wg 0).work = .tile ∧
      (rasterOf (((rastered quadClause none).flushScratch 0 false).spRead 0 512 0 64)).ok = true) ∧
    ∃ tr, covering.tileRun 0 0 0 = some tr ∧ ∃ s', covTile (issueOf (rastered quadClause none) (.cov covWord) 0 quadClause) covWord
      (((rastered quadClause none).flushScratch 0 false).spRead 0 512 0 64) tr covering = .done s' :=
  ⟨by decide +kernel, (covering.tileRun 0 0 0).getD TileRun.reset, by decide +kernel, done_of (by decide +kernel)⟩

/-- A blend in flight, and the stream of its tile. -/
def theStream : Stream := ⟨rasterBytes, [0], 0, 0, 0, 0⟩
def blendWord : Fields := plain 0xF0 4 0xF0 0xF0 0
def blending : State := after (.blend blendWord) (rastered quadClause (some theStream))

/-- Whether thread 0's pixel can be blended. -/
def blends : Bool :=
  match blending.blendLane (flight blending 0) (lane blending) (rasterOf rasterBytes) 0 with
  | .ok g => g.poison.isNone
  | .error _ => false

theorem witness_blend : blending.ops.get 0 = some (flight blending 0) ∧ (flight blending 0).instr = .blend blendWord ∧
    (flight blending 0).lanes.find? (fun l => l.thread = 0 && !l.done) = some (lane blending) ∧
    (blending.tileRun 0 0 0).isSome = true ∧ ((blending.tileRun 0 0 0).getD TileRun.reset).stream = some theStream ∧
    blending.mayBlend 0 (flight blending 0) (lane blending) ((blending.tileRun 0 0 0).getD TileRun.reset) = true ∧
    blends = true := by decide +kernel

/-- The two accesses of that blend's pixel. -/
def pixelAccesses : Bool :=
  let op := flight blending 0
  let ln := lane blending
  let a := (rasterOf rasterBytes).pixelAt (ln.pa.toNat % 2 ^ 14) (ln.pa.toNat / 2 ^ 14 % 2 ^ 14)
  let x := blending.landSrcs 0 0 ln.srcs
  let g : Gfx := { s := x.2, core := op.core, ctx := op.ctx, priv := op.priv, poison := none, pc := op.pc.toNat }
  (g.stuck a 4).isNone && match x.2.engineLoad g.engine op.ctx a 4 op.priv with
    | .ok (bs, false, s1) => ({ g with s := { s1 with free := s1.free + 0 } }.stuck a 4).isNone &&
        isOk (s1.engineStore g.engine op.ctx a (blendPixel false 0 x.1 bs) op.priv)
    | _ => false

theorem witness_pixel : pixelAccesses = true ∧ (rasterOf rasterBytes).rtHalf = false := by decide +kernel

/-- A texture descriptor and a sampler descriptor in memory, at virtual 0 and 32. -/
def sampled : State := { walking with mem := (tables.putNum 0x200000 32 (2 ^ 173)).putNum 0x200020 16 (2 ^ 117) }

/-- Whether a texture instruction's descriptors read. -/
def samples (k : TexKind) (i : Instr) (f : Fields) : Bool :=
  match texLanes k f (issueOf sampled i 0 clause) (sampled.sheaf 0) (acts sampled i 0 clause) ((issueOf sampled i 0 clause).unit_ sampled 0) with
  | .ok (lanes, bad, _) => lanes.length == 1 && bad.isEmpty
  | .error _ => false

/-- Coordinates in registers 8 and 9, texture 0, sampler 2, level in register 4. -/
def texWord (m : BitVec 12) : Fields := far 12 8 0xC0 0xC2 4 m 0

theorem witness_texture : (issues sampled (.tex (texWord 1)) && samples .tex (.tex (texWord 1)) (texWord 1)) = true ∧
    (issues sampled (.tex (texWord 0)) && samples .tex (.tex (texWord 0)) (texWord 0)) = true ∧
    (issues sampled (.texg (texWord 0)) && samples .texg (.texg (texWord 0)) (texWord 0)) = true ∧
    (issues sampled (.texq (plain 12 0xF0 0xC0 0xF0 0)) &&
      samples .texq (.texq (plain 12 0xF0 0xC0 0xF0 0)) (plain 12 0xF0 0xC0 0xF0 0)) = true := by decide +kernel

theorem witness_ray : issues here (.trace (far 3 8 16 4 0xF0 0 0)) = true ∧ issues here (.hitRd (plain 3 0xF0 0xF0 0xF0 0)) = true := by
  decide +kernel

/-- What a descriptor read gives. -/
def descr (g : Gfx) (va n : Nat) : Option (List Byte × State) :=
  if g.stuck va n = none then match g.s.engineLoad g.engine g.ctx va n true with
    | .ok (bs, false, s1) => some (bs, s1)
    | _ => none
  else none

theorem described_of {g : Gfx} {va n : Nat} {x : List Byte × State} (h : descr g va n = some x) : Described g va n x.1 x.2 := by
  unfold descr at h
  split at h
  · rename_i hs
    split at h
    · rename_i bs s1 he
      cases h
      exact ⟨hs, he⟩
    · cases h
  · cases h

/-- The two descriptors of a texture instruction. -/
def texDescr : Option (List Byte × State) := descr ((issueOf sampled (.tex (texWord 1)) 0 clause).unit_ sampled 0) 0 32
def sampDescr (x : List Byte × State) : Option (List Byte × State) :=
  descr { (issueOf sampled (.tex (texWord 1)) 0 clause).unit_ sampled 0 with s := { x.2 with free := x.2.free + 0 } } 32 16

theorem witness_described : texDescr.isSome = true ∧ ((texDescr.map fun x => (texOf (bytesWords 8 x.1)).ok) == some true) = true ∧
    ((texDescr.bind sampDescr).map fun x => (sampOf (bytesWords 4 x.1)).ok) == some true ∧
    (∀ i ∈ [Instr.tex (texWord 1), .tex (texWord 0), .texg (texWord 0), .texq (plain 12 0xF0 0xC0 0xF0 0)],
      acts sampled i 0 clause = [0]) ∧ sampled.consuming 0 (sampled.sheaf 0).gen 0 sampled.next = false := by decide +kernel

/-- A workgroup of no tile, for `cov`; a triangle with all its corners at one place, for `emitp`. -/
theorem witness_no_stream : Work.batch [] ≠ .tile ∧ ({ emitted with verts := List.replicate 12 0 } : Emit).culled = true := by
  decide +kernel

/-! ### Traps, handlers, special registers, system calls -/

/-- The handler entry that a sheaf owes. -/
def owed (c : BitVec 8) : Entry := ⟨c, 0, 0, 1, 0x2000, 0x1008⟩

/-- A parked sheaf that owes an entry; one whose thread is privileged. -/
def parked (c : BitVec 8) : State := { here with sheaves := [(0, { sheaf with
  run := none, entry := some (owed c), threads := [{ Thread.start 0x1000 192 with st := .parked .handler, word := some 0 }] })] }
def handling : State := { mapped with sheaves := [(0, { sheaf with
  inHandler := true, live := 1, threads := [{ Thread.start 0x1000 192 with priv := true, epc := 0x1008, mid := some 0 }] })] }

theorem witness_fault : (here.sheaves.get 0).isSome = true ∧ ((here.sheaf 0).thread 0).priv = false ∧
    (here.sheaf 0).inHandler = false ∧ (handling.sheaf 0).inHandler = true ∧ (here.sheaf 0).entry = none ∧
    (0 < (here.sheaf 0).threads.length) ∧ ((handling.sheaf 0).thread 0).priv = true ∧
    ((parked 1).sheaf 0).entry = some (owed 1) := by decide +kernel

theorem witness_handler_entry : let s := parked 1
    (s.sheaves.get 0).isSome = true ∧ (s.sheaf 0).entry = some (owed 1) ∧ (owed 1).code ≠ 0x19 ∧ (s.sheaf 0).inHandler = false ∧ (s.sheaf 0).allParked = true ∧
      (s.sheaf 0).drained = true ∧ (s.sheaf 0).liveThreads ≠ [] := by decide +kernel

theorem witness_double_fault : let s := parked 0x19
    (s.sheaf 0).entry = some (owed 0x19) ∧ (owed 0x19).code = 0x19 ∧ (s.sheaf 0).run = none := by decide +kernel

theorem witness_return : ∀ m < 3, let f := bare (BitVec.ofNat 12 m)
    Issues handling (.tret f) 0 clause ∧ acts handling (.tret f) 0 clause = [0] ∧ ((handling.sheaf 0).thread 0).priv = true ∧
      handling.fenceOk 0 (acts handling (.tret f) 0 clause) 3 = true ∧ f.xmod.toNat % 4 = m ∧ handling.opsOf 0 = [] ∧
      (handling.sheaf 0).drained = true ∧ handling.tokenBusy 0 = false ∧
      (handling.takeFrame (handling.sheaf 0).wg).isSome = true := by
  intro m hm
  have h : m = 0 ∨ m = 1 ∨ m = 2 := by omega
  rcases h with rfl | rfl | rfl <;> exact meets (by decide +kernel)

theorem witness_leave : ((handling.sheaf 0).thread 0).mid = some 0 ∧ ((handling.sheaf 0).thread 0).wait = none ∧
    (Thread.start 0x1000 192).mid = none ∧ (Thread.start 0x1000 192).wait = none := by decide +kernel

theorem witness_special :
    ((∀ n ∈ [0, 2, 0x1F], issues here (.srd (plain 3 0xF0 0xF0 0xF0 n)) = true) ∧
      issues here (.swr (plain 0xF0 0xC1 0xF0 0xF0 0)) = true ∧ issues here (.swr (plain 0xF0 0xC1 0xF0 0xF0 0x1A)) = true ∧
      srWritable 0 = true ∧ srWritable 0x1A = true ∧ acts here (.swr (plain 0xF0 0xC1 0xF0 0xF0 0)) 0 clause = [0]) ∧
    (issues handling (.srd (plain 3 0xF0 0xF0 0xF0 0x20)) = true ∧ issues handling (.swr (plain 0xF0 0xC1 0xF0 0xF0 0x23)) = true ∧
      issues handling (.swr (plain 0xF0 0xC1 0xF0 0xF0 0x2F)) = true ∧ srWritable 0x23 = true ∧ srWritable 0x2F = true) := by
  refine ⟨⟨?_, by decide +kernel⟩, by decide +kernel⟩
  intro n hn
  have h : n = 0 ∨ n = 2 ∨ n = 0x1F := by simpa using hn
  rcases h with rfl | rfl | rfl <;> decide +kernel

theorem witness_privilege : ∀ i ∈ [Instr.srd (plain 3 0xF0 0xF0 0xF0 0x20), .swr (plain 0xF0 0xC1 0xF0 0xF0 0x21), .tret (bare 0)],
    Issues here i 0 clause ∧ acts here i 0 clause = [0] ∧ ((here.sheaf 0).thread 0).priv = false := by
  intro i hi
  have h : i = .srd (plain 3 0xF0 0xF0 0xF0 0x20) ∨ i = .swr (plain 0xF0 0xC1 0xF0 0xF0 0x21) ∨ i = .tret (bare 0) := by simpa using hi
  rcases h with rfl | rfl | rfl <;> exact meets (by decide +kernel)

/-- The state that a system-call record's first byte half names, and whether the record can be written. -/
def callWord : Fields := far 3 8 0xF0 0xF0 0xF0 0 7
def posts : Bool :=
  let (st, q) := walking.devNum 0 ((walking.ctx 0).callVa 0 + 8) 1 true (some 0)
  st == some 0 && isOk (q.devStore 0 ((walking.ctx 0).callVa 0) (callRecord 0 0 7 1 0 0 0 0) true none (some 0)).1

theorem witness_system_call : Issues walking (.trap callWord) 0 clause ∧ acts walking (.trap callWord) 0 clause = [0] ∧
    walking.fenceOk 0 [0] 4 = true ∧ walking.peersAcked 0 0 (walking.wordRel 0) = true ∧
    posts = true := meets (by decide +kernel)

/-- A sheaf that waits for its system call, whose record is answered. -/
def calling : State := { walking with
  mem := tables.putNum 0x200008 1 2
  sheaves := [(0, { sheaf with run := none, calls := [⟨0, 1, 3, false, false⟩], threads := [{ Thread.start 0x1000 192 with st := .parked .sysCall }] })] }

theorem witness_answer : let sh := calling.sheaf 0
    sh.calls.filter (fun c => c.priv == sh.inHandler) = [⟨0, 1, 3, false, false⟩] ∧ sh.entry = none ∧
      ((bitsOf 64 1).all fun t => (sh.thread t).st == .parked .sysCall) = true ∧
      (calling.devNum sh.ctx ((calling.ctx sh.ctx).callVa 0) 16 true (some 0)).1 = some (2 * 2 ^ 64) ∧ 2 * 2 ^ 64 / 2 ^ 64 % 4 = 2 := by
  decide +kernel

/-- A context that has faulted. -/
def halting (reached : Bool) : State := { here with ctxs := [(0, { context with halt := some ⟨0x18, 0, 1, 0, none, 0, reached⟩ })] }

theorem witness_halt : ((halting false).ctxs.get 0).isSome = true ∧ (((halting false).ctx 0).halt.map (·.reached)) = some false ∧
    (((halting true).ctx 0).halt.map (·.reached)) = some true ∧ (0, 0) ∉ ((halting true).ctx 0).stopped ∧
    (halting true).hasPart 0 0 0 = true := by decide +kernel

/-! ### Scheduling and saving -/

/-- A sheaf whose thread 0 has stood at a shuffle since cycle 0, 2^20 cycles later; thread 1 stands elsewhere. -/
def arrived : State := { walking with
  mem := (tables.putNum 0x201000 8 0x7F8001).putNum 0x201008 8 ((encode (.shfl (plain 3 1 2 0xF0 0))).headD 0).toNat
  time := { Time.reset with core := 2 ^ 20 }
  cores := [(0, { Core.reset with current := some 0 })]
  sheaves := [(0, { sheaf with run := none, streak := 64, threads := [{ Thread.start 0x1000 192 with st := .arrived, stood := some 0 }, Thread.start 0 192] })] }

/-- Whether thread 0's clause is a waiting one. -/
def waitsThere : Bool :=
  match (arrived.fetch 0 0 0x1000 false).1 with
  | .ok ws => (waitSpan (arrived.sheaf 0).width 0 ws.tail).isSome
  | .error _ => false

theorem witness_cross_lane_watch : (List.range (arrived.sheaf 0).width).filter (arrived.overdue 0) = [0] ∧ waitsThere = true := by
  decide +kernel

/-- A core whose sheaf has run for 256 issue cycles, its thread asleep until cycle 5. -/
def tired (w : Option Wait) : State := { here with
  cores := [(0, { Core.reset with current := some 0 })]
  time := { Time.reset with core := 5 }
  sheaves := [(0, { sheaf with run := none, issued := 256, stall := 5, threads := [{ Thread.start 0x1000 192 with st := .sleeping 5 w }] })] }

theorem witness_scheduling : (here.core 0).current = none ∧ here.tryOrder 0 = [0] ∧ (here.sheaf 0).run.isSome = true ∧
    (here.sheaf 0).blocked = false ∧ 64 ≤ (arrived.sheaf 0).streak ∧ (arrived.core 0).current = some 0 ∧ ((tired none).core 0).current = some 0 ∧
    256 ≤ ((tired none).sheaf 0).issued ∧ ((tired none).sheaf 0).stall ≤ (tired none).time.core ∧
    (((tired none).sheaf 0).thread 0).st = .sleeping 5 none ∧
    (((tired (some (waitFor 0 0))).sheaf 0).thread 0).st = .sleeping 5 (some (waitFor 0 0)) := by decide +kernel

/-- A workgroup one of whose sheaves is evicted; one that is saved. -/
def leaving : State := { mapped with sheaves := [], wgs := [(0, { group with evicted := 1, frame := some 0, saved := [(0, sheaf)], slots := [noSlot] })] }
def savedWg : State := { seatless .saved with wgs := [(0, { (seatless .saved).wg 0 with saved := [(0, sheaf)], evicted := 1 })] }

theorem witness_save : leaving.mate 0 = none ∧ leaving.canLeave 0 = true ∧ (leaving.wg 0).evicted ≠ 0 ∧ (leaving.wg 0).frame.isSome = true := by
  decide +kernel

theorem witness_resume : (savedWg.wg 0).stage = .saved ∧ savedWg.mate 0 = none ∧ (savedWg.wg 0).paired = false ∧
    (savedWg.regrant 0 0).isSome = true ∧ (leaving.wg 0).stage = .running := by decide +kernel

/-! ### Queues, tables, graphs -/

/-- The machine with queue 3 in state `st`, of 16 entries, READ 0 and WRITE `w`. -/
def queued (st : QState) (w : BitVec 32) : State := { mapped with queues := [(3, { Queue.reset with state := st, write := w, slice := 1, ring := 0 })] }

theorem witness_notify : ((queued .disabled 0).queue 3).state = .disabled ∧ ((queued .error 0).queue 3).state = .error ∧
    (let q := (queued .idle 1).queue 3
     q.state ≠ .disabled ∧ q.state ≠ .error ∧ ((16 : BitVec 32) - q.read).toNat ≤ 2 ^ (q.size + 4) ∧
      (q.write - q.read).toNat ≤ ((16 : BitVec 32) - q.read).toNat ∧ (q.write - q.read).toNat ≤ ((1 : BitVec 32) - q.read).toNat ∧
      ¬ ((17 : BitVec 32) - q.read).toNat ≤ 2 ^ (q.size + 4) ∧ ¬ (q.write - q.read).toNat ≤ ((0 : BitVec 32) - q.read).toNat) := by decide +kernel

/-- The same with queue command `op` running on queue 3, and `x` where its descriptor stands. -/
def commanded (op : BitVec 4) (st : QState) (x : Nat) : State := { queued st 0 with
  mem := tables.putNum 0xC0 64 x, regs := { Regs.reset with qcmd := ⟨true, false, op, 3⟩ } }

theorem witness_queue_commands :
    ((commanded 1 .disabled (2 ^ 456)).queueCmd 1 3 = true ∧ ((commanded 1 .disabled (2 ^ 456)).queue 3).state = .disabled ∧
      (let x := (commanded 1 .disabled (2 ^ 456)).physNum ((commanded 1 .disabled (2 ^ 456)).queuePa 3) 64
       bit x.1 456 = true ∧ queueOk x.1 = true)) ∧
    (commanded 1 .idle 0).queueCmd 1 3 = true ∧ ((commanded 1 .idle 0).queue 3).state ≠ .disabled ∧
    bit ((commanded 1 .disabled 0).physNum ((commanded 1 .disabled 0).queuePa 3) 64).1 456 = false ∧
    (commanded 2 .idle 0).queueCmd 2 3 = true ∧ ((commanded 2 .idle 0).freeSlots 3).1 = [] ∧ (commanded 3 .idle 0).queueCmd 3 3 = true := by
  decide +kernel

theorem witness_grant : let s := queued .waiting 1
    (List.range 16).find? (fun k => ((s.base 0).slots.get k).isNone) = some 0 ∧ s.granted 0 = some 3 := by decide +kernel

/-- Queue 3 holds slot 0 of die 0 since time 0, at time `t`; with `rival` queue 4 waits. -/
def granted (w : BitVec 32) (rival : Bool) (t : BitVec 64) : State := { queued .active w with
  queues := [(3, { Queue.reset with state := .active, write := w, slice := 1 }), (4, { Queue.reset with state := if rival then .waiting else .idle })]
  bases := [(0, { BaseDie.reset 0 with slots := [(0, ⟨3, 0, none⟩)] }), (1, BaseDie.reset 1)]
  time := { Time.reset with now := t } }

theorem witness_slots : ((granted 1 true 1000).base 0).slots.get 0 = some ⟨3, 0, none⟩ ∧
    (granted 1 true 1000).sliceOver 0 ⟨3, 0, none⟩ = true ∧
    (granted 0 false 1000).sliceOver 0 ⟨3, 0, none⟩ = false ∧ (granted 0 false 1000).queueCmd 2 3 = false ∧
      ((granted 0 false 1000).queue 3).left = 0 ∧
    (granted 1 false 999).sliceOver 0 ⟨3, 0, none⟩ = false ∧ ((granted 1 false 999).queue 3).left ≠ 0 ∧
      ((granted 1 false 999).ctxs.get ((granted 1 false 999).queue 3).ctx).isSome = true := by decide +kernel

/-- Whether the next entry of a queue reads. -/
def entryReads : Bool :=
  match ((granted 1 false 0).devLoad 0 0 16 false).1 with
  | .ok (_, po) => !po
  | .error _ => false

theorem witness_entry : entryReads = true := by decide +kernel

/-- The time-triggered table with entries at the offsets `a` and `b`, of period 100. -/
def timed (a b : BitVec 64) (run : Bool) (g : Option Nat) : State := { State.reset with
  time := { Time.reset with now := 10 }
  regs := { Regs.reset with ttRun := run, ttperiod := 100, ttGraph := g, tt := [(0, ⟨a, 1, 0, 0, true, 0⟩), (1, ⟨b, 2, 0, 0, true, 0⟩)] } }

theorem witness_table : rising (timed 5 5 false none).regs.valid = false ∧ (timed 5 5 false none).regs.ttRun = false ∧
    (rising (timed 5 99 false none).regs.valid = true ∧ ((timed 5 99 false none).regs.valid.all fun e =>
      decide (e.2.offset.toNat < (timed 5 99 false none).regs.ttperiod.toNat) && decide (e.2.ctx.toNat ≤ 4095)) = true) ∧
    ((timed 5 100 false none).regs.valid.any fun e => decide ((timed 5 100 false none).regs.ttperiod.toNat ≤ e.2.offset.toNat)) = true ∧
    ((timed 5 50 true none).dueInstant 0).isSome = true ∧ (timed 5 50 true none).regs.ttGraph = none ∧
    ((timed 5 50 true (some 7)).dueInstant 0).isSome = true := by decide +kernel

/-- A graph in intake at 0x1FFFC0: its header there with version `v`, its tables of one pass whose last word is `x` and one
core group from 0x200000, its kernel's descriptor at 0x400000. -/
def intaken (v x : Nat) : State := { mapped with
  bases := (ringed ring).bases
  graphs := [(0, newGraph 0 0x1FFFC0 none 0 false 0 0)]
  mem := (((((((Memory.putNum [] 0 8 0x4001).putNum 0x4000 8 0x8001).putNum 0x8000 8 0x20000F).putNum 0x8008 8 0x60000F).putNum
    0x8010 8 0x80000F).putNum 0x3FFFC0 64 v).putNum 0x600000 64 (0x40000 * 2 ^ 464 + x)).putNum 0x600040 32 (2 ^ 128) |>.putNum 0x800000 16 257 }

/-- What intake finds: 0 checked and run dry, 1 not read, 2 wrong. -/
def found (s : State) : Nat :=
  match s.readGraph (s.graph 0) with
  | ((_, .ok q), t) => if q.phase1.isSome then 2 else if (q.g.phase2 t.ringCap).isNone && q.g.dryErr.isNone then 0 else 3
  | ((_, .error e), _) => if e.code = 0 then 3 else 1

theorem witness_intake : ((intaken 1 0).graph 0).stage = .intake ∧ found (intaken 1 0) = 0 ∧ found (intaken 2 0) = 1 ∧
    found (intaken 1 1) = 2 := by decide +kernel

/-- A checked graph of that shape, which waits. -/
def waitingGraph : State := { ringed ring with
  bases := [(0, { BaseDie.reset 0 with ring := ring }), (1, { BaseDie.reset 1 with ring := ring })]
  graphs := [(0, { (default : Graph) with stage := .waiting, passes := [passOf 0 2 0 0], groups := [⟨1, 0, 0⟩], queue := some 3 })] }

theorem witness_graph_admission : let s := waitingGraph; let g := s.graph 0
    (s.graphs.get 0).isSome = true ∧ g.stage = .waiting ∧ s.halted g.ctx = false ∧ s.serialOk 0 g = true ∧ s.tableWaits g.die = false ∧
      s.outranked 0 = false ∧
      (∀ d < 2, s.entriesUsed d + g.entries d 0 ≤ 64) ∧ ((s.allocRings 0 g 0).bind (fun s => s.allocRings 0 g 1)).isSome = true ∧
      isOk g.placeGroups = true := by decide +kernel

theorem witness_admissible : Admissible waitingGraph 0 (waitingGraph.graph 0) ∧
    (∀ d < 2, (waitingGraph.graph 0).ringBytes d = 0) ∧ ∀ p ∈ waitingGraph.graphs, p.1 < 0 → p.2.stage ≠ .waiting :=
  ⟨⟨by decide +kernel, by decide +kernel, fun h => absurd h (by decide +kernel), by decide +kernel, by decide +kernel⟩,
    by decide +kernel, fun _ _ h => absurd h (Nat.not_lt_zero _)⟩

/-! ### Contexts, repair, registers -/

/-- A context command running on context 0, whose descriptor in the table is `x`; with `busy` it holds a workgroup. -/
def contexts (op : BitVec 4) (x : Nat) (loaded busy : Bool) : State := { State.reset with
  ctxs := if loaded then [(0, context)] else []
  wgs := if busy then [(0, group)] else []
  mem := Memory.putNum [] 0 128 x
  regs := { Regs.reset with ctxcmd := ⟨true, false, op, 0⟩ } }

theorem witness_context_commands :
    (let s := contexts 1 0 false false; s.ctxCmd 1 0 = true ∧ ctxOk (s.physNum (s.regs.ctxbase.toNat + 128 * 0) 128).1 = false) ∧
    (let s := contexts 1 1 false false; ctxOk (s.physNum (s.regs.ctxbase.toNat + 128 * 0) 128).1 = true ∧ s.ctxs.get 0 = none) ∧
    (let s := contexts 6 1 true true; s.ctxCmd 6 0 = true ∧ s.holdsWork 0 = true) ∧
    (let s := contexts 6 1 true false; s.ctxCmd 6 0 = true ∧ s.holdsWork 0 = false) ∧
    (let s := contexts 2 1 true true; s.ctxCmd 2 0 = true ∧ s.accessing 0 = false) ∧
    (let s : State := { stored with regs := { Regs.reset with ctxcmd := ⟨true, false, 2, 0⟩ } }; s.ctxCmd 2 0 = true ∧ s.accessing 0 = true) ∧
    (contexts 3 1 true true).ctxCmd 3 0 = true ∧ (contexts 4 1 true true).ctxCmd 4 0 = true ∧
    (contexts 4 1 true true).halted 0 = false ∧ (contexts 5 1 true true).ctxCmd 5 0 = true ∧ State.reset.ctxs = [] ∧
    (contexts 5 1 true true).ctxs ≠ [] := by decide +kernel

/-- A repair command running, or done. -/
def repairs (op : BitVec 4) (done : Bool) : State := { State.reset with
  time := { Time.reset with now := 5000000 }, regs := { Regs.reset with repair := ⟨true, false, op, 1⟩, repairDone := done } }

theorem witness_repair : (repairs 1 false).repairing 1 1 = true ∧ (repairs 2 false).repairing 2 1 = true ∧
    (repairs 3 false).repairing 3 1 = true ∧ (repairs 3 true).regs.repair.busy = true ∧ (repairs 3 true).regs.repairDone = true ∧
    (repairs 3 true).regs.repairAt + 5000000 ≤ (repairs 3 true).now ∧ (repairs 1 false).vacant [1] = true ∧
    (repairs 1 false).vacant (List.range' 32 32) = true := by decide +kernel

/-- A display head with a pending and a current surface. -/
def showing (p c : Option (BitVec 128)) : State := { State.reset with heads := [(4, { Head.reset with hctl := 1, pending := p, current := c })] }

theorem witness_heads : ((showing none none).head 4).pending = none ∧ ((showing (some 5) none).head 4).pending = some 5 ∧
    ((showing none (some 5)).head 4).current = some 5 ∧ ((showing none (some 5)).head 4).hctl.getLsbD 0 = true ∧
    ((showing none (some 5)).head 4).shown = false := by decide +kernel

theorem witness_power : (let r : Regs := { Regs.reset with fixedOn := true }
      r.fixedOn = true ∧ r.stretch = false ∧ r.hold = false) ∧ 97 * State.reset.form.limit ≤ 100 * 717800 ∧
    99 * State.reset.form.limit ≤ 100 * 732600 ∧ 100 * 702999 < 95 * State.reset.form.limit ∧
    (let r : Regs := { Regs.reset with hold := true, holdSince := 0 }; r.hold = true ∧ r.holdSince + 1000000 ≤ 1000000) ∧
    (let r : Regs := { Regs.reset with fixed := true }; r.fixed = true ∧ r.fixedOn = false) := by decide +kernel

theorem witness_trust : 15 < State.reset.regs.mr.length ∧ State.reset.regs.attestBusy = false ∧
    ({ Regs.reset with attestBusy := true } : Regs).attestBusy = true := by decide +kernel

theorem witness_register_stores : State.reset.regs.ctxcmd.busy = false ∧ 6 * 2 ^ 56 / 2 ^ 56 % 16 ≤ 6 ∧
    (contexts 1 1 true true).regs.ctxcmd.busy = true ∧ State.reset.regs.repair.busy = false ∧ 2 * 2 ^ 56 / 2 ^ 56 % 16 = 2 := by decide +kernel

/-! ### Encodings, steps, memory, frames -/

theorem witness_encodable : (Instr.iadd (plain 3 1 2 0xF0 0)).encodable = true := by decide +kernel

/-- A state in which core 0 issues next, its sheaf at `words`, of which `k` are behind it. -/
def turn (words : List (BitVec 64)) (k : Nat) : State := { here with
  schedule := [.issue 0]
  cores := [(0, { Core.reset with current := some 0 })]
  sheaves := [(0, { sheaf with run := some { clause with words := words, k := k } })] }

theorem witness_step : ∀ x ∈ [([0x040030102F00F040], 0), ([0x3FF0F0F0F0F00040], 0), ([0x040030102F00F040], 1)],
    let s := turn x.1 x.2
    let s0 := ({ s with schedule := [], free := s.free + 1 } : State).limitRun 0
    s.schedule = .issue 0 :: [] ∧ s0.tryOrder 0 = [0] ∧ (s0.sheaf 0).run = some { clause with words := x.1, k := x.2 } := by
  intro x hx
  have h : x = ([0x040030102F00F040], 0) ∨ x = ([0x3FF0F0F0F0F00040], 0) ∨ x = ([0x040030102F00F040], 1) := by simpa using hx
  rcases h with rfl | rfl | rfl <;> decide +kernel

theorem witness_step_event : isEvent (.wake) = true := by decide +kernel

theorem witness_memory_form : State.reset.mem.wf = true ∧ State.reset.peers.wf = true ∧ tables.wf = true := by decide +kernel

theorem witness_store_frame : storing.ops.get 0 = some (flight storing 0) ∧ (storing.core 0).fifo = 0 :: [] ∧
    stored.ops.get 0 = some (flight stored 0) ∧
    (flight stored 0).lanes.find? (fun l => l.thread = 0 && !l.done) = some (lane stored) ∧ (lane stored).leaf.bdi = 0 ∧
    ((lane stored).pa.toNat / 256 ∉ stored.squeezed ∧ ∀ c ∈ stored.allRegions, c.owns (lane stored).pa.toNat = false) := by decide +kernel

/-! ### Other forms of these statements -/

/-- Illegal addresses: beyond the allocation, misaligned, at a partner that is not there. -/
theorem witness_illegal_scratch : ∀ x ∈ [((65533 : Word), 1), (2, 2), (0x1000000, 3), (0x80000, 1)], ∀ i ∈ [Instr.lds (far 3 0xC0 0xF8 0xF0 0xF0 0 x.1),
      .sts (far 0xF0 0xC0 0xF8 4 0xF0 0 x.1), .ats (far 3 0xC0 0xF8 4 0xF0 0 x.1)],
    Issues here i 0 clause ∧
      (acts here i 0 clause).filter (fun _ => scratchSub here 0 (sheaf.read x.1 0 0xC0 + sheaf.read x.1 0 0xF8) 4 ≠ 0) = [0] ∧
      scratchSub here 0 x.1 4 = x.2 := by
  have h : ∀ x ∈ [((65533 : Word), 1), (2, 2), (0x1000000, 3), (0x80000, 1)], ∀ i ∈ [Instr.lds (far 3 0xC0 0xF8 0xF0 0xF0 0 x.1),
      .sts (far 0xF0 0xC0 0xF8 4 0xF0 0 x.1), .ats (far 3 0xC0 0xF8 4 0xF0 0 x.1)],
      issues here i = true ∧ 
      (acts here i 0 clause).filter (fun _ => scratchSub here 0 (sheaf.read x.1 0 0xC0 + sheaf.read x.1 0 0xF8) 4 ≠ 0) = [0] ∧
      scratchSub here 0 x.1 4 = x.2 := by decide +kernel
  exact fun x hx i hi => meets (h x hx i hi)

theorem witness_copy_idle : let f := { copyFields with g1 := never }
    Issues mapped (.cpa f) 0 clause ∧ acts mapped (.cpa f) 0 clause = [] ∧ 2 < (mapped.wg 0).tiles.length ∧
      (mapped.sheaf 0).tags.getD 0 0 ≠ 63 ∧ mapped.queuedCopies 0 < 16 := meets (by decide +kernel)

/-- A region of short life: what a descriptor write of `brief` names. -/
def brief : Nat := 2 ^ 61 + 2 ^ 28
def briefRegion (st : BitVec 2) : Region := { regionOf Region.reset brief with state := st }

theorem witness_region_reopened : ∀ x ∈ [({ Region.reset with state := 2 }, 0), (briefRegion 2, brief), (briefRegion 3, brief)],
    (((region x.1).die 0).refuses 0 (setBits x.2 62 2 1) = false ∧ x.1.wait = none ∧ ((region x.1).die 0).region 0 = x.1) ∧
      (x.1.state = 2 ∧ (region x.1).readsWeights 0 x.1.range.1 x.1.range.2 = false ∨ x.1.state = 3) := by decide +kernel

theorem witness_haar_spatial_mask :
    (issues haar (.hmask (plain 0xF0 0xF0 0 0xF0 3)) = true ∧ issues haar (.hmask (plain 3 0xC1 0 0xF0 1)) = true ∧
      tagAxis (haar.acc 0 0).dom = 0 ∧ (haar.acc 0 0).order = []) ∧
    issues haar (.hmask (plain 0xF0 0xF0 0 0xF0 2)) = true ∧ issues haar (.hmask (plain 3 0xC1 0 0xF0 0)) = true ∧
      (haar.tile 0 0).state = .ready ∧ tagAxis (haar.tile 0 0).dom = 0 := by decide +kernel

theorem witness_haar_store_forced :
    (issues haar (.sth (plain 2 1 0xF0 0xF0 1)) = true ∧ tagAxis (haar.acc 0 1).dom ≠ 0 ∧ (haar.core 0).jobs.length < 3 ∧
      (haar.acc 0 1).order.length < 7) ∧
    issues haar (.sth (plain 2 1 0xF0 0xF0 0)) = true ∧ (haar.tile 0 1).state = .ready ∧ (haar.tile 0 1).rows = (haar.tile 0 2).rows ∧
      (haar.tile 0 1).cols = (haar.tile 0 2).cols ∧ (haar.tile 0 1).fmt.toNat ∈ [0, 1, 2, 8, 10, 11] ∧
      tagAxis (haar.tile 0 1).dom ≠ 0 := by decide +kernel

/-- A job that the lift unit is within, behind one that has not begun. -/
def within : Job := { job true 0x4800 with rows := [(0, [])] }
theorem witness_lift_within : ([job false 0x4800, within].find? fun j => j.grouped && j.rows != []) = some within ∧ within.acc = true ∧
    ∀ acc ∈ [true, false], ∀ x ∈ ((lifting acc 0x4800).core 0).jobs, x.grouped = true → x.rows = [] := by decide +kernel

/-- An address at 2^52 and above. -/
theorem witness_far_address : Issues mapped (.ld (far 4 0xD4 0xF8 0xF0 0xF0 0 4)) 0 clause ∧
    acts mapped (.ld (far 4 0xD4 0xF8 0xF0 0xF0 0 4)) 0 clause ≠ [] ∧
    2 ^ 52 ≤ ((mapped.sheaf 0).globalAddr (far 4 0xD4 0xF8 0xF0 0xF0 0 4) 0xF8 0).toNat := meets (by decide +kernel)

/-- Atomics in flight, and whether the one at `o` can be performed. -/
def swapping : State := after (.atomCas (at_ 3 0xF8 4 0xF0 0 4)) mapped
def adding : State := after (.atom (at_ 3 0xF8 4 0xF0 0 4)) mapped
def performs (s : State) (ls : List Lane) : Bool :=
  ls.all (fun l => s.mayApply 0 (flight s 0) l) && !(lane s).leaf.plural && (s.pendingStores 0).isEmpty &&
    s.inGddr (lane s).pa.toNat 4 && !(s.homeLoad (s.ctx 0) (lane s).leaf 4).2

theorem witness_atomics :
    (pending adding = true ∧ (flight adding 0).instr = .atom (at_ 3 0xF8 4 0xF0 0 4) ∧
      performs adding ((flight adding 0).lanes.filter fun l => l.key = (lane adding).key && !l.done) = true) ∧
    pending swapping = true ∧ (flight swapping 0).instr = .atomCas (at_ 3 0xF8 4 0xF0 0 4) ∧ performs swapping [lane swapping] = true := by
  decide +kernel

/-- The other loads, and a masked store, in flight. -/
def acquiring : State := after (.ldAcq loadFields) mapped
def consuming_ : State := after (.ldCon loadFields) mapped
def maskFields : Fields := at_ 0xF0 4 0xC6 0xF8 0 4
def masking : State := after (.stSub maskFields) mapped
def masked : State := after (.globalAccessPerformed 0 0) masking

theorem witness_other_loads : ∀ s ∈ [acquiring, consuming_], pending s = true ∧
    ((flight s 0).instr = .ldAcq loadFields ∨ (flight s 0).instr = .ldCon loadFields) ∧
    s.mayApply 0 (flight s 0) (lane s) = true ∧ (s.loadBytes 0 0 (lane s).leaf 4 0 (lane s).ataint).1.2 = false := by decide +kernel

theorem witness_masked_store :
    (pending masking = true ∧ (flight masking 0).instr = .stSub maskFields ∧
      ((flight masking 0).lanes.filter fun l => l.key = (lane masking).key && !l.done) = [lane masking] ∧
      (lane masking).applied = none ∧ masking.mayApply 0 (flight masking 0) (lane masking) = true ∧
      ((StoreBits (flight masking 0).instr (masking.landSrcs 0 0 (lane masking).srcs).1).any fun p => p.2 != 0) = true) ∧
    pending masked = true ∧ (lane masked).applied.isSome = true ∧ masked.badStore 0 (.stSub maskFields) (lane masked).leaf 4 = none ∧
      (masked.pendingStores 0).all (fun p => decide ((lane masked).applied.getD 0 ≤ p.1)) = true := by decide +kernel

theorem witness_cache_control : (∀ m ∈ [2, 3], issues mapped (.cctl (at_ 0xF0 0xF8 0xF0 0xF0 m 4)) = true) ∧
    (issues mapped (.cctl { bare 1 with g1 := never }) = true ∧ acts mapped (.cctl { bare 1 with g1 := never }) 0 clause = []) ∧
    issues mapped (.fence { bare 1 with g1 := never }) = true ∧ acts mapped (.fence { bare 1 with g1 := never }) 0 clause = [] := by
  refine ⟨fun m hm => ?_, by decide +kernel⟩
  have h : m = 2 ∨ m = 3 := by simpa using hm
  rcases h with rfl | rfl <;> decide +kernel

/-- Those accesses on a page of package 1, whose link is down. -/
def cut (s : State) : State := s.modOp 0 fun op => { op with lanes := op.lanes.map fun l => { l with entry := 2 ^ 62 + 0x20018F } }
theorem witness_link_loss_others : ∀ s ∈ [acquiring, consuming_, adding, swapping, reducing], let q := cut s
    q.ops.get 0 = some (flight q 0) ∧ (flight q 0).lanes = [lane q] ∧ (lane q).done = false ∧ (lane q).leaf.ca = 3 ∧
      q.linkDown (lane q).leaf.peer = true ∧ q.mayApply 0 (flight q 0) (lane q) = true := by decide +kernel

theorem witness_sibling_room :
    (List.replicate 3 ((0, 0) : Nat × Nat)).length < 4 ∧ ({ (default : PCell) with spill := 1 }).spill ≠ 0 ∧
    (∃ e < aRegion.pooln, mapped.mem.read (aRegion.pool + 256 * e + 192) = 0) ∧
    ¬ ((List.replicate 4 ((0, 0) : Nat × Nat)).length < 4 ∨ (default : PCell).spill ≠ 0 ∨
      ∃ e < (⟨0, 0, 0, 0, 0⟩ : PRegion).pooln, mapped.mem.read e = 0) := by
  refine ⟨by decide, by decide, ⟨0, by decide +kernel, by decide +kernel⟩, ?_⟩
  rintro (h | h | ⟨e, he, -⟩)
  · exact absurd h (by decide)
  · exact absurd h (by decide +kernel)
  · exact absurd he (Nat.not_lt_zero _)

/-- A sheaf at a ring query, and the same once the ring has answered. -/
theorem witness_ring_answers : let s := graphed staged (graph [passRun []])
    (clause.asked = none ∧ Near s 0 [0] ∧ ((s.flushScratch 0 false).run 0).asked = none ∧ Near (s.flushScratch 0 false) 0 [0] ∧
      Settled s 0 false) ∧
    (Issues (answered s) (.rsQ (plain 3 0xC0 0xC1 0xF0 0)) 0 askedClause ∧ ((answered s).graph 0).queryOk 0 1 = true) ∧
    Answered (answered s) 0 [0] 200 [0] ∧
    (Issues (answered s) (.rsQ (plain 0xF0 0xC0 0xC1 0xF0 1)) 0 askedClause ∧
      acts (answered s) (.rsQ (plain 0xF0 0xC0 0xC1 0xF0 1)) 0 askedClause = [0]) ∧
    Answered ((answered s).flushScratch 0 false) 0 [0] 200 [0] ∧ Settled (answered s) 0 false :=
  ⟨⟨rfl, near_of (by decide +kernel), by decide +kernel, near_of (by decide +kernel), by unfold Settled; decide +kernel⟩,
    issuesAs_of (by decide +kernel), answered_of (by decide +kernel), issuesAs_of (by decide +kernel),
    answered_of (by decide +kernel), by unfold Settled; decide +kernel⟩

theorem witness_ring_joins : filling_.joins (some ((filling_.graph 0).res 0).die) (baseOfCore (filling_.wg 0).core) = true :=
  joins_of (by decide +kernel)

theorem witness_answered_call : let sh := calling.sheaf 0
    (calling.sheaves.get 0).isSome = true ∧ 0 < sh.threads.length ∧ 3 < 0xC0 ∧ 3 < (sh.thread 0).v.length ∧ sh.exited 0 = false ∧
      (sh.thread 0).st = .parked .sysCall ∧ sh.calls.filter (· != ⟨0, 1, 3, false, false⟩) = [] ∧ (sh.thread 0).wait = none := by
  decide +kernel

/-- The tables with the leaf of virtual 0 as `x`. -/
def leafed (x : Nat) (s : State) : State :=
  { s with mem := s.mem.putNum 0x8000 8 x, ctxs := [(0, { context with desc := context.desc ||| 2 })] }

/-- The code of an engine access that fails. -/
def fails {α : Type} (x : EngineTry α) : Option Nat :=
  match x with
  | .ok _ => none
  | .error e => some e.1

theorem witness_engine_faults :
    (∀ x ∈ [0x20001F, 0], let s := leafed x copying
      (s.core 0).copies.get 0 = some theCopy ∧ s.halted theCopy.ctx = false ∧
        (theCopy.lanes.filter fun l => !l.done && s.mayCopy 0 0 theCopy l) = [theLane] ∧ 
        (fails (s.copyBytes 0 theCopy theLane)).map (· == 0) = some (x == 0)) ∧
    (∀ x ∈ [0x20001F, 0], let s := leafed x reduced
      (s.core 0).reqs.get 0 = some (record s) ∧ s.halted (record s).ctx = false ∧
        ((s.tryReq 0 0 (record s)).2).map (fun e => e.1 == 0) = some (x == 0)) ∧
    (∀ x ∈ [0x20001F, 0], let s := leafed x bound
      s.nextBinding 0 = some (0, binding) ∧ s.halted (s.wg 0).ctx = false ∧
        ((s.runBinding 0 binding).2).map (fun e => e.1 == 0) = some (x == 0)) ∧
    (∀ x ∈ [0x20001F, 0], let s := leafed x filling
      (s.die 0).fills.get 0 = some theFill ∧ s.mayFill 0 0 theFill = true ∧
        (fails (s.engineLoad theFill.engine theFill.ctx theFill.va.toNat 64 theFill.priv)).map (· == 0) = some (x == 0)) := by decide +kernel

theorem witness_context_fault : (copying.ctxs.get 0).isSome = true := by decide +kernel

/-- The device in Doze. -/
def dozing (s : State) : State := s.modRegs fun r => { r with pstate := 2 }

theorem witness_asleep : (dozing (queued .waiting 1)).asleep = true ∧ (dozing (queued .waiting 1)).regs.waking = none ∧
    ((queued .waiting 1)).asleep = false ∧ (dozing (queued .waiting 1)).granted 0 = some 3 ∧
    ((dozing (timed 5 50 true none)).dueInstant 0).isSome = true ∧ (timed 5 50 true none).asleep = false ∧
    (dozing (contexts 1 1 true true)).asleep = true ∧ (contexts 1 1 true true).asleep = false := by decide +kernel

theorem witness_blanking : let s (t : Bool) : State := { showing none (some 5) with heads := [(4, { Head.reset with
      hctl := 1, current := some 5, blankAt := some 0, took := t })] }
    (∀ t ∈ [true, false], ((s t).head 4).blankAt = some (s t).time.fabric ∧ ((s t).head 4).took = t ∧ ((s t).head 4).current = some 5) ∧
    ((showing none none).head 4).blankAt ≠ some (showing none none).time.fabric ∧
    (showing none (some 5)).inGddr 0 4 = true ∧ (showing none (some 5)).poisoned 0 4 = false := by decide +kernel

theorem witness_waking : State.reset.lowest.toNat ≤ State.reset.regs.pstate.toNat ∧ State.reset.regs.waking = none ∧
    (let r : Regs := { Regs.reset with ltol := 20 }
     let s : State := { State.reset with regs := r }
     s.regs.pstate.toNat < s.lowest.toNat) ∧
    ({ Regs.reset with waking := some 5 } : Regs).waking.isSome = true ∧ State.reset.lowest.toNat < (dozing State.reset).regs.pstate.toNat := by
  decide +kernel

theorem witness_measured : ∀ m ∈ [(15 : BitVec 4), 7], let s : State := { State.reset with
      schedule := [.event .wake], regs := { Regs.reset with measured := m } }
    s.schedule = .event .wake :: [] ∧ isEvent .wake = true ∧ s.regs.measured = m := by decide +kernel

/-! ### Words of the manual

Each word stands in the manual beside its source. -/

/-- The word or pair of words decodes to the instruction. -/
def reads (w0 w1 : BitVec 64) (i : Instr) : Bool :=
  match decode w0 w1 with
  | .ok j => j == i
  | .error _ => false

/-- Fields guarded by bit 0 of register `r`. -/
def guardedBy (r : BitVec 8) (f : Fields) : Fields := { f with g1 := ⟨r, 0, false⟩ }

theorem test_decode_integer : (
    reads 0x047060405F0F0040 0 (.idiv (plain 6 4 5 0xF0 0)) &&
    reads 0x85D090102F0F00E2 0x00000000F007C010 (.icmp (far 9 1 2 0xF0 0xF0 0xE2 0)) &&
    reads 0x05E07010209F0063 0 (.isel (plain 7 1 2 9 0x23)) &&
    reads 0x0622810F0F0F0040 0 (.vspill (plain 0x28 0x10 0xF0 0xF0 0)) &&
    reads 0x85D1712F8F0F0003 0x00000001F007C010 (.icmp (far 0x17 0x12 0xF8 0xF0 0xF0 3 1))) = true := by decide +kernel

theorem test_decode_floating : (
    reads 0x086090102F0F0042 0 (.fcmp (plain 9 1 2 0xF0 2)) &&
    reads 0x0D10401F0F0F0050 0 (.cvtEf (plain 4 1 0xF0 0xF0 0x10)) &&
    reads 0x0D40605F0F0F0050 0 (.qscale (plain 6 5 0xF0 0xF0 0x10)) &&
    reads 0x0C00A03F0F0F0040 0 (.frcp (plain 0xA 3 0xF0 0xF0 0)) &&
    reads 0x0830E15160EF0040 0 (.ffma (plain 0xE 0x15 0x16 0xE 0)) &&
    reads 0x0D00303F0F0F0070 0 (.cvt (plain 3 3 0xF0 0xF0 0x30)) &&
    reads 0x8D00402F0F0F0204 0x00000000F007C010 (.cvt (far 4 2 0xF0 0xF0 0xF0 0x204 0))) = true := by decide +kernel

theorem test_decode_control : (
    reads 0x0110B0AF0F0F0041 0 (.vote (plain 0xB 0xA 0xF0 0xF0 1)) &&
    reads 0x807F0F8F0F0F0000 0x000006400B03C010 (.sleep (guardedBy 11 (far 0xF0 0xF8 0xF0 0xF0 0xF0 0 0x640))) &&
    reads 0x301F0F0F0F0F0040 0 (.tret (plain 0xF0 0xF0 0xF0 0xF0 0)) &&
    reads 0xB000406F0F0F0000 0x00000007F007C010 (.trap (far 4 6 0xF0 0xF0 0xF0 0 7)) &&
    reads 0x30205F0F0F0F0057 0 (.srd (plain 5 0xF0 0xF0 0xF0 0x17)) &&
    reads 0x303F003F0F0F0040 0 (.swr (plain 0xF0 3 0xF0 0xF0 0))) = true := by decide +kernel

theorem test_decode_scratchpad : (
    reads 0x101F002F005F0040 0 (.sts (plain 0xF0 2 0xF0 5 0)) &&
    reads 0x11104F0F0F0F0041 0 (.jcArv (plain 4 0xF0 0xF0 0xF0 1)) &&
    reads 0x11806F004F0F0064 0 (.waitm (plain 6 0xF0 4 0xF0 0x24)) &&
    reads 0x1181708F0F0F0049 0 (.waitm (plain 0x17 8 0xF0 0xF0 9)) &&
    reads 0x908F00D0EF0F0002 0x00000000F007C010 (.tlSet (far 0xF0 0xD 0xE 0xF0 0xF0 2 0)) &&
    reads 0x940F0060E0AF0000 0x000000000C03C010 (.cpa (guardedBy 12 (far 0xF0 6 0x0E 0x0A 0xF0 0 0))) &&
    reads 0x940F0021813F0009 0x000000000D03C010 (.cpa (guardedBy 13 (far 0xF0 2 0x18 0x13 0xF0 9 0))) &&
    reads 0x141F0F0F0F0F0041 0 (.cpw (plain 0xF0 0xF0 0xF0 0xF0 1))) = true := by decide +kernel

theorem test_decode_matrix : (
    reads 0x183F0F0F0F0F0040 0 (.mopRdy (plain 0xF0 0xF0 0xF0 0xF0 0)) &&
    reads 0x980000001F0F0780 0x5AC000000103C010 (.mma (guardedBy 1 (far 0 0 1 0xF0 0xF0 0x780 0x5AC00000))) &&
    reads 0x981001D01F0F0B80 0x7AC000000703C010 (.mmat (guardedBy 7 (far 0 0x1D 1 0xF0 0xF0 0xB80 0x7AC00000))) &&
    reads 0x18502F0F200F0040 0 (.accRd (plain 2 0xF0 0xF2 0 0)) &&
    reads 0x1851410F200F0040 0 (.accRd (plain 0x14 0x10 0xF2 0 0)) &&
    reads 0x1890500F0F0F0040 0 (.accWm (plain 5 0 0xF0 0xF0 0))) = true := by decide +kernel

theorem test_decode_haar : (
    reads 0x9C3F002F8F0F0000 0x00003E00F007C010 (.thset (far 0xF0 2 0xF8 0xF0 0xF0 0 0x3E00)) &&
    reads 0x1C10003F0F0F0040 0 (.hfwd (plain 0 3 0xF0 0xF0 0)) &&
    reads 0x1C606F000F0F0041 0 (.hmask (plain 6 0xF0 0 0xF0 1)) &&
    reads 0x1C50005F2F0F0040 0 (.hbias (plain 0 5 0xF2 0xF0 0)) &&
    reads 0x1C00100F0F0F0040 0 (.sth (plain 1 0 0xF0 0xF0 0))) = true := by decide +kernel

theorem test_decode_memory : (
    reads 0x200150C13F0F0040 0 (.ld (plain 0x15 0xC 0x13 0xF0 0)) &&
    reads 0x2010802F0F0F0040 0 (.ldCon (plain 8 2 0xF0 0xF0 0)) &&
    reads 0xA020402F8F0F0020 0x00000010F007C010 (.ldAcq (far 4 2 0xF8 0xF0 0xF0 0x20 0x10)) &&
    reads 0x2060602F007F0070 0 (.atom (plain 6 2 0xF0 7 0x30)) &&
    reads 0xA06C005F816F0030 0x000000400703C010 (.atom (guardedBy 7 (far 0xC0 5 0xF8 0x16 0xF0 0x30 0x40))) &&
    reads 0x209F0F0F0F0F0050 0 (.fence (plain 0xF0 0xF0 0xF0 0xF0 0x10))) = true := by decide +kernel

theorem test_decode_plural : (
    reads 0x2400802F0F0F0040 0 (.ldk (plain 8 2 0xF0 0xF0 0)) &&
    reads 0x24114020509F0040 0 (.stk (plain 0x14 2 5 9 0)) &&
    reads 0xA411402131001000 0x000000000F03C010 (.stk (guardedBy 15 (far 0x14 2 0x13 0x10 1 0 0))) &&
    reads 0x2420C02F0F0F0045 0 (.rcn (plain 0xC 2 0xF0 0xF0 5))) = true := by decide +kernel

theorem test_decode_tiles : (
    reads 0x250F0F0F0F0F0041 0 (.tileRet (plain 0xF0 0xF0 0xF0 0xF0 1)) &&
    reads 0x251040102F0F0040 0 (.rsQ (plain 4 1 2 0xF0 0)) &&
    reads 0x251F00102F0F0047 0 (.rsQ (plain 0xF0 1 2 0xF0 7)) &&
    reads 0x2800401F0F0F0040 0 (.recAlloc (plain 4 1 0xF0 0xF0 0)) &&
    reads 0x281F0040507F0040 0 (.recPut (plain 0xF0 4 5 7 0)) &&
    reads 0x282F004F0F0F0040 0 (.recCommit (plain 0xF0 4 0xF0 0xF0 0)) &&
    reads 0x28303F2F0F002000 0 (.recGet (guardedBy 2 (plain 3 0xF2 0xF0 0xF0 0))) &&
    reads 0x28406F0F0F0F0040 0 (.recCount (plain 6 0xF0 0xF0 0xF0 0))) = true := by decide +kernel

theorem test_decode_graphics : (
    reads 0x2CC08F0F0F0F0040 0 (.cov (plain 8 0xF0 0xF0 0xF0 0)) &&
    reads 0x2C004F00203F0040 0 (.interp (plain 4 0xF0 2 3 0)) &&
    reads 0x2C10604F0F0F0040 0 (.ddx (plain 6 4 0xF0 0xF0 0)) &&
    reads 0x2C20704F0F0F0040 0 (.ddy (plain 7 4 0xF0 0xF0 0)) &&
    reads 0x2C3F0F0F0F00C000 0 (.discard (guardedBy 12 (plain 0xF0 0xF0 0xF0 0xF0 0))) &&
    reads 0x2C40E0A0C09F0040 0 (.vism (plain 0xE 0xA 0xC 9 0)) &&
    reads 0x2CA14F0F0F0F0040 0 (.hitRd (plain 0x14 0xF0 0xF0 0xF0 0))) = true := by decide +kernel

theorem test_decode_pair : reads 0x4002028302070103 0 (.pairWord ⟨.fadd, 4, 5, 6⟩ ⟨.fmul, 7, 1, 3⟩) = true := by
  decide +kernel

/-! ### Ill-formed instructions (R34, R35, R37)

For each check of a word a term that it refuses, in a sheaf of sixteen threads with eight vector registers. -/

/-- The cause that `i` raises as it issues. -/
def raises (i : Instr) : Option Nat := i.cause 8 16

theorem test_cause_7 : raises (.iadd (plain 3 1 2 0xF0 3)) = some 7 ∧
    raises (.iadd { far 3 1 2 0xF0 0xF0 0 0 with hint := 1 }) = some 7 ∧
    raises (.ld { far 3 4 0xF0 0xF0 0xF0 0 0 with hint := 1 }) = none := by decide +kernel

theorem test_cause_8 : raises (.not (plain 3 1 1 0xF0 0)) = some 8 ∧ raises (.not (plain 3 0xF9 0xF0 0xF0 0)) = some 8 ∧
    raises (.not (plain 3 0xF8 0xF0 0xF0 0)) = some 8 ∧ raises (.not (plain 0xF1 1 0xF0 0xF0 0)) = some 8 ∧
    raises (.isel (far 3 1 2 0xF8 0xF0 0 0)) = some 8 ∧ raises (.isel (far 3 1 0xF8 2 0xF0 0 0)) = none ∧
    (Instr.vspill (plain 0xF1 8 0xF0 0xF0 0)).cause 32 16 = some 8 := by decide +kernel

theorem test_cause_9 : raises (.iadd (plain 8 1 2 0xF0 0)) = some 9 ∧ raises (.iadd (guardedBy 8 (plain 3 1 2 0xF0 0))) = some 9 ∧
    raises (.imadw (plain 7 1 2 4 0)) = some 9 ∧ raises (.imadw (plain 6 1 2 4 0)) = none := by decide +kernel

theorem test_cause_10 : raises (.iadd (guardedBy 0xF3 (plain 3 1 2 0xF0 0))) = some 10 ∧
    raises (.iadd (guardedBy 0xF0 (plain 3 1 2 0xF0 0))) = none := by decide +kernel

theorem test_cause_11 : raises (.pairWord ⟨.fmul, 3, 1, 2⟩ ⟨.fmul, 3, 4, 5⟩) = some 11 ∧
    raises (.pairWord ⟨.fmul, 3, 1, 1⟩ ⟨.fadd, 4, 5, 6⟩) = some 11 ∧
    raises (.pairWord ⟨.fmul, 3, 1, 2⟩ ⟨.fadd, 4, 5, 6⟩) = none := by decide +kernel

theorem test_cause_12 : raises (.imadw (plain 0xEF 1 2 4 0)) = some 12 ∧ (Instr.vspill (plain 8 0xF0 0xF0 0xF0 0)).cause 32 16 = some 12 ∧
    raises (.imadw (plain 0xEE 1 2 4 0)) = none := by decide +kernel

/-! ### Values the manual works out -/

/-- The clause header of the manual's two groups. -/
theorem test_header : let h : BitVec 64 := 0x2788009
    hdrLen h = 2 ∧ hdrWait h = 1 ∧ hdrSetA h = 1 ∧ hdrSetB h = 15 ∧ hdrStall h = 2 ∧ hdrYield h = false := by decide +kernel

/-- The page tables of the manual's walk. -/
def walked : State := { State.reset with
  mem := (((Memory.putNum [] 0x400028 8 0x404001).putNum 0x405798 8 0x410001).putNum 0x410780 8 0x411001).putNum
    0x411090 8 0x87650007 }

/-- A context whose root is at 0x400000. -/
def rooted : Ctx := { context with desc := BitVec.ofNat 1024 (256 * 2 ^ 990) }

theorem test_walk_root : rooted.root = 0x400000 := by decide +kernel

theorem test_walk : walked.walk rooted 0xABCDE123458 = .leaf 0x411090 0x87650007 16 ∧
    (leafAt 0xABCDE123458 0x87650007 16).pa = 0x87653458 ∧ homeDie 0x87653458 = 0 ∧
    (walked.markEntry 0x411090 .store).mem.num 0x411090 8 = 0x87650607 := by decide +kernel

/-- The compressed save: registers v16 to v23 hold 5, 0, 0, 0xFFFFFFFF, 0, 0, 0, 0x10000. -/
theorem test_spill : (spillVals [(5, false), (0, false), (0, false), (0xFFFFFFFF, false), (0, false), (0, false), (0, false),
    (0x10000, false)]).map (·.1) = [0x376, 5, 0xFFFFFFFF, 0x10000, 0, 0, 0, 0, 0] := by decide +kernel

theorem test_fill : (fillVals 0x76 [(5, false), (0xFFFFFFFF, false), (0x10000, false)]).map (·.1) =
    [5, 0, 0, 0xFFFFFFFF, 0, 0, 0, 0x10000] := by decide +kernel

theorem test_permute : permute 0x11223344 0 0x443 = 0x44332211 ∧ permute 0x11223344 0 0x84020 = 0x3344 ∧
    permute 0x100 0 9 &&& 0xFF = 0x80 := by decide +kernel

/-- The control counts from bit 8 of the source four bits, as `bfe v40, #0x0408` reads COUNT 3 of the format word. -/
theorem test_extract : extractField false 0x376 0x408 = 3 := by decide +kernel

/-- The error feedback into F8E4: two values, each with its residual. -/
theorem test_error_feedback : (cvtEfVals false 4 .rne 0x3EB40000).1 = 0x2B ∧ (cvtEfVals false 4 .rne 0x3EB40000).2.1 = 0x3C000000 ∧
    (cvtEfVals false 4 .rne 0x3EB80000).1 = 0x2C ∧ (cvtEfVals false 4 .rne 0x3EB80000).2.1 = 0xBC800000 := by decide +kernel

/-- 100 scales to F8E4 by 0x7D; 0.3 narrows to 0x2A. -/
theorem test_narrow : (qscaleVal false 4 false 0x42C80000).1 = 0x7D ∧
    (convert false 4 .rne (.flt (srcF32 false 0x3E99999A))).1 = 0x2A := by decide +kernel

/-- The weights of the T2 byte 0x58. -/
theorem test_weights : (rowInts 15 5 [0x58]).take 5 = [1, -1, 0, 0, 1] := by decide +kernel

/-- 4,096 and thirty-one ones, and 4,096, fifteen ones and sixteen of minus one, in BF16. -/
def ones (first fifteen rest : Word) : List Word :=
  ((fifteen <<< 16) ||| first) :: List.replicate 7 ((fifteen <<< 16) ||| fifteen) ++ List.replicate 8 ((rest <<< 16) ||| rest)

/-- A dot product of two blocks of sixteen, which a loop of `ffma` would end at 16,777,200. -/
theorem test_dot : dotFloats 32 0 (rowFloats 2 32 [] (ones 0x4580 0x3F80 0x3F80)) (rowFloats 2 32 [] (ones 0x4580 0x3F80 0xBF80)) =
    (0x4B800000, false) := by decide +kernel

theorem test_cell_check : cellCheck 0x87653460 = 0x6CC1 := by decide +kernel

/-- Three lanes of `atom.fadd` on a word of 0, in two orders. -/
theorem test_atomic_order : atomicRun 4 9 0 [0x4B800000, 0x3F800000, 0x3F800000] = (0x4B800000, [0, 0x4B800000, 0x4B800000]) ∧
    (atomicRun 4 9 0 [0x3F800000, 0x3F800000, 0x4B800000]).1 = 0x4B800001 := by decide +kernel

/-- The scaled stencil of the manual and the grid it reads. -/
def scaled : Stencil := { (default : Stencil) with form := 1, mask := 0x3C7800000, nx := 2, dx := 1, ny := 2, dy := 1 }
def grid : Resource := { (default : Resource) with w := 4, h := 4 }

theorem test_stencil : (scaled.tiles grid 0 0).filterMap id = [0, 1, 2, 4, 5, 6] ∧
    (scaled.tiles grid 1 0).filterMap id = [1, 2, 3, 5, 6, 7] ∧ (scaled.tiles grid 0 1).filterMap id = [8, 9, 10, 12, 13, 14] ∧
    (scaled.tiles grid 1 1).filterMap id = [9, 10, 11, 13, 14, 15] := by decide +kernel

/-! ### One step from reset -/

/-- Register `n` of thread 0 of sheaf 0 after the machine's next step. -/
def afterStep (s : State) (n : BitVec 8) : Option Word :=
  match step s with
  | .next t => some ((t.sheaf 0).read 0 0 n)
  | _ => none

/-- `iadd v4, v3, #100`, long form, where v3 holds 0. -/
theorem test_step_long : afterStep (State.reset.withFetchWord 128 0x00000064F007C0108400403F8F0F0000) 4 = some 100 := by
  decide +kernel

/-- `not v3, zero`: opcode 0x050 in full form. -/
theorem test_step_full : afterStep (State.reset.withFetchWord 64 0x05003F0F0F0F0040) 3 = some 0xFFFFFFFF := by
  decide +kernel

end Sys2Proof.Tests
end

/-! SUPPORT. The cross-lane instructions (R106 to R113): what each does at issue in every segment, which thread a
shuffle reads, and the thread that an election chooses. -/

namespace Sys2Proof.Laws

open Machine

/-! ### The waiting instructions (R106 to R108, R111 to R113) -/

/-- With segments no wider than the sheaf, a cross-lane effect is no illegal use. -/
theorem crossOp_done {f : Fields} {n : Nat → Nat} {g : Sheaf → Bool → Seg → Nat → LaneOut} {is : Issue} {s : State}
    (h : segSize (s.sheaf is.sid).width f ≤ (s.sheaf is.sid).width) :
    crossOp f n g is s = .done
      (let sh := s.sheaf is.sid
       let z := segSize sh.width f
       (s.writeLanes is.sid f.d (n z) (is.act.map fun t => g sh (s.ftz is.sid) (is.seg sh z t) t)).modSheaf is.sid
         fun sh' => each is.act
           (fun t sh' => sh'.modThread t fun th => { th with xmask := (is.seg sh z t).mask }) sh') :=
  if_neg (Nat.not_lt.2 h)

/-- An instruction whose meaning is a cross-lane effect completes over its segments. -/
theorem crossLane_of {i : Instr} {f : Fields} {n : Nat → Nat} {g : Sheaf → Bool → Seg → Nat → LaneOut}
    (h : ∀ s, exec i s = issued i (crossOp f n g) s) : CrossLane i f n g := by
  intro s sid r hi sh z seg hz
  exact goes_of_done hi (h s) (crossOp_done hz)

/-- Bit 0 of MOD. -/
theorem mod_zero_one (f : Fields) : f.mod 0 1 = f.xmod.toNat % 2 := by
  simp [Fields.mod]

/-- The waiting cross-lane instructions complete for every segment that the sheaf holds. -/
theorem crossLaneResults : Claims.CrossLaneResults := by
  intro f
  refine ⟨crossLane_of fun _ => rfl, crossLane_of fun _ => rfl, crossLane_of fun _ => rfl, ?_,
    crossLane_of fun _ => rfl, crossLane_of fun _ => rfl⟩
  rw [← mod_zero_one]
  exact crossLane_of fun _ => rfl

/-! ### Which thread a shuffle reads (R111) -/

/-- A shuffle that reads index `j` of its segment delivers 0 where that thread has exited, else its A. -/
theorem shflLane_of_index {f : Fields} {sh : Sheaf} {z : Bool} {g : Seg} {t j : Nat}
    (h : shflIndex (f.mod 1 2) (f.mod 0 1 == 1) g.size (t - g.base) (sh.read f.imm t f.b).toNat = some j) :
    shflLane f sh z g t = if j ∈ g.exited then ⟨t, [(0, false)], 0⟩
      else ⟨t, [(sh.read f.imm (g.base + j) f.a, sh.taintOf (g.base + j) f.a)], 0⟩ := by
  simp only [shflLane, h]

/-- The indices of `shfl.idx` and of `shfl.xor` without `.w` lie in the segment, and the shuffle reads there. -/
theorem shuffleReadsLane : Claims.ShuffleReadsLane := by
  intro f sh z g t _ b from_
  refine ⟨fun hidx => shflLane_of_index ?_, fun hxor hw => shflLane_of_index ?_⟩
  · have hmode : f.mod 1 2 = 0 := hidx
    rw [hmode]; rfl
  · have hmode : f.mod 1 2 = 3 := hxor
    rw [hmode, mod_zero_one, hw]; rfl

/-! ### The election (R110) -/

/-- The election word of thread `i` where the thread of index `w` is chosen. -/
theorem electWord_of_chosen {hi : Bool} {act : List Nat} {w : Nat}
    (h : (if hi then act.getLastD 0 else act.headD 0) = w) (i : Nat) :
    electWord hi act i = BitVec.ofNat 32 (act.length * 2 ^ 16 + w * 2 ^ 8 + if i = w then 1 else 0) := by
  simp only [electWord, h, b2n, beq_iff_eq, eq_comm (a := i)]

/-- Among ascending indices the last is chosen with `.hi` and the first without, and no index lies beyond it. -/
theorem exists_chosen (hi : Bool) {act : List Nat} (hne : act ≠ []) (hs : act.Pairwise (· < ·)) :
    ∃ w ∈ act, (if hi then act.getLastD 0 else act.headD 0) = w ∧ ∀ i ∈ act, if hi then i ≤ w else w ≤ i := by
  have hle : act.Pairwise (· ≤ ·) := hs.imp Nat.le_of_lt
  cases hi with
  | true =>
    exact ⟨act.getLast hne, List.getLast_mem hne,
      by simp [List.getLastD_eq_getLast?, List.getLast?_eq_some_getLast hne],
      fun i hmem => by simpa using hle.rel_getLast hmem⟩
  | false =>
    exact ⟨act.head hne, List.head_mem hne, by simp [List.headD_eq_head?_getD, List.head?_eq_some_head hne],
      fun i hmem => by simpa using hle.rel_head hmem⟩

/-- `elect` writes its election words without a wait, and they name one active thread. -/
theorem electChoosesOne : Claims.ElectChoosesOne := by
  refine ⟨fun f s sid r hissue => ?_, fun hi act hne hs _ => ?_⟩
  · intro sh z hz
    rw [← mod_zero_one]
    exact goes_of_done hissue rfl (if_neg (Nat.not_lt.2 hz))
  · obtain ⟨w, hmem, hw, hbound⟩ := exists_chosen hi hne hs
    exact ⟨w, hmem, fun i _ => electWord_of_chosen hw i, hbound⟩

/-- Settles O9: each waiting instruction by its cross-lane effect, the shuffles by the index they compute, the election
by the ends of the ascending list of active threads. -/
theorem crossLane : Obligations.CrossLane :=
  ⟨crossLaneResults, shuffleReadsLane, electChoosesOne⟩

end Sys2Proof.Laws

/-! SUPPORT. The integer and bit instructions (R126 to R138): the word that each writes, in the terms of its rule. -/

namespace Sys2Proof.Laws

open Machine

/-! ### Words that write a function of their operands (R39, R124) -/

/-- The modifier bits from bit 0 upwards. -/
theorem fieldsMod_zero (f : Fields) (n : Nat) : f.mod 0 n = f.xmod.toNat % 2 ^ n := by
  simp [Fields.mod]

/-- A word whose meaning writes `g` of its operands writes every function that is equal to `g`. -/
theorem wordResult_of_eq {i : Instr} {f : Fields} {srcs : List (BitVec 8)} {g g' : List Word → Word × Word}
    (h : ∀ s, exec i s = issued i (wordOp f srcs g) s) (hg : ∀ l, g l = g' l) :
    WordResult i f srcs (fun _ => g') := by
  obtain rfl : g = g' := funext hg
  exact wordResult_of h

/-- The same for two operands and no sticky bit. -/
theorem result2_of {i : Instr} {f : Fields} {g g' : Word → Word → Word}
    (h : ∀ s, exec i s = issued i (wordOp f [f.a, f.b] fun l => (g (opd l 0) (opd l 1), 0)) s)
    (hg : ∀ a b, g a b = g' a b) : Result2 i f g' :=
  wordResult_of_eq h fun _ => congrArg (·, 0) (hg _ _)

/-- The same for one operand. -/
theorem result1_of {i : Instr} {f : Fields} {g g' : Word → Word}
    (h : ∀ s, exec i s = issued i (wordOp f [f.a] fun l => (g (opd l 0), 0)) s)
    (hg : ∀ a, g a = g' a) : Result1 i f g' :=
  wordResult_of_eq h fun _ => congrArg (·, 0) (hg _)

/-! ### Bits of numbers (R12) -/

/-- A bit of a field is the bit of the number that far above the field's position. -/
theorem testBit_bits (x lo n i : Nat) : (bits x lo n).testBit i = (decide (i < n) && x.testBit (lo + i)) := by
  rw [bits, Nat.testBit_mod_two_pow, Nat.testBit_div_two_pow, Nat.add_comm]

/-- Replacing a field keeps the bits below it and those above it. -/
theorem setBits_eq (x lo n v : Nat) :
    setBits x lo n v = 2 ^ lo * (2 ^ n * (x / 2 ^ lo / 2 ^ n) + v % 2 ^ n) + x % 2 ^ lo := by
  have hx : x = 2 ^ lo * (2 ^ n * (x / 2 ^ lo / 2 ^ n)) + x % 2 ^ lo + x / 2 ^ lo % 2 ^ n * 2 ^ lo :=
    calc x = 2 ^ lo * (2 ^ n * (x / 2 ^ lo / 2 ^ n) + x / 2 ^ lo % 2 ^ n) + x % 2 ^ lo := by
          rw [Nat.div_add_mod, Nat.div_add_mod]
      _ = _ := by ring
  rw [setBits, bits, Nat.sub_eq_of_eq_add hx]
  ring

/-- A bit after a field is replaced: one of the new value inside the field, the old one outside. -/
theorem testBit_setBits (x lo n v i : Nat) :
    (setBits x lo n v).testBit i = if lo ≤ i ∧ i < lo + n then v.testBit (i - lo) else x.testBit i := by
  rw [setBits_eq, Nat.testBit_two_pow_mul_add _ (Nat.mod_lt _ (Nat.two_pow_pos _)),
    Nat.testBit_two_pow_mul_add _ (Nat.mod_lt _ (Nat.two_pow_pos _))]
  simp only [Nat.testBit_mod_two_pow, Nat.testBit_div_two_pow]
  by_cases hlow : i < lo
  · simp [hlow, Nat.not_le.2 hlow]
  · by_cases hin : i - lo < n
    · simp [hlow, hin, show lo ≤ i ∧ i < lo + n by omega]
    · have hi : i - lo - n + n + lo = i := by omega
      simp [hlow, hin, hi, show ¬ (lo ≤ i ∧ i < lo + n) by omega]

/-- A word built of a number, bit by bit. -/
theorem ofNat_eq_ofFnLE {x : Nat} {g : Fin 32 → Bool} (h : ∀ i : Fin 32, x.testBit i = g i) :
    BitVec.ofNat 32 x = BitVec.ofFnLE g := by
  apply BitVec.eq_of_getLsbD_eq
  intro i hi
  rw [BitVec.getLsbD_ofNat, BitVec.getLsbD_ofFnLE, dif_pos hi, ← h ⟨i, hi⟩, decide_eq_true hi, Bool.true_and]

/-- A word with a field replaced, bit by bit. -/
theorem ofNat_setBits (a : Word) (lo n v : Nat) :
    BitVec.ofNat 32 (setBits a.toNat lo n v) =
      BitVec.ofFnLE fun i => if lo ≤ i.val ∧ i.val < lo + n then v.testBit (i.val - lo) else a[i] :=
  ofNat_eq_ofFnLE fun i => by rw [testBit_setBits]; rfl

/-! ### Sums, differences, products (R126 to R128, R130) -/

/-- Clamping to a range holds the value between its ends, and tells whether it lay outside. -/
theorem clamp_eq {lo hi : Int} (h : lo ≤ hi) (x : Int) :
    clamp lo hi x = (max lo (min hi x), decide (x < lo ∨ hi < x)) := by
  unfold clamp
  split
  · ext <;> simp <;> omega
  · split
    · ext <;> simp <;> omega
    · ext <;> simp <;> omega

/-- Narrowing keeps an exact result to a word. -/
theorem narrow_eq_keep (m : Nat) (x : Int) : narrow m x = keep m x := by
  by_cases h1 : m = 1
  · simp [narrow, keep, h1, satI32, clamp_eq, wordOf, flagIf, astSAT]
  · by_cases h2 : m = 2
    · simp [narrow, keep, h2, satN32, clamp_eq, wordOf, flagIf, astSAT]
    · simp [narrow, keep, h1, h2, wordOf]

/-- An exact result of operands taken as unsigned in mode 2 and as signed else, kept to a word. -/
theorem narrow_exact (m : Nat) (op : (Word → Int) → Int) :
    (if m = 2 then narrow m (op fun x => x.toNat) else narrow m (op BitVec.toInt)) = keep m (op (exactInt m)) := by
  have he : exactInt m = if m = 2 then fun x => (x.toNat : Int) else BitVec.toInt := by
    funext x
    unfold exactInt
    split <;> rfl
  rw [he, narrow_eq_keep, narrow_eq_keep]
  split <;> rfl

/-- The low word of an exact sum or difference with a carry is the sum or difference of words. -/
theorem wordOf_carrySum (sub : Bool) (a b : Word) (ci : Nat) :
    wordOf (carrySum sub a b ci) = if sub then a - b - BitVec.ofNat 32 ci else a + b + BitVec.ofNat 32 ci := by
  cases sub <;>
    simp [wordOf, carrySum, sub_eq_add_neg, BitVec.ofInt_add, BitVec.ofInt_neg, BitVec.ofInt_natCast]

/-- `iaddc` writes the borrow or the difference, the carry or the sum. -/
theorem addCarry_eq (sub co : Bool) (a b c : Word) :
    addCarry sub co a b c =
      if sub then (if co then (if a.toNat < b.toNat + c.toNat % 2 then 1 else 0)
        else a - b - BitVec.ofNat 32 (c.toNat % 2))
      else (if co then (if 2 ^ 32 ≤ a.toNat + b.toNat + c.toNat % 2 then 1 else 0)
        else a + b + BitVec.ofNat 32 (c.toNat % 2)) := by
  cases co with
  | false => simpa [addCarry] using wordOf_carrySum sub a b (c.toNat % 2)
  | true =>
    cases sub with
    | false =>
      have hcarry : (2 : Int) ^ 32 ≤ a.toNat + b.toNat + (c.toNat % 2 : Nat) ↔
          2 ^ 32 ≤ a.toNat + b.toNat + c.toNat % 2 := by omega
      simp only [addCarry, carrySum, hcarry, Bool.false_eq_true, if_false, if_true]
    | true =>
      have hborrow : (a.toNat : Int) - b.toNat - (c.toNat % 2 : Nat) < 0 ↔ a.toNat < b.toNat + c.toNat % 2 := by omega
      simp only [addCarry, carrySum, hborrow, if_true]

/-- Bits 63 to 32 of a 64-bit integer. -/
theorem wordOf_div (x : Int) : wordOf (x / 2 ^ 32) = (BitVec.ofInt 64 x).extractLsb' 32 32 := by
  apply BitVec.eq_of_toNat_eq
  simp only [wordOf, BitVec.toNat_ofInt, BitVec.extractLsb'_toNat, Nat.shiftRight_eq_div_pow]
  omega

/-- The exact product of two words as a product of words of 64 bits. -/
theorem ofInt_product (unsigned : Bool) (a b : Word) :
    BitVec.ofInt 64 (product unsigned a b) =
      if unsigned then a.zeroExtend 64 * b.zeroExtend 64 else a.signExtend 64 * b.signExtend 64 := by
  cases unsigned
  · simp [product, BitVec.ofInt_mul, BitVec.signExtend]
  · simp [product, BitVec.ofInt_mul, BitVec.ofInt_natCast]

/-- The order of two words, unsigned or signed. -/
theorem less_eq (unsigned : Bool) (a b : Word) :
    less unsigned a b = if unsigned then decide (a.toNat < b.toNat) else decide (a.toInt < b.toInt) := by
  cases unsigned
  · exact BitVec.slt_eq_decide
  · exact BitVec.ult_eq_decide

/-- The lesser of two words. -/
theorem pickMin_eq (unsigned : Bool) (a b : Word) :
    pickMin unsigned a b = if unsigned then (if a.toNat ≤ b.toNat then a else b)
      else (if a.toInt ≤ b.toInt then a else b) := by
  cases unsigned
  · simp only [pickMin, less_eq, Bool.false_eq_true, if_false, decide_eq_true_eq, ← Int.not_lt, ite_not]
  · simp only [pickMin, less_eq, if_true, decide_eq_true_eq, ← Nat.not_lt, ite_not]

/-- The greater of two words. -/
theorem pickMax_eq (unsigned : Bool) (a b : Word) :
    pickMax unsigned a b = if unsigned then (if b.toNat ≤ a.toNat then a else b)
      else (if b.toInt ≤ a.toInt then a else b) := by
  cases unsigned
  · simp only [pickMax, less_eq, Bool.false_eq_true, if_false, decide_eq_true_eq, ← Int.not_lt, ite_not]
  · simp only [pickMax, less_eq, if_true, decide_eq_true_eq, ← Nat.not_lt, ite_not]

/-- Settles O2: each word by the function of its meaning, exact results by the equality of narrowing and keeping. -/
theorem integerArithmetic : Obligations.IntegerArithmetic := by
  intro f m u
  have hm : m = f.mod 0 2 := (fieldsMod_zero f 2).symm
  have hu : u = f.mod 0 1 := (mod_zero_one f).symm
  rw [hm, hu]
  refine ⟨wordResult_of_eq (fun _ => rfl) fun l => narrow_exact _ fun v => v (opd l 0) + v (opd l 1),
    wordResult_of_eq (fun _ => rfl) fun l => narrow_exact _ fun v => v (opd l 0) - v (opd l 1),
    wordResult_of_eq (fun _ => rfl) fun l => narrow_exact _ fun v => v (opd l 0) * v (opd l 1) + v (opd l 2),
    result2_of (fun _ => rfl) fun _ _ => rfl,
    result2_of (g := fun a b => wordOf (product (f.mod 0 1 == 1) a b / 2 ^ 32)) (fun _ => rfl) fun a b => ?_,
    wordResult_of_eq (fun _ => rfl) fun l => ?_,
    result2_of (fun _ => rfl) fun a b => ?_, result2_of (fun _ => rfl) fun a b => ?_,
    wordResult_of_eq (fun _ => rfl) fun l => ?_, wordResult_of_eq (fun _ => rfl) fun l => narrow_eq_keep _ _⟩
  · simp only [wordOf_div, ofInt_product, beq_iff_eq, apply_ite (BitVec.extractLsb' 32 32)]
  · simp only [addCarry_eq, beq_iff_eq]; rfl
  · simp only [pickMin_eq, beq_iff_eq]
  · simp only [pickMax_eq, beq_iff_eq]
  · rw [narrow_eq_keep, Int.natCast_natAbs]; rfl

/-! ### Bitwise operations and shifts (R131, R132) -/

/-- A function of a shift count that has reached its value at 32 takes the count of the rule. -/
theorem apply_shiftCount {op : Nat → Word} (h : ∀ n, 32 ≤ n → op 32 = op n) (wrap : Bool) (b : Word) :
    op (shiftCount wrap b) = op (if wrap then b.toNat % 32 else b.toNat) := by
  cases wrap with
  | true => rfl
  | false =>
    rcases Nat.le_total b.toNat 32 with hb | hb
    · exact congrArg op (Nat.min_eq_left hb)
    · exact (congrArg op (Nat.min_eq_right hb)).trans (h _ hb)

/-- `shl` multiplies by the power of 2. -/
theorem shiftLeft_eq (wrap : Bool) (a b : Word) :
    shiftLeft wrap a b = BitVec.ofNat 32 (a.toNat * 2 ^ (if wrap then b.toNat % 32 else b.toNat)) := by
  rw [shiftLeft, apply_shiftCount (op := (a <<< ·)) fun n hn => by
    rw [BitVec.shiftLeft_eq_zero hn, BitVec.shiftLeft_eq_zero (Nat.le_refl 32)]]
  apply BitVec.eq_of_toNat_eq
  rw [BitVec.toNat_shiftLeft, Nat.shiftLeft_eq, BitVec.toNat_ofNat]

/-- `shr` divides by the power of 2. -/
theorem shiftRight_eq (wrap : Bool) (a b : Word) :
    shiftRight wrap a b = BitVec.ofNat 32 (a.toNat / 2 ^ (if wrap then b.toNat % 32 else b.toNat)) := by
  rw [shiftRight, apply_shiftCount (op := (a >>> ·)) fun n hn => by
    rw [BitVec.ushiftRight_eq_zero hn, BitVec.ushiftRight_eq_zero (Nat.le_refl 32)]]
  apply BitVec.eq_of_toNat_eq
  rw [BitVec.toNat_ushiftRight, Nat.shiftRight_eq_div_pow, BitVec.toNat_ofNat,
    Nat.mod_eq_of_lt (Nat.lt_of_le_of_lt (Nat.div_le_self _ _) a.isLt)]

/-- An arithmetic shift by 32 or more is one by 32: it leaves copies of the sign alone. -/
theorem sshiftRight_of_le (a : Word) {n : Nat} (hn : 32 ≤ n) : a.sshiftRight 32 = a.sshiftRight n := by
  apply BitVec.eq_of_getElem_eq
  intro i hi
  rw [BitVec.getElem_sshiftRight, BitVec.getElem_sshiftRight, dif_neg (by omega), dif_neg (by omega)]

/-- `sar` divides the signed value by the power of 2, rounding downwards. -/
theorem shiftArith_eq (wrap : Bool) (a b : Word) :
    shiftArith wrap a b = BitVec.ofInt 32 (a.toInt / 2 ^ (if wrap then b.toNat % 32 else b.toNat)) := by
  rw [shiftArith, apply_shiftCount (op := a.sshiftRight) fun n => sshiftRight_of_le a, BitVec.sshiftRight_eq,
    Int.shiftRight_eq_div_pow]
  norm_cast

/-- A rotation to the left multiplies by a power of 2 and adds the bits that leave at the top. -/
theorem rotateLeft_eq (a : Word) {k : Nat} (hk : k < 32) :
    a.rotateLeft k = BitVec.ofNat 32 (a.toNat * 2 ^ k + a.toNat / 2 ^ (32 - k)) := by
  have hpow : 2 ^ k * 2 ^ (32 - k) = 2 ^ 32 := by rw [← Nat.pow_add, Nat.add_sub_cancel' hk.le]
  have htop : a.toNat / 2 ^ (32 - k) < 2 ^ k := by
    rw [Nat.div_lt_iff_lt_mul (Nat.two_pow_pos _), hpow]
    exact a.isLt
  apply BitVec.eq_of_getLsbD_eq
  intro i hi
  rw [BitVec.getLsbD_rotateLeft_of_le hk, BitVec.getLsbD_ofNat, Nat.mul_comm, Nat.testBit_two_pow_mul_add _ htop,
    Nat.testBit_div_two_pow, Nat.add_comm i]
  by_cases h : i < k <;> simp [h, hi, BitVec.testBit_toNat]

/-- A rotation to the right is one to the left by the rest of the word. -/
theorem rotateRight_eq_rotateLeft (a : Word) {k : Nat} (hk : k < 32) :
    a.rotateRight k = a.rotateLeft ((32 - k) % 32) := by
  rcases Nat.eq_zero_or_pos k with rfl | hpos
  · simp [BitVec.rotateRight_def, BitVec.rotateLeft_def, BitVec.ushiftRight_eq_zero (Nat.le_refl 32)]
  · have hrest : (32 - k) % 32 = 32 - k := Nat.mod_eq_of_lt (by omega)
    rw [BitVec.rotateRight_def, BitVec.rotateLeft_def, hrest, hrest, Nat.mod_eq_of_lt hk, Nat.sub_sub_self hk.le,
      BitVec.or_comm]

/-- `rot` is a rotation to the left, with `.r` by the rest of the word. -/
theorem rotate_eq (right : Bool) (a b : Word) :
    rotate right a b =
      let k := if right then (32 - b.toNat % 32) % 32 else b.toNat % 32
      BitVec.ofNat 32 (a.toNat * 2 ^ k + a.toNat / 2 ^ (32 - k)) := by
  have hb : b.toNat % 32 < 32 := Nat.mod_lt _ (by decide)
  cases right with
  | false => exact rotateLeft_eq a hb
  | true =>
    rw [rotate, if_pos rfl, rotateRight_eq_rotateLeft a hb]
    exact rotateLeft_eq a (Nat.mod_lt _ (by decide))

/-- The bitwise operations bit by bit, the shifts by their powers of 2. -/
theorem bitwiseAndShifts : Claims.BitwiseAndShifts := by
  intro f w n
  have hw : w = f.mod 0 1 := (mod_zero_one f).symm
  refine ⟨result2_of (g := (· &&& ·)) (fun _ => rfl) fun a b => ?_,
    result2_of (g := (· ||| ·)) (fun _ => rfl) fun a b => ?_,
    result2_of (g := (· ^^^ ·)) (fun _ => rfl) fun a b => ?_, result1_of (g := (~~~ ·)) (fun _ => rfl) fun a => ?_,
    result2_of (g := fun a b => a &&& ~~~ b) (fun _ => rfl) fun a b => ?_,
    result2_of (fun _ => rfl) fun a b => ?_, result2_of (fun _ => rfl) fun a b => ?_,
    result2_of (fun _ => rfl) fun a b => ?_, result2_of (fun _ => rfl) fun a b => ?_⟩
  · ext i hi; simp
  · ext i hi; simp
  · ext i hi; simp
  · ext i hi; simp
  · ext i hi; simp
  · simp only [n, hw, shiftLeft_eq, beq_iff_eq]
  · simp only [n, hw, shiftRight_eq, beq_iff_eq]
  · simp only [n, hw, shiftArith_eq, beq_iff_eq]
  · simp only [hw, rotate_eq, beq_iff_eq]

/-! ### Bit fields (R133) -/

/-- Position and length of the field that a control value names. -/
theorem fieldOf_eq (k : Word) :
    fieldOf k = (k.toNat % 256,
      if 32 ≤ k.toNat % 256 then 0 else min (k.toNat / 256 % 256) (32 - k.toNat % 256)) := by
  have hlen : (if 32 ≤ k.toNat % 256 ∨ k.toNat / 256 % 256 = 0 then 0
      else min (k.toNat / 256 % 256) (32 - k.toNat % 256)) =
      if 32 ≤ k.toNat % 256 then 0 else min (k.toNat / 256 % 256) (32 - k.toNat % 256) := by
    split <;> split <;> omega
  simpa [fieldOf, bits] using hlen

/-- `bfe` of a field of given position and length. -/
theorem extractField_eq (signed : Bool) (a k : Word) {pos e : Nat} (h : fieldOf k = (pos, e)) :
    extractField signed a k =
      let x := a.toNat / 2 ^ pos % 2 ^ e
      if signed = true ∧ 0 < e ∧ 2 ^ (e - 1) ≤ x then BitVec.ofInt 32 ((x : Int) - 2 ^ e)
      else BitVec.ofNat 32 x := by
  rcases Nat.eq_zero_or_pos e with rfl | he
  · simp [extractField, h, Nat.mod_one]
  · have hpow : 2 ^ e = 2 * 2 ^ (e - 1) := (mul_pow_sub_one he.ne' 2).symm
    cases signed with
    | false => simp [extractField, h, he.ne', bits]
    | true =>
      have hsign : 2 * (a.toNat / 2 ^ pos % 2 ^ e) < 2 ^ e ↔ ¬ 2 ^ (e - 1) ≤ a.toNat / 2 ^ pos % 2 ^ e := by omega
      simp only [extractField, h, he, he.ne', if_false, if_true, bits, sext, Nat.mod_mod, hsign, ite_not, wordOf,
        true_and, apply_ite (BitVec.ofInt 32), BitVec.ofInt_natCast]

/-- `bfi` of a field of given position and length. -/
theorem insertField_eq (a b k : Word) {pos e : Nat} (h : fieldOf k = (pos, e)) :
    insertField a b k = BitVec.ofFnLE fun i =>
      if pos ≤ i.val ∧ i.val < pos + e then b.getLsbD (i.val - pos) else a[i] := by
  rcases Nat.eq_zero_or_pos e with rfl | he
  · ext i hi
    simp [insertField, h]
  · simp only [insertField, h, he.ne', if_false, ofNat_setBits, BitVec.testBit_toNat]

/-- A field is extracted and inserted at the position and for the length that its control value names. -/
theorem bitFields : Claims.BitFields := by
  intro f pos len
  refine ⟨result2_of (fun _ => rfl) fun a k => ?_, wordResult_of_eq (fun _ => rfl) fun l => congrArg (·, 0) ?_⟩
  · rw [extractField_eq _ a k (fieldOf_eq k), ← mod_zero_one]
    simp only [beq_iff_eq]
    rfl
  · exact insertField_eq _ _ _ (fieldOf_eq _)

/-! ### Bit counts and the reversed order (R134) -/

/-- The number of entries that meet `p` as a sum of 1 for each. -/
theorem length_filter_eq_sum (p : Nat → Bool) (l : List Nat) :
    (l.filter p).length = (l.map fun i => (p i).toNat).sum := by
  induction l with
  | nil => rfl
  | cons i l ih => cases h : p i <;> simp [h, ih, Nat.add_comm]

/-- Above the highest 1 bit of a number below 2 to the `n` stand the zeros that the logarithm leaves. -/
theorem length_takeWhile_zeros {x : Nat} (n : Nat) (hx : x < 2 ^ n) :
    ((List.range n).reverse.takeWhile fun i => !x.testBit i).length = if x = 0 then n else n - 1 - Nat.log2 x := by
  induction n with
  | zero => simp [show x = 0 by omega]
  | succ n ih =>
    rw [List.range_succ, List.reverse_append, List.reverse_singleton, List.singleton_append]
    rcases Nat.lt_or_ge x (2 ^ n) with hlow | hhigh
    · have hlog : x ≠ 0 → Nat.log2 x < n := fun h0 => (Nat.log2_lt h0).2 hlow
      rw [List.takeWhile_cons_of_pos (by simp [Nat.testBit_lt_two_pow hlow]), List.length_cons, ih hlow]
      split <;> omega
    · have h0 : x ≠ 0 := by have := Nat.two_pow_pos n; omega
      have hbit : x.testBit n = true := Nat.testBit_of_two_pow_le_and_two_pow_add_one_gt hhigh hx
      rw [List.takeWhile_cons_of_neg (by simp [hbit]), (Nat.log2_eq_iff h0).2 ⟨hhigh, hx⟩]
      simp [h0]

/-- Below the first number from `s` that meets `p` stand those that do not. -/
theorem add_length_takeWhile (p : Nat → Bool) (n s : Nat) :
    s + ((List.range' s n).takeWhile fun i => !p i).length = ((List.range' s n).find? p).getD (s + n) := by
  induction n generalizing s with
  | zero => rfl
  | succ n ih =>
    rw [List.range'_succ]
    cases hp : p s with
    | true => simp [hp]
    | false =>
      have := ih (s + 1)
      simp only [List.takeWhile_cons, List.find?_cons, hp, Bool.not_false, if_true, List.length_cons]
      rw [show s + (n + 1) = s + 1 + n by omega, ← this]
      omega

/-- One bit more shifts the reversed number up and takes the new bit at the bottom. -/
theorem reverseBits_succ (n x : Nat) : reverseBits (n + 1) x = 2 ^ 1 * reverseBits n x + (x.testBit n).toNat := by
  have hbit : ∀ i, b2n (bit x i) = (x.testBit i).toNat := fun i => by
    rw [Nat.testBit_eq_decide_div_mod_eq, bit, b2n]
    rcases Nat.mod_two_eq_zero_or_one (x / 2 ^ i) with h | h <;> simp [h]
  have hshift : ∀ i ∈ List.range n,
      b2n (bit x i) * 2 ^ (n + 1 - 1 - i) = 2 ^ 1 * (b2n (bit x i) * 2 ^ (n - 1 - i)) := by
    intro i hi
    have hlt : i < n := List.mem_range.1 hi
    rw [show n + 1 - 1 - i = n - 1 - i + 1 by omega, Nat.pow_succ]
    ring
  rw [reverseBits, List.range_succ, List.map_append, List.sum_append, List.map_congr_left hshift, List.sum_map_mul_left]
  simp [reverseBits, hbit]

/-- Bit `j` of the reversed number is the bit as far from the other end. -/
theorem testBit_reverseBits (n x j : Nat) :
    (reverseBits n x).testBit j = (decide (j < n) && x.testBit (n - 1 - j)) := by
  induction n generalizing j with
  | zero => simp [reverseBits]
  | succ n ih =>
    rw [reverseBits_succ, Nat.testBit_two_pow_mul_add _ (Bool.toNat_lt _)]
    cases j with
    | zero => cases h : x.testBit n <;> simp [h]
    | succ j =>
      rw [if_neg (by omega), Nat.add_sub_cancel, ih, show n + 1 - 1 - (j + 1) = n - 1 - j by omega]
      simp

/-- The counts by their lists of bits, the reversed order bit by bit. -/
theorem bitCounts : Claims.BitCounts := by
  intro f
  refine ⟨result1_of (g := fun a => BitVec.ofNat 32 (countOnes a)) (fun _ => rfl) fun a => ?_,
    result1_of (g := fun a => BitVec.ofNat 32 (leadZeros a)) (fun _ => rfl) fun a => ?_,
    result1_of (g := fun a => BitVec.ofNat 32 (reverseBits 32 a.toNat)) (fun _ => rfl) fun a => ?_,
    result1_of (g := fun a => BitVec.ofNat 32 (trailZeros a)) (fun _ => rfl) fun a => ?_⟩
  · exact congrArg _ (length_filter_eq_sum _ _)
  · have hlead : leadZeros a = if a.toNat = 0 then 32 else 32 - 1 - Nat.log2 a.toNat :=
      length_takeWhile_zeros 32 a.isLt
    have hzero : a = 0 ↔ a.toNat = 0 := BitVec.toNat_eq
    simp only [hlead, hzero, apply_ite (BitVec.ofNat 32)]
    rfl
  · refine ofNat_eq_ofFnLE fun i => ?_
    rw [testBit_reverseBits, decide_eq_true i.isLt, Bool.true_and]
    rfl
  · have h := add_length_takeWhile (fun i => a.getLsbD i) 32 0
    rw [Nat.zero_add, ← List.range_eq_range'] at h
    exact congrArg _ h

/-! ### Byte permutation (R135) -/

/-- Bit `i` of a little-endian number is bit `i % 8` of its byte `i / 8`. -/
theorem testBit_leNat (l : List Byte) (i : Nat) : (leNat l).testBit i = (l.getD (i / 8) 0).getLsbD (i % 8) := by
  induction l generalizing i with
  | nil => simp [leNat]
  | cons b l ih =>
    rw [leNat, Nat.add_comm, show 256 = 2 ^ 8 from rfl, Nat.testBit_two_pow_mul_add _ b.isLt]
    split
    · next h => simp [Nat.div_eq_of_lt h, Nat.mod_eq_of_lt h, BitVec.testBit_toNat]
    · next h =>
      obtain ⟨j, rfl⟩ := Nat.exists_eq_add_of_le (Nat.le_of_not_lt h)
      rw [ih, Nat.add_sub_cancel_left, Nat.add_mod_left, Nat.add_div_left j (by decide), List.getD_cons_succ]

/-- A bit of the bytes of two words, those of the first below. -/
theorem testBit_twoWords (a b : Word) (k : Nat) :
    (a.toNat + b.toNat * 2 ^ 32).testBit k = if k < 32 then a.getLsbD k else b.getLsbD (k - 32) := by
  rw [Nat.add_comm, Nat.mul_comm, Nat.testBit_two_pow_mul_add _ a.isLt]
  rfl

/-- A bit of the byte that a byte control builds. -/
theorem testBit_permuteByte (src c : Nat) (hc : c < 32) {j : Nat} (hj : j < 8) :
    (permuteByte src c).testBit j =
      if c < 8 then src.testBit (8 * c + j)
      else if c < 16 then src.testBit (8 * (c - 8) + (7 - j))
      else decide (24 ≤ c) := by
  have hkind : c / 8 = 0 ∨ c / 8 = 1 ∨ c / 8 = 2 ∨ c / 8 = 3 := by omega
  rcases hkind with h | h | h | h <;> simp only [permuteByte, h]
  · rw [if_pos (by omega), testBit_bits, decide_eq_true hj, Bool.true_and, Nat.mod_eq_of_lt (by omega)]
  · rw [if_neg (by omega), if_pos (by omega), testBit_reverseBits, testBit_bits, decide_eq_true hj,
      decide_eq_true (by omega), Bool.true_and, Bool.true_and, show c % 8 = c - 8 by omega]
  · rw [if_neg (by omega), if_neg (by omega), Nat.zero_testBit, decide_eq_false (by omega)]
  · rw [if_neg (by omega), if_neg (by omega), decide_eq_true (by omega), show 0xFF = 2 ^ 8 - 1 from rfl,
      Nat.testBit_two_pow_sub_one, decide_eq_true hj]

/-- `prmt` bit by bit: bit `i` belongs to the byte that control `i / 8` builds. -/
theorem permute_eq (a b c : Word) :
    permute a b c = BitVec.ofFnLE fun i =>
      (permuteByte (a.toNat + b.toNat * 2 ^ 32) (bits c.toNat (5 * (i.val / 8)) 5)).testBit (i.val % 8) := by
  refine ofNat_eq_ofFnLE fun i => ?_
  have hk : i.val / 8 < 4 := by omega
  have hj : i.val % 8 < 8 := Nat.mod_lt _ (by decide)
  rw [testBit_leNat, List.getD_eq_getElem _ _ (by simpa using hk), List.getElem_map, List.getElem_range,
    BitVec.getLsbD_ofNat, decide_eq_true hj, Bool.true_and]

/-- Each byte of the result is the one that its control names. -/
theorem bytePermute : Claims.BytePermute := by
  intro f
  refine wordResult_of_eq (fun _ => rfl) fun l => congrArg (·, 0) ((permute_eq _ _ _).trans (congrArg _ ?_))
  funext i
  have hctl : bits (opd l 2).toNat (5 * (i.val / 8)) 5 < 32 := Nat.mod_lt _ (by decide)
  rw [testBit_permuteByte _ _ hctl (Nat.mod_lt _ (by decide)), testBit_twoWords, testBit_twoWords]
  rfl

/-- Settles O3: the bitwise operations, fields and permutation bit by bit, the shifts by their powers of 2, the counts
by their lists of bits. -/
theorem bitOperations : Obligations.BitOperations :=
  ⟨bitwiseAndShifts, bitFields, bitCounts, bytePermute⟩

/-! ### Comparison, selection and moves (R136 to R138) -/

/-- A word with one bit replaced. -/
theorem ofNat_setBit (a : Word) (p : Nat) (z : Bool) :
    BitVec.ofNat 32 (setBits a.toNat p 1 (b2n z)) = BitVec.ofFnLE fun i => if i.val = p then z else a[i] := by
  rw [ofNat_setBits]
  congr 1
  funext i
  by_cases hi : i.val = p
  · cases z <;> simp [hi, b2n]
  · rw [if_neg (by omega), if_neg hi]

/-- The bit number of a comparison is that of C and the offset together, modulo 32. -/
theorem cmpPos_eq (f : Fields) (c : Word) : cmpPos f c = (c.toNat + f.xmod.toNat / 64 % 32) % 32 :=
  Nat.mod_add_mod _ _ _

/-- The selector bit with its negation. -/
theorem xor_negate (b : Bool) (x : Nat) : (b ^^ (x % 2 == 1)) = true ↔ b = (x % 2 == 0) := by
  rcases Nat.mod_two_eq_zero_or_one x with h | h <;> simp [h]

/-- Two halves of words as one word. -/
theorem append_halves (hi lo : BitVec 16) : hi ++ lo = BitVec.ofNat 32 (hi.toNat * 65536 + lo.toNat) := by
  apply BitVec.eq_of_toNat_eq
  have hlo := lo.isLt
  have hhi := hi.isLt
  rw [BitVec.toNat_append, ← Nat.shiftLeft_add_eq_or_of_lt hlo, Nat.shiftLeft_eq, BitVec.toNat_ofNat]
  omega

/-- `.lo16` keeps the upper half of D. -/
theorem moviWord_lo16 (imm old : Word) :
    moviWord 1 imm old = BitVec.ofNat 32 (old.toNat / 65536 * 65536 + imm.toNat % 65536) := by
  have hold : old.toNat / 65536 % 65536 = old.toNat / 65536 := Nat.mod_eq_of_lt (by omega)
  simp only [moviWord, append_halves, BitVec.extractLsb'_toNat, Nat.shiftRight_eq_div_pow, Nat.reducePow, Nat.div_one,
    hold]

/-- `.hi16` keeps the lower half of D. -/
theorem moviWord_hi16 (imm old : Word) :
    moviWord 2 imm old = BitVec.ofNat 32 (imm.toNat % 65536 * 65536 + old.toNat % 65536) := by
  simp only [moviWord, append_halves, BitVec.extractLsb'_toNat, Nat.shiftRight_eq_div_pow, Nat.reducePow, Nat.div_one]

/-- `movi` reads D in its partial forms only. -/
theorem exec_movi (f : Fields) {srcs : List (BitVec 8)} (h : (if f.mod 0 2 = 0 then [] else [f.d]) = srcs) (s : State) :
    exec (.movi f) s = issued (.movi f) (wordOp f srcs fun l => (moviWord (f.mod 0 2) f.imm (opd l 0), 0)) s := by
  subst h
  rfl

/-- Settles O4: the comparison as one bit replaced, the selection by the two values of the negate bit, the moves by the
half of the word that each keeps. -/
theorem compareSelectMove : Obligations.CompareSelectMove := by
  intro f x
  have hmode : f.mod 0 2 = x % 4 := fieldsMod_zero f 2
  have hneg : f.mod 5 1 = x / 32 % 2 := rfl
  refine ⟨wordResult_of_eq (fun _ => rfl) fun l => congrArg (·, 0) ?_, wordResult_of_eq (fun _ => rfl) fun l => ?_,
    result1_of (g := id) (fun _ => rfl) fun _ => rfl, fun h => ?_, fun h => ?_, fun h => ?_⟩
  · simp only [combBit, ofNat_setBit, cmpPos_eq, fieldsMod_zero, icond, less_eq, beq_iff_eq]
    rfl
  · simp only [fieldsMod_zero, hneg, xor_negate]
    rfl
  · exact wordResult_of_eq (exec_movi f (by rw [hmode, h]; rfl)) fun l => by rw [hmode, h]; rfl
  · exact wordResult_of_eq (exec_movi f (by rw [hmode, h]; rfl)) fun l => by rw [hmode, h, moviWord_lo16]; rfl
  · exact wordResult_of_eq (exec_movi f (by rw [hmode, h]; rfl)) fun l => by rw [hmode, h, moviWord_hi16]; rfl

end Sys2Proof.Laws

/-! SUPPORT. The floating-point and packed half instructions (R140 to R148): the word and the sticky bits that each
writes, in the terms of its rule. -/

namespace Sys2Proof.Laws

open Machine

/-! ### Words that write a function of the kernel's FTZ and their operands (R39, R76) -/

/-- A word whose meaning writes `g` of the kernel's FTZ and its operands writes every function that is equal to `g`. -/
theorem wordResult_of_ftz_eq {i : Instr} {f : Fields} {srcs : List (BitVec 8)} {g g' : Bool → List Word → Word × Word}
    (h : ∀ s, exec i s = issued i (ftzOp f srcs g) s) (hg : ∀ z l, g z l = g' z l) : WordResult i f srcs g' := by
  obtain rfl : g = g' := funext fun z => funext (hg z)
  exact wordResult_of_ftz h

/-- MOD bits 1:0 are the rounding mode (R74). -/
theorem rmOf_eq (f : Fields) : rmOf f = modeOf (f.xmod.toNat % 4) :=
  congrArg modeOf (fieldsMod_zero f 2)

/-! ### Comparison with zero (R145) -/

/-- Scaling a significand up keeps its sign. -/
theorem signed_mul_two_pow (n : Bool) (m k : Nat) : signed n (m * 2 ^ k) = signed n m * 2 ^ k := by
  cases n <;> simp [signed]

/-- A value compares with +0 alike, whatever exponent the zero is held with. -/
theorem cmpVal_zero (v : FVal) (e : Int) : cmpVal v (.fin false 0 e) = cmpVal v (.fin false 0 0) := by
  cases v with
  | nan s => rfl
  | inf n => rfl
  | fin n m e' =>
    have hzero (k : Nat) : signed false (0 * 2 ^ k) = 0 := by simp [signed]
    have hneg (k : Nat) : signed n m * 2 ^ k < 0 ↔ signed n m < 0 := by
      simpa using mul_lt_mul_iff_of_pos_right (b := signed n m) (c := 0) (show (0 : Int) < 2 ^ k by positivity)
    have heq (k : Nat) : (signed n m * 2 ^ k == 0) = (signed n m == 0) := by simp [Bool.beq_eq_decide_eq]
    simp only [cmpVal, hzero, signed_mul_two_pow, hneg, heq]

/-- A condition on a value and the pattern 0 is one on the value and +0. -/
theorem fcond_zero (n : Nat) (v : FVal) : fcond n v (f32.decode 0) = fcond n v (.fin false 0 0) := by
  have hdecode : f32.decode 0 = .fin false 0 (-149) := by decide
  rw [hdecode, fcond, cmpVal_zero]
  rfl

/-! ### The sign of a word (R148) -/

/-- A word with its sign bit replaced, bit by bit. -/
theorem ofBool_append_eq_ofFnLE (s : Bool) (a : Word) :
    (BitVec.ofBool s ++ a.extractLsb' 0 31 : Word) = BitVec.ofFnLE fun i => if i.val < 31 then a[i] else s := by
  apply BitVec.eq_of_getLsbD_eq
  intro i hi
  rw [BitVec.getLsbD_append, BitVec.getLsbD_ofFnLE, dif_pos hi]
  by_cases h : i < 31
  · simp [h, BitVec.getLsbD_eq_getElem hi]
  · simp [show i = 31 by omega]

/-! ### The instructions (R142 to R148) -/

/-- The F32 instructions by the functions of their meanings, the comparison as one bit replaced, the selection as a
comparison with +0, the copied sign as the top bit of a word. -/
theorem f32Results : Claims.FloatResults := by
  intro f rm sat o
  have hrm : rm = rmOf f := (rmOf_eq f).symm
  rw [hrm, ← mod_zero_one]
  refine ⟨wordResult_of_ftz fun _ => rfl, wordResult_of_ftz fun _ => rfl, wordResult_of_ftz fun _ => rfl,
    wordResult_of_ftz fun _ => rfl, wordResult_of_ftz fun _ => rfl, wordResult_of_ftz fun _ => rfl,
    wordResult_of_ftz_eq (fun _ => rfl) fun z l => ?fcmp, wordResult_of_eq (fun _ => rfl) fun l => ?fsel,
    wordResult_of_ftz fun _ => rfl, wordResult_of fun _ => rfl, result2_of (fun _ => rfl) fun a b => ?fcpysgn⟩
  case fcmp =>
    simp only [combBit, ofNat_setBit, cmpPos_eq]
    rfl
  case fsel =>
    rw [fcond_zero, fieldsMod_zero]
    rfl
  case fcpysgn =>
    refine (ofBool_append_eq_ofFnLE _ a).trans ?_
    rw [fieldsMod_zero]
    rfl

/-- The packed F16 instructions half by half. -/
theorem packedHalfResults : Claims.PackedHalfResults := by
  intro f rm sat nan o half src both
  have hrm : rm = rmOf f := (rmOf_eq f).symm
  have hnan : nan = (f.mod 0 1 == 1) := congrArg (· == 1) (mod_zero_one f).symm
  rw [hrm, hnan]
  exact ⟨wordResult_of_ftz fun _ => rfl, wordResult_of_ftz fun _ => rfl, wordResult_of_ftz fun _ => rfl,
    wordResult_of_ftz fun _ => rfl, wordResult_of_ftz fun _ => rfl⟩

/-- Settles O7: each F32 instruction by the function of its meaning, each packed one by its two halves. -/
theorem floatResults : Obligations.FloatResults :=
  ⟨f32Results, packedHalfResults⟩

end Sys2Proof.Laws

/-! SUPPORT. What the device does in memory for itself (translations, stores, fault records) leaves every sheaf as it is. -/

namespace Sys2Proof.Machine

/-- What no step of a fold changes is unchanged after it. -/
theorem foldl_keeps {α σ β : Type} (p : σ → β) {f : σ → α → σ} (h : ∀ x a, p (f x a) = p x) (l : List α) (x : σ) :
    p (l.foldl f x) = p x :=
  (List.foldl_hom p fun x a => (h x a).symm).symm.trans (List.foldl_fixed l)

/-- Steps of which none changes the sheaves leave them as they are. -/
theorem each_sheaves {α : Type} {f : α → State → State} (h : ∀ a s, (f a s).sheaves = s.sheaves) (l : List α) (s : State) :
    (each l f s).sheaves = s.sheaves :=
  foldl_keeps State.sheaves (fun s a => h a s) l s

/-! ### Bytes at their home -/

@[simp] theorem State.remember_sheaves (s : State) (key : Nat) (old : List Byte) : (s.remember key old).sheaves = s.sheaves := by
  unfold State.remember
  split <;> rfl

@[simp] theorem State.poke_sheaves (s : State) (pa : Nat) (bs : List Byte) : (s.poke pa bs).sheaves = s.sheaves :=
  s.remember_sheaves ..

@[simp] theorem State.pokePeer_sheaves (s : State) (pkg pa : Nat) (bs : List Byte) :
    (s.pokePeer pkg pa bs).sheaves = s.sheaves :=
  s.remember_sheaves ..

@[simp] theorem State.setCode_sheaves (s : State) (d pa code : Nat) : (s.setCode d pa code).sheaves = s.sheaves :=
  s.poke_sheaves ..

@[simp] theorem State.expand_sheaves (s : State) (d pa : Nat) : (s.expand d pa).sheaves = s.sheaves := by
  unfold State.expand
  dsimp only
  split
  · rfl
  · split
    · exact s.poke_sheaves ..
    · exact (State.setCode_sheaves ..).trans (s.poke_sheaves ..)

@[simp] theorem State.keepHot_sheaves (s : State) (pa n : Nat) : (s.keepHot pa n).sheaves = s.sheaves := by
  unfold State.keepHot
  split <;> rfl

/-! ### Translation (R259 to R268) -/

@[simp] theorem State.markEntry_sheaves (s : State) (a : Nat) (acc : Access) : (s.markEntry a acc).sheaves = s.sheaves := by
  unfold State.markEntry
  dsimp only
  split
  · rfl
  · exact s.poke_sheaves ..

@[simp] theorem State.reached_sheaves (s : State) (a : Nat) (acc : Access) (mark : Bool) :
    (s.reached a acc mark).sheaves = s.sheaves := by
  cases mark
  · rfl
  · exact s.markEntry_sheaves a acc

@[simp] theorem State.fillTlb_sheaves (s : State) (core : Option Nat) (t : Trans) : (s.fillTlb core t).sheaves = s.sheaves := by
  cases core <;> rfl

@[simp] theorem State.xlateFresh_sheaves (s : State) (ctx va : Nat) (acc : Access) (priv : Bool) (core : Option Nat)
    (mark : Bool) (die : Option Nat) : (s.xlateFresh ctx va acc priv core mark die).2.sheaves = s.sheaves := by
  unfold State.xlateFresh
  split
  · rfl
  · split
    · rfl
    · rfl
    · dsimp only
      split <;> simp

@[simp] theorem State.xlateCached_sheaves (s : State) (va : Nat) (t : Trans) (acc : Access) (priv mark : Bool)
    (die : Option Nat) : (s.xlateCached va t acc priv mark die).2.sheaves = s.sheaves := by
  unfold State.xlateCached
  dsimp only
  split
  · rfl
  · split <;> simp

@[simp] theorem State.xlate_sheaves (s : State) (ctx va : Nat) (acc : Access) (priv : Bool) (core : Option Nat)
    (mark : Bool) (die : Option Nat) : (s.xlate ctx va acc priv core mark die).2.sheaves = s.sheaves := by
  unfold State.xlate
  dsimp only
  split
  · rfl
  · split
    · simp
    · split
      · simp
      · split <;> simp

/-! ### Plural cells (R302 to R307, R315) -/

theorem State.putPcell_sheaves {s t : State} {r : PRegion} {pa size : Nat} {c : PCell} (h : s.putPcell r pa size c = some t) :
    t.sheaves = s.sheaves := by
  obtain ⟨x, -, rfl⟩ := Option.map_eq_some_iff.1 h
  exact State.poke_sheaves ..

theorem State.getD_putPcell_sheaves (s : State) (r : PRegion) (pa size : Nat) (c : PCell) :
    ((s.putPcell r pa size c).getD s).sheaves = s.sheaves := by
  cases h : s.putPcell r pa size c with
  | none => rfl
  | some t => exact State.putPcell_sheaves h

@[simp] theorem State.blur_sheaves (s : State) (r : PRegion) (pa size : Nat) : (s.blur r pa size).sheaves = s.sheaves := by
  unfold State.blur
  dsimp only
  split
  next t h => simpa [State.openSibs] using State.putPcell_sheaves h
  next => simp [State.getD_putPcell_sheaves, State.openSibs]

@[simp] theorem State.unsettle_sheaves (s : State) (c : Ctx) (l : Leaf) (n : Nat) : (s.unsettle c l n).sheaves = s.sheaves := by
  unfold State.unsettle
  split
  · rfl
  · split
    · rfl
    · split <;> exact each_sheaves (fun _ _ => by simp) _ _

theorem State.addSibling_sheaves {s t : State} {r : PRegion} {pa size v : Nat} {c d : PCell} {keep : List (Nat × Nat)}
    (h : s.addSibling r pa size c keep v = .ok (t, d)) : t.sheaves = s.sheaves := by
  simp only [State.addSibling] at h
  split at h
  · cases h
  · split at h
    next hq =>
      cases h
      exact State.putPcell_sheaves hq
    next => cases h

theorem State.blindWrite_sheaves {s t : State} {r : PRegion} {cell size off : Nat} {bs : List Byte}
    (h : s.blindWrite r cell size off bs = .ok t) : t.sheaves = s.sheaves := by
  simp only [State.blindWrite] at h
  split at h
  next q c hq =>
    obtain rfl := Except.ok.inj h
    exact State.addSibling_sheaves hq
  next => cases h

@[simp] theorem State.blindWrites_sheaves (s : State) (c : Ctx) (l : Leaf) (bs : List Byte) :
    (s.blindWrites c l bs).2.sheaves = s.sheaves := by
  unfold State.blindWrites
  split
  · rfl
  · refine (foldl_keeps (fun q : Option (Nat × Nat) × State => q.2.sheaves) (fun acc p => ?_) _ _).trans (s.unsettle_sheaves ..)
    split
    next t h => exact State.blindWrite_sheaves h
    next => rfl

@[simp] theorem State.blurCell_sheaves (s : State) (r : PRegion) (o : Nat) : (s.blurCell r o).sheaves = s.sheaves := by
  unfold State.blurCell
  dsimp only
  split <;> simp [apply_ite State.sheaves]

@[simp] theorem State.blurOwned_sheaves (s : State) (r : PRegion) (pa n : Nat) : (s.blurOwned r pa n).sheaves = s.sheaves := by
  unfold State.blurOwned
  exact (each_sheaves (fun _ _ => State.blurCell_sheaves ..) _ _).trans (each_sheaves (fun _ _ => State.blurCell_sheaves ..) _ _)

/-! ### Accesses that the device makes (R188, R288, R315, R421) -/

@[simp] theorem State.plainStore_sheaves (s : State) (pa : Nat) (bs : List Byte) : (s.plainStore pa bs).sheaves = s.sheaves := by
  unfold State.plainStore
  dsimp only
  split
  · exact s.poke_sheaves ..
  · exact (each_sheaves (fun _ _ => State.blurOwned_sheaves ..) _ _).trans (s.poke_sheaves ..)

@[simp] theorem State.homeStore_sheaves (s : State) (c : Ctx) (l : Leaf) (bs : List Byte) :
    (s.homeStore c l bs).sheaves = s.sheaves := by
  unfold State.homeStore
  dsimp only
  split
  · exact s.pokePeer_sheaves ..
  · split
    · rfl
    · rw [keepHot_sheaves, plainStore_sheaves]
      exact each_sheaves (fun _ _ => State.expand_sheaves ..) _ _

@[simp] theorem State.devPost_sheaves (s : State) (ctx va : Nat) (core : Option Nat) (l : Leaf) (bs : List Byte) :
    (s.devPost ctx va core l bs).sheaves = s.sheaves :=
  each_sheaves (fun _ q => q.fresh.2.modBase_sheaves ..) _ _

@[simp] theorem State.devLoad_sheaves (s : State) (ctx va n : Nat) (priv : Bool) (core die : Option Nat) :
    (s.devLoad ctx va n priv core die).2.sheaves = s.sheaves := by
  refine foldl_keeps (fun q : Except (Nat × Nat) (List Byte × Bool) × State => q.2.sheaves) (fun acc p => ?_) _ _
  dsimp only
  split
  · rfl
  · have hx := acc.2.xlate_sheaves ctx p.1 .load priv core true die
    split <;> simp only [*] at hx
    · exact hx
    · exact hx
    · exact hx
    · split <;> simp [hx]

@[simp] theorem State.devStorePiece_sheaves (s : State) (ctx va : Nat) (bs : List Byte) (priv : Bool) (core die : Option Nat) :
    (s.devStorePiece ctx va bs priv core die).2.sheaves = s.sheaves := by
  unfold State.devStorePiece
  have hx := s.xlate_sheaves ctx va .store priv core true die
  split <;> simp only [*] at hx
  · exact hx
  · exact hx
  · exact hx
  · next l q _ =>
    split
    · exact hx
    · split
      · simp [hx]
      · split
        · have hb := q.blindWrites_sheaves (q.ctx ctx) l bs
          split <;> simp_all
        · simp [hx]

@[simp] theorem State.devStore_sheaves (s : State) (ctx va : Nat) (bs : List Byte) (priv : Bool) (core die : Option Nat) :
    (s.devStore ctx va bs priv core die).2.sheaves = s.sheaves := by
  refine foldl_keeps (fun q : Except (Nat × Nat) Unit × State => q.2.sheaves) (fun acc p => ?_) _ _
  split
  · rfl
  · exact State.devStorePiece_sheaves ..

@[simp] theorem State.devNum_sheaves (s : State) (ctx va n : Nat) (priv : Bool) (die : Option Nat) :
    (s.devNum ctx va n priv die).2.sheaves = s.sheaves := by
  unfold State.devNum
  have hl := s.devLoad_sheaves ctx va n priv none die
  split <;> simpa only [*] using hl

/-! ### Fault records (R431, R433, R448) -/

@[simp] theorem State.recordLost_sheaves (s : State) (ctx base : Nat) : (s.recordLost ctx base).sheaves = s.sheaves := by
  unfold State.recordLost
  have hn := s.devNum_sheaves ctx (base + 16) 8 true none
  split <;> simp_all

@[simp] theorem State.tryRecord_sheaves (s : State) (ctx : Nat) (bs : List Byte) :
    (s.tryRecord ctx bs).2.sheaves = s.sheaves := by
  unfold State.tryRecord
  extract_lets drop c base total n
  have hdrop (q : State) : (drop q).2.sheaves = q.sheaves := by simp [drop]
  split
  · rfl
  · have hw := s.devNum_sheaves ctx base 8 true none
    split <;> simp only [*] at hw
    · exact (hdrop _).trans hw
    · next w q _ =>
      have hr := q.devNum_sheaves ctx (base + 8) 8 true none
      split <;> simp only [*] at hr
      · exact (hdrop _).trans hr
      · next p _ =>
        extract_lets w r wraps need room stores
        split
        · simp [hr]
        · generalize hx : List.foldl _ _ _ = x
          have hp : x.2.sheaves = s.sheaves := by
            rw [← hx, ← hr]
            refine foldl_keeps (fun y : Bool × State => y.2.sheaves) (fun y a => ?_) _ _
            split
            · rfl
            · have hd := y.2.devStore_sheaves ctx a.1 a.2 true none none
              split <;> simpa only [*] using hd
          split
          · exact hp
          · exact (hdrop _).trans hp

@[simp] theorem State.record_sheaves (s : State) (ctx : Nat) (bs : List Byte) : (s.record ctx bs).sheaves = s.sheaves :=
  s.tryRecord_sheaves ..

@[simp] theorem State.contextFault_sheaves (s : State) (ctx : Nat) (i : FaultInfo) (sid : Option Nat) :
    (s.contextFault ctx i sid).sheaves = s.sheaves := by
  unfold State.contextFault
  split
  · exact s.record_sheaves ..
  · rfl

end Sys2Proof.Machine

/-! SUPPORT. Taking an exception (R425 to R427, R430): where the threads of a sheaf stand at the handler's entry, and what
is kept. -/

namespace Sys2Proof.Laws

open Machine

/-- A thread that has exited does not enter the handler. -/
theorem enter_of_exited {th : Thread} (h : th.st = .exited) (pc : BitVec 64) : th.enter pc = th :=
  if_pos h

/-- A thread that has not exited stands at the handler, privileged; of the rest only its scratch and its resume address
change. -/
theorem enter_of_live {th : Thread} (h : th.st ≠ .exited) (pc : BitVec 64) :
    th.enter pc = { th with st := .ready, epc := wordAddr th.pc th.word, mid := th.word, ks := [0, 0, 0, 0], priv := true
                            pc := pc, word := none, stood := none } :=
  if_neg h

/-- Every thread of a sheaf enters by itself. -/
theorem enterHandler_thread {sh : Sheaf} {u : Nat} (h : u < sh.threads.length) (pc : BitVec 64) (e : Entry) :
    (sh.enterHandler pc e).thread u = (sh.thread u).enter pc := by
  simp [Sheaf.thread, Sheaf.enterHandler, h]

/-- A sheaf that owes an entry parks for it. -/
theorem sheafPark_eq {s : State} {sid : Nat} {e : Entry} (he : (s.sheaf sid).entry = some e) :
    execSheafPark sid s = .next (s.modSheaf sid fun sh =>
      sh.parkRest (if e.code = 0x19 then .doubleFault else .handler)) := by
  simp only [execSheafPark, he]

/-- A sheaf whose handler has faulted parks, owes no entry any more, and its fault is reported with the inner code as
sub-code. -/
theorem doubleFault_eq {s : State} {sid : Nat} {e : Entry} (he : (s.sheaf sid).entry = some e) (hc : e.code = 0x19)
    (hr : (s.sheaf sid).run = none) :
    execDoubleFault sid s = .next
      ((s.modSheaf sid fun sh => { sh.parkRest .doubleFault with entry := none }).contextFault (s.sheaf sid).ctx
        { code := 0x19, sub := e.sub.toNat, pc := e.pc.toNat, addr := e.addr.toNat, gen := (s.sheaf sid).gen.toNat
          slot := slotOf sid, core := coreOf sid, die := baseOfCore (coreOf sid), mask := e.mask.toNat } (some sid)) := by
  simp only [execDoubleFault, he]
  rw [if_neg (by simp [hc, hr])]

/-- Settles O41: the handler's entry thread by thread; the report of a double fault changes memory and the context, so the
sheaf's entry stays off. -/
theorem takingAnException : Obligations.TakingAnException := by
  intro s sid e hs he
  refine ⟨fun hc hh hp hd hl => ?entry, ?park, fun hc hr => ?double⟩
  case entry =>
    have hsh := State.sheaf_modSheaf (fun sh => sh.enterHandler (BitVec.ofNat 64 (s.ctx sh.ctx).handler) e) hs
    refine ⟨_, handlerEntry_eq he hc hh hp hd hl, ?_⟩
    simp only [hsh]
    refine ⟨rfl, rfl, rfl, rfl, fun hfa => if_neg (by simpa using hfa), rfl, rfl, rfl, fun u hu => ?_⟩
    simp only [enterHandler_thread hu]
    exact ⟨fun hx => enter_of_exited hx _, fun hx => by simp [enter_of_live hx]⟩
  case park => exact sheafPark_eq he
  case double =>
    refine ⟨_, doubleFault_eq he hc hr, ?_⟩
    rw [State.sheaf, State.contextFault_sheaves]
    exact congrArg Sheaf.entry (State.sheaf_modSheaf _ hs)

end Sys2Proof.Laws

/-! SUPPORT. The encoding (R30 to R45): the fields of a word are the fields that made it, a word is made of its fields, and
so decoding and encoding undo each other. -/

namespace Sys2Proof.Laws

open Machine

/-! ### Opcode numbers and cells (R41, R43, R44) -/

set_option maxRecDepth 4000 in
/-- The instruction of an opcode number has that number and those fields. -/
theorem isa_of_ofOpcode {n : Nat} {f : Fields} {i : Instr} (h : ofOpcode n f = some i) :
    ∃ m, i.isa? = some (n, m, f) := by
  unfold ofOpcode at h
  split at h
  all_goals
    cases h
    try exact ⟨_, rfl⟩

/-- An instruction with an opcode number stands at it. -/
theorem ofOpcode_of_isa {i : Instr} {op : Nat} {m : Form} {f : Fields} (h : i.isa? = some (op, m, f)) :
    ofOpcode op f = some i := by
  cases i
  all_goals
    cases h
    try rfl

/-- Opcode numbers have ten bits. -/
theorem isa_lt {i : Instr} {op : Nat} {m : Form} {f : Fields} (h : i.isa? = some (op, m, f)) : op < 1024 := by
  cases i
  all_goals
    cases h
    try decide

/-- What a cell holds (R44). -/
theorem ofCell_eq_some {n : Nat} {f : Fields} {i : Instr} :
    ofCell n f = some i ↔ ∃ m, i.isa? = some (n, m, f) ∧ m.has f.long = true := by
  constructor
  · intro h
    unfold ofCell formOf at h
    cases ho : ofOpcode n f with
    | none => simp [ho] at h
    | some j =>
      obtain ⟨m, hm⟩ := isa_of_ofOpcode ho
      simp only [ho, Option.bind_some, hm, Option.any_some] at h
      split at h
      · next hf => cases h; exact ⟨m, hm, hf⟩
      · cases h
  · rintro ⟨m, hm, hf⟩
    simp [ofCell, formOf, ofOpcode_of_isa hm, hm, hf]

/-! ### Fields of words (R31 to R33) -/

/-- Two fields side by side, as a number. -/
theorem toNat_append_eq_add {v w : Nat} (x : BitVec v) (y : BitVec w) :
    (x ++ y).toNat = x.toNat * 2 ^ w + y.toNat := by
  rw [BitVec.toNat_append, ← Nat.shiftLeft_add_eq_or_of_lt y.isLt, Nat.shiftLeft_eq]

/-- A field of a word, as a number. -/
theorem extract_eq_of_toNat {n m s : Nat} {w : BitVec n} {x : BitVec m} (h : w.toNat / 2 ^ s % 2 ^ m = x.toNat) :
    w.extractLsb' s m = x := by
  apply BitVec.eq_of_toNat_eq
  rw [BitVec.extractLsb'_toNat, Nat.shiftRight_eq_div_pow, h]

theorem toNat_extract {n : Nat} (w : BitVec n) (s m : Nat) : (w.extractLsb' s m).toNat = w.toNat / 2 ^ s % 2 ^ m := by
  rw [BitVec.extractLsb'_toNat, Nat.shiftRight_eq_div_pow]

theorem guard_bits_toNat (g : Guard) : g.bits.toNat = g.reg.toNat * 64 + g.bit.toNat * 2 + g.neg.toNat := by
  change (g.reg ++ g.bit ++ BitVec.ofBool g.neg : BitVec (8 + 5 + 1)).toNat = _
  simp only [toNat_append_eq_add, BitVec.toNat_ofBool]
  omega

@[simp] theorem guard_ofBits_bits (g : Guard) : Guard.ofBits g.bits = g := by
  have h := guard_bits_toNat g
  have hb := g.bit.isLt
  have hn : g.neg.toNat ≤ 1 := Bool.toNat_le g.neg
  have h0 : g.bits.getLsbD 0 = g.neg := by
    rw [BitVec.getLsbD, Nat.testBit_zero, h]
    cases g.neg <;> simp <;> omega
  have h1 : g.bits.extractLsb' 6 8 = g.reg := extract_eq_of_toNat (by omega)
  have h2 : g.bits.extractLsb' 1 5 = g.bit := extract_eq_of_toNat (by omega)
  simp only [Guard.ofBits, h0, h1, h2]

@[simp] theorem guard_bits_ofBits (w : BitVec 14) : (Guard.ofBits w).bits = w := by
  apply BitVec.eq_of_toNat_eq
  have h0 : (w.getLsbD 0).toNat = w.toNat % 2 := by
    rw [BitVec.getLsbD, Nat.testBit_zero]
    have := Nat.mod_two_eq_zero_or_one w.toNat
    rcases this with h | h <;> simp [h]
  simp only [guard_bits_toNat, Guard.ofBits, toNat_extract, h0]
  omega

/-- A full form's fields: those of the long form are what the form stands for (R31). -/
structure FullFields (f : Fields) : Prop where
  long : f.long = false
  e : f.e = 0xF0
  imm : f.imm = 0
  hint : f.hint = 0
  g2 : f.g2 = Guard.always
  xmod : f.xmod.toNat < 64

theorem fullFields_full (w : BitVec 64) : FullFields (fullFields w) := by
  refine ⟨rfl, rfl, rfl, rfl, rfl, ?_⟩
  have := (w.extractLsb' 0 6).isLt
  simp only [fullFields, BitVec.truncate_eq_setWidth, BitVec.toNat_setWidth]
  omega

theorem fullWord_toNat {op : Nat} (h : op < 1024) (f : Fields) : (fullWord op f).toNat =
    op * 2 ^ 52 + f.d.toNat * 2 ^ 44 + f.a.toNat * 2 ^ 36 + f.b.toNat * 2 ^ 28 + f.c.toNat * 2 ^ 20 +
      f.g1.bits.toNat * 2 ^ 6 + f.xmod.toNat % 64 := by
  change ((0b00 : BitVec 2) ++ BitVec.ofNat 10 op ++ f.d ++ f.a ++ f.b ++ f.c ++ f.g1.bits ++
    f.xmod.extractLsb' 0 6 : BitVec (2 + 10 + 8 + 8 + 8 + 8 + 14 + 6)).toNat = _
  simp only [toNat_append_eq_add, toNat_extract, BitVec.toNat_ofNat, BitVec.reduceToNat, Nat.pow_zero, Nat.div_one]
  omega

theorem longWord0_toNat {op : Nat} (h : op < 1024) (f : Fields) : (longWord0 op f).toNat =
    2 * 2 ^ 62 + op * 2 ^ 52 + f.d.toNat * 2 ^ 44 + f.a.toNat * 2 ^ 36 + f.b.toNat * 2 ^ 28 + f.c.toNat * 2 ^ 20 +
      f.e.toNat * 2 ^ 12 + f.xmod.toNat := by
  change ((0b10 : BitVec 2) ++ BitVec.ofNat 10 op ++ f.d ++ f.a ++ f.b ++ f.c ++ f.e ++ f.xmod :
    BitVec (2 + 10 + 8 + 8 + 8 + 8 + 8 + 12)).toNat = _
  simp only [toNat_append_eq_add, BitVec.toNat_ofNat, BitVec.reduceToNat]
  omega

theorem longWord1_toNat (f : Fields) : (longWord1 f).toNat =
    f.imm.toNat * 2 ^ 32 + f.g1.bits.toNat * 2 ^ 18 + f.g2.bits.toNat * 2 ^ 4 + f.hint.toNat := by
  change (f.imm ++ f.g1.bits ++ f.g2.bits ++ f.hint : BitVec (32 + 14 + 14 + 4)).toNat = _
  simp only [toNat_append_eq_add]
  omega

theorem pairWord64_toNat (x y : Slot) : (pairWord64 x y).toNat =
    1 * 2 ^ 62 + x.op.code.toNat * 2 ^ 55 + x.d.toNat * 2 ^ 47 + x.a.toNat * 2 ^ 39 + x.b.toNat * 2 ^ 31 +
      y.op.code.toNat * 2 ^ 24 + y.d.toNat * 2 ^ 16 + y.a.toNat * 2 ^ 8 + y.b.toNat := by
  change ((0b01 : BitVec 2) ++ x.op.code ++ x.d ++ x.a ++ x.b ++ y.op.code ++ y.d ++ y.a ++ y.b :
    BitVec (2 + 7 + 8 + 8 + 8 + 7 + 8 + 8 + 8)).toNat = _
  simp only [toNat_append_eq_add, BitVec.reduceToNat]
  omega

/-- The full form's word has form 0, the opcode and the fields. -/
theorem fullWord_fields {op : Nat} (ho : op < 1024) {f : Fields} (hf : FullFields f) :
    (fullWord op f).extractLsb' 62 2 = 0b00 ∧ ((fullWord op f).extractLsb' 52 10).toNat = op ∧
      fullFields (fullWord op f) = f := by
  have h := fullWord_toNat ho f
  obtain ⟨long, d, a, b, c, e, xmod, imm, g1, g2, hint⟩ := f
  obtain ⟨rfl, rfl, rfl, rfl, rfl, hx⟩ := hf
  generalize fullWord op _ = w at h ⊢
  dsimp only at h hx
  have hd : w.extractLsb' 44 8 = d := extract_eq_of_toNat (by omega)
  have ha : w.extractLsb' 36 8 = a := extract_eq_of_toNat (by omega)
  have hb : w.extractLsb' 28 8 = b := extract_eq_of_toNat (by omega)
  have hc : w.extractLsb' 20 8 = c := extract_eq_of_toNat (by omega)
  have hg : w.extractLsb' 6 14 = g1.bits := extract_eq_of_toNat (by omega)
  have hm : (w.extractLsb' 0 6).zeroExtend 12 = xmod := by
    apply BitVec.eq_of_toNat_eq
    simp only [BitVec.toNat_setWidth, toNat_extract]
    omega
  refine ⟨extract_eq_of_toNat ?_, ?_, ?_⟩
  · simp only [BitVec.reduceToNat]
    omega
  · rw [toNat_extract]
    omega
  · simp only [fullFields, hd, ha, hb, hc, hg, hm, guard_ofBits_bits]

/-- The long form's words have form 2, the opcode and the fields. -/
theorem longWords_fields {op : Nat} (ho : op < 1024) {f : Fields} (hf : f.long = true) :
    (longWord0 op f).extractLsb' 62 2 = 0b10 ∧ ((longWord0 op f).extractLsb' 52 10).toNat = op ∧
      longFields (longWord0 op f) (longWord1 f) = f := by
  have h0 := longWord0_toNat ho f
  have h1 := longWord1_toNat f
  obtain ⟨long, d, a, b, c, e, xmod, imm, g1, g2, hint⟩ := f
  obtain rfl : long = true := hf
  generalize longWord0 op _ = w at h0 ⊢
  generalize longWord1 _ = v at h1 ⊢
  dsimp only at h0 h1
  have hd : w.extractLsb' 44 8 = d := extract_eq_of_toNat (by omega)
  have ha : w.extractLsb' 36 8 = a := extract_eq_of_toNat (by omega)
  have hb : w.extractLsb' 28 8 = b := extract_eq_of_toNat (by omega)
  have hc : w.extractLsb' 20 8 = c := extract_eq_of_toNat (by omega)
  have he : w.extractLsb' 12 8 = e := extract_eq_of_toNat (by omega)
  have hm : w.extractLsb' 0 12 = xmod := extract_eq_of_toNat (by omega)
  have hi : v.extractLsb' 32 32 = imm := extract_eq_of_toNat (by omega)
  have hg1 : v.extractLsb' 18 14 = g1.bits := extract_eq_of_toNat (by omega)
  have hg2 : v.extractLsb' 4 14 = g2.bits := extract_eq_of_toNat (by omega)
  have hh : v.extractLsb' 0 4 = hint := extract_eq_of_toNat (by omega)
  refine ⟨extract_eq_of_toNat ?_, ?_, ?_⟩
  · simp only [BitVec.reduceToNat]
    omega
  · rw [toNat_extract]
    omega
  · simp only [longFields, hd, ha, hb, hc, he, hm, hi, hg1, hg2, hh, guard_ofBits_bits]

/-- A word of a form is its fields laid side by side. -/
theorem fullWord_fullFields {w : BitVec 64} (h : w.extractLsb' 62 2 = 0b00) :
    fullWord (w.extractLsb' 52 10).toNat (fullFields w) = w := by
  have ht := congrArg BitVec.toNat h
  apply BitVec.eq_of_toNat_eq
  rw [fullWord_toNat (w.extractLsb' 52 10).isLt]
  simp only [fullFields, guard_bits_ofBits, BitVec.toNat_setWidth, toNat_extract,
    BitVec.reduceToNat] at ht ⊢
  have := w.isLt
  omega

theorem longWord0_longFields {w : BitVec 64} (h : w.extractLsb' 62 2 = 0b10) (w1 : BitVec 64) :
    longWord0 (w.extractLsb' 52 10).toNat (longFields w w1) = w := by
  have ht := congrArg BitVec.toNat h
  apply BitVec.eq_of_toNat_eq
  rw [longWord0_toNat (w.extractLsb' 52 10).isLt]
  simp only [longFields, toNat_extract, BitVec.reduceToNat] at ht ⊢
  have := w.isLt
  omega

theorem longWord1_longFields (w w1 : BitVec 64) : longWord1 (longFields w w1) = w1 := by
  apply BitVec.eq_of_toNat_eq
  rw [longWord1_toNat]
  simp only [longFields, guard_bits_ofBits, toNat_extract]
  have := w1.isLt
  omega

/-! ### Pair words (R33, R45) -/

theorem pairOp_ofCode_code (o : PairOp) : PairOp.ofCode o.code.toNat = some o := by
  cases o <;> rfl

theorem pairOp_code_of_ofCode {c : BitVec 7} {o : PairOp} (h : PairOp.ofCode c.toNat = some o) : o.code = c := by
  apply BitVec.eq_of_toNat_eq
  generalize c.toNat = n at h ⊢
  unfold PairOp.ofCode at h
  split at h
  all_goals
    cases h
    try rfl

/-- A pair word has form 1 and its slots. -/
theorem pairWord64_fields (x y : Slot) (hx : x.op.inX = true) (hy : y.op.inY = true) :
    (pairWord64 x y).extractLsb' 62 2 = 0b01 ∧ pairSlots (pairWord64 x y) = some (.pairWord x y) := by
  have h := pairWord64_toNat x y
  generalize pairWord64 x y = w at h ⊢
  have hox : w.extractLsb' 55 7 = x.op.code := extract_eq_of_toNat (by omega)
  have hdx : w.extractLsb' 47 8 = x.d := extract_eq_of_toNat (by omega)
  have hax : w.extractLsb' 39 8 = x.a := extract_eq_of_toNat (by omega)
  have hbx : w.extractLsb' 31 8 = x.b := extract_eq_of_toNat (by omega)
  have hoy : w.extractLsb' 24 7 = y.op.code := extract_eq_of_toNat (by omega)
  have hdy : w.extractLsb' 16 8 = y.d := extract_eq_of_toNat (by omega)
  have hay : w.extractLsb' 8 8 = y.a := extract_eq_of_toNat (by omega)
  have hby : w.extractLsb' 0 8 = y.b := extract_eq_of_toNat (by omega)
  refine ⟨extract_eq_of_toNat ?_, ?_⟩
  · simp only [BitVec.reduceToNat]
    omega
  · simp [pairSlots, hox, hdx, hax, hbx, hoy, hdy, hay, hby, pairOp_ofCode_code, hx, hy]

/-- The slots of a pair word make it. -/
theorem pairWord64_of_pairSlots {w : BitVec 64} {i : Instr} (hw : w.extractLsb' 62 2 = 0b01)
    (h : pairSlots w = some i) :
    ∃ x y, i = .pairWord x y ∧ x.op.inX = true ∧ y.op.inY = true ∧ pairWord64 x y = w := by
  unfold pairSlots at h
  split at h
  · next ox oy hx hy =>
    split at h
    · next hin =>
      cases h
      obtain ⟨hinx, hiny⟩ := Bool.and_eq_true_iff.mp hin
      refine ⟨_, _, rfl, hinx, hiny, ?_⟩
      have ht := congrArg BitVec.toNat hw
      apply BitVec.eq_of_toNat_eq
      rw [pairWord64_toNat]
      simp only [pairOp_code_of_ofCode hx, pairOp_code_of_ofCode hy, toNat_extract, BitVec.reduceToNat] at ht ⊢
      have := w.isLt
      omega
    · cases h
  · cases h

/-! ### Both ways -/

theorem orOpcode_eq_ok {o : Option Instr} {i : Instr} : orOpcode o = .ok i ↔ o = some i := by
  cases o <;> simp [orOpcode]

/-- What `encodable` and `encode` say of an instruction with an opcode number. -/
theorem encode_of_isa {i : Instr} {op : Nat} {m : Form} {f : Fields} (h : i.isa? = some (op, m, f)) :
    i.encodable = (m.has f.long && (f.long || (f.e == 0xF0 && f.imm == 0 && f.hint == 0 && f.g2 == Guard.always &&
      f.xmod.toNat < 64))) ∧
    encode i = if f.long then [longWord0 op f, longWord1 f] else [fullWord op f] := by
  cases i
  all_goals
    cases h
    try exact ⟨rfl, rfl⟩

/-- An opcode with the fields of a form that it has is encodable. -/
theorem encodable_iff {i : Instr} {op : Nat} {m : Form} {f : Fields} (h : i.isa? = some (op, m, f)) :
    i.encodable = true ↔ m.has f.long = true ∧ (f.long = true ∨ FullFields f) := by
  rw [(encode_of_isa h).1]
  cases hl : f.long with
  | true => simp
  | false =>
    have hf : FullFields f ↔ f.e = 0xF0 ∧ f.imm = 0 ∧ f.hint = 0 ∧ f.g2 = Guard.always ∧ f.xmod.toNat < 64 :=
      ⟨fun ⟨_, e, i, h, g, x⟩ => ⟨e, i, h, g, x⟩, fun ⟨e, i, h, g, x⟩ => ⟨hl, e, i, h, g, x⟩⟩
    simp [hf, and_assoc]

/-- An encodable instruction without an opcode number is a pair word whose slots stand where they may. -/
theorem pairWord_of_encodable {i : Instr} (h : i.isa? = none) (he : i.encodable = true) :
    ∃ x y, i = .pairWord x y ∧ x.op.inX = true ∧ y.op.inY = true := by
  by_cases hp : ∃ x y, i = .pairWord x y
  · obtain ⟨x, y, rfl⟩ := hp
    exact ⟨x, y, rfl, Bool.and_eq_true_iff.mp he⟩
  · unfold Instr.encodable at he
    split at he
    · next x y => exact absurd ⟨x, y, rfl⟩ hp
    · simp [h] at he

/-- What the words of an instruction with an opcode number decode to. -/
theorem decodeList_encode_of_isa {i : Instr} {op : Nat} {m : Form} {f : Fields} (h : i.isa? = some (op, m, f))
    (he : i.encodable = true) (rest : List (BitVec 64)) : decodeList (encode i ++ rest) = .ok (i, rest) := by
  obtain ⟨hm, hf⟩ := (encodable_iff h).mp he
  have ho := isa_lt h
  have hc : ofCell op f = some i := ofCell_eq_some.mpr ⟨m, h, hm⟩
  rw [(encode_of_isa h).2]
  cases hl : f.long with
  | true =>
    obtain ⟨hform, hop, hfields⟩ := longWords_fields ho hl
    simp [decodeList, decode, isLong, hform, hop, hfields, hc, orOpcode]
  | false =>
    obtain ⟨hform, hop, hfields⟩ := fullWord_fields ho (hf.resolve_left (by simp [hl]))
    simp [decodeList, decode, isLong, hform, hop, hfields, hc, orOpcode]

theorem decodeList_encode {i : Instr} (he : i.encodable = true) (rest : List (BitVec 64)) :
    decodeList (encode i ++ rest) = .ok (i, rest) := by
  cases h : i.isa? with
  | some p => exact decodeList_encode_of_isa h he rest
  | none =>
    obtain ⟨x, y, rfl, hx, hy⟩ := pairWord_of_encodable h he
    obtain ⟨hform, hslots⟩ := pairWord64_fields x y hx hy
    simp [encode, decodeList, decode, isLong, hform, hslots, orOpcode]

/-- The three forms that hold an instruction (R30). -/
theorem decode_eq_ok {w0 w1 : BitVec 64} {i : Instr} (h : decode w0 w1 = .ok i) :
    (w0.extractLsb' 62 2 = 0b00 ∧ ofCell (w0.extractLsb' 52 10).toNat (fullFields w0) = some i) ∨
    (w0.extractLsb' 62 2 = 0b01 ∧ pairSlots w0 = some i) ∨
    (w0.extractLsb' 62 2 = 0b10 ∧ ofCell (w0.extractLsb' 52 10).toNat (longFields w0 w1) = some i) := by
  unfold decode at h
  split at h
  · next hw => exact .inl ⟨hw, orOpcode_eq_ok.mp h⟩
  · split at h
    · next hw => exact .inr (.inl ⟨hw, orOpcode_eq_ok.mp h⟩)
    · split at h
      · next hw => exact .inr (.inr ⟨hw, orOpcode_eq_ok.mp h⟩)
      · cases h

/-- Settles O51: the words of each form hold the fields that made them, and a decoded word is its fields laid side by
side. -/
theorem decodeInvertsEncode : Obligations.DecodeInvertsEncode := by
  refine ⟨fun i rest he => decodeList_encode he rest, fun w0 w1 i h => ?_⟩
  rcases decode_eq_ok h with ⟨hw, hc⟩ | ⟨hw, hp⟩ | ⟨hw, hc⟩
  · obtain ⟨m, hi, hm⟩ := ofCell_eq_some.mp hc
    refine ⟨(encodable_iff hi).mpr ⟨hm, .inr (fullFields_full w0)⟩, ?_⟩
    rw [(encode_of_isa hi).2, fullWord_fullFields hw]
    simp [isLong, hw, fullFields]
  · obtain ⟨x, y, rfl, hx, hy, hxy⟩ := pairWord64_of_pairSlots hw hp
    refine ⟨Bool.and_eq_true_iff.mpr ⟨hx, hy⟩, ?_⟩
    simp [encode, isLong, hw, hxy]
  · obtain ⟨m, hi, hm⟩ := ofCell_eq_some.mp hc
    refine ⟨(encodable_iff hi).mpr ⟨hm, .inl rfl⟩, ?_⟩
    rw [(encode_of_isa hi).2, longWord0_longFields hw, longWord1_longFields]
    simp [isLong, hw, longFields]

/-- Settles O52: the decoder evaluated on the printed words. -/
theorem decodeWords : Obligations.DecodeWords := by
  unfold Obligations.DecodeWords
  decide +kernel

end Sys2Proof.Laws

/-! SUPPORT. The step (R16, R28, R37, R95): every move leads to a state, and a step is the meaning of the word that the
chosen sheaf has in hand. -/

namespace Sys2Proof.Laws

open Machine

/-! ### Every move leads to a state -/

/-- Every instruction and event answers a next state: no arm of `exec` stops. -/
theorem exec_next (i : Instr) (s : State) : ∃ t, exec i s = .next t := by
  cases i
  all_goals
    exact ⟨_, rfl⟩

/-- The next word of a sheaf leads to a state. -/
theorem issueWord_next (s : State) (sid : Nat) : ∃ t, s.issueWord sid = .next t := by
  unfold State.issueWord
  split
  · exact ⟨_, rfl⟩
  · split
    · exact ⟨_, rfl⟩
    · split
      · exact exec_next ..
      · exact ⟨_, rfl⟩

theorem issueFirst_next (l : List Nat) (s : State) : ∃ t, State.issueFirst l s = .next t := by
  induction l generalizing s with
  | nil => exact ⟨_, rfl⟩
  | cons sid l ih =>
    unfold State.issueFirst
    split
    · obtain ⟨t, ht⟩ := issueWord_next (s.setCurrent sid) sid
      rw [ht]
      dsimp only
      split
      · exact ih _
      · exact ⟨_, rfl⟩
    · split
      · exact ⟨_, rfl⟩
      · exact ih _

theorem storeRegion_next (s : State) (c r v pa : Nat) : ∃ t, s.storeRegion c r v pa = .next t := by
  unfold State.storeRegion
  split
  all_goals exact ⟨_, rfl⟩

theorem storeWord_next (s : State) (w : Window) (o pa value : Nat) : ∃ t, s.storeWord w o pa value = .next t := by
  cases w
  case weight c =>
    simp only [State.storeWord]
    split
    · exact storeRegion_next ..
    · exact ⟨_, rfl⟩
  all_goals
    simp only [State.storeWord]
    repeat' split
    all_goals exact ⟨_, rfl⟩

theorem storeAt_next (s : State) (pa : Nat) (bs : List Byte) : ∃ t, s.storeAt pa bs = .next t := by
  unfold State.storeAt
  split
  · exact ⟨_, rfl⟩
  · split
    · exact storeWord_next ..
    · split
      · exact ⟨_, rfl⟩
      · exact ⟨_, rfl⟩

theorem move_next (s : State) (m : Move) : ∃ t, s.move m = .next t := by
  cases m with
  | issue core => exact issueFirst_next ..
  | event i =>
    simp only [State.move]
    split
    · exact exec_next ..
    · exact ⟨_, rfl⟩
  | store pa bs =>
    simp only [State.move]
    split
    · exact storeAt_next ..
    · exact ⟨_, rfl⟩
  | tick parts cycles => exact ⟨_, rfl⟩
  | env e => exact ⟨_, rfl⟩

/-- Settles O54: no arm of `exec` stops, and every move ends in one. -/
theorem everyStepGoesOn : Obligations.EveryStepGoesOn :=
  ⟨fun _ => move_next .., exec_next⟩

/-! ### The step runs what is decoded -/

/-- The first move of a schedule. -/
theorem step_of_schedule {s : State} {m : Move} {l : List Move} (h : s.schedule = m :: l) :
    step s = State.move { s with schedule := l, free := s.free + 1 } m := by
  simp only [step, State.nextMove, h]

/-- What a change of a sheaf keeps of it stands in every sheaf. -/
theorem sheaf_modSheaf_keeps {β : Type} (p : Sheaf → β) {f : Sheaf → Sheaf} (hp : ∀ sh, p (f sh) = p sh) (s : State)
    (k j : Nat) : p ((s.modSheaf k f).sheaf j) = p (s.sheaf j) := by
  by_cases h : j = k
  · subst h
    cases hg : s.sheaves.get j with
    | none => simp [State.sheaf, State.modSheaf, hg]
    | some sh => simp [State.sheaf, State.modSheaf, hg, hp]
  · rw [State.sheaf_modSheaf_ne s f h]

/-- A sheaf with a running clause is there. -/
theorem isSome_of_run {s : State} {sid : Nat} {r : ClauseRun} (h : (s.sheaf sid).run = some r) :
    (s.sheaves.get sid).isSome = true := by
  cases hg : s.sheaves.get sid with
  | none => simp [State.sheaf, hg, default, instInhabitedSheaf.default] at h
  | some sh => rfl

theorem run_setCurrent (s : State) (sid k : Nat) : ((s.setCurrent sid).sheaf k).run = (s.sheaf k).run := by
  unfold State.setCurrent
  split
  · rfl
  · rw [sheaf_modSheaf_keeps (·.run) (by intro; rfl)]
    rfl

/-- The core's first sheaf that has a clause runs its word. -/
theorem issueFirst_running {s : State} {sid : Nat} {rest : List Nat} {r : ClauseRun} {t : State}
    (hr : (s.sheaf sid).run = some r) (ht : (s.setCurrent sid).issueWord sid = .next t) :
    State.issueFirst (sid :: rest) s = if (t.sheaf sid).stalled then State.issueFirst rest t else .next t := by
  rw [State.issueFirst, if_pos (by rw [hr]; rfl), ht]

/-- A word that decodes is executed; one that does not traps; behind the last word the clause ends. -/
theorem issueWord_of_decode {s : State} {sid : Nat} {r : ClauseRun} {i : Instr} (hr : (s.sheaf sid).run = some r)
    (hk : r.k < r.words.length) (hd : decode (r.words.getD r.k 0) (r.words.getD (r.k + 1) 0) = .ok i) :
    s.issueWord sid = exec i { s with cur := some sid } := by
  simp only [State.issueWord, hr, ClauseRun.decode, hd]
  rw [if_neg (by omega)]

theorem issueWord_of_undecoded {s : State} {sid : Nat} {r : ClauseRun} {e : Undecoded} (hr : (s.sheaf sid).run = some r)
    (hk : r.k < r.words.length) (hd : decode (r.words.getD r.k 0) (r.words.getD (r.k + 1) 0) = .error e) :
    s.issueWord sid = .next (s.fault sid (groupOf r) r.pc (some r.k) 1 (if e = .form then 5 else 6) (groupOf r) 0) := by
  have he : e.cause = if e = .form then 5 else 6 := by cases e <;> rfl
  simp only [State.issueWord, hr, ClauseRun.decode, hd, ← he]
  rw [if_neg (by omega)]
  rfl

theorem issueWord_at_end {s : State} {sid : Nat} {r : ClauseRun} (hr : (s.sheaf sid).run = some r)
    (hk : r.words.length ≤ r.k) : s.issueWord sid = .next (s.endClause sid) := by
  simp only [State.issueWord, hr, if_pos hk]

/-- A sheaf whose clause has ended has no word in hand to wait. -/
theorem stalled_endClause {s : State} {sid : Nat} {r : ClauseRun} (hr : (s.sheaf sid).run = some r) :
    ((s.endClause sid).sheaf sid).stalled = false := by
  simp only [State.endClause, hr]
  split
  all_goals
    simp only [Sheaf.stalled, Bool.and_eq_false_iff]
    right
    exact congrArg (fun sh => sh.run.isSome) (State.sheaf_modSheaf _ (isSome_of_run hr))

/-- Settles O53: the head of the schedule is the move; a core's move is the word that its first sheaf has in hand. -/
theorem stepRunsDecoded : Obligations.StepRunsDecoded := by
  intro s l s0
  constructor
  · intro core sid rest r hs hl hr q
    have hq : (q.sheaf sid).run = some r := (run_setCurrent ..).trans hr
    have hstep : ∀ t, q.issueWord sid = .next t →
        step s = if (t.sheaf sid).stalled then State.issueFirst rest t else .next t := by
      intro t ht
      rw [step_of_schedule hs]
      change State.issueFirst ((s0.limitRun core).tryOrder core) (s0.limitRun core) = _
      rw [hl, issueFirst_running hr ht]
    refine ⟨fun i t hk hd ht => ?_, fun e hk hd => ?_, fun hk => ?_⟩
    · have h := hstep t (by rw [issueWord_of_decode hq hk hd, ht])
      exact ⟨fun hst => by rw [h, if_neg (by simp [hst])], fun hst => by rw [h, if_pos hst]⟩
    · intro t ht
      rw [hstep t (issueWord_of_undecoded hq hk hd), if_neg (by simp [ht])]
    · rw [hstep _ (issueWord_at_end hq hk), if_neg (by simp [stalled_endClause hq])]
  · intro i hs hi
    rw [step_of_schedule hs]
    simp only [State.move, Regs.released, hi, Bool.true_and]
    exact ⟨fun h => if_pos (by simp [h]), fun h => if_neg (by simpa using h)⟩

/-- Settles O55: the reset state evaluated. -/
theorem resetState : Obligations.ResetState :=
  ⟨rfl, rfl, rfl, rfl, rfl, rfl, rfl, fun _ => rfl, by decide, rfl, rfl, rfl, rfl, rfl, rfl, rfl, rfl, rfl, rfl, by decide,
    State.reset_wf⟩

end Sys2Proof.Laws

/-! SUPPORT. Byte memories in canonical form: what is read after a write, and their equality. -/

namespace Sys2Proof.Laws

open Machine

/-- Below the first address that a canonical form may list nothing is listed. -/
theorem memory_read_below {m : Memory} {lo a : Nat} (h : Memory.wfFrom lo m = true) (ha : a < lo) :
    m.read a = Config.unlistedByte := by
  induction m generalizing lo with
  | nil => rfl
  | cons p m ih =>
    obtain ⟨i, b⟩ := p
    simp only [Memory.wfFrom, Bool.and_eq_true, decide_eq_true_eq] at h
    obtain ⟨⟨hi, -⟩, hm⟩ := h
    rw [Memory.read, if_neg (by omega)]
    exact ih hm (by omega)

/-- A read after a write. -/
theorem memory_read_write {m : Memory} {lo a : Nat} (x : Byte) (b : Nat) (h : Memory.wfFrom lo m = true) (ha : lo ≤ a) :
    (m.write a x).read b = if b = a then x else m.read b := by
  induction m generalizing lo with
  | nil =>
    by_cases hx : x = Config.unlistedByte
    · rw [Memory.write, if_pos hx, hx, Memory.read, ite_self]
    · rw [Memory.write, if_neg hx, Memory.read]
      simp only [eq_comm]
      rfl
  | cons p m ih =>
    obtain ⟨i, c⟩ := p
    have hw := h
    simp only [Memory.wfFrom, Bool.and_eq_true, decide_eq_true_eq] at h
    obtain ⟨⟨hi, -⟩, hm⟩ := h
    unfold Memory.write
    by_cases hlt : a < i
    · rw [if_pos hlt]
      by_cases hx : x = Config.unlistedByte
      · rw [if_pos hx]
        by_cases hb : b = a
        · have hbelow : Memory.read ((i, c) :: m) a = Config.unlistedByte := by
            rw [Memory.read, if_neg (by omega)]
            exact memory_read_below hm (by omega)
          rw [if_pos hb, hb, hbelow, hx]
        · rw [if_neg hb]
      · rw [if_neg hx, Memory.read]
        simp only [eq_comm]
    · rw [if_neg hlt]
      by_cases hia : i = a
      · subst hia
        rw [if_pos rfl]
        by_cases hx : x = Config.unlistedByte
        · rw [if_pos hx]
          by_cases hb : b = i
          · rw [if_pos hb, hb, hx]
            exact memory_read_below hm (by omega)
          · rw [if_neg hb, Memory.read, if_neg (Ne.symm hb)]
        · rw [if_neg hx, Memory.read, Memory.read]
          by_cases hb : b = i
          · simp [hb]
          · simp [hb, Ne.symm hb]
      · rw [if_neg hia, Memory.read, Memory.read, ih hm (by omega)]
        by_cases hib : i = b
        · have : ¬ b = a := by omega
          simp [hib, this]
        · simp [hib]

/-- Canonical memories that read alike are equal. -/
theorem memory_ext {m n : Memory} {lo hi : Nat} (hm : Memory.wfFrom lo m = true) (hn : Memory.wfFrom hi n = true)
    (h : ∀ a, m.read a = n.read a) : m = n := by
  induction m generalizing n lo hi with
  | nil =>
    cases n with
    | nil => rfl
    | cons q n =>
      obtain ⟨j, d⟩ := q
      simp only [Memory.wfFrom, Bool.and_eq_true, bne_iff_ne] at hn
      have := h j
      simp only [Memory.read, if_true] at this
      exact absurd this.symm hn.1.2
  | cons p m ih =>
    obtain ⟨i, b⟩ := p
    simp only [Memory.wfFrom, Bool.and_eq_true, bne_iff_ne, decide_eq_true_eq] at hm
    obtain ⟨⟨hi1, hb⟩, hm⟩ := hm
    cases n with
    | nil =>
      have := h i
      simp only [Memory.read, if_true] at this
      exact absurd this hb
    | cons q n =>
      obtain ⟨j, d⟩ := q
      simp only [Memory.wfFrom, Bool.and_eq_true, bne_iff_ne, decide_eq_true_eq] at hn
      obtain ⟨⟨hj1, hd⟩, hn⟩ := hn
      have hij : i = j := by
        rcases Nat.lt_trichotomy i j with hlt | heq | hgt
        · have hi2 := h i
          rw [Memory.read, if_pos rfl, Memory.read, if_neg (by omega), memory_read_below hn (by omega)] at hi2
          exact absurd hi2 hb
        · exact heq
        · have hj2 := h j
          rw [Memory.read, if_neg (by omega), memory_read_below hm (by omega), Memory.read, if_pos rfl] at hj2
          exact absurd hj2.symm hd
      subst hij
      have hbd : b = d := by simpa [Memory.read] using h i
      have hrest : m = n := ih hm hn fun a => by
        by_cases ha : i = a
        · rw [memory_read_below hm (by omega), memory_read_below hn (by omega)]
        · simpa [Memory.read, ha] using h a
      rw [hbd, hrest]

/-- Settles O31: a read after a write by the place of the address, equality by the first entry. -/
theorem memoryLaws : Obligations.MemoryLaws :=
  ⟨fun _ a b x h => ⟨Memory.wf_write a x h, memory_read_write x b h (Nat.zero_le a)⟩,
    fun _ _ hm hn h => memory_ext hm hn h⟩


end Sys2Proof.Laws

/-! SUPPORT. The compressed spill (R123): filling undoes spilling. -/

namespace Sys2Proof.Laws

open Machine

/-- The format byte of a group: bit k for register k that holds 0. -/
def zeroMask (g : List (Word × Bool)) : Nat := (g.mapIdx fun k p => if p.1 = 0 then 2 ^ k else 0).sum

theorem zeroMask_cons (p : Word × Bool) (g : List (Word × Bool)) :
    zeroMask (p :: g) = (if p.1 = 0 then 1 else 0) + 2 * zeroMask g := by
  have h : (fun (k : Nat) (q : Word × Bool) => if q.1 = 0 then 2 ^ (k + 1) else 0) =
      fun k q => 2 * if q.1 = 0 then 2 ^ k else 0 := by
    funext k q
    split <;> omega
  have hs : (g.mapIdx fun k q => 2 * if q.1 = 0 then 2 ^ k else 0) =
      (g.mapIdx fun k q => if q.1 = 0 then 2 ^ k else 0).map (2 * ·) := by
    apply List.ext_getElem
    · simp
    · intro i h1 h2
      simp
  rw [zeroMask, List.mapIdx_cons, List.sum_cons, pow_zero, h, hs, List.sum_map_mul_left, List.map_id', zeroMask]

theorem zeroMask_lt (g : List (Word × Bool)) : zeroMask g < 2 ^ g.length := by
  induction g with
  | nil => simp [zeroMask]
  | cons p g ih =>
    rw [zeroMask_cons, List.length_cons, pow_succ]
    split <;> omega

theorem bit_zero (x : Nat) : bit x 0 = (x % 2 == 1) := by simp [bit]

theorem bit_succ (x k : Nat) : bit x (k + 1) = bit (x / 2) k := by
  simp [bit, pow_succ', Nat.div_div_eq_div_mul]

/-- One register of `vfill`: what has been filled and the data registers left (R123). -/
def fillStep (z : Nat) (acc : List (Word × Bool) × List (Word × Bool)) (k : Nat) : List (Word × Bool) × List (Word × Bool) :=
  if bit z k then (acc.1 ++ [(0, false)], acc.2) else (acc.1 ++ [acc.2.headD (0, false)], acc.2.tail)

theorem fillVals_eq (z : Nat) (data : List (Word × Bool)) :
    fillVals z data = ((List.range 8).foldl (fillStep z) ([], data)).1 := rfl

/-- Filling from the nonzero registers of a group gives its words back, whatever follows them. -/
theorem fill_nonzero (g : List (Word × Bool)) (rest done : List (Word × Bool)) (z k : Nat)
    (hz : ∀ j, j < g.length → bit z (k + j) = bit (zeroMask g) j) :
    ((List.range' k g.length).foldl (fillStep z) (done, g.filter (fun p => p.1 ≠ 0) ++ rest)).1.map (·.1) =
      done.map (·.1) ++ g.map (·.1) := by
  induction g generalizing done k with
  | nil => simp
  | cons p g ih =>
    have hz' : ∀ j, j < g.length → bit z (k + 1 + j) = bit (zeroMask g) j := by
      intro j hj
      have := hz (j + 1) (by simpa using hj)
      rw [bit_succ, zeroMask_cons] at this
      rw [Nat.add_right_comm, Nat.add_assoc, this]
      congr 1
      split <;> omega
    have h0 : bit z k = decide (p.1 = 0) := by
      have := hz 0 (by simp)
      rw [Nat.add_zero, bit_zero, zeroMask_cons] at this
      rw [this]
      by_cases hp : p.1 = 0
      · rw [if_pos hp, decide_eq_true hp]
        exact beq_iff_eq.mpr (by omega)
      · rw [if_neg hp, decide_eq_false hp]
        exact beq_eq_false_iff_ne.mpr (by omega)
    rw [List.length_cons, List.range'_succ, List.foldl_cons]
    by_cases hp : p.1 = 0
    · rw [fillStep, if_pos (h0.trans (decide_eq_true hp)), List.filter_cons_of_neg (by simpa using hp), ih _ _ hz']
      simp only [List.map_append, List.map_cons, List.map_nil, List.append_assoc, List.singleton_append, hp]
    · rw [fillStep, if_neg (by rw [h0]; simpa using hp), List.filter_cons_of_pos (by simpa using hp)]
      rw [List.cons_append, List.headD_cons, List.tail_cons, ih _ _ hz']
      simp

/-- Settles O6: the format byte is the group's zero mask, and filling takes the nonzero registers in order. -/
theorem fillUndoesSpill : Obligations.FillUndoesSpill := by
  intro g hg
  have hlt : zeroMask g < 256 := by
    have := zeroMask_lt g
    rwa [hg] at this
  have hhead : ((spillVals g).headD (0, false)).1.toNat % 256 = zeroMask g := by
    change (BitVec.ofNat 32 ((g.filter fun p => p.1 ≠ 0).length * 256 + zeroMask g)).toNat % 256 = zeroMask g
    rw [BitVec.toNat_ofNat]
    omega
  have h := fill_nonzero g (List.replicate (8 - (g.filter fun p => p.1 ≠ 0).length) (0, false)) [] (zeroMask g) 0
    (fun j _ => by rw [Nat.zero_add])
  rw [hg, ← List.range_eq_range'] at h
  rw [hhead, fillVals_eq]
  exact h

end Sys2Proof.Laws


/-! SUPPORT. The integer Haar transform (R237 to R239): each pair of values comes back from its coarse value and detail,
so does a line from its levels. -/

namespace Sys2Proof.Laws

open Machine

/-! ### One line -/

theorem invPair_fwdPair (a b : Int) : invPair true (fwdPair true a b).1 (fwdPair true a b).2 = (a, b) := by
  simp only [invPair, fwdPair, if_true, Prod.mk.injEq]
  omega

/-- No detail is below the threshold 0. -/
theorem cutDetail_zero (d : Int) : cutDetail true 0 d = d := by
  simp only [cutDetail, if_true]
  rw [if_neg (by simp)]

/-- Neighbours laid side by side again. -/
theorem flatMap_pairUp (l : List Int) (h : 2 ∣ l.length) : (pairUp l).flatMap (fun p => [p.1, p.2]) = l := by
  induction l using pairUp.induct with
  | case1 a b l ih => simp [pairUp, ih (by simpa [Nat.dvd_add_left] using h)]
  | case2 l hl =>
    match l, hl, h with
    | [], _, _ => rfl
    | [a], _, h => simp at h
    | a :: b :: l, hl, _ => exact absurd rfl (hl a b l)

theorem length_pairUp (l : List Int) : (pairUp l).length = l.length / 2 := by
  induction l using pairUp.induct with
  | case1 a b l ih =>
    simp only [pairUp, List.length_cons, ih]
    omega
  | case2 l hl =>
    match l, hl with
    | [], _ => rfl
    | [a], _ => simp [pairUp]
    | a :: b :: l, hl => exact absurd rfl (hl a b l)

/-- Half of a line of `2 ^ (levels + 1)` multiples. -/
theorem dvd_half {levels n : Nat} (h : 2 ^ (levels + 1) ∣ n) : 2 ^ levels ∣ n / 2 := by
  obtain ⟨k, rfl⟩ := h
  exact ⟨k, by rw [pow_succ', Nat.mul_assoc, Nat.mul_div_cancel_left _ two_pos]⟩

theorem length_haarFwd (int : Bool) (levels : Nat) (thr : List (BitVec 16)) (line : List Int)
    (h : 2 ^ levels ∣ line.length) : (haarFwd int levels thr line).length = line.length := by
  induction levels generalizing thr line with
  | zero => rfl
  | succ levels ih =>
    have hhalf : 2 ^ levels ∣ (pairUp line).length := length_pairUp line ▸ dvd_half h
    simp only [haarFwd]
    rw [List.length_append, ih _ _ (by simpa using hhalf)]
    have h2 : 2 ∣ line.length := Dvd.dvd.trans (dvd_pow_self 2 (Nat.succ_ne_zero levels)) h
    simp only [List.length_map, length_pairUp]
    omega

/-- The inverse of every level count, with thresholds that cut nothing. -/
theorem haarInv_haarFwd (levels : Nat) (thr : List (BitVec 16)) (line : List Int) (ht : ∀ x ∈ thr, x = 0)
    (h : 2 ^ levels ∣ line.length) : haarInv true levels (haarFwd true levels thr line) = line := by
  induction levels generalizing thr line with
  | zero => rfl
  | succ levels ih =>
    have h2 : 2 ∣ line.length := Dvd.dvd.trans (dvd_pow_self 2 (Nat.succ_ne_zero levels)) h
    have hhead : thr.headD 0 = 0 := by
      cases thr with
      | nil => rfl
      | cons x l => exact ht x (List.mem_cons_self ..)
    have hlen := length_haarFwd true (levels + 1) thr line h
    rw [haarInv, hlen]
    simp only [haarFwd, hhead, cutDetail_zero]
    generalize hps : ((pairUp line).map fun p => fwdPair true p.1 p.2) = ps
    have hpl : ps.length = line.length / 2 := by rw [← hps, List.length_map, length_pairUp]
    have hcoarse : (haarFwd true levels (thr.drop 1) (ps.map (·.1))).length = line.length / 2 := by
      rw [length_haarFwd _ _ _ _ (by rw [List.length_map, hpl]; exact dvd_half h), List.length_map, hpl]
    rw [List.take_left' hcoarse, List.drop_left' hcoarse,
      ih _ _ (fun x hx => ht x (List.mem_of_mem_drop hx)) (by rw [List.length_map, hpl]; exact dvd_half h),
      ← List.unzip_fst, ← List.unzip_snd, List.zip_unzip, ← hps, List.flatMap_map]
    simp only [invPair_fwdPair]
    exact flatMap_pairUp line h2

/-- Settles O23: level by level, each pair by its coarse value and detail. -/
theorem integerHaarRoundTrip : Obligations.IntegerHaarRoundTrip :=
  fun levels line h => haarInv_haarFwd levels _ line (by simp) h

end Sys2Proof.Laws

/-! SUPPORT. The fields of a join cell (R175) and what an arrival leaves of them (R176, R179). -/

namespace Sys2Proof.Laws

open Machine

/-! ### Fields of a number -/

theorem bits_lt (x lo n : Nat) : bits x lo n < 2 ^ n := Nat.mod_lt _ (Nat.two_pow_pos n)

theorem bits_setBits_same (x lo n v : Nat) : bits (setBits x lo n v) lo n = v % 2 ^ n := by
  apply Nat.eq_of_testBit_eq
  intro i
  rw [testBit_bits, testBit_setBits, Nat.testBit_mod_two_pow]
  by_cases hi : i < n
  · simp [hi]
  · simp [hi]

theorem bits_setBits_apart (x : Nat) {lo n lo' n' : Nat} (v : Nat) (h : lo' + n' ≤ lo ∨ lo + n ≤ lo') :
    bits (setBits x lo n v) lo' n' = bits x lo' n' := by
  apply Nat.eq_of_testBit_eq
  intro i
  rw [testBit_bits, testBit_bits, testBit_setBits]
  by_cases hi : i < n'
  · rw [if_neg (by omega)]
  · simp [hi]

/-! ### Arrivals (R176, R179) -/

/-- A cell after arrivals that fit: ARRIVED, and with `.reg` REG, before the phase is checked. -/
def arrived (reg : Bool) (n x : Nat) : Nat :=
  let y := setBits x 96 12 (jcArrived x + n)
  if reg then setBits y 84 12 (jcReg x + 1) else y

theorem jcArrive_fst {x n : Nat} (reg : Bool) (ho : jcObs x = 0) (hn : jcArrived x + n ≤ jcExpect x) :
    (jcArrive reg n x).1 = (jcCheck (arrived reg n x)).1 := by
  rw [jcArrive, if_neg (by omega)]
  rfl

/-- What the arrivals leave in the fields. -/
theorem fields_arrived {x n : Nat} (reg : Bool) (hn : jcArrived x + n ≤ jcExpect x) (hr : jcReg x < 4095) :
    jcArrived (arrived reg n x) = jcArrived x + n ∧ jcPhase (arrived reg n x) = jcPhase x ∧
    jcReg (arrived reg n x) = jcReg x + reg.toNat ∧ jcObs (arrived reg n x) = jcObs x ∧
    jcPend (arrived reg n x) = jcPend x ∧ jcExpect (arrived reg n x) = jcExpect x := by
  have he : jcExpect x < 2 ^ 12 := bits_lt ..
  have ha : (jcArrived x + n) % 2 ^ 12 = jcArrived x + n := Nat.mod_eq_of_lt (by omega)
  have hg : (jcReg x + 1) % 2 ^ 12 = jcReg x + 1 := Nat.mod_eq_of_lt (by omega)
  cases reg
  all_goals
    simp only [arrived, Bool.false_eq_true, if_false, if_true, Bool.toNat_false, Bool.toNat_true]
    generalize jcArrived x + n = m at ha ⊢
    generalize hq : jcReg x = q at hg ⊢
    simp [jcArrived, jcPhase, jcReg, jcObs, jcPend, jcExpect, bits_setBits_same, bits_setBits_apart] at hq ha hg ⊢
  · exact ⟨ha, hq⟩
  · exact ⟨ha, hg⟩

/-- The end of a phase: PHASE counts on, ARRIVED and REG are 0 and OBS takes REG. -/
theorem fields_jcCheck {x : Nat} (he : 1 ≤ jcExpect x) (ha : jcArrived x = jcExpect x) (hp : jcPend x = 0) :
    jcPhase (jcCheck x).1 = (jcPhase x + 1) % 256 ∧ jcArrived (jcCheck x).1 = 0 ∧ jcReg (jcCheck x).1 = 0 ∧
    jcObs (jcCheck x).1 = jcReg x ∧ jcPend (jcCheck x).1 = 0 ∧ jcExpect (jcCheck x).1 = jcExpect x := by
  have hq : jcReg x % 2 ^ 12 = jcReg x := Nat.mod_eq_of_lt (bits_lt ..)
  rw [jcCheck, if_pos ⟨he, ha, hp⟩]
  generalize jcReg x = q at hq ⊢
  simp [jcArrived, jcPhase, jcReg, jcObs, jcPend, jcExpect, bits_setBits_same, bits_setBits_apart] at hp hq ⊢
  exact ⟨hq, hp⟩

theorem jcCheck_of_running {x : Nat} (h : jcArrived x ≠ jcExpect x ∨ jcPend x ≠ 0) : (jcCheck x).1 = x := by
  rw [jcCheck, if_neg (by tauto)]

/-- Settles O16: the arrivals change ARRIVED and REG, and the check after them ends the phase or does nothing. -/
theorem joinPhases : Obligations.JoinPhases := by
  intro x n reg _ ho hn hr y
  obtain ⟨ha, hphase, hreg, hobs, hpend, hexp⟩ := fields_arrived reg hn hr
  have hy : y = (jcCheck (arrived reg n x)).1 := jcArrive_fst reg ho hn
  have hrunning : jcArrived x + n < jcExpect x ∨ jcPend x ≠ 0 → y = arrived reg n x := by
    intro h
    rw [hy, jcCheck_of_running (by rw [ha, hexp, hpend]; omega)]
  have hends : jcArrived x + n = jcExpect x → 1 ≤ jcExpect x → jcPend x = 0 →
      jcPhase y = (jcPhase x + 1) % 256 ∧ jcArrived y = 0 ∧ jcReg y = 0 ∧ jcObs y = jcReg x + reg.toNat ∧
        jcPend y = 0 ∧ jcExpect y = jcExpect x := by
    intro h he hp
    have := fields_jcCheck (x := arrived reg n x) (by rwa [hexp]) (by rw [ha, hexp, h]) (by rw [hpend, hp])
    rwa [← hy, hphase, hreg, hexp] at this
  refine ⟨fun h => ?_, fun h he hp => ?_, ?_⟩
  · rw [hrunning h]
    exact ⟨ha, hphase, hreg, hobs.trans ho, hpend⟩
  · obtain ⟨h1, h2, h3, h4, h5, -⟩ := hends h he hp
    exact ⟨h1, h2, h3, h4, h5⟩
  · by_cases h : jcArrived x + n < jcExpect x ∨ jcPend x ≠ 0 ∨ jcExpect x = 0
    · rw [hy]
      by_cases he : jcExpect x = 0
      · rw [jcCheck, if_neg (by rw [hexp]; omega), hexp]
      · rw [jcCheck_of_running (by rw [ha, hexp, hpend]; omega), hexp]
    · exact (hends (by omega) (by omega) (by tauto)).2.2.2.2.2

end Sys2Proof.Laws


/-! SUPPORT. The threads of a sheaf after a change of some of them, and where a precise fault leaves them (R425, R430). -/

namespace Sys2Proof.Laws

open Machine

/-! ### Threads -/

/-- A thread after a change of one. -/
theorem thread_modThread (sh : Sheaf) (t u : Nat) (f : Thread → Thread) :
    (sh.modThread t f).thread u = if u = t ∧ u < sh.threads.length then f (sh.thread u) else sh.thread u := by
  simp only [Sheaf.thread, Sheaf.modThread, modAt, List.getD_eq_getElem?_getD, List.getElem?_modify]
  by_cases hl : u < sh.threads.length
  · by_cases h : u = t
    · simp [h ▸ hl, h]
    · simp [h, Ne.symm h]
  · simp [hl]

theorem thread_modThread_ne (sh : Sheaf) {t u : Nat} (f : Thread → Thread) (h : u ≠ t) :
    (sh.modThread t f).thread u = sh.thread u := by
  rw [thread_modThread, if_neg (fun hc => h hc.1)]

theorem thread_modThread_self {sh : Sheaf} {t : Nat} (f : Thread → Thread) (h : t < sh.threads.length) :
    (sh.modThread t f).thread t = f (sh.thread t) := by
  rw [thread_modThread, if_pos ⟨rfl, h⟩]

/-- What a change of a thread keeps of it stands in every thread. -/
theorem thread_modThread_keeps {β : Type} (p : Thread → β) {f : Thread → Thread} (hp : ∀ th, p (f th) = p th)
    (sh : Sheaf) (t u : Nat) : p ((sh.modThread t f).thread u) = p (sh.thread u) := by
  rw [thread_modThread]
  split
  · exact hp _
  · rfl

@[simp] theorem length_modThread (sh : Sheaf) (t : Nat) (f : Thread → Thread) :
    (sh.modThread t f).threads.length = sh.threads.length := by
  simp [Sheaf.modThread, modAt]

/-- Steps that each keep something keep it together. -/
theorem each_keeps {α σ β : Type} (p : σ → β) {f : α → σ → σ} (h : ∀ a x, p (f a x) = p x) (l : List α) (x : σ) :
    p (each l f x) = p x :=
  foldl_keeps p (fun x a => h a x) l x

/-- The same where it is kept for the entries of the list only. -/
theorem each_keeps_of_mem {α σ β : Type} (p : σ → β) {f : α → σ → σ} {l : List α}
    (h : ∀ a ∈ l, ∀ x, p (f a x) = p x) (x : σ) : p (each l f x) = p x := by
  induction l generalizing x with
  | nil => rfl
  | cons a l ih =>
    exact (ih (fun b hb => h b (List.mem_cons_of_mem a hb)) _).trans (h a (List.mem_cons_self ..) x)

/-! ### Parking (R425) -/

@[simp] theorem thread_dropRun (sh : Sheaf) (who : List Nat) (u : Nat) : (sh.dropRun who).thread u = sh.thread u := by
  unfold Sheaf.dropRun
  split <;> rfl

@[simp] theorem length_dropRun (sh : Sheaf) (who : List Nat) : (sh.dropRun who).threads.length = sh.threads.length := by
  unfold Sheaf.dropRun
  split <;> rfl

@[simp] theorem entry_dropRun (sh : Sheaf) (who : List Nat) : (sh.dropRun who).entry = sh.entry := by
  unfold Sheaf.dropRun
  split <;> rfl

/-- A thread that does not park stays as it is. -/
theorem thread_parkAt_of_not_mem {who : List Nat} {u : Nat} (h : u ∉ who) (sh : Sheaf) (pc : BitVec 64) (k : Option Nat)
    (why : Park) : (sh.parkAt who pc k why).thread u = sh.thread u := by
  refine (each_keeps_of_mem (fun q : Sheaf => q.thread u) (fun t ht q => ?_) _).trans (thread_dropRun ..)
  exact thread_modThread_ne q _ fun hut => h (hut ▸ ht)

@[simp] theorem entry_parkAt (sh : Sheaf) (who : List Nat) (pc : BitVec 64) (k : Option Nat) (why : Park) :
    (sh.parkAt who pc k why).entry = sh.entry :=
  (each_keeps (fun q : Sheaf => q.entry) (by intros; rfl) _ _).trans (entry_dropRun ..)

/-- Where a parked thread stands. -/
def StandsParked (pc : BitVec 64) (k : Option Nat) (why : Park) (th : Thread) : Prop :=
  th.st = .parked why ∧ th.pc = pc ∧ th.word = k

/-- A thread that parks stands parked after the others have. -/
theorem standsParked_each {who : List Nat} {u : Nat} {pc : BitVec 64} {k : Option Nat} {why : Park}
    {ends : Nat → ClauseEnd} (sh : Sheaf)
    (h : u ∈ who ∧ u < sh.threads.length ∨ StandsParked pc k why (sh.thread u)) :
    StandsParked pc k why ((each who (fun t q => q.modThread t fun th =>
      { th with st := .parked why, pc := pc, word := k, ends := ends t }) sh).thread u) := by
  induction who generalizing sh with
  | nil => exact h.resolve_left (by simp)
  | cons t who ih =>
    refine ih _ ?_
    by_cases hp : u = t ∧ u < sh.threads.length
    · exact .inr (by rw [thread_modThread, if_pos hp]; exact ⟨rfl, rfl, rfl⟩)
    · rcases h with ⟨hm, hl⟩ | h
      · exact .inl ⟨(List.mem_cons.mp hm).resolve_left fun hut => hp ⟨hut, hl⟩, by simpa using hl⟩
      · exact .inr (by rwa [thread_modThread, if_neg hp])

theorem standsParked_parkAt {who : List Nat} {u : Nat} (sh : Sheaf) (hm : u ∈ who) (hl : u < sh.threads.length)
    (pc : BitVec 64) (k : Option Nat) (why : Park) : StandsParked pc k why ((sh.parkAt who pc k why).thread u) :=
  standsParked_each _ (.inl ⟨hm, by simpa using hl⟩)

/-! ### The entry that a sheaf owes (R425, R430) -/

@[simp] theorem thread_owe (sh : Sheaf) (e : Entry) (u : Nat) : (sh.owe e).thread u = sh.thread u := by
  unfold Sheaf.owe
  split
  · rfl
  · split <;> rfl

theorem entry_owe_of_none {sh : Sheaf} (h : sh.entry = none) (e : Entry) : (sh.owe e).entry = some e := by
  simp only [Sheaf.owe, h]

/-- An entry of the lowest rank does not displace another. -/
theorem entry_owe_of_some {sh : Sheaf} {o : Entry} (h : sh.entry = some o) {e : Entry} (he : e.rank = 0) :
    (sh.owe e).entry = some o := by
  simp only [Sheaf.owe, h, he, Nat.not_lt_zero, if_false]

/-- The codes of local faults have the lowest rank. -/
theorem rank_local {c : Nat} (hc : c < 0x10) {e : Entry} (he : e.code = BitVec.ofNat 8 c) : e.rank = 0 := by
  have h : ∀ c < 16, ¬ (BitVec.ofNat 8 c = 0x19) ∧ ¬ (0x11 ≤ BitVec.ofNat 8 c ∧ BitVec.ofNat 8 c ≤ 0x17) ∧
      ¬ (BitVec.ofNat 8 c = 0x10) ∧ ¬ (BitVec.ofNat 8 c = 0x20) := by decide
  obtain ⟨h1, h2, h3, h4⟩ := h c hc
  simp only [Entry.rank, he, if_neg h1, if_neg h2, if_neg h3, if_neg h4]

/-- A precise local fault outside the handler changes no sheaf but its own. -/
theorem sheaf_fault_common {s : State} {sid : Nat} {who : List Nat} {pc : BitVec 64} {k : Option Nat} {code sub : Nat}
    {mask : List Nat} {addr : Nat} (hs : (s.sheaves.get sid).isSome = true) (h : (s.sheaf sid).inHandler = false)
    (hc : code < 0x10) :
    (s.fault sid who pc k code sub mask addr).sheaf sid = ((s.sheaf sid).parkAt who pc k .handler).owe
      ⟨BitVec.ofNat 8 code, BitVec.ofNat 8 sub, 0, maskOf mask, BitVec.ofNat 64 addr, wordAddr pc k⟩ := by
  rw [fault_common h hc, State.sheaf, State.faultRecord, State.record_sheaves]
  exact State.sheaf_modSheaf _ hs

/-- Settles O40: outside the handler the threads park and the entry is owed where none is, in the handler the double fault
replaces what is owed. -/
theorem preciseFaults : Obligations.PreciseFaults := by
  intro s sid who pc k code sub addr mask hs hc t a
  cases hh : (s.sheaf sid).inHandler with
  | false =>
    have ht : t.sheaf sid = _ := sheaf_fault_common hs hh hc
    refine ⟨fun u hu => ?_, fun _ => ⟨fun u hu hl => ?_, fun he => ?_, fun e he => ?_⟩, fun h => by simp at h⟩
    · rw [ht, thread_owe, thread_parkAt_of_not_mem hu]
    · rw [ht, thread_owe]
      exact standsParked_parkAt _ hu hl pc (some k) .handler
    · rw [ht]
      exact entry_owe_of_none ((entry_parkAt ..).trans he) _
    · rw [ht]
      exact entry_owe_of_some ((entry_parkAt ..).trans he) (rank_local hc rfl)
  | true =>
    have ht : t.sheaf sid = _ := (congrArg (·.sheaf sid) (fault_inHandler hh)).trans (State.sheaf_modSheaf _ hs)
    refine ⟨fun u hu => ?_, fun h => by simp at h, fun _ => ?_⟩
    · rw [ht]
      exact thread_parkAt_of_not_mem hu ..
    · rw [ht]
      rfl

end Sys2Proof.Laws


/-! SUPPORT. The frame of a word (R36, R39, R79): what the writes of lanes change of a sheaf, and what the advance to the next
word does not. -/

namespace Sys2Proof.Laws

open Machine

/-! ### Writes of lanes (R39) -/

/-- What a register field of lane `u` reads, with its taint. -/
def Register (sh : Sheaf) (u : Nat) (v : BitVec 8) : Word × Bool := (sh.read 0 u v, sh.taintOf u v)

/-- The write of `d` in lane `t` leaves register `v` of lane `u`. -/
def Spares (d : BitVec 8) (t u : Nat) (v : BitVec 8) : Prop := v ≠ d ∨ (v.toNat < 0xC0 ∧ u ≠ t)

theorem getLsbD_taint {n : Nat} (m : BitVec n) {i j : Nat} (b : Bool) (h : i ≠ j) :
    (if b then m ||| BitVec.ofNat n (2 ^ j) else m &&& ~~~ BitVec.ofNat n (2 ^ j)).getLsbD i = m.getLsbD i := by
  have hj : (BitVec.ofNat n (2 ^ j)).getLsbD i = false := by
    rw [BitVec.getLsbD_ofNat, Nat.testBit_two_pow_of_ne (Ne.symm h), Bool.and_false]
  generalize BitVec.ofNat n (2 ^ j) = q at hj ⊢
  cases b
  · by_cases hi : i < n
    · simp only [Bool.false_eq_true, if_false, BitVec.getLsbD_and, BitVec.getLsbD_not, hj, hi]
      simp
    · rw [BitVec.getLsbD_of_ge _ _ (by omega), BitVec.getLsbD_of_ge _ _ (by omega)]
  · simp only [if_true, BitVec.getLsbD_or, hj, Bool.or_false]

theorem getD_set_ne {α : Type} (l : List α) {i j : Nat} (x d : α) (h : i ≠ j) : (l.set j x).getD i d = l.getD i d := by
  simp [List.getD_eq_getElem?_getD, List.getElem?_set_ne (Ne.symm h)]

theorem register_write {d : BitVec 8} {t u : Nat} {v : BitVec 8} (h : Spares d t u v) (sh : Sheaf) (x : Word) (b : Bool) :
    Register (sh.write d t x b) u v = Register sh u v := by
  unfold Sheaf.write
  dsimp only
  split
  · next hd =>
    by_cases hv : v.toNat < 0xC0
    · simp only [Register, Sheaf.read, Sheaf.taintOf, hv, if_true]
      by_cases hu : u = t
      · have hvd : v.toNat ≠ d.toNat := fun hc => h.elim (· (BitVec.eq_of_toNat_eq hc)) (fun hh => hh.2 hu)
        rw [thread_modThread]
        split
        · simp only [Thread.setV, getD_set_ne _ _ _ hvd, getLsbD_taint _ _ hvd]
        · rfl
      · rw [thread_modThread_ne _ _ hu]
    · simp only [Register, Sheaf.read, Sheaf.taintOf, hv, if_false]
      rfl
  · split
    · by_cases hv : v.toNat < 0xC0
      · simp only [Register, Sheaf.read, Sheaf.taintOf, hv, if_true]
        rfl
      · by_cases hs : v.toNat < 0xF0
        · have hvd : v.toNat - 0xC0 ≠ d.toNat - 0xC0 := fun hc =>
            h.elim (· (BitVec.eq_of_toNat_eq (by omega))) (fun hh => hv hh.1)
          simp only [Register, Sheaf.read, Sheaf.taintOf, hv, hs, if_false, if_true, getD_set_ne _ _ _ hvd,
            getLsbD_taint _ _ hvd]
        · simp only [Register, Sheaf.read, Sheaf.taintOf, hv, hs, if_false]
    · rfl

theorem register_writeGroup {d : BitVec 8} {u : Nat} {v : BitVec 8} {l : List (Nat × Word × Bool)}
    (h : ∀ p ∈ l, Spares d p.1 u v) (sh : Sheaf) : Register (sh.writeGroup d l) u v = Register sh u v := by
  unfold Sheaf.writeGroup
  split
  · exact each_keeps_of_mem (Register · u v) (fun p hp x => register_write (h p hp) x _ _) sh
  · cases l with
    | nil => rfl
    | cons p l => exact register_write (h p (List.mem_cons_self ..)) sh _ _

theorem register_writeRegs {d : BitVec 8} {n u : Nat} {v : BitVec 8} {l : List LaneOut}
    (h : v ∉ regRun d n ∨ (v.toNat < 0xC0 ∧ ∀ o ∈ l, u ≠ o.thread)) (sh : Sheaf) :
    Register (sh.writeRegs d n l) u v = Register sh u v := by
  refine each_keeps_of_mem (Register · u v) (fun i hi x => register_writeGroup (fun p hp => ?_) x) sh
  obtain ⟨o, ho, rfl⟩ := List.mem_map.mp hp
  rcases h with h | ⟨hv, hu⟩
  · exact .inl fun hc => h (hc ▸ List.mem_map_of_mem hi)
  · exact .inr ⟨hv, hu o ho⟩

theorem register_orAst (sh : Sheaf) (l : List LaneOut) (u : Nat) (v : BitVec 8) :
    Register (sh.orAst l) u v = Register sh u v := by
  refine each_keeps (Register · u v) (fun o x => ?_) l sh
  have hv : ((x.modThread o.thread fun th => { th with ast := th.ast ||| o.ast }).thread u).v = (x.thread u).v :=
    thread_modThread_keeps (·.v) (by intro; rfl) x o.thread u
  have ht : ((x.modThread o.thread fun th => { th with ast := th.ast ||| o.ast }).thread u).taint = (x.thread u).taint :=
    thread_modThread_keeps (·.taint) (by intro; rfl) x o.thread u
  simp only [Register, Sheaf.read, Sheaf.taintOf, hv, ht]
  rfl

/-! ### What no write of lanes changes -/

/-- A thread without the registers and sticky bits that lanes write and without where it stands. -/
def threadFrame (th : Thread) : Thread :=
  { th with v := [], taint := 0, ast := 0, st := .ready, pc := 0, word := none, stood := none }

/-- A sheaf without its threads and scalar registers, its clause and what the scheduler keeps of it. -/
def sheafFrame (sh : Sheaf) : Sheaf :=
  { sh with threads := [], s := [], staint := 0, run := none, stall := 0, passed := false, blocked := false, issued := 0
            last := 0 }

theorem threadFrame_modThread {f : Thread → Thread} (hf : ∀ th, threadFrame (f th) = threadFrame th) (sh : Sheaf)
    (t u : Nat) : threadFrame ((sh.modThread t f).thread u) = threadFrame (sh.thread u) :=
  thread_modThread_keeps threadFrame hf sh t u

theorem frames_write (sh : Sheaf) (d : BitVec 8) (t : Nat) (x : Word) (b : Bool) (u : Nat) :
    threadFrame ((sh.write d t x b).thread u) = threadFrame (sh.thread u) ∧
    ((sh.write d t x b).thread u).ast = (sh.thread u).ast ∧ sheafFrame (sh.write d t x b) = sheafFrame sh := by
  unfold Sheaf.write
  dsimp only
  split
  · exact ⟨threadFrame_modThread (by intro; rfl) .., thread_modThread_keeps (·.ast) (by intro; rfl) .., rfl⟩
  · split <;> exact ⟨rfl, rfl, rfl⟩

theorem frames_writeGroup (sh : Sheaf) (d : BitVec 8) (l : List (Nat × Word × Bool)) (u : Nat) :
    threadFrame ((sh.writeGroup d l).thread u) = threadFrame (sh.thread u) ∧
    ((sh.writeGroup d l).thread u).ast = (sh.thread u).ast ∧ sheafFrame (sh.writeGroup d l) = sheafFrame sh := by
  unfold Sheaf.writeGroup
  split
  · have h := fun (p : Nat × Word × Bool) (x : Sheaf) => frames_write x d p.1 p.2.1 p.2.2 u
    exact ⟨each_keeps (fun x : Sheaf => threadFrame (x.thread u)) (fun p x => (h p x).1) l sh,
      each_keeps (fun x : Sheaf => (x.thread u).ast) (fun p x => (h p x).2.1) l sh,
      each_keeps sheafFrame (fun p x => (h p x).2.2) l sh⟩
  · cases l with
    | nil => exact ⟨rfl, rfl, rfl⟩
    | cons p l => exact frames_write ..

theorem frames_writeRegs (sh : Sheaf) (d : BitVec 8) (n : Nat) (l : List LaneOut) (u : Nat) :
    threadFrame ((sh.writeRegs d n l).thread u) = threadFrame (sh.thread u) ∧
    ((sh.writeRegs d n l).thread u).ast = (sh.thread u).ast ∧ sheafFrame (sh.writeRegs d n l) = sheafFrame sh := by
  have h := fun (i : Nat) (x : Sheaf) =>
    frames_writeGroup x (regAt d i) (l.map fun o => (o.thread, o.vals.getD i (0, false))) u
  exact ⟨each_keeps (fun x : Sheaf => threadFrame (x.thread u)) (fun p x => (h p x).1) _ sh,
    each_keeps (fun x : Sheaf => (x.thread u).ast) (fun p x => (h p x).2.1) _ sh,
    each_keeps sheafFrame (fun p x => (h p x).2.2) _ sh⟩

theorem frames_orAst (sh : Sheaf) (l : List LaneOut) (u : Nat) :
    threadFrame ((sh.orAst l).thread u) = threadFrame (sh.thread u) ∧ sheafFrame (sh.orAst l) = sheafFrame sh :=
  ⟨each_keeps (fun x : Sheaf => threadFrame (x.thread u)) (fun _ x => threadFrame_modThread (by intro; rfl) x _ u) l sh,
    each_keeps sheafFrame (by intros; rfl) l sh⟩

theorem ast_orAst {l : List LaneOut} {u : Nat} (h : ∀ o ∈ l, u ≠ o.thread) (sh : Sheaf) :
    ((sh.orAst l).thread u).ast = (sh.thread u).ast :=
  each_keeps_of_mem (fun x : Sheaf => (x.thread u).ast)
    (fun o ho x => congrArg Thread.ast (thread_modThread_ne x _ (h o ho))) sh

/-! ### The advance (R28, R96) -/

/-- What the advance keeps of a sheaf, lane by lane. -/
structure SameButStand (a b : Sheaf) : Prop where
  register : ∀ u v, Register a u v = Register b u v
  thread : ∀ u, threadFrame (a.thread u) = threadFrame (b.thread u)
  ast : ∀ u, (a.thread u).ast = (b.thread u).ast
  sheaf : sheafFrame a = sheafFrame b

theorem SameButStand.refl (a : Sheaf) : SameButStand a a := ⟨fun _ _ => rfl, fun _ => rfl, fun _ => rfl, rfl⟩

theorem SameButStand.trans {a b c : Sheaf} (h : SameButStand a b) (k : SameButStand b c) : SameButStand a c :=
  ⟨fun u v => (h.register u v).trans (k.register u v), fun u => (h.thread u).trans (k.thread u),
    fun u => (h.ast u).trans (k.ast u), h.sheaf.trans k.sheaf⟩

/-- Sheaves with the same threads and scalar registers differ in what the scheduler keeps of them. -/
theorem SameButStand.of_threads {a b : Sheaf} (ht : a.threads = b.threads) (hs : a.s = b.s) (hst : a.staint = b.staint)
    (hl : a.lane0 = b.lane0) (hf : sheafFrame a = sheafFrame b) : SameButStand a b := by
  have h : ∀ u, a.thread u = b.thread u := fun u => by rw [Sheaf.thread, ht, Sheaf.thread]
  refine ⟨fun u v => ?_, fun u => by rw [h], fun u => by rw [h], hf⟩
  simp only [Register, Sheaf.read, Sheaf.taintOf, h, hs, hst, hl]

/-- A change of where a thread stands. -/
theorem SameButStand.modThread {f : Thread → Thread} (hf : ∀ th, threadFrame (f th) = threadFrame th)
    (hv : ∀ th, (f th).v = th.v) (ht : ∀ th, (f th).taint = th.taint) (ha : ∀ th, (f th).ast = th.ast) (sh : Sheaf)
    (t : Nat) : SameButStand (sh.modThread t f) sh := by
  refine ⟨fun u v => ?_, fun u => threadFrame_modThread hf .., fun u => thread_modThread_keeps (·.ast) ha .., rfl⟩
  have h1 := thread_modThread_keeps (·.v) hv sh t u
  have h2 := thread_modThread_keeps (·.taint) ht sh t u
  simp only [Register, Sheaf.read, Sheaf.taintOf, h1, h2]
  rfl

theorem SameButStand.each {α : Type} {f : α → Sheaf → Sheaf} (h : ∀ a sh, SameButStand (f a sh) sh) (l : List α)
    (sh : Sheaf) : SameButStand (each l f sh) sh := by
  induction l generalizing sh with
  | nil => exact .refl sh
  | cons a l ih => exact (ih _).trans (h a sh)

/-- A thread that leaves its clause changes where it stands. -/
theorem endClause_thread (th : Thread) (r : ClauseRun) (now t : Nat) :
    threadFrame (th.endClause r now t) = threadFrame th ∧ (th.endClause r now t).v = th.v ∧
    (th.endClause r now t).taint = th.taint ∧ (th.endClause r now t).ast = th.ast := by
  unfold Thread.endClause
  split
  · exact ⟨rfl, rfl, rfl, rfl⟩
  · dsimp only
    split
    · split <;> exact ⟨rfl, rfl, rfl, rfl⟩
    · split <;> exact ⟨rfl, rfl, rfl, rfl⟩

/-- A change of every sheaf in its place. -/
theorem get_map {α : Type} (t : Tab α) (f : Nat × α → α) (k : Nat) :
    Tab.get (t.map fun p => (p.1, f p)) k = (t.get k).map fun x => f (k, x) := by
  induction t with
  | nil => rfl
  | cons p t ih =>
    obtain ⟨i, x⟩ := p
    simp only [List.map_cons, Tab.get]
    split
    · next h => subst h; rfl
    · exact ih

theorem sameButStand_modSheaf {f : Sheaf → Sheaf} (hf : ∀ sh, SameButStand (f sh) sh) (s : State) (sid k : Nat) :
    SameButStand ((s.modSheaf sid f).sheaf k) (s.sheaf k) := by
  by_cases h : k = sid
  · subst h
    cases hg : s.sheaves.get k with
    | none => simp only [State.sheaf, State.modSheaf, Tab.get_mod_self, hg]; exact .refl _
    | some sh => simp only [State.sheaf, State.modSheaf, Tab.get_mod_self, hg]; exact hf sh
  · rw [State.sheaf_modSheaf_ne s f h]
    exact .refl _

theorem sameButStand_releasePassed (s : State) (sid k : Nat) :
    SameButStand ((s.releasePassed sid).sheaf k) (s.sheaf k) := by
  have h : s.releasePassed sid = { s with sheaves := s.sheaves.map fun p =>
      (p.1, if coreOf p.1 = coreOf sid ∧ p.1 ≠ sid then { p.2 with passed := false, blocked := false } else p.2) } := by
    unfold State.releasePassed
    congr 2
    funext p
    split <;> rfl
  rw [h]
  simp only [State.sheaf, get_map _ (fun p : Nat × Sheaf =>
    if coreOf p.1 = coreOf sid ∧ p.1 ≠ sid then { p.2 with passed := false, blocked := false } else p.2)]
  cases s.sheaves.get k with
  | none => exact .refl _
  | some sh =>
    simp only [Option.map_some, Option.getD_some]
    split
    · exact .of_threads rfl rfl rfl rfl rfl
    · exact .refl _

theorem sameButStand_endClause (s : State) (sid k : Nat) : SameButStand ((s.endClause sid).sheaf k) (s.sheaf k) := by
  unfold State.endClause
  split
  · exact .refl _
  · next r _ =>
    have h : ∀ sh : Sheaf, SameButStand
        (each (bitsOf 64 r.mask) (fun t sh => sh.modThread t fun th => th.endClause r s.time.core t) sh) sh :=
      SameButStand.each (fun t sh => .modThread (fun th => (endClause_thread th r s.time.core t).1)
        (fun th => (endClause_thread th r s.time.core t).2.1) (fun th => (endClause_thread th r s.time.core t).2.2.1)
        (fun th => (endClause_thread th r s.time.core t).2.2.2) sh t) (bitsOf 64 r.mask)
    have hm := sameButStand_modSheaf (f := fun sh =>
      let sh := each (bitsOf 64 r.mask) (fun t sh => sh.modThread t fun th => th.endClause r s.time.core t) sh
      { sh with
        run := none
        stall := if hdrStall r.header = 0 then sh.stall else s.time.core + hdrStall r.header
        passed := sh.passed || (hdrYield r.header || r.yielded)
        last := if r.yielded then r.mask else sh.last })
      (fun sh => SameButStand.trans (b := each (bitsOf 64 r.mask)
        (fun t sh => sh.modThread t fun th => th.endClause r s.time.core t) sh)
        (.of_threads rfl rfl rfl rfl rfl) (h sh)) s sid k
    dsimp only at hm ⊢
    split
    all_goals exact hm

/-- The advance to the next word changes of a sheaf where its threads stand and what the scheduler keeps of it. -/
theorem sameButStand_advance (s : State) (sid : Nat) (i : Instr) (k : Nat) :
    SameButStand ((s.advance sid i).sheaf k) (s.sheaf k) := by
  have h : SameButStand ((((s.releasePassed sid).modSheaf sid fun sh => { sh with
      issued := sh.issued + issueCycles i
      blocked := false
      run := sh.run.map fun r => { r with
        k := r.k + instrWords i
        ll := r.ll + b2n i.isLongLatency
        since := none
        place := none
        rel := none
        asked := none } })).sheaf k) (s.sheaf k) :=
    (sameButStand_modSheaf (by intro; exact .of_threads rfl rfl rfl rfl rfl) _ sid k).trans
      (sameButStand_releasePassed s sid k)
  unfold State.advance
  dsimp only
  split
  · exact h
  · split
    · exact (sameButStand_endClause ..).trans h
    · exact h

/-- The end of a clause and the advance change of a core whom it favours. -/
theorem core_endClause (s : State) (sid c : Nat) :
    (s.endClause sid).core c = { s.core c with current := ((s.endClause sid).core c).current } := by
  unfold State.endClause
  split
  · rfl
  · dsimp only
    split
    · by_cases h : c = coreOf sid
      · subst h
        simp only [State.core_modCore]
        rfl
      · rw [State.core_modCore_ne _ _ h]
        rfl
    · rfl

theorem core_advance (s : State) (sid : Nat) (i : Instr) (c : Nat) :
    (s.advance sid i).core c = { s.core c with current := ((s.advance sid i).core c).current } := by
  unfold State.advance
  dsimp only
  split
  · rfl
  · split
    · exact core_endClause ..
    · rfl

/-! ### The frame of a computing word -/

theorem sheaf_writeLanes (s : State) {sid : Nat} (d : BitVec 8) (n : Nat) (l : List LaneOut)
    (h : (s.sheaves.get sid).isSome = true) :
    (s.writeLanes sid d n l).sheaf sid = ((s.sheaf sid).writeRegs d n l).orAst l :=
  State.sheaf_modSheaf _ h

/-- What the writes of lanes of a sheaf leave. -/
structure WrittenFrame (s t : State) (sid : Nat) (d : BitVec 8) (n : Nat) (who : List Nat) : Prop where
  register : ∀ k u v, (k ≠ sid ∨ v ∉ regRun d n ∨ (v.toNat < 0xC0 ∧ u ∉ who)) →
    Register (t.sheaf k) u v = Register (s.sheaf k) u v
  thread : ∀ k u, threadFrame ((t.sheaf k).thread u) = threadFrame ((s.sheaf k).thread u)
  ast : ∀ k u, (k ≠ sid ∨ u ∉ who) → ((t.sheaf k).thread u).ast = ((s.sheaf k).thread u).ast
  sheaf : ∀ k, sheafFrame (t.sheaf k) = sheafFrame (s.sheaf k)

theorem writtenFrame_writeLanes {s : State} {sid : Nat} (d : BitVec 8) (n : Nat) {l : List LaneOut} {who : List Nat}
    (hs : (s.sheaves.get sid).isSome = true) (hl : ∀ o ∈ l, o.thread ∈ who) :
    WrittenFrame s (s.writeLanes sid d n l) sid d n who := by
  have hne : ∀ u, u ∉ who → ∀ o ∈ l, u ≠ o.thread := fun u hu o ho hc => hu (hc ▸ hl o ho)
  have hsid := sheaf_writeLanes s d n l hs
  have hk : ∀ k, k ≠ sid → (s.writeLanes sid d n l).sheaf k = s.sheaf k := fun k => sheaf_writeLanes_ne s d n l
  refine ⟨fun k u v h => ?_, fun k u => ?_, fun k u h => ?_, fun k => ?_⟩
  · by_cases hc : k = sid
    · subst hc
      rw [hsid, register_orAst, register_writeRegs]
      exact (h.resolve_left (· rfl)).imp id fun ⟨hv, hu⟩ => ⟨hv, hne u hu⟩
    · rw [hk k hc]
  · by_cases hc : k = sid
    · subst hc
      rw [hsid]
      exact (frames_orAst ..).1.trans (frames_writeRegs ..).1
    · rw [hk k hc]
  · by_cases hc : k = sid
    · subst hc
      rw [hsid, ast_orAst (hne u (h.resolve_left (· rfl)))]
      exact (frames_writeRegs ..).2.1
    · rw [hk k hc]
  · by_cases hc : k = sid
    · subst hc
      rw [hsid]
      exact (frames_orAst _ l 0).2.trans (frames_writeRegs _ d n l 0).2.2
    · rw [hk k hc]

/-- A word that goes on with the writes of its active lanes has the frame of a computing instruction. -/
theorem registerFrame_of_goes {i : Instr} {d : BitVec 8} {n : Nat}
    (h : ∀ s sid r, Issues s i sid r →
      ∃ l : List LaneOut, (∀ o ∈ l, o.thread ∈ acts s i sid r) ∧ Goes s i sid (s.writeLanes sid d n l)) :
    RegisterFrame i d n := by
  intro s sid r hi
  obtain ⟨l, hl, hg⟩ := h s sid r hi
  have hw := writtenFrame_writeLanes (s := s) d n (isSome_of_run hi.run) hl
  have ha := sameButStand_advance (s.writeLanes sid d n l) sid i
  refine ⟨_, hg, fun k u v hc => ?_, fun k u => ?_, fun k => ?_, fun c => core_advance .., fun a => ?_, ?_⟩
  · exact Prod.mk.inj (((ha k).register u v).trans (hw.register k u v hc))
  · have ht {β : Type} (p : Thread → β) := congrArg p (((ha k).thread u).trans (hw.thread k u))
    exact ⟨fun hc => ((ha k).ast u).trans (hw.ast k u hc), ht Thread.epc, ht Thread.priv, ht Thread.ks, ht Thread.mid,
      ht Thread.mst, ht Thread.xmask, ht Thread.hit, ht Thread.raster, ht Thread.closed, ht Thread.tbhi⟩
  · have ht {β : Type} (p : Sheaf → β) := congrArg p ((ha k).sheaf.trans (hw.sheaf k))
    exact ⟨ht Sheaf.flags, ht Sheaf.tags, ht Sheaf.cause, ht Sheaf.fmask, ht Sheaf.fa, ht Sheaf.live, ht Sheaf.entry,
      ht Sheaf.calls, ht Sheaf.inHandler, ht Sheaf.cpoison⟩
  · rw [advance_eq]
    rfl
  · exact advance_eq ..

theorem registerFrame_of_wordResult {i : Instr} {f : Fields} {srcs : List (BitVec 8)}
    {g : Bool → List Word → Word × Word} (h : WordResult i f srcs g) : RegisterFrame i f.d 1 := by
  refine registerFrame_of_goes fun s sid r hi => ⟨_, ?_, h s sid r hi⟩
  intro o ho
  obtain ⟨t, ht, rfl⟩ := List.mem_map.mp ho
  exact ht

theorem registerFrame_of_laneWrites {i : Instr} {d : BitVec 8} {n : Nat} {g : Bool → Sheaf → Nat → LaneOut}
    (h : LaneWrites i d n g) (hg : ∀ z sh t, (g z sh t).thread = t) : RegisterFrame i d n := by
  refine registerFrame_of_goes fun s sid r hi => ⟨_, ?_, h s sid r hi⟩
  intro o ho
  obtain ⟨t, ht, rfl⟩ := List.mem_map.mp ho
  rwa [hg]

/-- The instructions of one register, in the order of their list: those that compute from their operands, those that the
kernel's FTZ changes too, and `movi`, which reads D for one of its halves. -/
theorem registerFrame_oneRegister (f : Fields) : ∀ i ∈ oneRegister f, RegisterFrame i f.d 1 := by
  simp only [oneRegister, List.cons_append, List.nil_append, List.forall_mem_cons]
  iterate 29 refine ⟨registerFrame_of_wordResult (wordResult_of fun _ => rfl), ?_⟩
  refine ⟨registerFrame_of_wordResult (wordResult_of (exec_movi f rfl)), ?_⟩
  iterate 7 refine ⟨registerFrame_of_wordResult (wordResult_of_ftz fun _ => rfl), ?_⟩
  refine ⟨registerFrame_of_wordResult (wordResult_of fun _ => rfl), ?_⟩
  refine ⟨registerFrame_of_wordResult (wordResult_of_ftz fun _ => rfl), ?_⟩
  iterate 2 refine ⟨registerFrame_of_wordResult (wordResult_of fun _ => rfl), ?_⟩
  iterate 7 refine ⟨registerFrame_of_wordResult (wordResult_of_ftz fun _ => rfl), ?_⟩
  refine ⟨registerFrame_of_laneWrites (laneWrites_of (g := fun z => unpackLane z f) fun _ => rfl) fun _ _ _ => rfl, ?_⟩
  exact fun _ h => nomatch h

/-- Settles O57: a computing word goes on with the writes of its active lanes, and neither they nor the advance change
anything else. -/
theorem registerFrames : Obligations.RegisterFrames := fun f =>
  ⟨registerFrame_oneRegister f,
    registerFrame_of_laneWrites (laneWrites_of (g := fun _ => imadwLane f) fun _ => rfl) fun _ _ _ => rfl,
    registerFrame_of_laneWrites (laneWrites_of (g := fun _ => leaLane f) fun _ => rfl) fun _ _ _ => rfl,
    registerFrame_of_laneWrites (laneWrites_of (g := fun z => cvtEfLane z f) fun _ => rfl) fun _ _ _ => rfl⟩

end Sys2Proof.Laws


/-! SUPPORT. The landing of the lanes of an operation in flight where R25 leaves nothing open: the captured sources are used,
the destinations are written, and the last lane completes the operation (R23 to R25, R80). -/

namespace Sys2Proof.Laws

open Machine

/-! ### Registers after a write (R39) -/

theorem read_write_same {sh : Sheaf} {d : BitVec 8} {t : Nat} (hd : d.toNat < 0xC0)
    (hv : d.toNat < (sh.thread t).v.length) (ht : t < sh.threads.length) (x : Word) (b : Bool) :
    (sh.write d t x b).read 0 t d = x := by
  simp only [Sheaf.write, Sheaf.read, hd, if_true, thread_modThread_self _ ht, Thread.setV]
  simp [List.getD_eq_getElem?_getD, hv]

/-- A change of a thread beside its registers. -/
theorem register_modThread {f : Thread → Thread} (hv : ∀ th, (f th).v = th.v) (ht : ∀ th, (f th).taint = th.taint)
    (sh : Sheaf) (t u : Nat) (v : BitVec 8) : Register (sh.modThread t f) u v = Register sh u v := by
  have h1 := thread_modThread_keeps (·.v) hv sh t u
  have h2 := thread_modThread_keeps (·.taint) ht sh t u
  simp only [Register, Sheaf.read, Sheaf.taintOf, h1, h2]
  rfl

theorem read_of_register {a b : Sheaf} {u : Nat} {v : BitVec 8} (h : Register a u v = Register b u v) :
    a.read 0 u v = b.read 0 u v := congrArg Prod.fst h

/-- Values written to registers of one lane. -/
def writeList (sh : Sheaf) (t : Nat) (b : Bool) (l : List (BitVec 8 × Word)) : Sheaf :=
  l.foldl (fun sh p => sh.write p.1 t p.2 b) sh

/-- What the writes of registers leave of a sheaf beside registers. -/
structure SameShape (a b : Sheaf) : Prop where
  length : a.threads.length = b.threads.length
  v : ∀ u, (a.thread u).v.length = (b.thread u).v.length
  flags : a.flags = b.flags
  gen : a.gen = b.gen

theorem SameShape.refl (a : Sheaf) : SameShape a a := ⟨rfl, fun _ => rfl, rfl, rfl⟩

theorem SameShape.trans {a b c : Sheaf} (h : SameShape a b) (k : SameShape b c) : SameShape a c :=
  ⟨h.length.trans k.length, fun u => (h.v u).trans (k.v u), h.flags.trans k.flags, h.gen.trans k.gen⟩

theorem sameShape_write (sh : Sheaf) (d : BitVec 8) (t : Nat) (x : Word) (b : Bool) : SameShape (sh.write d t x b) sh := by
  unfold Sheaf.write
  dsimp only
  split
  · refine ⟨length_modThread .., fun u => ?_, rfl, rfl⟩
    exact thread_modThread_keeps (fun th => th.v.length) (by intro th; exact List.length_set ..) sh t u
  · split <;> exact ⟨rfl, fun _ => rfl, rfl, rfl⟩

theorem sameShape_writeList (sh : Sheaf) (t : Nat) (b : Bool) (l : List (BitVec 8 × Word)) :
    SameShape (writeList sh t b l) sh := by
  induction l generalizing sh with
  | nil => exact .refl sh
  | cons p l ih => exact (ih _).trans (sameShape_write ..)

theorem read_writeList_spared {t u : Nat} {v : BitVec 8} {l : List (BitVec 8 × Word)}
    (h : ∀ p ∈ l, Spares p.1 t u v) (sh : Sheaf) (b : Bool) : (writeList sh t b l).read 0 u v = sh.read 0 u v := by
  induction l generalizing sh with
  | nil => rfl
  | cons p l ih =>
    exact (ih (fun q hq => h q (List.mem_cons_of_mem p hq)) _).trans
      (read_of_register (register_write (h p (List.mem_cons_self ..)) sh p.2 b))

theorem read_writeList_mem {sh : Sheaf} {t : Nat} {l : List (BitVec 8 × Word)} {p : BitVec 8 × Word}
    (hn : (l.map (·.1)).Nodup) (hp : p ∈ l) (hd : p.1.toNat < 0xC0) (hv : p.1.toNat < (sh.thread t).v.length)
    (ht : t < sh.threads.length) (b : Bool) : (writeList sh t b l).read 0 t p.1 = p.2 := by
  induction l generalizing sh with
  | nil => cases hp
  | cons q l ih =>
    obtain ⟨hq, hl⟩ := List.nodup_cons.mp hn
    rcases List.mem_cons.mp hp with rfl | hp
    · have hspare : ∀ r ∈ l, Spares r.1 t t p.1 := fun r hr => .inl fun hc => hq (List.mem_map.mpr ⟨r, hr, hc.symm⟩)
      exact (read_writeList_spared hspare (sh.write p.1 t p.2 b) b).trans (read_write_same hd hv ht _ b)
    · have hs := sameShape_write sh q.1 t q.2 b
      exact ih hl hp (by rwa [hs.v]) (by rwa [hs.length])

/-! ### Sources and destinations (R25) -/

/-- Sources that still hold what was captured are used as they are. -/
theorem landSrcs_unchanged {s : State} {sid t : Nat} {l : List (BitVec 8 × Word)}
    (h : ∀ p ∈ l, p.1.toNat < 0xF0 → (s.sheaf sid).read 0 t p.1 = p.2) :
    s.landSrcs sid t l = (l.map (·.2), s) := by
  have hsrc : ∀ p ∈ l, s.landSrc sid t p = (p.2, s) := by
    intro p hp
    unfold State.landSrc
    split
    · next hlt => simp only [h p hp hlt, if_true]
    · rfl
  have hfold : ∀ (l : List (BitVec 8 × Word)) (acc : List Word), (∀ p ∈ l, s.landSrc sid t p = (p.2, s)) →
      l.foldl (fun acc p => let (w, s) := acc.2.landSrc sid t p; (acc.1 ++ [w], s)) (acc, s) =
        (acc ++ l.map (·.2), s) := by
    intro l
    induction l with
    | nil => intro acc _; simp
    | cons p l ih =>
      intro acc hl
      rw [List.foldl_cons]
      simp only [hl p (List.mem_cons_self ..)]
      rw [ih _ fun q hq => hl q (List.mem_cons_of_mem p hq)]
      simp
  rw [State.landSrcs, hfold l [] hsrc, List.nil_append]

/-- A captured destination is found by its field. -/
theorem find_captured {l : List (BitVec 8)} {r : BitVec 8} (h : r ∈ l) (g : BitVec 8 → Word) :
    (l.map fun v => (v, g v)).find? (fun p => p.1 = r) = some (r, g r) := by
  induction l with
  | nil => cases h
  | cons v l ih =>
    by_cases hv : v = r
    · simp [hv]
    · have hr : r ∈ l := (List.mem_cons.mp h).resolve_left (Ne.symm hv)
      simpa [hv] using ih hr

/-- Values that land in registers nothing has touched since are written. -/
theorem landValues_unchanged {q : State} {sid : Nat} {ln : Lane} {l : List (BitVec 8 × Word)}
    (hn : (l.map (·.1)).Nodup)
    (hf : ∀ p ∈ l, ln.dsts.find? (fun e => e.1 = p.1) = some (p.1, (q.sheaf sid).read 0 ln.thread p.1))
    (ht : ∀ p ∈ l, q.touches sid [p.1.toNat] = false) :
    q.landValues sid ln l = q.modSheaf sid fun sh => writeList sh ln.thread ln.taint l := by
  induction l generalizing q with
  | nil =>
    have hid : q.sheaves.mod sid (fun sh => sh) = q.sheaves := by
      induction q.sheaves with
      | nil => rfl
      | cons p t ih => simp only [Tab.mod]; split <;> simp [ih]
    show q = { q with sheaves := q.sheaves.mod sid fun sh => sh }
    rw [hid]
  | cons p l ih =>
    obtain ⟨hp, hl⟩ := List.nodup_cons.mp hn
    have hfst := hf p (List.mem_cons_self ..)
    have hland : q.landDst sid ln.thread (p.1, (q.sheaf sid).read 0 ln.thread p.1) p.2 ln.taint =
        q.modSheaf sid fun sh => sh.write p.1 ln.thread p.2 ln.taint := by
      simp [State.landDst, ht p (List.mem_cons_self ..)]
    have hmm : ∀ (t : Tab Sheaf) (f g : Sheaf → Sheaf), (t.mod sid f).mod sid g = t.mod sid (g ∘ f) := by
      intro t f g
      induction t with
      | nil => rfl
      | cons e t ih =>
        obtain ⟨i, a⟩ := e
        simp only [Tab.mod]
        split
        · next h => simp [Tab.mod, h]
        · next h => simp [Tab.mod, h, ih]
    rw [State.landValues, List.foldl_cons, hfst]
    dsimp only
    rw [hland]
    change State.landValues _ sid ln l = _
    rw [ih (q := q.modSheaf sid fun sh => sh.write p.1 ln.thread p.2 ln.taint) hl (fun r hr => ?_) fun r hr =>
      ht r (List.mem_cons_of_mem p hr)]
    · simp only [State.modSheaf, hmm]
      rfl
    · have hread : ((q.modSheaf sid fun sh => sh.write p.1 ln.thread p.2 ln.taint).sheaf sid).read 0 ln.thread r.1 =
          (q.sheaf sid).read 0 ln.thread r.1 :=
        read_of_register (sheaf_modSheaf_keeps (Register · ln.thread r.1)
          (fun sh => register_write (.inl fun hc => hp (List.mem_map.mpr ⟨r, hr, hc⟩)) sh _ _) q sid sid)
      rw [hread]
      exact hf r (List.mem_cons_of_mem p hr)

/-- The registers from `d` upwards with their values. -/
def regVals (d : BitVec 8) (xs : List Word) : List (BitVec 8 × Word) := xs.mapIdx fun i x => (regAt d i, x)

theorem regAt_toNat {d : BitVec 8} {i : Nat} (h : d.toNat + i < 0xC0) : (regAt d i).toNat = d.toNat + i := by
  have hd : d.toNat < 0xF0 := by omega
  rw [regAt, if_pos hd, BitVec.toNat_add, BitVec.toNat_ofNat]
  omega

theorem mem_regVals {d : BitVec 8} {xs : List Word} {p : BitVec 8 × Word} (h : p ∈ regVals d xs) :
    ∃ i, ∃ hi : i < xs.length, p = (regAt d i, xs[i]) := by
  obtain ⟨i, hi, rfl⟩ := List.mem_mapIdx.mp h
  exact ⟨i, hi, rfl⟩

theorem nodup_regVals {d : BitVec 8} {xs : List Word} (h : d.toNat + xs.length ≤ 0xC0) :
    ((regVals d xs).map (·.1)).Nodup := by
  have hm : (regVals d xs).map (·.1) = (List.range xs.length).map (regAt d) := by
    apply List.ext_getElem
    · simp [regVals]
    · intro i h1 h2
      simp [regVals]
  rw [hm, List.nodup_map_iff_inj_on List.nodup_range]
  intro i hi j hj hij
  have hlt := List.mem_range.mp hi
  have hlt' := List.mem_range.mp hj
  have := congrArg BitVec.toNat hij
  rw [regAt_toNat (by omega), regAt_toNat (by omega)] at this
  omega

/-- The destinations of an undisturbed lane are written. -/
theorem landDsts_unchanged {q : State} {o sid : Nat} {ln : Lane} {d : BitVec 8} {n : Nat} {xs : List Word}
    (hs : ln.split = false) (hx : xs.length = n) (hd : d.toNat + n ≤ 0xC0)
    (hdst : ln.dsts = (regRun d n).map fun v => (v, (q.sheaf sid).read 0 ln.thread v))
    (ht : ∀ k < n, q.touches sid [d.toNat + k] = false) :
    q.landDsts o sid ln d xs = q.modSheaf sid fun sh => writeList sh ln.thread ln.taint (regVals d xs) := by
  subst hx
  rw [State.landDsts, if_neg (by simp [hs])]
  refine landValues_unchanged (nodup_regVals hd) (fun p hp => ?_) (fun p hp => ?_)
  · obtain ⟨i, hi, rfl⟩ := mem_regVals hp
    rw [hdst]
    have hm : regAt d i ∈ regRun d xs.length := List.mem_map_of_mem (List.mem_range.mpr hi)
    exact find_captured hm _
  · obtain ⟨i, hi, rfl⟩ := mem_regVals hp
    rw [regAt_toNat (by omega)]
    exact ht i hi

/-! ### The lanes that have landed -/

/-- A lane that is done where its thread is one of `D`. -/
def landedLane (D : List Nat) (l : Lane) : Lane := { l with done := l.done || decide (l.thread ∈ D) }

@[simp] theorem landedLane_thread (D : List Nat) (l : Lane) : (landedLane D l).thread = l.thread := rfl

/-- The operation with the lanes of threads `D` done and other sticky bits. -/
def landedOp (op : LongOp) (D : List Nat) (ast : Tab Word) : LongOp :=
  { op with lanes := op.lanes.map (landedLane D), ast := ast }

theorem laneDone_landedOp (op : LongOp) (D : List Nat) (ast : Tab Word) (t : Nat) :
    (landedOp op D ast).laneDone t = landedOp op (t :: D) ast := by
  have h : ∀ l, (if (landedLane D l).thread = t then { landedLane D l with done := true } else landedLane D l) =
      landedLane (t :: D) l := by
    intro l
    rw [landedLane_thread]
    by_cases ht : l.thread = t
    · rw [if_pos ht, landedLane, landedLane, ht, decide_eq_true (List.mem_cons_self ..), Bool.or_true]
    · rw [if_neg ht, landedLane, landedLane]
      simp only [List.mem_cons, ht, false_or]
  simp only [landedOp, LongOp.laneDone, List.map_map]
  congr 1
  exact List.map_congr_left fun l _ => h l

theorem landedOp_nil {op : LongOp} : landedOp op [] op.ast = op := by
  have h : landedLane [] = id := by
    funext l
    simp [landedLane]
  simp [landedOp, h]

/-- What has happened to the machine once the lanes of threads `D` have landed. -/
structure Landing (s q : State) (o : Nat) (op : LongOp) (D : List Nat) : Prop where
  ops : ∃ ast, q.ops.get o = some (landedOp op D ast)
  pods : q.pods = s.pods
  shape : SameShape (q.sheaf op.sid) (s.sheaf op.sid)
  there : (q.sheaves.get op.sid).isSome = (s.sheaves.get op.sid).isSome
  other : ∀ u, u ∉ D → ∀ v, (q.sheaf op.sid).read 0 u v = (s.sheaf op.sid).read 0 u v

/-- The lanes of threads `D` have the values `val` in `n` registers from `d` upwards. -/
def Holds (q : State) (op : LongOp) (d : BitVec 8) (n : Nat) (val : Lane → List Word) (D : List Nat) : Prop :=
  ∀ ln ∈ op.lanes, ln.thread ∈ D → ∀ i < n, (q.sheaf op.sid).read 0 ln.thread (regAt d i) = (val ln).getD i 0

theorem isSome_get_mod {α : Type} (t : Tab α) (k j : Nat) (f : α → α) : ((t.mod k f).get j).isSome = (t.get j).isSome := by
  by_cases h : j = k
  · subst h; simp
  · rw [Tab.get_mod_ne t f h]

theorem isSome_of_thread {s : State} {sid t : Nat} (h : t < (s.sheaf sid).threads.length) :
    (s.sheaves.get sid).isSome = true := by
  cases hg : s.sheaves.get sid with
  | none => simp [State.sheaf, hg, default, instInhabitedSheaf.default] at h
  | some sh => rfl

section
variable {s q : State} {o : Nat} {op : LongOp} {d : BitVec 8} {n : Nat} {D : List Nat}

theorem Landing.start (h : s.ops.get o = some op) : Landing s s o op [] :=
  ⟨⟨op.ast, by rw [h, landedOp_nil]⟩, rfl, .refl _, rfl, fun _ _ _ => rfl⟩

/-- What else changes does not matter. -/
theorem Landing.of_same {q' : State} (h : Landing s q o op D) (ho : q'.ops = q.ops) (hp : q'.pods = q.pods)
    (hs : q'.sheaves = q.sheaves) : Landing s q' o op D := by
  have hsh : q'.sheaf op.sid = q.sheaf op.sid := by rw [State.sheaf, hs, State.sheaf]
  exact ⟨by rw [ho]; exact h.ops, hp.trans h.pods, hsh ▸ h.shape, by rw [hs]; exact h.there,
    fun u hu v => by rw [hsh]; exact h.other u hu v⟩

/-- A lane that lands nothing is done. -/
theorem Landing.mark (h : Landing s q o op D) (t : Nat) :
    Landing s (q.modOp o fun op => op.laneDone t) o op (t :: D) := by
  obtain ⟨ast, hops⟩ := h.ops
  exact ⟨⟨ast, by simp [State.modOp, hops, laneDone_landedOp]⟩, h.pods, h.shape, h.there,
    fun u hu v => h.other u (mt (List.mem_cons_of_mem t) hu) v⟩

/-- The sources of a lane that has not landed are those captured. -/
theorem Landing.srcs (h : Landing s q o op D) (hu : Undisturbed s op d n) {ln : Lane} (hl : ln ∈ op.lanes)
    (hD : ln.thread ∉ D) : q.landSrcs op.sid ln.thread ln.srcs = (ln.srcs.map (·.2), q) := by
  obtain ⟨-, -, -, hlanes⟩ := hu
  obtain ⟨-, -, -, -, -, hsrc, -⟩ := hlanes ln hl
  exact landSrcs_unchanged fun p hp hlt => (h.other _ hD _).trans (hsrc p hp hlt)

/-- One more lane lands: its values are written. -/
theorem Landing.landDsts_eq (h : Landing s q o op D) (hu : Undisturbed s op d n) {ln : Lane} (hl : ln ∈ op.lanes)
    (hD : ln.thread ∉ D) {xs : List Word} (hx : xs.length = n) : q.landDsts o op.sid ln d xs =
      q.modSheaf op.sid fun sh => writeList sh ln.thread ln.taint (regVals d xs) := by
  obtain ⟨hd, -, htouch, hlanes⟩ := hu
  obtain ⟨-, hsplit, -, -, -, -, hdsts⟩ := hlanes ln hl
  exact landDsts_unchanged hsplit hx hd (by rw [hdsts]; simp only [h.other _ hD])
    (fun k hk => by simpa [State.touches, h.pods] using htouch k hk)

/-- The registers that a lane writes are in its own thread. -/
theorem spares_regVals {xs : List Word} (hd : d.toNat + xs.length ≤ 0xC0) {t u : Nat} (hut : u ≠ t) (v : BitVec 8)
    {p : BitVec 8 × Word} (hp : p ∈ regVals d xs) : Spares p.1 t u v := by
  obtain ⟨i, hi, rfl⟩ := mem_regVals hp
  by_cases hc : v = regAt d i
  · exact .inr ⟨by rw [hc, regAt_toNat (by omega)]; omega, hut⟩
  · exact .inl hc

theorem Landing.land (h : Landing s q o op D) (hu : Undisturbed s op d n) {ln : Lane} (hl : ln ∈ op.lanes)
    (hD : ln.thread ∉ D) {xs : List Word} (hx : xs.length = n) {f : LongOp → LongOp}
    (hf : ∀ ast, ∃ ast', f (landedOp op D ast) = landedOp op (ln.thread :: D) ast') :
    Landing s ((q.landDsts o op.sid ln d xs).modOp o f) o op (ln.thread :: D) := by
  rw [h.landDsts_eq hu hl hD hx]
  obtain ⟨hd, -, -, hlanes⟩ := hu
  obtain ⟨-, -, -, hthread, -, -, -⟩ := hlanes ln hl
  obtain ⟨ast, hops⟩ := h.ops
  obtain ⟨ast', hast⟩ := hf ast
  have hsheaf : (State.sheaf ((q.modSheaf op.sid fun sh =>
      writeList sh ln.thread ln.taint (regVals d xs)).modOp o f) op.sid) =
      writeList (q.sheaf op.sid) ln.thread ln.taint (regVals d xs) :=
    State.sheaf_modSheaf _ (h.there.trans (isSome_of_thread hthread))
  refine ⟨⟨ast', ?_⟩, h.pods, ?_, (isSome_get_mod ..).trans h.there, fun u hu v => ?_⟩
  · simp [State.modOp, hops, hast]
  · rw [hsheaf]
    exact (sameShape_writeList ..).trans h.shape
  · obtain ⟨hut, huD⟩ := not_or.mp (mt List.mem_cons.mpr hu)
    rw [hsheaf, read_writeList_spared fun p hp => spares_regVals (by omega) hut v hp]
    exact h.other u huD v

theorem Landing.holds (h : Landing s q o op D) (hu : Undisturbed s op d n) {ln : Lane} (hl : ln ∈ op.lanes)
    (hD : ln.thread ∉ D) {val : Lane → List Word} (hv : (val ln).length = n) (hr : Holds q op d n val D)
    (f : LongOp → LongOp) :
    Holds ((q.landDsts o op.sid ln d (val ln)).modOp o f) op d n val (ln.thread :: D) := by
  rw [h.landDsts_eq hu hl hD hv]
  obtain ⟨hd, hnodup, -, hlanes⟩ := hu
  obtain ⟨-, -, -, hthread, hvlen, -, -⟩ := hlanes ln hl
  have hsheaf : (State.sheaf ((q.modSheaf op.sid fun sh =>
      writeList sh ln.thread ln.taint (regVals d (val ln))).modOp o f) op.sid) =
      writeList (q.sheaf op.sid) ln.thread ln.taint (regVals d (val ln)) :=
    State.sheaf_modSheaf _ (h.there.trans (isSome_of_thread hthread))
  have hlen : ln.thread < (q.sheaf op.sid).threads.length := by rw [h.shape.length]; exact hthread
  have hvl : d.toNat + n ≤ ((q.sheaf op.sid).thread ln.thread).v.length := by rw [h.shape.v]; exact hvlen
  intro l hlm hlD i hi
  rw [hsheaf]
  by_cases hc : l.thread = ln.thread
  · obtain rfl : l = ln := List.inj_on_of_nodup_map hnodup hlm hl hc
    have hmem : (regAt d i, (val l).getD i 0) ∈ regVals d (val l) := by
      refine List.mem_mapIdx.mpr ⟨i, by omega, ?_⟩
      simp [List.getD_eq_getElem?_getD, List.getElem?_eq_getElem (show i < (val l).length by omega)]
    exact read_writeList_mem (nodup_regVals (by omega)) hmem (by rw [regAt_toNat (by omega)]; omega)
      (by rw [regAt_toNat (by omega)]; omega) hlen _
  · rw [read_writeList_spared fun p hp => spares_regVals (by omega) hc _ hp]
    exact hr l hlm ((List.mem_cons.mp hlD).resolve_left hc) i hi

/-! ### The completion (R23, R80) -/

theorem Landing.alive (h : Landing s q o op D) (ast : Tab Word) :
    q.opAlive (landedOp op D ast) = s.opAlive op := by
  have hg := h.shape.gen
  have ht := h.there
  unfold State.opAlive
  change (match q.sheaves.get op.sid with | some sh => sh.gen == op.gen | none => false) = _
  cases hq : q.sheaves.get op.sid with
  | none =>
    cases hs : s.sheaves.get op.sid with
    | none => rfl
    | some b => simp [hq, hs] at ht
  | some a =>
    cases hs : s.sheaves.get op.sid with
    | none => simp [hq, hs] at ht
    | some b =>
      simp only [State.sheaf, hq, hs, Option.getD_some] at hg
      simp only [hg]

/-- With nothing left to land, completion sets the sticky bits and counts the flag. -/
theorem completeOp_of_landed {op' : LongOp} (hops : q.ops.get o = some op') (hlate : ∀ l ∈ op'.lanes, l.late = []) :
    q.completeOp o = if q.opAlive op' then
      State.modSheaf { q with ops := q.ops.del o } op'.sid fun sh =>
        each op'.ast (fun p sh => sh.modThread p.1 fun th => { th with ast := th.ast ||| p.2 })
          (sh.modFlag op'.flag (· - 1))
      else { q with ops := q.ops.del o } := by
  have hfold : ∀ (l : List Lane) (u : State), (∀ x ∈ l, x.late = []) →
      l.foldl (fun s l => if s.opAlive op' then s.landValues op'.sid l l.late else s) u = u := by
    intro l
    induction l with
    | nil => exact fun _ _ => rfl
    | cons x l ih =>
      intro u hl
      rw [List.foldl_cons, hl x (List.mem_cons_self ..)]
      have : (if u.opAlive op' then u.landValues op'.sid x [] else u) = u := ite_self u
      rw [this]
      exact ih u fun y hy => hl y (List.mem_cons_of_mem x hy)
  simp only [State.completeOp, hops]
  rw [hfold _ _ hlate]
  rfl

/-- Completion keeps the registers and counts the flag down. -/
theorem Landing.complete (h : Landing s q o op D) (hlate : ∀ l ∈ op.lanes, l.late = []) (ha : s.opAlive op = true) :
    (∀ u v, ((q.completeOp o).sheaf op.sid).read 0 u v = (q.sheaf op.sid).read 0 u v) ∧
    ∀ k, op.flag = some k → ((q.completeOp o).sheaf op.sid).flags.getD k 0 = (s.sheaf op.sid).flags.getD k 0 - 1 := by
  obtain ⟨ast, hops⟩ := h.ops
  have hlate' : ∀ l ∈ (landedOp op D ast).lanes, l.late = [] := by
    intro l hl
    obtain ⟨x, hx, rfl⟩ := List.mem_map.mp hl
    exact hlate x hx
  have hthere : (q.sheaves.get op.sid).isSome = true := by
    rw [h.there]
    unfold State.opAlive at ha
    cases hs : s.sheaves.get op.sid with
    | none => simp [hs] at ha
    | some b => rfl
  have hsheaf : (q.completeOp o).sheaf op.sid =
      each ast (fun p sh => sh.modThread p.1 fun th => { th with ast := th.ast ||| p.2 })
        ((q.sheaf op.sid).modFlag op.flag (· - 1)) := by
    rw [completeOp_of_landed hops hlate', if_pos (by rw [h.alive, ha])]
    exact State.sheaf_modSheaf (s := { q with ops := q.ops.del o }) _ hthere
  rw [hsheaf]
  refine ⟨fun u v => read_of_register ?_, fun k hk => ?_⟩
  · rw [each_keeps (Register · u v) (by intros; exact register_modThread (by intro; rfl) (by intro; rfl) ..)]
    unfold Sheaf.modFlag
    split <;> rfl
  · rw [each_keeps Sheaf.flags (by intros; rfl), hk]
    simp only [Sheaf.modFlag, h.shape.flags, modAt, List.getD_eq_getElem?_getD, List.getElem?_modify_eq]
    cases (s.sheaf op.sid).flags[k]? <;> rfl

theorem Landing.allDone (h : Landing s q o op D) (hall : ∀ ln ∈ op.lanes, ln.thread ∈ D)
    (hlate : ∀ l ∈ op.lanes, l.late = []) {op' : LongOp} (ho : q.ops.get o = some op') : op'.allDone = true := by
  obtain ⟨ast, hops⟩ := h.ops
  rw [ho] at hops
  cases hops
  refine List.all_eq_true.mpr fun l hl => ?_
  obtain ⟨x, hx, rfl⟩ := List.mem_map.mp hl
  simp [landedLane, hall x hx, hlate x hx]

end

end Sys2Proof.Laws


/-! SUPPORT. What lands at completion: divisions and special functions (R24, R129, R150), and scratchpad accesses in the
order of their lanes (R163, R166, R167). -/

namespace Sys2Proof.Laws

open Machine

/-! ### Divisions and special functions -/

/-- Which instructions compute does not depend on their operands. -/
theorem isSome_computeLong (z z' : Bool) (i : Instr) (l l' : List Word) :
    (computeLong z i l).isSome = (computeLong z' i l').isSome := by
  cases i
  all_goals
    simp only [computeLong, Option.isSome_some, Option.isSome_none]

/-- A computing instruction in flight completes lane by lane. -/
theorem completeLong_computing {op : LongOp} (h : (computeLong false op.instr []).isSome = true) (s : State) (o : Nat) :
    s.completeLong o op = if op.lanes = [] then s.completeOp o else s.landAll o op := by
  unfold State.completeLong
  split
  case h_16 => rw [if_pos h]
  all_goals
    next hi => rw [hi] at h; nomatch h

/-- One of its lanes that has not landed. -/
theorem landLane_computing {s : State} {o : Nat} {op : LongOp} {ln : Lane} {t : Nat}
    (h : (computeLong false op.instr []).isSome = true) (ho : s.ops.get o = some op)
    (hf : op.lanes.find? (fun l => l.thread = t && !l.done) = some ln) : s.landLane o t = s.landCompute o ln := by
  simp only [State.landLane, ho, hf]
  split
  case h_6 => rfl
  all_goals
    next hi => rw [hi] at h; nomatch h

/-- A lane of a thread that has not landed is found as it issued. -/
theorem find_landed {op : LongOp} {D : List Nat} {ast : Tab Word} {ln : Lane} (hn : (op.lanes.map (·.thread)).Nodup)
    (hl : ln ∈ op.lanes) (hd : ln.done = false) (hD : ln.thread ∉ D) :
    (landedOp op D ast).lanes.find? (fun l => l.thread = ln.thread && !l.done) = some ln := by
  have hself : landedLane D ln = ln := by simp [landedLane, hD]
  have hfind : ∀ l : List Lane, (l.map (·.thread)).Nodup → ln ∈ l →
      (l.map (landedLane D)).find? (fun l => l.thread = ln.thread && !l.done) = some ln := by
    intro l
    induction l with
    | nil => exact fun _ h => nomatch h
    | cons x l ih =>
      intro hnd hm
      obtain ⟨hx, hnd⟩ := List.nodup_cons.mp hnd
      rcases List.mem_cons.mp hm with rfl | hm
      · rw [List.map_cons, hself]
        simp [hd]
      · have hne : x.thread ≠ ln.thread := fun hc => hx (List.mem_map.mpr ⟨ln, hm, hc.symm⟩)
        rw [List.map_cons, List.find?_cons_of_neg (by simp [hne])]
        exact ih hnd hm
  exact hfind op.lanes hn hl

section
variable {s q : State} {o : Nat} {op : LongOp} {f : Fields} {D : List Nat}

/-- What a computing lane writes. -/
def longVal (s : State) (op : LongOp) (ln : Lane) : List Word :=
  [((computeLong (s.wg op.wg).desc.ftz op.instr (ln.srcs.map (·.2))).getD default).1]

theorem addAst_landedOp (op : LongOp) (D : List Nat) (ast : Tab Word) (t : Nat) (w : Word) :
    ∃ ast', ((landedOp op D ast).addAst t w).laneDone t = landedOp op (t :: D) ast' := by
  unfold LongOp.addAst
  split
  · exact ⟨_, laneDone_landedOp ..⟩
  · exact ⟨_, laneDone_landedOp op D _ t⟩

/-- A computing lane lands. -/
theorem Landing.landCompute (h : Landing s q o op D) (hu : Undisturbed s op f.d 1) (hw : q.wgs = s.wgs)
    {opc : Nat} {form : Form} (hi : op.instr.isa? = some (opc, form, f))
    (hc : (computeLong false op.instr []).isSome = true) {ln : Lane} (hl : ln ∈ op.lanes) (hD : ln.thread ∉ D)
    (hr : Holds q op f.d 1 (longVal s op) D) :
    Landing s (q.landCompute o ln) o op (ln.thread :: D) ∧ (q.landCompute o ln).wgs = s.wgs ∧
      Holds (q.landCompute o ln) op f.d 1 (longVal s op) (ln.thread :: D) := by
  obtain ⟨ast, hops⟩ := h.ops
  obtain ⟨r, hres⟩ : ∃ r, computeLong (s.wg op.wg).desc.ftz op.instr (ln.srcs.map (·.2)) = some r :=
    Option.isSome_iff_exists.mp ((isSome_computeLong ..).trans hc)
  have hval : [r.1] = longVal s op ln := by rw [longVal, hres]; rfl
  have hq : q.landCompute o ln = (q.landDsts o op.sid ln f.d (longVal s op ln)).modOp o
      fun op => (op.addAst ln.thread r.2).laneDone ln.thread := by
    have hwg : (q.wg (landedOp op D ast).wg).desc.ftz = (s.wg op.wg).desc.ftz := by rw [State.wg, hw, State.wg]; rfl
    have hsrc : q.landSrcs (landedOp op D ast).sid ln.thread ln.srcs = _ := h.srcs hu hl hD
    have hres' : computeLong (s.wg op.wg).desc.ftz (landedOp op D ast).instr (ln.srcs.map (·.2)) = some r := hres
    have hi' : (landedOp op D ast).instr.isa? = some (opc, form, f) := hi
    simp only [State.landCompute, hops, hsrc, hwg, hres', hi', ← hval]
    rfl
  rw [hq]
  refine ⟨h.land hu hl hD rfl fun ast => addAst_landedOp .., ?_, h.holds hu hl hD rfl hr _⟩
  rw [h.landDsts_eq hu hl hD rfl]
  exact hw

/-- All the lanes of a list of threads land in turn. -/
theorem Landing.landLanes (h : Landing s q o op D) (hu : Undisturbed s op f.d 1) (hw : q.wgs = s.wgs)
    {opc : Nat} {form : Form} (hi : op.instr.isa? = some (opc, form, f))
    (hc : (computeLong false op.instr []).isSome = true) (hr : Holds q op f.d 1 (longVal s op) D) {l : List Lane}
    (hl : ∀ ln ∈ l, ln ∈ op.lanes ∧ ln.thread ∉ D) (hn : (l.map (·.thread)).Nodup) :
    ∃ D', Landing s (q.landLanes o (l.map (·.thread))) o op D' ∧ (∀ t ∈ D, t ∈ D') ∧ (∀ ln ∈ l, ln.thread ∈ D') ∧
      Holds (q.landLanes o (l.map (·.thread))) op f.d 1 (longVal s op) D' := by
  induction l generalizing q D with
  | nil => exact ⟨D, h, fun _ ht => ht, (by simp), hr⟩
  | cons ln l ih =>
    obtain ⟨hmem, hD⟩ := hl ln (List.mem_cons_self ..)
    obtain ⟨hnot, hnd⟩ := List.nodup_cons.mp hn
    obtain ⟨-, hnodup, -, hlanes⟩ := id hu
    obtain ⟨ast, hops⟩ := h.ops
    have hstep : q.landLane o ln.thread = q.landCompute o ln :=
      landLane_computing (op := landedOp op D ast) hc hops (find_landed hnodup hmem (hlanes ln hmem).1 hD)
    obtain ⟨hland, hwgs, hhold⟩ := h.landCompute hu hw hi hc hmem hD hr
    obtain ⟨ast', hops'⟩ := hland.ops
    have hdone : (landedOp op (ln.thread :: D) ast').lanes.any (fun l => l.thread = ln.thread && !l.done) = false := by
      refine List.any_eq_false.mpr fun x hx => ?_
      obtain ⟨y, -, rfl⟩ := List.mem_map.mp hx
      by_cases hy : y.thread = ln.thread <;> simp [landedLane, hy]
    rw [List.map_cons, State.landLanes, hstep, hops']
    dsimp only
    rw [if_neg (by rw [hdone]; exact Bool.false_ne_true)]
    obtain ⟨D', h1, h2, h3, h4⟩ := ih hland hwgs hhold (fun x hx => ⟨(hl x (List.mem_cons_of_mem ln hx)).1, fun hc =>
      (List.mem_cons.mp hc).elim (fun he => hnot (List.mem_map.mpr ⟨x, hx, he⟩))
        (hl x (List.mem_cons_of_mem ln hx)).2⟩) hnd
    refine ⟨D', h1, fun t ht => h2 t (List.mem_cons_of_mem _ ht), fun x hx => ?_, h4⟩
    rcases List.mem_cons.mp hx with rfl | hx
    · exact h2 _ (List.mem_cons_self ..)
    · exact h3 x hx

end

/-- Settles O11: the lanes land in turn, each with the value of its captured sources, and the last completes the
operation. -/
theorem longLatencyLands : Obligations.LongLatencyLands := by
  intro s o op opc form f ho ha hi hc hu
  obtain ⟨-, hnodup, -, hlanes⟩ := id hu
  have hlate : ∀ l ∈ op.lanes, l.late = [] := fun l hl => (hlanes l hl).2.2.1
  have hexec : exec (.longLatencyCompletion o) s = .next (s.completeLong o op) := by
    simp only [exec, execLongLatencyCompletion, ho]
  have hfilter : op.lanes.filter (!·.done) = op.lanes :=
    List.filter_eq_self.mpr fun l hl => by simp [(hlanes l hl).1]
  obtain ⟨D, hland, -, hall, hhold⟩ := (Landing.start ho).landLanes hu rfl hi hc (l := op.lanes)
    (fun _ _ h => nomatch h) (fun ln hl => ⟨hl, List.not_mem_nil⟩) hnodup
  obtain ⟨ast, hops⟩ := hland.ops
  have hend : s.completeLong o op = (s.landLanes o (op.lanes.map (·.thread))).completeOp o := by
    rw [completeLong_computing hc]
    split
    · next hnil => rw [hnil]; rfl
    · rw [State.landAll, hfilter, State.tryComplete, hops]
      exact if_pos (hland.allDone hall hlate hops)
  obtain ⟨hread, hflag⟩ := hland.complete hlate ha
  refine ⟨_, hexec, ?_, fun n hn => ?_, fun ln hl => ?_⟩
  · rw [hend]
    exact completeOp_ops ..
  · rw [hend]
    exact hflag n hn
  · obtain ⟨r, hres⟩ : ∃ r, computeLong (s.wg op.wg).desc.ftz op.instr (ln.srcs.map (·.2)) = some r :=
      Option.isSome_iff_exists.mp ((isSome_computeLong ..).trans hc)
    have h0 : regAt f.d 0 = f.d := by simp [regAt]
    have := hhold ln hl (hall ln hl) 0 Nat.one_pos
    rw [h0] at this
    rw [hend, hread, this, hres, longVal, hres]
    rfl

/-! ### Scratchpad accesses (R163, R166, R167) -/

theorem scratch_modScratch {s : State} {w : Nat} (h : (s.wgs.get w).isSome = true) (f : Memory → Memory) :
    ((s.modScratch w f).wg w).scratch = f (s.wg w).scratch :=
  congrArg Workgroup.scratch (State.wg_modWg _ h)

/-- What a lane of a scratchpad access leaves in the scratchpad of its workgroup. -/
def scratchStep (i : Instr) (m : Memory) (ln : Lane) : Memory :=
  match i with
  | .sts f => m.writeN ln.va.toNat (storeBytes (f.xmod.toNat % 8) (ln.srcs.map (·.2)))
  | .ats f => m.putNum ln.va.toNat 4 (atsNew (f.xmod.toNat % 16) (BitVec.ofNat 32 (m.num ln.va.toNat 4))
      (opd (ln.srcs.map (·.2)) 0) (opd (ln.srcs.map (·.2)) 1)).toNat
  | _ => m

/-- What a lane of `lds` reads of a scratchpad. -/
def loadVal (f : Fields) (m : Memory) (ln : Lane) : List Word :=
  loadVals (f.xmod.toNat % 8) (m.readN ln.va.toNat (sizeBytes (f.xmod.toNat % 8)))

theorem length_bytesWords (n : Nat) (bs : List Byte) : (bytesWords n bs).length = n := by
  induction n generalizing bs with
  | zero => rfl
  | succ n ih => simp [bytesWords, ih]

theorem length_loadVals {c : Nat} (bs : List Byte) : (loadVals c bs).length = sizeRegs c := by
  unfold loadVals sizeRegs
  split <;> simp_all [length_bytesWords]

/-- The machine after the lanes of threads `D` of a scratchpad access, with the scratchpad `m` of its workgroup. -/
structure Scratched (s q : State) (o : Nat) (op : LongOp) (m : Memory) (D : List Nat) : Prop extends
    Landing s q o op D where
  cores : q.cores = s.cores
  wg : (q.wgs.get op.wg).isSome = true
  scratch : (q.wg op.wg).scratch = m

section
variable {s q : State} {o : Nat} {op : LongOp} {f : Fields} {D : List Nat} {m : Memory} {ln : Lane}

theorem Scratched.sts (h : Scratched s q o op m D) (hi : op.instr = .sts f) (hu : Undisturbed s op 0 0)
    (hl : ln ∈ op.lanes) (hD : ln.thread ∉ D) (hpa : ln.pa.toNat = op.wg) :
    Scratched s (q.applyScratchLane o op ln) o op (scratchStep op.instr m ln) (ln.thread :: D) := by
  have hq : q.applyScratchLane o op ln = (q.modScratch op.wg fun m =>
      m.writeN ln.va.toNat (storeBytes (f.xmod.toNat % 8) (ln.srcs.map (·.2)))).modOp o fun op =>
        op.laneDone ln.thread := by
    simp only [State.applyScratchLane, h.toLanding.srcs hu hl hD, hi, hpa, fieldsMod_zero]
    rfl
  rw [hq, hi]
  refine ⟨(h.toLanding.of_same (q' := q.modScratch op.wg _) rfl rfl rfl).mark ln.thread, h.cores,
    (isSome_get_mod ..).trans h.wg, ?_⟩
  exact (scratch_modScratch h.wg fun m => scratchStep (.sts f) m ln).trans
    (congrArg (scratchStep (.sts f) · ln) h.scratch)

theorem Scratched.lds (h : Scratched s q o op m D) (hi : op.instr = .lds f)
    (hu : Undisturbed s op f.d (sizeRegs (f.xmod.toNat % 8))) (hl : ln ∈ op.lanes) (hD : ln.thread ∉ D)
    (hpa : ln.pa.toNat = op.wg) (hr : Holds q op f.d (sizeRegs (f.xmod.toNat % 8)) (loadVal f m) D) :
    Scratched s (q.applyScratchLane o op ln) o op (scratchStep op.instr m ln) (ln.thread :: D) ∧
    Holds (q.applyScratchLane o op ln) op f.d (sizeRegs (f.xmod.toNat % 8)) (loadVal f m) (ln.thread :: D) := by
  have hlen : (loadVal f m ln).length = sizeRegs (f.xmod.toNat % 8) := length_loadVals _
  have hq : q.applyScratchLane o op ln = (q.landDsts o op.sid ln f.d (loadVal f m ln)).modOp o fun op =>
        op.laneDone ln.thread := by
    simp only [State.applyScratchLane, h.toLanding.srcs hu hl hD, hi, hpa, fieldsMod_zero, h.scratch]
    rfl
  rw [hq, hi]
  refine ⟨⟨h.toLanding.land hu hl hD hlen fun ast => ⟨ast, laneDone_landedOp ..⟩, ?_, ?_, ?_⟩,
    h.toLanding.holds hu hl hD hlen hr _⟩
  all_goals rw [h.toLanding.landDsts_eq hu hl hD hlen]
  · exact h.cores
  · exact h.wg
  · exact h.scratch

theorem Scratched.ats (h : Scratched s q o op m D) (hi : op.instr = .ats f) (hu : Undisturbed s op f.d 1)
    (hl : ln ∈ op.lanes) (hD : ln.thread ∉ D) (hpa : ln.pa.toNat = op.wg) :
    Scratched s (q.applyScratchLane o op ln) o op (scratchStep op.instr m ln) (ln.thread :: D) := by
  let new := atsNew (f.xmod.toNat % 16) (BitVec.ofNat 32 (m.num ln.va.toNat 4)) (opd (ln.srcs.map (·.2)) 0)
    (opd (ln.srcs.map (·.2)) 1)
  let q' := q.modScratch op.wg fun m => m.putNum ln.va.toNat 4 new.toNat
  have h' : Landing s q' o op D := h.toLanding.of_same rfl rfl rfl
  have hq : q.applyScratchLane o op ln =
      (q'.landDsts o op.sid ln f.d [BitVec.ofNat 32 (m.num ln.va.toNat 4)]).modOp o fun op => op.laneDone ln.thread := by
    simp only [State.applyScratchLane, h.toLanding.srcs hu hl hD, hi, hpa, fieldsMod_zero, State.scratchNum, h.scratch]
    rfl
  rw [hq, hi]
  refine ⟨h'.land hu hl hD rfl fun ast => ⟨ast, laneDone_landedOp ..⟩, ?_, ?_, ?_⟩
  all_goals rw [h'.landDsts_eq hu hl hD rfl]
  · exact h.cores
  · exact (isSome_get_mod ..).trans h.wg
  · exact (scratch_modScratch h.wg fun m => m.putNum ln.va.toNat 4 new.toNat).trans
      (congrArg (fun m => Memory.putNum m ln.va.toNat 4 new.toNat) h.scratch)

end

section
variable {s q : State} {o : Nat} {op : LongOp} {D : List Nat} {m : Memory}

/-- All the lanes of a list in turn, where each does what `P` keeps. -/
theorem Scratched.each {P : State → Memory → List Nat → Prop}
    (hstep : ∀ q m D ln, Scratched s q o op m D → P q m D → ln ∈ op.lanes → ln.thread ∉ D →
      Scratched s (q.applyScratchLane o op ln) o op (scratchStep op.instr m ln) (ln.thread :: D) ∧
      P (q.applyScratchLane o op ln) (scratchStep op.instr m ln) (ln.thread :: D))
    (h : Scratched s q o op m D) (hP : P q m D) {l : List Lane} (hl : ∀ ln ∈ l, ln ∈ op.lanes ∧ ln.thread ∉ D)
    (hn : (l.map (·.thread)).Nodup) :
    ∃ D', Scratched s (each l (fun ln s => s.applyScratchLane o op ln) q) o op (l.foldl (scratchStep op.instr) m) D' ∧
      P (each l (fun ln s => s.applyScratchLane o op ln) q) (l.foldl (scratchStep op.instr) m) D' ∧
      (∀ t ∈ D, t ∈ D') ∧ ∀ ln ∈ l, ln.thread ∈ D' := by
  induction l generalizing q m D with
  | nil => exact ⟨D, h, hP, fun _ ht => ht, by simp⟩
  | cons ln l ih =>
    obtain ⟨hmem, hD⟩ := hl ln (List.mem_cons_self ..)
    obtain ⟨hnot, hnd⟩ := List.nodup_cons.mp hn
    obtain ⟨h1, hP1⟩ := hstep q m D ln h hP hmem hD
    obtain ⟨D', h2, hP2, hsub, hall⟩ := ih h1 hP1 (fun x hx => ⟨(hl x (List.mem_cons_of_mem ln hx)).1, fun hc =>
      (List.mem_cons.mp hc).elim (fun he => hnot (List.mem_map.mpr ⟨x, hx, he⟩))
        (hl x (List.mem_cons_of_mem ln hx)).2⟩) hnd
    refine ⟨D', h2, hP2, fun t ht => hsub t (List.mem_cons_of_mem _ ht), fun x hx => ?_⟩
    rcases List.mem_cons.mp hx with rfl | hx
    · exact hsub _ (List.mem_cons_self ..)
    · exact hall x hx

/-- Nothing earlier of the sheaf bars an access. -/
theorem barred_of_unbarred (h : Unbarred s o op) (t : Nat) (b : Bool) : s.barred op.sid op.gen t b o = false := by
  refine List.any_eq_false.mpr fun p hp hc => ?_
  simp only [Bool.and_eq_true, decide_eq_true_eq, beq_iff_eq] at hc
  obtain ⟨⟨⟨hlt, hsid⟩, hgen⟩, hbars⟩ := hc
  obtain ⟨hacq, hcon⟩ := h p hp hlt hsid hgen
  simp [LongOp.bars, LongOp.acquires, LongOp.consumes, hacq] at hbars

/-- The first access of a core's order, none of whose lanes has to wait, is applied lane after lane and completes. -/
theorem scratchApplied {core : Nat} {rest : List Nat} {P : State → Memory → List Nat → Prop}
    (hfifo : (s.core core).fifo = o :: rest) (ho : s.ops.get o = some op) (hw : (s.wgs.get op.wg).isSome = true)
    (hb : Unbarred s o op) (hpa : ∀ ln ∈ op.lanes, ln.pa.toNat = op.wg) (hn : (op.lanes.map (·.thread)).Nodup)
    (hlanes : ∀ ln ∈ op.lanes, ln.done = false ∧ ln.late = [])
    (hP : P (s.modCore core fun k => { k with fifo := rest }) (s.wg op.wg).scratch [])
    (hstep : ∀ q m D ln, Scratched (s.modCore core fun k => { k with fifo := rest }) q o op m D → P q m D →
      ln ∈ op.lanes → ln.thread ∉ D →
      Scratched (s.modCore core fun k => { k with fifo := rest }) (q.applyScratchLane o op ln) o op
        (scratchStep op.instr m ln) (ln.thread :: D) ∧
      P (q.applyScratchLane o op ln) (scratchStep op.instr m ln) (ln.thread :: D)) :
    ∃ q D, exec (.scratchpadAccessApplied core 0) s = .next (q.completeOp o) ∧
      Scratched (s.modCore core fun k => { k with fifo := rest }) q o op
        (op.lanes.foldl (scratchStep op.instr) (s.wg op.wg).scratch) D ∧
      P q (op.lanes.foldl (scratchStep op.instr) (s.wg op.wg).scratch) D ∧ ∀ ln ∈ op.lanes, ln.thread ∈ D := by
  let s1 := s.modCore core fun k => { k with fifo := rest }
  have hfilter : op.lanes.filter (fun l => !l.done && ((l.pa.toNat != op.wg) == false)) = op.lanes :=
    List.filter_eq_self.mpr fun l hl => by simp [(hlanes l hl).1, hpa l hl]
  have hstart : Scratched s1 s1 o op (s.wg op.wg).scratch [] := ⟨.start ho, rfl, hw, rfl⟩
  obtain ⟨D, h1, hP1, -, hall⟩ := hstart.each hstep hP (l := op.lanes)
    (fun ln hl => ⟨hl, List.not_mem_nil⟩) hn
  obtain ⟨ast, hops⟩ := h1.ops
  refine ⟨_, D, ?_, h1, hP1, hall⟩
  have hnb : s.scratchBarred o false = false := by
    simp only [State.scratchBarred, ho]
    exact List.any_eq_false.mpr fun l _ hc => by simp [barred_of_unbarred hb] at hc
  have hpop : s.popScratch core false = s1.applyScratch o false := by
    simp [State.popScratch, hfifo, hnb, s1]
  have ho1 : s1.ops.get o = some op := ho
  change Host.Outcome.next (s.popScratch core false) = _
  rw [hpop]
  simp only [State.applyScratch, ho1, hfilter]
  rw [hops]
  dsimp only
  rw [if_pos (h1.toLanding.allDone hall (fun l hl => (hlanes l hl).2) hops)]

/-- What completion leaves of cores and workgroups. -/
theorem completeOp_cores_wgs (q : State) (o : Nat) : (q.completeOp o).cores = q.cores ∧ (q.completeOp o).wgs = q.wgs := by
  rw [completeOp_landed q o]
  exact ⟨rfl, rfl⟩

theorem scratch_completed (h : Scratched s q o op m D) {core : Nat} :
    ((q.completeOp o).core core).fifo = (s.core core).fifo ∧ (q.completeOp o).ops.get o = none ∧
    ((q.completeOp o).wg op.wg).scratch = m := by
  obtain ⟨hc, hw⟩ := completeOp_cores_wgs q o
  refine ⟨?_, completeOp_ops .., ?_⟩
  · rw [State.core, hc, h.cores]
    rfl
  · rw [State.wg, hw]
    exact h.scratch

end

theorem undisturbed_modCore {s : State} {op : LongOp} {d : BitVec 8} {n : Nat} (h : Undisturbed s op d n) (c : Nat)
    (f : Core → Core) : Undisturbed (s.modCore c f) op d n := h

/-- Settles O13: the lanes in turn, each by what its instruction does with the scratchpad as the lower ones left it. -/
theorem scratchAccessesApply : Obligations.ScratchAccessesApply := by
  intro s core o rest op hfifo ho hw hb hpa
  have hlanes : ∀ {d n}, Undisturbed s op d n →
      (op.lanes.map (·.thread)).Nodup ∧ ∀ ln ∈ op.lanes, ln.done = false ∧ ln.late = [] := by
    rintro d n ⟨-, hn, -, hl⟩
    exact ⟨hn, fun ln h => ⟨(hl ln h).1, (hl ln h).2.2.1⟩⟩
  refine ⟨fun f hi hu => ?_, fun f hi hu ha => ?_, fun f hi hu => ?_⟩
  · obtain ⟨hn, hl⟩ := hlanes hu
    obtain ⟨q, D, hexec, h, -, -⟩ := scratchApplied (P := fun _ _ _ => True) hfifo ho hw hb hpa hn hl trivial
      fun q m D ln h _ hm hD => ⟨h.sts hi (undisturbed_modCore hu ..) hm hD (hpa ln hm), trivial⟩
    obtain ⟨hf, hgone, hscr⟩ := scratch_completed h (core := core)
    refine ⟨_, hexec, by rw [hf, State.core_modCore], hgone, ?_⟩
    rw [hscr, hi]
    rfl
  · obtain ⟨hn, hl⟩ := hlanes hu
    have hsame : ∀ l : List Lane, l.foldl (scratchStep op.instr) (s.wg op.wg).scratch = (s.wg op.wg).scratch := by
      intro l
      rw [hi]
      exact List.foldl_fixed l
    obtain ⟨q, D, hexec, h, ⟨hhold, -⟩, hall⟩ := scratchApplied
      (P := fun q m D => Holds q op f.d (sizeRegs (f.xmod.toNat % 8)) (loadVal f (s.wg op.wg).scratch) D ∧
        m = (s.wg op.wg).scratch) hfifo ho hw hb hpa hn hl
      ⟨by simp [Holds], rfl⟩ fun q m D ln h hP hm hD => by
        obtain ⟨hhold, rfl⟩ := hP
        obtain ⟨h1, h2⟩ := h.lds hi (undisturbed_modCore hu ..) hm hD (hpa ln hm) hhold
        exact ⟨h1, h2, by rw [hi]; rfl⟩
    obtain ⟨hf, hgone, hscr⟩ := scratch_completed h (core := core)
    obtain ⟨hread, -⟩ := h.toLanding.complete (fun l hm => (hl l hm).2) ha
    refine ⟨_, hexec, by rw [hf, State.core_modCore], hgone, by rw [hscr, hsame], fun ln hm => ?_⟩
    have hlen : (loadVal f (s.wg op.wg).scratch ln).length = sizeRegs (f.xmod.toNat % 8) := length_loadVals _
    apply List.ext_getElem
    · simp [Sheaf.readRun, regRun, length_loadVals]
    · intro i h1 h2
      have hi' : i < sizeRegs (f.xmod.toNat % 8) := by rwa [length_loadVals] at h2
      simp only [Sheaf.readRun, regRun, List.getElem_map, List.getElem_range, hread]
      rw [hhold ln hm (hall ln hm) i hi', List.getD_eq_getElem?_getD, List.getElem?_eq_getElem (by omega)]
      rfl
  · obtain ⟨hn, hl⟩ := hlanes hu
    obtain ⟨q, D, hexec, h, -, -⟩ := scratchApplied (P := fun _ _ _ => True) hfifo ho hw hb hpa hn hl trivial
      fun q m D ln h _ hm hD => ⟨h.ats hi (undisturbed_modCore hu ..) hm hD (hpa ln hm), trivial⟩
    obtain ⟨hf, hgone, hscr⟩ := scratch_completed h (core := core)
    refine ⟨_, hexec, by rw [hf, State.core_modCore], hgone, ?_⟩
    rw [hscr, hi]
    rfl

end Sys2Proof.Laws


/-! SUPPORT. What a row group of a matrix operation writes (R217), and the sums of its elements (R82). -/

namespace Sys2Proof.Laws

open Machine

/-! ### Elements of an accumulator tile (R202) -/

/-- An entry of two lists one after the other. -/
theorem tab_get_append {α : Type} (a b : Tab α) (k : Nat) :
    Tab.get (a ++ b) k = (Tab.get a k).or (Tab.get b k) := by
  induction a with
  | nil => rfl
  | cons p a ih =>
    obtain ⟨i, x⟩ := p
    simp only [List.cons_append, Tab.get]
    split
    · rfl
    · exact ih

/-- An entry of a list filtered by its number. -/
theorem tab_get_filter {α : Type} (a : Tab α) (p : Nat → Bool) (k : Nat) :
    Tab.get (a.filter fun e => p e.1) k = if p k then Tab.get a k else none := by
  induction a with
  | nil => simp [Tab.get]
  | cons e a ih =>
    obtain ⟨i, x⟩ := e
    by_cases hi : i = k
    · subst hi
      cases hp : p i
      · rw [List.filter_cons_of_neg (by simp [hp]), ih]
        simp [hp]
      · rw [List.filter_cons_of_pos (by simp [hp])]
        simp [Tab.get]
    · have htail : Tab.get ((i, x) :: a) k = Tab.get a k := by simp [Tab.get, hi]
      rw [htail]
      cases hp : p i
      · rw [List.filter_cons_of_neg (by simp [hp]), ih]
      · rw [List.filter_cons_of_pos (by simp [hp]), Tab.get, if_neg hi, ih]

/-- The entries of a row from number `b` upwards, zeros left out. -/
theorem tab_get_row (b : Nat) (ws : List Word) (k : Nat) :
    (Tab.get ((ws.mapIdx fun n w => (b + n, w)).filter fun p => p.2 ≠ 0) k).getD 0 =
      if b ≤ k then ws.getD (k - b) 0 else 0 := by
  induction ws generalizing b with
  | nil => simp [Tab.get]
  | cons w ws ih =>
    have htail : (ws.mapIdx fun n w => (b + (n + 1), w)) = ws.mapIdx fun n w => (b + 1 + n, w) := by
      congr 1
      funext n w
      rw [Nat.add_assoc, Nat.add_comm 1 n]
    rw [List.mapIdx_cons, Nat.add_zero, htail]
    have hrest := ih (b + 1)
    by_cases hk : k = b
    · subst hk
      rw [if_neg (by omega)] at hrest
      by_cases hw : w = 0
      · rw [List.filter_cons_of_neg (by simpa using hw), hrest]
        simp [hw]
      · rw [List.filter_cons_of_pos (by simpa using hw)]
        simp [Tab.get]
    · have hgoal : (if b ≤ k then (w :: ws).getD (k - b) 0 else 0) = if b + 1 ≤ k then ws.getD (k - (b + 1)) 0 else 0 := by
        by_cases hb : b + 1 ≤ k
        · obtain ⟨j, rfl⟩ : ∃ j, k = b + 1 + j := ⟨k - (b + 1), by omega⟩
          rw [if_pos (by omega), if_pos hb, show b + 1 + j - b = j + 1 by omega, List.getD_cons_succ]
          congr 1
          omega
        · rw [if_neg (by omega), if_neg hb]
      rw [hgoal, ← hrest]
      by_cases hw : w = 0
      · rw [List.filter_cons_of_neg (by simpa using hw)]
      · rw [List.filter_cons_of_pos (by simpa using hw), Tab.get, if_neg (Ne.symm hk)]

/-- A list without the number `k` has no entry of it. -/
theorem tab_get_eq_none {α : Type} {l : Tab α} {k : Nat} (h : ∀ p ∈ l, p.1 ≠ k) : Tab.get l k = none := by
  induction l with
  | nil => rfl
  | cons p l ih =>
    obtain ⟨i, x⟩ := p
    rw [Tab.get, if_neg (h _ (List.mem_cons_self ..)), ih fun p hp => h p (List.mem_cons_of_mem _ hp)]

/-- The entries of a row have the numbers from `b` to `b + ws.length - 1`. -/
theorem tab_get_row_outside {b k : Nat} {ws : List Word} (h : k < b ∨ b + ws.length ≤ k) :
    Tab.get ((ws.mapIdx fun n w => (b + n, w)).filter fun p => p.2 ≠ 0) k = none := by
  refine tab_get_eq_none fun p hp => ?_
  obtain ⟨n, hn, rfl⟩ := List.mem_mapIdx.1 (List.mem_filter.1 hp).1
  simp only
  omega

/-- An element after a row has been replaced. -/
theorem elem_setRow (a : Acc) (m : Nat) (ws : List Word) (r : Nat) {n : Nat} (hn : n < 64) :
    (a.setRow m ws).elem r n = if r = m then ws.getD n 0 else a.elem r n := by
  have hlow := tab_get_filter a.elems (fun k => decide (k < 64 * m)) (64 * r + n)
  have hhigh := tab_get_filter a.elems (fun k => decide (64 * m + 64 ≤ k)) (64 * r + n)
  simp only [Acc.elem, Acc.setRow, tab_get_append]
  rw [hlow, hhigh]
  have hlen : (ws.take 64).length ≤ 64 := List.length_take_le ..
  rcases Nat.lt_trichotomy r m with hlt | heq | hgt
  · rw [tab_get_row_outside (by omega)]
    simp [show 64 * r + n < 64 * m by omega, show ¬ 64 * m + 64 ≤ 64 * r + n by omega, show r ≠ m by omega]
  · subst heq
    have hnew := tab_get_row (64 * r) (ws.take 64) (64 * r + n)
    rw [if_pos (by omega), Nat.add_sub_cancel_left] at hnew
    simp only [show ¬ 64 * r + n < 64 * r by omega, show ¬ 64 * r + 64 ≤ 64 * r + n by omega, decide_false,
      Bool.false_eq_true, if_false, Option.none_or, Option.or_none, if_true, hnew]
    simp [List.getD_eq_getElem?_getD, hn]
  · rw [tab_get_row_outside (by omega)]
    simp [show ¬ 64 * r + n < 64 * m by omega, show 64 * m + 64 ≤ 64 * r + n by omega, show r ≠ m by omega]

/-- An element after the rows of a list have been replaced by those that `g` gives. -/
theorem elem_setRows (g : Nat → List Word) (l : List Nat) (a : Acc) (r : Nat) {n : Nat} (hn : n < 64) :
    (each (l.map fun r => (r, g r)) (fun p a => a.setRow p.1 p.2) a).elem r n =
      if r ∈ l then (g r).getD n 0 else a.elem r n := by
  induction l generalizing a with
  | nil => simp [each]
  | cons q l ih =>
    have hstep := ih (a.setRow q (g q))
    simp only [each, List.map_cons, List.foldl_cons] at hstep ⊢
    rw [hstep, elem_setRow a q _ r hn]
    by_cases hq : r = q
    · subst hq
      simp
    · simp [hq]

/-! ### Rows written to a tile (R204) -/

theorem elem_of_elems {a b : Acc} (h : a.elems = b.elems) (r n : Nat) : a.elem r n = b.elem r n := by
  simp only [Acc.elem, h]

/-- A tile of a workgroup that has it, changed. -/
theorem acc_modAcc {s : State} {w n : Nat} (f : Acc → Acc) (hw : (s.wgs.get w).isSome = true)
    (hn : n < (s.wg w).acc.length) : (s.modAcc w n f).acc w n = f (s.acc w n) := by
  simp only [State.acc, State.modAcc, State.wg_modWg _ hw, modAt]
  simp [List.getD_eq_getElem?_getD, List.getElem?_eq_getElem hn]

/-- The elements of a tile after rows have been written, where what is noted beside them leaves the elements. -/
theorem elem_writeRows {s : State} {w n : Nat} (ticket : Nat) (rows : List (Nat × List Word)) {f : Acc → Acc}
    (hf : ∀ a, (f a).elems = a.elems) (hw : (s.wgs.get w).isSome = true) (hn : n < (s.wg w).acc.length) (r c : Nat) :
    ((s.writeRows w n ticket rows f).acc w n).elem r c =
      (each rows (fun p a => a.setRow p.1 p.2) (s.acc w n)).elem r c := by
  have hread : ∀ s : State, (s.readRows w n).acc w n = s.acc w n := fun _ => rfl
  rw [State.writeRows, hread, acc_modAcc _ hw hn]
  exact elem_of_elems (hf _) r c

/-! ### A row group of operands that have been read (R217) -/

/-- What an engine computes for a row group, where no poison has spoilt the operation. -/
theorem groupResults (g : Nat → List (Word × Bool)) (l : List Nat) (pre : List (Nat × List (Word × Bool))) (s : State) :
    l.foldl (fun (acc : List (Nat × List (Word × Bool)) × State) r => (acc.1 ++ [(r, g r)], acc.2)) (pre, s) =
      (pre ++ l.map fun r => (r, g r), s) := by
  induction l generalizing pre with
  | nil => simp
  | cons r l ih => simp [ih]

theorem mem_groupRows (g r : Nat) : r ∈ groupRows g ↔ 16 * g ≤ r ∧ r < 16 * g + 16 := by
  simp only [groupRows, List.mem_map, List.mem_range]
  constructor
  · rintro ⟨j, hj, rfl⟩
    omega
  · intro h
    exact ⟨r - 16 * g, by omega, by omega⟩

/-- An operation whose operands are in fragments has no tile to look at. -/
theorem lookTiles_of_fragments {m : MatOp} {ra rb : List (List Word)} (s : State) (ha : m.a = .frag ra)
    (hb : m.b = .frag rb) : s.lookTiles m = (m, s) := by
  cases m
  simp only at ha hb
  subst ha hb
  rfl

/-- The end of its reads gives back the tokens and the other sheaves' registers. -/
theorem endReads_of_fragments {m : MatOp} {ra rb : List (List Word)} (s : State) (ha : m.a = .frag ra)
    (hb : m.b = .frag rb) :
    s.endReads m = ({ m with tokens := [], regs := m.regs.filter fun q => q.1 = m.sid }, s) := by
  cases m
  simp only at ha hb
  subst ha hb
  rfl

/-- What a row group notes in the tile beside the elements: overflow, NaN and invalid codes met, survivor bits. -/
def noteGroup (m : MatOp) (res : List (Nat × List (Word × Bool))) (a : Acc) : Acc :=
  { a with
    ovf := a.ovf || res.any (fun p => p.2.any (·.2))
    nan := a.nan || res.any (fun p => p.2.any (fun x => (f32.decode x.1.toNat).isNan && !m.acci))
    inv := a.inv || (groupRows m.groups).any m.invalidRow
    mask := setMask a.mask ((groupRows m.groups).flatMap (m.maskRow a.mask)) }

/-- A row group of an operation whose operands are in fragments: what becomes of the operation, and the tile with its
rows written. -/
theorem rowGroup_of_fragments {s : State} {m : MatOp} {ra rb : List (List Word)} (ha : m.a = .frag ra)
    (hb : m.b = .frag rb) (hs : m.spoilt = false) :
    s.rowGroup m = (if m.groups = 0 then
      { m with groups := 1, tokens := [], regs := m.regs.filter fun q => q.1 = m.sid }
      else { m with groups := m.groups + 1 },
      s.writeRows m.wg m.acc m.ticket
        ((groupRows m.groups).map fun r => (r, (m.resultRow r ((s.acc m.wg m.acc).coefRow m.tag r)).map (·.1)))
        (noteGroup m ((groupRows m.groups).map fun r => (r, m.resultRow r ((s.acc m.wg m.acc).coefRow m.tag r))))) := by
  have hrows : s.rowsOf m (groupRows m.groups) = (ra, s) := by simp only [State.rowsOf, ha]
  have hread : m.read = true := by simp only [MatOp.read, ha, hb]
  unfold State.rowGroup
  rw [lookTiles_of_fragments s ha hb]
  dsimp only
  rw [hrows]
  obtain ⟨op, sid, gen, pc, ctx, priv, wg, core, acc, ticket, afmt, bfmt, acci, z, a, b, sa, sb, tag, surv, groups,
    spoilt, regs, tokens, held, expired, poison⟩ := m
  dsimp only at ha hb hs hread ⊢
  subst ha hb hs
  simp only [Bool.false_eq_true, if_false, hread, if_true]
  rw [groupResults, List.nil_append, List.map_map]
  by_cases hg : groups = 0
  · subst hg
    rw [if_pos rfl, if_pos rfl, endReads_of_fragments _ rfl rfl]
    rfl
  · rw [if_neg hg, if_neg hg]
    rfl

theorem rowGroupWrites : Claims.RowGroupWrites := by
  intro s m ra rb ha hb hg hs hacc hwg
  rw [rowGroup_of_fragments ha hb hs]
  refine ⟨rfl, fun r n hn => ?_⟩
  dsimp only
  rw [elem_writeRows _ _ (f := noteGroup m _) (by intro; rfl) hwg hacc,
    elem_setRows (fun r => (m.resultRow r ((s.acc m.wg m.acc).coefRow m.tag r)).map (·.1)) _ _ _ hn]
  simp only [mem_groupRows]
  congr 1
  simp only [List.getD_eq_getElem?_getD, List.getElem?_map]
  cases (m.resultRow r ((s.acc m.wg m.acc).coefRow m.tag r))[n]? <;> rfl

/-! ### The elements of a result row (R82, R217) -/

theorem resultRows : Claims.ResultRows := by
  intro m ra rb start r n ha hb hsurv hn
  have hrowA : m.a.row r = ra.getD r [] := by rw [ha]; rfl
  have hrowB : m.b.row n = rb.getD n [] := by rw [hb]; rfl
  have hfmt : m.afmt ∈ [10, 11, 12, 13, 14, 15, 16] ↔ 10 ≤ m.afmt ∧ m.afmt ≤ 16 := by
    simp only [List.mem_cons, List.not_mem_nil, or_false]
    omega
  by_cases hint : 10 ≤ m.afmt ∧ m.afmt ≤ 16
  · simp [MatOp.resultRow, hfmt, hint, hrowA, hrowB, hsurv, coefWords, List.getD_eq_getElem?_getD, hn]
  · simp [MatOp.resultRow, hfmt, hint, hrowA, hrowB, hsurv, coefWords, List.getD_eq_getElem?_getD, hn]

/-! ### Integer dot products (R82) -/

/-- A block of sixteen products. -/
theorem block_products {a b : List Int} {k q : Nat} (ha : a.length = 16 * k) (hb : b.length = 16 * k) (hq : q < k) :
    ((List.zipWith (· * ·) a b).drop (16 * q)).take 16 =
      (List.range 16).map fun j => a.getD (16 * q + j) 0 * b.getD (16 * q + j) 0 := by
  apply List.ext_getElem
  · simp [ha, hb]
    omega
  · intro j h1 h2
    simp only [List.length_map, List.length_range] at h2
    simp [List.getD_eq_getElem?_getD, List.getElem?_eq_getElem (show 16 * q + j < a.length by omega),
      List.getElem?_eq_getElem (show 16 * q + j < b.length by omega)]

/-- A block sum joins the accumulator, held to the signed range. -/
theorem addBlockInt_eq (acc : Word × Bool) (x : Int) :
    addBlockInt acc x = (BitVec.ofInt 32 (max (-2147483648) (min 2147483647 (acc.1.toInt + x))),
      acc.2 || decide (acc.1.toInt + x < -2147483648 ∨ 2147483647 < acc.1.toInt + x)) := by
  simp [addBlockInt, satI32, clamp_eq, wordOf]

theorem integerDotProduct : Claims.IntegerDotProduct := by
  intro k c a b ha hb
  simp only [dotInts, if_true, blocks16, show 16 * k / 16 = k by omega, List.map_map, List.foldl_map]
  refine List.foldl_ext _ _ _ fun acc q hq => ?_
  rw [Function.comp, block_products ha hb (List.mem_range.1 hq), addBlockInt_eq]

/-- Settles O20: rows come from `elem_setRows`, result rows from the definition for fragments, and integer elements are
folds of `addBlockInt` over the sums of blocks. -/
theorem matrixValues : Obligations.MatrixValues := by
  unfold Obligations.MatrixValues
  exact ⟨rowGroupWrites, resultRows, integerDotProduct⟩

end Sys2Proof.Laws


/-! SUPPORT. Control flow, register pairs and spills, conversions, and the words that enter flight (R103 to R105, R123,
R128, R129, R139, R149, R153 to R157, R161). -/

namespace Sys2Proof.Laws

open Machine

/-! ### Control flow (R103 to R105) -/

theorem run_of_issues {s : State} {i : Instr} {sid : Nat} {r : ClauseRun} (h : Issues s i sid r) : s.run sid = r := by
  rw [State.run, h.run]
  rfl

/-- A branch whose targets are multiples of 8. -/
theorem branch_done {target : ClauseRun → Sheaf → Nat → BitVec 64} {link : Option (BitVec 8)} {s : State} {i : Instr}
    {sid : Nat} {r : ClauseRun} (h : Issues s i sid r)
    (ht : ∀ t ∈ acts s i sid r, (target r (s.sheaf sid) t).toNat % 8 = 0) :
    branch target link (issueOf s i sid r) s =
      .done ((match link with
        | some d => s.writeLanes sid d 1 ((acts s i sid r).map fun t => ⟨t, [(r.next.extractLsb' 0 32, false)], 0⟩)
        | none => s).modRun sid fun q =>
          { q with targets := (acts s i sid r).map fun t => (t, target r (s.sheaf sid) t) }) := by
  have hany : ((acts s i sid r).map fun t => (t, target r (s.sheaf sid) t)).any (fun p => p.2.toNat % 8 ≠ 0) = false := by
    simpa [List.any_eq_false] using ht
  have hrun := run_of_issues h
  simp only [branch, issueOf, hrun, hany]
  rfl

/-- A branch with a target that is no multiple of 8. -/
theorem branch_traps {target : ClauseRun → Sheaf → Nat → BitVec 64} {link : Option (BitVec 8)} {s : State} {i : Instr}
    {sid : Nat} {r : ClauseRun} (h : Issues s i sid r)
    (ht : ∃ t ∈ acts s i sid r, (target r (s.sheaf sid) t).toNat % 8 ≠ 0) :
    branch target link (issueOf s i sid r) s = (issueOf s i sid r).illegal s := by
  have hany : ((acts s i sid r).map fun t => (t, target r (s.sheaf sid) t)).any (fun p => p.2.toNat % 8 ≠ 0) = true := by
    simpa [List.any_eq_true] using ht
  simp only [branch, issueOf, run_of_issues h, hany]
  rfl

theorem branches_of {target : ClauseRun → Sheaf → Nat → BitVec 64} {i : Instr}
    (he : ∀ s, exec i s = issued i (branch target none) s) : Branches i target (fun s _ => s) := by
  intro s sid r h ht
  exact goes_of_done h (he s) (branch_done h ht)

theorem badTarget_of {target : ClauseRun → Sheaf → Nat → BitVec 64} {link : Option (BitVec 8)} {i : Instr}
    (he : ∀ s, exec i s = issued i (branch target link) s) : BadTarget i target := by
  intro s sid r h ht
  exact traps_of_trap h (he s) (branch_traps h ht)

/-- The address that `ret` goes to: the upper bits come from the program counter (R103). -/
theorem retTarget_eq (pc : BitVec 64) (a : Word) :
    0#12 ++ pc.extractLsb' 32 20 ++ a = BitVec.ofNat 64 (pc.toNat / 2 ^ 32 % 2 ^ 20 * 2 ^ 32 + a.toNat) := by
  apply BitVec.eq_of_toNat_eq
  rw [toNat_append_eq_add, toNat_append_eq_add, BitVec.extractLsb'_toNat, BitVec.toNat_ofNat, BitVec.toNat_ofNat,
    Nat.shiftRight_eq_div_pow]
  have ha := a.isLt
  omega

/-- The word that `call` writes to D: the address of the next clause. -/
theorem link_eq (r : ClauseRun) :
    r.next.extractLsb' 0 32 = BitVec.ofNat 32 (r.pc.toNat + 8 + 8 * r.words.length) := by
  apply BitVec.eq_of_toNat_eq
  simp only [ClauseRun.next, BitVec.extractLsb'_toNat, BitVec.toNat_add, BitVec.toNat_ofNat, Nat.shiftRight_zero]
  omega

theorem branchesSetTargets : Claims.BranchesSetTargets := by
  intro f
  refine ⟨branches_of fun _ => rfl, branches_of fun _ => rfl, ?_, ?_⟩
  · simp only [← retTarget_eq]
    exact branches_of fun _ => rfl
  · intro s sid r h ht
    simp only [← link_eq]
    refine goes_of_done h (body := branch (fun r _ _ => r.pc + f.imm.signExtend 64) (some f.d)) rfl
      (branch_done h fun t hmem => ?_)
    rcases ht with hnil | ht
    · rw [hnil] at hmem
      exact absurd hmem (List.not_mem_nil)
    · exact ht

theorem misalignedTargetTraps : Claims.MisalignedTargetTraps := by
  intro f
  refine ⟨badTarget_of (link := none) fun _ => rfl, badTarget_of (link := some f.d) fun _ => rfl,
    badTarget_of (link := none) fun _ => rfl, ?_⟩
  simp only [← retTarget_eq]
  exact badTarget_of (link := none) fun _ => rfl

/-- The counts that `sleep` notes: those that are 0 are left out as they come. -/
theorem sleeps_eq (g : Nat → Nat) (l : List Nat) (tab : Tab Nat) :
    each ((l.map fun t => (t, g t)).filter fun p => 0 < p.2) (fun p tab => Tab.put tab p.1 p.2) tab =
      l.foldl (fun tab t => if g t = 0 then tab else tab.put t (g t)) tab := by
  induction l generalizing tab with
  | nil => rfl
  | cons t l ih =>
    simp only [each, List.map_cons, List.foldl_cons] at ih ⊢
    by_cases hg : g t = 0
    · rw [List.filter_cons_of_neg (by simp [hg]), ih, if_pos hg]
    · rw [List.filter_cons_of_pos (by simpa using Nat.pos_of_ne_zero hg), List.foldl_cons, ih, if_neg hg]

theorem controlEffects : Claims.ControlEffects := by
  intro f s sid r
  refine ⟨fun h => goes_of_done h rfl rfl, fun h => goes_of_done h rfl rfl, fun h => goes_of_done h rfl ?_,
    fun h => goes_of_done h rfl ?_, fun h hnone => goes_of_done h rfl ?_⟩
  · by_cases hnil : acts s (.yield f) sid r = [] <;> simp [issueOf, hnil]
  · simp only [issueOf, sleeps_eq fun t => min ((s.sheaf sid).read f.imm t f.a).toNat 0xFFFFFF]
    rfl
  · simp only [issueOf, hnone, if_true]

theorem breakpointTraps : Claims.BreakpointTraps := by
  intro f s sid r h hact
  refine traps_of_trap h rfl ?_
  simp [issueOf, hact, fieldsMod_zero]

/-- Settles O1: a branch completes or traps by `branch_done` and `branch_traps`; the other words by their meaning. -/
theorem controlFlow : Obligations.ControlFlow := by
  unfold Obligations.ControlFlow
  exact ⟨branchesSetTargets, misalignedTargetTraps, controlEffects, breakpointTraps⟩

/-! ### Register pairs, spills and pair words (R34, R123, R128, R139) -/

theorem laneWrites_of_eq {i : Instr} {d : BitVec 8} {n : Nat} {g g' : Bool → Sheaf → Nat → LaneOut}
    (h : ∀ s, exec i s = issued i (fun is s => laneOp d n (g' (s.ftz is.sid)) is s) s)
    (hg : ∀ z sh t, g' z sh t = g z sh t) : LaneWrites i d n g := by
  have heq : g' = g := funext fun z => funext fun sh => funext fun t => hg z sh t
  subst heq
  exact laneWrites_of h

/-- A 64-bit result, low word first. -/
theorem pairVals_eq (x : BitVec 64) (taint : Bool) :
    pairVals x taint = [(BitVec.ofNat 32 x.toNat, taint), (BitVec.ofNat 32 (x.toNat / 2 ^ 32), taint)] := by
  simp only [pairVals, BitVec.extractLsb', Nat.shiftRight_eq_div_pow, pow_zero, Nat.div_one]

theorem pairResults : Claims.PairResults := by
  intro f
  constructor
  · refine laneWrites_of_eq (g' := fun _ => imadwLane f) (fun _ => rfl) fun z sh t => ?_
    simp only [imadwLane, pairVals_eq, fieldsMod_zero, pow_one, ofInt_product]
  · refine laneWrites_of_eq (g' := fun _ => leaLane f) (fun _ => rfl) fun z sh t => ?_
    have hn : f.mod 0 3 = f.xmod.toNat % 8 := fieldsMod_zero f 3
    have hu : (f.mod 3 1 == 1) = decide (f.xmod.toNat / 8 % 2 = 1) := rfl
    have hshift : ∀ (x : BitVec 64) (n : Nat), x <<< n = x * BitVec.ofNat 64 (2 ^ n) := fun x n => by
      rw [BitVec.shiftLeft_eq_mul_twoPow]
      congr 1
      exact BitVec.eq_of_toNat_eq (by simp)
    simp only [leaLane, pairVals_eq, address, hu, decide_eq_true_eq, hn, hshift]

/-- Two ranges that are apart do not overlap. -/
theorem overlap_eq_false {a n b m : Nat} (h : a + n ≤ b ∨ b + m ≤ a) : overlap a n b m = false := by
  simp only [overlap, Bool.and_eq_false_iff, decide_eq_false_iff_not]
  omega

/-- The format byte of a spilled group, register by register. -/
theorem spillZeros_eq {g : List (Word × Bool)} (hg : g.length = 8) :
    (g.mapIdx fun k p => if p.1 = 0 then 2 ^ k else 0) =
      (List.range 8).map fun k => if (g.getD k (0, false)).1 = 0 then 2 ^ k else 0 := by
  apply List.ext_getElem
  · simp [hg]
  · intro k h1 h2
    have hk : k < g.length := by simpa using h1
    simp [List.getD_eq_getElem?_getD, List.getElem?_eq_getElem hk]

/-- Filling takes for register `k` the data register of its rank among those that are not zero. -/
theorem fillVals_eq_map (z : Nat) (data : List (Word × Bool)) :
    fillVals z data = (List.range 8).map fun k => if bit z k then (0, false)
      else data.getD ((List.range k).filter fun j => !bit z j).length (0, false) := by
  have hfold : ∀ n, (List.range n).foldl (fillStep z) ([], data) =
      ((List.range n).map fun k => if bit z k then (0, false)
        else data.getD ((List.range k).filter fun j => !bit z j).length (0, false),
        data.drop ((List.range n).filter fun j => !bit z j).length) := by
    intro n
    induction n with
    | zero => rfl
    | succ n ih =>
      rw [List.range_succ, List.foldl_append, ih, List.map_append, List.filter_append]
      cases hb : bit z n
      · simp [fillStep, hb, List.getD_eq_getElem?_getD]
      · simp [fillStep, hb]
  rw [fillVals_eq, hfold]

/-- The low byte of a number has its low bits. -/
theorem bit_mod_256 {x k : Nat} (hk : k < 8) : bit (x % 256) k = decide (x / 2 ^ k % 2 = 1) := by
  have h : x % 2 ^ 8 / 2 ^ k % 2 = x / 2 ^ k % 2 := by
    rw [← Nat.toNat_testBit, ← Nat.toNat_testBit, Nat.testBit_mod_two_pow, decide_eq_true hk, Bool.true_and]
  exact congrArg (fun n => decide (n = 1)) h

/-- The low byte of the format word alone says which registers are filled with zeros. -/
theorem fillVals_low (x : Nat) (data : List (Word × Bool)) :
    fillVals (x % 256) data = (List.range 8).map fun k => if x / 2 ^ k % 2 = 1 then (0, false)
      else data.getD ((List.range k).filter fun j => x / 2 ^ j % 2 = 0).length (0, false) := by
  rw [fillVals_eq_map]
  refine List.map_congr_left fun k hk => ?_
  have hk8 := List.mem_range.1 hk
  have hrank : ((List.range k).filter fun j => !bit (x % 256) j) = (List.range k).filter fun j => x / 2 ^ j % 2 = 0 := by
    refine List.filter_congr fun j hj => ?_
    rw [bit_mod_256 (by have := List.mem_range.1 hj; omega), ← decide_not]
    exact decide_eq_decide.2 (by omega)
  rw [bit_mod_256 hk8, hrank]
  simp only [decide_eq_true_eq]

theorem spillAndFill : Claims.SpillAndFill := by
  intro f s sid r
  constructor
  · intro h hal hap
    refine goes_of_done h rfl ?_
    have hlegal : ¬ (f.a.toNat % 8 ≠ 0 ∨ overlap f.d.toNat 9 f.a.toNat 8 = true) := by
      simp [hal, overlap_eq_false hap]
    have hzeros := fun t => spillZeros_eq (g := (s.sheaf sid).readTainted t f.a 8) (by simp [Sheaf.readTainted, regRun])
    simp only [hlegal, if_false, laneOp, issueOf, spillVals, hzeros]
    rfl
  · intro h hal hap
    refine goes_of_done h rfl ?_
    have hlegal : ¬ (f.d.toNat % 8 ≠ 0 ∨ overlap f.d.toNat 8 f.a.toNat 9 = true) := by
      simp [hal, overlap_eq_false hap]
    simp only [hlegal, if_false, laneOp, issueOf, fillVals_low]
    rfl

/-- A pair word acts in the whole group. -/
theorem acts_pairWord (x y : Slot) (s : State) (sid : Nat) (r : ClauseRun) :
    acts s (.pairWord x y) sid r = groupOf r := by
  simp [acts, actors, guarded, Instr.isa?, skipsHelpers]

theorem pairWordReadsFirst : Claims.PairWordReadsFirst := by
  intro x y s sid r h
  rw [← acts_pairWord x y s]
  exact goes_of_done h rfl rfl

/-- Settles O5: pairs by `pairVals_eq`, spills by `spillZeros_eq` and `fillVals_eq_map`, pair words by their meaning. -/
theorem pairsAndSpills : Obligations.PairsAndSpills := by
  unfold Obligations.PairsAndSpills
  exact ⟨pairResults, spillAndFill, pairWordReadsFirst⟩

/-! ### Conversions (R153 to R157) -/

/-- Settles O8: each conversion writes what its lane function computes. -/
theorem conversionResults : Obligations.ConversionResults := by
  unfold Obligations.ConversionResults
  intro f
  have hcode : f.xmod.toNat / 4 % 16 = f.mod 2 4 := rfl
  simp only [← rmOf_eq, hcode]
  exact ⟨wordResult_of_ftz fun _ => rfl, wordResult_of_ftz_eq (g := fun z l => qscaleVal z (f.mod 2 4) (f.mod 0 1 == 1) (opd l 0))
    (fun _ => rfl) fun z l => by rw [fieldsMod_zero]; rfl,
    laneWrites_of (g := fun z => cvtEfLane z f) fun _ => rfl, laneWrites_of (g := fun z => packLane z f) fun _ => rfl,
    laneWrites_of (g := fun z => unpackLane z f) fun _ => rfl⟩

/-! ### Words that enter flight (R129, R149) -/

/-- A word of the special-function unit takes the free unit and enters flight, or waits for it. -/
theorem unitLaunches_of {i : Instr} {f : Fields} {srcs : List (BitVec 8)}
    (h : ∀ s, exec i s = issued i (specialOp i f srcs) s) : UnitLaunches i f srcs := by
  intro s sid r hi
  refine ⟨fun hfree => goes_of_done hi (h s) ?_, fun hbusy => waits_of_wait hi (h s) (if_pos hbusy)⟩
  have hnot : ¬ s.time.core < (s.core (coreOf sid)).sfu := Nat.not_lt.2 hfree
  rw [specialOp, issueOf]
  exact if_neg hnot

theorem longLatencyEntersFlight' : Claims.LongLatencyEntersFlight := fun _ =>
  ⟨launches_of fun _ => rfl, launches_of fun _ => rfl, unitLaunches_of fun _ => rfl, unitLaunches_of fun _ => rfl,
    unitLaunches_of fun _ => rfl, unitLaunches_of fun _ => rfl, unitLaunches_of fun _ => rfl,
    unitLaunches_of fun _ => rfl, unitLaunches_of fun _ => rfl, unitLaunches_of fun _ => rfl,
    unitLaunches_of fun _ => rfl, unitLaunches_of fun _ => rfl, unitLaunches_of fun _ => rfl,
    unitLaunches_of fun _ => rfl⟩

/-- The cases of a division in the order of R129. -/
theorem divisionResults : Claims.DivisionResults := by
  intro ftz f a b
  have hdiv : a / b = BitVec.ofNat 32 (a.toNat / b.toNat) := BitVec.eq_of_toNat_eq (by
    rw [BitVec.toNat_udiv, BitVec.toNat_ofNat, Nat.mod_eq_of_lt (lt_of_le_of_lt (Nat.div_le_self ..) a.isLt)])
  have hmod : a % b = BitVec.ofNat 32 (a.toNat % b.toNat) := BitVec.eq_of_toNat_eq (by
    rw [BitVec.toNat_umod, BitVec.toNat_ofNat, Nat.mod_eq_of_lt (lt_of_le_of_lt (Nat.mod_le ..) a.isLt)])
  have hu : (f.mod 0 1 == 1) = (f.xmod.toNat % 2 == 1) := by rw [fieldsMod_zero, pow_one]
  simp only [computeLong, hu, opd, List.getD_cons_zero, List.getD_cons_succ]
  generalize (f.xmod.toNat % 2 == 1) = u
  cases u
  · by_cases hb : b = 0
    · simp [divide, hb, flagIf, astDIV]
    · by_cases hov : a = 0x80000000 ∧ b = 0xFFFFFFFF
      · simp [divide, hov, flagIf, astDIV]
      · simp only [divide, Bool.false_eq_true, if_false, if_neg hb, if_neg hov, flagIf, wordOf, and_self]
  · by_cases hb : b = 0
    · simp [divide, hb, flagIf, astDIV]
    · simp only [divide, if_true, if_neg hb, hdiv, hmod, flagIf, Bool.false_eq_true, if_false, and_self]

/-- Settles O10: the words of the unit by `unitLaunches_of`, the fixed results by the cases of a division. -/
theorem longLatencyEntersFlight : Obligations.LongLatencyEntersFlight := by
  unfold Obligations.LongLatencyEntersFlight
  exact ⟨longLatencyEntersFlight', divisionResults⟩

/-! ### Scratchpad accesses (R160, R161) -/

/-- The workgroup whose allocation an address names. -/
theorem scratchWg_eq (s : State) (w : Nat) (a : Word) :
    s.scratchWg w a = if a.toNat / 2 ^ 24 % 2 = 1 then (s.wg w).partner else some w := by
  have hbit : a.getLsbD 24 = decide (a.toNat / 2 ^ 24 % 2 = 1) := by
    rw [BitVec.getLsbD, Nat.testBit_eq_decide_div_mod_eq]
  simp only [State.scratchWg, hbit, decide_eq_true_eq]

/-- The first of three conditions that holds gives the sub-code. -/
theorem subCode_eq (p q r : Prop) [Decidable p] [Decidable q] [Decidable r] :
    (if p then some 1 else if q then some 2 else if r then some 3 else none) =
      if (if p then 1 else if q then 2 else if r then 3 else 0) = 0 then none
        else some (if p then 1 else if q then 2 else if r then 3 else 0) := by
  by_cases hp : p
  · simp [hp]
  · by_cases hq : q
    · simp [hp, hq]
    · by_cases hr : r <;> simp [hp, hq, hr]

/-- The sub-code of an address by the allocation that it names. -/
theorem scratchSub_eq (s : State) (w : Nat) (a : Word) (size : Nat) :
    scratchSub s w a size =
      if (a.toNat / 2 ^ 25 ≠ 0 ∨ a.toNat / 2 ^ 19 % 2 ^ 5 ≠ 0) ∨
          ∃ v, s.scratchWg w a = some v ∧ (s.wg v).size < a.toNat % 2 ^ 19 + size then 1
      else if a.toNat % size ≠ 0 then 2
      else if s.scratchWg w a = none then 3
      else 0 := by
  have hroom : (if (a.toNat / 2 ^ 24 % 2 == 1) = true then (s.wg w).partner.map fun v => (s.wg v).size
      else some (s.wg w).size) = (s.scratchWg w a).map fun v => (s.wg v).size := by
    rw [scratchWg_eq]
    simp only [beq_iff_eq]
    split <;> rfl
  unfold scratchSub
  simp only [-Nat.reducePow, hroom, Option.map_eq_some_iff, Option.map_eq_none_iff, or_assoc, exists_exists_and_eq_and]

/-- The fault that an address meets is the sub-code of the statement. -/
theorem scratchFault_eq (s : State) (w : Nat) (a : Word) (size : Nat) :
    s.scratchFault w a size = if scratchSub s w a size = 0 then none else some (scratchSub s w a size) := by
  have hnone : (a.getLsbD 24 = true ∧ (s.wg w).partner.isNone = true) ↔ s.scratchWg w a = none := by
    simp only [State.scratchWg, Option.isNone_iff_eq_none]
    split <;> simp_all
  have hoff : scratchOff a = a.toNat % 2 ^ 19 := by rw [scratchOff, bits, pow_zero, Nat.div_one]
  have hhigh : bits a.toNat 25 7 = a.toNat / 2 ^ 25 := Nat.mod_eq_of_lt (by have := a.isLt; omega)
  have hmbz : (bits a.toNat 25 7 != 0 || bits a.toNat 19 5 != 0) = true ↔
      a.toNat / 2 ^ 25 ≠ 0 ∨ a.toNat / 2 ^ 19 % 2 ^ 5 ≠ 0 := by
    rw [hhigh, Bool.or_eq_true, bne_iff_ne, bne_iff_ne]
    rfl
  rw [scratchSub_eq, ← subCode_eq]
  simp only [-Nat.reducePow, State.scratchFault, State.scratchFaultAl, hnone, hmbz, hoff]
  cases s.scratchWg w a <;> simp

/-- An address that reaches its bytes meets no fault and names that allocation. -/
theorem scratchSub_of_reaches {s : State} {w v size : Nat} {a : Word} (h : Reaches s w a size v) :
    scratchSub s w a size = 0 ∧ s.scratchWg w a = some v := by
  obtain ⟨h25, h19, hal, hv, hsize⟩ := h
  have hwg : s.scratchWg w a = some v := by
    rw [scratchWg_eq]
    split at hv
    · next hfar => rw [if_pos hfar, hv]
    · next hnear => rw [if_neg hnear, hv]
  refine ⟨?_, hwg⟩
  have hin : ¬ (s.wg v).size < a.toNat % 2 ^ 19 + size := by omega
  rw [scratchSub_eq, h25, h19, hal, hwg]
  simp only [Option.some.injEq, exists_eq_left', hin]
  rfl

/-- The lanes of an access enter flight and take their place in the order of the scratchpads that they name. -/
def enterScratch (s : State) (is : Issue) (i : Instr) (lanes : List Lane) : State :=
  if lanes = [] then s.launch is i lanes else
    (s.launch is i lanes).modCore (coreOf is.sid) fun k => { k with
      fifo := if lanes.any (fun l => l.pa.toNat == s.wgOf is.sid) then k.fifo ++ [s.next] else k.fifo
      rfifo := if lanes.any (fun l => l.pa.toNat != s.wgOf is.sid) then k.rfifo ++ [s.next] else k.rfifo }

/-- An access whose addresses are all legal. -/
theorem scratchOp_of_legal (i : Instr) (f : Fields) (n : Nat) (srcs : List (BitVec 8)) {s : State} {is : Issue}
    {size : Nat}
    (h : s.scratchCheck is (is.act.map fun t => (t, (s.sheaf is.sid).read f.imm t f.a + (s.sheaf is.sid).read f.imm t f.b))
      size = none) :
    scratchOp i f size srcs n is s = .done (enterScratch s is i ((is.act.map fun t =>
      (t, (s.sheaf is.sid).read f.imm t f.a + (s.sheaf is.sid).read f.imm t f.b)).map fun p =>
        { (s.sheaf is.sid).lane f.imm is.act srcs (regRun f.d n) p.1 with
          va := BitVec.ofNat 64 (scratchOff p.2)
          pa := BitVec.ofNat 64 ((s.scratchWg (s.wgOf is.sid) p.2).getD (s.wgOf is.sid))
          addrs := (s.sheaf is.sid).capture f.imm p.1 [f.a, f.b]
          ataint := (s.sheaf is.sid).taintOf p.1 f.a || (s.sheaf is.sid).taintOf p.1 f.b
          taint := (f.a :: f.b :: srcs).any ((s.sheaf is.sid).taintOf p.1) })) := by
  rw [scratchOp, h]
  dsimp only
  rw [enterScratch]
  split <;> rfl

theorem scratchIssues_of {i : Instr} {f : Fields} {size n : Nat} {srcs : List (BitVec 8)}
    (he : ∀ s, exec i s = issued i (scratchOp i f size srcs n) s) : ScratchIssues i f size srcs n := by
  intro s sid r home h sh addr lanes hreach
  refine goes_of_done h (he s) ?_
  have hlegal : ∀ t ∈ acts s i sid r, s.scratchFault sh.wg (addr t) size = none ∧ s.scratchWg sh.wg (addr t) = some (home t) :=
    fun t ht => by
      obtain ⟨hsub, hwg⟩ := scratchSub_of_reaches (hreach t ht)
      exact ⟨by rw [scratchFault_eq, if_pos hsub], hwg⟩
  have hcheck : s.scratchCheck (issueOf s i sid r) ((acts s i sid r).map fun t => (t, addr t)) size = none := by
    have hbad : ((acts s i sid r).map fun t => (t, addr t)).filter
        (fun p => (s.scratchFault (s.wgOf sid) p.2 size).isSome) = [] := by
      rw [List.filter_eq_nil_iff]
      rintro p hp
      obtain ⟨t, ht, rfl⟩ := List.mem_map.1 hp
      simp [State.wgOf, show s.scratchFault (s.sheaf sid).wg (addr t) size = none from (hlegal t ht).1]
    simp only [State.scratchCheck, issueOf, hbad]
  have hlanes : (((acts s i sid r).map fun t => (t, addr t)).map fun p =>
      { sh.lane f.imm (acts s i sid r) srcs (regRun f.d n) p.1 with
        va := BitVec.ofNat 64 (scratchOff p.2)
        pa := BitVec.ofNat 64 ((s.scratchWg sh.wg p.2).getD sh.wg)
        addrs := sh.capture f.imm p.1 [f.a, f.b]
        ataint := sh.taintOf p.1 f.a || sh.taintOf p.1 f.b
        taint := (f.a :: f.b :: srcs).any (sh.taintOf p.1) }) = lanes := by
    rw [List.map_map]
    refine List.map_congr_left fun t ht => ?_
    simp only [Function.comp, (hlegal t ht).2, Option.getD_some, scratchOff, bits, pow_zero, Nat.div_one]
    rfl
  rw [scratchOp_of_legal i f n srcs hcheck]
  refine congrArg Result.done ((congrArg (enterScratch s (issueOf s i sid r) i) hlanes).trans ?_)
  by_cases hnil : acts s i sid r = []
  · have hempty : lanes = [] := List.map_eq_nil_iff.2 hnil
    rw [if_pos hnil, enterScratch, if_pos hempty, hempty]
  · have hfull : lanes ≠ [] := fun h => hnil (List.map_eq_nil_iff.1 h)
    rw [if_neg hnil, enterScratch, if_neg hfull]
    rfl

/-- Pairs of threads and addresses, filtered by the addresses. -/
theorem filter_map_pair {α : Type} (p : α → Bool) (g : Nat → α) (l : List Nat) :
    (l.map fun t => (t, g t)).filter (fun q => p q.2) = (l.filter fun t => p (g t)).map fun t => (t, g t) := by
  rw [List.filter_map]
  rfl

theorem scratchTraps_of {i : Instr} {f : Fields} {size n : Nat} {srcs : List (BitVec 8)}
    (he : ∀ s, exec i s = issued i (scratchOp i f size srcs n) s) : ScratchTraps i f size := by
  intro s sid r t rest h sh addr hbad
  refine traps_of_trap h (he s) ?_
  have hsome : ∀ a, (s.scratchFault sh.wg a size).isSome = decide (scratchSub s sh.wg a size ≠ 0) := fun a => by
    rw [scratchFault_eq]
    split <;> simp_all
  have hmem : t ∈ (acts s i sid r).filter fun t => scratchSub s sh.wg (addr t) size ≠ 0 := hbad ▸ List.mem_cons_self ..
  have hsub : scratchSub s sh.wg (addr t) size ≠ 0 := by simpa using (List.mem_filter.1 hmem).2
  have hfilter : ((acts s i sid r).map fun t => (t, addr t)).filter
      (fun p => (s.scratchFault (s.wgOf sid) p.2 size).isSome) = (t :: rest).map fun t => (t, addr t) := by
    rw [filter_map_pair (fun a => (s.scratchFault (s.wgOf sid) a size).isSome) addr, ← hbad]
    congr 1
    exact List.filter_congr fun t _ => hsome (addr t)
  have hcheck : s.scratchCheck (issueOf s i sid r) ((acts s i sid r).map fun t => (t, addr t)) size =
      some (.trap (groupOf r) 3 (scratchSub s sh.wg (addr t) size) (t :: rest) (addr t).toNat s) := by
    have hcode : s.scratchFault (s.wgOf sid) (addr t) size = some (scratchSub s sh.wg (addr t) size) :=
      (scratchFault_eq ..).trans (if_neg hsub)
    simp only [State.scratchCheck, issueOf, hfilter, List.map_cons, hcode, List.map_map, Option.getD_some, Issue.fault]
    simp [Function.comp_def]
  simp only [scratchOp, issueOf] at hcheck ⊢
  rw [hcheck]

/-- Settles O12: legal accesses by `scratchIssues_of`, illegal ones by `scratchTraps_of`. -/
theorem scratchAccessesIssue : Obligations.ScratchAccessesIssue := by
  unfold Obligations.ScratchAccessesIssue
  constructor
  · intro f
    have hsize : f.xmod.toNat % 8 = f.mod 0 3 := (fieldsMod_zero f 3).symm
    have hop : f.xmod.toNat % 16 = f.mod 0 4 := (fieldsMod_zero f 4).symm
    simp only [hsize, hop]
    exact ⟨scratchIssues_of fun _ => rfl, scratchIssues_of fun _ => rfl, scratchIssues_of fun _ => rfl⟩
  · intro f
    have hsize : f.xmod.toNat % 8 = f.mod 0 3 := (fieldsMod_zero f 3).symm
    simp only [hsize]
    exact ⟨scratchTraps_of (n := sizeRegs (f.mod 0 3)) (srcs := []) fun _ => rfl,
      scratchTraps_of (n := 0) (srcs := dataFields f.c (sizeRegs (f.mod 0 3))) fun _ => rfl,
      scratchTraps_of (n := 1) (srcs := if f.mod 0 4 = 9 then dataFields f.c 2 else [f.c]) fun _ => rfl⟩

end Sys2Proof.Laws


/-! SUPPORT. Tile instructions, the counts of tiles, and watched waits (R168 to R174, R214). -/

namespace Sys2Proof.Laws

open Machine

/-! ### Tile instructions at issue (R170, R172, R173) -/

/-- A word that takes its place in the order of the own scratchpad, where every earlier access can be applied. -/
theorem inScratch_of_settled {is : Issue} {s : State} {far : Bool} (k : State → Result)
    (h : Settled s (is.sid / 64) far) : is.inScratch far s k = k (s.flushScratch (is.sid / 64) far) :=
  if_pos h

/-- A tile instruction of some lane, on a tile that the workgroup holds. -/
theorem tileOp_of_settled {n : Nat} {g : Nat → Tile → Sheaf → Nat → State → Result} {s : State} {i : Instr} {sid : Nat}
    {r : ClauseRun} {q : State} {w : Nat} {t : Tile} (hn : n < (s.wg w).tiles.length) (hact : acts s i sid r ≠ [])
    (hset : Settled s (sid / 64) false) (hq : s.flushScratch (sid / 64) false = q) (hw : (s.sheaf sid).wg = w)
    (ht : q.tile w n = t) :
    tileOp n g (issueOf s i sid r) s = g w t (q.sheaf sid) ((acts s i sid r).headD 0) q := by
  subst hq hw ht
  have hlen : ¬ (s.wg (s.wgOf sid)).tiles.length ≤ n := Nat.not_le.2 hn
  rw [tileOp]
  refine (if_neg hlen).trans ((if_neg hact).trans ?_)
  exact inScratch_of_settled _ hset

theorem word_eq_zero (a : Word) : (a = 0) = (a.toNat = 0) :=
  propext ⟨fun h => h ▸ rfl, fun h => BitVec.eq_of_toNat_eq h⟩

/-- A change of an entry matters at the entry that is there alone. -/
theorem tab_mod_congr {α : Type} {t : Tab α} {k : Nat} {f g : α → α} (h : ∀ x, t.get k = some x → f x = g x) :
    t.mod k f = t.mod k g := by
  induction t with
  | nil => rfl
  | cons p t ih =>
    obtain ⟨i, x⟩ := p
    by_cases hi : i = k
    · rw [Tab.mod, Tab.mod, if_pos hi, if_pos hi, h x (if_pos hi)]
    · rw [Tab.mod, Tab.mod, if_neg hi, if_neg hi, ih fun y hy => h y ((if_neg hi).trans hy)]

/-- A change of a tile matters at the tile that is there alone. -/
theorem modTileN_congr {s : State} {w n : Nat} {f g : Tile → Tile} (h : f (s.tile w n) = g (s.tile w n)) :
    s.modTileN w n f = s.modTileN w n g := by
  simp only [State.modTileN, State.modWg]
  congr 1
  refine tab_mod_congr fun x hx => ?_
  have hwg : s.wg w = x := by rw [State.wg, hx]; rfl
  have htiles : modAt x.tiles n f = modAt x.tiles n g := by
    apply List.ext_getElem?
    intro j
    rw [modAt, modAt, List.getElem?_modify, List.getElem?_modify]
    by_cases hj : n = j
    · subst hj
      cases hget : x.tiles[n]? with
      | none => rfl
      | some t =>
        have ht : s.tile w n = t := by rw [State.tile, hwg, List.getD_eq_getElem?_getD, hget]; rfl
        simpa [ht] using h
    · simp [hj]
  rw [htiles]

theorem tileInstructionsComplete : Claims.TileInstructionsComplete := by
  intro f s sid r q n w g t arg cleared hn hset
  have hmod : f.mod 0 5 = n := fieldsMod_zero f 5
  have hn' : f.mod 0 5 < (s.wg w).tiles.length := hmod ▸ hn
  have htile : q.tile w (f.mod 0 5) = t := by rw [hmod]; rfl
  refine ⟨fun h hact hkind huses hst t' hset' hshape htag => ?_, fun h hact hkind hst hshape hsize => ?_,
    fun h hact hkind hst huses hshape hsize => ?_, fun h hact hkind hst hdom => ?_, fun h hact huses hst => ?_⟩
  · have hidle : t.idle = true := by
      rcases hst with hst | hst <;> simp [Tile.idle, hst, huses]
    refine goes_of_done h rfl ((tileOp_of_settled (q := q) hn' hact hset rfl rfl htile).trans ?_)
    rw [hmod]
    simp only [arg, g] at hset' hshape htag
    simp only [hset', hkind, hshape, htag, hidle]
    rfl
  · refine goes_of_done h rfl ((tileOp_of_settled (q := q) hn' hact hset rfl rfl htile).trans ?_)
    rw [hmod]
    simp only [arg, g] at hshape hsize
    have hle := Nat.not_lt.2 hsize
    simp only [hkind, hshape, hle, hst, arg, word_eq_zero]
    rfl
  · refine goes_of_done h rfl ((tileOp_of_settled (q := q) hn' hact hset rfl rfl htile).trans ?_)
    rw [hmod]
    simp only [arg, g] at hshape hsize
    have hle := Nat.not_lt.2 hsize
    simp only [hkind, hshape, hle, hst, huses, arg, word_eq_zero]
    rfl
  · intro t' hshape htag
    refine goes_of_done h rfl ((tileOp_of_settled (q := q) hn' hact hset rfl rfl htile).trans ?_)
    rw [hmod]
    simp only [arg, g, t'] at hshape htag hdom
    have hhigh : bits ((q.sheaf sid).read f.imm ((acts s (.tlDom f) sid r).headD 0) f.a).toNat 16 16 = 0 := by
      rw [bits, Nat.div_eq_of_lt hdom, Nat.zero_mod]
    simp only [hshape, htag, hhigh, hst]
    exact if_neg (by simp [hkind])
  · have hidle : t.idle = true := by
      rcases hst with hst | hst <;> simp [Tile.idle, hst, huses]
    refine goes_of_done h rfl ((tileOp_of_settled (q := q) hn' hact hset rfl rfl htile).trans ?_)
    rw [hmod]
    simp only [hidle]
    refine (if_pos trivial).trans (congrArg Result.done (modTileN_congr ?_))
    rw [← hmod, htile]
    rfl

/-! ### The status word (R174) -/

/-- The word that shows a tile's state, kind, sticky bits and count. -/
theorem stat_eq (t : Tile) : t.stat = BitVec.ofNat 32 ((match t.state with
      | .empty => 0
      | .filling => 1
      | .ready => 2
      | .draining => 3) * 2 ^ 30 + t.kind.toNat * 2 ^ 28 + t.sat.toNat * 2 ^ 27 + t.ovr.toNat * 2 ^ 26 +
      t.poison.toNat * 2 ^ 25 + t.pend.toNat) := by
  have hkind : t.kind.toNat % 2 ^ 2 = t.kind.toNat := Nat.mod_eq_of_lt t.kind.isLt
  have hpend : t.pend.toNat % 2 ^ 20 = t.pend.toNat := Nat.mod_eq_of_lt t.pend.isLt
  have hbit : ∀ b : Bool, b2n b % 2 ^ 1 = b.toNat := by decide
  have hstate : t.state.code % 2 ^ 2 = t.state.code := by cases t.state <;> rfl
  change t.stat = BitVec.ofNat 32 (t.state.code * 2 ^ 30 + t.kind.toNat * 2 ^ 28 + t.sat.toNat * 2 ^ 27 +
    t.ovr.toNat * 2 ^ 26 + t.poison.toNat * 2 ^ 25 + t.pend.toNat)
  simp only [-Nat.reducePow, Tile.stat, cat, List.map_cons, List.map_nil, List.sum_cons, List.sum_nil, hkind, hpend, hbit, hstate,
    Nat.zero_mod, Nat.zero_mul, Nat.add_zero, Nat.zero_add, pow_zero, Nat.mul_one, Nat.reduceAdd]
  simp only [-Nat.reducePow, Nat.add_assoc]

theorem tileStatus : Claims.TileStatus := by
  intro f s sid r h q n w t hn st x q'
  have hmod : f.mod 0 5 = n := fieldsMod_zero f 5
  have hclr : f.mod 5 1 = f.xmod.toNat / 32 % 2 := rfl
  have hlen : ¬ (s.wg (s.wgOf sid)).tiles.length ≤ n := Nat.not_le.2 hn
  have hx : (q.tile w n).stat = x := stat_eq _
  refine goes_of_done h rfl ?_
  simp only [hmod, hclr]
  exact (if_neg hlen).trans (hx ▸ rfl)

/-! ### Watched waits (R171, R214) -/

theorem watchedWaitsTrap : Claims.WatchedWaitsTrap := by
  intro s sid r n k hrun hblocked hk
  have hend : Config.watchLimit ≤ k := hk
  constructor
  · intro hsince
    simp only [exec, execTileWaitFault, hrun, Sheaf.watchEnd, hblocked, Option.bind_some, hsince, hend]
    rfl
  · intro hsince
    simp only [exec, execMatrixSpanFault, hrun, Sheaf.watchEnd, hblocked, Option.bind_some, hsince, hend]
    rfl

/-! ### The counts of a tile (R170) -/

theorem ofNat_sub_toNat (p : BitVec 20) {b : Nat} (h : b ≤ p.toNat) : BitVec.ofNat 20 (p.toNat - b) = p - BitVec.ofNat 20 b := by
  have hp := p.isLt
  apply BitVec.eq_of_toNat_eq
  rw [BitVec.toNat_sub, BitVec.toNat_ofNat, BitVec.toNat_ofNat]
  omega

theorem tileCounting : Claims.TileCounting := by
  intro t b p
  refine ⟨fun hst hb => ?_, fun hst hb => ?_, fun hst hb => ?_, fun hst => ?_, fun hst hb => ?_, fun hst hb => ?_⟩
  · have hne : t.pend.toNat - b ≠ 0 := by omega
    have hle : ¬ t.pend.toNat < b := by omega
    simp [Tile.land, hst, hne, hle, ofNat_sub_toNat _ (Nat.le_of_lt hb)]
  · simp [Tile.land, hst, hb]
  · have hz : t.pend.toNat - b = 0 := by omega
    simp [Tile.land, hst, hz, hb]
  · simp only [Tile.land]
  · have hne : t.pend.toNat - b ≠ 0 := by omega
    simp [Tile.drained, hst, hne, ofNat_sub_toNat _ (Nat.le_of_lt hb)]
  · have hz : t.pend.toNat - b = 0 := by omega
    simp [Tile.drained, hst, hz, Tile.toEmpty]

/-- Settles O14: the instructions by `tileOp_of_settled`, the counts by the cases of the tile's state, the traps by the
two events. -/
theorem tileLifecycle : Obligations.TileLifecycle := by
  unfold Obligations.TileLifecycle
  exact ⟨tileInstructionsComplete, tileStatus, tileCounting, watchedWaitsTrap⟩

end Sys2Proof.Laws


/-! SUPPORT. Join instructions and waits on a scratchpad word (R175 to R181). -/

namespace Sys2Proof.Laws

open Machine

/-! ### What the landing of a core's scratchpad accesses leaves of a sheaf (R163) -/

/-- A part of a sheaf that neither its registers and threads nor its flags touch. -/
structure Steady {β : Type} (p : Sheaf → β) : Prop where
  write : ∀ sh v t x b, p (sh.write v t x b) = p sh
  modThread : ∀ sh t f, p (sh.modThread t f) = p sh
  modFlag : ∀ sh n f, p (sh.modFlag n f) = p sh

section
variable {β : Type} {p : Sheaf → β} (hp : Steady p)
include hp

omit hp in
theorem steady_modSheaf {f : Sheaf → Sheaf} (hf : ∀ sh, p (f sh) = p sh) (s : State) (k j : Nat) :
    p ((s.modSheaf k f).sheaf j) = p (s.sheaf j) := sheaf_modSheaf_keeps p hf s k j

theorem steady_undefReg (s : State) (sid : Nat) (who : List Nat) (r j : Nat) :
    p ((s.undefReg sid who r).sheaf j) = p (s.sheaf j) :=
  each_keeps (fun s => p (s.sheaf j)) (fun _ s => steady_modSheaf (fun sh => hp.modThread sh _ _) s.undef.2 _ _) who s

theorem steady_spoil (s : State) (sid : Nat) (who regs : List Nat) (j : Nat) :
    p ((s.spoil sid who regs).sheaf j) = p (s.sheaf j) :=
  each_keeps (fun s => p (s.sheaf j)) (fun r s => steady_undefReg hp s sid who r j) _ _

omit hp in
theorem steady_landSrcs (s : State) (sid t : Nat) (l : List (BitVec 8 × Word)) (j : Nat) :
    p ((s.landSrcs sid t l).2.sheaf j) = p (s.sheaf j) := by
  have hsrc : ∀ (s : State) q, (s.landSrc sid t q).2.sheaves = s.sheaves := by
    intro s q
    unfold State.landSrc
    split
    · dsimp only
      split <;> rfl
    · rfl
  have hfold : ∀ (acc : List Word × State), (l.foldl (fun acc q => (acc.1 ++ [(acc.2.landSrc sid t q).1], (acc.2.landSrc sid t q).2)) acc).2.sheaves =
      acc.2.sheaves := by
    induction l with
    | nil => exact fun _ => rfl
    | cons q l ih => exact fun acc => (ih _).trans (hsrc acc.2 q)
  exact congrArg (fun sh : Tab Sheaf => p ((sh.get j).getD default)) (hfold ([], s))

theorem steady_landDst (s : State) (sid t : Nat) (q : BitVec 8 × Word) (x : Word) (taint : Bool) (j : Nat) :
    p ((s.landDst sid t q x taint).sheaf j) = p (s.sheaf j) := by
  unfold State.landDst
  split
  · exact steady_spoil hp ..
  · split
    · exact steady_modSheaf (fun sh => hp.write sh _ _ _ _) ..
    · dsimp only
      split
      · exact steady_modSheaf (fun sh => hp.write sh _ _ _ _) s.flip.2 ..
      · rfl

theorem steady_landValues (s : State) (sid : Nat) (ln : Lane) (l : List (BitVec 8 × Word)) (j : Nat) :
    p ((s.landValues sid ln l).sheaf j) = p (s.sheaf j) := by
  refine each_keeps (fun s => p (s.sheaf j)) (f := fun q s => match ln.dsts.find? (fun p => p.1 = q.1) with
    | some p => s.landDst sid ln.thread p q.2 ln.taint
    | none => s) (fun q s => ?_) l s
  split
  · exact steady_landDst hp ..
  · rfl

theorem steady_landDsts (s : State) (o sid : Nat) (ln : Lane) (d : BitVec 8) (xs : List Word) (j : Nat) :
    p ((s.landDsts o sid ln d xs).sheaf j) = p (s.sheaf j) := by
  unfold State.landDsts
  dsimp only
  split
  · rfl
  · exact steady_landValues hp ..

theorem steady_completeOp (s : State) (o j : Nat) : p ((s.completeOp o).sheaf j) = p (s.sheaf j) := by
  unfold State.completeOp
  split
  · rfl
  · next op _ =>
    have hland : p ((op.lanes.foldl (fun (s : State) l => if s.opAlive op then s.landValues op.sid l l.late else s)
        { s with ops := s.ops.del o }).sheaf j) = p (s.sheaf j) := by
      refine each_keeps (fun s => p (s.sheaf j))
        (f := fun (l : Lane) (s : State) => if s.opAlive op then s.landValues op.sid l l.late else s) (fun l s => ?_) _ _
      split
      · exact steady_landValues hp ..
      · rfl
    dsimp only
    split
    · refine (steady_modSheaf (fun sh => ?_) _ _ _).trans hland
      exact (each_keeps p (fun q sh => hp.modThread sh _ _) _ _).trans (hp.modFlag ..)
    · exact hland

theorem steady_applyScratchLane (s : State) (o : Nat) (op : LongOp) (ln : Lane) (j : Nat) :
    p ((s.applyScratchLane o op ln).sheaf j) = p (s.sheaf j) := by
  have hsrcs := steady_landSrcs (p := p) s op.sid ln.thread ln.srcs j
  unfold State.applyScratchLane
  dsimp only
  split
  · exact (steady_landDsts hp ..).trans hsrcs
  · exact hsrcs
  · exact (steady_landDsts hp ..).trans hsrcs
  · exact hsrcs

theorem steady_applyScratch (s : State) (o : Nat) (remote : Bool) (j : Nat) :
    p ((s.applyScratch o remote).sheaf j) = p (s.sheaf j) := by
  unfold State.applyScratch
  split
  · rfl
  · next op _ =>
    have hlanes := each_keeps (fun s => p (s.sheaf j)) (fun ln s => steady_applyScratchLane hp s o op ln j)
      (op.lanes.filter fun l => !l.done && ((l.pa.toNat != op.wg) == remote)) s
    dsimp only
    split
    · exact hlanes
    · split
      · exact (steady_completeOp hp ..).trans hlanes
      · exact hlanes

theorem steady_popScratch (s : State) (c : Nat) (remote : Bool) (j : Nat) :
    p ((s.popScratch c remote).sheaf j) = p (s.sheaf j) := by
  unfold State.popScratch
  dsimp only
  split
  · rfl
  · split
    · rfl
    · exact steady_applyScratch hp ..

theorem steady_flushScratch (s : State) (c : Nat) (remote : Bool) (j : Nat) :
    p ((s.flushScratch c remote).sheaf j) = p (s.sheaf j) :=
  each_keeps (fun s => p (s.sheaf j)) (fun _ s => steady_popScratch hp s c remote j) _ s

theorem steady_behind (s : State) (c : Nat) (own partner : Bool) (j : Nat) :
    p ((Behind s c own partner).sheaf j) = p (s.sheaf j) := by
  have hown : p ((if own then s.flushScratch c false else s).sheaf j) = p (s.sheaf j) := by
    split
    · exact steady_flushScratch hp ..
    · rfl
  unfold Behind
  dsimp only
  split
  · exact (steady_flushScratch hp ..).trans hown
  · exact hown

end

/-- A sheaf's workgroup is such a part. -/
theorem steady_wg : Steady (·.wg) where
  write sh v t x b := by
    unfold Sheaf.write
    dsimp only
    split
    · rfl
    · split <;> rfl
  modThread _ _ _ := rfl
  modFlag sh n f := by cases n <;> rfl

/-! ### Words that act in the order of a scratchpad (R163) -/

/-- A word that takes its place in the orders of both scratchpads, where every earlier access can be applied. -/
theorem inBoth_of_settled {is : Issue} {s : State} {own far : Bool} (k : State → Result)
    (h : SettledBoth s (is.sid / 64) own far) :
    is.inBoth own far s k = k (Behind s (is.sid / 64) own far) := by
  obtain ⟨hown, hfar⟩ := h
  unfold Issue.inBoth Behind
  cases own
  · cases far
    · rfl
    · exact inScratch_of_settled k (hfar rfl)
  · cases far
    · exact inScratch_of_settled k (hown rfl)
    · have hthen : is.inScratch true (s.flushScratch (is.sid / 64) false) k =
          k ((s.flushScratch (is.sid / 64) false).flushScratch (is.sid / 64) true) := inScratch_of_settled k (hfar rfl)
      exact Eq.trans (if_pos (hown rfl)) hthen

/-- No lane of a word that accesses memory at its issue is held back. -/
theorem barred_eq_false {s : State} {i : Instr} {sid : Nat} {r : ClauseRun} {taint : Nat → Bool}
    (h : ∀ t ∈ acts s i sid r, FreeOf s sid t (taint t)) : (issueOf s i sid r).barred s taint = false := by
  simp only [Issue.barred, issueOf, List.any_eq_false, Bool.not_eq_true]
  exact h

/-- Addresses that all reach their bytes meet no fault. -/
theorem scratchCheck_eq_none {s : State} {is : Issue} {l : List (Nat × Word)} {size : Nat}
    (h : ∀ p ∈ l, ∃ v, Reaches s (s.wgOf is.sid) p.2 size v) : s.scratchCheck is l size = none := by
  have hbad : l.filter (fun p => (s.scratchFault (s.wgOf is.sid) p.2 size).isSome) = [] := by
    rw [List.filter_eq_nil_iff]
    intro p hp
    obtain ⟨v, hv⟩ := h p hp
    rw [scratchFault_eq, if_pos (scratchSub_of_reaches hv).1]
    simp
  simp only [State.scratchCheck, hbad]

/-! ### Join instructions (R178, R179) -/

/-- A lane of a join instruction: its result and the cell after it. -/
def joinLane (f : Fields) (g : Nat → Nat → Nat × Word) (sh : Sheaf) (w : Nat) (acc : List LaneOut × State)
    (p : Nat × Word) : List LaneOut × State :=
  let v := (acc.2.scratchWg w p.2).getD w
  let x := g (sh.read f.imm p.1 f.b).toNat (acc.2.scratchNum v (scratchOff p.2) 16)
  (acc.1 ++ [⟨p.1, [(x.2, sh.taintOf p.1 f.a || sh.taintOf p.1 f.b)], 0⟩],
    acc.2.modCell v (scratchOff p.2) fun _ => x.1)

/-- The lanes of a join instruction, one after the other, and the writes of their results. -/
def joinAct (f : Fields) (g : Nat → Nat → Nat × Word) (is : Issue) (sh : Sheaf) (l : List (Nat × Word)) (q : State) :
    Result :=
  .done ((l.foldl (joinLane f g sh (q.wgOf is.sid)) ([], q)).2.writeLanes is.sid f.d 1
    (l.foldl (joinLane f g sh (q.wgOf is.sid)) ([], q)).1)

/-- A join instruction whose lanes are all legal acts in the orders of the scratchpads. -/
theorem joinOp_of_legal {f : Fields} {bad : Nat → Bool} {g : Nat → Nat → Nat × Word} {is : Issue} {s : State}
    (hok : is.act.any (fun t => bad ((s.sheaf is.sid).read f.imm t f.b).toNat) = false)
    (hcheck : s.scratchCheck is (is.act.map fun t => (t, (s.sheaf is.sid).read f.imm t f.a)) 16 = none)
    (hfree : is.barred s (fun t => (s.sheaf is.sid).taintOf t f.a) = false) {own far : Bool}
    (hown : ((is.act.map fun t => (t, (s.sheaf is.sid).read f.imm t f.a)).any fun p => !p.2.getLsbD 24) = own)
    (hfar : ((is.act.map fun t => (t, (s.sheaf is.sid).read f.imm t f.a)).any fun p => p.2.getLsbD 24) = far) :
    joinOp f bad g is s = is.inBoth own far s
      (joinAct f g is (s.sheaf is.sid) (is.act.map fun t => (t, (s.sheaf is.sid).read f.imm t f.a))) := by
  unfold joinOp
  simp only [hok, hcheck, hfree, hown, hfar, Bool.false_eq_true, if_false]
  rfl

theorem joins_of {i : Instr} {f : Fields} {bad : Nat → Bool} {legal : Nat → Prop} {g g' : Nat → Nat → Nat × Word}
    (he : ∀ s, exec i s = issued i (joinOp f bad g') s) (hbad : ∀ n, legal n → bad n = false)
    (hg : ∀ n x, legal n → g' n x = g n x) : Joins i f legal g := by
  intro s sid r h sh l hlegal hreach hfree own far hset q x
  refine goes_of_done h (he s) ?_
  have hok : l.any (fun t => bad (sh.read f.imm t f.b).toNat) = false :=
    List.any_eq_false.2 fun t ht => by rw [hbad _ (hlegal t ht)]; exact Bool.false_ne_true
  have hcheck : s.scratchCheck (issueOf s i sid r) (l.map fun t => (t, sh.read f.imm t f.a)) 16 = none := by
    refine scratchCheck_eq_none fun p hp => ?_
    obtain ⟨t, ht, rfl⟩ := List.mem_map.1 hp
    exact hreach t ht
  have hown : (l.map fun t => (t, sh.read f.imm t f.a)).any (fun p => !p.2.getLsbD 24) = own := by
    rw [List.any_map]
    rfl
  have hfar : (l.map fun t => (t, sh.read f.imm t f.a)).any (fun p => p.2.getLsbD 24) = far := by
    rw [List.any_map]
    rfl
  have hwg : q.wgOf sid = sh.wg := steady_behind steady_wg s (sid / 64) own far sid
  have hlanes : (l.map fun t => (t, sh.read f.imm t f.a)).foldl (joinLane f g' sh sh.wg) ([], q) = x := by
    rw [List.foldl_map]
    refine List.foldl_ext _ _ _ fun acc t ht => ?_
    have hv : (acc.2.scratchWg sh.wg (sh.read f.imm t f.a)).getD sh.wg =
        if (sh.read f.imm t f.a).getLsbD 24 then ((acc.2.wg sh.wg).partner).getD sh.wg else sh.wg := by
      unfold State.scratchWg
      split <;> rfl
    have hoff : scratchOff (sh.read f.imm t f.a) = (sh.read f.imm t f.a).toNat % 2 ^ 19 := by
      rw [scratchOff, bits, pow_zero, Nat.div_one]
    rw [joinLane, hv, hoff, hg _ _ (hlegal t ht)]
    rfl
  have hact : joinAct f g' (issueOf s i sid r) sh (l.map fun t => (t, sh.read f.imm t f.a)) q =
      .done (x.2.writeLanes sid f.d 1 x.1) := by
    rw [joinAct, show q.wgOf (issueOf s i sid r).sid = sh.wg from hwg, hlanes]
    rfl
  have hop : joinOp f bad g' (issueOf s i sid r) s = (issueOf s i sid r).inBoth own far s
      (joinAct f g' (issueOf s i sid r) sh (l.map fun t => (t, sh.read f.imm t f.a))) :=
    joinOp_of_legal hok hcheck (barred_eq_false hfree) hown hfar
  have hboth : (issueOf s i sid r).inBoth own far s
      (joinAct f g' (issueOf s i sid r) sh (l.map fun t => (t, sh.read f.imm t f.a))) =
      joinAct f g' (issueOf s i sid r) sh (l.map fun t => (t, sh.read f.imm t f.a)) q := inBoth_of_settled _ hset
  rw [hop, hboth, hact]

/-- An observation leaves the phase. -/
theorem jcPhase_jcObserve (x : Nat) : jcPhase (jcObserve x) = jcPhase x := by
  unfold jcObserve
  split
  · exact bits_setBits_apart x _ (Or.inr (by decide))
  · rfl

theorem jcInit_eq {e : Nat} (he : e ≤ 4095) (x : Nat) : jcInit e x = e * 2 ^ 108 + x % 2 ^ 32 := by
  simp only [jcInit, cat, bits, List.map_cons, List.map_nil, List.sum_cons, List.sum_nil]
  omega

theorem jcWord_eq (done : Bool) (x : Nat) :
    jcWord done x = BitVec.ofNat 32 (done.toNat * 2 ^ 31 + jcArrived x * 256 + jcPhase x) := by
  cases done <;> rfl

theorem joinInstructionsComplete : Claims.JoinInstructionsComplete := by
  intro f many
  have hmany : (f.mod 1 1 == 1) = many := rfl
  have hone : f.mod 0 1 = f.xmod.toNat % 2 := fieldsMod_zero f 1
  refine ⟨joins_of (bad := fun e => decide (4095 < e)) (g' := fun e x => (jcInit e x, 0)) (fun _ => rfl) ?_ ?_,
    joins_of (bad := fun n => many && (n == 0 || decide (4095 < n)))
      (g' := fun n x => jcArrive (f.mod 0 1 == 1) (if many then n else 1) x) (fun _ => rfl) ?_ ?_,
    joins_of (bad := fun b => decide (2 ^ 23 ≤ b)) (g' := jcExpectBytes) (fun _ => rfl) ?_ (fun _ _ _ => rfl),
    joins_of (bad := fun _ => false) (g' := fun p x => jcTest (f.mod 0 1 == 1) p x) (fun _ => rfl) (fun _ _ => rfl) ?_⟩
  · exact fun n hn => decide_eq_false (Nat.not_lt.2 hn)
  · exact fun n x hn => by rw [jcInit_eq hn]
  · intro n hn
    cases hm : many
    · rfl
    · obtain ⟨h1, h2⟩ := hn hm
      simp
      omega
  · exact fun n x _ => by rw [hone]
  · exact fun n hn => decide_eq_false (Nat.not_le.2 hn)
  · intro p x _
    have hphase : ∀ c : Prop, [Decidable c] → jcPhase (if c then jcObserve x else x) = jcPhase x := by
      intro c _
      split
      · exact jcPhase_jcObserve x
      · rfl
    simp only [jcTest, jcWord_eq, hone, Bool.and_eq_true, beq_iff_eq, hphase]

/-! ### `waitm` (R180, R181) -/

/-- The address of a wait on a scratchpad word is the operand A. -/
theorem waitOf_addr {f : Fields} (hf : f.mod 3 1 = 0) (sh : Sheaf) (pc : BitVec 64) (now t : Nat) :
    (sh.waitOf f pc now t).addr.setWidth 32 = sh.read f.imm t f.a := by
  have haddr : (sh.waitOf f pc now t).addr = (sh.read f.imm t f.a).zeroExtend 64 := if_neg (by rw [hf]; decide)
  rw [haddr]
  exact BitVec.setWidth_setWidth_of_le _ (by decide)

theorem waitmCompletes : Claims.WaitmCompletes := by
  intro f s sid r h hglob hreach hfree own far hset
  have hmod : f.mod 3 1 = 0 := hglob
  have hsize : f.xmod.toNat % 8 = f.mod 0 3 := (fieldsMod_zero f 3).symm
  refine goes_of_done h rfl ?_
  have hrun : s.run sid = r := run_of_issues h
  generalize hl : ((acts s (.waitm f) sid r).map fun t =>
    (t, (s.sheaf sid).waitOf f (wordAddr r.pc (some r.k)) s.time.core t)) = l
  have hmem : ∀ p ∈ l, ∃ t ∈ acts s (.waitm f) sid r, p.1 = t ∧
      p.2 = (s.sheaf sid).waitOf f (wordAddr r.pc (some r.k)) s.time.core t := by
    intro p hp
    rw [← hl] at hp
    obtain ⟨t, ht, rfl⟩ := List.mem_map.1 hp
    exact ⟨t, ht, rfl, rfl⟩
  have hcheck : s.scratchCheck (issueOf s (.waitm f) sid r) (l.map fun p => (p.1, p.2.addr.setWidth 32))
      (if f.mod 0 3 = 4 then 16 else 4) = none := by
    refine scratchCheck_eq_none fun p hp => ?_
    obtain ⟨q, hq, rfl⟩ := List.mem_map.1 hp
    obtain ⟨t, ht, -, hw⟩ := hmem q hq
    rw [hw, ← hsize]
    exact hreach t ht
  have hany : ∀ b : Word → Bool, (l.map fun p => (p.1, p.2.addr.setWidth 32)).any (fun p => b p.2) =
      (acts s (.waitm f) sid r).any fun t => b ((s.sheaf sid).read f.imm t f.a) := by
    intro b
    rw [← hl, List.map_map, List.any_map]
    exact congrArg _ (funext fun t => congrArg b (waitOf_addr hmod ..))
  have hbar := barred_eq_false hfree
  have hboth : (issueOf s (.waitm f) sid r).inBoth own far s
      (fun q => .done (q.doWaitm (issueOf s (.waitm f) sid r) f l)) =
      .done ((Behind s (sid / 64) own far).doWaitm (issueOf s (.waitm f) sid r) f l) := inBoth_of_settled _ hset
  rw [← hboth]
  have hsid : (issueOf s (.waitm f) sid r).sid = sid := rfl
  have hact : (issueOf s (.waitm f) sid r).act = acts s (.waitm f) sid r := rfl
  simp only [hsid, hact, hrun, hl, hmod, hcheck, hbar, hany fun a => !a.getLsbD 24, hany fun a => a.getLsbD 24]
  rfl

/-! ### Waits that are evaluated again (R181) -/

/-- The condition of a wait on a word. -/
theorem waitCond_iff {c : BitVec 3} (hc : c.toNat < 4) (a b : Word) : waitCond c.toNat a b = true ↔
    (c = 0 → a = b) ∧ (c = 1 → a ≠ b) ∧ (c = 2 → a.toNat < b.toNat) ∧ (c = 3 → b.toNat ≤ a.toNat) := by
  obtain rfl | rfl | rfl | rfl : c = 0 ∨ c = 1 ∨ c = 2 ∨ c = 3 := by
    have h : ∀ c : BitVec 3, c.toNat < 4 → c = 0 ∨ c = 1 ∨ c = 2 ∨ c = 3 := by decide
    exact h c hc
  · simp [waitCond]
  · simp [waitCond]
  · simp [waitCond, BitVec.ult]
  · simp [waitCond, BitVec.ult]

/-- With no access of the core on its way there is nothing to apply. -/
theorem flushScratch_of_empty {s : State} {c : Nat} (h : (s.core c).fifo = []) : s.flushScratch c false = s := by
  simp [State.flushScratch, h, each]

/-- The evaluation of a wait on a word of the own scratchpad. -/
theorem evalWait_of_word {s : State} {sid t : Nat} {w : Wait} (hglob : w.global = false) (hcond : w.cond.toNat < 4)
    (haddr : w.addr.toNat < 2 ^ 19) (hfifo : (s.core (sid / 64)).fifo = []) (hfree : FreeOf s sid t w.ataint) :
    let x : Word := BitVec.ofNat 32 ((s.wg (s.sheaf sid).wg).scratch.num w.addr.toNat 4)
    s.evalWait sid t w = (some (waitCond w.cond.toNat (x &&& w.mask) (w.cmp &&& w.mask), x, 0), s) := by
  intro x
  have hnat : (w.addr.setWidth 32).toNat = w.addr.toNat := by
    rw [BitVec.toNat_setWidth]
    omega
  have hnear : (w.addr.setWidth 32).getLsbD 24 = false := by
    rw [BitVec.getLsbD, hnat]
    exact Nat.testBit_lt_two_pow (Nat.lt_of_lt_of_le haddr (by decide))
  have hoff : scratchOff (w.addr.setWidth 32) = w.addr.toNat := by
    rw [scratchOff, bits, hnat, pow_zero, Nat.div_one]
    exact Nat.mod_eq_of_lt haddr
  have hwg : s.scratchWg (s.sheaf sid).wg (w.addr.setWidth 32) = some (s.sheaf sid).wg := by
    rw [State.scratchWg, hnear]
    rfl
  have hclear : s.scratchClear (coreOf sid) false = true := by
    rw [State.scratchClear, show (s.core (coreOf sid)).fifo = [] from hfifo]
    rfl
  have hbar : s.barred sid (s.sheaf sid).gen t w.ataint s.next = false := hfree
  have hflush : s.flushScratch (coreOf sid) false = s := flushScratch_of_empty hfifo
  have hne : w.cond ≠ 4 := fun h => by simp [h] at hcond
  unfold State.evalWait
  simp only [hglob, hnear, hflush, hclear, hbar, hoff, hwg, if_neg hne]
  rfl

/-- A wait on a scratchpad word that is evaluated again. -/
theorem reevaluate_of_eval {s : State} {sid t : Nat} {w : Wait} {ok : Bool} {x : Word}
    (h : s.evalWait sid t w = (some (ok, x, 0), s)) (late : Bool) :
    s.reevaluate sid t w late = if ok ∨ late then
        s.modSheaf sid fun sh => (sh.write w.d t x w.taint).modThread t fun th => { th with st := .ready }
      else s.modSheaf sid fun sh => sh.modThread t fun th => { th with st := .waiting { w with seen := x } } := by
  unfold State.reevaluate
  rw [h]
  rfl

theorem waitEvents : Claims.WaitEvents := by
  intro s sid t w hst hglob hcond haddr hfifo hfree x a b holds ready still
  have heval := evalWait_of_word hglob hcond haddr hfifo hfree
  have hok : waitCond w.cond.toNat a b = true ↔ holds := waitCond_iff hcond a b
  have hready : ∀ late, (waitCond w.cond.toNat a b = true ∨ late = true) → s.reevaluate sid t w late = ready :=
    fun late h => (reevaluate_of_eval heval late).trans (if_pos h)
  refine ⟨fun hh => ?_, fun hh => ?_, fun n hn hle => ?_⟩
  · simp only [exec, execWaitmReevaluation, hst, hready false (.inl (hok.2 hh))]
  · have hstill : s.reevaluate sid t w false = still :=
      (reevaluate_of_eval heval false).trans (if_neg fun h => hh (hok.1 (h.resolve_right Bool.false_ne_true)))
    simp only [exec, execWaitmReevaluation, hst, hstill]
  · simp only [exec, execWaitmTimeout, hst, hn, hready true (.inr rfl), if_pos hle]

/-- Settles O15: join instructions by `joins_of`, `waitm` and its events by the evaluation of its condition. -/
theorem joinsAndWaits : Obligations.JoinsAndWaits := by
  unfold Obligations.JoinsAndWaits
  exact ⟨joinInstructionsComplete, waitmCompletes, waitEvents⟩

end Sys2Proof.Laws


/-! SUPPORT. The copy engine (R184 to R187). -/

namespace Sys2Proof.Laws

open Machine

/-! ### Copies at issue (R184, R185) -/

/-- An address that reaches its bytes at a multiple of `al` meets no fault. -/
theorem scratchFaultAl_of_reaches {s : State} {w v size al : Nat} {a : Word} (h : ReachesBy s w a size al v) :
    s.scratchFaultAl w a size al = none := by
  obtain ⟨h25, h19, hal, hv, hsize⟩ := h
  have hwg : s.scratchWg w a = some v := by
    rw [scratchWg_eq]
    split at hv
    · next hfar => rw [if_pos hfar, hv]
    · next hnear => rw [if_neg hnear, hv]
  have hpartner : ¬ (a.getLsbD 24 = true ∧ (s.wg w).partner.isNone = true) := by
    rintro ⟨hb, hp⟩
    rw [State.scratchWg, if_pos hb] at hwg
    simp [hwg] at hp
  have hhigh : bits a.toNat 25 7 = 0 := by rw [bits, h25, Nat.zero_mod]
  have hmid : bits a.toNat 19 5 = 0 := h19
  have hoff : scratchOff a = a.toNat % 2 ^ 19 := by rw [scratchOff, bits, pow_zero, Nat.div_one]
  have hin : ¬ (s.wg v).size < a.toNat % 2 ^ 19 + size := by omega
  simp only [State.scratchFaultAl, hwg, hhigh, hmid, hoff, hin, hal, if_neg hpartner]
  rfl

/-- A lane of a copy whose scratchpad bytes and cell are legal meets no fault. -/
theorem copyFault_eq_none {s : State} {w : Nat} {l : CopyLane} (hsp : ∃ v, ReachesBy s w l.sp 32 16 v)
    (hcell : ∀ c, l.cell = some c → ∃ v, Reaches s w c 16 v) : s.copyFault w l = none := by
  obtain ⟨v, hv⟩ := hsp
  have hbytes := scratchFaultAl_of_reaches hv
  have hnone : (l.cell.bind fun c => s.scratchFault w c 16) = none := by
    cases hc : l.cell with
    | none => rfl
    | some c =>
      obtain ⟨u, hu⟩ := hcell c hc
      exact scratchFaultAl_of_reaches hu
  simp only [State.copyFault, hbytes, hnone]

theorem copiesIssue : Claims.CopiesIssue := by
  intro f s sid r sh l tag tile
  have htag : f.mod 0 2 = tag := fieldsMod_zero f 2
  have htile : copyTile f = tile := rfl
  have hlimit : (∀ n, tile = some n → n < (s.wg sh.wg).tiles.length) →
      tile.any (fun k => decide ((s.wg sh.wg).tiles.length ≤ k)) = false := by
    intro h
    cases ht : tile with
    | none => rfl
    | some n => exact decide_eq_false (Nat.not_le.2 (h n ht))
  refine ⟨fun h ht hreach htags hroom hact => ?_, fun h ht hact htags hroom => ?_, fun h hact => ?_⟩
  · have hbad : l.filter (fun x => (s.copyFault sh.wg x).isSome) = [] := by
      rw [List.filter_eq_nil_iff]
      intro x hx
      obtain ⟨hsp, hcell⟩ := hreach x hx
      rw [copyFault_eq_none hsp hcell]
      exact Bool.false_ne_true
    have hwait : ¬ (sh.tags.getD tag 0 = 63 ∨ 16 ≤ s.queuedCopies (sid / 64)) := by omega
    intro s1 s2 copy s3
    refine goes_of_done h rfl ?_
    dsimp only [issueOf, State.wgOf]
    rw [htag, htile]
    refine (if_neg (by rw [hlimit ht]; exact Bool.false_ne_true)).trans ?_
    split
    · next x rest heq => exact absurd (hbad.symm.trans heq) (List.cons_ne_nil x rest).symm
    · refine (if_neg hwait).trans ((if_neg hact).trans ?_)
      rw [run_of_issues h]
      rfl
  · have hwait : ¬ (sh.tags.getD tag 0 = 63 ∨ 16 ≤ s.queuedCopies (sid / 64)) := by omega
    refine goes_of_done h rfl ?_
    dsimp only [issueOf, State.wgOf]
    rw [htag, htile, hact]
    refine (if_neg (by rw [hlimit ht]; exact Bool.false_ne_true)).trans ?_
    exact (if_neg hwait).trans (if_pos rfl)
  · intro k
    have hall : (List.range 4).all (fun n => f.mod n 1 == 0 || decide (sh.tags.getD n 0 ≤ k)) = true ↔
        ∀ n < 4, f.xmod.toNat / 2 ^ n % 2 = 1 → sh.tags.getD n 0 ≤ k := by
      simp only [List.all_eq_true, List.mem_range, Bool.or_eq_true, beq_iff_eq, decide_eq_true_eq, Fields.mod, pow_one]
      refine forall₂_congr fun n _ => ?_
      omega
    constructor
    · intro hle
      exact goes_of_done h rfl ((if_neg hact).trans (if_pos (hall.2 hle)))
    · rintro ⟨n, hn, hbit, hlt⟩
      have hno : ¬ (List.range 4).all (fun n => f.mod n 1 == 0 || decide (sh.tags.getD n 0 ≤ k)) = true :=
        fun hyes => absurd (hall.1 hyes n hn hbit) (Nat.not_le.2 hlt)
      exact waits_of_wait h rfl ((if_neg hact).trans (if_neg hno))

/-! ### Lanes of copies (R185) -/

/-- A lane may move whose copy moves and is not held, and that waits neither for a replay nor for a `ld.con`. -/
theorem mayCopy_of_moving {s : State} {core n : Nat} {k : Copy} {l : CopyLane} (hheld : k.held = false)
    (hmoving : n ∈ s.movingCopies core) (hstuck : l.stuck = none) (hbar : l.bar = 0) : s.mayCopy core n k l = true := by
  have hcon : s.consuming k.sid k.gen l.thread l.bar = false := by
    simp [State.consuming, hbar]
  simp [State.mayCopy, State.onHold, hheld, hmoving, State.awaitsReplay, hstuck, hcon]

theorem copyLaneCompletes : Claims.CopyLaneCompletes := by
  intro s s1 core n t k l poison hget hheld hmoving hleft hlane hstuck hbar hbytes s2 s3 s4 k' s5
  have hhold : s.onHold k.ctx k.held = false := by rw [hheld]; rfl
  have hmay := mayCopy_of_moving hheld hmoving hstuck hbar
  simp only [exec, execCpaLaneComplete, hget, hhold, hleft, hlane, hmay, hbytes]
  rfl

theorem copyMovesBytes : Claims.CopyMovesBytes := by
  intro s core k l v off
  have hoff : scratchOff l.sp = off := by rw [scratchOff, bits, pow_zero, Nat.div_one]
  refine ⟨fun hdir hv => ?_, fun hdir hv => ?_, fun bs po s' hdir hv hload => ?_, fun s' hdir hv hstore => ?_⟩
  · simp only [State.copyBytes, hdir, hv, State.spWrite, hoff]
    rfl
  · simp only [State.copyBytes, hdir, hv]
    rfl
  · have hne : l.valid ≠ 0 := by omega
    simp only [State.copyBytes, hdir, if_neg hne, State.engineLoad, Copy.engine, hload, State.spWrite, hoff]
    rfl
  · have hne : l.valid ≠ 0 := by omega
    simp only [State.copyBytes, hdir, if_neg hne, State.engineStore, Copy.engine, State.spRead, hoff,
      Nat.add_zero, Memory.readN, List.length_map, List.length_range] at hstore ⊢
    rw [hstore]
    rfl

/-- Settles O17: issue by the cases of R184, a lane's end by `mayCopy_of_moving`, the bytes by the direction. -/
theorem copies : Obligations.Copies := by
  unfold Obligations.Copies
  exact ⟨copiesIssue, copyLaneCompletes, copyMovesBytes⟩

end Sys2Proof.Laws


/-! SUPPORT. Request records (R189 to R193): a scratchpad whose list of bytes is not in canonical form does not read
back the STATUS word that a record's end stores. -/

namespace Sys2Proof.Laws

open Machine

/-- A tensor record with no element, from scratchpad to scratchpad, accepted at address 3. -/
def emptyRecord : Req where
  sid := 0
  gen := 0
  wg := 0
  ctx := 0
  pc := 0
  kind := .tensor
  addr := 3
  bytes := natBytes 32 (2 ^ 86 + 2 ^ 84)
  bank := []
  priv := false
  held := false
  pos := 0
  poison := false
  ovf := false
  stuck := none
  carry := none

/-- That record in the engine of core 0.  The scratchpad of its workgroup lists address 5 before address 3, so a 0 that
is stored at 3 stops in front of 5 and leaves what stands at 3. -/
def outOfOrder : State :=
  { State.reset with
    wgs := [(0, { (default : Workgroup) with scratch := [(5, 1), (3, 9)] })]
    cores := [(0, { Core.reset with reqs := [(0, emptyRecord)] })] }

theorem outOfOrder_runs : Runs outOfOrder 0 0 emptyRecord := by
  refine ⟨rfl, rfl, rfl, ?_⟩
  decide

theorem emptyRecord_elems : TRec.elems (recOf emptyRecord.bytes).dims = [] := by decide +kernel

/-- What the record's end would leave of the scratchpad does not read as its STATUS word. -/
theorem outOfOrder_status (ovf : Bool) :
    Memory.readN (Memory.writeN [(5, 1), (3, 9)] 3 (natBytes 4 (2 ^ 31 + false.toNat * 2 ^ 30 + ovf.toNat * 2 ^ 29))) 3 4 ≠
      natBytes 4 (2 ^ 31 + false.toNat * 2 ^ 30 + ovf.toNat * 2 ^ 29) := by
  cases ovf <;> decide

/-- Refutes O18 in its clause about a record's end: in `outOfOrder`, whose scratchpad is not in canonical form, the STATUS
word that the end stores does not stand at the record's address afterwards. -/
theorem not_requestRecords : ¬ Obligations.RequestRecords := by
  unfold Obligations.RequestRecords
  rintro ⟨-, -, htensor, -⟩
  have hscratch := (htensor outOfOrder 0 0 emptyRecord outOfOrder_runs rfl rfl).1
  obtain ⟨t, ovf, -, ⟨-, hstatus⟩, -, hleft⟩ := hscratch (by decide +kernel) (by decide +kernel) (by decide +kernel)
    (by decide +kernel) rfl (by decide +kernel) (by decide +kernel)
  rw [emptyRecord_elems] at hleft
  rw [hleft] at hstatus
  exact outOfOrder_status ovf hstatus

end Sys2Proof.Laws


/-! SUPPORT. Acceptance of matrix operations, operand tokens, and the steps of the engines (R205 to R218). -/

namespace Sys2Proof.Laws

open Machine

/-! ### The steps of an engine (R217, R218) -/

theorem groupReady_of_free {s : State} {m : MatOp} (hheld : s.onHold m.ctx m.held = false) (h : GroupFree s m) :
    s.groupReady m = true := by
  obtain ⟨hw, hexp, hgroups, hmay, horder, hpoison⟩ := h
  have hrows : (groupRows m.groups).all (s.mayWrite m.wg m.acc m.ticket) = true := by
    rw [List.all_eq_true]
    intro r hr
    obtain ⟨k, hk, rfl⟩ := List.mem_map.1 hr
    exact hmay k (List.mem_range.1 hk)
  have hplaces : (s.acc m.wg m.acc).order.all (fun p => decide (m.ticket ≤ p.ticket) || p.mat) = true := by
    rw [List.all_eq_true]
    intro p hp
    by_cases hlt : p.ticket < m.ticket
    · rw [horder p hp hlt, Bool.or_true]
    · simp [Nat.le_of_not_lt hlt]
  have hmet : s.metPoison m = none := by
    unfold State.metPoison
    split
    · next g c off hp => exact if_neg (hpoison g c off hp)
    · rw [State.badRow, hw]
      rfl
  simp only [State.groupReady, hheld, hexp, hgroups, hrows, hplaces, hmet, hw]
  rfl

theorem matrixEngineSteps : Claims.MatrixEngineSteps := by
  intro s pod eng m hfind
  have hwork : s.working pod eng = some m := hfind
  have hheld : s.onHold m.ctx m.held = false := by simpa using List.find?_some hfind
  refine ⟨fun hfree => ?_, fun hdone => ?_⟩
  · have hweights : m.weights.map (·.1) = none := by rw [hfree.1]; rfl
    simp only [exec, execMatrixRowGroup, hwork, groupReady_of_free hheld hfree, if_true, hweights]
  · simp only [exec, execMatrixOperationComplete, hwork, hdone, if_true]

/-! ### Operand tokens (R214) -/

theorem operandTokens : Claims.OperandTokens := by
  intro f s sid r h hact htoken
  have hmod : f.mod 0 1 = f.xmod.toNat % 2 := fieldsMod_zero f 1
  have hno : ¬ (s.sheaf sid).token = true := by rw [htoken]; exact Bool.false_ne_true
  refine ⟨fun hput => goes_of_done h rfl ((if_neg hact).trans ?_), fun hwait hbusy => goes_of_done h rfl ((if_neg hact).trans ?_)⟩
  · rw [hmod, hput]
    exact (if_neg (by decide)).trans (if_neg hno)
  · rw [hmod, hwait]
    refine (if_pos rfl).trans (if_neg ?_)
    rintro (ht | ht)
    · exact hno ht
    · exact absurd (hbusy.symm.trans ht) Bool.false_ne_true

/-! ### Legal fields (R73, R211 to R216) -/

theorem pairs_of_permitted {m : MatFields} (h : Permitted m.kind m.afmt m.bfmt m.acci) : m.pairs = true := by
  obtain ⟨hacc, hpair⟩ := h
  have hints : (!m.acci || m.ints) = true := by
    cases ha : m.acci
    · rfl
    · obtain ⟨h1, h2⟩ := hacc ha
      simp only [MatFields.ints, List.mem_cons, List.not_mem_nil, or_false, Bool.not_true, Bool.false_or, decide_eq_true_eq]
      omega
  unfold MatFields.pairs
  rw [Bool.and_eq_true]
  refine ⟨?_, hints⟩
  split
  · next hk =>
    rw [if_pos hk] at hpair
    simpa [both, or_assoc] using hpair
  · next hk =>
    rw [if_neg (by omega), if_pos hk] at hpair
    simpa using hpair
  · next h0 h1 =>
    rw [if_neg h0, if_neg h1] at hpair
    simpa [both, or_assoc] using hpair

/-- A conjunction fails where its first part makes the second fail. -/
theorem and_eq_false_of {p q : Bool} (h : p = true → q = false) : (p && q) = false := by
  cases p
  · rfl
  · exact h rfl

theorem bne_zero_eq_false {n : Nat} (h : n = 0) : (n != 0) = false := by simp [h]

/-- A fragment that lies in the vector registers of a sheaf. -/
theorem frag_eq_false {v n regs : Nat} (h : v < 0xC0 ∧ v + n ≤ regs) : decide (0xC0 ≤ v ∨ regs < v + n) = false :=
  decide_eq_false (by omega)

theorem bad_of_legal {m : MatFields} {f : Fields} {sh : Sheaf} {g : Workgroup} (h : MatLegal m f sh g) :
    m.bad f sh g = false := by
  obtain ⟨hpair, hspan, hd, hsel, hstride, hone, hsheaves, hfa, hta, hfb, htb, hsc⟩ := h
  simp only [MatFields.bad, Bool.or_eq_false_iff]
  refine ⟨⟨⟨⟨⟨⟨⟨⟨⟨⟨⟨?_, ?_⟩, ?_⟩, ?_⟩, ?_⟩, ?_⟩, ?_⟩, ?_⟩, ?_⟩, ?_⟩, ?_⟩, ?_⟩
  · rw [pairs_of_permitted hpair]
    rfl
  · exact beq_eq_false_iff_ne.2 (by omega)
  · exact decide_eq_false (Nat.not_le.2 hd)
  · refine and_eq_false_of fun hk => ?_
    obtain ⟨ha, hb⟩ := hsel (bne_iff_ne.1 hk)
    rw [bne_zero_eq_false ha, bne_zero_eq_false hb]
    rfl
  · exact and_eq_false_of fun hk => bne_zero_eq_false (hstride (bne_iff_ne.1 hk))
  · refine and_eq_false_of fun hk => ?_
    rw [Bool.and_eq_true, bne_iff_ne, bne_iff_ne] at hk
    exact (hone hk.1).resolve_left hk.2
  · refine and_eq_false_of fun hk => ?_
    rw [Bool.or_eq_true, beq_iff_eq, Bool.not_eq_true'] at hk
    obtain ⟨hrem, hle⟩ := hsheaves hk
    rw [Bool.or_eq_false_iff]
    exact ⟨bne_zero_eq_false hrem, decide_eq_false (Nat.not_lt.2 hle)⟩
  · exact and_eq_false_of fun hk => frag_eq_false (hfa (beq_iff_eq.1 hk))
  · exact and_eq_false_of fun hk => decide_eq_false (Nat.not_le.2 (hta (beq_iff_eq.1 hk)))
  · exact and_eq_false_of fun hk => frag_eq_false (hfb (by simpa using hk))
  · exact and_eq_false_of fun hk => decide_eq_false (Nat.not_le.2 (htb hk))
  · refine and_eq_false_of fun hk => ?_
    obtain ⟨hc, he⟩ := hsc (beq_iff_eq.1 hk)
    rw [Bool.or_eq_false_iff]
    exact ⟨frag_eq_false hc, frag_eq_false he⟩

/-! ### What stands in the way of acceptance (R214, R215, R230) -/

theorem covers_iff (r : Region) (off n : Nat) :
    r.covers off n = true ↔ r.state ≠ 0 ∧ r.range.1 ≤ off ∧ off + n ≤ r.range.1 + r.range.2 := by
  rw [Region.covers, Bool.and_eq_true, bne_iff_ne, decide_eq_true_eq]

/-- A range inside a region in the state that is wanted meets no fault. -/
theorem weightFault_of_inRegion {d : ComputeDie} {off n al i : Nat} {want : BitVec 2} (h : InRegion d off n al i want) :
    d.weightFault off n al want = none := by
  obtain ⟨hend, hal, hi, hstate, hwant, hlo, hhi, hfirst⟩ := h
  have hat : d.regionAt off n = some i := by
    rw [ComputeDie.regionAt, List.find?_range_eq_some]
    refine ⟨?_, List.mem_range.2 hi, fun j hj => ?_⟩
    · exact (covers_iff ..).2 ⟨hstate ▸ hwant, hlo, hhi⟩
    · rw [Bool.not_eq_true', ← Bool.not_eq_true, covers_iff]
      exact hfirst j hj
  have h1 : ¬ 2 ^ 30 < off + n := Nat.not_lt.2 hend
  rw [ComputeDie.weightFault, if_neg h1, if_neg (not_not.2 hal), hat]
  exact if_neg (not_not.2 hstate)

theorem operandTile_eq_none {is : Issue} {s : State} {w n fmt k : Nat} (h : OperandTile (s.tile w n) fmt k) :
    is.operandTile s w n fmt k = none := by
  obtain ⟨hready, hrows, hcols, hfmt⟩ := h
  have hwait : is.untilReady s w n = none := by
    rw [Issue.untilReady, hready]
  have hok : (s.tile w n).operandOk fmt k = true := by simp [Tile.operandOk, hrows, hcols, hfmt]
  rw [Issue.operandTile, hwait]
  exact if_pos hok

/-! ### Acceptance (R217) -/

theorem queue_modEngine (s : State) (p e : Nat) (f : List MatOp → List MatOp) :
    ((s.modEngine p e f).pod p).queue e = f ((s.pod p).queue e) := by
  simp only [State.modEngine, State.pod_modPod, Pod.queue]
  split <;> rfl

/-- An accepted operation stands last in the queue of its engine. -/
theorem acceptMat_last (is : Issue) (q : State) (i : Instr) (m : MatFields) (f : Fields) (tag : BitVec 16) (off : Nat) :
    ∃ t, is.acceptMat q i m f tag off = .done t ∧
      ∃ x, ((t.pod (is.sid / 128)).queue (if m.afmt = 15 ∨ m.afmt = 16 then 1 else 0)).getLast? = some x ∧ x.op = q.next ∧
        x.sid = is.sid ∧ x.wg = (q.sheaf is.sid).wg ∧ x.acc = f.d.toNat ∧ x.groups = 0 ∧ x.z = m.z ∧ x.tag = tag := by
  obtain ⟨s1, hs1⟩ : ∃ s1, s1 = each (q.matOp is m f tag off).regs
    (fun r s => s.spoil r.1 (List.range (s.sheaf r.1).width) (List.range' r.2.1 r.2.2)) q := ⟨_, rfl⟩
  have hlanded : Landed q s1 := by
    rw [hs1]
    exact Landed.foldl (fun s r => spoil_landed s ..) _ _
  have hnext : s1.next = q.next := by
    have hfields : s1 = { q with sheaves := s1.sheaves, pods := s1.pods, free := s1.free } := hlanded
    rw [hfields]
  have hwg : (s1.sheaf is.sid).wg = (q.sheaf is.sid).wg := by
    rw [hs1]
    exact each_keeps (fun s : State => (s.sheaf is.sid).wg) (fun r s => steady_spoil steady_wg s ..) _ _
  refine ⟨_, rfl, s1.matOp is m f tag off, ?_, hnext, rfl, hwg, rfl, rfl, rfl, rfl⟩
  have hpod : coreOf is.sid / 2 = is.sid / 128 := by
    rw [coreOf, Nat.div_div_eq_div_mul]
  rw [hpod, queue_modEngine, hs1, List.getLast?_concat]

/-- What a matrix instruction does where nothing stands in its way but, perhaps, the order of its accumulator tile. -/
theorem matrixOp_eq_acceptMat {i : Instr} {kind : Nat} {f : Fields} {is : Issue} {s q : State} {m : MatFields}
    {sh : Sheaf} {w off c : Nat} {ga gb gs tag : BitVec 16} {coeff : Bool} (hm : matFields kind f = m)
    (hsh : s.sheaf is.sid = sh) (hw : sh.wg = w) (hc : coreOf is.sid = c)
    (hoff : (if m.asrc = 2 then (sh.read f.imm is.lead f.a).toNat else 0) = off)
    (hga : (if m.asrc = 1 then (s.tile w f.a.toNat).dom else 0) = ga)
    (hgb : (if m.btile then (s.tile w f.b.toNat).dom else 0) = gb) (hgs : (s.acc w f.d.toNat).dom = gs)
    (hcoeff : (tagAxis gb == 2 && tagInt gb == m.acci) = coeff) (htag : (if coeff then coefTag gb else 0) = tag)
    (hact : is.act ≠ []) (hbad : m.bad f sh (s.wg w) = false)
    (hbar : ¬ (m.asrc = 2 ∧ is.barred s (fun t => t == is.lead && sh.taintOf t f.a) = true))
    (hfault : (if m.asrc = 2 then (s.die (dieOf c)).weightFault off
      (63 * (if m.stride = 0 then m.rowA else 16 * m.stride) + m.rowA) 16 2 else none) = none)
    (hopA : (if m.asrc = 1 then is.operandTile s w f.a.toNat m.afmt m.k else none) = none)
    (hopB : (if m.btile then is.operandTile s w f.b.toNat m.bfmt m.k else none) = none)
    (hplain : tagAxis ga = 0) (hhaar : ¬ (tagAxis gb ≠ 0 ∧ ((!coeff) = true ∨ ((!m.z) = true ∧ gs ≠ tag))))
    (htok : (m.spans sh (s.wg w)).any (fun q => decide (q ≠ is.sid ∧ (!(s.sheaf q).token) = true)) = false)
    (hroom : ¬ 4 ≤ ((s.pod (c / 2)).queue (if m.afmt = 15 ∨ m.afmt = 16 then 1 else 0)).length)
    (hq : (if (!m.z && tag == 0 && tagAxis gs != 0) = true then s.forceAcc is.sid w f.d.toNat 1
      else if (s.acc w f.d.toNat).room 1 then some s else none) = some q) :
    matrixOp i kind f is s = is.acceptMat q i m f tag off := by
  have hno : ¬ tagAxis ga ≠ 0 := not_not.2 hplain
  unfold matrixOp
  simp only [hm, hsh, hw, hc, hoff, hga, hgb, hgs, hcoeff, htag, hbad, hfault, hopA, hopB, htok, hq, if_neg hact,
    if_neg hbar, if_neg hno, if_neg hhaar, if_neg hroom, Bool.false_eq_true, if_false, Option.or_none]

theorem matrixAccepted_of {i : Instr} {kind : Nat} {f : Fields} (he : ∀ s, exec i s = issued i (matrixOp i kind f) s) :
    MatrixAccepted i kind f := by
  intro s sid r h m sh w d is off gb gs coeff tag eng taken
  refine ⟨fun hnone => goes_of_done h (he s) (if_pos hnone), ?_⟩
  intro hact hlegal hfree hweights hta htb hhaar htokens hqueue
  have hbad : m.bad f sh (s.wg w) = false := bad_of_legal hlegal
  have hbar : ¬ (m.asrc = 2 ∧ is.barred s (fun t => t == is.lead && sh.taintOf t f.a) = true) := by
    rintro ⟨h2, hb⟩
    rw [show is.barred s (fun t => t == is.lead && sh.taintOf t f.a) = false from barred_eq_false (hfree h2)] at hb
    exact absurd hb Bool.false_ne_true
  have hfault : (if m.asrc = 2 then (s.die (dieOf (coreOf sid))).weightFault off
      (63 * (if m.stride = 0 then m.rowA else 16 * m.stride) + m.rowA) 16 2 else none) = none := by
    split
    · next h2 =>
      obtain ⟨k, hk⟩ := hweights h2
      exact weightFault_of_inRegion hk
    · rfl
  have hopA : (if m.asrc = 1 then is.operandTile s w f.a.toNat m.afmt m.k else none) = none := by
    split
    · next h1 => exact operandTile_eq_none (hta h1).1
    · rfl
  have hopB : (if m.btile then is.operandTile s w f.b.toNat m.bfmt m.k else none) = none := by
    split
    · next h1 => exact operandTile_eq_none (htb h1)
    · rfl
  have hga : tagAxis (if m.asrc = 1 then (s.tile w f.a.toNat).dom else 0) = 0 := by
    split
    · next h1 => exact (hta h1).2
    · decide
  have hgb : ¬ (tagAxis gb ≠ 0 ∧ ((!coeff) = true ∨ ((!m.z) = true ∧ gs ≠ tag))) := by
    rintro ⟨hax, hc⟩
    obtain ⟨hco, hz⟩ := hhaar.resolve_left hax
    rcases hc with hc | ⟨hnz, hne⟩
    · simp [hco] at hc
    · rcases hz with hz | hz
      · simp [hz] at hnz
      · exact hne hz
  have htok : (m.spans sh (s.wg w)).any (fun q => decide (q ≠ is.sid ∧ (!(s.sheaf q).token) = true)) = false := by
    rw [List.any_eq_false]
    intro q hq hbadq
    obtain ⟨hne, hnotoken⟩ := of_decide_eq_true hbadq
    obtain ⟨k, hk, rfl⟩ := List.mem_map.1 hq
    rcases htokens k (List.mem_range.1 hk) with hsid | htoken
    · exact hne hsid
    · rw [htoken] at hnotoken
      exact absurd hnotoken Bool.false_ne_true
  have hroom : ¬ 4 ≤ ((s.pod (coreOf sid / 2)).queue eng).length := by
    rw [show coreOf sid / 2 = sid / 128 from Nat.div_div_eq_div_mul ..]
    omega
  have hop : ∀ q, (if (!m.z && tag == 0 && tagAxis gs != 0) = true then s.forceAcc sid w d 1
      else if (s.acc w d).room 1 then some s else none) = some q →
      matrixOp i kind f is s = is.acceptMat q i m f tag off := by
    intro q hq
    exact matrixOp_eq_acceptMat rfl rfl rfl rfl rfl rfl rfl rfl rfl rfl hact hbad hbar hfault hopA hopB hga hgb htok
      hroom hq
  have htaken : ∀ q, matrixOp i kind f is s = is.acceptMat q i m f tag off → (q.sheaf sid).wg = w → taken q := by
    intro q hq hwg
    obtain ⟨t, ht, x, hlast, hop, hsid, hxw, hacc, hgroups, hz, hxt⟩ := acceptMat_last is q i m f tag off
    exact ⟨t, ht, goes_of_done h (he s) (hq.trans ht), x, hlast, hop, hsid, hxw.trans hwg, hacc, hgroups, hz, hxt⟩
  refine ⟨fun hno horder => htaken s (hop s ?_) rfl, fun hz htag hax hjobs horder => htaken _ (hop _ ?_) ?_⟩
  · have hforce : ¬ (!m.z && tag == 0 && tagAxis gs != 0) = true := by
      simp only [Bool.and_eq_true, Bool.not_eq_true', beq_iff_eq, bne_iff_ne]
      rintro ⟨⟨hz, ht⟩, ha⟩
      rcases hno with h1 | h2 | h3
      · rw [hz] at h1
        exact absurd h1 Bool.false_ne_true
      · exact h2 ht
      · exact ha h3
    have hplace : (s.acc w d).room 1 = true := decide_eq_true (by omega)
    exact (if_neg hforce).trans (if_pos hplace)
  · have hforce : (!m.z && tag == 0 && tagAxis gs != 0) = true := by
      simp only [Bool.and_eq_true, Bool.not_eq_true', beq_iff_eq, bne_iff_ne]
      exact ⟨⟨hz, htag⟩, hax⟩
    have hplaces : s.liftRoom (coreOf sid) 1 = true ∧ (s.acc w d).room (1 + 1) = true :=
      ⟨decide_eq_true (Nat.succ_le_of_lt hjobs), decide_eq_true (by omega)⟩
    exact (if_pos hforce).trans ((if_neg hax).trans (if_pos hplaces))
  · rfl

/-- Settles O19: acceptance by `matrixAccepted_of`, tokens and the engines' steps by their cases. -/
theorem matrixOperations : Obligations.MatrixOperations := by
  unfold Obligations.MatrixOperations
  exact ⟨fun _ => ⟨matrixAccepted_of fun _ => rfl, matrixAccepted_of fun _ => rfl, matrixAccepted_of fun _ => rfl⟩,
    operandTokens, matrixEngineSteps⟩

end Sys2Proof.Laws


/-! SUPPORT. The accumulator instructions at issue (R219 to R224). -/

namespace Sys2Proof.Laws

open Machine

/-- An accumulator instruction of some lane, on a tile that the workgroup holds. -/
theorem accOp_of_tile {n : Nat} {g : Nat → Acc → Sheaf → Nat → State → Result} {s : State} {is : Issue}
    (hn : n < (s.wg (s.wgOf is.sid)).acc.length) (hact : is.act ≠ []) :
    accOp n g is s = g (s.wgOf is.sid) (s.acc (s.wgOf is.sid) n) (s.sheaf is.sid) is.lead s :=
  (if_neg (Nat.not_le.2 hn)).trans (if_neg hact)

/-- A tile with no coefficients has not to be reconstructed. -/
theorem forceAcc_of_plain {s : State} {sid w n places : Nat} (hplain : tagAxis (s.acc w n).dom = 0)
    (hroom : (s.acc w n).order.length + places ≤ 7) : s.forceAcc sid w n places = some s :=
  (if_pos hplain).trans (if_pos (decide_eq_true hroom))

theorem not_misaligned {l : List Nat} {c : Nat → Nat} (h : ∀ t ∈ l, c t = 0) :
    l.any (fun t => decide (c t ≠ 0)) = false :=
  List.any_eq_false.2 fun t ht => by rw [h t ht]; decide

theorem accumulatorInstructions : Claims.AccumulatorInstructions := by
  intro f s sid r sh w k row col lead plain
  have hk : wideRegs (f.mod 0 2) = k := congrArg wideRegs (fieldsMod_zero f 2)
  have hroom : ∀ n, (s.acc w n).order.length < 7 → (s.acc w n).room 1 = true := fun n h => decide_eq_true h
  refine ⟨fun h hact hn => ⟨fun hord => ?_, fun hpos hord => ?_⟩, fun h hact hp hord hcol => ?_,
    fun h hact hn hord hcol hmay => ?_, fun h hact hn => ?_, fun h hact hp hord => ?_⟩
  · have hfree : ¬ (!(s.acc w f.d.toNat).room 1) = true := by
      rw [hroom _ (by rw [hord]; decide)]
      decide
    exact goes_of_done h rfl ((accOp_of_tile hn hact).trans ((if_neg hfree).trans (if_pos hord)))
  · have hfree : ¬ (!(s.acc w f.d.toNat).room 1) = true := by rw [hroom _ hord]; decide
    have hne : ¬ (s.acc w f.d.toNat).order = [] := fun hnil => by rw [hnil] at hpos; exact absurd hpos (by decide)
    exact goes_of_done h rfl ((accOp_of_tile hn hact).trans ((if_neg hfree).trans (if_neg hne)))
  · obtain ⟨hn, hax⟩ := hp
    refine goes_of_done h rfl ?_
    rw [hk]
    have hlegal : ¬ ((s.wg w).acc.length ≤ f.c.toNat ∨
        (acts s (.accRd f) sid r).any (fun t => decide (col t % k ≠ 0)) = true) := by
      rw [not_misaligned hcol]
      exact fun hor => hor.elim (Nat.not_le.2 hn) Bool.false_ne_true
    refine (if_neg hlegal).trans ((if_neg hact).trans ?_)
    have hforce : s.forceAcc (issueOf s (.accRd f) sid r).sid (s.wgOf (issueOf s (.accRd f) sid r).sid) f.c.toNat 0 = some s :=
      forceAcc_of_plain hax hord
    rw [hforce]
    rfl
  · refine goes_of_done h rfl ((accOp_of_tile hn hact).trans ?_)
    rw [hk]
    have hbusy : ¬ ((!(s.acc w f.d.toNat).room 1) = true ∨
        (acts s (.accWr f) sid r).any (fun t => !s.mayWrite w f.d.toNat s.next (row t)) = true) := by
      rw [hroom _ hord, List.any_eq_false.2 fun t ht => by rw [hmay t ht]; decide]
      decide
    have hlegal : ¬ (acts s (.accWr f) sid r).any (fun t => decide (col t % k ≠ 0)) = true := by
      rw [not_misaligned hcol]
      exact Bool.false_ne_true
    exact (if_neg hlegal).trans (if_neg hbusy)
  · intro a x q
    refine goes_of_done h rfl ((accOp_of_tile hn hact).trans ?_)
    have hdom : f.mod 0 1 = f.xmod.toNat % 2 := fieldsMod_zero f 1
    rw [hdom]
    rfl
  · obtain ⟨hn, hax⟩ := hp
    refine goes_of_done h rfl ((accOp_of_tile hn hact).trans ?_)
    have hforce : s.forceAcc (issueOf s (.accCvt f) sid r).sid (s.wgOf (issueOf s (.accCvt f) sid r).sid) f.d.toNat 1 = some s :=
      forceAcc_of_plain hax hord
    have hfree : (s.acc (s.wgOf (issueOf s (.accCvt f) sid r).sid) f.d.toNat).room 1 = true := hroom _ hord
    rw [hforce, if_pos hfree]
    dsimp only
    rw [ite_self]
    rfl

/-! ### Transfers between rows and scratchpad (R219, R222) -/

theorem scratchWg_of_reaches {s : State} {w v size al : Nat} {a : Word} (h : ReachesBy s w a size al v) :
    s.scratchWg w a = some v := by
  obtain ⟨-, -, -, hv, -⟩ := h
  rw [scratchWg_eq]
  split at hv
  · next hfar => rw [if_pos hfar, hv]
  · next hnear => rw [if_neg hnear, hv]

theorem scratchOff_eq (a : Word) : scratchOff a = a.toNat % 2 ^ 19 := by rw [scratchOff, bits, pow_zero, Nat.div_one]

theorem rowRange_eq (fmt : Nat) (imm : Word) :
    rowRange fmt imm = (if imm.toNat / 2 ^ 12 % 2 ^ 16 = 0 then (rowBytes fmt 64 + 15) / 16 * 16
      else 16 * (imm.toNat / 2 ^ 12 % 2 ^ 16), imm.toNat / 2 ^ 6 % 2 ^ 6 + 1, imm.toNat % 2 ^ 6) := by
  simp only [-Nat.reducePow, rowRange, bits, up16, ceilDiv, pow_zero, Nat.div_one]
  rfl

/-- The lanes of a transfer, one a row. -/
def rowLanes (a : Word) (src : BitVec 8) (thread v pitch count row0 : Nat) : List Lane :=
  (List.range count).map fun j =>
    { thread := thread, off := a.toNat % 2 ^ 19 + j * pitch, va := BitVec.ofNat 64 (row0 + j), pa := BitVec.ofNat 64 v
      addrs := [(src, a)], srcs := [], dsts := [], taint := false, done := false }

/-- A transfer whose format, rows and bytes are legal, once the accesses before it have been applied. -/
theorem accTransfer_of {s : State} {i : Instr} {f : Fields} {sid v pitch count row0 : Nat} {r : ClauseRun}
    {codes : List Nat} {places : Nat} {go : Issue → Nat → Nat → List Lane → State → Result} (hact : acts s i sid r ≠ [])
    (hrange : rowRange (f.xmod.toNat % 32) f.imm = (pitch, count, row0))
    (himm : f.imm.toNat < 2 ^ 28) (hfmt : f.xmod.toNat % 32 ∈ codes) (hrows : row0 + count ≤ 64)
    (hn : f.d.toNat < (s.wg (s.wgOf sid)).acc.length)
    (hreach : ReachesBy s (s.wgOf sid) ((s.sheaf sid).read f.imm ((acts s i sid r).headD 0) f.a)
      ((count - 1) * pitch + rowBytes (f.xmod.toNat % 32) 64) 1 v)
    (hplace : (if places = 0 then s.forceAcc sid (s.wgOf sid) f.d.toNat 0
      else if (s.acc (s.wgOf sid) f.d.toNat).room places then some s else none) = some s)
    (hset : Settled s (sid / 64) (v ≠ s.wgOf sid))
    (hfree : ∀ t ∈ acts s i sid r,
      FreeOf s sid t (t == (acts s i sid r).headD 0 && (s.sheaf sid).taintOf t f.a)) :
    accTransfer i f codes places go (issueOf s i sid r) s =
      go (issueOf s i sid r) (s.wgOf sid) f.d.toNat
        (rowLanes ((s.sheaf sid).read f.imm ((acts s i sid r).headD 0) f.a) f.a ((acts s i sid r).headD 0) v pitch count
          row0) (s.flushScratch (sid / 64) (v ≠ s.wgOf sid)) := by
  have hmod : f.mod 0 5 = f.xmod.toNat % 32 := fieldsMod_zero f 5
  have hhigh : bits f.imm.toNat 28 4 = 0 := by rw [bits, Nat.div_eq_of_lt himm, Nat.zero_mod]
  have hwg := scratchWg_of_reaches hreach
  have hnone := scratchFaultAl_of_reaches hreach
  have hok : ¬ (bits f.imm.toNat 28 4 ≠ 0 ∨ f.xmod.toNat % 32 ∉ codes ∨
      64 < row0 + count ∨ (s.wg (s.wgOf sid)).acc.length ≤ f.d.toNat) :=
    fun hor => hor.elim (fun h => h hhigh) fun h => h.elim (fun h => h hfmt) fun h =>
      h.elim (Nat.not_lt.2 hrows) (Nat.not_le.2 hn)
  have hbar := barred_eq_false hfree
  unfold accTransfer
  rw [hmod]
  dsimp only
  rw [hrange]
  dsimp only [issueOf, Issue.lead, State.wgOf, Issue.barred] at *
  refine (if_neg hok).trans ((if_neg hact).trans ((if_neg (ne_true_of_eq_false hbar)).trans ?_))
  rw [hnone]
  dsimp only
  split
  · next heq => exact absurd (hplace.symm.trans heq) (Option.some_ne_none _)
  · next q heq =>
    obtain rfl : s = q := Option.some.inj (hplace.symm.trans heq)
    simp only [hwg, Option.getD_some, scratchOff_eq]
    exact inScratch_of_settled _ hset

theorem accumulatorTransfers : Claims.AccumulatorTransfers := by
  intro f s sid r sh w n fmt pitch count row0 addr unbarred lanes himm hrows hn
  refine ⟨fun v h hact hfmt hreach hord hset hfree => ?_, fun v h hact hfmt hreach hax hord hset hfree => ?_⟩
  · intro q l
    have hroom : (s.acc w n).room 1 = true := decide_eq_true hord
    refine goes_of_done h rfl
      ((accTransfer_of hact (rowRange_eq _ _) himm hfmt hrows hn hreach (if_pos hroom) hset hfree).trans ?_)
    have hmod : f.mod 0 5 = fmt := fieldsMod_zero f 5
    dsimp only
    rw [hmod]
    rfl
  · intro q
    have hforce : s.forceAcc sid w n 0 = some s := forceAcc_of_plain hax hord
    exact goes_of_done h rfl
      (accTransfer_of hact (rowRange_eq _ _) himm (List.mem_range.2 hfmt) hrows hn hreach hforce hset hfree)

/-- Settles O21: `accOp_of_tile` and `forceAcc_of_plain` decide the rows of an instruction, `accTransfer_of` the checks
of a transfer. -/
theorem accumulators : Obligations.Accumulators := by
  unfold Obligations.Accumulators
  exact ⟨accumulatorInstructions, accumulatorTransfers⟩

end Sys2Proof.Laws


/-! SUPPORT. GDDR 7 and the peers' memory stay in canonical form: what each operation of the state keeps. -/

namespace Sys2Proof.Laws

open Machine

/-- GDDR 7 and the memory of the peers stand in canonical form. -/
def Canon (s : State) : Prop := s.mem.wf = true ∧ s.peers.wf = true

/-- The value, where there is one, has the property. -/
def OnSome {α : Type} (p : α → Prop) : Option α → Prop
  | none => True
  | some a => p a

/-- The value of a success has the property. -/
def OnOk {ε α : Type} (p : α → Prop) : Except ε α → Prop
  | .error _ => True
  | .ok a => p a

/-- The first component has the property. -/
abbrev OnFst {α β : Type} (p : α → Prop) (x : α × β) : Prop := p x.1

/-- The second component has the property. -/
abbrev OnSnd {α β : Type} (p : β → Prop) (x : α × β) : Prop := p x.2

/-- The state within a record's moves has the property. -/
abbrev OnMoving (p : State → Prop) (m : Moving) : Prop := p m.s

/-- The state within a graphics unit has the property. -/
abbrev OnGfx (p : State → Prop) (g : Gfx) : Prop := p g.s

/-- The state within a tile's batch of fragments has the property. -/
abbrev OnBatch (p : State → Prop) (b : Batch) : Prop := p b.g.s

/-- The state that the issue of a word leaves has the property. -/
def OnResult (p : State → Prop) : Result → Prop
  | .done s => p s
  | .wait s => p s
  | .trap _ _ _ _ _ s => p s

/-- The next state, where there is one, has the property. -/
def OnNext (p : State → Prop) : Host.Outcome State Fault Refusal → Prop
  | .next s => p s
  | _ => True

theorem Canon.of_eq {s t : State} (h : Canon s) (hm : t.mem = s.mem) (hp : t.peers = s.peers) : Canon t := by
  unfold Canon
  rw [hm, hp]
  exact h

theorem foldl_holds {α σ : Type} (p : σ → Prop) {f : σ → α → σ} {x : σ} {l : List α} (h : p x)
    (hf : ∀ a x, p x → p (f x a)) : p (l.foldl f x) := by
  induction l generalizing x with
  | nil => exact h
  | cons a l ih => exact ih (hf a x h)

theorem each_holds {α σ : Type} (p : σ → Prop) {f : α → σ → σ} {x : σ} {l : List α} (h : p x)
    (hf : ∀ a x, p x → p (f a x)) : p (each l f x) :=
  foldl_holds p h hf

theorem ite_holds {α : Type} (p : α → Prop) {c : Prop} [Decidable c] {a b : α} (ha : p a) (hb : p b) :
    p (if c then a else b) := by
  split
  · exact ha
  · exact hb

theorem dite_holds {α : Type} (p : α → Prop) {c : Prop} [Decidable c] {a : c → α} {b : ¬ c → α} (ha : ∀ h, p (a h))
    (hb : ∀ h, p (b h)) : p (if h : c then a h else b h) := by
  split
  · exact ha _
  · exact hb _

theorem getD_holds {α : Type} (p : α → Prop) {x : Option α} {d : α} (hx : OnSome p x) (hd : p d) : p (x.getD d) := by
  cases x with
  | none => exact hd
  | some a => exact hx

theorem map_holds {α β : Type} (p : α → Prop) (q : β → Prop) {x : Option α} {f : α → β} (hx : OnSome p x)
    (hf : ∀ a, p a → q (f a)) : OnSome q (x.map f) := by
  cases x with
  | none => trivial
  | some a => exact hf a hx

theorem bind_holds_of {α β : Type} (q : β → Prop) {x : Option α} {f : α → Option β} (hf : ∀ a, OnSome q (f a)) :
    OnSome q (x.bind f) := by
  cases x with
  | none => trivial
  | some a => exact hf a

theorem map_holds_of {α β : Type} (q : β → Prop) {x : Option α} {f : α → β} (hf : ∀ a, q (f a)) : OnSome q (x.map f) :=
  map_holds (fun _ => True) q (by cases x <;> trivial) fun a _ => hf a

theorem bind_holds {α β : Type} (p : α → Prop) (q : β → Prop) {x : Option α} {f : α → Option β} (hx : OnSome p x)
    (hf : ∀ a, p a → OnSome q (f a)) : OnSome q (x.bind f) := by
  cases x with
  | none => trivial
  | some a => exact hf a hx

theorem findSome_holds {α β : Type} (q : β → Prop) {l : List α} {f : α → Option β} (hf : ∀ a, OnSome q (f a)) :
    OnSome q (l.findSome? f) := by
  induction l with
  | nil => trivial
  | cons a l ih =>
    rw [List.findSome?_cons]
    have ha := hf a
    split
    · next b h =>
      rw [h] at ha
      exact ha
    · exact ih

theorem or_holds {α : Type} (p : α → Prop) {x y : Option α} (hx : OnSome p x) (hy : OnSome p y) : OnSome p (x.or y) := by
  cases x with
  | none => exact hy
  | some a => exact hx

theorem mapOk_holds {ε α β : Type} (p : α → Prop) (q : β → Prop) {x : Except ε α} {f : α → β} (hx : OnOk p x)
    (hf : ∀ a, p a → q (f a)) : OnOk q (x.map f) := by
  cases x with
  | error e => trivial
  | ok a => exact hf a hx

theorem bindOk_holds {ε α β : Type} (p : α → Prop) (q : β → Prop) {x : Except ε α} {f : α → Except ε β} (hx : OnOk p x)
    (hf : ∀ a, p a → OnOk q (f a)) : OnOk q (x.bind f) := by
  cases x with
  | error e => trivial
  | ok a => exact hf a hx

theorem Canon.ite {c : Prop} [Decidable c] {a b : State} (ha : Canon a) (hb : Canon b) : Canon (if c then a else b) :=
  ite_holds Canon ha hb

theorem OnFst.ite {α β : Type} {p : α → Prop} {c : Prop} [Decidable c] {a b : α × β} (ha : OnFst p a) (hb : OnFst p b) :
    OnFst p (if c then a else b) := ite_holds (OnFst p) ha hb

theorem OnSnd.ite {α β : Type} {p : β → Prop} {c : Prop} [Decidable c] {a b : α × β} (ha : OnSnd p a) (hb : OnSnd p b) :
    OnSnd p (if c then a else b) := ite_holds (OnSnd p) ha hb

theorem OnSome.ite {α : Type} {p : α → Prop} {c : Prop} [Decidable c] {a b : Option α} (ha : OnSome p a)
    (hb : OnSome p b) : OnSome p (if c then a else b) := ite_holds (OnSome p) ha hb

theorem OnOk.ite {ε α : Type} {p : α → Prop} {c : Prop} [Decidable c] {a b : Except ε α} (ha : OnOk p a)
    (hb : OnOk p b) : OnOk p (if c then a else b) := ite_holds (OnOk p) ha hb

theorem OnResult.ite {p : State → Prop} {c : Prop} [Decidable c] {a b : Result} (ha : OnResult p a)
    (hb : OnResult p b) : OnResult p (if c then a else b) := ite_holds (OnResult p) ha hb

theorem OnNext.ite {p : State → Prop} {c : Prop} [Decidable c] {a b : Host.Outcome State Fault Refusal}
    (ha : OnNext p a) (hb : OnNext p b) : OnNext p (if c then a else b) := ite_holds (OnNext p) ha hb

end Sys2Proof.Laws


/-! SUPPORT. Every operation of the machine, in the order of the model, keeps GDDR 7 and the memory of the peers in
canonical form. -/

namespace Sys2Proof.Laws
open Machine

/-! ### The operations of `Machine/State` -/

theorem canon_reset : Canon State.reset := ⟨rfl, rfl⟩

/-! ### The operations of `Machine/Parts` -/

theorem canon_modSheaf {s : State} {sid : ℕ} {f : Sheaf → Sheaf} (h : Canon s) : Canon (s.modSheaf sid f) := h

theorem canon_modWg {s : State} {w : ℕ} {f : Workgroup → Workgroup} (h : Canon s) : Canon (s.modWg w f) := h

theorem canon_modCore {s : State} {c : ℕ} {f : Core → Core} (h : Canon s) : Canon (s.modCore c f) := h

theorem canon_modPod {s : State} {p : ℕ} {f : Pod → Pod} (h : Canon s) : Canon (s.modPod p f) := h

theorem canon_modDie {s : State} {d : ℕ} {f : ComputeDie → ComputeDie} (h : Canon s) : Canon (s.modDie d f) := h

theorem canon_modBase {s : State} {d : ℕ} {f : BaseDie → BaseDie} (h : Canon s) : Canon (s.modBase d f) := h

theorem canon_modRing {s : State} {d : ℕ} {f : RingStore → RingStore} (h : Canon s) :
    Canon (s.modRing d f) := canon_modBase h

theorem canon_modCtx {s : State} {n : ℕ} {f : Ctx → Ctx} (h : Canon s) : Canon (s.modCtx n f) := h

theorem canon_modGraph {s : State} {g : ℕ} {f : Graph → Graph} (h : Canon s) : Canon (s.modGraph g f) := h

theorem canon_modQueue {s : State} {q : ℕ} {f : Queue → Queue} (h : Canon s) : Canon (s.modQueue q f) := h

theorem canon_modPassRun {s : State} {g p : ℕ} {f : PassRun → PassRun} (h : Canon s) :
    Canon (s.modPassRun g p f) := canon_modGraph h

theorem canon_modTile {s : State} {g p t : ℕ} {f : TileRun → TileRun} (h : Canon s) :
    Canon (s.modTile g p t f) := canon_modPassRun h

theorem canon_releaseToken {s : State} {sid t : ℕ} (h : Canon s) : Canon (s.releaseToken sid t) := by
  unfold State.releaseToken
  extract_lets
  split
  · exact h
  · split
    · exact h
    · exact canon_modSheaf (canon_modTile h)

theorem canon_modRegs {s : State} {f : Regs → Regs} (h : Canon s) : Canon (s.modRegs f) := h

theorem canon_modOp {s : State} {o : ℕ} {f : LongOp → LongOp} (h : Canon s) : Canon (s.modOp o f) := h

theorem canon_fresh {s : State} (h : Canon s) : OnSnd Canon s.fresh := h

theorem canon_flip {s : State} (h : Canon s) : OnSnd Canon s.flip := h

theorem canon_pick {s : State} {n : ℕ} (h : Canon s) : OnSnd Canon (s.pick n) := h

theorem canon_undef {s : State} (h : Canon s) : OnSnd Canon s.undef := h

theorem canon_interrupt {s : State} {b : ℕ} (h : Canon s) : Canon (s.interrupt b) := canon_modRegs h

/-! ### The operations of `Machine/Mem` -/

theorem canon_remember {s : State} {key : ℕ} {old : List Byte} (h : Canon s) :
    Canon (s.remember key old) := Canon.ite h h

theorem canon_poke {s : State} {pa : ℕ} {bs : List Byte} (h : Canon s) : Canon (s.poke pa bs) := by
  obtain ⟨-, hp⟩ := canon_remember (key := pa) (old := s.mem.readN pa bs.length) h
  exact ⟨Memory.wf_writeN _ _ h.1, hp⟩

theorem canon_pokePeer {s : State} {pkg pa : ℕ} {bs : List Byte} (h : Canon s) : Canon (s.pokePeer pkg pa bs) := by
  obtain ⟨hm, -⟩ := canon_remember (key := homeKey 3 pkg pa) (old := s.peers.readN (pkg * 2 ^ 48 + pa) bs.length) h
  exact ⟨hm, Memory.wf_writeN _ _ h.2⟩

theorem canon_markEntry {s : State} {a : ℕ} {acc : Access} (h : Canon s) : Canon (s.markEntry a acc) := by
  unfold State.markEntry
  extract_lets
  exact Canon.ite h (canon_poke h)

theorem canon_reached {s : State} {at_ : ℕ} {acc : Access} {mark : Bool} (h : Canon s) :
    Canon (s.reached at_ acc mark) := Canon.ite (canon_markEntry h) h

theorem canon_fillTlb {s : State} {core : Option ℕ} {t : Trans} (h : Canon s) : Canon (s.fillTlb core t) := by
  unfold State.fillTlb
  split
  · exact h
  · exact canon_modDie (canon_modCore h)

theorem canon_xlateFresh {s : State} {ctx va : ℕ} {acc : Access} {priv : Bool} {core : Option ℕ} {mark : Bool} {die :
    Option ℕ} (h : Canon s) :
    OnSnd Canon (s.xlateFresh ctx va acc priv core mark die) := by
  unfold State.xlateFresh
  refine OnSnd.ite h ?_
  split
  · exact h
  · exact h
  · extract_lets q
    have hq : Canon q := canon_fillTlb h
    exact OnSnd.ite (canon_reached hq) hq

theorem canon_xlateCached {s : State} {va : ℕ} {t : Trans} {acc : Access} {priv mark : Bool} {die : Option ℕ} (h :
    Canon s) :
    OnSnd Canon (s.xlateCached va t acc priv mark die) := by
  unfold State.xlateCached
  extract_lets
  exact OnSnd.ite h (OnSnd.ite h (canon_reached h))

theorem canon_xlate {s : State} {ctx va : ℕ} {acc : Access} {priv : Bool} {core : Option ℕ} {mark : Bool} {die :
    Option ℕ} (h : Canon s) :
    OnSnd Canon (s.xlate ctx va acc priv core mark die) := by
  unfold State.xlate
  refine OnSnd.ite h ?_
  split
  · exact canon_xlateFresh h
  · refine OnSnd.ite (canon_xlateCached h) ?_
    split
    · next q heq1 =>
        have hq : Canon q := (congrArg (OnSnd Canon) heq1).mp (canon_flip h)
        refine OnSnd.ite ?_ (canon_xlateFresh hq)
        split
        · next q1 heq2 =>
            have hq1 : Canon q1 := (congrArg (OnSnd Canon) heq2).mp (canon_pick hq)
            exact canon_xlateCached hq1

/-- The overflow entry of a cell, its shadow and its pool words are written into a canonical memory. -/
theorem canon_putPcell {s : State} {r : PRegion} {pa size : ℕ} {c : PCell} (h : Canon s) :
    OnSome Canon (s.putPcell r pa size c) := by
  obtain ⟨hm, hp⟩ := h
  unfold State.putPcell
  refine map_holds (fun p => p.2.wf = true) Canon ?_ fun p hwf => canon_poke ⟨?_, hp⟩
  · refine OnSome.ite ?_ (OnSome.ite hm (map_holds_of _ fun e => ?_))
    · show Memory.wf (if c.spill = 0 then s.mem else _) = true
      exact ite_holds (fun m => Memory.wf m = true) hm (Memory.wf_write _ _ hm)
    · exact Memory.wf_putNum _ _ _ (Memory.wf_write _ _ hm)
  · refine ite_holds (fun m => Memory.wf m = true) (Memory.wf_putNum _ _ _ hwf) ?_
    exact each_holds (fun m => Memory.wf m = true) (Memory.wf_putNum _ _ _ hwf) fun i m h => Memory.wf_putNum _ _ _ h

theorem canon_openSibs {s : State} {size n : ℕ} (h : Canon s) : OnSnd Canon (s.openSibs size n) := h

theorem canon_blur {s : State} {r : PRegion} {pa size : ℕ} (h : Canon s) : Canon (s.blur r pa size) := by
  unfold State.blur
  extract_lets
  split
  · next q heq =>
      have hq : Canon q := (congrArg (OnSnd Canon) heq).mp (canon_pick h)
      split
      · next q1 heq1 =>
          have hq1 : Canon q1 := (congrArg (OnSnd Canon) heq1).mp (canon_pick hq)
          split
          · next q2 heq2 =>
              have hq2 : Canon q2 := (congrArg (OnSnd Canon) heq2).mp (canon_openSibs hq1)
              split
              · next q3 heq3 =>
                  have hq3 : Canon q3 := (congrArg (OnSome Canon) heq3).mp (canon_putPcell hq2)
                  exact hq3
              · exact getD_holds Canon (canon_putPcell hq2) hq2

theorem canon_unsettle {s : State} {c : Ctx} {l : Leaf} {n : ℕ} (h : Canon s) : Canon (s.unsettle c l n) := by
  unfold State.unsettle
  split
  · exact h
  · exact Canon.ite h (Canon.ite (each_holds Canon h (fun _ s1 h1 => canon_blur (canon_blur h1))) (each_holds Canon h
      (fun _ s1 h1 => canon_blur h1)))

theorem canon_addSibling {s : State} {r : PRegion} {pa size : ℕ} {c : PCell} {keep : List (ℕ × ℕ)} {v : ℕ} (h : Canon
    s) :
    OnOk (OnFst Canon) (s.addSibling r pa size c keep v) := by
  unfold State.addSibling
  refine OnOk.ite trivial ?_
  extract_lets
  split
  · next q heq =>
      have hq : Canon q := (congrArg (OnSome Canon) heq).mp (canon_putPcell h)
      exact hq
  · exact trivial

theorem canon_blindWrite {s : State} {r : PRegion} {cell size off : ℕ} {bs : List Byte} (h : Canon s) :
    OnOk Canon (s.blindWrite r cell size off bs) := by
  unfold State.blindWrite
  extract_lets
  split
  · next q _ heq =>
      have hq : Canon q := (congrArg (OnOk (OnFst Canon)) heq).mp (canon_addSibling h)
      exact hq
  · exact trivial

theorem canon_blindWrites {s : State} {c : Ctx} {l : Leaf} {bs : List Byte} (h : Canon s) :
    OnSnd Canon (s.blindWrites c l bs) := by
  unfold State.blindWrites
  split
  · exact h
  · refine foldl_holds (OnSnd Canon) (canon_unsettle h) (fun _ x2 h1 => ?_)
    split
    · next q heq1 =>
        have hq : Canon q := (congrArg (OnOk Canon) heq1).mp (canon_blindWrite h1)
        exact hq
    · exact h1

theorem canon_setCode {s : State} {d pa code : ℕ} (h : Canon s) : Canon (s.setCode d pa code) := by
  unfold State.setCode
  extract_lets
  exact canon_poke h

theorem canon_expand {s : State} {d pa : ℕ} (h : Canon s) : Canon (s.expand d pa) := by
  unfold State.expand
  extract_lets _ _ _ q q1
  have hq : Canon q := canon_poke h
  have hq1 : Canon q1 := hq
  exact Canon.ite h (Canon.ite hq1 (canon_setCode hq1))

theorem canon_keepHot {s : State} {pa n : ℕ} (h : Canon s) : Canon (s.keepHot pa n) := Canon.ite h h

theorem canon_makeHot {s : State} {l : Leaf} (h : Canon s) : Canon (s.makeHot l) := Canon.ite h h

theorem canon_squeeze {s : State} {ctx bdi pa code : ℕ} (h : Canon s) : Canon (s.squeeze ctx bdi pa code) := by
  unfold State.squeeze
  extract_lets _ _ _ q
  have hq : Canon q := canon_setCode h
  exact Canon.ite hq h

theorem canon_blurCell {s : State} {r : PRegion} {o : ℕ} (h : Canon s) : Canon (s.blurCell r o) := by
  unfold State.blurCell
  split
  · split
    · next q heq1 =>
        have hq : Canon q := (congrArg (OnSnd Canon) heq1).mp (OnSnd.ite (canon_flip h) h)
        exact Canon.ite (canon_blur hq) (Canon.ite (canon_blur hq) hq)

theorem canon_blurOwned {s : State} {r : PRegion} {pa n : ℕ} (h : Canon s) : Canon (s.blurOwned r pa n) := by
  unfold State.blurOwned
  extract_lets q
  have hq : Canon q := each_holds Canon h (fun _ _ h1 => canon_blurCell h1)
  exact each_holds Canon hq (fun _ _ h1 => canon_blurCell h1)

theorem canon_plainStore {s : State} {pa : ℕ} {bs : List Byte} (h : Canon s) : Canon (s.plainStore pa bs) := by
  unfold State.plainStore
  extract_lets _ _ q
  have hq : Canon q := canon_poke h
  exact Canon.ite (canon_poke h) (each_holds Canon hq (fun _ _ h1 => canon_blurOwned h1))

theorem canon_homeStore {s : State} {c : Ctx} {l : Leaf} {bs : List Byte} (h : Canon s) :
    Canon (s.homeStore c l bs) := by
  unfold State.homeStore
  refine Canon.ite (canon_pokePeer h) ?_
  extract_lets
  exact Canon.ite h (canon_keepHot (canon_plainStore (each_holds Canon h (fun _ _ h1 => canon_expand h1))))

theorem canon_devLoad {s : State} {ctx va n : ℕ} {priv : Bool} {core die : Option ℕ} (h : Canon s) :
    OnSnd Canon (s.devLoad ctx va n priv core die) := by
  unfold State.devLoad
  refine foldl_holds (OnSnd Canon) h (fun _ x h1 => ?_)
  split
  · exact h1
  · split
    · next q heq1 =>
        have hq : Canon q := (congrArg (OnSnd Canon) heq1).mp (canon_xlate h1)
        exact hq
    · next q heq1 =>
        have hq : Canon q := (congrArg (OnSnd Canon) heq1).mp (canon_xlate h1)
        exact hq
    · next q heq1 =>
        have hq : Canon q := (congrArg (OnSnd Canon) heq1).mp (canon_xlate h1)
        exact hq
    · next q heq1 =>
        have hq : Canon q := (congrArg (OnSnd Canon) heq1).mp (canon_xlate h1)
        split
        · exact hq
        · split
          exact canon_keepHot hq

theorem canon_devPost {s : State} {ctx va : ℕ} {core : Option ℕ} {l : Leaf} {bs : List Byte} (h : Canon s) :
    Canon (s.devPost ctx va core l bs) := by
  unfold State.devPost
  refine each_holds Canon h (fun _ s1 h1 => ?_)
  split
  · next q heq =>
      have hq : Canon q := (congrArg (OnSnd Canon) heq).mp (canon_fresh h1)
      exact canon_modBase hq

theorem canon_devStorePiece {s : State} {ctx va : ℕ} {bs : List Byte} {priv : Bool} {core die : Option ℕ} (h : Canon
    s) :
    OnSnd Canon (s.devStorePiece ctx va bs priv core die) := by
  unfold State.devStorePiece
  split
  · next q heq =>
      have hq : Canon q := (congrArg (OnSnd Canon) heq).mp (canon_xlate h)
      exact hq
  · next q heq =>
      have hq : Canon q := (congrArg (OnSnd Canon) heq).mp (canon_xlate h)
      exact hq
  · next q heq =>
      have hq : Canon q := (congrArg (OnSnd Canon) heq).mp (canon_xlate h)
      exact hq
  · next q heq =>
      have hq : Canon q := (congrArg (OnSnd Canon) heq).mp (canon_xlate h)
      split
      · exact hq
      · refine OnSnd.ite (canon_devPost hq) (OnSnd.ite ?_ (canon_homeStore hq))
        split
        · next q1 heq2 =>
            have hq1 : Canon q1 := (congrArg (OnSnd Canon) heq2).mp (canon_blindWrites hq)
            exact hq1
        · next q1 heq2 =>
            have hq1 : Canon q1 := (congrArg (OnSnd Canon) heq2).mp (canon_blindWrites hq)
            exact hq1

theorem canon_devStore {s : State} {ctx va : ℕ} {bs : List Byte} {priv : Bool} {core die : Option ℕ} (h : Canon s) :
    OnSnd Canon (s.devStore ctx va bs priv core die) := by
  unfold State.devStore
  refine foldl_holds (OnSnd Canon) h (fun _ x h1 => ?_)
  split
  · exact h1
  · exact canon_devStorePiece h1

theorem canon_devNum {s : State} {ctx va n : ℕ} {priv : Bool} {die : Option ℕ} (h : Canon s) :
    OnSnd Canon (s.devNum ctx va n priv die) := by
  unfold State.devNum
  split
  · next q heq =>
      have hq : Canon q := (congrArg (OnSnd Canon) heq).mp (canon_devLoad h)
      exact hq
  · next q heq =>
      have hq : Canon q := (congrArg (OnSnd Canon) heq).mp (canon_devLoad h)
      exact hq

/-! ### The operations of `Machine/Ops` -/

theorem canon_recordLost {s : State} {ctx base : ℕ} (h : Canon s) : Canon (s.recordLost ctx base) := by
  unfold State.recordLost
  split
  · next q heq =>
      have hq : Canon q := (congrArg (OnSnd Canon) heq).mp (canon_devNum h)
      exact canon_devStore hq
  · next q heq =>
      have hq : Canon q := (congrArg (OnSnd Canon) heq).mp (canon_devNum h)
      exact hq

theorem canon_tryRecord {s : State} {ctx : ℕ} {bs : List Byte} (h : Canon s) : OnSnd Canon (s.tryRecord ctx bs) := by
  unfold State.tryRecord
  extract_lets
  refine OnSnd.ite h ?_
  split
  · next q heq =>
      have hq : Canon q := (congrArg (OnSnd Canon) heq).mp (canon_devNum h)
      exact canon_interrupt (canon_recordLost hq)
  · next q heq =>
      have hq : Canon q := (congrArg (OnSnd Canon) heq).mp (canon_devNum h)
      split
      · next q1 heq1 =>
          have hq1 : Canon q1 := (congrArg (OnSnd Canon) heq1).mp (canon_devNum hq)
          exact canon_interrupt (canon_recordLost hq1)
      · next q1 heq1 =>
          have hq1 : Canon q1 := (congrArg (OnSnd Canon) heq1).mp (canon_devNum hq)
          extract_lets
          refine OnSnd.ite (canon_recordLost hq1) ?_
          split
          · next q2 heq2 =>
              have hq2 : Canon q2 := by
                refine (congrArg (OnSnd Canon) heq2).mp ?_
                refine foldl_holds (OnSnd Canon) hq1 (fun _ x5 h1 => OnSnd.ite h1 ?_)
                split
                · next q3 heq3 =>
                    have hq3 : Canon q3 := (congrArg (OnSnd Canon) heq3).mp (canon_devStore h1)
                    exact hq3
                · next q3 heq3 =>
                    have hq3 : Canon q3 := (congrArg (OnSnd Canon) heq3).mp (canon_devStore h1)
                    exact hq3
              exact canon_interrupt hq2
          · next q2 heq2 =>
              have hq2 : Canon q2 := by
                refine (congrArg (OnSnd Canon) heq2).mp ?_
                refine foldl_holds (OnSnd Canon) hq1 (fun _ x5 h1 => OnSnd.ite h1 ?_)
                split
                · next q3 heq3 =>
                    have hq3 : Canon q3 := (congrArg (OnSnd Canon) heq3).mp (canon_devStore h1)
                    exact hq3
                · next q3 heq3 =>
                    have hq3 : Canon q3 := (congrArg (OnSnd Canon) heq3).mp (canon_devStore h1)
                    exact hq3
              exact canon_interrupt (canon_recordLost hq2)

theorem canon_record {s : State} {ctx : ℕ} {bs : List Byte} (h : Canon s) :
    Canon (s.record ctx bs) := canon_tryRecord h

theorem canon_raiseHalt {s : State} {ctx : ℕ} {i : FaultInfo} {sid : Option ℕ} (h : Canon s) :
    Canon (s.raiseHalt ctx i sid) := canon_modCtx h

theorem canon_faultRecord {s : State} {ctx : ℕ} {i : FaultInfo} (h : Canon s) :
    Canon (s.faultRecord ctx i) := canon_record h

theorem canon_contextFault {s : State} {ctx : ℕ} {i : FaultInfo} {sid : Option ℕ} (h : Canon s) :
    Canon (s.contextFault ctx i sid) := Canon.ite (canon_raiseHalt (canon_faultRecord h)) h

theorem canon_fault {s : State} {sid : ℕ} {who : List ℕ} {pc : BitVec 64} {k : Option ℕ} {code sub : ℕ} {mask : List
    ℕ} {addr : ℕ} (h : Canon s) :
    Canon (s.fault sid who pc k code sub mask addr) := by
  unfold State.fault
  refine Canon.ite (canon_modSheaf h) ?_
  extract_lets q _
  have hq : Canon q := canon_modSheaf h
  exact Canon.ite (canon_faultRecord hq) (canon_contextFault hq)

theorem canon_replayFault {s : State} {ctx va acc count core slot gen : ℕ} (h : Canon s) :
    Canon (s.replayFault ctx va acc count core slot gen) := Canon.ite h (canon_modCtx (canon_record h))

theorem canon_endClause {s : State} {sid : ℕ} (h : Canon s) : Canon (s.endClause sid) := by
  unfold State.endClause
  split
  · exact h
  · extract_lets _ _ _ q
    have hq : Canon q := canon_modSheaf h
    exact Canon.ite (canon_modCore hq) hq

theorem canon_releasePassed {s : State} {sid : ℕ} (h : Canon s) : Canon (s.releasePassed sid) := h

theorem canon_advance {s : State} {sid : ℕ} {i : Instr} (h : Canon s) : Canon (s.advance sid i) := by
  unfold State.advance
  extract_lets q q1
  have hq : Canon q := canon_releasePassed h
  have hq1 : Canon q1 := canon_modSheaf hq
  split
  · exact hq1
  · exact Canon.ite (canon_endClause hq1) hq1

theorem canon_block {s : State} {sid : ℕ} (h : Canon s) : Canon (s.block sid) := canon_modCore (canon_modSheaf h)

theorem canon_undefReg {s : State} {sid : ℕ} {who : List ℕ} {r : ℕ} (h : Canon s) : Canon (s.undefReg sid who r) := by
  unfold State.undefReg
  refine each_holds Canon h (fun _ s1 h1 => ?_)
  split
  · next q heq =>
      have hq : Canon q := (congrArg (OnSnd Canon) heq).mp (canon_undef h1)
      exact canon_modSheaf hq

theorem canon_spoil {s : State} {sid : ℕ} {who regs : List ℕ} (h : Canon s) :
    Canon (s.spoil sid who regs) := each_holds Canon h (fun _ _ h1 => canon_undefReg h1)

theorem canon_runTouching {s : State} {sid : ℕ} {who regs : List ℕ} {body : State → Result} (h : Canon s) (hbody : ∀
    (a : State), Canon a → OnResult Canon (body a)) :
    OnResult Canon (s.runTouching sid who regs body) := by
  unfold State.runTouching
  split
  · next q heq =>
      have hq : Canon q := (congrArg (OnResult Canon) heq).mp (hbody _ h)
      refine OnResult.ite ?_ hq
      split
      · next q1 heq1 =>
          have hq1 : Canon q1 := (congrArg (OnResult Canon) heq1).mp (hbody _ (canon_spoil h))
          exact each_holds Canon hq1 (fun _ _ h1 => canon_undefReg h1)
      · exact hbody _ (canon_spoil h)
  · exact hbody _ h

theorem canon_touchGuards {s : State} {sid : ℕ} {i : Instr} {group : List ℕ} (h : Canon s) :
    Canon (s.touchGuards sid i group) := Canon.ite (canon_spoil h) h

theorem canon_issue {s : State} {i : Instr} {body : Issue → State → Result} (h : Canon s) (hbody : ∀ (a : Issue) (a_1
    : State), Canon a_1 → OnResult Canon (body a a_1)) :
    Canon (s.issue i body) := by
  unfold State.issue
  split
  · exact h
  · extract_lets
    split
    · exact h
    · extract_lets _ q _
      have hq : Canon q := canon_touchGuards h
      refine Canon.ite (canon_block h) ?_
      split
      · exact canon_fault h
      · split
        · next q1 heq3 =>
            have hq1 : Canon q1 := (congrArg (OnResult Canon) heq3).mp (canon_runTouching hq (fun s1 h1 => hbody _ _
                h1))
            exact canon_advance hq1
        · next q1 heq3 =>
            have hq1 : Canon q1 := (congrArg (OnResult Canon) heq3).mp (canon_runTouching hq (fun s1 h1 => hbody _ _
                h1))
            exact canon_block hq1
        · next q1 heq3 =>
            have hq1 : Canon q1 := (congrArg (OnResult Canon) heq3).mp (canon_runTouching hq (fun s1 h1 => hbody _ _
                h1))
            extract_lets q2
            have hq2 : Canon q2 := canon_fault hq1
            exact Canon.ite hq2 (canon_advance hq2)

theorem canon_issued {i : Instr} {body : Issue → State → Result} {s : State} (hbody : ∀ (a : Issue) (a_1 : State),
    Canon a_1 → OnResult Canon (body a a_1)) (h : Canon s) :
    OnNext Canon (issued i body s) := canon_issue h hbody

theorem canon_writeLanes {s : State} {sid : ℕ} {d : BitVec 8} {n : ℕ} {l : List LaneOut} (h : Canon s) :
    Canon (s.writeLanes sid d n l) := canon_modSheaf h

theorem canon_laneOp {d : BitVec 8} {n : ℕ} {g : Sheaf → ℕ → LaneOut} {is : Issue} {s : State} (h : Canon s) :
    OnResult Canon (laneOp d n g is s) := canon_writeLanes h

theorem canon_wordOp {f : Fields} {srcs : List (BitVec 8)} {g : List Word → Word × Word} {a : Issue} {s : State} (h :
    Canon s) :
    OnResult Canon (wordOp f srcs g a s) := canon_laneOp h

theorem canon_launch {s : State} {is : Issue} {i : Instr} {lanes : List Lane} {upd : LongOp → LongOp} {tracked :
    Bool} (h : Canon s) :
    Canon (s.launch is i lanes upd tracked) := by
  unfold State.launch
  extract_lets
  split
  · exact h
  · split
    · next q heq1 =>
        have hq : Canon q := (congrArg (OnSnd Canon) heq1).mp (canon_fresh h)
        extract_lets _ _ q1
        have hq1 : Canon q1 := canon_modSheaf hq
        exact hq1

theorem canon_landSrc {s : State} {sid t : ℕ} {p : BitVec 8 × Word} (h : Canon s) :
    OnSnd Canon (s.landSrc sid t p) := by
  unfold State.landSrc
  refine OnSnd.ite ?_ h
  extract_lets
  refine OnSnd.ite h ?_
  split
  · next q heq =>
      have hq : Canon q := (congrArg (OnSnd Canon) heq).mp (canon_flip h)
      exact hq

theorem canon_landSrcs {s : State} {sid t : ℕ} {l : List (BitVec 8 × Word)} (h : Canon s) :
    OnSnd Canon (s.landSrcs sid t l) := by
  unfold State.landSrcs
  refine foldl_holds (OnSnd Canon) h (fun _ x h1 => ?_)
  split
  · next q heq =>
      have hq : Canon q := (congrArg (OnSnd Canon) heq).mp (canon_landSrc h1)
      exact hq

theorem canon_landDst {s : State} {sid t : ℕ} {p : BitVec 8 × Word} {x : Word} {taint : Bool} (h : Canon s) :
    Canon (s.landDst sid t p x taint) := by
  unfold State.landDst
  refine Canon.ite (canon_spoil h) (Canon.ite (canon_modSheaf h) ?_)
  split
  · next q heq =>
      have hq : Canon q := (congrArg (OnSnd Canon) heq).mp (canon_flip h)
      exact Canon.ite (canon_modSheaf hq) hq

theorem canon_landValues {s : State} {sid : ℕ} {ln : Lane} {l : List (BitVec 8 × Word)} (h : Canon s) :
    Canon (s.landValues sid ln l) := by
  unfold State.landValues
  refine foldl_holds Canon h (fun _ x h1 => ?_)
  split
  · exact canon_landDst h1
  · exact h1

theorem canon_landDsts {s : State} {o sid : ℕ} {ln : Lane} {d : BitVec 8} {xs : List Word} (h : Canon s) :
    Canon (s.landDsts o sid ln d xs) := by
  unfold State.landDsts
  extract_lets
  exact Canon.ite (canon_modOp h) (canon_landValues h)

theorem canon_lateFaultAt {s : State} {sid : ℕ} {gen : BitVec 24} {ctx : ℕ} {priv : Bool} {pc : BitVec 64} {code sub
    : ℕ} {mask : List ℕ} {addr : ℕ} (h : Canon s) :
    Canon (s.lateFaultAt sid gen ctx priv pc code sub mask addr) := by
  unfold State.lateFaultAt
  extract_lets _ _ _ q
  have hq : Canon q := Canon.ite h (Canon.ite (canon_modSheaf h) (canon_modSheaf h))
  exact Canon.ite hq (canon_contextFault hq)

theorem canon_lateFault {s : State} {op : LongOp} {code sub : ℕ} {mask : List ℕ} {addr : ℕ} (h : Canon s) :
    Canon (s.lateFault op code sub mask addr) := canon_lateFaultAt h

theorem canon_completeOp {s : State} {o : ℕ} (h : Canon s) : Canon (s.completeOp o) := by
  unfold State.completeOp
  split
  · exact h
  · extract_lets q
    have hq : Canon q := foldl_holds Canon h (fun _ x2 h1 => Canon.ite (canon_landValues h1) h1)
    exact Canon.ite (canon_modSheaf hq) hq

theorem canon_tryComplete {s : State} {o : ℕ} (h : Canon s) : Canon (s.tryComplete o) := by
  unfold State.tryComplete
  split
  · exact h
  · exact Canon.ite (canon_completeOp h) h

theorem canon_landEach {s : State} {o : ℕ} {land : LongOp → Lane → State → State} (h : Canon s) (hland : ∀ (a :
    LongOp) (a_1 : Lane) (a_2 : State), Canon a_2 → Canon (land a a_1 a_2)) :
    Canon (s.landEach o land) := by
  unfold State.landEach
  split
  · exact h
  · exact canon_tryComplete (each_holds Canon h (fun _ _ h1 => canon_modOp (hland _ _ _ h1)))

/-! ### The operations of `Machine/Control` -/

theorem canon_modRun {s : State} {sid : ℕ} {f : ClauseRun → ClauseRun} (h : Canon s) :
    Canon (s.modRun sid f) := canon_modSheaf h

theorem canon_branch {target : ClauseRun → Sheaf → ℕ → BitVec 64} {link : Option (BitVec 8)} {is : Issue} {s : State}
    (h : Canon s) :
    OnResult Canon (branch target link is s) := by
  unfold branch
  extract_lets _ _ _ q
  have hq : Canon q := by
    unfold q
    split
    · exact canon_writeLanes h
    · exact h
  exact OnResult.ite h (canon_modRun hq)

theorem canon_execExit {f : Fields} {s : State} (h : Canon s) : OnNext Canon (execExit f s) := by
  unfold execExit
  exact canon_issued (fun _ _ h1 => canon_modSheaf (each_holds Canon h1 (fun _ _ h2 => canon_releaseToken h2))) h

/-! ### The operations of `Machine/Integer` -/

theorem canon_longOp {i : Instr} {f : Fields} {srcs : List (BitVec 8)} {n : ℕ} {is : Issue} {s : State} (h : Canon s)
    :
    OnResult Canon (longOp i f srcs n is s) := canon_launch h

/-! ### The operations of `Machine/Vector` -/

theorem canon_ftzOp {f : Fields} {srcs : List (BitVec 8)} {g : Bool → List Word → Word × Word} {is : Issue} {s :
    State} (h : Canon s) :
    OnResult Canon (ftzOp f srcs g is s) := canon_wordOp h

/-! ### The operations of `Machine/Scratch` -/

theorem canon_scratchCheck {s : State} {is : Issue} {l : List (ℕ × Word)} {size : ℕ} (h : Canon s) :
    OnSome (OnResult Canon) (s.scratchCheck is l size) := by
  unfold State.scratchCheck
  extract_lets _ bad
  clear_value bad
  split
  · exact trivial
  · exact h

theorem canon_modScratch {s : State} {w : ℕ} {f : Memory → Memory} (h : Canon s) :
    Canon (s.modScratch w f) := canon_modWg h

theorem canon_applyScratchLane {s : State} {o : ℕ} {op : LongOp} {ln : Lane} (h : Canon s) :
    Canon (s.applyScratchLane o op ln) := by
  unfold State.applyScratchLane
  extract_lets
  split
  · next q heq =>
      have hq : Canon q := (congrArg (OnSnd Canon) heq).mp (canon_landSrcs h)
      refine canon_modOp ?_
      split
      · extract_lets
        exact canon_landDsts hq
      · exact canon_modScratch hq
      · extract_lets
        exact canon_landDsts (canon_modScratch hq)
      · exact hq

theorem canon_applyScratch {s : State} {o : ℕ} {remote : Bool} (h : Canon s) : Canon (s.applyScratch o remote) := by
  unfold State.applyScratch
  split
  · exact h
  · extract_lets _ q
    have hq : Canon q := each_holds Canon h (fun _ _ h1 => canon_applyScratchLane h1)
    split
    · exact hq
    · exact Canon.ite (canon_completeOp hq) hq

theorem canon_popScratch {s : State} {c : ℕ} {remote : Bool} (h : Canon s) : Canon (s.popScratch c remote) := by
  unfold State.popScratch
  extract_lets
  split
  · exact h
  · exact Canon.ite h (canon_applyScratch (canon_modCore h))

theorem canon_flushScratch {s : State} {c : ℕ} {remote : Bool} (h : Canon s) :
    Canon (s.flushScratch c remote) := each_holds Canon h (fun _ _ h1 => canon_popScratch h1)

theorem canon_inScratch {is : Issue} {remote : Bool} {s : State} {k : State → Result} (h : Canon s) (hk : ∀ (a :
    State), Canon a → OnResult Canon (k a)) :
    OnResult Canon (is.inScratch remote s k) := by
  unfold Issue.inScratch
  extract_lets _ q
  have hq : Canon q := canon_flushScratch h
  exact OnResult.ite (hk _ hq) hq

theorem canon_scratchOp {i : Instr} {f : Fields} {size : ℕ} {srcs : List (BitVec 8)} {n : ℕ} {is : Issue} {s : State}
    (h : Canon s) :
    OnResult Canon (scratchOp i f size srcs n is s) := by
  unfold scratchOp
  extract_lets _ _ _ _ _ q _ _
  have hq : Canon q := canon_launch h
  split
  · next x1 heq =>
      have hx1 : OnResult Canon x1 := (congrArg (OnSome (OnResult Canon)) heq).mp (canon_scratchCheck h)
      exact hx1
  · exact OnResult.ite hq (canon_modCore hq)

/-! ### The operations of `Machine/Tiles` -/

theorem canon_modTileN {s : State} {w n : ℕ} {f : Tile → Tile} (h : Canon s) :
    Canon (s.modTileN w n f) := canon_modWg h

theorem canon_useTile {s : State} {w n : ℕ} {f : ℕ → ℕ} (h : Canon s) : Canon (s.useTile w n f) := canon_modTileN h

theorem canon_waits {is : Issue} {watch : Option (Option ℕ)} {s : State} (h : Canon s) :
    OnResult Canon (is.waits watch s) := canon_modSheaf h

theorem canon_untilReady {is : Issue} {s : State} {w n : ℕ} (h : Canon s) :
    OnSome (OnResult Canon) (is.untilReady s w n) := by
  unfold Issue.untilReady
  split
  · exact trivial
  · exact canon_waits h

theorem canon_tileOp {n : ℕ} {g : ℕ → Tile → Sheaf → ℕ → State → Result} {is : Issue} {s : State} (hg : ∀ (a : ℕ)
    (a_1 : Tile) (a_2 : Sheaf) (a_3 : ℕ) (a_4 : State), Canon a_4 → OnResult Canon (g a a_1 a_2 a_3 a_4)) (h : Canon
    s) :
    OnResult Canon (tileOp n g is s) := OnResult.ite h (OnResult.ite h (canon_inScratch h (fun _ h1 => hg _ _ _ _ _
        h1)))

theorem canon_execTlSet {f : Fields} {s : State} (h : Canon s) : OnNext Canon (execTlSet f s) := by
  unfold execTlSet
  refine canon_issued (fun _ s1 h1 => canon_tileOp (fun _ _ _ _ s2 h2 => ?_) h1) h
  extract_lets
  split
  · exact h2
  · exact OnResult.ite h2 (OnResult.ite (canon_waits h2) (canon_modTileN h2))

theorem canon_execTlFill {f : Fields} {s : State} (h : Canon s) : OnNext Canon (execTlFill f s) := by
  unfold execTlFill
  refine canon_issued (fun _ s1 h1 => canon_tileOp (fun _ _ _ _ s2 h2 => ?_) h1) h
  extract_lets
  refine OnResult.ite h2 ?_
  split
  · exact h2
  · exact canon_waits h2
  · exact canon_waits h2
  · exact canon_modTileN h2

theorem canon_execTlDrain {f : Fields} {s : State} (h : Canon s) : OnNext Canon (execTlDrain f s) := by
  unfold execTlDrain
  refine canon_issued (fun _ s1 h1 => canon_tileOp (fun _ _ _ _ s2 h2 => ?_) h1) h
  extract_lets
  exact OnResult.ite h2 (OnResult.ite (canon_modTileN h2) (canon_waits h2))

theorem canon_execTlStat {f : Fields} {s : State} (h : Canon s) : OnNext Canon (execTlStat f s) := by
  unfold execTlStat
  refine canon_issued (fun _ s1 h1 => ?_) h
  extract_lets _ _ q _ q1
  have hq : Canon q := canon_flushScratch h1
  have hq1 : Canon q1 := canon_writeLanes hq
  exact OnResult.ite h1 (Canon.ite (canon_modTileN hq1) hq1)

theorem canon_execTlDom {f : Fields} {s : State} (h : Canon s) : OnNext Canon (execTlDom f s) := by
  unfold execTlDom
  refine canon_issued (fun _ s1 h1 => canon_tileOp (fun _ _ _ _ s2 h2 => ?_) h1) h
  extract_lets
  exact OnResult.ite h2 (OnResult.ite (canon_modTileN h2) (canon_waits h2))

theorem canon_execTileWaitFault {sid : ℕ} {s : State} (h : Canon s) : OnNext Canon (execTileWaitFault sid s) := by
  unfold execTileWaitFault
  split
  · exact Canon.ite (canon_fault h) h
  · exact h

/-! ### The operations of `Machine/Windows` -/

theorem canon_windowStore {s : State} {pa : ℕ} {bs : List Byte} (h : Canon s) : Canon (s.windowStore pa bs) := h

/-! ### The operations of `Machine/Global` -/

theorem canon_undefs {s : State} {n : ℕ} (h : Canon s) : OnSnd Canon (s.undefs n) := by
  unfold State.undefs
  refine foldl_holds (OnSnd Canon) h (fun _ x h1 => ?_)
  split
  · next q heq =>
      have hq : Canon q := (congrArg (OnSnd Canon) heq).mp (canon_undef h1)
      exact hq

theorem canon_loadBytes {s : State} {c ctx : ℕ} {l : Leaf} {n hint : ℕ} {fresh : Bool} (h : Canon s) :
    OnSnd Canon (s.loadBytes c ctx l n hint fresh) := by
  unfold State.loadBytes
  extract_lets old _ _
  split
  · next q heq =>
      have hq : Canon q := (congrArg (OnSnd Canon) heq).mp (OnSnd.ite (canon_flip h) h)
      clear_value old
      split
      · exact hq
      · extract_lets _ q1 _
        have hq1 : Canon q1 := canon_keepHot (canon_modCore hq)
        exact OnSnd.ite (OnSnd.ite hq1 (canon_modCore hq1)) hq1

theorem canon_awaitWord {s : State} {sid : ℕ} (h : Canon s) : Canon (s.awaitWord sid) := canon_modSheaf h

theorem canon_awaitOp {s : State} {o : ℕ} {op : LongOp} {l : Lane} (h : Canon s) :
    Canon (s.awaitOp o op l) := Canon.ite (canon_modOp h) h

theorem canon_acquired {s : State} {c ctx : ℕ} {sc : Option ℕ} (h : Canon s) : Canon (s.acquired c ctx sc) := by
  unfold State.acquired
  split
  · exact Canon.ite (canon_modCore h) h
  · exact h

theorem canon_endOp {s : State} {o : ℕ} (h : Canon s) : Canon (s.endOp o) := by
  unfold State.endOp
  split
  · exact h
  · refine Canon.ite (canon_completeOp h) ?_
    split
    · extract_lets
      exact canon_fault (canon_completeOp h)
    · exact canon_advance (canon_completeOp h)
    · exact canon_completeOp h

theorem canon_tryEnd {s : State} {o : ℕ} (h : Canon s) : Canon (s.tryEnd o) := by
  unfold State.tryEnd
  split
  · exact h
  · exact Canon.ite (canon_endOp h) h

theorem canon_finishLane {s : State} {o t : ℕ} (h : Canon s) :
    Canon (s.finishLane o t) := canon_tryEnd (canon_modOp h)

theorem canon_laneFault {s : State} {o t code sub addr : ℕ} (h : Canon s) :
    Canon (s.laneFault o t code sub addr) := canon_modOp h

theorem canon_performLoad {s : State} {o : ℕ} {op : LongOp} {ln : Lane} {f : Fields} (h : Canon s) :
    Canon (s.performLoad o op ln f) := by
  unfold State.performLoad
  refine Canon.ite h ?_
  extract_lets
  split
  · next q heq =>
      have hq : Canon q := (congrArg (OnSnd Canon) heq).mp (canon_loadBytes h)
      refine canon_finishLane (canon_acquired (Canon.ite ?_ (canon_landDsts hq)))
      split
      · next q1 heq1 =>
          have hq1 : Canon q1 := (congrArg (OnSnd Canon) heq1).mp (canon_undefs hq)
          exact canon_laneFault (canon_landDsts hq1)

theorem canon_homeStoreMasked {s : State} {ctx : ℕ} {l : Leaf} {data : List (Byte × Byte)} (h : Canon s) :
    Canon (s.homeStoreMasked ctx l data) := canon_homeStore h

theorem canon_post {s : State} {n : ℕ} {op : LongOp} {ln : Lane} {data : List (Byte × Byte)} (h : Canon s) :
    Canon (s.post n op ln data) := by
  unfold State.post
  extract_lets
  exact canon_modBase h

theorem canon_performPosted {s : State} {p : Posted} (h : Canon s) : Canon (s.performPosted p) := canon_pokePeer h

theorem canon_landStore {s : State} {o : ℕ} {op : LongOp} {ln : Lane} (h : Canon s) :
    OnSnd Canon (s.landStore o op ln) := by
  unfold State.landStore
  split
  · next q heq =>
      have hq : Canon q := (congrArg (OnSnd Canon) heq).mp (canon_landSrcs h)
      exact canon_modOp hq

theorem canon_performPlural {s : State} {o : ℕ} {op : LongOp} {ln : Lane} {data : List (Byte × Byte)} (h : Canon s) :
    Canon (s.performPlural o op ln data) := by
  unfold State.performPlural
  extract_lets _ _ _ q _ q1 q2
  have hq : Canon q := canon_unsettle h
  have hq1 : Canon q1 := by
    unfold q1
    split
    · exact canon_laneFault hq
    · extract_lets
      split
      · next q3 heq1 =>
          have hq3 : Canon q3 := (congrArg (OnOk Canon) heq1).mp (canon_blindWrite hq)
          exact hq3
      · exact canon_laneFault hq
  have hq2 : Canon q2 := canon_modCore hq1
  exact Canon.ite (canon_finishLane hq2) (canon_modOp hq2)

theorem canon_applyStore {s : State} {o : ℕ} {op : LongOp} {ls : List Lane} {ln : Lane} (h : Canon s) :
    Canon (s.applyStore o op ls ln) := by
  unfold State.applyStore
  split
  · next q heq =>
      have hq : Canon q := by
        refine (congrArg (OnSnd Canon) heq).mp ?_
        refine foldl_holds (OnSnd Canon) h (fun _ x2 h1 => ?_)
        split
        · next q1 heq1 =>
            have hq1 : Canon q1 := (congrArg (OnSnd Canon) heq1).mp (canon_landSrcs h1)
            exact hq1
      extract_lets
      refine Canon.ite (each_holds Canon hq (fun _ s1 h1 => canon_finishLane h1)) ?_
      split
      · next q1 heq1 =>
          have hq1 : Canon q1 := (congrArg (OnSnd Canon) heq1).mp (canon_fresh hq)
          extract_lets q2
          have hq2 : Canon q2 := canon_modOp hq1
          exact Canon.ite (canon_post hq2) (Canon.ite hq2 (canon_modCore hq2))

theorem canon_performStore {s : State} {o : ℕ} {op : LongOp} {ln : Lane} (h : Canon s) :
    Canon (s.performStore o op ln) := by
  unfold State.performStore
  split
  · refine Canon.ite (canon_awaitOp h) (Canon.ite ?_ (canon_applyStore h))
    split
    · next q heq1 =>
        have hq : Canon q := (congrArg (OnSnd Canon) heq1).mp (OnSnd.ite (canon_landStore h) h)
        exact Canon.ite (canon_finishLane hq) (Canon.ite hq (canon_performPlural hq))
  · extract_lets
    refine Canon.ite h (Canon.ite ?_ (Canon.ite (canon_finishLane (canon_windowStore h)) (canon_finishLane
        (canon_homeStoreMasked h))))
    split
    · exact canon_finishLane h
    · exact canon_finishLane (canon_modBase (canon_performPosted h))

theorem canon_atomicHome {s : State} {op : LongOp} {l : Leaf} {n : ℕ} {ls : List (List Word)} (h : Canon s) :
    OnSnd Canon (s.atomicHome op l n ls) := by
  unfold State.atomicHome
  extract_lets _ _ q
  have hq : Canon q := canon_makeHot (canon_homeStore h)
  exact Canon.ite hq (canon_modCore hq)

theorem canon_atomicPlural {s : State} {op : LongOp} {l : Leaf} {n : ℕ} {ls : List (List Word)} (h : Canon s) :
    OnOk (OnSnd Canon) (s.atomicPlural op l n ls) := by
  unfold State.atomicPlural
  extract_lets q _
  have hq : Canon q := canon_unsettle h
  split
  · exact trivial
  · split
    · exact trivial
    · extract_lets _ _ _ _ q1
      have hq1 : Canon q1 := by
        refine each_holds Canon hq (fun _ s1 h1 => ?_)
        extract_lets
        exact getD_holds Canon (canon_putPcell h1) h1
      exact canon_modCore hq1

theorem canon_landMany {s : State} {sid : ℕ} {ls : List Lane} (h : Canon s) : OnSnd Canon (s.landMany sid ls) := by
  unfold State.landMany
  refine foldl_holds (OnSnd Canon) h (fun _ x h1 => ?_)
  split
  · next q heq =>
      have hq : Canon q := (congrArg (OnSnd Canon) heq).mp (canon_landSrcs h1)
      exact hq

theorem canon_performAtomic {s : State} {o : ℕ} {op : LongOp} {ln : Lane} (h : Canon s) :
    Canon (s.performAtomic o op ln) := by
  unfold State.performAtomic
  extract_lets _ _ _ _ _ q _
  have hq : Canon q := by
    refine each_holds Canon h (fun _ s1 h1 => ?_)
    split
    · next q1 heq =>
        have hq1 : Canon q1 := (congrArg (OnSnd Canon) heq).mp (canon_undefs h1)
        exact canon_laneFault (canon_landDsts hq1)
  refine Canon.ite (canon_awaitOp h) (Canon.ite h (Canon.ite h (Canon.ite (each_holds Canon (canon_acquired hq) (fun
      _ s1 h1 => canon_finishLane h1)) ?_)))
  split
  · next q1 heq =>
      have hq1 : Canon q1 := (congrArg (OnSnd Canon) heq).mp (canon_landMany h)
      refine Canon.ite ?_ ?_
      · split
        · next q2 heq1 =>
            have hq2 : Canon q2 := (congrArg (OnOk (OnSnd Canon)) heq1).mp (canon_atomicPlural hq1)
            exact each_holds Canon (canon_acquired (each_holds Canon hq2 (fun _ s1 h1 => canon_landDsts h1))) (fun _
                s1 h1 => canon_finishLane h1)
        · exact each_holds Canon (each_holds Canon (canon_unsettle hq1) (fun _ s1 h1 => canon_laneFault h1)) (fun _
            s1 h1 => canon_finishLane h1)
      · split
        · next q2 heq1 =>
            have hq2 : Canon q2 := (congrArg (OnSnd Canon) heq1).mp (canon_atomicHome hq1)
            exact each_holds Canon (canon_acquired (each_holds Canon hq2 (fun _ s1 h1 => canon_landDsts h1))) (fun _
                s1 h1 => canon_finishLane h1)

theorem canon_place {s : State} {core ctx va n : ℕ} {acc : Access} {late priv : Bool} (h : Canon s) :
    OnSnd Canon (s.place core ctx va n acc late priv) := by
  unfold State.place
  refine OnSnd.ite h (OnSnd.ite h ?_)
  split
  · next q heq =>
      have hq : Canon q := (congrArg (OnSnd Canon) heq).mp (canon_xlate h)
      exact hq
  · next q heq =>
      have hq : Canon q := (congrArg (OnSnd Canon) heq).mp (canon_xlate h)
      exact hq
  · next q heq =>
      have hq : Canon q := (congrArg (OnSnd Canon) heq).mp (canon_xlate h)
      exact OnSnd.ite hq (OnSnd.ite hq hq)
  · next q heq =>
      have hq : Canon q := (congrArg (OnSnd Canon) heq).mp (canon_xlate h)
      exact hq

theorem canon_placeAll {s : State} {core : ℕ} {sh : Sheaf} {n : ℕ} {acc : Access} {late : Bool} {addrs : List (ℕ ×
    ℕ)} (h : Canon s) :
    OnSnd Canon (s.placeAll core sh n acc late addrs) := by
  unfold State.placeAll
  refine foldl_holds (OnSnd Canon) h (fun _ x h1 => ?_)
  split
  · next q heq =>
      have hq : Canon q := (congrArg (OnSnd Canon) heq).mp (canon_place h1)
      exact hq

theorem canon_globalFault {is : Issue} {l : List (ℕ × ℕ × Xlate)} {s : State} (h : Canon s) :
    OnSome (OnResult Canon) (globalFault is l s) := by
  unfold globalFault
  extract_lets bad
  clear_value bad
  split
  · exact trivial
  · exact h

theorem canon_parkReplays {s : State} {is : Issue} {acc : Access} {l : List (ℕ × ℕ)} (h : Canon s) :
    Canon (s.parkReplays is acc l) := each_holds Canon (each_holds Canon h (fun _ _ h1 => canon_modSheaf h1)) (fun _
        _ h1 => canon_replayFault h1)

theorem canon_pluralFault {s : State} {is : Issue} {ctx : ℕ} {inst cell8 : Bool} {n : ℕ} {l : List (ℕ × ℕ × Leaf)} (h
    : Canon s) :
    OnSome (OnResult Canon) (s.pluralFault is ctx inst cell8 n l) := by
  unfold State.pluralFault
  extract_lets _ _ bad
  clear_value bad
  split
  · exact trivial
  · exact h

theorem canon_globalOp {i : Instr} {f : Fields} {off : BitVec 8} {acc : Access} {late : Bool} {srcs dsts : List
    (BitVec 8)} {inst : Bool} {is : Issue} {s₀ : State} (h : Canon s₀) :
    OnResult Canon (globalOp i f off acc late srcs dsts inst is s₀) := by
  unfold globalOp
  extract_lets
  split
  · next q heq =>
      have hq : Canon q := (congrArg (OnSnd Canon) heq).mp (canon_placeAll h)
      split
      · next x3 heq1 =>
          have hx3 : OnResult Canon x3 := (congrArg (OnSome (OnResult Canon)) heq1).mp (canon_globalFault h)
          exact hx3
      · refine OnResult.ite h ?_
        split
        · next x4 heq2 =>
            have hx4 : OnResult Canon x4 := (congrArg (OnSome (OnResult Canon)) heq2).mp (canon_pluralFault h)
            exact hx4
        · extract_lets q1 _ _ _ _ q2
          have hq1 : Canon q1 := canon_parkReplays hq
          have hq2 : Canon q2 := canon_launch hq1
          exact OnResult.ite hq1 (OnResult.ite hq2 hq2)

theorem canon_execFence {f : Fields} {s : State} (h : Canon s) : OnNext Canon (execFence f s) := by
  unfold execFence
  refine canon_issued (fun _ s1 h1 => ?_) h
  extract_lets
  exact OnResult.ite h1 (OnResult.ite h1 (OnResult.ite (canon_awaitWord h1) (Canon.ite (canon_acquired h1) h1)))

theorem canon_execCctl {f : Fields} {s : State} (h : Canon s) : OnNext Canon (execCctl f s) := by
  unfold execCctl
  refine canon_issued (fun _ s1 h1 => ?_) h
  extract_lets
  split
  · refine each_holds Canon h1 (fun _ s2 h2 => ?_)
    extract_lets
    split
    · next q heq1 =>
        have hq : Canon q := (congrArg (OnSnd Canon) heq1).mp (canon_xlate h2)
        exact canon_modCore hq
    · next q _ heq1 =>
        have hq : Canon q := (congrArg (OnSnd Canon) heq1).mp (canon_xlate h2)
        exact hq
  · exact Canon.ite h1 (canon_modCore h1)
  · exact h1

theorem canon_execPref {f : Fields} {s : State} (h : Canon s) : OnNext Canon (execPref f s) := by
  unfold execPref
  refine canon_issued (fun _ s1 h1 => OnResult.ite h1 (each_holds Canon h1 (fun _ s2 h2 => ?_))) h
  extract_lets
  split
  · next q heq =>
      have hq : Canon q := (congrArg (OnSnd Canon) heq).mp (canon_xlate h2)
      exact Canon.ite (canon_loadBytes hq) hq
  · next q _ heq =>
      have hq : Canon q := (congrArg (OnSnd Canon) heq).mp (canon_xlate h2)
      exact hq

theorem canon_execMemoryErrorFault {o : ℕ} {s : State} (h : Canon s) : OnNext Canon (execMemoryErrorFault o s) := by
  unfold execMemoryErrorFault
  split
  · exact h
  · split
    · exact h
    · exact Canon.ite h (canon_lateFault (canon_endOp h))

theorem canon_execImpreciseStoreFault {o t : ℕ} {s : State} (h : Canon s) :
    OnNext Canon (execImpreciseStoreFault o t s) := by
  unfold execImpreciseStoreFault
  split
  · exact h
  · split
    · exact h
    · split
      · refine Canon.ite h ?_
        split
        · exact h
        · exact canon_lateFault (canon_finishLane h)
      · refine Canon.ite h ?_
        split
        · exact h
        · exact canon_lateFault (canon_finishLane h)
      · refine Canon.ite h ?_
        split
        · exact h
        · exact canon_lateFault (canon_finishLane h)
      · refine Canon.ite h ?_
        split
        · exact h
        · exact canon_lateFault (canon_finishLane h)
      · refine Canon.ite h ?_
        split
        · exact h
        · exact canon_lateFault (canon_finishLane h)
      · refine Canon.ite h ?_
        split
        · exact h
        · exact canon_lateFault (canon_finishLane h)

theorem canon_execTranslationWalk {ctx va : ℕ} {s : State} (h : Canon s) :
    OnNext Canon (execTranslationWalk ctx va s) := by
  unfold execTranslationWalk
  dsimp only
  split
  · exact h
  · split
    · exact canon_fillTlb h
    · exact h

/-! ### The operations of `Machine/Plural` -/

theorem canon_collapse {s : State} {r : PRegion} {pa size op : ℕ} (h : Canon s) :
    Canon (s.collapse r pa size op) := by
  unfold State.collapse
  extract_lets
  split
  · exact getD_holds Canon (canon_putPcell h) h
  · exact h

theorem canon_stkHome {s : State} {r : PRegion} {pa size v : ℕ} {a0 a1 : Word} (h : Canon s) :
    OnOk (OnSnd Canon) (s.stkHome r pa size v a0 a1) := by
  unfold State.stkHome
  extract_lets
  split
  · exact trivial
  · next q _ heq =>
      have hq : Canon q := (congrArg (OnOk (OnFst Canon)) heq).mp (canon_addSibling h)
      exact hq

theorem canon_pluralPoison {s : State} {o : ℕ} {op : LongOp} {ln : Lane} {d : BitVec 8} {n : ℕ} (h : Canon s) :
    Canon (s.pluralPoison o op ln d n) := by
  unfold State.pluralPoison
  split
  · next q heq =>
      have hq : Canon q := (congrArg (OnSnd Canon) heq).mp (canon_undefs h)
      exact canon_finishLane (canon_laneFault (canon_landDsts hq))

theorem canon_performCell {s : State} {o : ℕ} {op : LongOp} {ln : Lane} (h : Canon s) :
    Canon (s.performCell o op ln) := by
  unfold State.performCell
  extract_lets _ _ _ q _ _
  have hq : Canon q := canon_modCore (canon_unsettle h)
  refine Canon.ite h ?_
  split
  · exact hq
  · split
    · refine Canon.ite (canon_pluralPoison hq) ?_
      split
      · next q1 heq2 =>
          have hq1 : Canon q1 := (congrArg (OnSnd Canon) heq2).mp (canon_landSrcs hq)
          exact canon_finishLane (canon_landDsts hq1)
    · refine Canon.ite (canon_pluralPoison hq) ?_
      extract_lets q1
      have hq1 : Canon q1 := canon_collapse hq
      exact canon_finishLane (canon_landDsts hq1)
    · refine Canon.ite hq ?_
      split
      · next q1 heq2 =>
          have hq1 : Canon q1 := (congrArg (OnSnd Canon) heq2).mp (canon_landSrcs hq)
          refine canon_finishLane ?_
          split
          · next q2 heq3 =>
              have hq2 : Canon q2 := (congrArg (OnOk (OnSnd Canon)) heq3).mp (canon_stkHome hq1)
              exact canon_landDsts hq2
          · exact canon_laneFault hq1
    · exact hq

theorem canon_execGlobalAccessPerformed {o t : ℕ} {s : State} (h : Canon s) :
    OnNext Canon (execGlobalAccessPerformed o t s) := by
  unfold execGlobalAccessPerformed
  split
  · exact h
  · split
    · exact h
    · split
      · exact canon_performLoad h
      · exact canon_performLoad h
      · exact canon_performLoad h
      · exact canon_performStore h
      · exact canon_performStore h
      · exact canon_performStore h
      · exact canon_performAtomic h
      · exact canon_performAtomic h
      · exact canon_performAtomic h
      · exact canon_performAtomic h
      · exact canon_performCell h
      · exact canon_performCell h
      · exact canon_performCell h
      · exact h

/-! ### The operations of `Machine/Joins` -/

theorem canon_modCell {s : State} {w off : ℕ} {f : ℕ → ℕ} (h : Canon s) :
    Canon (s.modCell w off f) := canon_modScratch h

theorem canon_countCell {s : State} {w off b : ℕ} (h : Canon s) : Canon (s.countCell w off b) := canon_modCell h

theorem canon_inBoth {is : Issue} {own partner : Bool} {s : State} {k : State → Result} (h : Canon s) (hk : ∀ (a :
    State), Canon a → OnResult Canon (k a)) :
    OnResult Canon (is.inBoth own partner s k) := OnResult.ite (canon_inScratch h (fun _ h1 => OnResult.ite
        (canon_inScratch h1 hk) (hk _ h1))) (OnResult.ite (canon_inScratch h hk) (hk _ h))

theorem canon_joinOp {f : Fields} {bad : ℕ → Bool} {g : ℕ → ℕ → ℕ × Word} {is : Issue} {s : State} (h : Canon s) :
    OnResult Canon (joinOp f bad g is s) := by
  unfold joinOp
  refine OnResult.ite h ?_
  extract_lets addrs
  split
  · next x1 heq =>
      exact (congrArg (OnSome (OnResult Canon)) heq).mp (canon_scratchCheck h)
  · refine OnResult.ite h (canon_inBoth h fun s1 h1 => ?_)
    extract_lets w r
    have hr : OnSnd Canon r := by
      refine foldl_holds (OnSnd Canon) h1 fun _ x1 h2 => ?_
      extract_lets v off x taint
      have hcell : Canon (x1.2.modCell v off fun _ => x.1) := canon_modCell h2
      exact hcell
    exact canon_writeLanes hr

theorem canon_evalWait {s : State} {sid t : ℕ} {w : Wait} (h : Canon s) : OnSnd Canon (s.evalWait sid t w) := by
  unfold State.evalWait
  refine OnSnd.ite ?_ ?_
  · split
    · next q heq =>
        have hq : Canon q := (congrArg (OnSnd Canon) heq).mp (canon_place h)
        extract_lets
        refine OnSnd.ite hq ?_
        split
        · next q1 heq1 =>
            have hq1 : Canon q1 := (congrArg (OnSnd Canon) heq1).mp (canon_loadBytes hq)
            split
            · next q2 heq2 =>
                have hq2 : Canon q2 := (congrArg (OnSnd Canon) heq2).mp (OnSnd.ite (canon_undef hq1) hq1)
                extract_lets
                exact Canon.ite (canon_acquired hq2) hq2
    · next q _ heq =>
        have hq : Canon q := (congrArg (OnSnd Canon) heq).mp (canon_place h)
        exact hq
  · extract_lets _ q _ _ _ _ _
    have hq : Canon q := canon_flushScratch h
    exact OnSnd.ite hq (OnSnd.ite (Canon.ite (canon_modCell hq) hq) hq)

theorem canon_waitPoison {s : State} {sid t : ℕ} {w : Wait} {code : ℕ} (h : Canon s) :
    Canon (s.waitPoison sid t w code) := Canon.ite h (canon_lateFaultAt h)

theorem canon_reevaluate {s : State} {sid t : ℕ} {w : Wait} {late : Bool} (h : Canon s) :
    Canon (s.reevaluate sid t w late) := by
  unfold State.reevaluate
  split
  · next q heq =>
      have hq : Canon q := (congrArg (OnSnd Canon) heq).mp (canon_evalWait h)
      split
      · exact Canon.ite (canon_modSheaf hq) hq
      · exact canon_waitPoison (Canon.ite (canon_modSheaf hq) (canon_modSheaf hq))

theorem canon_issueWaits {s : State} {sid : ℕ} {l : List (ℕ × Wait)} (h : Canon s) :
    OnSnd Canon (s.issueWaits sid l) := by
  unfold State.issueWaits
  refine foldl_holds (OnSnd Canon) h (fun _ x h1 => ?_)
  split
  · next q heq =>
      have hq : Canon q := (congrArg (OnSnd Canon) heq).mp (canon_evalWait h1)
      extract_lets
      exact hq

theorem canon_doWaitm {s : State} {is : Issue} {f : Fields} {l : List (ℕ × Wait)} (h : Canon s) :
    Canon (s.doWaitm is f l) := by
  unfold State.doWaitm
  split
  · next q heq =>
      have hq : Canon q := (congrArg (OnSnd Canon) heq).mp (canon_issueWaits h)
      exact each_holds Canon (canon_modRun (canon_writeLanes hq)) (fun _ _ h1 => canon_waitPoison h1)

theorem canon_execWaitm {f : Fields} {s : State} (h : Canon s) : OnNext Canon (execWaitm f s) := by
  unfold execWaitm
  refine canon_issued (fun _ s1 h1 => ?_) h
  extract_lets
  refine OnResult.ite ?_ ?_
  · split
    · next q heq =>
        have hq : Canon q := (congrArg (OnSnd Canon) heq).mp (canon_placeAll h1)
        split
        · next x3 heq1 =>
            have hx3 : OnResult Canon x3 := (congrArg (OnSome (OnResult Canon)) heq1).mp (canon_globalFault h1)
            exact hx3
        · refine OnResult.ite h1 ?_
          extract_lets q1 _ _
          have hq1 : Canon q1 := canon_parkReplays hq
          exact OnResult.ite h1 (canon_doWaitm hq1)
  · split
    · next x1 heq =>
        have hx1 : OnResult Canon x1 := (congrArg (OnSome (OnResult Canon)) heq).mp (canon_scratchCheck h1)
        exact hx1
    · exact OnResult.ite h1 (canon_inBoth h1 (fun s2 h2 => canon_doWaitm h2))

theorem canon_execWaitmReevaluation {sid t : ℕ} {s : State} (h : Canon s) :
    OnNext Canon (execWaitmReevaluation sid t s) := by
  unfold execWaitmReevaluation
  split
  · exact canon_reevaluate h
  · exact h

theorem canon_execWaitmTimeout {sid t : ℕ} {s : State} (h : Canon s) : OnNext Canon (execWaitmTimeout sid t s) := by
  unfold execWaitmTimeout
  split
  · split
    · exact Canon.ite (canon_reevaluate h) h
    · exact h
  · exact h

/-! ### The operations of `Machine/Engines` -/

theorem canon_spWrite {s : State} {w : ℕ} {a : Word} {off : ℕ} {bs : List Byte} (h : Canon s) :
    Canon (s.spWrite w a off bs) := canon_modScratch h

theorem canon_dropPodLines {s : State} {core ctx va n : ℕ} {priv : Bool} (h : Canon s) :
    Canon (s.dropPodLines core ctx va n priv) := by
  unfold State.dropPodLines
  refine each_holds Canon h (fun _ s1 h1 => ?_)
  split
  · exact canon_modCore (canon_modCore h1)
  · exact h1

theorem canon_countAt {s : State} {w : ℕ} {a : Word} {b : ℕ} (h : Canon s) :
    Canon (s.countAt w a b) := canon_countCell h

theorem canon_countTile {s : State} {w n b : ℕ} {landed poison : Bool} (h : Canon s) :
    Canon (s.countTile w n b landed poison) := canon_modTileN h

theorem canon_engineReplay {s : State} {ctx va : ℕ} {write : Bool} {core : ℕ} (h : Canon s) :
    Canon (s.engineReplay ctx va write core) := canon_replayFault h

theorem canon_engineFault {s : State} {ctx sub pc addr core engine die : ℕ} (h : Canon s) :
    Canon (s.engineFault ctx sub pc addr core engine die) := canon_contextFault h

theorem canon_engineLoad {s : State} {e : Engine} {ctx va n : ℕ} {priv : Bool} (h : Canon s) :
    OnOk (OnSnd (OnSnd Canon)) (s.engineLoad e ctx va n priv) := by
  unfold State.engineLoad
  split
  · next q heq =>
      have hq : Canon q := (congrArg (OnSnd Canon) heq).mp (canon_devLoad h)
      exact hq
  · next q heq =>
      have hq : Canon q := (congrArg (OnSnd Canon) heq).mp (canon_devLoad h)
      exact canon_contextFault hq
  · exact trivial

theorem canon_engineStore {s : State} {e : Engine} {ctx va : ℕ} {bs : List Byte} {priv : Bool} (h : Canon s) :
    OnOk Canon (s.engineStore e ctx va bs priv) := by
  unfold State.engineStore
  split
  · next q heq =>
      have hq : Canon q := (congrArg (OnSnd Canon) heq).mp (canon_devStore h)
      exact canon_dropPodLines hq
  · exact trivial

theorem canon_execCpa {f : Fields} {s : State} (h : Canon s) : OnNext Canon (execCpa f s) := by
  unfold execCpa
  refine canon_issued (fun _ s1 h1 => ?_) h
  extract_lets _ _ _ _ _ bad _ _
  refine OnResult.ite h1 ?_
  clear_value bad
  split
  · extract_lets
    exact h1
  · refine OnResult.ite h1 (OnResult.ite h1 ?_)
    split
    · next q heq =>
        have hq : Canon q := (congrArg (OnSnd Canon) heq).mp (canon_fresh h1)
        extract_lets q1 q2
        have hq1 : Canon q1 := canon_modSheaf hq
        have hq2 : Canon q2 := canon_modCore hq1
        split
        · exact canon_useTile hq2
        · exact hq2

theorem canon_lowerTag {s : State} {k : Copy} (h : Canon s) : Canon (s.lowerTag k) := by
  unfold State.lowerTag
  split
  · exact Canon.ite (canon_modSheaf h) h
  · exact h

theorem canon_endCopy {s : State} {core n : ℕ} {k : Copy} (h : Canon s) : Canon (s.endCopy core n k) := by
  unfold State.endCopy
  extract_lets q q1
  have hq : Canon q := canon_modCore h
  have hq1 : Canon q1 := canon_lowerTag hq
  split
  · exact canon_useTile hq1
  · exact hq1

theorem canon_copyPoison {s : State} {k : Copy} {poison : Bool} (h : Canon s) : Canon (s.copyPoison k poison) := by
  unfold State.copyPoison
  split
  · exact Canon.ite (canon_modSheaf h) h
  · exact h

theorem canon_copyBytes {s : State} {core : ℕ} {k : Copy} {l : CopyLane} (h : Canon s) :
    OnOk (OnSnd Canon) (s.copyBytes core k l) := by
  unfold State.copyBytes
  extract_lets
  refine OnOk.ite (OnOk.ite h ?_) (OnOk.ite (canon_spWrite h) ?_)
  · split
    · next q heq =>
        have hq : Canon q := (congrArg (OnOk Canon) heq).mp (canon_engineStore h)
        exact hq
    · exact trivial
  · split
    · next q heq =>
        have hq : Canon q := (congrArg (OnOk (OnSnd (OnSnd Canon))) heq).mp (canon_engineLoad h)
        exact canon_spWrite hq
    · exact trivial

theorem canon_stickLane {s : State} {core op t page : ℕ} (h : Canon s) :
    Canon (s.stickLane core op t page) := canon_modCore h

theorem canon_execCpaLaneComplete {core op t : ℕ} {s : State} (h : Canon s) :
    OnNext Canon (execCpaLaneComplete core op t s) := by
  unfold execCpaLaneComplete
  split
  · exact h
  · refine Canon.ite h (Canon.ite (canon_endCopy h) ?_)
    split
    · exact h
    · refine Canon.ite h ?_
      split
      · exact canon_stickLane (canon_engineReplay h)
      · exact h
      · next q heq2 =>
          have hq : Canon q := (congrArg (OnOk (OnSnd Canon)) heq2).mp (canon_copyBytes h)
          extract_lets q1 q2 q3 _ q4
          have hq1 : Canon q1 := canon_copyPoison hq
          have hq2 : Canon q2 := by
            unfold q2
            split
            · exact canon_countAt hq1
            · exact hq1
          have hq3 : Canon q3 := by
            unfold q3
            split
            · exact canon_countTile hq2
            · exact hq2
          have hq4 : Canon q4 := canon_modCore hq3
          exact Canon.ite (canon_endCopy hq4) hq4

theorem canon_execCpw {f : Fields} {s : State} (h : Canon s) : OnNext Canon (execCpw f s) := by
  unfold execCpw
  refine canon_issued (fun _ s1 h1 => OnResult.ite h1 ?_) h
  extract_lets
  exact OnResult.ite h1 h1

theorem canon_step {m : Moving} {s : State} {poison ovf : Bool} (_ : OnMoving Canon m) (h1 : Canon s) :
    OnMoving Canon (m.step s poison ovf) := h1

theorem canon_moveElem {w : ℕ} {e : Engine} {ctx : ℕ} {priv : Bool} {bank : Tab (BitVec 16)} {r : TRec} {m : Moving}
    {p : ℤ × ℤ} (h : OnMoving Canon m) :
    OnOk (OnMoving Canon) (moveElem w e ctx priv bank r m p) := by
  unfold moveElem
  extract_lets
  split
  · exact trivial
  · next q heq =>
      have hq : Canon q := (congrArg (OnOk (OnSnd (OnSnd Canon))) heq).mp (OnOk.ite h (canon_engineLoad h))
      extract_lets _ q1
      have hq1 : Canon q1 := canon_modScratch hq
      refine OnOk.ite (canon_step h hq1) ?_
      split
      · next q2 heq1 =>
          have hq2 : Canon q2 := (congrArg (OnOk Canon) heq1).mp (canon_engineStore hq)
          exact canon_step h hq2
      · exact trivial

theorem canon_moveAll {α : Type} {f : Moving → α → EngineTry Moving} {l : List α} {m : Moving}
    (hf : ∀ m x, OnMoving Canon m → OnOk (OnMoving Canon) (f m x)) (h : OnMoving Canon m) :
    OnFst (OnMoving Canon) (moveAll f l m) := by
  induction l generalizing m with
  | nil => exact h
  | cons x l ih =>
    unfold moveAll
    split
    · exact h
    · next m' heq => exact ih ((congrArg (OnOk (OnMoving Canon)) heq).mp (hf m x h))

theorem canon_acceptReq {s : State} {is : Issue} {a : Word} {n : ℕ} {kind : ReqKind} {tile : Option ℕ} (h : Canon s) :
    Canon (s.acceptReq is a n kind tile) := by
  unfold State.acceptReq
  extract_lets
  split
  · next q heq =>
      have hq : Canon q := (congrArg (OnSnd Canon) heq).mp (canon_fresh h)
      extract_lets _ q1 q2
      have hq1 : Canon q1 := canon_modScratch hq
      have hq2 : Canon q2 := canon_modCore hq1
      split
      · exact canon_useTile hq2
      · exact hq2

theorem canon_launchRecord {f : Fields} {len : List Byte → ℕ} {check : List Byte → State → ℕ → Option (Option (ℕ ×
    ℕ))} {kind : ReqKind} {tile : List Byte → Option ℕ} {is : Issue} {s : State} (h : Canon s) :
    OnResult Canon (launchRecord f len check kind tile is s) := by
  unfold launchRecord
  refine OnResult.ite h ?_
  extract_lets
  refine OnResult.ite h ?_
  split
  · exact h
  · refine OnResult.ite h (canon_inScratch h (fun s1 h1 => ?_))
    extract_lets
    split
    · exact h1
    · split
      · exact h1
      · exact h1
      · exact canon_acceptReq h1

theorem canon_endReq {s : State} {core op : ℕ} {r : Req} {jc tile : Option ℕ} {b : ℕ} {landed : Option Bool} {poison
    ovf : Bool} (h : Canon s) :
    Canon (s.endReq core op r jc tile b landed poison ovf) := by
  unfold State.endReq
  extract_lets q q1 q2 _ q3
  have hq : Canon q := by
    unfold q
    split
    · exact canon_countAt h
    · exact h
  have hq1 : Canon q1 := by
    unfold q1
    split
    · exact canon_countTile hq
    · exact hq
  have hq2 : Canon q2 := by
    unfold q2
    split
    · exact canon_useTile hq1
    · exact hq1
  have hq3 : Canon q3 := canon_modScratch hq2
  exact canon_modCore hq3

theorem canon_keepReq {s : State} {core op : ℕ} {m : Moving} {carry : Option Bool} (h : Canon s) (_ : OnMoving Canon
    m) :
    Canon (s.keepReq core op m carry) := canon_modCore h

theorem canon_runReq {s : State} {core op : ℕ} {r : Req} (h : Canon s) : OnFst Canon (s.runReq core op r) := by
  unfold State.runReq
  extract_lets
  split
  · next x1 _ heq =>
      have hx1 : OnMoving Canon x1 := (congrArg (OnFst (OnMoving Canon)) heq).mp (canon_moveAll (fun m _ h1 =>
          canon_moveElem h1) h)
      exact canon_keepReq hx1 hx1
  · next x1 heq =>
      have hx1 : OnMoving Canon x1 := (congrArg (OnFst (OnMoving Canon)) heq).mp (canon_moveAll (fun m _ h1 =>
          canon_moveElem h1) h)
      exact canon_endReq hx1

theorem canon_redElem {core fmt : ℕ} {r : Req} {q : CRec} {carry : Bool} {m : Moving} {i : ℕ} (h : OnMoving Canon m) :
    OnOk (OnMoving Canon) (redElem core fmt r q carry m i) := by
  unfold redElem
  extract_lets _ _ _ _ _ _ q1
  have hq1 : Canon q1 := canon_spWrite h
  split
  · exact trivial
  · next q2 heq =>
      have hq2 : Canon q2 := (congrArg (OnOk (OnSnd (OnSnd Canon))) heq).mp (canon_engineLoad hq1)
      extract_lets
      split
      · exact trivial
      · next q3 heq1 =>
          have hq3 : Canon q3 := (congrArg (OnOk Canon) heq1).mp (canon_engineStore hq2)
          exact canon_step h hq3

theorem canon_arriveRed {s : State} {core : ℕ} {r : Req} {q : CRec} (h : Canon s) :
    OnOk Canon (s.arriveRed core r q) := by
  unfold State.arriveRed
  split
  · exact trivial
  · next q1 heq =>
      have hq1 : Canon q1 := (congrArg (OnOk (OnSnd (OnSnd Canon))) heq).mp (canon_engineLoad h)
      split
      · exact trivial
      · next q2 heq1 =>
          have hq2 : Canon q2 := (congrArg (OnOk Canon) heq1).mp (canon_engineStore hq1)
          exact canon_spWrite hq2

theorem canon_runRed {s : State} {core op fmt : ℕ} {r : Req} (h : Canon s) :
    OnFst Canon (s.runRed core op fmt r) := by
  unfold State.runRed
  extract_lets
  split
  · next x1 _ heq =>
      have hx1 : OnMoving Canon x1 := (congrArg (OnFst (OnMoving Canon)) heq).mp (canon_moveAll (fun m _ h1 =>
          canon_redElem h1) h)
      exact canon_keepReq hx1 hx1
  · next x1 heq =>
      have hx1 : OnMoving Canon x1 := (congrArg (OnFst (OnMoving Canon)) heq).mp (canon_moveAll (fun m _ h1 =>
          canon_redElem h1) h)
      split
      · exact canon_keepReq hx1 hx1
      · next q1 heq1 =>
          have hq1 : Canon q1 := (congrArg (OnOk Canon) heq1).mp (canon_arriveRed hx1)
          exact canon_endReq hq1

theorem canon_runBcast {s : State} {core op fmt : ℕ} {r : Req} (h : Canon s) :
    OnFst Canon (s.runBcast core op fmt r) := by
  unfold State.runBcast
  extract_lets
  split
  · exact h
  · next q1 heq =>
      have hq1 : Canon q1 := (congrArg (OnOk (OnSnd (OnSnd Canon))) heq).mp (canon_engineLoad h)
      refine OnFst.ite h ?_
      split
      · exact h
      · next q2 heq1 =>
          have hq2 : Canon q2 := (congrArg (OnOk (OnSnd (OnSnd Canon))) heq1).mp (canon_engineLoad hq1)
          extract_lets _ q3
          have hq3 : Canon q3 := canon_spWrite hq2
          exact canon_endReq hq3

theorem canon_tryReq {s : State} {core op : ℕ} {r : Req} (h : Canon s) : OnFst Canon (s.tryReq core op r) := by
  unfold State.tryReq
  refine OnFst.ite h ?_
  split
  · exact canon_runReq h
  · exact canon_runRed h
  · exact canon_runBcast h

theorem canon_stickReq {s : State} {core op page : ℕ} (h : Canon s) :
    Canon (s.stickReq core op page) := canon_modCore h

theorem canon_stepReq {s : State} {core op : ℕ} {want : ReqKind → Bool} (h : Canon s) :
    Canon (s.stepReq core op want) := by
  unfold State.stepReq
  split
  · exact h
  · refine Canon.ite h ?_
    split
    · next q _ _ heq1 =>
        have hq : Canon q := (congrArg (OnFst Canon) heq1).mp (canon_tryReq h)
        exact canon_stickReq (canon_engineReplay hq)
    · next q _ _ heq1 =>
        have hq : Canon q := (congrArg (OnFst Canon) heq1).mp (canon_tryReq h)
        exact hq

theorem canon_reqElement {s : State} {core op : ℕ} (h : Canon s) : Canon (s.reqElement core op) := by
  have hone : ∀ {α : Type} {r : Req} {f : Moving → α → EngineTry Moving} {l : List α} {carry : Option Bool},
      (∀ m x, OnMoving Canon m → OnOk (OnMoving Canon) (f m x)) →
      Canon (match l.drop r.pos with
        | x :: _ :: _ => (match f ⟨s, r.pos, r.poison, r.ovf⟩ x with
            | .ok m => m.s.keepReq core op m carry
            | .error _ => s)
        | _ => s) := by
    intro α r f l carry hf
    split
    · split
      · next m heq =>
          have hm : OnMoving Canon m := (congrArg (OnOk (OnMoving Canon)) heq).mp (hf _ _ h)
          exact canon_keepReq hm hm
      · exact h
    · exact h
  unfold State.reqElement
  split
  · exact h
  · refine Canon.ite h ?_
    split
    · exact hone fun _ _ hm => canon_moveElem hm
    · exact hone fun _ _ hm => canon_redElem hm
    · exact h

theorem canon_execFmtLoad {f : Fields} {s : State} (h : Canon s) : OnNext Canon (execFmtLoad f s) := by
  unfold execFmtLoad
  refine canon_issued (fun _ s1 h1 => OnResult.ite h1 ?_) h
  extract_lets
  split
  · exact h1
  · exact OnResult.ite h1 (canon_inScratch h1 (fun s2 h2 => canon_modCore h2))

theorem canon_runBinding {s : State} {w : ℕ} {b : Binding} (h : Canon s) : OnFst Canon (s.runBinding w b) := by
  unfold State.runBinding
  extract_lets _ _ _ _ _ q
  have hq : Canon q := Canon.ite (canon_modTileN h) h
  split
  · next x1 _ heq =>
      have hx1 : OnMoving Canon x1 := (congrArg (OnFst (OnMoving Canon)) heq).mp (canon_moveAll (fun m _ h1 =>
          canon_moveElem h1) hq)
      exact canon_modWg hx1
  · next x1 heq =>
      have hx1 : OnMoving Canon x1 := (congrArg (OnFst (OnMoving Canon)) heq).mp (canon_moveAll (fun m _ h1 =>
          canon_moveElem h1) hq)
      exact Canon.ite (canon_countTile hx1) hx1

theorem canon_execPrologueRun {w : ℕ} {s : State} (h : Canon s) : OnNext Canon (execPrologueRun w s) := by
  unfold execPrologueRun
  split
  · exact h
  · split
    · next q heq1 =>
        have hq : Canon q := (congrArg (OnFst Canon) heq1).mp (canon_runBinding h)
        exact canon_modWg hq
    · next q _ _ heq1 =>
        have hq : Canon q := (congrArg (OnFst Canon) heq1).mp (canon_runBinding h)
        exact canon_modWg (canon_engineReplay hq)
    · next q _ _ heq1 =>
        have hq : Canon q := (congrArg (OnFst Canon) heq1).mp (canon_runBinding h)
        exact hq

/-! ### The operations of `Machine/Acc` -/

theorem canon_mergeWords {os ns : List Word} {s : State} (h : Canon s) : OnSnd Canon (mergeWords os ns s) := by
  induction os generalizing ns s with
  | nil => exact h
  | cons o os ih =>
    cases ns with
    | nil => exact h
    | cons n ns => exact ih (OnSnd.ite h (canon_flip h))

theorem canon_modAcc {s : State} {w n : ℕ} {f : Acc → Acc} (h : Canon s) : Canon (s.modAcc w n f) := canon_modWg h

theorem canon_readRows {s : State} {w n : ℕ} (h : Canon s) : Canon (s.readRows w n) := h

theorem canon_writeRows {s : State} {w n ticket : ℕ} {rows : List (ℕ × List Word)} {f : Acc → Acc} (h : Canon s) :
    Canon (s.writeRows w n ticket rows f) := canon_readRows (canon_modAcc h)

theorem canon_pushJob {s : State} {c : ℕ} {j : Job} (h : Canon s) : Canon (s.pushJob c j) := canon_modCore h

theorem canon_accJob {s : State} {sid w n : ℕ} {kind : JobKind} {tag dom : BitVec 16} (h : Canon s) :
    Canon (s.accJob sid w n kind tag dom) := by
  unfold State.accJob
  split
  · next q heq =>
      have hq : Canon q := (congrArg (OnSnd Canon) heq).mp (canon_fresh h)
      extract_lets q1
      have hq1 : Canon q1 := canon_modAcc hq
      exact canon_pushJob hq1

theorem canon_forceAcc {s : State} {sid w n places : ℕ} (h : Canon s) :
    OnSome Canon (s.forceAcc sid w n places) := OnSome.ite (OnSome.ite h trivial) (OnSome.ite (canon_accJob h)
        trivial)

theorem canon_accOp {n : ℕ} {g : ℕ → Acc → Sheaf → ℕ → State → Result} {is : Issue} {s : State} (hg : ∀ (a : ℕ) (a_1
    : Acc) (a_2 : Sheaf) (a_3 : ℕ) (a_4 : State), Canon a_4 → OnResult Canon (g a a_1 a_2 a_3 a_4)) (h : Canon s) :
    OnResult Canon (accOp n g is s) := OnResult.ite h (OnResult.ite h (hg _ _ _ _ _ h))

theorem canon_execAccZ {f : Fields} {s : State} (h : Canon s) : OnNext Canon (execAccZ f s) := by
  unfold execAccZ
  refine canon_issued (fun _ s1 h1 => ?_) h
  extract_lets
  exact canon_accOp (fun _ _ _ _ s2 h2 => OnResult.ite (canon_waits h2) (OnResult.ite (canon_modAcc h2) (canon_modAcc
      (canon_launch h2)))) h1

theorem canon_execAccRd {f : Fields} {s : State} (h : Canon s) : OnNext Canon (execAccRd f s) := by
  unfold execAccRd
  refine canon_issued (fun _ s1 h1 => ?_) h
  extract_lets
  refine OnResult.ite h1 (OnResult.ite (canon_launch h1) ?_)
  split
  · exact canon_waits h1
  · next q heq =>
      have hq : Canon q := (congrArg (OnSome Canon) heq).mp (canon_forceAcc h1)
      exact canon_readRows (canon_launch hq)

theorem canon_execAccWr {f : Fields} {s : State} (h : Canon s) : OnNext Canon (execAccWr f s) := by
  unfold execAccWr
  refine canon_issued (fun _ s1 h1 => ?_) h
  extract_lets
  exact canon_accOp (fun _ _ _ _ s2 h2 => OnResult.ite h2 (OnResult.ite (canon_waits h2) (canon_modAcc h2))) h1

theorem canon_accTransfer {i : Instr} {f : Fields} {codes : List ℕ} {places : ℕ} {go : Issue → ℕ → ℕ → List Lane →
    State → Result} {is : Issue} {s : State} (hgo : ∀ (a : Issue) (a_1 a_2 : ℕ) (a_3 : List Lane) (a_4 : State),
    Canon a_4 → OnResult Canon (go a a_1 a_2 a_3 a_4)) (h : Canon s) :
    OnResult Canon (accTransfer i f codes places go is s) := by
  unfold accTransfer
  extract_lets
  split
  · refine OnResult.ite h (OnResult.ite (canon_launch h) (OnResult.ite h ?_))
    split
    · exact h
    · split
      · exact canon_waits h
      · next q heq2 =>
          have hq : Canon q := (congrArg (OnSome Canon) heq2).mp (OnSome.ite (canon_forceAcc h) (OnSome.ite h
              trivial))
          exact canon_inScratch hq (fun s1 h1 => hgo _ _ _ _ _ h1)

theorem canon_execAccLd {f : Fields} {s : State} (h : Canon s) : OnNext Canon (execAccLd f s) := by
  unfold execAccLd
  refine canon_issued (fun _ s1 h1 => canon_accTransfer (fun _ _ _ _ s2 h2 => ?_) h1) h
  extract_lets
  exact canon_modAcc (canon_launch h2)

theorem canon_execAccWm {f : Fields} {s : State} (h : Canon s) : OnNext Canon (execAccWm f s) := by
  unfold execAccWm
  refine canon_issued (fun _ s1 h1 => ?_) h
  extract_lets
  refine canon_accOp (fun _ _ _ _ s2 h2 => ?_) h1
  extract_lets _ q
  have hq : Canon q := canon_writeLanes h2
  exact Canon.ite (canon_modAcc hq) hq

theorem canon_execAccCvt {f : Fields} {s : State} (h : Canon s) : OnNext Canon (execAccCvt f s) := by
  unfold execAccCvt
  refine canon_issued (fun _ s1 h1 => ?_) h
  extract_lets
  refine canon_accOp (fun _ _ _ _ s2 h2 => ?_) h1
  extract_lets
  split
  · exact canon_waits h2
  · next q heq =>
      have hq : Canon q := (congrArg (OnSome Canon) heq).mp (OnSome.ite (OnSome.ite h2 trivial) (canon_forceAcc h2))
      exact canon_modAcc (canon_launch hq)

theorem canon_landAccZ {s : State} {o : ℕ} {op : LongOp} {n : ℕ} (h : Canon s) :
    Canon (s.landAccZ o op n) := Canon.ite (canon_completeOp (canon_readRows (canon_modAcc h))) h

theorem canon_landAccCvt {s : State} {o : ℕ} {op : LongOp} {f : Fields} (h : Canon s) :
    Canon (s.landAccCvt o op f) := by
  unfold State.landAccCvt
  extract_lets
  exact Canon.ite (canon_completeOp (canon_writeRows h)) h

theorem canon_landAccRd {s : State} {o : ℕ} {op : LongOp} {f : Fields} (h : Canon s) :
    Canon (s.landAccRd o op f) := Canon.ite (canon_landEach h (fun _ _ _ h1 => canon_landDsts h1)) h

theorem canon_landAccLd {s : State} {o : ℕ} {op : LongOp} {f : Fields} (h : Canon s) :
    Canon (s.landAccLd o op f) := by
  unfold State.landAccLd
  extract_lets _ _ r
  have hr : OnSnd Canon r := by
    refine foldl_holds (OnSnd Canon) h (fun _ x h1 => ?_)
    extract_lets
    split
    · next q heq =>
        have hq : Canon q := (congrArg (OnSnd Canon) heq).mp (canon_mergeWords h1)
        exact hq
  exact Canon.ite (canon_completeOp (canon_writeRows hr)) h

theorem canon_landAccSt {s : State} {o : ℕ} {op : LongOp} {f : Fields} (h : Canon s) :
    Canon (s.landAccSt o op f) := by
  unfold State.landAccSt
  extract_lets
  refine Canon.ite (canon_completeOp (each_holds Canon h (fun _ s1 h1 => ?_))) h
  extract_lets _ q
  have hq : Canon q := canon_modScratch h1
  exact Canon.ite (canon_modAcc hq) hq

/-! ### The operations of `Machine/Admit` -/

theorem canon_seat {s : State} {c slot ctx w idx width : ℕ} {at_ : ℕ × List ℕ} {regs : ℕ} (h : Canon s) :
    Canon (s.seat c slot ctx w idx width at_ regs) := by
  unfold State.seat
  extract_lets _ _ q
  have hq : Canon q := canon_modCore h
  exact hq

theorem canon_saveBank {s : State} {c ctx : ℕ} {bytes : List Byte} (h : Canon s) :
    Canon (s.saveBank c ctx bytes) := Canon.ite h (canon_modCtx (canon_modCore (canon_devStore h)))

theorem canon_arriveOn {s : State} {c ctx : ℕ} (h : Canon s) : Canon (s.arriveOn c ctx) := by
  unfold State.arriveOn
  refine Canon.ite h (Canon.ite (canon_modCore h) ?_)
  split
  · next q heq =>
      have hq : Canon q := (congrArg (OnSnd Canon) heq).mp (canon_devLoad h)
      extract_lets
      exact canon_modCore hq

theorem canon_admitWg {s : State} {w c : ℕ} {g : Grant} {bindings : List ℕ} (h : Canon s) :
    Canon (s.admitWg w c g bindings) := each_holds Canon (canon_modWg (canon_arriveOn h)) (fun _ _ h1 => canon_seat
        h1)

/-! ### The operations of `Machine/Trail` -/

theorem canon_trail {s : State} {i : TrailInfo} (h : Canon s) : Canon (s.trail i) := by
  unfold State.trail
  refine Canon.ite (canon_interrupt (canon_modRegs h)) ?_
  extract_lets _ _ q
  have hq : Canon q := Canon.ite (canon_poke h) h
  exact canon_modRegs hq

/-! ### The operations of `Machine/RingStore` -/

theorem canon_ringPiece {s : State} {d la n : ℕ} (h : Canon s) : OnSnd Canon (s.ringPiece d la n) := by
  unfold State.ringPiece
  extract_lets
  split
  · extract_lets q _ q1
    have hq : Canon q := canon_modRing h
    have hq1 : Canon q1 := canon_modRing hq
    refine OnSnd.ite hq1 (OnSnd.ite ?_ (canon_modRing hq))
    split
    · next q2 heq1 =>
        have hq2 : Canon q2 := (congrArg (OnSnd Canon) heq1).mp (canon_pick hq)
        exact canon_modRing hq2

theorem canon_ringRead {s : State} {d la n : ℕ} (h : Canon s) : OnSnd Canon (s.ringRead d la n) := by
  unfold State.ringRead
  refine foldl_holds (OnSnd Canon) h (fun _ x h1 => ?_)
  split
  · next q heq =>
      have hq : Canon q := (congrArg (OnSnd Canon) heq).mp (canon_ringPiece h1)
      exact hq

theorem canon_ringWrite {s : State} {d la : ℕ} {bs : List Byte} (h : Canon s) :
    Canon (s.ringWrite d la bs) := each_holds Canon h (fun _ _ h1 => canon_modRing h1)

theorem canon_loseBank {s : State} {d b : ℕ} (h : Canon s) :
    Canon (s.loseBank d b) := canon_interrupt (canon_modRing h)

theorem canon_ringError {s : State} {d b cw sym : ℕ} {unc : Bool} (h : Canon s) :
    Canon (s.ringError d b cw sym unc) := by
  unfold State.ringError
  extract_lets
  exact canon_modRing h

theorem canon_layerPower {s : State} {d l : ℕ} {on : Bool} (h : Canon s) :
    Canon (s.layerPower d l on) := canon_modRing h

theorem canon_execTransferParityRetry {d ch group tries tries2 lanes : ℕ} {s : State} (h : Canon s) :
    OnNext Canon (execTransferParityRetry d ch group tries tries2 lanes s) := by
  unfold execTransferParityRetry
  dsimp only
  split
  · exact h
  · exact Canon.ite (each_holds Canon (canon_modRing h) (fun _ _ h1 => canon_loseBank h1)) (canon_modRing h)

theorem canon_readWord {s : State} {d k : ℕ} (h : Canon s) : Canon (s.readWord d k) := by
  unfold State.readWord
  refine Canon.ite h (Canon.ite ?_ (canon_modRing h))
  split
  · next q heq =>
      have hq : Canon q := (congrArg (OnSnd Canon) heq).mp (canon_pick h)
      exact canon_modRing hq

theorem canon_readWords {s : State} {d : ℕ} {p : ℕ → Bool} (h : Canon s) :
    Canon (s.readWords d p) := each_holds Canon h (fun _ _ h1 => canon_readWord h1)

theorem canon_execRotationCopyEnd {d : ℕ} {s : State} (h : Canon s) : OnNext Canon (execRotationCopyEnd d s) := by
  unfold execRotationCopyEnd
  split
  · exact h
  · exact canon_modRing (canon_readWords h)

theorem canon_landImage {s : State} {w : ℕ} {t : Tile} {bs : List Byte} (h : Canon s) :
    Canon (s.landImage w t bs) := canon_modScratch h

theorem canon_readRing {s : State} {g r i : ℕ} (h : Canon s) : OnOk (OnSnd Canon) (s.readRing g r i) := by
  unfold State.readRing
  extract_lets
  split
  · exact canon_ringRead h
  · split
    · next q1 heq1 =>
        have hq1 : Canon q1 := (congrArg (OnSnd Canon) heq1).mp (canon_devLoad h)
        exact hq1
    · exact trivial

theorem canon_writeRing {s : State} {g r i : ℕ} {bs : List Byte} (h : Canon s) :
    OnOk Canon (s.writeRing g r i bs) := by
  unfold State.writeRing
  extract_lets
  split
  · exact canon_ringWrite h
  · split
    · next q1 heq1 =>
        have hq1 : Canon q1 := (congrArg (OnSnd Canon) heq1).mp (canon_devStore h)
        exact hq1
    · exact trivial

theorem canon_loseTiles {s : State} {d : ℕ} (h : Canon s) : Canon (s.loseTiles d) := h

theorem canon_ringFault {s : State} {g r i code addr : ℕ} {a : Asker} (h : Canon s) :
    Canon (s.ringFault g r i code addr a) := canon_contextFault h

/-! ### The operations of `Machine/Intake` -/

theorem canon_graphBytes {s : State} {die ctx va n : ℕ} (h : Canon s) :
    OnSnd (OnSnd Canon) (s.graphBytes die ctx va n) := by
  unfold State.graphBytes
  refine OnSnd.ite h ?_
  split
  · next q heq =>
      have hq : Canon q := (congrArg (OnSnd Canon) heq).mp (canon_devLoad h)
      exact hq
  · next q heq =>
      have hq : Canon q := (congrArg (OnSnd Canon) heq).mp (canon_devLoad h)
      exact canon_engineReplay hq
  · next q heq =>
      have hq : Canon q := (congrArg (OnSnd Canon) heq).mp (canon_devLoad h)
      exact hq
  · next q _ _ _ heq =>
      have hq : Canon q := (congrArg (OnSnd Canon) heq).mp (canon_devLoad h)
      exact hq

theorem canon_descBits {s : State} {die ctx : ℕ} {l : List ℕ} (h : Canon s) :
    OnSnd (OnSnd Canon) (s.descBits die ctx l) := by
  unfold State.descBits
  refine foldl_holds (OnSnd (OnSnd Canon)) h (fun _ x h1 => ?_)
  split
  · next q heq =>
      have hq : Canon q := (congrArg (OnSnd (OnSnd Canon)) heq).mp (canon_graphBytes h1)
      exact hq

theorem canon_readGraph {s : State} {g : Graph} (h : Canon s) : OnSnd Canon (s.readGraph g) := by
  unfold State.readGraph
  extract_lets
  split
  · next q heq =>
      have hq : Canon q := (congrArg (OnSnd (OnSnd Canon)) heq).mp (canon_graphBytes h)
      exact hq
  · next q heq =>
      have hq : Canon q := (congrArg (OnSnd (OnSnd Canon)) heq).mp (canon_graphBytes h)
      refine OnSnd.ite hq ?_
      extract_lets
      split
      · next q1 heq1 =>
          have hq1 : Canon q1 := (congrArg (OnSnd (OnSnd Canon)) heq1).mp (canon_graphBytes hq)
          exact hq1
      · next q1 heq1 =>
          have hq1 : Canon q1 := (congrArg (OnSnd (OnSnd Canon)) heq1).mp (canon_graphBytes hq)
          extract_lets
          split
          · next q2 heq2 =>
              have hq2 : Canon q2 := (congrArg (OnSnd (OnSnd Canon)) heq2).mp (canon_descBits hq1)
              split
              · next q3 heq3 =>
                  have hq3 : Canon q3 := (congrArg (OnSnd (OnSnd Canon)) heq3).mp (canon_descBits hq2)
                  extract_lets
                  exact hq3

theorem canon_letGo {s : State} {n : ℕ} (h : Canon s) : Canon (s.letGo n) := canon_modRegs h

theorem canon_dropGraph {s : State} {n : ℕ} (h : Canon s) : Canon (s.dropGraph n) := canon_letGo h

theorem canon_payCompletion {s : State} {n : ℕ} (h : Canon s) : Canon (s.payCompletion n) := by
  unfold State.payCompletion
  extract_lets
  split
  · exact h
  · refine Canon.ite (canon_modGraph h) (Canon.ite h ?_)
    split
    · next q heq1 =>
        have hq : Canon q := (congrArg (OnSnd Canon) heq1).mp (canon_devStore h)
        exact canon_modGraph hq
    · next q heq1 =>
        have hq : Canon q := (congrArg (OnSnd Canon) heq1).mp (canon_devStore h)
        exact canon_replayFault hq
    · next q heq1 =>
        have hq : Canon q := (congrArg (OnSnd Canon) heq1).mp (canon_devStore h)
        exact hq
    · next q _ _ heq1 =>
        have hq : Canon q := (congrArg (OnSnd Canon) heq1).mp (canon_devStore h)
        exact canon_engineFault (canon_modGraph hq)

theorem canon_forgetRejected {s : State} {n : ℕ} (h : Canon s) : Canon (s.forgetRejected n) := Canon.ite h h

theorem canon_entryDone {s : State} {q : Option ℕ} (h : Canon s) : Canon (s.entryDone q) := by
  unfold State.entryDone
  split
  · exact canon_modQueue h
  · exact h

theorem canon_rejectGraph {s : State} {n : ℕ} {g : Graph} {e : IntakeErr} (h : Canon s) :
    Canon (s.rejectGraph n g e) := by
  unfold State.rejectGraph
  extract_lets q
  have hq : Canon q := canon_letGo (canon_entryDone (canon_record h))
  exact canon_forgetRejected (canon_payCompletion hq)

theorem canon_execGraphIntake {n : ℕ} {s : State} (h : Canon s) : OnNext Canon (execGraphIntake n s) := by
  unfold execGraphIntake
  split
  · exact h
  · refine Canon.ite (canon_forgetRejected (canon_payCompletion h)) (Canon.ite h ?_)
    split
    · next q heq1 =>
        have hq : Canon q := (congrArg (OnSnd Canon) heq1).mp (canon_readGraph h)
        exact Canon.ite hq (canon_rejectGraph hq)
    · next q heq1 =>
        have hq : Canon q := (congrArg (OnSnd Canon) heq1).mp (canon_readGraph h)
        split
        · exact canon_rejectGraph hq
        · split
          · exact canon_rejectGraph hq
          · exact hq

theorem canon_allocRings {s : State} {n : ℕ} {g : Graph} {die : ℕ} (h : Canon s) :
    OnSome Canon (s.allocRings n g die) := by
  unfold State.allocRings
  extract_lets
  refine OnSome.ite trivial (OnSome.ite h ?_)
  split
  · exact canon_modRing h
  · exact OnSome.ite trivial (OnSome.ite trivial (map_holds_of Canon (fun _ => canon_modRing (canon_readWords h))))

theorem canon_grants {s : State} {n : ℕ} {g : Graph} (h : Canon s) :
    OnSome Canon (s.grants n g) := OnSome.ite trivial (bind_holds Canon Canon (canon_allocRings h) (fun _ h1 =>
        canon_allocRings h1))

theorem canon_execGraphAdmission {n : ℕ} {s : State} (h : Canon s) : OnNext Canon (execGraphAdmission n s) := by
  unfold execGraphAdmission
  split
  · exact h
  · refine Canon.ite h ?_
    split
    · next q _ heq1 _ =>
        have hq : Canon q := (congrArg (OnSome Canon) heq1).mp (canon_grants h)
        split
        · next q1 heq3 =>
            have hq1 : Canon q1 := (congrArg (OnSnd Canon) heq3).mp (canon_fresh hq)
            extract_lets _ _ q2 q3
            have hq2 : Canon q2 := hq1
            have hq3 : Canon q3 := canon_entryDone hq2
            exact hq3
    · exact h

/-! ### The operations of `Machine/CrossLane` -/

theorem canon_crossOp {f : Fields} {n : ℕ → ℕ} {g : Sheaf → Bool → Seg → ℕ → LaneOut} {is : Issue} {s : State} (h :
    Canon s) :
    OnResult Canon (crossOp f n g is s) := by
  unfold crossOp
  extract_lets _ _ q
  have hq : Canon q := canon_writeLanes h
  exact OnResult.ite h (canon_modSheaf hq)

theorem canon_execElect {f : Fields} {s : State} (h : Canon s) : OnNext Canon (execElect f s) := by
  unfold execElect
  refine canon_issued (fun _ s1 h1 => ?_) h
  extract_lets
  exact OnResult.ite h1 (canon_writeLanes h1)

/-! ### The operations of `Machine/Weights` -/

theorem canon_modRegion {s : State} {die i : ℕ} {f : Region → Region} (h : Canon s) :
    Canon (s.modRegion die i f) := canon_modDie h

theorem canon_dropRegion {s : State} {die : ℕ} {r : Region} (h : Canon s) :
    Canon (s.dropRegion die r) := canon_modDie h

theorem canon_expireBytes {s : State} {die i : ℕ} (h : Canon s) : Canon (s.expireBytes die i) := by
  unfold State.expireBytes
  extract_lets
  exact Canon.ite (canon_dropRegion h) h

theorem canon_settleRegion {s : State} {die i : ℕ} (h : Canon s) : Canon (s.settleRegion die i) := by
  unfold State.settleRegion
  extract_lets
  split
  · exact h
  · exact Canon.ite (canon_modRegion h) h
  · exact Canon.ite h (canon_modRegion (canon_expireBytes h))
  · exact Canon.ite h (canon_dropRegion (canon_modRegion h))

theorem canon_settleRegions {s : State} {die : ℕ} (h : Canon s) :
    Canon (s.settleRegions die) := each_holds Canon h (fun _ _ h1 => canon_settleRegion h1)

theorem canon_refuseRegion {s : State} {die : ℕ} (h : Canon s) : Canon (s.refuseRegion die) := canon_modDie h

theorem canon_execRegionOpen {die i v : ℕ} {s : State} (h : Canon s) : OnNext Canon (execRegionOpen die i v s) := by
  unfold execRegionOpen
  dsimp only
  split
  · exact canon_refuseRegion h
  · exact Canon.ite (canon_settleRegion (canon_modRegion h)) (canon_modRegion (Canon.ite (canon_expireBytes h) h))

theorem canon_execRegionSeal {die i v : ℕ} {s : State} (h : Canon s) : OnNext Canon (execRegionSeal die i v s) := by
  unfold execRegionSeal
  dsimp only
  split
  · exact canon_refuseRegion h
  · exact canon_settleRegion (canon_modRegion h)

theorem canon_execRegionRelease {die i v : ℕ} {s : State} (h : Canon s) :
    OnNext Canon (execRegionRelease die i v s) := by
  unfold execRegionRelease
  split
  · exact canon_refuseRegion h
  · dsimp only
    split
    · exact canon_modRegion h
    · exact canon_settleRegion (canon_modRegion h)

theorem canon_execRegionDeadline {die i : ℕ} {s : State} (h : Canon s) :
    OnNext Canon (execRegionDeadline die i s) := by
  unfold execRegionDeadline
  dsimp only
  split
  · exact canon_modRegion h
  · exact h

theorem canon_execWeightStoreRefresh {die bank : ℕ} {s : State} (h : Canon s) :
    OnNext Canon (execWeightStoreRefresh die bank s) := by
  unfold execWeightStoreRefresh
  dsimp only
  split <;> exact Canon.ite (canon_modDie h) h

theorem canon_execLdw {f : Fields} {s : State} (h : Canon s) : OnNext Canon (execLdw f s) := by
  unfold execLdw
  refine canon_issued (fun _ s1 h1 => ?_) h
  extract_lets _ _ _ _ bad
  clear_value bad
  split
  · exact h1
  · exact canon_launch h1

theorem canon_landLdwLanes {s : State} {o : ℕ} {f : Fields} (h : Canon s) : Canon (s.landLdwLanes o f) := by
  unfold State.landLdwLanes
  extract_lets
  refine canon_landEach h (fun _ _ s1 h1 => Canon.ite ?_ (canon_landDsts h1))
  extract_lets r
  have hr : OnSnd Canon r := by
    refine foldl_holds (OnSnd Canon) h1 (fun _ x h2 => ?_)
    split
    · next q heq =>
        have hq : Canon q := (congrArg (OnSnd Canon) heq).mp (canon_undef h2)
        exact hq
  exact canon_landDsts hr

theorem canon_landLdw {s : State} {o : ℕ} {op : LongOp} {f : Fields} (h : Canon s) : Canon (s.landLdw o op f) := by
  unfold State.landLdw
  extract_lets
  exact Canon.ite h (canon_settleRegions (canon_landLdwLanes h))

theorem canon_expireLdw {s : State} {o : ℕ} {op : LongOp} {f : Fields} (h : Canon s) :
    Canon (s.expireLdw o op f) := by
  unfold State.expireLdw
  extract_lets _ _ bad q
  have hq : Canon q := canon_settleRegions (canon_landLdwLanes h)
  refine Canon.ite h ?_
  clear_value bad
  split
  · exact h
  · exact canon_lateFault hq

theorem canon_execWstFill {f : Fields} {s : State} (h : Canon s) : OnNext Canon (execWstFill f s) := by
  unfold execWstFill
  refine canon_issued (fun _ s1 h1 => OnResult.ite h1 ?_) h
  extract_lets _ _ _ _ _ _ sub _
  refine OnResult.ite h1 ?_
  split
  · next q heq =>
      have hq : Canon q := (congrArg (OnSnd Canon) heq).mp (canon_fresh h1)
      clear_value sub
      split
      · exact h1
      · exact canon_modDie (canon_modRegion hq)

theorem canon_faultFill {s : State} {die k : ℕ} (h : Canon s) : Canon (s.faultFill die k) := by
  unfold State.faultFill
  split
  · exact h
  · refine Canon.ite h ?_
    split
    · exact h
    · exact Canon.ite h (canon_engineFault (canon_modDie h))

theorem canon_execWeightFillBytesWritten {die k : ℕ} {s : State} (h : Canon s) :
    OnNext Canon (execWeightFillBytesWritten die k s) := by
  unfold execWeightFillBytesWritten
  split
  · exact h
  · refine Canon.ite h ?_
    split
    · exact canon_modDie (canon_engineReplay h)
    · exact h
    · next q heq1 =>
        have hq : Canon q := (congrArg (OnOk (OnSnd (OnSnd Canon))) heq1).mp (canon_engineLoad h)
        exact canon_settleRegion (canon_modDie (canon_modRegion (canon_modDie hq)))

/-! ### The operations of `Machine/Haar` -/

theorem canon_putTile {s : State} {w : ℕ} {t : Tile} {rows : List (List ℕ)} (h : Canon s) :
    Canon (s.putTile w t rows) := each_holds Canon h (fun _ _ h1 => canon_modScratch h1)

theorem canon_putMask {s : State} {w : ℕ} {t : Tile} {l : List Bool} (h : Canon s) :
    Canon (s.putMask w t l) := canon_modScratch h

theorem canon_storeHaar {s : State} {w n : ℕ} {g : BitVec 16} {thr : List (BitVec 16)} {x : List (List ℤ)} (h : Canon
    s) :
    Canon (s.storeHaar w n g thr x) := by
  unfold State.storeHaar
  extract_lets _ _ _ _ q q1
  have hq : Canon q := canon_putTile h
  have hq1 : Canon q1 := canon_putMask hq
  exact canon_modTileN hq1

theorem canon_restoreTile {s : State} {w n : ℕ} {g : BitVec 16} (h : Canon s) : Canon (s.restoreTile w n g) := by
  unfold State.restoreTile
  extract_lets _ _ _ _ _ _ q
  have hq : Canon q := canon_putTile h
  exact canon_modTileN hq

theorem canon_tileJob {s : State} {sid w n : ℕ} {kind : JobKind} {tag : BitVec 16} (h : Canon s) :
    Canon (s.tileJob sid w n kind tag) := canon_modTileN (canon_pushJob h)

theorem canon_forceTile {is : Issue} {s : State} {w n : ℕ} (h : Canon s) :
    OnResult Canon (is.forceTile s w n) := OnResult.ite (canon_waits (canon_tileJob h)) (canon_waits h)

theorem canon_endTileJob {s : State} {w n : ℕ} (h : Canon s) : Canon (s.endTileJob w n) := canon_modTileN h

theorem canon_runSth {s : State} {j : Job} (h : Canon s) : Canon (s.runSth j) := by
  unfold State.runSth
  extract_lets _ _ q q1
  have hq : Canon q := Canon.ite (canon_storeHaar h) (canon_putTile h)
  have hq1 : Canon q1 := canon_endTileJob hq
  exact Canon.ite hq1 (canon_useTile hq1)

theorem canon_writeResult {s : State} {j : Job} {rows : List (ℕ × List Word)} {sat : BitVec 64} (h : Canon s) :
    Canon (s.writeResult j rows sat) := canon_writeRows h

theorem canon_runAccJob {s : State} {j : Job} (h : Canon s) : Canon (s.runAccJob j) := by
  unfold State.runAccJob
  extract_lets
  exact canon_writeResult h

theorem canon_runAccGroup {s : State} {j : Job} (h : Canon s) : OnSnd Canon (s.runAccGroup j) := by
  unfold State.runAccGroup
  split
  exact canon_writeResult h

theorem canon_runTileJob {s : State} {j : Job} (h : Canon s) : Canon (s.runTileJob j) := by
  unfold State.runTileJob
  split
  · exact canon_runSth h
  · extract_lets
    exact canon_endTileJob (canon_putMask h)
  · exact canon_endTileJob (canon_restoreTile h)

theorem canon_stillFilling {s : State} {core : ℕ} {j : Job} (h : Canon s) :
    Canon (s.stillFilling core j) := Canon.ite (canon_modTileN h) h

theorem canon_execLiftJob {core : ℕ} {s : State} (h : Canon s) : OnNext Canon (execLiftJob core s) := by
  unfold execLiftJob
  split
  · exact h
  · refine Canon.ite (Canon.ite ?_ ?_) h
    · split
      · next q heq1 =>
          have hq : Canon q := (congrArg (OnSnd Canon) heq1).mp (canon_runAccGroup h)
          exact canon_modCore hq
    · extract_lets q
      have hq : Canon q := canon_modCore h
      exact Canon.ite (canon_runAccJob hq) (canon_stillFilling (canon_runTileJob hq))

theorem canon_execSth {f : Fields} {s : State} (h : Canon s) : OnNext Canon (execSth f s) := by
  unfold execSth
  refine canon_issued (fun _ s1 h1 => ?_) h
  extract_lets
  refine OnResult.ite h1 (canon_tileOp (fun _ _ _ _ s2 h2 => OnResult.ite (canon_waits h2) ?_) h1)
  split
  · next x1 heq =>
      have hx1 : OnResult Canon x1 := (congrArg (OnSome (OnResult Canon)) heq).mp (OnSome.ite trivial
          (canon_untilReady h2))
      exact hx1
  · refine OnResult.ite h2 ?_
    extract_lets _ _ q
    have hq : Canon q := Canon.ite h2 (Canon.ite (canon_accJob h2) (canon_tileJob h2))
    refine OnResult.ite (canon_waits h2) ?_
    split
    · next q1 heq1 =>
        have hq1 : Canon q1 := (congrArg (OnSnd Canon) heq1).mp (canon_fresh hq)
        extract_lets q2 q3
        have hq2 : Canon q2 := canon_pushJob hq1
        have hq3 : Canon q3 := canon_modTileN hq2
        exact Canon.ite (canon_readRows hq3) (canon_useTile hq3)

theorem canon_execHfwd {f : Fields} {s : State} (h : Canon s) : OnNext Canon (execHfwd f s) := by
  unfold execHfwd
  refine canon_issued (fun _ s1 h1 => ?_) h
  extract_lets
  refine canon_accOp (fun _ _ _ _ s2 h2 => ?_) h1
  extract_lets _ _ _ q
  have hq : Canon q := Canon.ite h2 (canon_accJob h2)
  exact OnResult.ite h2 (OnResult.ite (canon_waits h2) (canon_accJob hq))

theorem canon_execHinv {f : Fields} {s : State} (h : Canon s) : OnNext Canon (execHinv f s) := by
  unfold execHinv
  refine canon_issued (fun _ s1 h1 => ?_) h
  extract_lets
  refine OnResult.ite (canon_accOp (fun _ _ _ _ s2 h2 => OnResult.ite h2 (OnResult.ite (canon_waits h2) (canon_accJob
      h2))) h1) (canon_tileOp (fun _ _ _ _ s2 h2 => ?_) h1)
  split
  · next x1 heq =>
      have hx1 : OnResult Canon x1 := (congrArg (OnSome (OnResult Canon)) heq).mp (canon_untilReady h2)
      exact hx1
  · exact OnResult.ite (canon_waits h2) (OnResult.ite h2 (OnResult.ite (canon_waits h2) (canon_tileJob h2)))

theorem canon_execThset {f : Fields} {s : State} (h : Canon s) : OnNext Canon (execThset f s) := by
  unfold execThset
  refine canon_issued (fun _ s1 h1 => ?_) h
  extract_lets
  exact OnResult.ite h1 (OnResult.ite h1 (OnResult.ite h1 (canon_modWg h1)))

theorem canon_execThget {f : Fields} {s : State} (h : Canon s) : OnNext Canon (execThget f s) := by
  unfold execThget
  refine canon_issued (fun _ s1 h1 => ?_) h
  extract_lets
  exact OnResult.ite h1 (canon_writeLanes h1)

theorem canon_execHbias {f : Fields} {s : State} (h : Canon s) : OnNext Canon (execHbias f s) := by
  unfold execHbias
  refine canon_issued (fun _ s1 h1 => ?_) h
  extract_lets
  refine canon_accOp (fun _ _ _ _ s2 h2 => ?_) h1
  extract_lets
  split
  · exact OnResult.ite (canon_waits h2) h2
  · refine OnResult.ite ?_ (OnResult.ite (canon_waits h2) (canon_modAcc h2))
    split
    · exact canon_waits h2
    · next q heq1 =>
        have hq : Canon q := (congrArg (OnSome Canon) heq1).mp (canon_forceAcc h2)
        exact canon_waits (canon_modSheaf (canon_modAcc (canon_launch hq)))

theorem canon_landHbias {s : State} {o : ℕ} {op : LongOp} {f : Fields} (h : Canon s) :
    Canon (s.landHbias o op f) := by
  unfold State.landHbias
  extract_lets
  exact Canon.ite (canon_completeOp (canon_readRows (canon_modAcc h))) h

theorem canon_maskRead {f : Fields} {spatial : Bool} {bit : ℕ → Bool} {n : ℕ} {is : Issue} {s : State} (h : Canon s) :
    OnResult Canon (maskRead f spatial bit n is s) := OnResult.ite h (canon_writeLanes h)

theorem canon_execHmask {f : Fields} {s : State} (h : Canon s) : OnNext Canon (execHmask f s) := by
  unfold execHmask
  refine canon_issued (fun _ s1 h1 => ?_) h
  extract_lets
  refine OnResult.ite (canon_accOp (fun _ _ _ _ s2 h2 => OnResult.ite (OnResult.ite h2 (OnResult.ite (canon_waits h2)
      (canon_accJob h2))) (OnResult.ite (canon_waits h2) (canon_maskRead h2))) h1) (canon_tileOp (fun _ _ _ _ s2 h2
      => ?_) h1)
  split
  · next x1 heq =>
      have hx1 : OnResult Canon x1 := (congrArg (OnSome (OnResult Canon)) heq).mp (canon_untilReady h2)
      exact hx1
  · exact OnResult.ite (OnResult.ite h2 (OnResult.ite (canon_waits h2) (canon_tileJob h2))) (canon_maskRead h2)

/-! ### The operations of `Machine/Matrix` -/

theorem canon_mergeRows {old new : List (List Word)} {s : State} (h : Canon s) :
    OnSnd Canon (mergeRows old new s) := by
  unfold mergeRows
  refine foldl_holds (OnSnd Canon) h (fun _ x h1 => ?_)
  split
  · next q heq =>
      have hq : Canon q := (congrArg (OnSnd Canon) heq).mp (canon_mergeWords h1)
      exact hq

theorem canon_mergeBits {old new : List Bool} {s : State} (h : Canon s) : OnSnd Canon (mergeBits old new s) := by
  unfold mergeBits
  refine foldl_holds (OnSnd Canon) h (fun _ x h1 => ?_)
  extract_lets
  refine OnSnd.ite h1 ?_
  split
  · next q heq =>
      have hq : Canon q := (congrArg (OnSnd Canon) heq).mp (canon_flip h1)
      exact hq

theorem canon_look {s : State} {w : ℕ} {x : MatSrc} (h : Canon s) : OnSnd Canon (s.look w x) := by
  unfold State.look
  split
  · split
    · next q heq =>
        have hq : Canon q := (congrArg (OnSnd Canon) heq).mp (canon_mergeRows h)
        exact hq
  · exact h

theorem canon_letTile {s : State} {w : ℕ} {x : MatSrc} (h : Canon s) : OnSnd Canon (s.letTile w x) := by
  unfold State.letTile
  split
  · exact h
  · exact canon_useTile h
  · exact h

theorem canon_rowsOf {s : State} {m : MatOp} {rows : List ℕ} (h : Canon s) : OnSnd Canon (s.rowsOf m rows) := by
  unfold State.rowsOf
  split <;> exact h

theorem canon_lookTiles {s : State} {m : MatOp} (h : Canon s) : OnSnd Canon (s.lookTiles m) := by
  unfold State.lookTiles
  split
  · next q heq =>
      have hq : Canon q := by
        refine (congrArg (OnSnd Canon) heq).mp ?_
        split
        · exact canon_mergeBits h
        · exact h
      split
      · next q1 heq1 =>
          have hq1 : Canon q1 := (congrArg (OnSnd Canon) heq1).mp (canon_look hq)
          split
          · next q2 heq2 =>
              have hq2 : Canon q2 := (congrArg (OnSnd Canon) heq2).mp (canon_look hq1)
              exact hq2

theorem canon_endReads {s : State} {m : MatOp} (h : Canon s) : OnSnd Canon (s.endReads m) := by
  unfold State.endReads
  split
  · next q heq =>
      have hq : Canon q := (congrArg (OnSnd Canon) heq).mp (canon_letTile h)
      split
      · next q1 heq1 =>
          have hq1 : Canon q1 := (congrArg (OnSnd Canon) heq1).mp (canon_letTile hq)
          exact hq1

theorem canon_readOperands {s : State} {m : MatOp} (h : Canon s) : OnSnd Canon (s.readOperands m) := by
  unfold State.readOperands
  extract_lets
  split
  · next q heq =>
      have hq : Canon q := (congrArg (OnSnd Canon) heq).mp (canon_lookTiles h)
      split
      · next q1 heq1 =>
          have hq1 : Canon q1 := (congrArg (OnSnd Canon) heq1).mp (canon_rowsOf hq)
          exact canon_endReads hq1

theorem canon_undefRow {s : State} (h : Canon s) : OnSnd Canon s.undefRow := by
  unfold State.undefRow
  refine foldl_holds (OnSnd Canon) h (fun _ x h1 => ?_)
  split
  · next q heq =>
      have hq : Canon q := (congrArg (OnSnd Canon) heq).mp (canon_undef h1)
      exact hq

theorem canon_modEngine {s : State} {pod eng : ℕ} {f : List MatOp → List MatOp} (h : Canon s) :
    Canon (s.modEngine pod eng f) := canon_modPod h

theorem canon_rowGroup {s : State} {m : MatOp} (h : Canon s) : OnSnd Canon (s.rowGroup m) := by
  unfold State.rowGroup
  extract_lets
  split
  · next q heq =>
      have hq : Canon q := (congrArg (OnSnd Canon) heq).mp (canon_lookTiles h)
      split
      · next q1 heq1 =>
          have hq1 : Canon q1 := (congrArg (OnSnd Canon) heq1).mp (canon_rowsOf hq)
          extract_lets _ _ r _ q2
          have hr : OnSnd Canon r := by
            refine foldl_holds (OnSnd Canon) hq1 (fun _ x4 h1 => ?_)
            split
            · next q3 heq2 =>
                have hq3 : Canon q3 := (congrArg (OnSnd Canon) heq2).mp (OnSnd.ite (canon_undefRow h1) h1)
                exact hq3
          have hq2 : Canon q2 := canon_writeRows hr
          split
          · next q3 heq2 =>
              have hq3 : Canon q3 := (congrArg (OnSnd Canon) heq2).mp (OnSnd.ite (canon_endReads hq2) hq2)
              exact hq3

theorem canon_execMatrixRowGroup {pod eng : ℕ} {s : State} (h : Canon s) :
    OnNext Canon (execMatrixRowGroup pod eng s) := by
  unfold execMatrixRowGroup
  split
  · exact h
  · refine Canon.ite ?_ h
    extract_lets die
    split
    · next q heq1 =>
        have hq : Canon q := (congrArg (OnSnd Canon) heq1).mp (canon_rowGroup h)
        extract_lets q1
        have hq1 : Canon q1 := canon_modEngine hq
        clear_value die
        split
        · exact canon_settleRegions hq1
        · exact hq1

theorem canon_execMatrixOperationComplete {pod eng : ℕ} {s : State} (h : Canon s) :
    OnNext Canon (execMatrixOperationComplete pod eng s) := by
  unfold execMatrixOperationComplete
  split
  · exact h
  · exact Canon.ite (canon_completeOp (canon_modAcc (canon_modEngine h))) h

theorem canon_expireMat {s : State} {o : ℕ} (h : Canon s) : Canon (s.expireMat o) := by
  unfold State.expireMat
  extract_lets _ _ q
  have hq : Canon q := h
  split
  · exact h
  · split
    · exact h
    · exact canon_lateFaultAt hq

theorem canon_execRetentionExpiredFault {o : ℕ} {s : State} (h : Canon s) :
    OnNext Canon (execRetentionExpiredFault o s) := by
  unfold execRetentionExpiredFault
  split
  · exact canon_expireMat h
  · split
    · exact canon_expireLdw h
    · exact canon_expireMat h

theorem canon_operandTile {is : Issue} {s : State} {w n fmt k : ℕ} (h : Canon s) :
    OnSome (OnResult Canon) (is.operandTile s w n fmt k) := by
  unfold Issue.operandTile
  split
  · next x1 heq =>
      have hx1 : OnResult Canon x1 := (congrArg (OnSome (OnResult Canon)) heq).mp (canon_untilReady h)
      exact hx1
  · exact OnSome.ite trivial h

theorem canon_acceptMat {is : Issue} {s : State} {i : Instr} {m : MatFields} {f : Fields} {tag : BitVec 16} {off : ℕ}
    (h : Canon s) :
    OnResult Canon (is.acceptMat s i m f tag off) := by
  unfold Issue.acceptMat
  extract_lets _ _ _ _ q1 _ q2 q3 q4 q5 q6
  have hq1 : Canon q1 := each_holds Canon h (fun _ _ h1 => canon_spoil h1)
  have hq2 : Canon q2 := canon_launch hq1
  have hq3 : Canon q3 := each_holds Canon hq2 (fun _ _ h1 => canon_modSheaf h1)
  have hq4 : Canon q4 := Canon.ite (canon_useTile hq3) hq3
  have hq5 : Canon q5 := Canon.ite (canon_useTile hq4) hq4
  have hq6 : Canon q6 := canon_modAcc hq5
  exact canon_modEngine hq6

theorem canon_matrixOp {i : Instr} {kind : ℕ} {f : Fields} {is : Issue} {s : State} (h : Canon s) :
    OnResult Canon (matrixOp i kind f is s) := by
  unfold matrixOp
  extract_lets _ _ _ _ _ _ ta tb _ _ _ _ _ _ _
  have hta : OnSome (OnResult Canon) ta := OnSome.ite (canon_operandTile h) trivial
  have htb : OnSome (OnResult Canon) tb := OnSome.ite (canon_operandTile h) trivial
  refine OnResult.ite (canon_launch h) (OnResult.ite h (OnResult.ite h ?_))
  split
  · exact h
  · split
    · next x2 heq1 =>
        have hx2 : OnResult Canon x2 := (congrArg (OnSome (OnResult Canon)) heq1).mp (or_holds (OnResult Canon) hta
            htb)
        exact hx2
    · refine OnResult.ite (canon_forceTile h) (OnResult.ite (canon_forceTile h) (OnResult.ite (canon_waits h)
        (OnResult.ite (canon_waits h) ?_)))
      split
      · exact canon_waits h
      · next q heq2 =>
          have hq : Canon q := (congrArg (OnSome Canon) heq2).mp (OnSome.ite (canon_forceAcc h) (OnSome.ite h
              trivial))
          exact canon_acceptMat hq

theorem canon_execMopRdy {f : Fields} {s : State} (h : Canon s) : OnNext Canon (execMopRdy f s) := by
  unfold execMopRdy
  refine canon_issued (fun _ s1 h1 => OnResult.ite h1 ?_) h
  extract_lets
  exact OnResult.ite (OnResult.ite (canon_waits h1) h1) (OnResult.ite (canon_waits h1) (canon_modSheaf h1))

theorem canon_execMatrixSpanFault {sid : ℕ} {s : State} (h : Canon s) : OnNext Canon (execMatrixSpanFault sid s) := by
  unfold execMatrixSpanFault
  split
  · exact Canon.ite (canon_fault h) h
  · exact h

/-! ### The operations of `Machine/Clause` -/

theorem canon_fetchPage {s : State} {core ctx va : ℕ} {priv : Bool} (h : Canon s) :
    OnSnd Canon (s.fetchPage core ctx va priv) := by
  unfold State.fetchPage
  split
  · next q heq =>
      have hq : Canon q := (congrArg (OnSnd Canon) heq).mp (canon_place h)
      exact hq
  · next q heq =>
      have hq : Canon q := (congrArg (OnSnd Canon) heq).mp (canon_place h)
      exact hq
  · next q heq =>
      have hq : Canon q := (congrArg (OnSnd Canon) heq).mp (canon_place h)
      exact hq
  · next q heq =>
      have hq : Canon q := (congrArg (OnSnd Canon) heq).mp (canon_place h)
      exact OnSnd.ite hq (OnSnd.ite hq hq)

theorem canon_fetchWords {s : State} {core ctx : ℕ} {priv : Bool} {cut : Option ℕ} {n va : ℕ} (h : Canon s) :
    OnSnd Canon (s.fetchWords core ctx priv cut n va) := by
  induction n generalizing va s with
  | zero => exact h
  | succ n ih =>
    unfold State.fetchWords
    have hpage := canon_fetchPage (core := core) (ctx := ctx) (va := va) (priv := priv) h
    split
    · next q heq => exact (congrArg (OnSnd Canon) heq).mp hpage
    · next q heq =>
        have hq : Canon q := (congrArg (OnSnd Canon) heq).mp hpage
        split
        · exact hq
        · have hrest := ih (va := va + 8) hq
          split
          · next heq => exact (congrArg (OnSnd Canon) heq).mp hrest
          · next heq => exact (congrArg (OnSnd Canon) heq).mp hrest

theorem canon_fetch {s : State} {core ctx : ℕ} {va : BitVec 64} {priv : Bool} (h : Canon s) :
    OnSnd Canon (s.fetch core ctx va priv) := by
  unfold State.fetch
  split
  · next q heq =>
      have hq : Canon q := (congrArg (OnSnd Canon) heq).mp (canon_fetchPage h)
      exact hq
  · next q heq =>
      have hq : Canon q := (congrArg (OnSnd Canon) heq).mp (canon_fetchPage h)
      extract_lets
      split
      · next q1 heq1 =>
          have hq1 : Canon q1 := by
            refine (congrArg (OnSnd Canon) heq1).mp ?_
            refine OnSnd.ite hq ?_
            split
            · next q2 heq2 =>
                have hq2 : Canon q2 := (congrArg (OnSnd Canon) heq2).mp (canon_pick hq)
                exact hq2
          split
          · exact hq1
          · split
            · next q2 heq3 =>
                have hq2 : Canon q2 := (congrArg (OnSnd Canon) heq3).mp (canon_fetchWords hq1)
                exact hq2
            · next q2 heq3 =>
                have hq2 : Canon q2 := (congrArg (OnSnd Canon) heq3).mp (canon_fetchWords hq1)
                exact hq2

theorem canon_candidate {s : State} {sid key : ℕ} (h : Canon s) : OnSnd Canon (s.candidate sid key) := by
  unfold State.candidate
  extract_lets
  split
  · next q heq =>
      have hq : Canon q := (congrArg (OnSnd Canon) heq).mp (canon_fetch h)
      exact hq
  · next q heq =>
      have hq : Canon q := (congrArg (OnSnd Canon) heq).mp (canon_fetch h)
      extract_lets _ _ _ q1
      have hq1 : Canon q1 := canon_modSheaf hq
      split
      · exact hq
      · exact OnSnd.ite hq1 hq1

theorem canon_candidates {s : State} {sid : ℕ} (h : Canon s) : OnSnd Canon (s.candidates sid) := by
  unfold State.candidates
  refine foldl_holds (OnSnd Canon) h (fun _ x h1 => ?_)
  split
  · next q heq =>
      have hq : Canon q := (congrArg (OnSnd Canon) heq).mp (canon_candidate h1)
      exact hq

theorem canon_wakeResumed {s : State} {sid : ℕ} (h : Canon s) :
    Canon (s.wakeResumed sid) := Canon.ite h (canon_modSheaf h)

theorem canon_trySheaf {s : State} {sid : ℕ} (h : Canon s) : OnSnd Canon (s.trySheaf sid) := by
  unfold State.trySheaf
  extract_lets q _
  have hq : Canon q := canon_wakeResumed h
  refine OnSnd.ite hq ?_
  split
  · next q1 heq =>
      have hq1 : Canon q1 := (congrArg (OnSnd Canon) heq).mp (canon_candidates hq)
      split
      · exact hq1
      · extract_lets q2 _
        have hq2 : Canon q2 := canon_modSheaf hq1
        split
        · exact canon_modSheaf hq2
        · exact OnSnd.ite (canon_replayFault (canon_modSheaf hq2)) (canon_fault hq2)

theorem canon_setCurrent {s : State} {sid : ℕ} (h : Canon s) :
    Canon (s.setCurrent sid) := Canon.ite h (canon_modSheaf (canon_modCore h))

theorem canon_breakRun {s : State} {sid : ℕ} (h : Canon s) : Canon (s.breakRun sid) := Canon.ite (canon_modCore h) h

theorem canon_select {l : List ℕ} {s : State} (h : Canon s) : OnSnd Canon (State.select l s) := by
  induction l generalizing s with
  | nil => exact h
  | cons sid l ih =>
    unfold State.select
    refine OnSnd.ite (OnSnd.ite h (canon_setCurrent h)) ?_
    split
    · next q heq =>
        have hq : Canon q := (congrArg (OnSnd Canon) heq).mp (canon_trySheaf h)
        exact canon_setCurrent hq
    · next q heq =>
        have hq : Canon q := (congrArg (OnSnd Canon) heq).mp (canon_trySheaf h)
        exact ih (canon_breakRun hq)

theorem canon_limitRun {s : State} {c : ℕ} (h : Canon s) : Canon (s.limitRun c) := by
  unfold State.limitRun
  split
  · exact h
  · exact Canon.ite (canon_modCore (canon_modSheaf h)) h

theorem canon_chooseSheaf {s : State} {c : ℕ} (h : Canon s) :
    OnSnd Canon (s.chooseSheaf c) := canon_select (canon_limitRun h)

theorem canon_execClauseStart {core : ℕ} {s : State} (h : Canon s) : OnNext Canon (execClauseStart core s) := by
  unfold execClauseStart
  dsimp only
  split
  · exact Canon.ite (canon_limitRun h) (canon_select (canon_limitRun h))
  · exact canon_select (canon_limitRun h)

theorem canon_execSchedulerRunBreak {core : ℕ} {s : State} (h : Canon s) :
    OnNext Canon (execSchedulerRunBreak core s) := by
  unfold execSchedulerRunBreak
  split
  · exact canon_chooseSheaf h
  · refine Canon.ite h ?_
    split
    · next q heq1 =>
        have hq : Canon q := (congrArg (OnSnd Canon) heq1).mp (canon_trySheaf h)
        exact hq
    · next q heq1 =>
        have hq : Canon q := (congrArg (OnSnd Canon) heq1).mp (canon_trySheaf h)
        exact canon_chooseSheaf (canon_modCore hq)

theorem canon_execSleepExpiry {sid t : ℕ} {s : State} (h : Canon s) : OnNext Canon (execSleepExpiry sid t s) := by
  unfold execSleepExpiry
  split
  · exact Canon.ite (canon_modSheaf h) h
  · exact h

theorem canon_execCrossLaneWaitRelease {sid : ℕ} {s : State} (h : Canon s) :
    OnNext Canon (execCrossLaneWaitRelease sid s) := by
  unfold execCrossLaneWaitRelease
  split
  · next q heq =>
      have hq : Canon q := (congrArg (OnSnd Canon) heq).mp (canon_candidates h)
      exact each_holds Canon hq (fun _ _ h1 => canon_modSheaf h1)

theorem canon_stampStood {s : State} (h : Canon s) : Canon s.stampStood := h

theorem canon_watch {sid : ℕ} {l : List ℕ} {s : State} (h : Canon s) : Canon (State.watch sid l s) := by
  induction l generalizing s with
  | nil => exact h
  | cons t l ih =>
    unfold State.watch
    extract_lets sh th
    split
    · next q heq => exact ih ((congrArg (OnSnd Canon) heq).mp (canon_fetch h))
    · next q heq =>
        have hq : Canon q := (congrArg (OnSnd Canon) heq).mp (canon_fetch h)
        split
        · exact ih hq
        · exact canon_fault hq

/-! ### The operations of `Machine/Save` -/

theorem canon_takeFrame {s : State} {w : ℕ} (h : Canon s) : OnSome Canon (s.takeFrame w) := by
  unfold State.takeFrame
  extract_lets
  refine OnSome.ite h ?_
  split
  · exact trivial
  · exact canon_modWg (canon_modCtx h)

theorem canon_giveFrame {s : State} {w : ℕ} (h : Canon s) : Canon (s.giveFrame w) := by
  unfold State.giveFrame
  extract_lets
  split
  · exact h
  · exact canon_modWg (canon_modCtx h)

theorem canon_saveImage {s : State} {ctx frame : ℕ} {im : Image} (h : Canon s) :
    Canon (s.saveImage ctx frame im) := each_holds Canon h (fun _ _ h1 => canon_devStore h1)

theorem canon_oweEvict {s : State} {sid : ℕ} (h : Canon s) : Canon (s.oweEvict sid) := canon_modSheaf h

theorem canon_leaveWith {s : State} {w : ℕ} (h : Canon s) : Canon (s.leaveWith w) := by
  unfold State.leaveWith
  refine Canon.ite h ?_
  split
  · exact h
  · split
    · exact h
    · next q heq1 =>
        have hq : Canon q := (congrArg (OnSome Canon) heq1).mp (canon_takeFrame h)
        exact each_holds Canon (canon_modWg hq) (fun _ _ h1 => canon_oweEvict h1)

theorem canon_releaseDead {s : State} {sid : ℕ} {who : List ℕ} (h : Canon s) :
    Canon (s.releaseDead sid who) := each_holds Canon h (fun _ _ h1 => canon_releaseToken h1)

theorem canon_withSheaves {s : State} {l : Tab Sheaf} (h : Canon s) : Canon { s with sheaves := l } := h

theorem canon_evictSheaf {s : State} {sid : ℕ} (h : Canon s) : Canon (s.evictSheaf sid) := by
  unfold State.evictSheaf
  extract_lets s1 sh w g frame s2
  have h2 : Canon s2 := canon_saveImage (canon_releaseDead h)
  clear_value s2
  refine canon_leaveWith (canon_modCore (canon_withSheaves ?_))
  exact canon_saveImage (canon_modWg (canon_fresh h2))

theorem canon_cancelBcasts {s : State} {w : ℕ} (h : Canon s) :
    Canon (s.cancelBcasts w) := canon_modCore (canon_modWg h)

theorem canon_saveWg {s : State} {l : List ℕ} {w : ℕ} (h : Canon s) : Canon (s.saveWg l w) := by
  unfold State.saveWg
  extract_lets q _ _ _ q1 q2 q3
  have hq : Canon q := canon_cancelBcasts h
  have hq1 : Canon q1 := canon_modWg hq
  have hq2 : Canon q2 := canon_saveImage hq1
  have hq3 : Canon q3 := canon_modWg hq2
  exact canon_saveBank hq3

theorem canon_execWorkgroupSave {w : ℕ} {s : State} (h : Canon s) : OnNext Canon (execWorkgroupSave w s) := by
  unfold execWorkgroupSave
  dsimp only
  split
  · split
    · exact h
    · next q heq1 =>
        have hq : Canon q := (congrArg (OnSome Canon) heq1).mp (foldl_holds (OnSome Canon) h (fun _ _ h1 =>
            bind_holds Canon Canon h1 (fun s1 h2 => canon_takeFrame h2)))
        exact each_holds Canon hq (fun _ _ h1 => canon_saveWg h1)
  · exact h

theorem canon_undefThread {s : State} {sid t : ℕ} (h : Canon s) : Canon (s.undefThread sid t) := by
  unfold State.undefThread
  split
  · next q heq =>
      have hq : Canon q := (congrArg (OnSnd Canon) heq).mp (canon_undefs h)
      exact canon_modSheaf hq

theorem canon_undefHead {s : State} {w : ℕ} (h : Canon s) : Canon (s.undefHead w) := by
  unfold State.undefHead
  split
  · next q heq =>
      have hq : Canon q := (congrArg (OnSnd Canon) heq).mp (canon_undefs h)
      exact canon_modWg hq

theorem canon_undefWg {s : State} {w : ℕ} (h : Canon s) : Canon (s.undefWg w) := by
  unfold State.undefWg
  extract_lets _ _ q
  have hq : Canon q := h
  split
  · next q1 heq =>
      have hq1 : Canon q1 := by
        refine (congrArg (OnSnd Canon) heq).mp ?_
        refine foldl_holds (OnSnd Canon) hq (fun _ x2 h1 => ?_)
        split
        · next q2 heq1 =>
            have hq2 : Canon q2 := (congrArg (OnSnd Canon) heq1).mp (canon_undefs h1)
            exact hq2
      exact canon_undefHead (canon_modWg hq1)

theorem canon_undefSheaf {s : State} {sid : ℕ} (h : Canon s) : Canon (s.undefSheaf sid) := by
  unfold State.undefSheaf
  extract_lets q
  have hq : Canon q := each_holds Canon h (fun _ _ h1 => canon_undefThread h1)
  split
  · next q1 heq =>
      have hq1 : Canon q1 := (congrArg (OnSnd Canon) heq).mp (canon_flip hq)
      exact canon_modSheaf hq1

theorem canon_resumeSheaf {s : State} {w idx slot : ℕ} {at_ : ℕ × List ℕ} (h : Canon s) :
    Canon (s.resumeSheaf w idx slot at_) := by
  unfold State.resumeSheaf
  extract_lets
  split
  · exact h
  · extract_lets _ q _ q1 q2 q3
    have hq : Canon q := canon_seat h
    have hq1 : Canon q1 := canon_modSheaf hq
    have hq2 : Canon q2 := canon_modWg hq1
    have hq3 : Canon q3 := Canon.ite hq2 (canon_undefSheaf hq2)
    exact canon_acquired hq3

theorem canon_resumePart {s : State} {w : ℕ} (h : Canon s) : Canon (s.resumePart w) := by
  unfold State.resumePart
  extract_lets _ _ _ q
  have hq : Canon q := Canon.ite h (canon_undefHead h)
  split
  · exact h
  · refine Canon.ite h ?_
    split
    · exact h
    · extract_lets q1
      have hq1 : Canon q1 := canon_resumeSheaf hq
      exact Canon.ite (canon_giveFrame hq1) hq1

theorem canon_restoreWg {s : State} {w c : ℕ} {r : Grant} (h : Canon s) : Canon (s.restoreWg w c r) := by
  unfold State.restoreWg
  extract_lets _ _ q _ q1 _ q2 q3 _
  have hq : Canon q := canon_arriveOn h
  have hq1 : Canon q1 := canon_modWg hq
  have hq2 : Canon q2 := canon_undefWg hq1
  have hq3 : Canon q3 := canon_modTile hq2
  split
  · extract_lets _ q4 q5 q6
    have hq4 : Canon q4 := Canon.ite hq1 (Canon.ite hq3 hq2)
    have hq5 : Canon q5 := each_holds Canon hq4 (fun _ _ h1 => canon_resumeSheaf h1)
    have hq6 : Canon q6 := by
      refine each_holds Canon hq5 (fun _ s1 h1 => ?_)
      split
      · next q7 heq1 =>
          have hq7 : Canon q7 := (congrArg (OnSnd Canon) heq1).mp (canon_fresh h1)
          exact canon_modCore hq7
    exact canon_giveFrame hq6

theorem canon_execWorkgroupResumption {w c : ℕ} {s : State} (h : Canon s) :
    OnNext Canon (execWorkgroupResumption w c s) := by
  unfold execWorkgroupResumption
  split
  · split
    · dsimp only
      split
      · exact Canon.ite (canon_resumePart h) h
      · exact Canon.ite h (canon_restoreWg h)
      · exact h
    · dsimp only
      split
      · exact Canon.ite (canon_resumePart h) h
      · exact h
      · exact h
  · dsimp only
    split
    · exact Canon.ite (canon_resumePart h) h
    · split
      · exact Canon.ite (canon_restoreWg (canon_restoreWg h)) h
      · exact h
    · exact h

/-! ### The operations of `Machine/Board` -/

theorem canon_execPassEntry {n p : ℕ} {s : State} (h : Canon s) : OnNext Canon (execPassEntry n p s) := by
  unfold execPassEntry
  dsimp only
  split
  · exact h
  · exact canon_modPassRun h

theorem canon_releaseTile {s : State} {n p t : ℕ} (h : Canon s) : Canon (s.releaseTile n p t) := by
  unfold State.releaseTile
  extract_lets _ _ q
  have hq : Canon q := canon_modPassRun h
  exact Canon.ite (canon_trail hq) hq

theorem canon_modLaunch {s : State} {k : ℕ} {f : Launch → Launch} (h : Canon s) : Canon (s.modLaunch k f) := h

theorem canon_dispatchFirst {k : ℕ} {l : Tab (ℕ × ℕ × ℕ)} {s : State} (h : Canon s) :
    Canon (State.dispatchFirst k l s) := by
  induction l generalizing s with
  | nil => exact h
  | cons x l ih =>
    unfold State.dispatchFirst
    split
    · next g _ =>
        have hg : Canon { s with graphs := s.graphs.put x.2.1 g } := h
        exact canon_modLaunch (canon_modTile hg)
    · exact ih (canon_modTile h)

theorem canon_modRecs {s : State} {ctx : ℕ} {f : Tab Rec → Tab Rec} (h : Canon s) : Canon (s.modRecs ctx f) := h

theorem canon_setRec {s : State} {ctx : ℕ} {h : BitVec 32} {st : RecState} (h1 : Canon s) :
    Canon (s.setRec ctx h st) := canon_modRecs h1

theorem canon_formBatch {s : State} {n p : ℕ} (h : Canon s) : Canon (s.formBatch n p) := by
  unfold State.formBatch
  refine Canon.ite h ?_
  extract_lets _ _ _ q q1
  have hq : Canon q := canon_modPassRun h
  have hq1 : Canon q1 := each_holds Canon hq (fun _ _ h2 => canon_setRec h2)
  exact canon_modLaunch hq1

theorem canon_formBatches {s : State} {n p : ℕ} (h : Canon s) :
    Canon (s.formBatches n p) := each_holds Canon h (fun _ _ h1 => canon_formBatch h1)

theorem canon_formAll {s : State} {n : ℕ} (h : Canon s) :
    Canon (s.formAll n) := each_holds Canon h (fun _ _ h1 => canon_formBatches h1)

theorem canon_bindIn {s : State} {w : ℕ} {i : Input} {k t : ℕ} (h : Canon s) : Canon (s.bindIn w i k t) := by
  unfold State.bindIn
  extract_lets _ _ _ q1
  have hq1 : Canon q1 := canon_modTileN h
  split
  · next q2 heq =>
      have hq2 : Canon q2 := (congrArg (OnSnd Canon) heq).mp (canon_fresh hq1)
      exact canon_modGraph hq2

theorem canon_bindOut {s : State} {w : ℕ} {e : Edge} (h : Canon s) : Canon (s.bindOut w e) := canon_modTileN h

theorem canon_bindStaging {s : State} {w : ℕ} (h : Canon s) : Canon (s.bindStaging w) := by
  unfold State.bindStaging
  extract_lets _ _ q1
  have hq1 : Canon q1 := by
    refine each_holds Canon h (fun _ s1 h1 => each_holds Canon h1 (fun _ s2 h2 => ?_))
    split
    · exact canon_bindIn h2
    · exact h2
  exact Canon.ite (each_holds Canon hq1 (fun _ _ h1 => canon_bindOut h1)) hq1

theorem canon_newTeam {s : State} {n p t k : ℕ} (h : Canon s) : OnSnd Canon (s.newTeam n p t k) := by
  unfold State.newTeam
  extract_lets
  split
  · next q heq =>
      have hq : Canon q := (congrArg (OnSnd Canon) heq).mp (canon_fresh h)
      split
      · next q1 heq1 =>
          have hq1 : Canon q1 := (congrArg (OnSnd Canon) heq1).mp (canon_fresh hq)
          exact OnSnd.ite hq1 hq1

theorem canon_newBatch {s : State} {n p : ℕ} {h : List (BitVec 32)} {num : ℕ} (h1 : Canon s) :
    OnSnd Canon (s.newBatch n p h num) := by
  unfold State.newBatch
  extract_lets
  split
  · next q heq =>
      have hq : Canon q := (congrArg (OnSnd Canon) heq).mp (canon_fresh h1)
      exact hq

theorem canon_placeTeam {s : State} {ws : List ℕ} (h : Canon s) : OnSome Canon (s.placeTeam ws) := by
  unfold State.placeTeam
  split
  · exact each_holds Canon h (fun _ _ h1 => canon_modWg h1)
  · exact map_holds_of Canon (fun _ => each_holds Canon h (fun _ _ h1 => canon_modWg h1))

theorem canon_placeBatch {s : State} {pods : ℕ} {ok : ℕ → State → Bool} {b : ℕ × ℕ × List (BitVec 32) × ℕ} (h : Canon
    s) :
    OnSome Canon (s.placeBatch pods ok b) := by
  unfold State.placeBatch
  split
  · next q heq =>
      have hq : Canon q := (congrArg (OnSnd Canon) heq).mp (canon_newBatch h)
      exact OnSome.ite (map_holds Canon Canon (canon_placeTeam hq) (fun s1 h1 => canon_modLaunch h1)) trivial

theorem canon_execTeamPlacement {pods : ℕ} {s : State} (h : Canon s) : OnNext Canon (execTeamPlacement pods s) := by
  unfold execTeamPlacement
  split
  · dsimp only
    split
    · next q heq1 =>
        have hq : Canon q := (congrArg (OnSome Canon) heq1).mp (findSome_holds Canon (fun _ => canon_placeBatch h))
        exact hq
    · exact h
  · dsimp only
    split
    · next q heq =>
        have hq : Canon q := (congrArg (OnSome Canon) heq).mp (findSome_holds Canon (fun _ => canon_placeBatch h))
        exact hq
    · split
      · exact getD_holds Canon (canon_placeBatch h) h
      · split
        · exact h
        · split
          · exact h
          · split
            · exact h
            · next q heq4 =>
                have hq : Canon q := (congrArg (OnSome Canon) heq4).mp (canon_placeTeam (canon_newTeam h))
                exact Canon.ite (canon_modLaunch (canon_modTile hq)) (canon_modTile hq)

theorem canon_putBlock {s : State} {w : ℕ} (h : Canon s) : Canon (s.putBlock w) := by
  unfold State.putBlock
  extract_lets
  split
  · exact canon_modScratch h
  · exact h

theorem canon_enter {s : State} {x : Seat} (h : Canon s) : Canon (s.enter x) := by
  unfold State.enter
  extract_lets _ _ q1 q2 q3
  have hq1 : Canon q1 := canon_modWg h
  have hq2 : Canon q2 := canon_modCore (canon_admitWg hq1)
  have hq3 : Canon q3 := canon_putBlock (canon_bindStaging hq2)
  split
  · exact canon_modTile hq3
  · exact hq3

theorem canon_noIncoming {s : State} {ws : List ℕ} (h : Canon s) : Canon (s.noIncoming ws) := h

theorem canon_evictFor {s : State} {w c : ℕ} (h : Canon s) : Canon (s.evictFor w c) := by
  unfold State.evictFor
  refine Canon.ite h ?_
  split
  · exact canon_noIncoming h
  · extract_lets _ _ _ q
    have hq : Canon q := canon_modCore h
    refine Canon.ite hq ?_
    split
    · exact canon_noIncoming hq
    · split
      · exact hq
      · next q1 heq2 =>
          have hq1 : Canon q1 := (congrArg (OnSome Canon) heq2).mp (canon_takeFrame hq)
          exact canon_oweEvict hq1

theorem canon_execWorkgroupAdmission {w : ℕ} {s : State} (h : Canon s) :
    OnNext Canon (execWorkgroupAdmission w s) := by
  unfold execWorkgroupAdmission
  refine Canon.ite h ?_
  split
  · extract_lets _ q q1
    have hq : Canon q := canon_noIncoming (each_holds Canon h (fun _ _ h1 => canon_enter h1))
    have hq1 : Canon q1 := Canon.ite (canon_modLaunch hq) hq
    exact Canon.ite h (Canon.ite (canon_modBase hq1) hq1)
  · refine Canon.ite h ?_
    split
    · exact h
    · exact each_holds Canon h (fun _ _ h1 => canon_evictFor (canon_modWg h1))

theorem canon_startWg {s : State} {w : ℕ} (h : Canon s) :
    Canon (s.startWg w) := canon_acquired (canon_modWg (each_holds Canon h (fun _ _ h1 => canon_modSheaf h1)))

theorem canon_execSheafStart {w : ℕ} {s : State} (h : Canon s) : OnNext Canon (execSheafStart w s) := by
  unfold execSheafStart
  dsimp only
  split <;> exact Canon.ite h (Canon.ite (each_holds Canon h (fun _ s1 h1 => canon_startWg h1)) (canon_modPassRun
      (each_holds Canon h (fun _ s1 h1 => canon_startWg h1))))

theorem canon_execSheafRetire {sid : ℕ} {s : State} (h : Canon s) : OnNext Canon (execSheafRetire sid s) := by
  refine Canon.ite h ?_
  extract_lets s1 s2
  have h2 : Canon s2 := h
  exact canon_modCore h2

/-! ### The operations of `Machine/Pixels` -/

theorem canon_load {g : Gfx} {va n : ℕ} (h : OnGfx Canon g) : OnOk (OnSnd (OnGfx Canon)) (g.load va n) := by
  unfold Gfx.load
  split
  · exact trivial
  · split
    · exact trivial
    · next q heq1 =>
        have hq : Canon q := (congrArg (OnOk (OnSnd (OnSnd Canon))) heq1).mp (canon_engineLoad h)
        exact hq

theorem canon_num {g : Gfx} {va n : ℕ} (h : OnGfx Canon g) :
    OnOk (OnSnd (OnGfx Canon)) (g.num va n) := mapOk_holds (OnSnd (OnGfx Canon)) (OnSnd (OnGfx Canon)) (canon_load h)
        (fun _ h1 => h1)

theorem canon_store {g : Gfx} {va : ℕ} {bs : List Byte} (h : OnGfx Canon g) : OnOk (OnGfx Canon) (g.store va bs) := by
  unfold Gfx.store
  split
  · exact trivial
  · exact mapOk_holds Canon (OnGfx Canon) (canon_engineStore h) (fun s h1 => h1)

theorem canon_gfxFail {s : State} {sid ctx : ℕ} {gen : BitVec 24} {pc : BitVec 64} {e : ℕ × ℕ × Bool} (h : Canon s) :
    Canon (s.gfxFail sid ctx gen pc e) := by
  unfold State.gfxFail
  refine Canon.ite (canon_engineReplay h) (Canon.ite h ?_)
  split
  · next q heq =>
      have hq : Canon q := (congrArg (OnSnd Canon) heq).mp (canon_pick h)
      exact canon_contextFault hq

theorem canon_unit_ {is : Issue} {s : State} {t : ℕ} (h : Canon s) : OnGfx Canon (is.unit_ s t) := h

theorem canon_gfxWait {is : Issue} {s : State} {e : ℕ × ℕ × Bool} (h : Canon s) :
    OnResult Canon (is.gfxWait s e) := canon_gfxFail h

theorem canon_gfxDone {is : Issue} {g : Gfx} (h : OnGfx Canon g) : OnResult Canon (is.gfxDone g) := by
  unfold Issue.gfxDone
  extract_lets
  split
  · exact canon_lateFaultAt h
  · exact h

theorem canon_appendBin {g : Gfx} {r : RasterRec} {id : ℕ} {t : ℕ × ℕ} (h : OnGfx Canon g) :
    OnOk (OnSome (OnGfx Canon)) (appendBin g r id t) := by
  unfold appendBin
  extract_lets
  exact bindOk_holds (OnSnd (OnGfx Canon)) (OnSome (OnGfx Canon)) (canon_num h) (fun p h1 => OnOk.ite trivial
      (bindOk_holds (OnGfx Canon) (OnSome (OnGfx Canon)) (canon_store h1) (fun g1 h2 => mapOk_holds (OnGfx Canon)
      (OnSome (OnGfx Canon)) (canon_store h2) (fun val h3 => h3))))

theorem canon_appendBins {r : RasterRec} {id n : ℕ} {l : List (ℕ × ℕ)} {g : Gfx} (h : OnGfx Canon g) :
    OnOk (OnFst (OnGfx Canon)) (appendBins r id l n g) := by
  induction l generalizing n g with
  | nil => exact h
  | cons t l ih =>
    refine bindOk_holds (OnSome (OnGfx Canon)) (OnFst (OnGfx Canon)) (canon_appendBin h) fun o ho => ?_
    cases o with
    | none => exact h
    | some g => exact ih ho

theorem canon_emitLanes {l : List Emit} {g : Gfx} (h : OnGfx Canon g) :
    OnOk (OnFst (OnGfx Canon)) (emitLanes l g) := by
  induction l generalizing g with
  | nil => exact h
  | cons e l ih =>
    unfold emitLanes
    refine OnOk.ite (mapOk_holds (OnFst (OnGfx Canon)) _ (ih h) fun _ hp => hp) ?_
    refine bindOk_holds (OnGfx Canon) _ (canon_store h) fun g hg => ?_
    refine bindOk_holds (OnFst (OnGfx Canon)) _ (canon_appendBins hg) fun q hq => ?_
    exact OnOk.ite hq (mapOk_holds (OnFst (OnGfx Canon)) _ (ih hq) fun _ hp => hp)

theorem canon_faultLanes {is : Issue} {code : ℕ} {l : List (ℕ × ℕ × ℕ)} {s : State} (h : Canon s) :
    OnSome (OnResult Canon) (is.faultLanes code l s) := by
  unfold Issue.faultLanes
  split
  · exact trivial
  · exact h

theorem canon_execEmitp {f : Fields} {s : State} (h : Canon s) : OnNext Canon (execEmitp f s) := by
  unfold execEmitp
  refine canon_issued (fun _ s1 h1 => ?_) h
  extract_lets
  split
  · next x1 heq =>
      have hx1 : OnResult Canon x1 := (congrArg (OnSome (OnResult Canon)) heq).mp (canon_faultLanes h1)
      exact hx1
  · refine OnResult.ite h1 (canon_inScratch h1 (fun s2 h2 => ?_))
    extract_lets
    split
    · next x2 heq1 =>
        have hx2 : OnResult Canon x2 := (congrArg (OnSome (OnResult Canon)) heq1).mp (canon_faultLanes h2)
        exact hx2
    · split
      · exact canon_gfxWait h2
      · next x3 _ heq2 =>
          have hx3 : OnGfx Canon x3 := (congrArg (OnOk (OnFst (OnGfx Canon))) heq2).mp (canon_emitLanes (canon_unit_
              h2))
          exact canon_gfxDone (canon_writeLanes hx3)
      · next x3 _ _ heq2 =>
          have hx3 : OnGfx Canon x3 := (congrArg (OnOk (OnFst (OnGfx Canon))) heq2).mp (canon_emitLanes (canon_unit_
              h2))
          exact hx3

theorem canon_greatest {r : RasterRec} {l : List (ℕ × ℕ)} {o : Option ℕ} {g : Gfx} (h : OnGfx Canon g) :
    OnOk (OnSnd (OnGfx Canon)) (greatest r l o g) := by
  induction l generalizing o g with
  | nil => exact h
  | cons p l ih => exact bindOk_holds (OnSnd (OnGfx Canon)) _ (canon_num h) fun d hd => ih hd

theorem canon_updateHz {r : RasterRec} {b : ℕ × ℕ} {g : Gfx} (h : OnGfx Canon g) :
    OnOk (OnGfx Canon) (updateHz r b g) := by
  unfold updateHz
  refine bindOk_holds (OnSnd (OnGfx Canon)) (OnGfx Canon) (canon_greatest h) (fun p h1 => ?_)
  split
  · exact h1
  · exact canon_store h1

theorem canon_rejects {w : Walk} {p : Prim} {b : ℕ × ℕ} {g : Gfx} (h : OnGfx Canon g) :
    OnOk (OnSnd (OnGfx Canon)) (w.rejects p b g) := by
  unfold Walk.rejects
  refine OnOk.ite h (mapOk_holds (OnSnd (OnGfx Canon)) (OnSnd (OnGfx Canon)) (canon_num h) (fun h1 h2 => ?_))
  extract_lets
  exact h2

theorem canon_passes {w : Walk} {p : Prim} {x y : ℕ} {g : Gfx} (h : OnGfx Canon g) :
    OnOk (OnSnd (OnGfx Canon)) (w.passes p x y g) := by
  unfold Walk.passes
  refine OnOk.ite h (OnOk.ite h (mapOk_holds (OnSnd (OnGfx Canon)) (OnSnd (OnGfx Canon)) (canon_num h) (fun d h1 =>
      ?_)))
  extract_lets
  exact h1

theorem canon_quadPass {w : Walk} {p : Prim} {q : ℕ × ℕ} {l : List ℕ} {g : Gfx} (h : OnGfx Canon g) :
    OnOk (OnSnd (OnGfx Canon)) (w.quadPass p q l g) := by
  induction l generalizing g with
  | nil => exact h
  | cons i l ih =>
    exact bindOk_holds (OnSnd (OnGfx Canon)) _ (canon_passes h) fun b hb =>
      mapOk_holds (OnSnd (OnGfx Canon)) _ (ih hb) fun _ hr => hr

theorem canon_next {w : Walk} {fuel n : ℕ} {g : Gfx} (h : OnGfx Canon g) :
    OnOk (OnSnd (OnGfx Canon)) (w.next fuel n g) := by
  induction fuel generalizing n g with
  | zero => exact h
  | succ fuel ih =>
    unfold Walk.next
    split
    · exact h
    · refine bindOk_holds (OnSnd (OnGfx Canon)) _ (canon_load h) fun b hb => ?_
      refine bindOk_holds (OnSnd (OnGfx Canon)) _ (OnOk.ite (canon_rejects hb) hb) fun rj hrj => ?_
      refine OnOk.ite (ih hrj) (bindOk_holds (OnSnd (OnGfx Canon)) _ (canon_quadPass hrj) fun c hc => ?_)
      refine OnOk.ite hc (bindOk_holds (OnGfx Canon) _ (OnOk.ite (canon_updateHz hc) hc) fun g hg => ih hg)

theorem canon_commit {w : Walk} {n : ℕ} {p : Prim} {c : List Bool} {g : Gfx} (h : OnGfx Canon g) :
    OnOk (OnGfx Canon) (w.commit n p c g) := OnOk.ite h (bindOk_holds (OnGfx Canon) (OnGfx Canon) (foldl_holds (OnOk
        (OnGfx Canon)) h (fun _ _ h1 => OnOk.ite (bindOk_holds (OnGfx Canon) (OnGfx Canon) h1 (fun _ h2 =>
        canon_store h2)) h1)) (fun _ h1 => OnOk.ite (canon_updateHz h1) h1))

theorem canon_take {b : Batch} {w : Walk} (h : OnBatch Canon b) : OnOk (OnFst (OnBatch Canon)) (b.take w) := by
  unfold Batch.take
  refine bindOk_holds (OnSnd (OnGfx Canon)) (OnFst (OnBatch Canon)) (canon_next h) (fun r h1 => ?_)
  split
  · exact h1
  · extract_lets
    exact OnOk.ite h1 (mapOk_holds (OnGfx Canon) (OnFst (OnBatch Canon)) (canon_commit h1) (fun g h2 => h2))

theorem canon_fill {w : Walk} {n : ℕ} {b : Batch} (h : OnBatch Canon b) : OnOk (OnBatch Canon) (Batch.fill w n b) :=
    by
  induction n generalizing b with
  | zero => exact h
  | succ n ih =>
    exact bindOk_holds (OnFst (OnBatch Canon)) _ (canon_take h) fun r hr => OnOk.ite (ih hr) hr

theorem canon_ahead {b : Batch} {w : Walk} (h : OnBatch Canon b) : OnOk (OnFst (OnBatch Canon)) (b.ahead w) := by
  unfold Batch.ahead
  refine mapOk_holds (OnSnd (OnGfx Canon)) (OnFst (OnBatch Canon)) (canon_next h) (fun r h1 => ?_)
  split <;> exact h1

theorem canon_openStream {bytes : List Byte} {x y : ℕ} {g : Gfx} (h : OnGfx Canon g) :
    OnOk (OnSnd (OnGfx Canon)) (openStream bytes x y g) := by
  unfold openStream
  refine OnOk.ite h (bindOk_holds (OnSnd (OnGfx Canon)) (OnSnd (OnGfx Canon)) (canon_num h) (fun c h1 => ?_))
  extract_lets
  exact mapOk_holds (OnSnd (OnGfx Canon)) (OnSnd (OnGfx Canon)) (canon_load h1) (fun b h2 => h2)

theorem canon_covWrite {s : State} {is : Issue} {f : Fields} {segs : List (ℕ × Quad)} {done : Bool} (h : Canon s) :
    Canon (s.covWrite is f segs done) := by
  unfold State.covWrite
  extract_lets _ _ _ _ q
  have hq : Canon q := canon_writeLanes h
  exact canon_modSheaf hq

theorem canon_covTile {is : Issue} {f : Fields} {bytes : List Byte} {tr : TileRun} {s : State} (h : Canon s) :
    OnResult Canon (covTile is f bytes tr s) := by
  unfold covTile
  extract_lets _ _ opened go
  have hopened : OnOk (OnSnd (OnGfx Canon)) opened := by
    unfold opened
    split
    · exact canon_unit_ h
    · exact canon_openStream (canon_unit_ h)
  have hgo : OnOk (OnFst (OnBatch Canon)) go := by
    refine bindOk_holds (OnSnd (OnGfx Canon)) (OnFst (OnBatch Canon)) hopened (fun o h1 => ?_)
    extract_lets
    exact bindOk_holds (OnBatch Canon) (OnFst (OnBatch Canon)) (canon_fill h1) (fun b h2 => mapOk_holds (OnFst
        (OnBatch Canon)) (OnFst (OnBatch Canon)) (canon_ahead h2) (fun e h3 => h3))
  clear_value go
  split
  · exact canon_gfxWait h
  · exact h
  · exact canon_gfxDone (canon_covWrite (canon_modTile hgo))

theorem canon_execCov {f : Fields} {s : State} (h : Canon s) : OnNext Canon (execCov f s) := by
  unfold execCov
  refine canon_issued (fun _ s1 h1 => OnResult.ite h1 ?_) h
  extract_lets
  split
  · exact h1
  · refine OnResult.ite h1 (canon_inScratch h1 (fun s2 h2 => ?_))
    extract_lets _ q _
    have hq : Canon q := each_holds Canon h2 (fun _ _ h3 => canon_releaseToken h3)
    refine OnResult.ite h2 ?_
    split
    · exact canon_covTile hq
    · exact canon_covWrite hq

theorem canon_lateHz {st : Stream} {x y : ℕ} {g : Gfx} (h : OnGfx Canon g) :
    OnOk (OnGfx Canon) (lateHz st x y g) := OnOk.ite h (foldl_holds (OnOk (OnGfx Canon)) h (fun _ _ h1 =>
        bindOk_holds (OnGfx Canon) (OnGfx Canon) h1 (fun _ h2 => canon_updateHz h2)))

theorem canon_quadDiff {f : Fields} {lo hi : ℕ → ℕ} {is : Issue} {s : State} (h : Canon s) :
    OnResult Canon (quadDiff f lo hi is s) := canon_modSheaf (canon_writeLanes h)

theorem canon_suppress {s : State} {is : Issue} {i : Instr} (h : Canon s) :
    Canon (s.suppress is i) := each_holds Canon h (fun _ _ h1 => canon_releaseToken h1)

theorem canon_execBlend {f : Fields} {s : State} (h : Canon s) : OnNext Canon (execBlend f s) := by
  unfold execBlend
  refine canon_issued (fun _ s1 h1 => ?_) h
  extract_lets q _
  have hq : Canon q := canon_suppress h1
  exact canon_launch hq

theorem canon_blendLane {s : State} {op : LongOp} {l : Lane} {r : RasterRec} {m : ℕ} (h : Canon s) :
    OnOk (OnGfx Canon) (s.blendLane op l r m) := by
  unfold State.blendLane
  extract_lets
  split
  · next q heq =>
      have hq : Canon q := (congrArg (OnSnd Canon) heq).mp (canon_landSrcs h)
      exact bindOk_holds (OnSnd (OnGfx Canon)) (OnGfx Canon) (canon_load hq) (fun p h1 => canon_store h1)

theorem canon_execBlendPerformed {op lane : ℕ} {s : State} (h : Canon s) :
    OnNext Canon (execBlendPerformed op lane s) := by
  unfold execBlendPerformed
  split
  · exact h
  · split
    · dsimp only
      split
      · exact h
      · refine Canon.ite h ?_
        split
        · exact canon_gfxFail h
        · next x9 heq4 =>
            have hx9 : OnGfx Canon x9 := (congrArg (OnOk (OnGfx Canon)) heq4).mp (canon_blendLane h)
            split
            · exact canon_lateFault (Canon.ite (canon_completeOp (canon_modOp (Canon.ite (canon_releaseToken hx9)
                hx9))) (canon_modOp (Canon.ite (canon_releaseToken hx9) hx9)))
            · exact Canon.ite (canon_completeOp (canon_modOp (Canon.ite (canon_releaseToken hx9) hx9))) (canon_modOp
                (Canon.ite (canon_releaseToken hx9) hx9))
    · exact h

/-! ### The operations of `Machine/Texture` -/

theorem canon_texWords {g : Gfx} {n : ℕ} (h : OnGfx Canon g) : OnOk (OnSnd (OnGfx Canon)) (g.texWords n) := by
  unfold Gfx.texWords
  refine OnOk.ite h (mapOk_holds (OnSnd (OnGfx Canon)) (OnSnd (OnGfx Canon)) (canon_load h) (fun p h1 => ?_))
  extract_lets _ __src
  have h__src : OnGfx Canon __src := h1
  exact h__src

theorem canon_sampWords {g : Gfx} {n : ℕ} (h : OnGfx Canon g) : OnOk (OnSnd (OnGfx Canon)) (g.sampWords n) := by
  unfold Gfx.sampWords
  refine OnOk.ite h (mapOk_holds (OnSnd (OnGfx Canon)) (OnSnd (OnGfx Canon)) (canon_load h) (fun p h1 => ?_))
  extract_lets _ __src
  have h__src : OnGfx Canon __src := h1
  exact h__src

theorem canon_texFetch {k : TexKind} {f : Fields} {crd bce : List Word} {t : ℕ} {g : Gfx} (h : OnGfx Canon g) :
    OnOk (OnSnd (OnGfx Canon)) (texFetch k f crd bce t g) := by
  unfold texFetch
  refine bindOk_holds (OnSnd (OnGfx Canon)) (OnSnd (OnGfx Canon)) (canon_texWords h) (fun x h1 => mapOk_holds (OnSnd
      (OnGfx Canon)) (OnSnd (OnGfx Canon)) (OnOk.ite h1 (canon_sampWords h1)) (fun y h2 => ?_))
  split
  · extract_lets
    split
    · next q1 heq2 =>
        have hq1 : Canon q1 := (congrArg (OnSnd Canon) heq2).mp (canon_pick h2)
        exact Canon.ite hq1 h2
  · exact h2

theorem canon_texLane {k : TexKind} {f : Fields} {is : Issue} {sh : Sheaf} {g : Gfx} {t : ℕ} (h : OnGfx Canon g) :
    OnOk (OnSnd (OnGfx Canon)) (texLane k f is sh g t) := mapOk_holds (OnSnd (OnGfx Canon)) (OnSnd (OnGfx Canon))
        (canon_texFetch h) (fun _ h1 => h1)

theorem canon_texLanes {k : TexKind} {f : Fields} {is : Issue} {sh : Sheaf} {l : List ℕ} {g : Gfx} (h : OnGfx Canon
    g) :
    OnOk (OnSnd (OnSnd (OnGfx Canon))) (texLanes k f is sh l g) := by
  induction l generalizing g with
  | nil => exact h
  | cons t l ih =>
    refine bindOk_holds (OnSnd (OnGfx Canon)) _ (canon_texLane h) fun p hp => ?_
    refine mapOk_holds (OnSnd (OnSnd (OnGfx Canon))) _ (ih hp) fun r hr => ?_
    split
    · exact hr
    · exact hr

theorem canon_texOp {i : Instr} {k : TexKind} {f : Fields} {is : Issue} {s : State} (h : Canon s) :
    OnResult Canon (texOp i k f is s) := by
  unfold texOp
  refine OnResult.ite h ?_
  split
  · exact canon_gfxWait h
  · next x3 heq =>
      have hx3 : OnGfx Canon x3 := (congrArg (OnOk (OnSnd (OnSnd (OnGfx Canon)))) heq).mp (canon_texLanes
          (canon_unit_ h))
      split
      · next x5 heq1 =>
          have hx5 : OnResult Canon x5 := (congrArg (OnSome (OnResult Canon)) heq1).mp (canon_faultLanes h)
          exact hx5
      · extract_lets q q1
        have hq : Canon q := canon_launch hx3
        have hq1 : Canon q1 := Canon.ite (canon_modSheaf hq) hq
        exact canon_gfxDone hq1

theorem canon_texel {x : Tex} {y : Samp} {l : ℕ} {i j : ℤ} {g : Gfx} (h : OnGfx Canon g) :
    OnOk (OnSnd (OnGfx Canon)) (x.texel y l i j g) := by
  unfold Tex.texel
  split
  · exact mapOk_holds (OnSnd (OnGfx Canon)) (OnSnd (OnGfx Canon)) (canon_load h) (fun p h1 => h1)
  · exact h

theorem canon_texSum {x : Tex} {y : Samp} {l : List (ℕ × ℤ × ℤ × ℕ)} {acc : List Exact} {g : Gfx}
    (h : OnGfx Canon g) : OnOk (OnSnd (OnGfx Canon)) (texSum x y l acc g) := by
  induction l generalizing acc g with
  | nil => exact h
  | cons t l ih => exact bindOk_holds (OnSnd (OnGfx Canon)) _ (canon_texel h) fun p hp => ih hp

theorem canon_texGather {x : Tex} {y : Samp} {c : ℕ} {l : List (ℕ × ℤ × ℤ × ℕ)} {g : Gfx} (h : OnGfx Canon g) :
    OnOk (OnSnd (OnGfx Canon)) (texGather x y c l g) := by
  induction l generalizing g with
  | nil => exact h
  | cons t l ih =>
    exact bindOk_holds (OnSnd (OnGfx Canon)) _ (canon_texel h) fun p hp =>
      mapOk_holds (OnSnd (OnGfx Canon)) _ (ih hp) fun _ hq => hq

theorem canon_texResult {k : TexKind} {ch : ℕ} {ws : List Word} {g : Gfx} (h : OnGfx Canon g) :
    OnOk (OnSnd (OnGfx Canon)) (texResult k ch ws g) := by
  unfold texResult
  refine OnOk.ite ?_ ?_
  · extract_lets
    exact h
  · extract_lets
    split
    · exact OnOk.ite (canon_texGather h) (mapOk_holds (OnSnd (OnGfx Canon)) (OnSnd (OnGfx Canon)) (canon_texSum h)
        (fun p h1 => h1))
    · exact h

theorem canon_unit_LongOp {op : LongOp} {s : State} (h : Canon s) : OnGfx Canon (op.unit_ s) := h

theorem canon_landGfx {s : State} {o : ℕ} {op : LongOp} {ln : Lane} {d : BitVec 8} {r : EngineTry (List Word × Gfx)}
    (h : Canon s) (h1 : OnOk (OnSnd (OnGfx Canon)) r) :
    Canon (s.landGfx o op ln d r) := by
  unfold State.landGfx
  split
  · exact canon_gfxFail h
  · split
    · next q heq =>
        have hq : Canon q := (congrArg (OnSnd Canon) heq).mp (OnSnd.ite (canon_undefs h1) h1)
        extract_lets q1
        have hq1 : Canon q1 := canon_modOp (canon_landDsts hq)
        split
        · exact canon_lateFault hq1
        · exact hq1

theorem canon_reTex {s : State} {o : ℕ} {op : LongOp} {ln : Lane} {mask : ℕ} {k : TexKind} {f : Fields} (h : Canon s)
    :
    Canon (s.reTex o op ln mask k f) := by
  unfold State.reTex
  extract_lets
  split
  · next x2 heq =>
      have hx2 : OnGfx Canon x2 := (congrArg (OnOk (OnSnd (OnGfx Canon))) heq).mp (canon_texFetch (canon_unit_LongOp
          h))
      exact Canon.ite h (canon_modOp hx2)
  · exact h

theorem canon_landTexture {s : State} {o : ℕ} {op : LongOp} {ln : Lane} (h : Canon s) :
    Canon (s.landTexture o op ln) := by
  unfold State.landTexture
  split
  · next q heq =>
      have hq : Canon q := (congrArg (OnSnd Canon) heq).mp (canon_landSrcs h)
      split
      · exact canon_landGfx h (canon_texResult (canon_unit_LongOp hq))
      · exact canon_landGfx h (canon_texResult (canon_unit_LongOp hq))
      · exact canon_landGfx h (canon_texResult (canon_unit_LongOp hq))
      · exact h

/-! ### The operations of `Machine/Rays` -/

theorem canon_traverse {r : Ray} {fuel : ℕ} {l : List Child} {hit : Option Found} {ovf : Bool} {g : Gfx}
    (h : OnGfx Canon g) : OnOk (OnSnd (OnGfx Canon)) (traverse r fuel l hit ovf g) := by
  induction fuel generalizing l hit ovf g with
  | zero => exact h
  | succ fuel ih =>
    cases l with
    | nil => exact h
    | cons c l =>
      refine OnOk.ite (ih h) (OnOk.ite ?_ ?_)
      · refine bindOk_holds (OnSnd (OnGfx Canon)) _ (canon_load h) fun b hb => OnOk.ite hb ?_
        split
        · exact OnOk.ite hb (ih hb)
        · exact ih hb
      · exact bindOk_holds (OnSnd (OnGfx Canon)) _ (canon_load h) fun b hb => OnOk.ite hb (ih hb)

theorem canon_traceRay {w : List Word} {root flags : ℕ} {g : Gfx} (h : OnGfx Canon g) :
    OnOk (OnSnd (OnGfx Canon)) (traceRay w root flags g) := by
  unfold traceRay
  split
  · exact h
  · exact OnOk.ite h (OnOk.ite h (canon_traverse h))

theorem canon_hitOf {s : State} {x : Traced} {miss : ℕ} (h : Canon s) : OnSnd Canon (s.hitOf x miss) := by
  unfold State.hitOf
  extract_lets
  split
  · exact h
  · split
    · next q heq1 =>
        have hq : Canon q := (congrArg (OnSnd Canon) heq1).mp (canon_undefs h)
        exact hq

theorem canon_landTrace {s : State} {o : ℕ} {op : LongOp} {ln : Lane} {f : Fields} (h : Canon s) :
    Canon (s.landTrace o op ln f) := by
  unfold State.landTrace
  split
  · next q heq =>
      have hq : Canon q := (congrArg (OnSnd Canon) heq).mp (canon_landSrcs h)
      extract_lets
      refine Canon.ite h ?_
      split
      · exact canon_gfxFail h
      · exact h
      · next x4 heq1 =>
          have hx4 : OnGfx Canon x4 := (congrArg (OnOk (OnSnd (OnGfx Canon))) heq1).mp (canon_traceRay
              (canon_unit_LongOp hq))
          split
          · next q1 heq2 =>
              have hq1 : Canon q1 := (congrArg (OnSnd Canon) heq2).mp (canon_hitOf hx4)
              extract_lets q2 q3 q4
              have hq2 : Canon q2 := canon_landDsts hq1
              have hq3 : Canon q3 := Canon.ite (canon_modSheaf hq2) hq2
              have hq4 : Canon q4 := canon_modOp hq3
              split
              · exact canon_lateFault hq4
              · exact hq4

theorem canon_landHit {s : State} {o : ℕ} {op : LongOp} {ln : Lane} {f : Fields} (h : Canon s) :
    Canon (s.landHit o op ln f) := canon_modOp (canon_landDsts h)

/-! ### The operations of `Machine/Special` -/

theorem canon_landCompute {s : State} {o : ℕ} {ln : Lane} (h : Canon s) : Canon (s.landCompute o ln) := by
  unfold State.landCompute
  split
  · exact h
  · split
    · next q heq1 =>
        have hq : Canon q := (congrArg (OnSnd Canon) heq1).mp (canon_landSrcs h)
        split
        · exact hq
        · exact canon_modOp (canon_landDsts hq)

theorem canon_specialOp {i : Instr} {f : Fields} {srcs : List (BitVec 8)} {is : Issue} {s : State} (h : Canon s) :
    OnResult Canon (specialOp i f srcs is s) := OnResult.ite h (canon_longOp (canon_modCore h))

/-! ### The operations of `Machine/Completion` -/

theorem canon_landLane {s : State} {o t : ℕ} (h : Canon s) : Canon (s.landLane o t) := by
  unfold State.landLane
  split
  · exact h
  · split
    · exact h
    · split
      · exact canon_landTexture h
      · exact canon_landTexture h
      · exact canon_landTexture h
      · exact canon_landTrace h
      · exact canon_landHit h
      · exact canon_landCompute h

theorem canon_landLanes {s : State} {o : ℕ} {l : List ℕ} (h : Canon s) : Canon (s.landLanes o l) := by
  induction l generalizing s with
  | nil => exact h
  | cons t l ih =>
    have hs : Canon (s.landLane o t) := canon_landLane h
    unfold State.landLanes
    extract_lets q
    split
    · exact Canon.ite hs (ih hs)
    · exact hs

theorem canon_landAll {s : State} {o : ℕ} {op : LongOp} (h : Canon s) :
    Canon (s.landAll o op) := canon_tryComplete (canon_landLanes h)

theorem canon_splitLane {s : State} {o t : ℕ} (h : Canon s) : Canon (s.splitLane o t) := canon_modOp h

theorem canon_landReg {s : State} {o t i : ℕ} (h : Canon s) : Canon (s.landReg o t i) := by
  unfold State.landReg
  split
  · exact h
  · split
    · exact h
    · exact canon_tryEnd (canon_modOp (Canon.ite (canon_landValues h) h))

theorem canon_modLanes {s : State} {o : ℕ} {f : Lane → Lane} (h : Canon s) : Canon (s.modLanes o f) := canon_modOp h

theorem canon_reForm {s : State} {o : ℕ} {op : LongOp} {l : Lane} {vals : List Word} {tn : Bool} (h : Canon s) :
    Canon (s.reForm o op l vals tn) := by
  unfold State.reForm
  extract_lets
  split
  · extract_lets
    exact Canon.ite h (canon_modCore (canon_modLanes h))
  · extract_lets
    exact Canon.ite h (canon_modCore (canon_modLanes h))
  · extract_lets
    exact Canon.ite h (canon_modCore (canon_modLanes h))
  · extract_lets
    exact Canon.ite h (canon_settleRegions (canon_modLanes h))
  · extract_lets
    exact Canon.ite h (Canon.ite (canon_modLanes h) (Canon.ite (canon_readRows (canon_modLanes h)) h))
  · extract_lets
    exact Canon.ite h (canon_modLanes h)
  · extract_lets
    exact Canon.ite h (canon_modLanes h)
  · split
    · next q heq =>
        have hq : Canon q := (congrArg (OnSnd Canon) heq).mp (canon_place h)
        exact Canon.ite (canon_modLanes hq) h
    · exact h

theorem canon_reAddr {s : State} {o t mask : ℕ} (h : Canon s) : Canon (s.reAddr o t mask) := by
  unfold State.reAddr
  split
  · exact h
  · refine Canon.ite h ?_
    split
    · exact h
    · extract_lets
      split
      · exact canon_reTex h
      · exact canon_reTex h
      · exact canon_reTex h
      · exact canon_reForm h

theorem canon_completeLong {s : State} {o : ℕ} {op : LongOp} (h : Canon s) : Canon (s.completeLong o op) := by
  unfold State.completeLong
  split
  · exact canon_landAccZ h
  · exact canon_landAccCvt h
  · exact canon_landHbias h
  · exact Canon.ite (canon_completeOp h) (canon_landAccRd h)
  · exact Canon.ite (canon_completeOp h) (canon_landAccLd h)
  · exact Canon.ite (canon_completeOp h) (canon_landAccSt h)
  · exact Canon.ite (canon_completeOp h) (canon_landLdw h)
  · exact Canon.ite h (canon_completeOp h)
  · exact Canon.ite h (canon_completeOp h)
  · exact Canon.ite h (canon_completeOp h)
  · exact canon_landAll h
  · exact canon_landAll h
  · exact canon_landAll h
  · exact canon_landAll h
  · exact canon_landAll h
  · exact Canon.ite (canon_completeOp h) (Canon.ite (canon_landAll h) h)

theorem canon_execLongLatencyCompletion {op : ℕ} {s : State} (h : Canon s) :
    OnNext Canon (execLongLatencyCompletion op s) := by
  unfold execLongLatencyCompletion
  split
  · exact canon_completeLong h
  · exact h

/-! ### The operations of `Machine/Traps` -/

theorem canon_execSrd {f : Fields} {s : State} (h : Canon s) : OnNext Canon (execSrd f s) := by
  unfold execSrd
  refine canon_issued (fun _ s1 h1 => ?_) h
  extract_lets _ q
  have hq : Canon q := canon_writeLanes h1
  exact OnResult.ite h1 (Canon.ite (canon_modSheaf hq) hq)

theorem canon_execSwr {f : Fields} {s : State} (h : Canon s) : OnNext Canon (execSwr f s) := by
  unfold execSwr
  refine canon_issued (fun _ s1 h1 => ?_) h
  extract_lets
  exact OnResult.ite h1 (OnResult.ite h1 (OnResult.ite (canon_modSheaf h1) (canon_modSheaf h1)))

theorem canon_execTrap {f : Fields} {s : State} (h : Canon s) : OnNext Canon (execTrap f s) := by
  unfold execTrap
  refine canon_issued (fun _ s1 h1 => OnResult.ite h1 ?_) h
  extract_lets
  refine OnResult.ite h1 (OnResult.ite (canon_awaitWord h1) ?_)
  split
  · next q heq =>
      have hq : Canon q := (congrArg (OnSnd Canon) heq).mp (canon_devNum h1)
      exact hq
  · next q heq =>
      have hq : Canon q := (congrArg (OnSnd Canon) heq).mp (canon_devNum h1)
      refine OnResult.ite hq ?_
      split
      · next q1 heq1 =>
          have hq1 : Canon q1 := (congrArg (OnSnd Canon) heq1).mp (canon_devStore hq)
          exact hq1
      · next q1 heq1 =>
          have hq1 : Canon q1 := (congrArg (OnSnd Canon) heq1).mp (canon_devStore hq)
          exact canon_modSheaf (canon_interrupt (canon_modCtx hq1))

theorem canon_answer {s : State} {sid : ℕ} {c : SysCall} {x : Word} (h : Canon s) : Canon (s.answer sid c x) := by
  unfold State.answer
  extract_lets _ q q1
  have hq : Canon q := canon_modSheaf h
  have hq1 : Canon q1 := canon_devStore hq
  exact canon_acquired hq1

theorem canon_answerFirst {sid : ℕ} {l : List SysCall} {s : State} (h : Canon s) :
    Canon (State.answerFirst sid l s) := by
  induction l generalizing s with
  | nil => exact h
  | cons c l ih =>
    unfold State.answerFirst
    extract_lets sh
    refine Canon.ite (ih h) ?_
    split
    · next q heq => exact ih ((congrArg (OnSnd Canon) heq).mp (canon_devNum h))
    · next q heq =>
        have hq : Canon q := (congrArg (OnSnd Canon) heq).mp (canon_devNum h)
        exact Canon.ite (canon_answer hq) (ih hq)

theorem canon_execSheafPark {sid : ℕ} {s : State} (h : Canon s) : OnNext Canon (execSheafPark sid s) := by
  unfold execSheafPark
  dsimp only
  split
  · exact canon_modSheaf h
  · exact Canon.ite (canon_modSheaf h) h

theorem canon_execHandlerEntry {sid : ℕ} {s : State} (h : Canon s) : OnNext Canon (execHandlerEntry sid s) := by
  unfold execHandlerEntry
  dsimp only
  split
  · exact h
  · exact Canon.ite h (canon_modSheaf h)

theorem canon_execDoubleFault {sid : ℕ} {s : State} (h : Canon s) : OnNext Canon (execDoubleFault sid s) := by
  unfold execDoubleFault
  dsimp only
  split
  · exact h
  · exact Canon.ite h (canon_contextFault (canon_modSheaf h))

theorem canon_killSheaf {s : State} {sid : ℕ} (h : Canon s) :
    Canon (s.killSheaf sid) := canon_modSheaf (each_holds Canon h (fun _ _ h1 => canon_releaseToken h1))

theorem canon_leave {s : State} {sid : ℕ} {act : List ℕ} (h : Canon s) :
    Canon (s.leave sid act) := canon_modSheaf (canon_releaseDead h)

theorem canon_execTret {f : Fields} {s : State} (h : Canon s) : OnNext Canon (execTret f s) := by
  unfold execTret
  refine canon_issued (fun _ s1 h1 => OnResult.ite h1 (OnResult.ite h1 (OnResult.ite h1 ?_))) h
  extract_lets
  split
  · refine OnResult.ite h1 ?_
    split
    · exact h1
    · next q heq1 =>
        have hq : Canon q := (congrArg (OnSome Canon) heq1).mp (canon_takeFrame h1)
        exact canon_evictSheaf (canon_acquired (Canon.ite (canon_endClause hq) hq))
  · exact canon_killSheaf (canon_acquired (Canon.ite (canon_endClause h1) h1))
  · exact canon_leave (canon_acquired (Canon.ite (canon_endClause h1) h1))

/-! ### The operations of `Machine/Retire` -/

theorem canon_leaderRet {s : State} {w : ℕ} {ks : BitVec 24} (h : Canon s) : Canon (s.leaderRet w ks) := by
  unfold State.leaderRet
  extract_lets
  split
  · exact Canon.ite (canon_modTile h) h
  · exact canon_modGraph h
  · exact h

theorem canon_execTileRet {f : Fields} {s : State} (h : Canon s) : OnNext Canon (execTileRet f s) := by
  unfold execTileRet
  refine canon_issued (fun _ s1 h1 => ?_) h
  extract_lets
  exact OnResult.ite h1 (OnResult.ite h1 (OnResult.ite h1 (canon_leaderRet (canon_modSheaf h1))))

theorem canon_retryHeld {s : State} {n : ℕ} (h : Canon s) :
    Canon (s.retryHeld n) := Canon.ite h (each_holds Canon h (fun _ _ h1 => canon_dispatchFirst h1))

theorem canon_checkDraining {s : State} {n p t : ℕ} (h : Canon s) : Canon (s.checkDraining n p t) := by
  unfold State.checkDraining
  extract_lets
  exact canon_modTile h

theorem canon_beginDrain {s : State} {n p t k : ℕ} (h : Canon s) : Canon (s.beginDrain n p t k) := by
  unfold State.beginDrain
  split
  · exact Canon.ite h (canon_modTile (canon_modTileN h))
  · exact h

theorem canon_execEdgeDone {n p t k : ℕ} {s : State} (h : Canon s) : OnNext Canon (execEdgeDone n p t k s) := by
  unfold execEdgeDone
  dsimp only
  split
  · exact Canon.ite h (canon_checkDraining (Canon.ite (canon_retryHeld (canon_modGraph (Canon.ite (canon_beginDrain
      (canon_modTile h)) (canon_modTile h)))) (Canon.ite (canon_beginDrain (canon_modTile h)) (canon_modTile h))))
  · exact h

theorem canon_drainTo {s : State} {n r i w k : ℕ} (h : Canon s) :
    OnFst (OnSome Canon) (s.drainTo n r i w k) ∧ OnSnd Canon (s.drainTo n r i w k) := by
  unfold State.drainTo
  extract_lets g c q
  have hq : Canon q := canon_flushScratch h
  refine ite_holds (fun p => OnFst (OnSome Canon) p ∧ OnSnd Canon p) ⟨trivial, hq⟩ ?_
  split
  · next q1 heq =>
      have hq1 : Canon q1 := (congrArg (OnOk Canon) heq).mp (canon_writeRing hq)
      exact ⟨canon_modTileN hq1, hq1⟩
  · exact ⟨trivial, canon_engineReplay hq⟩
  · exact ⟨trivial, hq⟩
  · exact ⟨trivial, Canon.ite hq (canon_engineFault hq)⟩

theorem canon_execDrainComplete {n p t k : ℕ} {s : State} (h : Canon s) :
    OnNext Canon (execDrainComplete n p t k s) := by
  unfold execDrainComplete
  dsimp only
  split
  · refine Canon.ite h (Canon.ite (Canon.ite (canon_beginDrain h) (canon_retryHeld (canon_modTile (canon_modGraph
      h)))) (Canon.ite h ?_))
    split
    · next q heq2 =>
        have hq : Canon q := (congrArg (OnSnd Canon) heq2).mp ((canon_drainTo h).2)
        exact hq
    · next q _ heq2 =>
        have hq : Canon q := (congrArg (OnFst (OnSome Canon)) heq2).mp ((canon_drainTo h).1)
        exact canon_retryHeld (canon_modTile (canon_modGraph hq))
  · exact h

theorem canon_execRemappingStepEnd {d : ℕ} {s : State} (h : Canon s) : OnNext Canon (execRemappingStepEnd d s) := by
  unfold execRemappingStepEnd
  refine Canon.ite h ?_
  extract_lets q _ q1 q2
  have hq : Canon q := canon_loseTiles h
  have hq1 : Canon q1 := canon_readWords hq
  have hq2 : Canon q2 := canon_modRing hq1
  exact each_holds Canon hq2 (fun _ _ h1 => canon_retryHeld h1)

theorem canon_tellRetire {s : State} {n p t : ℕ} (h : Canon s) : Canon (s.tellRetire n p t) := by
  unfold State.tellRetire
  extract_lets _ _ q
  have hq : Canon q := canon_modPassRun h
  exact Canon.ite (canon_modBase hq) hq

theorem canon_passRetired {s : State} {n p : ℕ} (h : Canon s) :
    Canon (s.passRetired n p) := canon_formAll (canon_modPassRun h)

theorem canon_finishRaster {s : State} {n p t : ℕ} {r : TileRun} (h : Canon s) :
    OnFst (OnSome Canon) (s.finishRaster n p t r) ∧ OnSnd Canon (s.finishRaster n p t r) := by
  unfold State.finishRaster
  extract_lets g e
  split
  · exact ⟨h, h⟩
  · refine ite_holds (fun p => OnFst (OnSome Canon) p ∧ OnSnd Canon p) ⟨h, h⟩ ?_
    split
    · next x heq =>
        have hg : OnGfx Canon ⟨s, (s.wg r.lead).core, g.ctx, false, none, 0⟩ := h
        have hx : OnGfx Canon x := (congrArg (OnOk (OnGfx Canon)) heq).mp (canon_lateHz hg)
        refine ⟨?_, hx⟩
        show Canon (match x.poison with | some _ => _ | none => _)
        split
        · exact canon_contextFault h
        · exact hx
    · exact ⟨trivial, canon_engineReplay h⟩
    · exact ⟨trivial, h⟩
    · exact ⟨trivial, Canon.ite h (canon_engineFault h)⟩

theorem canon_execTileRetire {n p t : ℕ} {s : State} (h : Canon s) : OnNext Canon (execTileRetire n p t s) := by
  unfold execTileRetire
  split
  · exact h
  · split
    · split
      · next q heq2 =>
          have hq : Canon q := (congrArg (OnSnd Canon) heq2).mp ((canon_finishRaster h).2)
          dsimp only
          split <;> exact Canon.ite h hq
      · next q _ heq2 =>
          have hq : Canon q := (congrArg (OnFst (OnSome Canon)) heq2).mp ((canon_finishRaster h).1)
          dsimp only
          split <;> exact Canon.ite h (Canon.ite (canon_passRetired (canon_tellRetire (canon_modTile hq)))
              (canon_tellRetire (canon_modTile hq)))
    · split
      · next q heq2 =>
          have hq : Canon q := (congrArg (OnSnd Canon) heq2).mp ((canon_finishRaster h).2)
          dsimp only
          split <;> exact Canon.ite h hq
      · next q _ heq2 =>
          have hq : Canon q := (congrArg (OnFst (OnSome Canon)) heq2).mp ((canon_finishRaster h).1)
          dsimp only
          split <;> exact Canon.ite h (Canon.ite (canon_passRetired (canon_tellRetire (canon_modTile hq)))
              (canon_tellRetire (canon_modTile hq)))

theorem canon_execRetireNotice {d k : ℕ} {s : State} (h : Canon s) : OnNext Canon (execRetireNotice d k s) := by
  unfold execRetireNotice
  split
  · exact h
  · refine Canon.ite h ?_
    extract_lets q q1
    have hq : Canon q := canon_modBase h
    have hq1 : Canon q1 := canon_modPassRun hq
    exact canon_formAll hq1

theorem canon_execNodeRetire {n p : ℕ} {s : State} (h : Canon s) : OnNext Canon (execNodeRetire n p s) := by
  unfold execNodeRetire
  dsimp only
  split
  · exact h
  · exact canon_passRetired (canon_tellRetire h)

theorem canon_forgetGraph {s : State} {n : ℕ} (h : Canon s) : Canon (s.forgetGraph n) := by
  unfold State.forgetGraph
  split
  · exact h
  · have hdrop : Canon (s.dropGraph n) := canon_dropGraph h
    exact Canon.ite hdrop h

theorem canon_freeExtents {s : State} {n : ℕ} (h : Canon s) : Canon (s.freeExtents n) := h

theorem canon_stampRetired {s : State} {g : Graph} (h : Canon s) :
    Canon (s.stampRetired g) := canon_trail (Canon.ite (each_holds Canon h (fun _ _ h1 => canon_trail h1)) h)

theorem canon_execGraphRetire {n : ℕ} {s : State} (h : Canon s) : OnNext Canon (execGraphRetire n s) := by
  unfold execGraphRetire
  split
  · exact h
  · exact Canon.ite (canon_forgetGraph (canon_payCompletion h)) (Canon.ite h (canon_forgetGraph (canon_modRegs
      (canon_stampRetired (canon_payCompletion (canon_modGraph (canon_freeExtents h)))))))

theorem canon_freeRecs {s : State} {ctx : ℕ} {l : List (BitVec 32)} (h : Canon s) :
    Canon (s.freeRecs ctx l) := each_holds Canon h (fun _ _ h1 => canon_modRecs h1)

theorem canon_workEnded {s : State} {q : Workgroup} (h : Canon s) : Canon (s.workEnded q) := by
  unfold State.workEnded
  split
  · exact canon_modTile h
  · exact canon_modPassRun (canon_freeRecs h)
  · exact h

theorem canon_execReadEnd {n k : ℕ} {s : State} (h : Canon s) : OnNext Canon (execReadEnd n k s) := by
  unfold execReadEnd
  dsimp only
  split
  · exact h
  · exact Canon.ite h (canon_retryHeld (canon_modGraph (canon_modTile h)))

theorem canon_landFill {s : State} {n k : ℕ} {q : RingFill} {f : Fetch} (h : Canon s) :
    Canon (s.landFill n k q f) := by
  unfold State.landFill
  extract_lets _ q1 q2 q3 q4
  have hq1 : Canon q1 := canon_landImage h
  have hq2 : Canon q2 := canon_modTileN hq1
  have hq3 : Canon q3 := canon_modGraph hq2
  have hq4 : Canon q4 := canon_retryHeld hq3
  split
  · exact canon_ringFault hq4
  · exact hq4

theorem canon_missFill {s : State} {n k : ℕ} {q : RingFill} {reason : ℕ} (h : Canon s) :
    Canon (s.missFill n k q reason) := canon_modGraph (canon_ringFault h)

theorem canon_missAt {s : State} {n k : ℕ} {q : RingFill} (h : Canon s) : OnSome Canon (s.missAt n k q) := by
  unfold State.missAt
  extract_lets
  split
  · exact Canon.ite h (canon_missFill h)
  · exact Canon.ite h (canon_missFill h)
  · exact trivial

theorem canon_serveFill {s : State} {n k : ℕ} {q : RingFill} (h : Canon s) : Canon (s.serveFill n k q) := by
  unfold State.serveFill
  extract_lets
  split
  · next q1 heq =>
      have hq1 : Canon q1 := (congrArg (OnSome Canon) heq).mp (canon_missAt h)
      exact hq1
  · refine Canon.ite (canon_landFill h) ?_
    split
    · split
      · next q1 heq1 =>
          have hq1 : Canon q1 := (congrArg (OnOk (OnSnd Canon)) heq1).mp (canon_readRing h)
          exact canon_landFill hq1
      · exact canon_engineReplay h
      · exact h
      · exact Canon.ite h (canon_modGraph (canon_engineFault h))
    · split
      · next q1 heq1 =>
          have hq1 : Canon q1 := (congrArg (OnOk (OnSnd Canon)) heq1).mp (canon_readRing h)
          exact canon_landFill hq1
      · exact canon_engineReplay h
      · exact h
      · exact Canon.ite h (canon_modGraph (canon_engineFault h))
    · exact h

theorem canon_execRingFillComplete {k : ℕ} {s : State} (h : Canon s) : OnNext Canon (execRingFillComplete k s) := by
  unfold execRingFillComplete
  split
  · exact h
  · split
    · exact h
    · exact Canon.ite h (canon_serveFill h)

theorem canon_answered {is : Issue} {least : ℕ} {s : State} {dies : List ℕ} {k : State → Result} (h : Canon s) (hk :
    ∀ (a : State), Canon a → OnResult Canon (k a)) :
    OnResult Canon (is.answered least s dies k) := by
  unfold Issue.answered
  refine OnResult.ite (hk _ h) (OnResult.ite h ?_)
  split
  · exact canon_modSheaf h
  · exact OnResult.ite h (hk _ h)

theorem canon_execRsQ {f : Fields} {s : State} (h : Canon s) : OnNext Canon (execRsQ f s) := by
  unfold execRsQ
  refine canon_issued (fun _ s1 h1 => ?_) h
  extract_lets
  refine OnResult.ite (OnResult.ite h1 (canon_answered h1 (fun s2 h2 => canon_writeLanes h2))) (canon_tileOp (fun _ _
      _ _ s2 h2 => ?_) h1)
  split
  · refine OnResult.ite h2 (canon_answered h2 (fun s3 h3 => ?_))
    split
    · next q heq1 =>
        have hq : Canon q := (congrArg (OnSnd Canon) heq1).mp (canon_fresh h3)
        extract_lets _ q2
        have hq2 : Canon q2 := canon_modGraph (canon_modTileN hq)
        exact getD_holds Canon (canon_missAt hq2) hq2

/-! ### The operations of `Machine/Recipes` -/

theorem canon_modChain {s : State} {n k : ℕ} {f : Chain → Chain} (h : Canon s) :
    Canon (s.modChain n k f) := canon_modGraph h

theorem canon_startChain {s : State} {n r t d : ℕ} (h : Canon s) : Canon (s.startChain n r t d) := by
  unfold State.startChain
  extract_lets
  split
  · exact h
  · refine Canon.ite (Canon.ite h (canon_modGraph (canon_ringFault h))) ?_
    split
    · next q heq1 =>
        have hq : Canon q := (congrArg (OnSnd Canon) heq1).mp (canon_fresh h)
        exact canon_modGraph hq

theorem canon_gatherSource {s : State} {n x : ℕ} {p : ℕ × ℕ} (h : Canon s) : Canon (s.gatherSource n x p) := by
  unfold State.gatherSource
  extract_lets
  split
  · exact h
  · split
    · exact canon_modChain h
    · exact canon_modChain h
    · exact Canon.ite h (canon_modChain (canon_ringFault h))
    · exact Canon.ite h (canon_modChain (canon_ringFault h))
    · exact Canon.ite h (canon_modChain (canon_ringFault h))
    · exact h

theorem canon_chainSlot {s : State} {n x : ℕ} (h : Canon s) : Canon (s.chainSlot n x) := by
  unfold State.chainSlot
  extract_lets
  split
  · exact h
  · refine Canon.ite h ?_
    extract_lets
    split
    · exact canon_modChain h
    · exact Canon.ite (canon_modChain (canon_modGraph h)) h

theorem canon_advanceChain {s : State} {n x : ℕ} (h : Canon s) : Canon (s.advanceChain n x) := by
  unfold State.advanceChain
  split
  · exact h
  · exact Canon.ite h (canon_chainSlot (each_holds Canon (canon_modChain h) (fun _ _ h1 => canon_gatherSource h1)))

theorem canon_execRecipeGather {n r t : ℕ} {s : State} (h : Canon s) : OnNext Canon (execRecipeGather n r t s) := by
  unfold execRecipeGather
  refine Canon.ite h ?_
  split
  · split
    · exact h
    · exact canon_startChain h
  · exact each_holds Canon h (fun _ _ h1 => canon_advanceChain h1)
  · exact h

theorem canon_execRecipeLaunch {n k : ℕ} {s : State} (h : Canon s) : OnNext Canon (execRecipeLaunch n k s) := by
  unfold execRecipeLaunch
  split
  · next q heq =>
      have hq : Canon q := (congrArg (OnSnd Canon) heq).mp (canon_fresh h)
      dsimp only
      split
      · exact h
      · refine Canon.ite h ?_
        split
        · exact h
        · exact canon_modChain hq

theorem canon_dropChain {s : State} {n k : ℕ} (h : Canon s) : Canon (s.dropChain n k) := canon_modGraph h

theorem canon_execRecipeDrained {n k : ℕ} {s : State} (h : Canon s) : OnNext Canon (execRecipeDrained n k s) := by
  unfold execRecipeDrained
  dsimp only
  split
  · exact h
  · split
    · exact h
    · refine Canon.ite h (Canon.ite (canon_retryHeld (canon_modGraph (canon_dropChain h))) (Canon.ite h ?_))
      split
      · next q heq2 =>
          have hq : Canon q := (congrArg (OnSnd Canon) heq2).mp ((canon_drainTo h).2)
          exact hq
      · next q _ heq2 =>
          have hq : Canon q := (congrArg (OnFst (OnSome Canon)) heq2).mp ((canon_drainTo h).1)
          exact canon_retryHeld (canon_modGraph (canon_dropChain hq))

/-! ### The operations of `Machine/Records` -/

theorem canon_recFault {is : Issue} {code : ℕ} {l : List (ℕ × Option ℕ)} {s : State} (h : Canon s) :
    OnSome (OnResult Canon) (is.recFault code l s) := by
  unfold Issue.recFault
  split
  · exact trivial
  · exact h

theorem canon_allocRec {s : State} {w n : ℕ} (h : Canon s) : OnSnd Canon (s.allocRec w n) := by
  unfold State.allocRec
  extract_lets
  split
  · exact h
  · split
    · next q1 heq1 =>
        have hq1 : Canon q1 := (congrArg (OnSnd Canon) heq1).mp (canon_pick h)
        extract_lets _ _ q2 q3
        have hq2 : Canon q2 := canon_modRecs hq1
        have hq3 : Canon q3 := Canon.ite (canon_homeStore hq2) hq2
        exact canon_modWg hq3

theorem canon_allocRecs {s : State} {w : ℕ} {l : List (ℕ × ℕ)} (h : Canon s) : OnSnd Canon (s.allocRecs w l) := by
  unfold State.allocRecs
  refine foldl_holds (OnSnd Canon) h (fun _ x h1 => ?_)
  split
  · next q heq =>
      have hq : Canon q := (congrArg (OnSnd Canon) heq).mp (canon_allocRec h1)
      exact hq

theorem canon_execRecAlloc {f : Fields} {s : State} (h : Canon s) : OnNext Canon (execRecAlloc f s) := by
  unfold execRecAlloc
  refine canon_issued (fun _ s1 h1 => ?_) h
  extract_lets
  refine canon_answered h1 (fun s2 h2 => ?_)
  split
  · next x1 heq =>
      have hx1 : OnResult Canon x1 := (congrArg (OnSome (OnResult Canon)) heq).mp (canon_recFault h2)
      exact hx1
  · split
    · next q heq1 =>
        have hq : Canon q := (congrArg (OnSnd Canon) heq1).mp (canon_allocRecs h2)
        exact canon_writeLanes hq

theorem canon_putRec {s : State} {is : Issue} {w t pa : ℕ} {bs : List Byte} (h : Canon s) :
    Canon (s.putRec is w t pa bs) := by
  unfold State.putRec
  extract_lets
  split
  · exact canon_homeStore h
  · exact canon_lateFaultAt h

theorem canon_execRecPut {f : Fields} {s : State} (h : Canon s) : OnNext Canon (execRecPut f s) := by
  unfold execRecPut
  refine canon_issued (fun _ s1 h1 => ?_) h
  extract_lets
  refine OnResult.ite h1 (canon_answered h1 (fun s2 h3 => ?_))
  split
  · next x1 heq =>
      have hx1 : OnResult Canon x1 := (congrArg (OnSome (OnResult Canon)) heq).mp (canon_recFault h3)
      exact hx1
  · exact each_holds Canon h3 (fun _ _ h4 => canon_putRec h4)

theorem canon_commitRec {s : State} {w : ℕ} {h : BitVec 32} (h1 : Canon s) : Canon (s.commitRec w h) := by
  unfold State.commitRec
  extract_lets _ q1
  have hq1 : Canon q1 := canon_modWg (canon_setRec h1)
  split
  · exact h1
  · exact Canon.ite (canon_formBatches (canon_modPassRun hq1)) (canon_modPassRun hq1)

theorem canon_recArrives {s : State} {n p : ℕ} (h : Canon s) : Canon (s.recArrives n p) := by
  unfold State.recArrives
  split
  · exact h
  · exact canon_formBatches (canon_modPassRun h)

theorem canon_execRecCommit {f : Fields} {s : State} (h : Canon s) : OnNext Canon (execRecCommit f s) := by
  unfold execRecCommit
  refine canon_issued (fun _ s1 h1 => ?_) h
  extract_lets
  refine OnResult.ite h1 (canon_answered h1 (fun s2 h2 => ?_))
  split
  · next x1 heq =>
      have hx1 : OnResult Canon x1 := (congrArg (OnSome (OnResult Canon)) heq).mp (canon_recFault h2)
      exact hx1
  · exact each_holds Canon h2 (fun _ _ h3 => canon_commitRec h3)

theorem canon_getRec {s : State} {ctx pa n : ℕ} (h : Canon s) : OnSnd (OnSnd Canon) (s.getRec ctx pa n) := by
  unfold State.getRec
  split
  exact OnSnd.ite h h

theorem canon_execRecGet {f : Fields} {s : State} (h : Canon s) : OnNext Canon (execRecGet f s) := by
  unfold execRecGet
  refine canon_issued (fun _ s1 h1 => ?_) h
  extract_lets
  refine OnResult.ite h1 (canon_answered h1 (fun s2 h2 => ?_))
  split
  · next x1 heq =>
      have hx1 : OnResult Canon x1 := (congrArg (OnSome (OnResult Canon)) heq).mp (canon_recFault h2)
      exact hx1
  · extract_lets
    refine OnResult.ite h2 ?_
    split
    · next q1 heq1 =>
        have hq1 : Canon q1 := by
          refine (congrArg (OnSnd (OnSnd Canon)) heq1).mp ?_
          refine foldl_holds (OnSnd (OnSnd Canon)) h2 (fun _ x4 h3 => ?_)
          split
          · next q2 heq2 =>
              have hq2 : Canon q2 := (congrArg (OnSnd (OnSnd Canon)) heq2).mp (canon_getRec h3)
              exact hq2
        extract_lets q2
        have hq2 : Canon q2 := canon_writeLanes hq1
        split
        · exact hq2
        · exact canon_lateFaultAt hq2

theorem canon_execRecCount {f : Fields} {s : State} (h : Canon s) : OnNext Canon (execRecCount f s) := by
  unfold execRecCount
  refine canon_issued (fun _ s1 h1 => OnResult.ite (canon_writeLanes h1) ?_) h
  split
  · exact canon_writeLanes h1
  · exact OnResult.ite h1 h1

theorem canon_contLane {s : State} {is : Issue} {w : ℕ} {p : ContLane} (h : Canon s) :
    OnSnd Canon (s.contLane is w p) := by
  unfold State.contLane
  split
  · next q heq =>
      have hq : Canon q := (congrArg (OnSnd Canon) heq).mp (canon_allocRec h)
      exact OnSnd.ite hq (canon_commitRec (canon_putRec hq))

theorem canon_execCont {f : Fields} {s : State} (h : Canon s) : OnNext Canon (execCont f s) := by
  unfold execCont
  refine canon_issued (fun _ s1 h1 => canon_inScratch h1 (fun s2 h2 => ?_)) h
  extract_lets
  refine OnResult.ite h2 (canon_answered h2 (fun s3 h3 => ?_))
  extract_lets bad
  split
  · next q heq =>
      have hq : Canon q := by
        refine (congrArg (OnSnd Canon) heq).mp ?_
        refine foldl_holds (OnSnd Canon) h3 (fun _ x2 h4 => ?_)
        split
        · next q1 heq1 =>
            have hq1 : Canon q1 := (congrArg (OnSnd Canon) heq1).mp (canon_contLane h4)
            exact hq1
      clear_value bad
      split
      · exact h3
      · exact canon_writeLanes hq

/-! ### The operations of `Machine/Queues` -/

theorem canon_physNum {s : State} {pa n : ℕ} (h : Canon s) :
    OnSnd Canon (s.physNum pa n) := OnSnd.ite h (OnSnd.ite h h)

theorem canon_physStore {s : State} {pa : ℕ} {bs : List Byte} (h : Canon s) :
    Canon (s.physStore pa bs) := Canon.ite (canon_poke h) h

theorem canon_rouse {s : State} (h : Canon s) : Canon s.rouse := Canon.ite (canon_modRegs h) h

theorem canon_writeBack {s : State} {n : ℕ} (h : Canon s) : Canon (s.writeBack n) := canon_physStore h

theorem canon_clearV {s : State} {n : ℕ} (h : Canon s) : Canon (s.clearV n) := by
  unfold State.clearV
  split
  · next q heq =>
      have hq : Canon q := (congrArg (OnSnd Canon) heq).mp (canon_physNum h)
      exact canon_physStore hq

theorem canon_freeSlots {s : State} {n : ℕ} (h : Canon s) : OnSnd Canon (s.freeSlots n) := h

theorem canon_queueError {s : State} {n code : ℕ} {write : BitVec 32} (h : Canon s) :
    Canon (s.queueError n code write) := by
  unfold State.queueError
  extract_lets
  split
  · next q1 heq =>
      have hq1 : Canon q1 := (congrArg (OnSnd Canon) heq).mp (canon_freeSlots h)
      extract_lets q2
      have hq2 : Canon q2 := each_holds Canon hq1 (fun _ _ h1 => canon_dropGraph h1)
      exact canon_record (canon_modQueue hq2)

theorem canon_execNotifyStore {n off size value : ℕ} {s : State} (h : Canon s) :
    OnNext Canon (execNotifyStore n off size value s) := by
  unfold execNotifyStore
  dsimp only
  split
  · exact canon_rouse h
  · exact Canon.ite (canon_modQueue (canon_rouse h)) (canon_queueError (canon_rouse h))

theorem canon_endQueueCmd {s : State} {err : Bool} (h : Canon s) : Canon (s.endQueueCmd err) := canon_modRegs h

theorem canon_execEnable {n : ℕ} {s : State} (h : Canon s) : OnNext Canon (execEnable n s) := by
  unfold execEnable
  refine Canon.ite h (Canon.ite (canon_endQueueCmd h) ?_)
  split
  · next q heq =>
      have hq : Canon q := (congrArg (OnSnd Canon) heq).mp (canon_physNum h)
      exact Canon.ite (canon_endQueueCmd hq) (Canon.ite (canon_endQueueCmd (canon_record hq)) (canon_endQueueCmd
          (canon_writeBack (canon_modQueue hq))))

theorem canon_execDisable {n : ℕ} {s : State} (h : Canon s) : OnNext Canon (execDisable n s) := by
  unfold execDisable
  split
  · next q heq =>
      have hq : Canon q := (congrArg (OnSnd Canon) heq).mp (canon_freeSlots h)
      exact Canon.ite h (canon_endQueueCmd (canon_clearV (canon_writeBack (canon_modQueue hq))))

theorem canon_execSlotGrant {d : ℕ} {s : State} (h : Canon s) : OnNext Canon (execSlotGrant d s) := by
  unfold execSlotGrant
  split
  · dsimp only
    split <;> exact h
  · dsimp only
    split
    · exact canon_modBase (canon_modQueue h)
    · exact h

theorem canon_freeSlot {s : State} {d k n : ℕ} {st : QState} (h : Canon s) :
    Canon (s.freeSlot d k n st) := canon_modQueue (canon_modBase h)

theorem canon_execTimeSliceExpiry {d k : ℕ} {s : State} (h : Canon s) : OnNext Canon (execTimeSliceExpiry d k s) := by
  unfold execTimeSliceExpiry
  split
  · exact h
  · exact Canon.ite h (canon_freeSlot h)

theorem canon_stampIntake {s : State} {g : Graph} {arg : ℕ} (h : Canon s) :
    Canon (s.stampIntake g arg) := canon_trail (canon_trail h)

theorem canon_takeEntry {s : State} {d k n x : ℕ} (h : Canon s) : Canon (s.takeEntry d k n x) := by
  unfold State.takeEntry
  refine Canon.ite (canon_queueError h) ?_
  split
  · next q heq =>
      have hq : Canon q := (congrArg (OnSnd Canon) heq).mp (canon_fresh h)
      extract_lets _ q1 q2
      have hq1 : Canon q1 := hq
      have hq2 : Canon q2 := canon_modBase hq1
      exact Canon.ite hq2 (canon_stampIntake hq2)

theorem canon_execEntryRead {d k : ℕ} {s : State} (h : Canon s) : OnNext Canon (execEntryRead d k s) := by
  unfold execEntryRead
  split
  · exact h
  · refine Canon.ite h (Canon.ite (canon_freeSlot h) ?_)
    extract_lets
    refine Canon.ite h ?_
    split
    · next q heq1 =>
        have hq : Canon q := (congrArg (OnSnd Canon) heq1).mp (canon_devLoad h)
        exact canon_takeEntry hq
    · next q heq1 =>
        have hq : Canon q := (congrArg (OnSnd Canon) heq1).mp (canon_devLoad h)
        exact canon_engineReplay hq
    · next q heq1 =>
        have hq : Canon q := (congrArg (OnSnd Canon) heq1).mp (canon_devLoad h)
        exact hq
    · next q _ _ _ heq1 =>
        have hq : Canon q := (congrArg (OnSnd Canon) heq1).mp (canon_devLoad h)
        exact canon_queueError hq

theorem canon_execTtctlRun {value : ℕ} {s : State} (h : Canon s) :
    OnNext Canon (execTtctlRun value s) := canon_modRegs h

theorem canon_execTableInstant {k : ℕ} {s : State} (h : Canon s) : OnNext Canon (execTableInstant k s) := by
  unfold execTableInstant
  split
  · exact h
  · refine Canon.ite (canon_rouse h) ?_
    extract_lets q _ _ _
    have hq : Canon q := canon_modRegs h
    refine Canon.ite (canon_trail (canon_modRegs hq)) ?_
    split
    · next q1 heq1 =>
        have hq1 : Canon q1 := (congrArg (OnSnd Canon) heq1).mp (canon_fresh hq)
        exact canon_trail (canon_modRegs hq1)

/-! ### The operations of `Machine/Halt` -/

theorem canon_execHaltLine {ctx : ℕ} {s : State} (h : Canon s) : OnNext Canon (execHaltLine ctx s) := by
  unfold execHaltLine
  split
  · exact h
  · refine Canon.ite h ?_
    extract_lets q
    have hq : Canon q := canon_modCtx h
    exact each_holds Canon hq (fun _ _ h1 => Canon.ite h1 (canon_modSheaf h1))

theorem canon_stopRecord {s : State} {ctx : ℕ} {i : FaultInfo} {l : List (List Byte)} (h : Canon s) :
    Canon (s.stopRecord ctx i l) := canon_record h

theorem canon_holdCopies {s : State} {ctx c : ℕ} (h : Canon s) :
    Canon (s.holdCopies ctx c) := each_holds Canon h (fun _ _ h1 => canon_modCore (canon_lowerTag h1))

theorem canon_holdMat {s : State} {pod eng : ℕ} {m : MatOp} (h : Canon s) : Canon (s.holdMat pod eng m) := by
  unfold State.holdMat
  split
  · next q heq =>
      have hq : Canon q := (congrArg (OnSnd Canon) heq).mp (canon_readOperands h)
      extract_lets q1 q2
      have hq1 : Canon q1 := canon_modEngine hq
      have hq2 : Canon q2 := canon_completeOp hq1
      split
      · exact canon_settleRegions hq2
      · exact hq2

theorem canon_holdPart {s : State} {ctx part unit : ℕ} (h : Canon s) :
    OnSnd (OnSnd Canon) (s.holdPart ctx part unit) := by
  unfold State.holdPart
  split
  · extract_lets
    exact canon_holdCopies h
  · extract_lets
    exact canon_modCore h
  · extract_lets
    exact each_holds Canon h (fun _ _ h1 => canon_modWg h1)
  · extract_lets
    exact each_holds Canon h (fun _ _ h1 => canon_holdMat h1)
  · extract_lets
    exact each_holds Canon h (fun _ _ h1 => canon_holdMat h1)
  · exact canon_modCore h
  · extract_lets
    exact canon_modDie h
  · exact h
  · exact h

theorem canon_execPartStop {ctx part unit : ℕ} {s : State} (h : Canon s) :
    OnNext Canon (execPartStop ctx part unit s) := by
  unfold execPartStop
  split
  · next q heq =>
      have hq : Canon q := (congrArg (OnSnd (OnSnd Canon)) heq).mp (canon_holdPart h)
      split
      · dsimp only
        split
        · exact h
        · exact Canon.ite h (canon_modCtx (Canon.ite hq (canon_stopRecord hq)))

theorem canon_faultCopy {s : State} {c op : ℕ} (h : Canon s) : Canon (s.faultCopy c op) := by
  unfold State.faultCopy
  split
  · exact h
  · split
    · exact h
    · exact Canon.ite h (canon_engineFault (canon_modCore h))

theorem canon_faultReq {s : State} {c op : ℕ} (h : Canon s) : Canon (s.faultReq c op) := by
  unfold State.faultReq
  split
  · exact h
  · split
    · next q _ _ _ heq1 =>
        have hq : Canon q := (congrArg (OnFst Canon) heq1).mp (canon_tryReq h)
        exact Canon.ite h (canon_engineFault (canon_modCore hq))
    · exact h

theorem canon_faultBinding {s : State} {w : ℕ} (h : Canon s) : Canon (s.faultBinding w) := by
  unfold State.faultBinding
  extract_lets
  split
  · exact h
  · split
    · next q1 _ _ _ heq1 =>
        have hq1 : Canon q1 := (congrArg (OnFst Canon) heq1).mp (canon_runBinding h)
        exact Canon.ite h (canon_engineFault (canon_modWg hq1))
    · exact h

theorem canon_execEngineFault {engine unit op : ℕ} {s : State} (h : Canon s) :
    OnNext Canon (execEngineFault engine unit op s) := by
  unfold execEngineFault
  split
  · exact canon_faultCopy h
  · exact canon_faultReq h
  · exact canon_faultBinding h
  · exact canon_faultFill h
  · exact h

/-! ### The operations of `Machine/Contexts` -/

theorem canon_endCtxCmd {s : State} {err : Bool} (h : Canon s) : Canon (s.endCtxCmd err) := canon_modRegs h

theorem canon_dropCaches {s : State} {ctx : ℕ} (h : Canon s) : Canon (s.dropCaches ctx) := h

theorem canon_execLoad {n : ℕ} {s : State} (h : Canon s) : OnNext Canon (execLoad n s) := by
  unfold execLoad
  refine Canon.ite h ?_
  split
  · next q heq =>
      have hq : Canon q := (congrArg (OnSnd Canon) heq).mp (canon_physNum h)
      refine Canon.ite (canon_endCtxCmd hq) ?_
      split
      · exact canon_endCtxCmd hq
      · exact Canon.ite (canon_endCtxCmd hq) (canon_endCtxCmd (canon_dropCaches (canon_modCtx hq)))

theorem canon_execUnload {n : ℕ} {s : State} (h : Canon s) : OnNext Canon (execUnload n s) := by
  have hdrop : Canon { s.dropCaches n with ctxs := s.ctxs.del n } := 
    Canon.of_eq (s := s.dropCaches n) (canon_dropCaches h) rfl rfl
  exact Canon.ite h (Canon.ite (canon_endCtxCmd h) (canon_endCtxCmd hdrop))

theorem canon_execCtxbaseWrite {value : ℕ} {s : State} (h : Canon s) :
    OnNext Canon (execCtxbaseWrite value s) := Canon.ite (canon_modRegs h) h

theorem canon_execReplay {n : ℕ} {s : State} (h : Canon s) : OnNext Canon (execReplay n s) := by
  unfold execReplay
  refine Canon.ite h ?_
  extract_lets q
  have hq : Canon q := canon_modCtx h
  exact canon_endCtxCmd (each_holds Canon hq (fun _ _ h1 => canon_modSheaf h1))

theorem canon_execResume {n : ℕ} {s : State} (h : Canon s) : OnNext Canon (execResume n s) := by
  unfold execResume
  refine Canon.ite h (Canon.ite (canon_endCtxCmd h) ?_)
  extract_lets _ q
  have hq : Canon q := canon_modCtx h
  exact canon_endCtxCmd hq

theorem canon_discardCores {s : State} {ctx : ℕ} (h : Canon s) : Canon (s.discardCores ctx) := by
  unfold State.discardCores
  extract_lets _ q q1
  have hq : Canon q := each_holds Canon h (fun _ _ h1 => canon_modAcc h1)
  have hq1 : Canon q1 := each_holds Canon hq (fun _ _ h1 => canon_lowerTag h1)
  exact hq1

theorem canon_discardPods {s : State} {ctx : ℕ} (h : Canon s) : Canon (s.discardPods ctx) := by
  unfold State.discardPods
  refine each_holds Canon h (fun _ s1 h1 => ?_)
  extract_lets q
  have hq : Canon q := canon_completeOp (canon_modAcc h1)
  split
  · exact canon_settleRegions hq
  · exact hq

theorem canon_discardFills {s : State} {ctx : ℕ} (h : Canon s) :
    Canon (s.discardFills ctx) := each_holds Canon h (fun _ _ h1 => each_holds Canon h1 (fun _ _ h2 =>
        canon_settleRegion (canon_modDie (canon_modRegion h2))))

theorem canon_discardOps {s : State} {ctx : ℕ} (h : Canon s) : Canon (s.discardOps ctx) := by
  unfold State.discardOps
  extract_lets q
  have hq : Canon q := each_holds Canon h (fun _ _ h1 => canon_completeOp h1)
  exact each_holds Canon hq (fun _ _ h1 => canon_settleRegions h1)

theorem canon_killWg {s : State} {w : ℕ} (h : Canon s) : Canon (s.killWg w) := by
  unfold State.killWg
  extract_lets _ q1 q2 q3
  have hq1 : Canon q1 := canon_modWg h
  have hq2 : Canon q2 := h
  have hq3 : Canon q3 := canon_modWg (canon_freeRecs (canon_giveFrame hq2))
  split
  · exact h
  · exact each_holds Canon hq1 (fun _ _ h1 => canon_killSheaf h1)
  · exact Canon.ite (canon_saveBank hq3) hq3

theorem canon_killGraph {s : State} {n : ℕ} (h : Canon s) : Canon (s.killGraph n) := by
  unfold State.killGraph
  extract_lets s1 s2 s3
  have h1 : Canon s1 := canon_freeExtents h
  have h2 : Canon s2 := h1.of_eq rfl rfl
  exact canon_forgetGraph (canon_modRegs (canon_modGraph h2))

theorem canon_execAbandon {n : ℕ} {s : State} (h : Canon s) : OnNext Canon (execAbandon n s) := by
  unfold execAbandon
  refine Canon.ite h ?_
  extract_lets _ q q1 _ q2
  have hq : Canon q := canon_discardOps (canon_discardFills (canon_discardPods (canon_discardCores h)))
  have hq1 : Canon q1 := canon_noIncoming (each_holds Canon hq (fun _ _ h1 => canon_killWg h1))
  have hq2 : Canon q2 := each_holds Canon hq1 (fun _ _ h1 => canon_killGraph h1)
  exact canon_endCtxCmd (canon_modCtx hq2)

/-! ### The operations of `Machine/Links` -/

theorem canon_finishApplied {s : State} {n : ℕ} (h : Canon s) : Canon (s.finishApplied n) := by
  unfold State.finishApplied
  split
  · exact h
  · exact canon_finishLane h

theorem canon_execPeerWriteAcknowledged {n : ℕ} {s : State} (h : Canon s) :
    OnNext Canon (execPeerWriteAcknowledged n s) := by
  unfold execPeerWriteAcknowledged
  split
  · exact h
  · split
    · exact h
    · exact Canon.ite (canon_finishApplied (canon_modBase (Canon.ite h (canon_performPosted h)))) h

theorem canon_oweAll {s : State} {ctx d : ℕ} {cores : List ℕ} {all : Bool} (h : Canon s) :
    Canon (s.oweAll ctx d cores all) := h

theorem canon_resolvePosted {s : State} {ctx d : ℕ} (h : Canon s) : Canon (s.resolvePosted ctx d) := by
  unfold State.resolvePosted
  extract_lets _ q q1
  have hq : Canon q := by
    refine each_holds Canon h (fun _ s1 h1 => Canon.ite h1 ?_)
    split
    · next q2 heq =>
        have hq2 : Canon q2 := (congrArg (OnSnd Canon) heq).mp (canon_flip h1)
        exact Canon.ite (canon_performPosted hq2) hq2
  have hq1 : Canon q1 := canon_oweAll (canon_modBase hq)
  exact each_holds Canon hq1 (fun _ _ h1 => canon_finishApplied h1)

theorem canon_loseLink {s : State} {sid ctx d : ℕ} {gen : BitVec 24} {pc : BitVec 64} {who : List ℕ} (h : Canon s) :
    Canon (s.loseLink sid ctx d gen pc who) := by
  unfold State.loseLink
  extract_lets q
  have hq : Canon q := canon_modSheaf h
  split
  · next q1 heq =>
      have hq1 : Canon q1 := (congrArg (OnSnd Canon) heq).mp (canon_tryRecord hq)
      exact canon_resolvePosted (Canon.ite (canon_modBase hq1) hq1)

theorem canon_execRetrainLimitExpiry {sid : ℕ} {s : State} (h : Canon s) :
    OnNext Canon (execRetrainLimitExpiry sid s) := by
  unfold execRetrainLimitExpiry
  split
  · dsimp only
    split
    · exact canon_modSheaf (canon_loseLink h)
    · exact h
  · split
    · dsimp only
      split
      · exact canon_modSheaf (canon_loseLink h)
      · exact h
    · split
      · dsimp only
        split
        · exact canon_modSheaf (canon_loseLink h)
        · exact canon_modOp (canon_loseLink h)
      · dsimp only
        split
        · exact canon_modSheaf (canon_loseLink h)
        · exact canon_modOp (canon_loseLink h)

theorem canon_execLinkLossFault {o lane : ℕ} {s : State} (h : Canon s) :
    OnNext Canon (execLinkLossFault o lane s) := by
  unfold execLinkLossFault
  split
  · exact h
  · split
    · split
      · dsimp only
        split
        · exact h
        · exact canon_lateFault (each_holds Canon (canon_acquired (each_holds Canon h (fun _ s1 h1 => canon_landDsts
            (canon_undefs h1)))) (fun _ s1 h1 => canon_finishLane h1))
      · dsimp only
        split
        · exact h
        · exact canon_lateFault (each_holds Canon (canon_acquired (each_holds Canon h (fun _ s1 h1 => canon_landDsts
            (canon_undefs h1)))) (fun _ s1 h1 => canon_finishLane h1))

theorem canon_execPeerLinkStateChange {port st narrow : ℕ} {s : State} (h : Canon s) :
    OnNext Canon (execPeerLinkStateChange port st narrow s) := by
  unfold execPeerLinkStateChange
  dsimp only
  split
  · exact h
  · exact canon_interrupt (canon_modBase h)

theorem canon_execUcieLinkFailure {link : ℕ} {s : State} (h : Canon s) :
    OnNext Canon (execUcieLinkFailure link s) := by
  unfold execUcieLinkFailure
  refine Canon.ite h ?_
  extract_lets q
  have hq : Canon q := canon_interrupt (canon_modRegs h)
  exact Canon.ite hq (each_holds Canon hq (fun _ _ h1 => canon_contextFault h1))

theorem canon_outsideStore {s : State} {x : Outside} {bs : List Byte} (h : Canon s) :
    Canon (s.outsideStore x bs) := Canon.ite (canon_blindWrites h) (canon_homeStore h)

theorem canon_outside {s : State} {kind pa size data cmp : ℕ} (h : Canon s) :
    Canon (s.outside kind pa size data cmp) := by
  unfold State.outside
  refine Canon.ite h ?_
  split
  · exact h
  · exact canon_outsideStore h
  · extract_lets
    exact Canon.ite h (canon_outsideStore h)

/-! ### The operations of `Machine/Power` -/

theorem canon_execTbstep {value : ℕ} {s : State} (h : Canon s) : OnNext Canon (execTbstep value s) := by
  unfold execTbstep
  dsimp only
  split <;> exact h

theorem canon_relieve {s : State} {mw : ℕ} (h : Canon s) : Canon (s.relieve mw) := by
  unfold State.relieve
  extract_lets q
  have hq : Canon q := Canon.ite (canon_trail (canon_modRegs h)) h
  exact Canon.ite (canon_trail (canon_modRegs hq)) hq

theorem canon_leaveFixed {s : State} {arg : ℕ} (h : Canon s) : Canon (s.leaveFixed arg) := by
  unfold State.leaveFixed
  split
  · next q heq =>
      have hq : Canon q := (congrArg (OnSnd Canon) heq).mp (OnSnd.ite (canon_undef h) h)
      exact canon_trail (canon_modRegs (canon_relieve hq))

theorem canon_modHead {s : State} {h : ℕ} {f : Head → Head} (h1 : Canon s) : Canon (s.modHead h f) := h1

theorem canon_execPresent {h value : ℕ} {s : State} (h1 : Canon s) : OnNext Canon (execPresent h value s) := by
  unfold execPresent
  refine Canon.ite h1 ?_
  extract_lets _ _ _ old q q1
  have hq : Canon q := canon_modHead h1
  have hq1 : Canon q1 := canon_trail hq
  clear_value old
  split
  · exact canon_trail hq1
  · exact hq1

theorem canon_execScanOut {h : ℕ} {s : State} (h1 : Canon s) : OnNext Canon (execScanOut h s) := by
  unfold execScanOut
  dsimp only
  split
  · exact Canon.ite (canon_trail (canon_modHead h1)) h1
  · exact h1

theorem canon_execIntstatClear {value : ℕ} {s : State} (h : Canon s) :
    OnNext Canon (execIntstatClear value s) := canon_modRegs h

theorem canon_execExtend {idx : ℕ} {s : State} (h : Canon s) :
    OnNext Canon (execExtend idx s) := Canon.ite (canon_modRegs h) h

theorem canon_boot {s : State} {i : ℕ} (h : Canon s) : Canon (s.boot i) := Canon.ite (canon_modRegs h) h

theorem canon_execAttest {value : ℕ} {s : State} (h : Canon s) :
    OnNext Canon (execAttest value s) := Canon.ite h (canon_modRegs h)

theorem canon_execAttestationDone {s : State} (h : Canon s) : OnNext Canon (execAttestationDone s) := by
  unfold execAttestationDone
  refine Canon.ite ?_ h
  extract_lets
  split
  · next q heq =>
      have hq : Canon q := (congrArg (OnSnd Canon) heq).mp (canon_physNum h)
      extract_lets
      exact canon_interrupt (canon_modRegs (canon_physStore hq))

/-! ### The operations of `Machine/Registers` -/

theorem canon_writeContext {s : State} {o v : ℕ} (h : Canon s) : Canon (s.writeContext o v) := by
  unfold State.writeContext
  refine Canon.ite ?_ h
  extract_lets
  exact canon_modRegs (canon_rouse h)

theorem canon_writeMapper {s : State} {o v : ℕ} (h : Canon s) :
    Canon (s.writeMapper o v) := Canon.ite (canon_modRegs h) (Canon.ite (canon_modRegs h) (Canon.ite (canon_modRegs
        h) (Canon.ite (canon_modRegs h) (Canon.ite (canon_modRegs h) h))))

theorem canon_writePower {s : State} {v : ℕ} (h : Canon s) : Canon (s.writePower v) := by
  unfold State.writePower
  extract_lets q
  have hq : Canon q := canon_modRegs h
  exact Canon.ite (canon_leaveFixed hq) hq

theorem canon_writeRepair {s : State} {v : ℕ} (h : Canon s) : Canon (s.writeRepair v) := by
  unfold State.writeRepair
  extract_lets _ _ q
  have hq : Canon q := Canon.ite h (canon_modRegs h)
  exact canon_modRegs hq

theorem canon_writeSystem {s : State} {o v : ℕ} (h : Canon s) :
    Canon (s.writeSystem o v) := Canon.ite (canon_writePower h) (Canon.ite h (Canon.ite (canon_modRegs h) (Canon.ite
        (canon_modRegs h) (Canon.ite (canon_modBase h) (Canon.ite (canon_modRegs h) (Canon.ite (canon_writeRepair h)
        (Canon.ite (canon_modRegs h) h)))))))

theorem canon_execRegisterWrite {pa value : ℕ} {s : State} (h : Canon s) :
    OnNext Canon (execRegisterWrite pa value s) := by
  unfold execRegisterWrite
  refine Canon.ite h ?_
  split
  · exact canon_writeContext h
  · exact canon_writeMapper h
  · exact canon_modRing h
  · exact Canon.ite (canon_refuseRegion h) h
  · exact canon_writeSystem h
  · exact canon_modHead h
  · exact h

theorem canon_storeRegion {s : State} {c i value pa : ℕ} (h : Canon s) :
    OnNext Canon (s.storeRegion c i value pa) := by
  unfold State.storeRegion
  split
  · exact canon_execRegionRelease h
  · exact canon_execRegionOpen h
  · exact canon_execRegionSeal h
  · exact canon_execRegisterWrite h

theorem canon_storeWord {s : State} {w : Window} {o pa value : ℕ} (h : Canon s) :
    OnNext Canon (s.storeWord w o pa value) := by
  unfold State.storeWord
  split
  · exact canon_execNotifyStore h
  · exact OnNext.ite (canon_execCtxbaseWrite h) (canon_execRegisterWrite h)
  · exact OnNext.ite (canon_execTtctlRun h) (canon_execRegisterWrite h)
  · exact OnNext.ite (canon_storeRegion h) (canon_execRegisterWrite h)
  · exact OnNext.ite (canon_execTbstep h) (OnNext.ite (canon_execIntstatClear h) (OnNext.ite (canon_execExtend h)
      (OnNext.ite (canon_execAttest h) (canon_execRegisterWrite h))))
  · exact OnNext.ite (canon_execPresent h) (canon_execRegisterWrite h)
  · exact OnNext.ite (canon_rouse h) (canon_execRegisterWrite h)

theorem canon_storeAt {s : State} {pa : ℕ} {bs : List Byte} (h : Canon s) : OnNext Canon (s.storeAt pa bs) := by
  unfold State.storeAt
  split
  · exact h
  · exact OnNext.ite (canon_storeWord h) (OnNext.ite (canon_execNotifyStore h) h)

/-! ### The operations of `Machine/Repair` -/

theorem canon_repaired {s : State} (h : Canon s) : Canon s.repaired := canon_modRegs h

theorem canon_oust {s : State} {w : ℕ} (h : Canon s) : Canon (s.oust w) := by
  unfold State.oust
  refine Canon.ite h ?_
  split
  · exact h
  · next q heq =>
      have hq : Canon q := (congrArg (OnSome Canon) heq).mp (canon_takeFrame h)
      exact each_holds Canon (canon_modWg hq) (fun _ _ h1 => canon_oweEvict h1)

theorem canon_fence {s : State} {cs : List ℕ} (h : Canon s) :
    Canon (s.fence cs) := each_holds Canon h (fun _ _ h1 => each_holds Canon (canon_modCore h1) (fun _ _ h2 =>
        canon_oust h2))

theorem canon_execFenceCore {c : ℕ} {s : State} (h : Canon s) : OnNext Canon (execFenceCore c s) := by
  unfold execFenceCore
  refine Canon.ite h ?_
  extract_lets q
  have hq : Canon q := canon_fence h
  exact Canon.ite (canon_repaired hq) hq

theorem canon_resetDie {s : State} {d : ℕ} (h : Canon s) :
    Canon (s.resetDie d) := canon_modDie (each_holds Canon (each_holds Canon h (fun _ _ h1 => canon_modCore h1))
        (fun _ _ h1 => canon_modPod h1))

/-! ### The operations of `Machine/Dispatch` -/

theorem canon_exec {i : Instr} {s : State} (h : Canon s) : OnNext Canon (exec i s) := by
  cases i with
  | nop => exact canon_issued (fun _ s1 h1 => h1) h
  | bra => exact canon_issued (fun _ s1 h1 => canon_branch h1) h
  | brx => exact canon_issued (fun _ s1 h1 => canon_branch h1) h
  | call => exact canon_issued (fun _ s1 h1 => canon_branch h1) h
  | ret => exact canon_issued (fun _ s1 h1 => canon_branch h1) h
  | exit => exact canon_execExit h
  | yield => exact canon_issued (fun _ s1 h1 => OnResult.ite h1 (canon_modRun h1)) h
  | sleep => exact canon_issued (fun _ s1 h1 => canon_modRun h1) h
  | brk => exact canon_issued (fun _ s1 h1 => OnResult.ite h1 h1) h
  | shfl => exact canon_issued (fun _ s1 h1 => canon_crossOp h1) h
  | vote => exact canon_issued (fun _ s1 h1 => canon_crossOp h1) h
  | ballot => exact canon_issued (fun _ s1 h1 => canon_crossOp h1) h
  | matchV => exact canon_issued (fun _ s1 h1 => canon_crossOp h1) h
  | rdx => exact canon_issued (fun _ s1 h1 => canon_crossOp h1) h
  | scan => exact canon_issued (fun _ s1 h1 => canon_crossOp h1) h
  | elect => exact canon_execElect h
  | iadd => exact canon_issued (fun _ s1 h1 => canon_wordOp h1) h
  | isub => exact canon_issued (fun _ s1 h1 => canon_wordOp h1) h
  | iaddc => exact canon_issued (fun _ s1 h1 => canon_wordOp h1) h
  | imul => exact canon_issued (fun _ s1 h1 => canon_wordOp h1) h
  | imulh => exact canon_issued (fun _ s1 h1 => canon_wordOp h1) h
  | imad => exact canon_issued (fun _ s1 h1 => canon_wordOp h1) h
  | imadw => exact canon_issued (fun _ s1 h1 => canon_laneOp h1) h
  | idiv => exact canon_issued (fun _ s1 h1 => canon_longOp h1) h
  | irem => exact canon_issued (fun _ s1 h1 => canon_longOp h1) h
  | imin => exact canon_issued (fun _ s1 h1 => canon_wordOp h1) h
  | imax => exact canon_issued (fun _ s1 h1 => canon_wordOp h1) h
  | iabs => exact canon_issued (fun _ s1 h1 => canon_wordOp h1) h
  | ineg => exact canon_issued (fun _ s1 h1 => canon_wordOp h1) h
  | and => exact canon_issued (fun _ s1 h1 => canon_wordOp h1) h
  | or => exact canon_issued (fun _ s1 h1 => canon_wordOp h1) h
  | xor => exact canon_issued (fun _ s1 h1 => canon_wordOp h1) h
  | not => exact canon_issued (fun _ s1 h1 => canon_wordOp h1) h
  | andn => exact canon_issued (fun _ s1 h1 => canon_wordOp h1) h
  | shl => exact canon_issued (fun _ s1 h1 => canon_wordOp h1) h
  | shr => exact canon_issued (fun _ s1 h1 => canon_wordOp h1) h
  | sar => exact canon_issued (fun _ s1 h1 => canon_wordOp h1) h
  | rot => exact canon_issued (fun _ s1 h1 => canon_wordOp h1) h
  | bfe => exact canon_issued (fun _ s1 h1 => canon_wordOp h1) h
  | bfi => exact canon_issued (fun _ s1 h1 => canon_wordOp h1) h
  | popc => exact canon_issued (fun _ s1 h1 => canon_wordOp h1) h
  | clz => exact canon_issued (fun _ s1 h1 => canon_wordOp h1) h
  | ctz => exact canon_issued (fun _ s1 h1 => canon_wordOp h1) h
  | brev => exact canon_issued (fun _ s1 h1 => canon_wordOp h1) h
  | prmt => exact canon_issued (fun _ s1 h1 => canon_wordOp h1) h
  | icmp => exact canon_issued (fun _ s1 h1 => canon_wordOp h1) h
  | isel => exact canon_issued (fun _ s1 h1 => canon_wordOp h1) h
  | mov => exact canon_issued (fun _ s1 h1 => canon_wordOp h1) h
  | movi => exact canon_issued (fun _ s1 h1 => canon_wordOp h1) h
  | lea => exact canon_issued (fun _ s1 h1 => canon_laneOp h1) h
  | vspill => exact canon_issued (fun _ s1 h1 => OnResult.ite h1 (canon_laneOp h1)) h
  | vfill => exact canon_issued (fun _ s1 h1 => OnResult.ite h1 (canon_laneOp h1)) h
  | fadd => exact canon_issued (fun _ s1 h1 => canon_ftzOp h1) h
  | fsub => exact canon_issued (fun _ s1 h1 => canon_ftzOp h1) h
  | fmul => exact canon_issued (fun _ s1 h1 => canon_ftzOp h1) h
  | ffma => exact canon_issued (fun _ s1 h1 => canon_ftzOp h1) h
  | fmin => exact canon_issued (fun _ s1 h1 => canon_ftzOp h1) h
  | fmax => exact canon_issued (fun _ s1 h1 => canon_ftzOp h1) h
  | fcmp => exact canon_issued (fun _ s1 h1 => canon_ftzOp h1) h
  | fsel => exact canon_issued (fun _ s1 h1 => canon_wordOp h1) h
  | frnd => exact canon_issued (fun _ s1 h1 => canon_ftzOp h1) h
  | fclass => exact canon_issued (fun _ s1 h1 => canon_wordOp h1) h
  | fcpysgn => exact canon_issued (fun _ s1 h1 => canon_wordOp h1) h
  | hadd2 => exact canon_issued (fun _ s1 h1 => canon_ftzOp h1) h
  | hmul2 => exact canon_issued (fun _ s1 h1 => canon_ftzOp h1) h
  | hfma2 => exact canon_issued (fun _ s1 h1 => canon_ftzOp h1) h
  | hmin2 => exact canon_issued (fun _ s1 h1 => canon_ftzOp h1) h
  | hmax2 => exact canon_issued (fun _ s1 h1 => canon_ftzOp h1) h
  | pairWord => exact canon_issued (fun _ s1 h1 => canon_writeLanes (canon_writeLanes h1)) h
  | frcp => exact canon_issued (fun _ s1 h1 => canon_specialOp h1) h
  | frsq => exact canon_issued (fun _ s1 h1 => canon_specialOp h1) h
  | fsqrt => exact canon_issued (fun _ s1 h1 => canon_specialOp h1) h
  | fdiv => exact canon_issued (fun _ s1 h1 => canon_specialOp h1) h
  | fexp2 => exact canon_issued (fun _ s1 h1 => canon_specialOp h1) h
  | flog2 => exact canon_issued (fun _ s1 h1 => canon_specialOp h1) h
  | fsin => exact canon_issued (fun _ s1 h1 => canon_specialOp h1) h
  | fcos => exact canon_issued (fun _ s1 h1 => canon_specialOp h1) h
  | ftanh => exact canon_issued (fun _ s1 h1 => canon_specialOp h1) h
  | fsigm => exact canon_issued (fun _ s1 h1 => canon_specialOp h1) h
  | fgelu => exact canon_issued (fun _ s1 h1 => canon_specialOp h1) h
  | fsilu => exact canon_issued (fun _ s1 h1 => canon_specialOp h1) h
  | cvt => exact canon_issued (fun _ s1 h1 => canon_ftzOp h1) h
  | cvtEf => exact canon_issued (fun _ s1 h1 => canon_laneOp h1) h
  | pack => exact canon_issued (fun _ s1 h1 => canon_laneOp h1) h
  | unpack => exact canon_issued (fun _ s1 h1 => canon_laneOp h1) h
  | qscale => exact canon_issued (fun _ s1 h1 => canon_ftzOp h1) h
  | lds => exact canon_issued (fun _ s1 h1 => canon_scratchOp h1) h
  | sts => exact canon_issued (fun _ s1 h1 => canon_scratchOp h1) h
  | ats => exact canon_issued (fun _ s1 h1 => canon_scratchOp h1) h
  | scratchpadAccessApplied => exact canon_popScratch h
  | tlSet => exact canon_execTlSet h
  | tlFill => exact canon_execTlFill h
  | tlDrain => exact canon_execTlDrain h
  | tlStat => exact canon_execTlStat h
  | tlDom => exact canon_execTlDom h
  | tlRel => exact canon_issued (fun _ s1 h1 => canon_tileOp (fun _ _ _ _ s2 h2 => OnResult.ite (canon_modTileN h2)
      (canon_waits h2)) h1) h
  | jcInit => exact canon_issued (fun _ s1 h1 => canon_joinOp h1) h
  | jcArv => exact canon_issued (fun _ s1 h1 => canon_joinOp h1) h
  | jcExp => exact canon_issued (fun _ s1 h1 => canon_joinOp h1) h
  | jcTest => exact canon_issued (fun _ s1 h1 => canon_joinOp h1) h
  | waitm => exact canon_execWaitm h
  | waitmReevaluation => exact canon_execWaitmReevaluation h
  | waitmTimeout => exact canon_execWaitmTimeout h
  | cpa => exact canon_execCpa h
  | cpaLaneComplete => exact canon_execCpaLaneComplete h
  | cpw => exact canon_execCpw h
  | reqKick => exact canon_issued (fun _ s1 h1 => canon_launchRecord h1) h
  | requestRecordComplete => exact canon_stepReq h
  | collRed => exact canon_issued (fun _ s1 h1 => canon_launchRecord h1) h
  | collectiveRedComplete => exact canon_stepReq h
  | collBcast => exact canon_issued (fun _ s1 h1 => canon_launchRecord h1) h
  | collectiveBcastReady => exact canon_stepReq h
  | fmtLoad => exact canon_execFmtLoad h
  | prologueRun => exact canon_execPrologueRun h
  | prologueComplete => exact Canon.ite (canon_modWg h) h
  | mma => exact canon_issued (fun _ s1 h1 => canon_matrixOp h1) h
  | mmat => exact canon_issued (fun _ s1 h1 => canon_matrixOp h1) h
  | mmas => exact canon_issued (fun _ s1 h1 => canon_matrixOp h1) h
  | matrixRowGroup => exact canon_execMatrixRowGroup h
  | matrixOperationComplete => exact canon_execMatrixOperationComplete h
  | mopRdy => exact canon_execMopRdy h
  | matrixSpanFault => exact canon_execMatrixSpanFault h
  | accZ => exact canon_execAccZ h
  | accRd => exact canon_execAccRd h
  | accWr => exact canon_execAccWr h
  | accLd => exact canon_execAccLd h
  | accSt => exact canon_issued (fun _ s1 h1 => canon_accTransfer (fun _ _ _ _ s2 h2 => canon_readRows (canon_launch
      h2)) h1) h
  | accWm => exact canon_execAccWm h
  | accCvt => exact canon_execAccCvt h
  | ldw => exact canon_execLdw h
  | wstFill => exact canon_execWstFill h
  | weightFillBytesWritten => exact canon_execWeightFillBytesWritten h
  | wstStat => exact canon_issued (fun _ s1 h1 => OnResult.ite h1 (canon_writeLanes h1)) h
  | retentionExpiredFault => exact canon_execRetentionExpiredFault h
  | sth => exact canon_execSth h
  | hfwd => exact canon_execHfwd h
  | hinv => exact canon_execHinv h
  | thset => exact canon_execThset h
  | thget => exact canon_execThget h
  | hbias => exact canon_execHbias h
  | hmask => exact canon_execHmask h
  | liftJob => exact canon_execLiftJob h
  | ld => exact canon_issued (fun _ s1 h1 => canon_globalOp h1) h
  | ldCon => exact canon_issued (fun _ s1 h1 => canon_globalOp h1) h
  | ldAcq => exact canon_issued (fun _ s1 h1 => canon_globalOp h1) h
  | st => exact canon_issued (fun _ s1 h1 => canon_globalOp h1) h
  | stSub => exact canon_issued (fun _ s1 h1 => canon_globalOp h1) h
  | stRel => exact canon_issued (fun _ s1 h1 => canon_globalOp h1) h
  | atom => exact canon_issued (fun _ s1 h1 => canon_globalOp h1) h
  | atomCas => exact canon_issued (fun _ s1 h1 => canon_globalOp h1) h
  | red => exact canon_issued (fun _ s1 h1 => canon_globalOp h1) h
  | fence => exact canon_execFence h
  | cctl => exact canon_execCctl h
  | pref => exact canon_execPref h
  | tclr => exact canon_issued (fun _ s1 h1 => canon_laneOp h1) h
  | globalAccessPerformed => exact canon_execGlobalAccessPerformed h
  | translationWalk => exact canon_execTranslationWalk h
  | peerWriteAcknowledged => exact canon_execPeerWriteAcknowledged h
  | retrainLimitExpiry => exact canon_execRetrainLimitExpiry h
  | ldk => exact canon_issued (fun _ s1 h1 => canon_globalOp h1) h
  | stk => exact canon_issued (fun _ s1 h1 => canon_globalOp h1) h
  | rcn => exact canon_issued (fun _ s1 h1 => canon_globalOp h1) h
  | tileRet => exact canon_execTileRet h
  | rsQ => exact canon_execRsQ h
  | recAlloc => exact canon_execRecAlloc h
  | recPut => exact canon_execRecPut h
  | recCommit => exact canon_execRecCommit h
  | recGet => exact canon_execRecGet h
  | recCount => exact canon_execRecCount h
  | interp => exact canon_issued (fun _ s1 h1 => canon_laneOp h1) h
  | ddx => exact canon_issued (fun _ s1 h1 => canon_quadDiff h1) h
  | ddy => exact canon_issued (fun _ s1 h1 => canon_quadDiff h1) h
  | discard => exact canon_issued (fun _ s1 h1 => OnResult.ite h1 (canon_modSheaf h1)) h
  | vism => exact canon_issued (fun _ s1 h1 => canon_globalOp h1) h
  | blend => exact canon_execBlend h
  | blendPerformed => exact canon_execBlendPerformed h
  | tex => exact canon_issued (fun _ s1 h1 => canon_texOp h1) h
  | texg => exact canon_issued (fun _ s1 h1 => canon_texOp h1) h
  | texq => exact canon_issued (fun _ s1 h1 => canon_texOp h1) h
  | trace => exact canon_issued (fun _ s1 h1 => canon_modSheaf (canon_launch h1)) h
  | hitRd => exact canon_issued (fun _ s1 h1 => canon_longOp h1) h
  | cont => exact canon_execCont h
  | cov => exact canon_execCov h
  | emitp => exact canon_execEmitp h
  | trap => exact canon_execTrap h
  | systemCallAnswered => exact Canon.ite h (canon_answerFirst h)
  | tret => exact canon_execTret h
  | srd => exact canon_execSrd h
  | swr => exact canon_execSwr h
  | clauseStart => exact canon_execClauseStart h
  | longLatencyCompletion => exact canon_execLongLatencyCompletion h
  | issueGroupRotation => exact Canon.ite (canon_trySheaf h) h
  | schedulerRunBreak => exact canon_execSchedulerRunBreak h
  | runLimit => exact canon_limitRun h
  | stallEnd => exact Canon.ite (canon_modSheaf h) h
  | sleepExpiry => exact canon_execSleepExpiry h
  | crossLaneWaitRelease => exact canon_execCrossLaneWaitRelease h
  | crossLaneWatchdog => exact canon_watch h
  | tileWaitFault => exact canon_execTileWaitFault h
  | workgroupAdmission => exact canon_execWorkgroupAdmission h
  | sheafStart => exact canon_execSheafStart h
  | sheafRetire => exact canon_execSheafRetire h
  | workgroupRetire => exact Canon.ite h (canon_forgetGraph (canon_workEnded (canon_saveBank (canon_modWg
      (canon_freeRecs (canon_giveFrame h))))))
  | handlerEntry => exact canon_execHandlerEntry h
  | sheafPark => exact canon_execSheafPark h
  | doubleFault => exact canon_execDoubleFault h
  | haltLine => exact canon_execHaltLine h
  | partStop => exact canon_execPartStop h
  | impreciseStoreFault => exact canon_execImpreciseStoreFault h
  | memoryErrorFault => exact canon_execMemoryErrorFault h
  | engineFault => exact canon_execEngineFault h
  | workgroupSave => exact canon_execWorkgroupSave h
  | workgroupResumption => exact canon_execWorkgroupResumption h
  | notifyStore => exact canon_execNotifyStore h
  | enable => exact canon_execEnable h
  | disable => exact canon_execDisable h
  | sync => exact Canon.ite (canon_endQueueCmd (canon_writeBack h)) h
  | slotGrant => exact canon_execSlotGrant h
  | timeSliceExpiry => exact canon_execTimeSliceExpiry h
  | entryRead => exact canon_execEntryRead h
  | graphIntake => exact canon_execGraphIntake h
  | graphAdmission => exact canon_execGraphAdmission h
  | passEntry => exact canon_execPassEntry h
  | tileRelease => exact Canon.ite h (each_holds Canon h (fun _ s1 h1 => each_holds Canon h1 (fun _ s2 h2 =>
      canon_releaseTile h2)))
  | tileDispatch => exact canon_dispatchFirst h
  | teamPlacement => exact canon_execTeamPlacement h
  | edgeDone => exact canon_execEdgeDone h
  | drainComplete => exact canon_execDrainComplete h
  | tileRetire => exact canon_execTileRetire h
  | retireNotice => exact canon_execRetireNotice h
  | graphRetire => exact canon_execGraphRetire h
  | readEnd => exact canon_execReadEnd h
  | ringFillComplete => exact canon_execRingFillComplete h
  | recipeGather => exact canon_execRecipeGather h
  | recipeLaunch => exact canon_execRecipeLaunch h
  | recipeDrained => exact canon_execRecipeDrained h
  | remappingStep => exact Canon.ite h (Canon.ite (canon_modRing h) (canon_modRing h))
  | bankRotation => exact Canon.ite h (canon_modRing h)
  | rotationCopyEnd => exact canon_execRotationCopyEnd h
  | bankLost => exact Canon.ite (canon_loseBank h) h
  | thermalRetirementRequest => exact Canon.ite (canon_interrupt (canon_modRing h)) h
  | transferParityRetry => exact canon_execTransferParityRetry h
  | batchTimeout => exact canon_formBatches h
  | nodeRetire => exact canon_execNodeRetire h
  | tableInstant => exact canon_execTableInstant h
  | ttctlRun => exact canon_execTtctlRun h
  | load => exact canon_execLoad h
  | inval => exact Canon.ite h (Canon.ite (canon_dropCaches h) (canon_endCtxCmd (canon_dropCaches h)))
  | replay => exact canon_execReplay h
  | resume => exact canon_execResume h
  | abandon => exact canon_execAbandon h
  | unload => exact canon_execUnload h
  | ctxbaseWrite => exact canon_execCtxbaseWrite h
  | fenceCore => exact canon_execFenceCore h
  | unfenceCore => exact Canon.ite h (canon_repaired (canon_modCore h))
  | resetComputeDie => exact Canon.ite h (Canon.ite (canon_repaired (canon_fence h)) (canon_fence h))
  | regionOpen => exact canon_execRegionOpen h
  | regionSeal => exact canon_execRegionSeal h
  | regionRelease => exact canon_execRegionRelease h
  | regionDeadline => exact canon_execRegionDeadline h
  | weightStoreRefresh => exact canon_execWeightStoreRefresh h
  | present => exact canon_execPresent h
  | verticalBlanking => exact Canon.ite h (canon_modHead h)
  | scanOut => exact canon_execScanOut h
  | tbstep => exact canon_execTbstep h
  | extend => exact canon_execExtend h
  | attest => exact canon_execAttest h
  | attestationDone => exact canon_execAttestationDone h
  | intstatClear => exact canon_execIntstatClear h
  | fixedClockEntry => exact Canon.ite (canon_trail (canon_modRegs h)) h
  | thermalTrip => exact Canon.ite (canon_leaveFixed (canon_modRegs h)) h
  | powerStretch => exact Canon.ite (canon_trail (canon_modRegs h)) h
  | powerHold => exact Canon.ite (canon_trail (canon_modRegs h)) h
  | holdRateLimitedResume => exact Canon.ite (canon_modRegs h) h
  | powerRelief => exact Canon.ite h (canon_relieve h)
  | powerStateEntry => exact canon_modRegs h
  | wake => exact Canon.ite (canon_modRegs h) h
  | ucieLinkFailure => exact canon_execUcieLinkFailure h
  | peerLinkStateChange => exact canon_execPeerLinkStateChange h
  | linkLossFault => exact canon_execLinkLossFault h
  | registerWrite => exact canon_execRegisterWrite h
  | packageReset => exact h
  | remappingStepEnd => exact canon_execRemappingStepEnd h
  | repairDone => exact Canon.ite h (Canon.ite h (canon_trail (canon_interrupt (canon_modRegs (Canon.ite
      (canon_resetDie h) h)))))
  | peerAccessRequest => exact Canon.ite (canon_outside h) (canon_outside h)
  | applicationCoreAccess => exact Canon.ite (Canon.ite (canon_windowStore h) h) (canon_outside h)

/-! ### The operations of `Machine/Moves` -/

theorem canon_nextMove {s : State} (h : Canon s) : OnSnd Canon s.nextMove := by
  unfold State.nextMove
  split <;> exact h

theorem canon_issueWord {s : State} {sid : ℕ} (h : Canon s) : OnNext Canon (s.issueWord sid) := by
  unfold State.issueWord
  split
  · exact h
  · refine OnNext.ite (canon_endClause h) ?_
    split
    · exact canon_exec h
    · exact canon_fault h

theorem canon_issueFirst {l : List ℕ} {s : State} (h : Canon s) : OnNext Canon (State.issueFirst l s) := by
  induction l generalizing s with
  | nil => exact h
  | cons sid l ih =>
    unfold State.issueFirst
    have hword := canon_issueWord (sid := sid) (canon_setCurrent (sid := sid) h)
    refine OnNext.ite ?_ ?_
    · split
      · next q heq =>
          have hq : Canon q := (congrArg (OnNext Canon) heq).mp hword
          exact OnNext.ite (ih hq) hq
      · exact hword
    · split
      · next q heq =>
          have hq : Canon q := (congrArg (OnSnd Canon) heq).mp (canon_trySheaf h)
          exact canon_setCurrent hq
      · next q heq =>
          have hq : Canon q := (congrArg (OnSnd Canon) heq).mp (canon_trySheaf h)
          exact ih (canon_breakRun hq)

theorem canon_issueOn {s : State} {core : ℕ} (h : Canon s) :
    OnNext Canon (s.issueOn core) := canon_issueFirst (canon_limitRun h)

theorem canon_weightError {s : State} {d off : ℕ} {double : Bool} (h : Canon s) :
    Canon (s.weightError d off double) := canon_modDie h

theorem canon_env {s : State} {e : Env} (h : Canon s) : Canon (s.env e) := by
  unfold State.env
  split
  · exact Canon.ite h h
  · exact Canon.ite (canon_ringError h) h
  · exact Canon.ite (canon_weightError h) h
  · exact Canon.ite (canon_pokePeer h) h
  · exact canon_landLane h
  · exact canon_boot h
  · exact canon_recArrives h
  · exact canon_splitLane h
  · exact canon_landReg h
  · exact canon_reAddr h
  · exact canon_reqElement h
  · exact canon_squeeze h
  · exact Canon.ite (canon_layerPower h) h

theorem canon_pass {s : State} {parts cycles : ℕ} (h : Canon s) : Canon (s.pass parts cycles) := by
  unfold State.pass
  extract_lets _ q q1
  have hq : Canon q := canon_stampStood h
  have hq1 : Canon q1 := canon_modRegs hq
  exact hq1

theorem canon_move {s : State} {m : Move} (h : Canon s) : OnNext Canon (s.move m) := by
  unfold State.move
  split
  · exact canon_issueOn h
  · exact OnNext.ite (canon_exec h) h
  · exact OnNext.ite (canon_storeAt h) h
  · exact canon_pass h
  · exact canon_env h

/-- Settles O56: every operation of the state keeps both memories canonical (`canon_exec`, `canon_move`). -/
theorem memoryStaysCanonical : Obligations.MemoryStaysCanonical := by
  intro s t h hstep
  have hnext : OnNext Canon (step s) := canon_move (canon_nextMove h)
  rw [hstep] at hnext
  exact hnext

end Sys2Proof.Laws


/-! SUPPORT. The frame of `st` (R276): a store whose operation carries a fault found at its home ends with the record of
that fault, and the device's accesses for the record mark page tables in GDDR 7 (R262, R433). -/

namespace Sys2Proof.Laws

open Machine

/-- A store without source values, which is held at its word and has found a plural fault at its home. -/
def faultedStore : LongOp :=
  { (default : LongOp) with
    instr := .st (plain 0 0 0 0 0)
    lanes := [default]
    hold := true
    faults := [(0, 7, 0, 0)] }

/-- A page table whose level-0 entry names the table at `0x4000`, the leaf entry of which has not been accessed. -/
def untouchedTable : Memory := [(0, 0x01), (1, 0x40), (0x4000, 0x07)]

/-- The machine with that store in flight, its sheaf at the word, and a context whose ring of fault records lies on the page. -/
def faultingState : State :=
  { State.reset with
    sheaves := [(0, { (default : Sheaf) with run := some default })]
    ctxs := [(0, newCtx 0)]
    ops := [(0, faultedStore)]
    mem := untouchedTable }

/-- What performing the store's lane leaves of memory: the fault's record has marked the leaf entry. -/
theorem faultingState_marks (t : State) (h : exec (.globalAccessPerformed 0 0) faultingState = .next t) :
    t.mem.read 0x4001 = 6 := by
  have hmem : (match exec (.globalAccessPerformed 0 0) faultingState with
      | .next t => t.mem.read 0x4001
      | _ => 0) = 6 := by decide +kernel
  rw [h] at hmem
  exact hmem

/-- Refutes O58 in its clause about a store that is not applied: the store of `faultingState` has no bytes, so its operation
ends at once with the plural fault that it carries, and the record of that fault walks the page table of the context, which
sets ACC and DIRTY in the leaf entry in GDDR 7. -/
theorem not_storeFrames : ¬ Obligations.StoreFrames := by
  unfold Obligations.StoreFrames
  intro h
  obtain ⟨t, hstep⟩ := exec_next (.globalAccessPerformed 0 0) faultingState
  obtain ⟨-, hst⟩ := h faultingState t 0 0 faultedStore (plain 0 0 0 0 0) rfl
  obtain ⟨hmem, -⟩ := hst default rfl rfl (by decide) (by decide) (by decide) (by decide) hstep
  have hread := faultingState_marks t hstep
  rw [hmem rfl] at hread
  exact absurd hread (by decide)

end Sys2Proof.Laws


/-! SUPPORT. Privilege (R418 to R420, R429), the return from the handler, links and accesses from outside (R288, R450 to
R452). -/

namespace Sys2Proof.Laws

open Machine

/-! ### Threads in and out of the handler -/

/-- A word of privileged threads is not a common thread's. -/
theorem common_eq_false {s : State} {i : Instr} {sid : Nat} {r : ClauseRun}
    (h : ∀ t ∈ acts s i sid r, ((s.sheaf sid).thread t).priv = true) : (issueOf s i sid r).common s = false := by
  simp only [Issue.common, List.any_eq_false]
  intro t ht
  simp [issueOf, h t ht]

/-- A word of a group with a thread outside the handler is. -/
theorem common_eq_true {s : State} {i : Instr} {sid : Nat} {r : ClauseRun}
    (h : ∃ t ∈ acts s i sid r, ((s.sheaf sid).thread t).priv = false) : (issueOf s i sid r).common s = true := by
  obtain ⟨t, ht, hp⟩ := h
  simp only [Issue.common, List.any_eq_true]
  exact ⟨t, ht, by simp [issueOf, hp]⟩

/-- A special register that the group may use. -/
theorem srPriv_and_common {s : State} {i : Instr} {sid n : Nat} {r : ClauseRun}
    (h : 0x20 ≤ n → ∀ t ∈ acts s i sid r, ((s.sheaf sid).thread t).priv = true) :
    (srPriv n && (issueOf s i sid r).common s) = false := by
  by_cases hn : 0x20 ≤ n
  · rw [common_eq_false (h hn), Bool.and_false]
  · simp [srPriv, hn]

/-- The upper half of the timebase as a word. -/
theorem upper_half (x : Nat) : BitVec.ofNat 32 (bits x 32 32) = BitVec.ofNat 32 (x / 2 ^ 32) := by
  apply BitVec.eq_of_toNat_eq
  simp [bits]

theorem specialRegisters_claim : Claims.SpecialRegisters := by
  intro f s sid r n allowed
  have hmod : f.mod 0 6 = n := fieldsMod_zero f 6
  refine ⟨fun h hp => goes_of_done h rfl ?_, fun h hact hp hw => ⟨fun hn => goes_of_done h rfl ?_,
    fun hn => goes_of_done h rfl ?_⟩⟩
  · refine (if_neg ?_).trans ?_
    · rw [hmod, srPriv_and_common hp]
      exact Bool.false_ne_true
    · simp only [upper_half, hmod]
      rfl
  · refine (if_neg hact).trans ((if_neg ?_).trans (((if_pos ?_ : ite (f.mod 0 6 ∈ [0x1A, 0x23, 0x24]) _ _ = _)).trans ?_))
    · rw [hmod, srPriv_and_common hp, hw]
      exact Bool.false_ne_true
    · rw [hmod]
      exact hn
    · rw [hmod]
      rfl
  · refine (if_neg hact).trans ((if_neg ?_).trans (((if_neg ?_ : ite (f.mod 0 6 ∈ [0x1A, 0x23, 0x24]) _ _ = _)).trans ?_))
    · rw [hmod, srPriv_and_common hp, hw]
      exact Bool.false_ne_true
    · rw [hmod]
      exact hn
    · rw [hmod]
      rfl

theorem privilegeChecks : Claims.PrivilegeChecks := by
  intro f s sid r bad trapped
  refine ⟨fun h hn hb => traps_of_trap h rfl (if_pos ?_), fun h hn hb => traps_of_trap h rfl ?_,
    fun h hb => traps_of_trap h rfl ?_⟩
  · rw [fieldsMod_zero, common_eq_true hb]
    simpa [srPriv] using hn
  · refine (if_neg (List.ne_nil_of_mem hb.choose_spec.1)).trans (if_pos ?_)
    rw [fieldsMod_zero, common_eq_true hb]
    simp [srPriv, hn]
  · exact (if_neg (List.ne_nil_of_mem hb.choose_spec.1)).trans (if_pos (common_eq_true hb))

/-- Settles O43: a word that the privilege check lets pass reads or writes its register, and any other traps. -/
theorem specialRegisters : Obligations.SpecialRegisters := by
  unfold Obligations.SpecialRegisters
  exact ⟨specialRegisters_claim, privilegeChecks⟩

theorem leavingThreads : Claims.LeavingThreads := by
  intro th
  refine ⟨fun live hold => ?_, fun hold => rfl, fun hm hw => ?_, fun k hm hw => ?_⟩
  · cases live <;> cases hold <;> simp [Thread.leave, Thread.wake]
    split <;> rfl
  · simp [Thread.leave, Thread.wake, hm, hw]
  · simp [Thread.leave, Thread.wake, hm, hw, wordAddr]

/-- A workgroup whose frame is assigned keeps it. -/
theorem takeFrame_of_isSome {s : State} {w : Nat} (h : (s.wg w).frame.isSome = true) : s.takeFrame w = some s :=
  if_pos h

theorem returnFromHandler_claim : Claims.ReturnFromHandler := by
  intro f s sid r h hact hp hf ended
  have hbody : ∀ q, (match f.xmod.toNat % 4 with
      | 1 =>
        if s.opsOf sid ≠ [] ∨ !(s.sheaf sid).drained ∨ s.tokenBusy sid then Result.wait s
        else match s.takeFrame (s.sheaf sid).wg with
          | none => .wait s
          | some s => .done ((ended s).evictSheaf sid)
      | 2 => .done ((ended s).killSheaf sid)
      | _ => .done ((ended s).leave sid (acts s (.tret f) sid r))) = .done q → Goes s (.tret f) sid q := by
    intro q hq
    refine goes_of_done h rfl ?_
    refine (if_neg hact).trans ((if_neg (by rw [common_eq_false hp]; exact Bool.false_ne_true)).trans
      ((if_neg (by simpa [issueOf] using hf)).trans ?_))
    rw [← hq, fieldsMod_zero]
    rfl
  have hevict : f.xmod.toNat % 4 = 1 → s.opsOf sid = [] → (s.sheaf sid).drained = true → s.tokenBusy sid = false →
      ∀ q, s.takeFrame (s.sheaf sid).wg = some q → Goes s (.tret f) sid ((ended q).evictSheaf sid) := by
    intro h1 hops hdr htok q hq
    refine hbody _ ?_
    rw [h1]
    simp [hops, hdr, htok, hq]
  refine ⟨fun h1 h2 => hbody _ ?_, fun h2 => hbody _ ?_, fun h1 hops hdr htok => ⟨fun hfr => ?_, hevict h1 hops hdr htok⟩⟩
  · split
    · contradiction
    · contradiction
    · rfl
  · rw [h2]
    rfl
  · exact hevict h1 hops hdr htok s (takeFrame_of_isSome hfr)

/-- Settles O42: each form of `tret` goes on with what R429 says of it. -/
theorem returnFromHandler : Obligations.ReturnFromHandler := by
  unfold Obligations.ReturnFromHandler
  exact ⟨returnFromHandler_claim, leavingThreads⟩

/-! ### Links and accesses from outside -/

theorem peerWritesAcknowledged : Claims.PeerWritesAcknowledged := by
  intro s n d b p hfind hget hup hturn
  change Host.Outcome.next _ = _
  simp only [hfind, hget]
  rw [if_pos ⟨hup, hturn⟩]

theorem linkStates : Claims.LinkStates := by
  refine ⟨fun s port st narrow hport hst hen hchange => ?_, fun s link hlink => ?_⟩
  · refine congrArg Host.Outcome.next (if_neg ?_)
    rintro (hbad | hbad | ⟨hbad, -⟩ | hsame)
    · omega
    · omega
    · simp [hen] at hbad
    · rcases hchange with hne | hne
      · exact hne (congrArg Port.state hsame).symm
      · exact hne (congrArg Port.narrow hsame).symm
  · refine congrArg Host.Outcome.next (if_neg ?_)
    rw [hlink]
    exact Bool.true_eq_false.mp ∘ id

/-- An ordinary mapping of context 0. -/
theorem outsideOf_store (pa : Nat) : outsideOf 1 pa = ⟨{ pa := pa, entry := 0 }, 0⟩ := by
  simp [outsideOf, bits]

theorem outsideAccesses : Claims.OutsideAccesses := by
  intro s pa size data cmp hin hpa
  have hwin : windowOf pa = none := if_pos hpa
  have hstore : ∀ data cmp, s.outside 1 pa size data cmp =
      s.homeStore (s.ctx 0) { pa := pa, entry := 0 } (natBytes size data) := by
    intro data cmp
    refine (if_neg (by simp [hin])).trans ?_
    rw [outsideOf_store]
    exact if_neg (by simp [Leaf.plural, bit])
  have hload : ∀ data cmp, s.outside 0 pa size data cmp = s := by
    intro data cmp
    exact (if_neg (by simp [hin])).trans rfl
  have happ : ∀ kind, exec (.applicationCoreAccess kind pa size data cmp) s = .next (s.outside kind pa size data cmp) := by
    intro kind
    refine congrArg Host.Outcome.next (if_neg ?_)
    simp [hwin]
  refine ⟨?_, (happ 1).trans (congrArg _ (hstore _ _)), ?_, (happ 0).trans (congrArg _ (hload _ _))⟩
  · exact (congrArg Host.Outcome.next (if_neg (by decide))).trans (congrArg _ (hstore _ _))
  · exact (congrArg Host.Outcome.next (if_neg (by decide))).trans (congrArg _ (hload _ _))

/-- Settles O30. -/
theorem linksAndOutside : Obligations.LinksAndOutside := by
  unfold Obligations.LinksAndOutside
  exact ⟨peerWritesAcknowledged, linkStates, outsideAccesses⟩

end Sys2Proof.Laws


/-! SUPPORT. Display heads, the timebase and the power states (R382, R454 to R459). -/

namespace Sys2Proof.Laws

open Machine

/-! ### Display heads -/

/-- What a PRESENT leaves of its head. -/
def presentHead (meets : Bool) (p : BitVec 128) (x : Head) : Head :=
  if meets then { x with current := some p, shown := false, took := true } else { x with pending := some p }

/-- A PRESENT of one of the five heads, which may fall into the cycle of its vertical blanking. -/
theorem exec_present {s : State} {h value : Nat} {meets : Bool} (hh : h < 5)
    (hm : ((s.head h).blankAt == some s.time.fabric) = meets) :
    let x := s.head h
    let p : BitVec 128 := BitVec.ofNat 128 (value % 2 ^ 64 * 2 ^ 64 + x.lo.toNat)
    let q := (s.modHead h (presentHead meets p)).trail (presentInfo 6 h p)
    exec (.present h value) s =
      .next (match (if meets then (if x.took then x.current else none) else x.pending) with
        | some o => q.trail (presentInfo 8 h o)
        | none => q) := by
  subst hm
  exact congrArg Host.Outcome.next (if_neg (by omega))

/-- The pixels' bytes of a head's rows, as numbers of its control register. -/
theorem rows_eq (x : Head) (p : BitVec 128) :
    x.rows p = (List.range (x.hctl.toNat / 2 ^ 36 % 2 ^ 14 + 1)).map fun y =>
      (p.toNat / 2 ^ 88 % 2 ^ 40 * 256 + y * (x.hctl.toNat / 2 ^ 20 % 2 ^ 16 * 16),
        (x.hctl.toNat / 2 ^ 50 % 2 ^ 14 + 1) * (if x.hctl.toNat / 2 ^ 18 % 4 = 0 then 4 else 8)) := by
  rfl

/-- A row in GDDR 7 without poison is delivered as it stands. -/
theorem scanRow_of {s : State} {pa n : Nat} (hin : s.inGddr pa n = true) (hp : s.poisoned pa n = false) :
    s.scanRow pa n = s.mem.readN pa n :=
  if_pos (by simp [hin, hp])

theorem displayHeads : Claims.DisplayHeads := by
  intro s h value hh p q now
  refine ⟨fun hb hp => ?_, fun o hb hp => ?_, fun hb ht => ?_, fun o hb ht hc => ?_, fun hen hb => ⟨fun o hp => ?_, fun hp => ?_⟩,
    fun o hc hen hs hb => ⟨((s.head h).rows o).flatMap fun r => s.scanRow r.1 r.2,
      congrArg Host.Outcome.next ?_, fun hrows => ?_⟩⟩
  · rw [exec_present hh (beq_eq_false_iff_ne.mpr hb)]
    simp only [hp]
    rfl
  · rw [exec_present hh (beq_eq_false_iff_ne.mpr hb)]
    simp only [hp]
    rfl
  · rw [exec_present hh (beq_iff_eq.mpr hb)]
    simp only [ht]
    rfl
  · rw [exec_present hh (beq_iff_eq.mpr hb)]
    simp only [ht, hc]
    rfl
  · refine congrArg Host.Outcome.next ((if_neg (by simpa [hen] using hb)).trans ?_)
    simp [State.modHead, hp, now]
  · refine congrArg Host.Outcome.next ((if_neg (by simpa [hen] using hb)).trans ?_)
    simp [State.modHead, hp, now]
  · simp only [hc]
    exact if_pos ⟨hen, hs, hb⟩
  · rw [rows_eq, List.flatMap_map]
    refine List.flatMap_congr fun y hy => ?_
    obtain ⟨hin, hpoison⟩ := hrows y (List.mem_range.mp hy)
    exact scanRow_of hin hpoison

/-! ### The timebase -/

/-- A number below half of the range is its own signed value. -/
theorem sext_of_lt {x : Nat} (h : x % 2 ^ 64 < 2 ^ 63) : sext 64 x = ((x % 2 ^ 64 : Nat) : Int) :=
  if_pos (by omega)

/-- One of the upper half is negative. -/
theorem sext_of_le {x : Nat} (h : 2 ^ 63 ≤ x % 2 ^ 64) : sext 64 x = ((x % 2 ^ 64 : Nat) : Int) - 2 ^ 64 :=
  if_neg (by omega)

theorem timebaseSteps : Claims.TimebaseSteps := by
  intro s value
  by_cases hpos : value % 2 ^ 64 < 2 ^ 63
  · refine ⟨_, congrArg Host.Outcome.next (if_pos ?_), fun _ => ?_, fun hneg => absurd hpos (by omega), rfl⟩
    · rw [sext_of_lt hpos]
      exact Int.natCast_nonneg _
    · have hadd : BitVec.ofInt 64 (sext 64 value) = BitVec.ofNat 64 value := by
        rw [sext_of_lt hpos, BitVec.ofInt_natCast]
        exact BitVec.eq_of_toNat_eq (by simp)
      simp only [hadd]
  · have hle : 2 ^ 63 ≤ value % 2 ^ 64 := by omega
    have hlt : value % 2 ^ 64 < 2 ^ 64 := Nat.mod_lt _ (by decide)
    refine ⟨_, congrArg Host.Outcome.next (if_neg ?_), fun h => absurd h hpos, fun _ => ?_, rfl⟩
    · rw [sext_of_le hle]
      omega
    · have habs : (sext 64 value).natAbs = 2 ^ 64 - value % 2 ^ 64 := by
        rw [sext_of_le hle]
        omega
      simp only [habs]

/-! ### Power -/

/-- Bytes stored in memory change no register. -/
theorem regs_poke (s : State) (pa : Nat) (bs : List Byte) : (s.poke pa bs).regs = s.regs := by
  unfold State.poke State.remember
  split <;> rfl

/-- A trail record changes the trail's registers and the interrupt bits alone. -/
theorem regs_trail (s : State) (i : TrailInfo) : ∃ wr hash lost n, (s.trail i).regs =
    { s.regs with trailwr := wr, trailhash := hash, traillost := lost, intstat := n } := by
  unfold State.trail
  dsimp only
  split
  · exact ⟨_, _, _, _, rfl⟩
  · split
    · simp only [State.modRegs, regs_poke]
      exact ⟨_, _, _, _, rfl⟩
    · exact ⟨_, _, _, _, rfl⟩

/-- A relief ends a stretch and a hold. -/
theorem regs_relieve (s : State) (mw : Nat) : (s.relieve mw).regs.stretch = false ∧ (s.relieve mw).regs.hold = false ∧
    (s.relieve mw).regs.trip = s.regs.trip ∧ (s.relieve mw).regs.ltol = s.regs.ltol := by
  have hstretch : ∀ q, q = (if s.regs.stretch then
      (s.modRegs (fun r => { r with stretch := false })).trail { event := 11, arg := mw } else s) →
      q.regs.stretch = false ∧ q.regs.trip = s.regs.trip ∧ q.regs.ltol = s.regs.ltol := by
    rintro q rfl
    split
    · obtain ⟨wr, hash, lost, n, hr⟩ := regs_trail (s.modRegs (fun r => { r with stretch := false })) { event := 11, arg := mw }
      rw [hr]
      exact ⟨rfl, rfl, rfl⟩
    · exact ⟨by simp_all, rfl, rfl⟩
  obtain ⟨hs, ht, hl⟩ := hstretch _ rfl
  unfold State.relieve
  dsimp only
  generalize (if s.regs.stretch then
      (s.modRegs (fun r => { r with stretch := false })).trail { event := 11, arg := mw } else s) = q at hs ht hl
  split
  · obtain ⟨wr, hash, lost, n, hr⟩ := regs_trail (q.modRegs (fun r => { r with hold := false, holdLimited := false }))
      { event := 13, arg := mw }
    rw [hr]
    exact ⟨hs, rfl, ht, hl⟩
  · exact ⟨hs, by simp_all, ht, hl⟩

/-- Fixed-clock mode is left with no stretch and no hold. -/
theorem regs_leaveFixed (s : State) (arg : Nat) : (s.leaveFixed arg).regs.trip = s.regs.trip ∧
    (s.leaveFixed arg).regs.fixedOn = false ∧ (s.leaveFixed arg).regs.fixed = false ∧
    (s.leaveFixed arg).regs.stretch = false ∧ (s.leaveFixed arg).regs.hold = false ∧
    (s.leaveFixed arg).regs.ltol = s.regs.ltol := by
  have hfree : ∀ (q : State) (mw : Nat), q.regs = s.regs →
      let x := ((q.relieve mw).modRegs (fun r => { r with fixed := false, fixedOn := false })).trail { event := 14, arg := arg }
      x.regs.trip = s.regs.trip ∧ x.regs.fixedOn = false ∧ x.regs.fixed = false ∧ x.regs.stretch = false ∧
        x.regs.hold = false ∧ x.regs.ltol = s.regs.ltol := by
    intro q mw hq x
    obtain ⟨hs, hh, ht, hl⟩ := regs_relieve q mw
    obtain ⟨wr, hash, lost, n, hr⟩ := regs_trail ((q.relieve mw).modRegs (fun r => { r with fixed := false, fixedOn := false }))
      { event := 14, arg := arg }
    rw [show x.regs = _ from hr]
    exact ⟨ht.trans (congrArg Regs.trip hq), rfl, rfl, hs, hh, hl.trans (congrArg Regs.ltol hq)⟩
  unfold State.leaveFixed
  have hregs : (if s.regs.stretch || s.regs.hold then s.undef else (0, s)).2.regs = s.regs := by
    split <;> rfl
  generalize (if s.regs.stretch || s.regs.hold then s.undef else (0, s)) = p at hregs
  exact hfree p.2 p.1.toNat hregs

theorem powerEvents : Claims.PowerEvents := by
  intro s mw
  refine ⟨fun hon hs hp => ?_, fun hon hh hp => ?_, fun d hd hh ht => ?_, fun hp => ?_, fun hf hon => ?_, fun hon => ?_,
    fun hlt hw => ?_, fun hle => ?_, fun hw => ?_, fun hw hle => ?_⟩
  · exact congrArg Host.Outcome.next (if_pos ⟨hon, hs, decide_eq_true hp⟩)
  · exact congrArg Host.Outcome.next (if_pos ⟨hon, hh, decide_eq_true hp⟩)
  · exact congrArg Host.Outcome.next (if_pos ⟨hd, hh, ht⟩)
  · refine ⟨s.relieve mw, congrArg Host.Outcome.next (if_neg ?_), (regs_relieve s mw).1, (regs_relieve s mw).2.1⟩
    simpa [State.reachesPower] using hp
  · exact congrArg Host.Outcome.next (if_pos ⟨hf, hon⟩)
  · obtain ⟨ht, hon', hf, hs, hh, -⟩ := regs_leaveFixed (s.modRegs fun r => { r with trip := true }) 2
    exact ⟨_, congrArg Host.Outcome.next (if_pos hon), ht, hon', hf, hs, hh⟩
  · exact congrArg (fun r => Host.Outcome.next { s with regs := r }) 
      (if_pos (show s.regs.pstate.toNat < s.lowest.toNat ∧ s.regs.waking = none from ⟨hlt, hw⟩))
  · refine congrArg (fun r => Host.Outcome.next { s with regs := r }) (if_neg ?_)
    rintro ⟨hlt, hnone⟩
    rcases hle with hle | hsome
    · omega
    · simp [hnone] at hsome
  · exact congrArg Host.Outcome.next (if_pos hw)
  · exact congrArg Host.Outcome.next (if_neg (by simp [hw]; omega))

/-- Settles O50. -/
theorem displayTimePower : Obligations.DisplayTimePower := by
  unfold Obligations.DisplayTimePower
  exact ⟨displayHeads, timebaseSteps, powerEvents⟩

end Sys2Proof.Laws


/-! SUPPORT. Repair, package reset, the trust registers and the other registers' stores (R437, R445 to R462). -/

namespace Sys2Proof.Laws

open Machine

/-! ### Repair -/

theorem takeFrame_cores {s q : State} {w : Nat} (h : s.takeFrame w = some q) : q.cores = s.cores := by
  unfold State.takeFrame at h
  dsimp only at h
  split at h
  · cases h
    rfl
  · split at h
    · cases h
    · cases h
      rfl

theorem oust_cores (s : State) (w : Nat) : (s.oust w).cores = s.cores := by
  unfold State.oust
  split
  · rfl
  · split
    · rfl
    · next q hq =>
      exact (each_keeps State.cores (f := fun sid s => State.oweEvict s sid) (fun _ _ => rfl) _ _).trans
        ((show (q.modWg w _).cores = q.cores from rfl).trans (takeFrame_cores hq))

/-- What one step sets of its core and no other step takes from it stands for every core of a list. -/
theorem core_each {P : Core → Prop} {g : Nat → State → State} (hset : ∀ c s, P ((g c s).core c))
    (hkeep : ∀ c s k, P (s.core k) → P ((g c s).core k)) (k : Nat) (l : List Nat) :
    ∀ s : State, k ∈ l ∨ P (s.core k) → P ((each l g s).core k) := by
  induction l with
  | nil =>
    rintro s (h | h)
    · cases h
    · exact h
  | cons c l ih =>
    intro s h
    refine ih (g c s) ?_
    rcases h with h | h
    · rcases List.mem_cons.mp h with rfl | h
      · exact .inr (hset k s)
      · exact .inl h
    · exact .inr (hkeep c s k h)

/-- A core that is set stands so, whatever was changed before. -/
theorem core_modCore_of {P : Core → Prop} {f : Core → Core} (hf : ∀ x, P (f x)) (s : State) (c k : Nat)
    (h : P (s.core k)) : P ((s.modCore c f).core k) := by
  by_cases hk : k = c
  · subst hk
    rw [State.core_modCore]
    exact hf _
  · rw [State.core_modCore_ne _ _ hk]
    exact h

theorem fenced_of_fence (cs : List Nat) (k : Nat) (s : State) (hk : k ∈ cs) : ((s.fence cs).core k).fenced = true := by
  have hcores : ∀ c s j, (each ((State.wgsOn s c).map (·.1)) (fun w s => s.oust w)
      (s.modCore c (fun k => { k with fenced := true }))).core j = (s.modCore c (fun k => { k with fenced := true })).core j := by
    intro c s j
    exact congrArg (fun l : Tab Core => (l.get j).getD Core.reset) (each_keeps State.cores (fun w s => oust_cores s w) _ _)
  refine core_each (P := fun x => x.fenced = true) (fun c s => ?_) (fun c s j h => ?_) k cs s (.inl hk)
  · rw [hcores, State.core_modCore]
  · rw [hcores]
    exact core_modCore_of (P := fun x => x.fenced = true) (fun _ => rfl) s c j h

/-- What a fence command leaves when it has run. -/
def fenceRun (s : State) (cs : List Nat) : State :=
  if (s.fence cs).vacant cs then (s.fence cs).repaired else s.fence cs

/-- Its cores are fenced, and with them empty it has done its part. -/
theorem fenceRun_fenced (s : State) (cs : List Nat) {k : Nat} (hk : k ∈ cs) : ((fenceRun s cs).core k).fenced = true := by
  unfold fenceRun
  split
  · exact fenced_of_fence cs k s hk
  · exact fenced_of_fence cs k s hk

theorem fenceRun_done (s : State) (cs : List Nat) (h : (fenceRun s cs).vacant cs = true) :
    (fenceRun s cs).regs.repairDone = true := by
  unfold fenceRun at h ⊢
  split
  · rfl
  · next hv =>
    rw [if_neg hv] at h
    exact absurd h hv

theorem mem_coresOfDie (d : Nat) {k : Nat} (hk : k < 32) : 32 * d + k ∈ coresOfDie d := by
  rw [coresOfDie, List.mem_range'_1]
  omega

/-- The cores of a die that is reset. -/
theorem core_resetDie (s : State) (d k : Nat) (hk : k < 32) : (s.resetDie d).core (32 * d + k) = Core.reset := by
  have hpods : ∀ (l : List Nat) (q : State), (each l (fun p s => s.modPod p (fun _ => Pod.reset)) q).cores = q.cores :=
    fun l q => each_keeps State.cores (fun p s => State.modPod_cores s p _) l q
  have hcore : (s.resetDie d).cores = (each (coresOfDie d) (fun c s => s.modCore c (fun _ => Core.reset)) s).cores := by
    rw [State.resetDie, State.modDie_cores, hpods]
  rw [State.core, hcore]
  refine core_each (P := fun x => x = Core.reset) (fun c s => State.core_modCore ..)
    (fun c s j h => core_modCore_of (P := fun x => x = Core.reset) (fun _ => rfl) s c j h) _ (coresOfDie d) s
    (.inl (mem_coresOfDie d hk))

/-- A trail record changes no core. -/
theorem cores_trail (s : State) (i : TrailInfo) : (s.trail i).cores = s.cores := by
  obtain ⟨m, r, w, l, h, -⟩ := trail_eq s i
  rw [h]

/-- A trail record clears no interrupt bit. -/
theorem intstat_trail {s : State} {b : Nat} (i : TrailInfo) (h : s.regs.intstat.getLsbD b = true) :
    (s.trail i).regs.intstat.getLsbD b = true := by
  unfold State.trail
  dsimp only
  split
  · simp [State.interrupt, State.modRegs, h]
  · split
    · simpa only [State.modRegs, regs_poke] using h
    · exact h

/-- What the end of a repair leaves. -/
theorem repairEnd_leaves (s q : State) (i : TrailInfo)
    (hq : q = if s.regs.repair.op = 3 then s.resetDie s.regs.repair.target.toNat else s) :
    let t := ((q.modRegs (fun r => { r with repair := { r.repair with busy := false }, repairDone := false })).interrupt
      5).trail i
    t.regs.repair.busy = false ∧ t.regs.repairDone = false ∧ t.regs.intstat.getLsbD 5 = true ∧
      (s.regs.repair.op = 3 → ∀ k < 32, t.core (32 * s.regs.repair.target.toNat + k) = Core.reset) := by
  intro t
  have hint : t.regs.intstat.getLsbD 5 = true :=
    intstat_trail i (by simp [State.interrupt, State.modRegs])
  obtain ⟨wr, hash, lost, n, hregs⟩ := regs_trail ((q.modRegs (fun r => { r with
    repair := { r.repair with busy := false }, repairDone := false })).interrupt 5) i
  refine ⟨?_, ?_, hint, fun hop k hk => ?_⟩
  · exact (congrArg (fun r : Regs => r.repair.busy) hregs).trans rfl
  · exact (congrArg Regs.repairDone hregs).trans rfl
  · rw [if_pos hop] at hq
    refine (congrArg (fun l : Tab Core => (l.get _).getD Core.reset) (cores_trail _ i)).trans ?_
    change q.core _ = _
    rw [hq]
    exact core_resetDie s _ k hk

theorem repairAndReset : Claims.RepairAndReset := by
  intro s c d
  refine ⟨fun h => ?_, fun h => ?_, fun h => ?_, fun hbusy hdone hwait => ?_, rfl⟩
  · exact ⟨fenceRun s [c], congrArg Host.Outcome.next (if_neg (by simp [h])), fenceRun_fenced s [c] (List.mem_singleton_self c),
      fenceRun_done s [c]⟩
  · refine ⟨(s.modCore c (fun k => { k with fenced := false })).repaired,
      congrArg Host.Outcome.next (if_neg (by simp [h])), ?_, rfl, rfl, rfl⟩
    exact congrArg Core.fenced (State.core_modCore s c fun k => { k with fenced := false })
  · exact ⟨fenceRun s (coresOfDie d), congrArg Host.Outcome.next (if_neg (by simp [h])),
      fun k hk => fenceRun_fenced s _ (mem_coresOfDie d hk), fenceRun_done s _⟩
  · refine ⟨_, congrArg Host.Outcome.next ((if_neg ?_).trans (if_neg ?_)), ?_⟩
    · simp [hbusy, hdone]
    · rintro ⟨hop, hlt⟩
      exact absurd (hwait hop) (by omega)
    · exact repairEnd_leaves s _ _ rfl

/-! ### Measurements and attestation -/

theorem trustRegisters : Claims.TrustRegisters := by
  intro s value
  refine ⟨rfl, fun h4 h16 => ⟨_, congrArg Host.Outcome.next (if_pos ⟨h4, h16⟩), fun hlt => ?_, fun k hk => ?_, rfl⟩,
    fun h => congrArg Host.Outcome.next (if_neg (by omega)), fun h => ?_, fun h => congrArg Host.Outcome.next (if_pos h)⟩
  · simp only [State.modRegs, modAt, List.getD_eq_getElem?_getD, List.getElem?_modify]
    simp [List.getElem?_eq_getElem hlt, Machine.measure]
  · simp only [State.modRegs, modAt, List.getD_eq_getElem?_getD, List.getElem?_modify]
    simp [Ne.symm hk]
  · refine (congrArg Host.Outcome.next (if_neg (by simp [h]))).trans ?_
    simp [State.modRegs, bits, bit]

/-! ### Stores to registers -/

/-- A store to the context window. -/
theorem exec_writeContext (s : State) (value : Nat) :
    exec (.registerWrite (0x001004000000 + 8) value) s = .next (s.writeContext 8 value) := rfl

/-- A store to the system window. -/
theorem exec_writeSystem (s : State) (value : Nat) {o : Nat} (ho : o < 0x10000) (h8 : o % 8 = 0) :
    exec (.registerWrite (0x0010040C0000 + o) value) s = .next (s.writeSystem o value) := by
  have hwin : windowOf (0x0010040C0000 + o) = some (.system, o) := by
    have hoff : 0x0010040C0000 + o - windowBase = 0x040C0000 + o := by
      simp only [windowBase]
      omega
    unfold windowOf
    rw [hoff, if_neg (by simp only [windowBase]; omega)]
    repeat rw [if_neg (by omega)]
    rw [if_pos (by omega), Nat.add_sub_cancel_left]
  refine congrArg Host.Outcome.next ((if_neg (by omega)).trans ?_)
  rw [hwin]

/-- A store to the window of a display head. -/
theorem exec_writeHead (s : State) (value : Nat) {h : Nat} (hh : h < 5) :
    exec (.registerWrite (0x0010040D0000 + 0x1000 * h) value) s = .next (s.modHead h fun x => x.writeReg 0 value) := by
  have hwin : windowOf (0x0010040D0000 + 0x1000 * h) = some (.head h, 0) := by
    have hoff : 0x0010040D0000 + 0x1000 * h - windowBase = 0x040D0000 + 0x1000 * h := by
      simp only [windowBase]
      omega
    unfold windowOf
    rw [hoff, if_neg (by simp only [windowBase]; omega)]
    repeat rw [if_neg (by omega)]
    rw [if_pos (by omega), Nat.add_sub_cancel_left, Nat.mul_div_cancel_left h (by omega),
      show (0x040D0000 + 0x1000 * h) % 0x1000 = 0 by omega]
  refine congrArg Host.Outcome.next ((if_neg (by omega)).trans ?_)
  rw [hwin]

/-- The lowest bits of a number. -/
theorem bits_zero_lo (x n : Nat) : bits x 0 n = x % 2 ^ n := by
  simp [bits]

/-- The rate of the timebase is held within its limits. -/
theorem toInt_clampRate (value : Nat) :
    (clampRate value).toInt = max (-2147483) (min 2147483 (BitVec.ofNat 32 value).toInt) := by
  have hsext : sext 32 value = (BitVec.ofNat 32 value).toInt := by
    simp only [sext, BitVec.toInt_eq_toNat_cond, BitVec.toNat_ofNat]
    rfl
  have hround : ∀ y : Int, -2147483 ≤ y → y ≤ 2147483 → (BitVec.ofInt 32 y).toInt = y := by
    intro y hlo hhi
    rw [BitVec.toInt_ofInt]
    exact Int.bmod_eq_of_le (by norm_num; omega) (by norm_num; omega)
  unfold clampRate
  rw [hsext, hround]
  · split_ifs <;> omega
  · split_ifs <;> omega
  · split_ifs <;> omega

/-- A store to the context command register. -/
theorem writeContext_command (s : State) (v : Nat) : s.writeContext 8 v = s.rouse.modRegs fun r => { r with
    ctxcmd := r.ctxcmd.write (v / 2 ^ 56 % 16) (v % 2 ^ 12) (decide (1 ≤ v / 2 ^ 56 % 16 ∧ v / 2 ^ 56 % 16 ≤ 6))
    invalAt := if (v / 2 ^ 56 % 16 = 1 ∨ v / 2 ^ 56 % 16 = 2) ∧ !r.ctxcmd.busy then s.writes else r.invalAt } := by
  refine (if_pos rfl).trans ?_
  simp only [bits_zero_lo]
  rfl

/-- A device that is awake is not roused. -/
theorem rouse_of_awake {s : State} (h : s.asleep = false) : s.rouse = s :=
  if_neg (by simp [h])

/-- A device that sleeps is waking once it is roused. -/
theorem waking_rouse {s : State} (h : s.asleep = true) : s.rouse.regs.waking.isSome = true := by
  unfold State.rouse
  split
  · rfl
  · next hn =>
    simp only [h, true_and] at hn
    exact Option.isSome_iff_ne_none.mpr hn

/-- Writing PWRCTL with FIXED ends nothing. -/
theorem writePower_fixed {s : State} {v : Nat} (h : v / 4 % 2 = 1) :
    s.writePower v = s.modRegs fun r => { r with ltol := BitVec.ofNat 32 (v / 2 ^ 8 % 2 ^ 32), fixed := true } := by
  have hbit : bit v 2 = true := beq_iff_eq.mpr h
  refine (if_neg ?_).trans ?_
  · simp [hbit]
  · rw [hbit]
    rfl

/-- Writing it without FIXED leaves fixed-clock mode. -/
theorem writePower_free {s : State} {v : Nat} (h : v / 4 % 2 = 0) :
    (s.writePower v).regs.ltol = BitVec.ofNat 32 (v / 2 ^ 8 % 2 ^ 32) ∧ (s.writePower v).regs.fixed = false ∧
      (s.writePower v).regs.fixedOn = false := by
  have hbit : bit v 2 = false := by simp [bit, h]
  unfold State.writePower
  rw [hbit]
  dsimp only
  split
  · obtain ⟨-, hon, hf, -, -, hl⟩ := regs_leaveFixed (s.modRegs fun r => { r with
      ltol := BitVec.ofNat 32 (bits v 8 32), fixed := false }) 0
    exact ⟨hl, hf, hon⟩
  · next hon => exact ⟨rfl, rfl, by simpa using hon⟩

/-- REPAIR starts a fence or its end while no command runs. -/
theorem writeRepair_of_idle {s : State} {v : Nat} (hb : s.regs.repair.busy = false)
    (hop : v / 2 ^ 56 % 16 = 1 ∨ v / 2 ^ 56 % 16 = 2) : s.writeRepair v = s.modRegs fun r => { r with
      repairDone := false
      repair := { r.repair with busy := true, err := false, op := BitVec.ofNat 4 (v / 2 ^ 56 % 16)
                                target := BitVec.ofNat 12 (v % 2 ^ 8) } } := by
  have hbits : bits v 56 4 = v / 2 ^ 56 % 16 := rfl
  unfold State.writeRepair
  rw [hbits, bits_zero_lo]
  generalize v / 2 ^ 56 % 16 = op at hop ⊢
  rcases hop with rfl | rfl <;> simp [hb, State.modRegs, Command.write]

theorem registerStores : Claims.RegisterStores := by
  intro s value at_ sys
  have hsys : ∀ o, o < 0x10000 → o % 8 = 0 → exec (sys o) s = .next (s.writeSystem o value) :=
    fun o ho h8 => exec_writeSystem s value ho h8
  have hctx : exec (at_ 8) s = .next (s.writeContext 8 value) := exec_writeContext s value
  refine ⟨fun ha hb => ?_, fun ha => ⟨_, hctx, ?_⟩, fun h hh => ?_, fun ha hb h1 h6 => ?_,
    ⟨_, hsys 0x18 (by decide) (by decide), ?_, rfl⟩, fun hf => ?_, fun hf => ⟨_, hsys 0 (by decide) (by decide), ?_⟩, ?_, ?_,
    fun hb hop => ?_⟩
  · rw [hctx, writeContext_command, rouse_of_awake ha]
    simp [State.modRegs, Command.write, hb]
  · rw [writeContext_command]
    exact waking_rouse ha
  · rw [exec_writeHead s value hh]
    simp only [Head.writeReg, bits_zero_lo]
    rfl
  · refine ⟨if (value / 2 ^ 56 % 16 = 1 ∨ value / 2 ^ 56 % 16 = 2) ∧ !s.regs.ctxcmd.busy then s.writes else s.regs.invalAt, ?_⟩
    rw [hctx, writeContext_command, rouse_of_awake ha]
    simp only [State.modRegs, Command.write, hb, h1, h6]
    rfl
  · exact toInt_clampRate value
  · rw [hsys 0 (by decide) (by decide)]
    exact congrArg Host.Outcome.next (writePower_fixed hf)
  · exact writePower_free hf
  · rw [hsys 0x20 (by decide) (by decide)]
    simp only [State.writeSystem, State.modRegs, bits_zero_lo]
    rfl
  · rw [hsys 0x30 (by decide) (by decide)]
    rfl
  · rw [hsys 0x88 (by decide) (by decide)]
    exact congrArg Host.Outcome.next (writeRepair_of_idle hb hop)

/-- Settles O49. -/
theorem repairResetRegisters : Obligations.RepairResetRegisters := by
  unfold Obligations.RepairResetRegisters
  exact ⟨repairAndReset, trustRegisters, registerStores⟩

end Sys2Proof.Laws


/-! SUPPORT. The context commands (R267, R269, R434, R446, R447). -/

namespace Sys2Proof.Laws

open Machine

/-- A command that runs is not passed over. -/
theorem not_ctxCmd {s : State} {op n : Nat} (h : s.ctxCmd op n = true) : ¬ (!s.ctxCmd op n) = true := by
  simp [h]

/-- A number read at a physical address draws on the open choices alone. -/
theorem physNum_snd (s : State) (pa n : Nat) : (s.physNum pa n).2 = { s with free := (s.physNum pa n).2.free } := by
  unfold State.physNum
  split
  · rfl
  · split <;> rfl

/-- What a table holds at a key is one of its entries. -/
theorem tab_mem_of_get {α : Type} {t : Tab α} {k : Nat} {a : α} (h : t.get k = some a) : (k, a) ∈ t := by
  induction t with
  | nil => cases h
  | cons p t ih =>
    obtain ⟨i, b⟩ := p
    simp only [Tab.get] at h
    split at h
    · next hi =>
      cases h
      exact List.mem_cons.mpr (.inl (by rw [hi]))
    · exact List.mem_cons_of_mem _ (ih h)

/-! ### Graphs that are given up -/

/-- No admitted graph of context `n` stands at `k`. -/
def GivenUp (n : Nat) (s : State) (k : Nat) : Prop :=
  ∀ g, s.graphs.get k = some g → g.ctx = n → g.stage ≠ .admitted

/-- A forgotten graph is another's neighbour. -/
theorem forgetGraph_get_ne (s : State) {j k : Nat} (h : j ≠ k) : (s.forgetGraph k).graphs.get j = s.graphs.get j := by
  unfold State.forgetGraph
  split
  · rfl
  · split
    · exact Tab.get_del_ne _ h
    · rfl

/-- What is forgotten is gone, and what is not stands as it was. -/
theorem forgetGraph_get_self (s : State) (k : Nat) :
    (s.forgetGraph k).graphs.get k = none ∨ (s.forgetGraph k).graphs.get k = s.graphs.get k := by
  unfold State.forgetGraph
  split
  · exact .inr rfl
  · split
    · exact .inl (Tab.get_del_self _ _)
    · exact .inr rfl

theorem killGraph_get_ne (s : State) {j k : Nat} (h : j ≠ k) : (s.killGraph k).graphs.get j = s.graphs.get j := by
  refine (forgetGraph_get_ne _ h).trans ?_
  exact Tab.get_mod_ne _ _ h

theorem givenUp_killGraph (n : Nat) (s : State) (k : Nat) : GivenUp n (s.killGraph k) k := by
  intro g hg hn
  unfold State.killGraph at hg
  dsimp only at hg
  generalize hq : State.modRegs _ _ = q at hg
  have hstage : ∀ g, q.graphs.get k = some g → g.stage = .retired := by
    intro g hg
    rw [← hq] at hg
    obtain ⟨g', -, rfl⟩ := Option.map_eq_some_iff.mp ((Tab.get_mod_self _ _ _).symm.trans hg)
    rfl
  rcases forgetGraph_get_self q k with h | h
  · rw [h] at hg
    cases hg
  · rw [h] at hg
    rw [hstage g hg]
    decide

/-- Once the graphs of a list are killed, an admitted graph of the context stands nowhere if it stood in the list only. -/
theorem givenUp_each (n : Nat) (l : List Nat) : ∀ s : State, (∀ k, k ∉ l → GivenUp n s k) →
    ∀ k, GivenUp n (each l (fun g s => s.killGraph g) s) k := by
  induction l with
  | nil => exact fun s h k => h k (List.not_mem_nil)
  | cons c l ih =>
    intro s h
    refine ih (s.killGraph c) fun k hk => ?_
    by_cases hc : k = c
    · subst hc
      exact givenUp_killGraph n s k
    · intro g hg
      rw [killGraph_get_ne s hc] at hg
      exact h k (by simp [hc, hk]) g hg

/-- A LOAD of a context that is not loaded. -/
theorem exec_load {s : State} {n : Nat} {x : Nat × State} (h : s.ctxCmd 1 n = true)
    (hx : s.physNum (s.regs.ctxbase.toNat + 128 * n) 128 = x) (hnone : ctxOk x.1 = true → x.2.ctxs.get n = none) :
    exec (.load n) s = .next (if ctxOk x.1 then { x.2 with ctxs := x.2.ctxs.put n (newCtx x.1) }.endCtxCmd false
      else x.2.endCtxCmd true) := by
  refine congrArg Host.Outcome.next ((if_neg (not_ctxCmd h)).trans ?_)
  rw [hx]
  cases hok : ctxOk x.1 with
  | false => simp [hok]
  | true => simp [hok, hnone hok]

/-- A context's translations are in no cache once they are dropped, and no clause from before the command may be fetched. -/
theorem dropCaches_leaves (s : State) (n : Nat) :
    (∀ c ∈ (s.dropCaches n).cores, ∀ e ∈ c.2.tlb, e.ctx ≠ n) ∧ (∀ d ∈ (s.dropCaches n).dies, ∀ e ∈ d.2.tlb, e.ctx ≠ n) ∧
      ∀ p ∈ (s.dropCaches n).was, s.regs.invalAt ≤ p.1 := by
  refine ⟨fun c hc e he => ?_, fun d hd e he => ?_, fun p hp => ?_⟩
  · obtain ⟨q, -, rfl⟩ := List.mem_map.mp hc
    simpa using (List.mem_filter.mp he).2
  · obtain ⟨q, -, rfl⟩ := List.mem_map.mp hd
    simpa using (List.mem_filter.mp he).2
  · simpa using (List.mem_filter.mp hp).2

/-- A context's halt has ended where its table entry says so. -/
theorem halt_modCtx (s : State) (n : Nat) {f : Ctx → Ctx} (hf : ∀ c, (f c).halt = none) : ((s.modCtx n f).ctx n).halt = none := by
  simp only [State.ctx, State.modCtx, Tab.get_mod_self]
  cases s.ctxs.get n with
  | none => rfl
  | some c => exact hf c

/-- Settles O48: each command, while it runs, has the effect that R447 gives it. -/
theorem contextCommands : Obligations.ContextCommands := by
  unfold Obligations.ContextCommands
  intro s n value x
  have hx : x.2 = { s with free := x.2.free } := physNum_snd s _ _
  refine ⟨fun h hok => ?_, fun h hok hnone => ?_, fun h hw => ?_, fun h hw => ?_, fun h => ?_, fun h => ?_, fun h hh => ?_,
    fun h => ?_, fun h => ?_, fun h => ?_, fun h => ?_⟩
  · rw [exec_load h rfl (fun hok' => absurd hok' (by simp [x, hok])), if_neg (by simp [x, hok])]
  · have hget : x.2.ctxs.get n = none := by
      rw [hx]
      exact hnone
    refine ⟨_, (exec_load h rfl fun _ => hget).trans (congrArg Host.Outcome.next (if_pos hok)), ?_⟩
    change (x.2.ctxs.put n _).get n = _ ∧ (∀ m, m ≠ n → (x.2.ctxs.put n _).get m = _) ∧ _ = _ ∧ x.2.mem = _
    rw [hx]
    exact ⟨Tab.get_put_self _ _ _, fun m hm => Tab.get_put_ne _ _ hm, rfl, rfl⟩
  · exact congrArg Host.Outcome.next ((if_neg (not_ctxCmd h)).trans (if_pos hw))
  · refine ⟨_, congrArg Host.Outcome.next ((if_neg (not_ctxCmd h)).trans (if_neg (by simp [hw]))), ?_⟩
    exact ⟨Tab.get_del_self _ _, fun m hm => Tab.get_del_ne _ hm, rfl, rfl⟩
  · obtain ⟨hcores, hdies, hwas⟩ := dropCaches_leaves s n
    cases ha : s.accessing n with
    | true =>
      refine ⟨s.dropCaches n, congrArg Host.Outcome.next ((if_neg (not_ctxCmd h)).trans (if_pos ha)), hcores, hdies, hwas, rfl,
        fun hf => Bool.noConfusion hf, fun _ => rfl⟩
    | false =>
      refine ⟨(s.dropCaches n).endCtxCmd false, congrArg Host.Outcome.next ((if_neg (not_ctxCmd h)).trans (if_neg ?_)),
        hcores, hdies, hwas, rfl, fun _ => rfl, fun hf => Bool.noConfusion hf⟩
      exact fun hf => Bool.noConfusion (ha.symm.trans hf)
  · exact congrArg Host.Outcome.next (if_neg (not_ctxCmd h))
  · exact congrArg Host.Outcome.next ((if_neg (not_ctxCmd h)).trans (if_pos (by simp [hh])))
  · cases hh : s.halted n with
    | false =>
      refine ⟨s.endCtxCmd false, congrArg Host.Outcome.next ((if_neg (not_ctxCmd h)).trans (if_pos (by simp [hh]))), ?_, rfl, rfl, rfl⟩
      exact Option.not_isSome_iff_eq_none.mp (fun hs => Bool.noConfusion (hh.symm.trans hs))
    | true =>
      refine ⟨_, congrArg Host.Outcome.next ((if_neg (not_ctxCmd h)).trans (if_neg (by simp [hh]))), ?_, rfl, rfl, rfl⟩
      exact halt_modCtx s n fun _ => rfl
  · refine ⟨_, congrArg Host.Outcome.next (if_neg (not_ctxCmd h)), ?_⟩
    refine ⟨halt_modCtx _ n fun _ => rfl, rfl, fun k g hg hn => ?_⟩
    refine givenUp_each n _ _ (fun k hk g hg hn hst => ?_) k g hg hn
    refine hk (List.mem_map_of_mem (f := fun p : Nat × Graph => p.1) (List.mem_filter.mpr ⟨tab_mem_of_get hg, ?_⟩))
    exact Bool.and_eq_true_iff.mpr ⟨decide_eq_true hn, beq_iff_eq.mpr hst⟩
  · exact congrArg Host.Outcome.next (if_pos h)
  · exact congrArg Host.Outcome.next (if_neg h)

end Sys2Proof.Laws


/-! SUPPORT. The time-triggered table, and the intake and admission of graphs (R353, R355, R375 to R378). -/

namespace Sys2Proof.Laws

open Machine

/-! ### The time-triggered table -/

/-- What makes a table refused. -/
theorem ttRefused_iff (r : Regs) : r.ttRefused = true ↔ rising r.valid = false ∨
    ∃ e ∈ r.valid, (r.ttperiod ≠ 0 ∧ r.ttperiod.toNat ≤ e.2.offset.toNat) ∨ 4095 < e.2.ctx.toNat := by
  simp [Regs.ttRefused]

theorem timeTriggeredTable : Claims.TimeTriggeredTable := by
  intro s value
  refine ⟨fun h0 => ?_, fun h1 hrun => ⟨fun hbad => ?_, fun hrise hgood => ?_⟩, fun k e i hdue ha => ?_, fun k e i hdue ha => ?_⟩
  · refine congrArg (fun r => Host.Outcome.next { s with regs := r }) (if_pos ?_)
    simp [bit, h0]
  · refine congrArg (fun r => Host.Outcome.next { s with regs := r }) ((if_neg ?_).trans ((if_neg ?_).trans (if_pos ?_)))
    · simp [bit, h1]
    · simp [hrun]
    · exact (ttRefused_iff _).mpr hbad
  · refine congrArg (fun r => Host.Outcome.next { s with regs := r }) ((if_neg ?_).trans ((if_neg ?_).trans (if_neg ?_)))
    · simp [bit, h1]
    · simp [hrun]
    · rw [ttRefused_iff]
      rintro (hfall | ⟨e, he, ⟨hp, hle⟩ | hlt⟩)
      · simp [hrise] at hfall
      · exact absurd ((hgood e he).1 hp) (by omega)
      · exact absurd (hgood e he).2 (by omega)
  · change Host.Outcome.next _ = _
    rw [hdue]
    exact congrArg Host.Outcome.next (if_pos ha)
  · refine ⟨fun hg => ?_, fun hg => ?_⟩
    · change Host.Outcome.next _ = _
      rw [hdue]
      exact congrArg Host.Outcome.next ((if_neg (by simp [ha])).trans (if_pos hg))
    · change Host.Outcome.next _ = _
      rw [hdue]
      exact congrArg Host.Outcome.next ((if_neg (by simp [ha])).trans (if_neg (by simp [State.modRegs, hg])))

/-! ### Intake -/

/-- What intake makes of the records that it has read. -/
def intakeEnd (t : State) (n : Nat) (g' : Graph) : Except IntakeErr Read → State
  | .error e => if e.code = 0 then t else t.rejectGraph n g' e
  | .ok q =>
    match [q.phase1, (if q.phase1.isSome then none else q.g.phase2 t.ringCap)].findSome? id with
    | some e => t.rejectGraph n q.g e
    | none =>
      match q.g.dryErr with
      | some e => t.rejectGraph n q.g e
      | none => { t with graphs := t.graphs.put n { q.g with stage := .waiting } }

theorem exec_graphIntake {s t : State} {n : Nat} {g g' : Graph} {r : Except IntakeErr Read}
    (hg : s.graphs.get n = some g) (hst : g.stage = .intake) (hr : s.readGraph g = ((g', r), t)) :
    exec (.graphIntake n) s = .next (intakeEnd t n g' r) := by
  change Host.Outcome.next _ = _
  rw [hg]
  refine congrArg Host.Outcome.next ((if_neg (by simp [hst])).trans ((if_neg (by simp [hst])).trans ?_))
  rw [hr]
  cases r <;> rfl

/-! ### Admission -/

/-- Setting the ring counts of a graph anew changes nothing else of it. -/
theorem freshRings_keeps {β : Type} (p : Graph → β) (hp : ∀ g l, p { g with rings := l } = p g) (g : Graph) :
    p g.freshRings = p g := by
  have hup : ∀ (c : Bool) (g : Graph) (r i : Nat), p (if (g.res r).cls = 1 then
      g.modRing r i (fun t => if c then { t with c := t.c + 1 } else { t with h := t.h + 1 }) else g) = p g := by
    intro c g r i
    split
    · exact hp g _
    · rfl
  unfold Graph.freshRings
  dsimp only
  refine (foldl_keeps p (fun g k => foldl_keeps p (fun g t =>
    foldl_keeps p (fun g (q : Nat × Nat) => hup false g q.1 q.2) _ g) _ g) _ _).trans ?_
  refine (foldl_keeps p (fun g k => foldl_keeps p (fun g t => foldl_keeps p (fun g r =>
    foldl_keeps p (fun g i => hup true g r i) _ g) _ g) _ g) _ _).trans ?_
  exact hp g _

theorem passes_freshRings (g : Graph) : g.freshRings.passes = g.passes := freshRings_keeps Graph.passes (fun _ _ => rfl) g

theorem queue_freshRings (g : Graph) : g.freshRings.queue = g.queue := freshRings_keeps Graph.queue (fun _ _ => rfl) g

/-- The slots of a die whose graph in hand has been admitted. -/
def slotsWithout (s : State) (n : Nat) : State :=
  { s with bases := s.bases.map (fun (p : Nat × BaseDie) =>
      (p.1, { p.2 with slots := p.2.slots.map (fun (q : Nat × MapSlot) =>
        (q.1, if q.2.graph = some n then { q.2 with graph := none } else q.2)) })) }

/-- A graph as it is admitted. -/
def admittedGraph (g : Graph) (order : Nat) (l : List (Nat × Nat × Desc)) : Graph :=
  { g.freshRings with
    stage := .admitted
    order := order
    resv := l
    runs := List.replicate g.passes.length PassRun.reset }

/-- What admission leaves. -/
def admissionOf (t : State) (n : Nat) (g : Graph) (l : List (Nat × Nat × Desc)) : State :=
  slotsWithout (({ t with next := t.next + 1, graphs := t.graphs.put n (admittedGraph g t.next l) } : State).entryDone
    g.queue) n

theorem exec_graphAdmission {s t : State} {n : Nat} {g : Graph} {l : List (Nat × Nat × Desc)} (hg : s.graphs.get n = some g)
    (ho : s.outranked n = false) (hgr : s.grants n g = some t) (hl : g.placeGroups = .ok l) :
    exec (.graphAdmission n) s = .next (admissionOf t n g l) := by
  change Host.Outcome.next _ = _
  rw [hg]
  refine congrArg Host.Outcome.next ((if_neg (by simp [ho])).trans ?_)
  rw [hgr, hl, admissionOf, ← queue_freshRings]
  rfl

theorem get_admissionOf (t : State) (n : Nat) (g : Graph) (l : List (Nat × Nat × Desc)) :
    (admissionOf t n g l).graphs.get n = some (admittedGraph g t.next l) := by
  unfold admissionOf State.entryDone
  cases g.queue with
  | none => exact Tab.get_put_self _ _ _
  | some q => exact Tab.get_put_self _ _ _

theorem queue_admissionOf {t : State} {n q : Nat} {g : Graph} {l : List (Nat × Nat × Desc)} (hq : g.queue = some q) :
    ((admissionOf t n g l).queue q).read = (t.queue q).read + 1 := by
  unfold admissionOf State.entryDone
  rw [hq]
  exact congrArg Queue.read (State.queue_modQueue { t with
    next := t.next + 1, graphs := t.graphs.put n (admittedGraph g t.next l) } q fun x => { x with read := x.read + 1 })

theorem mem_admissionOf (t : State) (n : Nat) (g : Graph) (l : List (Nat × Nat × Desc)) : (admissionOf t n g l).mem = t.mem := by
  unfold admissionOf State.entryDone
  cases g.queue <;> rfl

/-- No slot holds a graph that has left it. -/
theorem slotsWithout_graph {s : State} {n : Nat} : ∀ b ∈ (slotsWithout s n).bases, ∀ m ∈ b.2.slots, m.2.graph ≠ some n := by
  intro b hb m hm
  obtain ⟨p, -, rfl⟩ := List.mem_map.mp hb
  obtain ⟨q, -, rfl⟩ := List.mem_map.mp hm
  dsimp only
  split
  · exact fun h => nomatch h
  · assumption

/-- A graph that needs no more than is free is granted it. -/
theorem grants_of {s : State} {n : Nat} {g : Graph} (hst : g.stage = .waiting) (hh : s.halted g.ctx = false)
    (hs : s.serialOk n g = true) (ht : ¬ (g.queue.isSome = true ∧ s.tableWaits g.die = true))
    (he : ∀ d < 2, s.entriesUsed d + g.entries d 0 ≤ 64) :
    s.grants n g = (s.allocRings n g 0).bind fun s => s.allocRings n g 1 := by
  refine if_neg ?_
  rintro (h | h | h | h | h | h)
  · exact h hst
  · simp [hh] at h
  · simp [hs] at h
  · exact ht h
  · simp [he 0 (by decide)] at h
  · simp [he 1 (by decide)] at h

/-- Rings of no bytes take no extent. -/
theorem allocRings_of_empty {s : State} {n d : Nat} {g : Graph} (h0 : g.ringBytes d = 0)
    (hfit : (((s.base d).ring.extents).map (·.bytes)).sum + g.ringBytes d ≤ (s.base d).ring.capBanks * 2 ^ 26) :
    s.allocRings n g d = some s :=
  (if_neg (Nat.not_lt.mpr hfit)).trans (if_pos h0)

/-- Where no earlier graph waits, none outranks. -/
theorem outranked_eq_false {s : State} {n : Nat} (h : ∀ p ∈ s.graphs, p.1 < n → p.2.stage ≠ .waiting) :
    s.outranked n = false := by
  simp only [State.outranked, List.any_eq_false, Bool.and_eq_true, decide_eq_true_eq, not_and]
  intro p hp hlt
  have hgr : s.grants p.1 p.2 = none := if_pos (.inl (h p hp hlt))
  simp [hgr]

/-- SERIAL is satisfied where every earlier graph of the queue has ended. -/
theorem serialOk_of {s : State} {n : Nat} {g : Graph} (h : g.serial = true → ∀ m o, (m, o) ∈ s.graphs → m < n →
    o.queue = g.queue → o.stage = .retired ∨ o.stage = .rejected) : s.serialOk n g = true := by
  unfold State.serialOk
  cases hs : g.serial with
  | false => rfl
  | true =>
    simp only [Bool.not_true, Bool.false_or, List.all_eq_true]
    rintro ⟨m, o⟩ hm
    rcases Nat.lt_trichotomy m n with hlt | heq | hgt
    · by_cases hq : o.queue = g.queue
      · rcases h hs m o hm hlt hq with hr | hr <;> simp [hr]
      · simp [hq]
    · simp [heq]
    · simp [hgt]

theorem intakeAndAdmission : Claims.IntakeAndAdmission := by
  intro s n g hg
  refine ⟨fun g' q t hst hr h1 h2 hd => ?_, fun g' e t hst hr he => ?_, fun g' q t e hst hr h1 => ?_,
    fun t l hst hh hs ht ho he hal hl => ?_, fun l hadm h0 hearlier hl => ?_⟩
  · rw [exec_graphIntake hg hst hr]
    simp [intakeEnd, h1, h2, hd]
  · rw [exec_graphIntake hg hst hr]
    exact congrArg Host.Outcome.next (if_neg he)
  · rw [exec_graphIntake hg hst hr]
    simp [intakeEnd, h1]
  · refine ⟨_, exec_graphAdmission hg ho ((grants_of hst hh hs ht he).trans hal) hl, ?_, fun q hq => queue_admissionOf hq,
      slotsWithout_graph, mem_admissionOf t n g l⟩
    exact ⟨_, get_admissionOf t n g l, rfl, rfl, passes_freshRings g, rfl, rfl⟩
  · obtain ⟨hst, hh, hs, ht, hd⟩ := hadm
    have hal : ∀ d < 2, s.allocRings n g d = some s := fun d hlt => allocRings_of_empty (h0 d hlt) (hd d hlt).2
    have hgr : s.grants n g = some s := by
      rw [grants_of hst hh (serialOk_of hs) (fun hq => by simp [ht hq.1] at hq) (fun d hlt => (hd d hlt).1),
        hal 0 (by decide), Option.bind_some, hal 1 (by decide)]
    refine ⟨_, exec_graphAdmission hg (outranked_eq_false hearlier) hgr hl, ?_, fun q hq => queue_admissionOf hq, mem_admissionOf s n g l⟩
    exact ⟨_, get_admissionOf s n g l, rfl, rfl, passes_freshRings g⟩

/-- Settles O47. -/
theorem intakeAndTable : Obligations.IntakeAndTable := by
  unfold Obligations.IntakeAndTable
  exact ⟨timeTriggeredTable, intakeAndAdmission⟩

end Sys2Proof.Laws


/-! SUPPORT. The frame of the accesses that the device makes (R188, R262, R266, R288, R304, R315): they change memory here and
at peers, what is kept of it, the translation caches and the ports' posted stores, and draw on open choices and numbers. -/

namespace Sys2Proof.Laws

open Machine

/-- An entry of a table that was written is the new one or one that stood. -/
theorem tab_mem_put {α : Type} {t : Tab α} {k : Nat} {v : α} {p : Nat × α} (h : p ∈ t.put k v) : p = (k, v) ∨ p ∈ t := by
  induction t with
  | nil => exact .inl (List.mem_singleton.mp h)
  | cons q t ih =>
    obtain ⟨i, a⟩ := q
    simp only [Tab.put] at h
    split at h
    · exact List.mem_cons.mp h
    · split at h
      · rcases List.mem_cons.mp h with h | h
        · exact .inl h
        · exact .inr (List.mem_cons_of_mem _ h)
      · rcases List.mem_cons.mp h with h | h
        · exact .inr (h ▸ List.mem_cons_self ..)
        · exact (ih h).imp_right (List.mem_cons_of_mem _)

/-- Every base die of `t` has the slots of one of `s`, or none. -/
def SlotsFrom (s t : State) : Prop := ∀ b ∈ t.bases, b.2.slots = [] ∨ ∃ c ∈ s.bases, c.2.slots = b.2.slots

/-- A state that accesses of the device and its interrupts lead to. -/
def DevTouched (s t : State) : Prop :=
  t = { s with
    free := t.free, next := t.next, cores := t.cores, dies := t.dies, bases := t.bases, mem := t.mem, peers := t.peers,
    hot := t.hot, squeezed := t.squeezed, writes := t.writes, was := t.was
    regs := { s.regs with intstat := t.regs.intstat } } ∧ SlotsFrom s t

namespace DevTouched

/-- Where the base dies stand as they did. -/
theorem of_eq {s t : State} (h : t = { s with
    free := t.free, next := t.next, cores := t.cores, dies := t.dies, mem := t.mem, peers := t.peers, hot := t.hot
    squeezed := t.squeezed, writes := t.writes, was := t.was, regs := { s.regs with intstat := t.regs.intstat } }) :
    DevTouched s t := by
  refine ⟨?_, fun b hb => .inr ⟨b, ?_, rfl⟩⟩
  · rw [h]
  · rw [h] at hb
    exact hb

theorem refl (s : State) : DevTouched s s := of_eq rfl

theorem trans {s t u : State} (h : DevTouched s t) (k : DevTouched t u) : DevTouched s u := by
  obtain ⟨he, hs⟩ := h
  obtain ⟨ke, ks⟩ := k
  refine ⟨?_, fun b hb => ?_⟩
  · rw [he] at ke
    exact ke
  · rcases ks b hb with hb | ⟨c, hc, hcb⟩
    · exact .inl hb
    · rw [← hcb]
      exact hs c hc

theorem queues {s t : State} (h : DevTouched s t) : t.queues = s.queues := by
  rw [h.1]

/-- Steps that each change no more than that change no more together. -/
theorem foldl {α σ : Type} (st : σ → State) {f : σ → α → σ} (h : ∀ x a, DevTouched (st x) (st (f x a))) (l : List α) :
    ∀ x, DevTouched (st x) (st (l.foldl f x)) := by
  induction l with
  | nil => exact fun x => refl (st x)
  | cons a l ih => exact fun x => (h x a).trans (ih _)

theorem each {α : Type} {f : α → State → State} (h : ∀ a s, DevTouched s (f a s)) (l : List α) (s : State) :
    DevTouched s (Machine.each l f s) :=
  foldl id (fun s a => h a s) l s

end DevTouched

/-! ### Bytes at their home -/

theorem remember_touched (s : State) (key : Nat) (old : List Byte) : DevTouched s (s.remember key old) := by
  unfold State.remember
  split <;> exact .of_eq rfl

theorem poke_touched (s : State) (pa : Nat) (bs : List Byte) : DevTouched s (s.poke pa bs) :=
  (remember_touched s _ _).trans (.of_eq rfl)

theorem pokePeer_touched (s : State) (pkg pa : Nat) (bs : List Byte) : DevTouched s (s.pokePeer pkg pa bs) :=
  (remember_touched s _ _).trans (.of_eq rfl)

theorem expand_touched (s : State) (d pa : Nat) : DevTouched s (s.expand d pa) := by
  unfold State.expand
  dsimp only
  split
  · exact .of_eq rfl
  · have hpoke : ∀ bs l, DevTouched s { s.poke (pa / 256 * 256) bs with squeezed := l } :=
      fun bs l => (poke_touched s _ bs).trans (.of_eq rfl)
    split
    · exact hpoke _ _
    · exact (hpoke _ _).trans (poke_touched _ _ _)

theorem keepHot_touched (s : State) (pa n : Nat) : DevTouched s (s.keepHot pa n) := by
  unfold State.keepHot
  split <;> exact .of_eq rfl

/-! ### Translation -/

theorem markEntry_touched (s : State) (a : Nat) (acc : Access) : DevTouched s (s.markEntry a acc) := by
  unfold State.markEntry
  dsimp only
  split
  · exact .of_eq rfl
  · exact poke_touched ..

theorem reached_touched (s : State) (a : Nat) (acc : Access) (mark : Bool) : DevTouched s (s.reached a acc mark) := by
  cases mark
  · exact .of_eq rfl
  · exact markEntry_touched s a acc

theorem fillTlb_touched (s : State) (core : Option Nat) (t : Trans) : DevTouched s (s.fillTlb core t) := by
  cases core <;> exact .of_eq rfl

theorem xlateFresh_touched (s : State) (ctx va : Nat) (acc : Access) (priv : Bool) (core : Option Nat) (mark : Bool)
    (die : Option Nat) : DevTouched s (s.xlateFresh ctx va acc priv core mark die).2 := by
  unfold State.xlateFresh
  split
  · exact .of_eq rfl
  · split
    · exact .of_eq rfl
    · exact .of_eq rfl
    · dsimp only
      split
      · exact (fillTlb_touched s core _).trans (reached_touched ..)
      · exact fillTlb_touched s core _

theorem xlateCached_touched (s : State) (va : Nat) (t : Trans) (acc : Access) (priv mark : Bool) (die : Option Nat) :
    DevTouched s (s.xlateCached va t acc priv mark die).2 := by
  unfold State.xlateCached
  dsimp only
  split
  · exact .of_eq rfl
  · split
    · exact .of_eq rfl
    · exact reached_touched ..

theorem xlate_touched (s : State) (ctx va : Nat) (acc : Access) (priv : Bool) (core : Option Nat) (mark : Bool)
    (die : Option Nat) : DevTouched s (s.xlate ctx va acc priv core mark die).2 := by
  unfold State.xlate
  dsimp only
  split
  · exact .of_eq rfl
  · split
    · exact xlateFresh_touched ..
    · split
      · exact xlateCached_touched ..
      · have hflip : DevTouched s s.flip.2 := .of_eq rfl
        have hpick : ∀ (q : State) n, DevTouched q (q.pick n).2 := fun _ _ => .of_eq rfl
        split
        · exact hflip.trans ((hpick _ _).trans (xlateCached_touched ..))
        · exact hflip.trans (xlateFresh_touched ..)

/-! ### Plural cells -/

theorem putPcell_touched {s t : State} {r : PRegion} {pa size : Nat} {c : PCell} (h : s.putPcell r pa size c = some t) :
    DevTouched s t := by
  obtain ⟨x, -, rfl⟩ := Option.map_eq_some_iff.1 h
  have hmem : ∀ m, DevTouched s { s with mem := m } := fun _ => .of_eq rfl
  exact (hmem _).trans (poke_touched ..)

theorem getD_putPcell_touched (s : State) (r : PRegion) (pa size : Nat) (c : PCell) :
    DevTouched s ((s.putPcell r pa size c).getD s) := by
  cases h : s.putPcell r pa size c with
  | none => exact .of_eq rfl
  | some t => exact putPcell_touched h

theorem blur_touched (s : State) (r : PRegion) (pa size : Nat) : DevTouched s (s.blur r pa size) := by
  unfold State.blur
  dsimp only
  generalize hq : State.openSibs _ _ _ = q
  have hs : DevTouched s q.2 := by
    rw [← hq]
    exact .of_eq rfl
  split
  · next h => exact hs.trans (putPcell_touched h)
  · exact hs.trans (getD_putPcell_touched ..)

theorem unsettle_touched (s : State) (c : Ctx) (l : Leaf) (n : Nat) : DevTouched s (s.unsettle c l n) := by
  unfold State.unsettle
  split
  · exact .of_eq rfl
  · split
    · exact .of_eq rfl
    · split
      · exact DevTouched.each (fun _ _ => (blur_touched ..).trans (blur_touched ..)) _ _
      · exact DevTouched.each (fun _ _ => blur_touched ..) _ _

theorem addSibling_touched {s t : State} {r : PRegion} {pa size v : Nat} {c d : PCell} {keep : List (Nat × Nat)}
    (h : s.addSibling r pa size c keep v = .ok (t, d)) : DevTouched s t := by
  simp only [State.addSibling] at h
  split at h
  · cases h
  · split at h
    next hq =>
      cases h
      exact putPcell_touched hq
    next => cases h

theorem blindWrite_touched {s t : State} {r : PRegion} {cell size off : Nat} {bs : List Byte}
    (h : s.blindWrite r cell size off bs = .ok t) : DevTouched s t := by
  simp only [State.blindWrite] at h
  split at h
  next q c hq =>
    obtain rfl := Except.ok.inj h
    exact addSibling_touched hq
  next => cases h

theorem blindWrites_touched (s : State) (c : Ctx) (l : Leaf) (bs : List Byte) : DevTouched s (s.blindWrites c l bs).2 := by
  unfold State.blindWrites
  split
  · exact .of_eq rfl
  · refine (unsettle_touched s c l bs.length).trans (DevTouched.foldl Prod.snd (fun acc p => ?_) _ _)
    split
    · next h => exact blindWrite_touched h
    · exact .of_eq rfl

theorem blurCell_touched (s : State) (r : PRegion) (o : Nat) : DevTouched s (s.blurCell r o) := by
  unfold State.blurCell
  generalize s.cellSizes (r.base + o) = p
  dsimp only
  have hs : DevTouched s (if p.1 == p.2 then s.flip else (p.2, s)).2 := by
    split <;> exact .of_eq rfl
  generalize (if p.1 == p.2 then s.flip else (p.2, s)) = q at hs
  split
  · exact hs.trans (blur_touched ..)
  · split
    · exact hs.trans (blur_touched ..)
    · exact hs

theorem blurOwned_touched (s : State) (r : PRegion) (pa n : Nat) : DevTouched s (s.blurOwned r pa n) :=
  (DevTouched.each (fun _ _ => blurCell_touched ..) _ _).trans (DevTouched.each (fun _ _ => blurCell_touched ..) _ _)

/-! ### Loads and stores -/

theorem plainStore_touched (s : State) (pa : Nat) (bs : List Byte) : DevTouched s (s.plainStore pa bs) := by
  unfold State.plainStore
  dsimp only
  split
  · exact poke_touched ..
  · exact (poke_touched s pa _).trans (DevTouched.each (fun _ _ => blurOwned_touched ..) _ _)

theorem homeStore_touched (s : State) (c : Ctx) (l : Leaf) (bs : List Byte) : DevTouched s (s.homeStore c l bs) := by
  unfold State.homeStore
  dsimp only
  split
  · exact pokePeer_touched ..
  · split
    · exact .of_eq rfl
    · exact (DevTouched.each (fun _ _ => expand_touched ..) _ _).trans
        ((plainStore_touched ..).trans (keepHot_touched ..))

theorem modBase_touched (s : State) (d : Nat) (f : BaseDie → BaseDie) (hf : ∀ b, (f b).slots = b.slots) :
    DevTouched s (s.modBase d f) := by
  refine ⟨rfl, fun b hb => ?_⟩
  rcases tab_mem_put hb with rfl | hb
  · rw [show (f (s.base d)).slots = (s.base d).slots from hf _]
    cases hd : s.bases.get d with
    | none => exact .inl (by rw [State.base, hd]; rfl)
    | some c => exact .inr ⟨(d, c), tab_mem_of_get hd, by rw [State.base, hd]; rfl⟩
  · exact .inr ⟨b, hb, rfl⟩

theorem devPost_touched (s : State) (ctx va : Nat) (core : Option Nat) (l : Leaf) (bs : List Byte) :
    DevTouched s (s.devPost ctx va core l bs) := by
  refine DevTouched.each (fun p q => ?_) _ _
  have hfresh : DevTouched q q.fresh.2 := .of_eq rfl
  exact hfresh.trans (modBase_touched _ _ _ fun _ => rfl)

theorem devLoad_touched (s : State) (ctx va n : Nat) (priv : Bool) (core die : Option Nat) :
    DevTouched s (s.devLoad ctx va n priv core die).2 := by
  unfold State.devLoad
  refine DevTouched.foldl Prod.snd (fun acc p => ?_) _ (_, s)
  split
  · exact .of_eq rfl
  · have hx := xlate_touched acc.2 ctx p.1 .load priv core true die
    split <;> rename_i heq <;> rw [heq] at hx
    · exact hx
    · exact hx
    · exact hx
    · split
      · exact hx
      · exact hx.trans (keepHot_touched ..)

theorem devStorePiece_touched (s : State) (ctx va : Nat) (bs : List Byte) (priv : Bool) (core die : Option Nat) :
    DevTouched s (s.devStorePiece ctx va bs priv core die).2 := by
  unfold State.devStorePiece
  have hx := xlate_touched s ctx va .store priv core true die
  split <;> rename_i heq <;> rw [heq] at hx
  · exact hx
  · exact hx
  · exact hx
  · next l q =>
    split
    · exact hx
    · split
      · exact hx.trans (devPost_touched ..)
      · split
        · have hb := blindWrites_touched q (q.ctx ctx) l bs
          split <;> rename_i hw <;> rw [hw] at hb <;> exact hx.trans hb
        · exact hx.trans (homeStore_touched ..)

theorem devStore_touched (s : State) (ctx va : Nat) (bs : List Byte) (priv : Bool) (core die : Option Nat) :
    DevTouched s (s.devStore ctx va bs priv core die).2 := by
  unfold State.devStore
  refine DevTouched.foldl Prod.snd (fun acc p => ?_) _ (_, s)
  split
  · exact .of_eq rfl
  · exact devStorePiece_touched ..

theorem devNum_touched (s : State) (ctx va n : Nat) (priv : Bool) (die : Option Nat) :
    DevTouched s (s.devNum ctx va n priv die).2 := by
  unfold State.devNum
  have hl := devLoad_touched s ctx va n priv none die
  split <;> rename_i heq <;> rw [heq] at hl <;> exact hl

/-! ### Fault records (R448) -/

theorem interrupt_touched (s : State) (b : Nat) : DevTouched s (s.interrupt b) := .of_eq rfl

theorem recordLost_touched (s : State) (ctx base : Nat) : DevTouched s (s.recordLost ctx base) := by
  unfold State.recordLost
  have hn := devNum_touched s ctx (base + 16) 8 true none
  split <;> rename_i heq <;> rw [heq] at hn
  · exact hn.trans (devStore_touched ..)
  · exact hn

theorem tryRecord_touched (s : State) (ctx : Nat) (bs : List Byte) : DevTouched s (s.tryRecord ctx bs).2 := by
  unfold State.tryRecord
  extract_lets drop c base total n
  have hdrop (q : State) : DevTouched q (drop q).2 := (recordLost_touched ..).trans (interrupt_touched ..)
  split
  · exact .refl _
  · have hw := devNum_touched s ctx base 8 true none
    split <;> rename_i heq <;> rw [heq] at hw
    · exact hw.trans (hdrop _)
    · next w q =>
      have hr := devNum_touched q ctx (base + 8) 8 true none
      split <;> rename_i heq <;> rw [heq] at hr
      · exact (hw.trans hr).trans (hdrop _)
      · next p =>
        extract_lets w r wraps need room stores
        split
        · exact (hw.trans hr).trans (recordLost_touched ..)
        · generalize hx : List.foldl _ _ _ = x
          have hp : DevTouched s x.2 := by
            rw [← hx]
            refine (hw.trans hr).trans (DevTouched.foldl (fun y : Bool × State => y.2) (fun y a => ?_) _ (true, p))
            split
            · exact .refl _
            · have hd := devStore_touched y.2 ctx a.1 a.2 true none none
              split <;> rename_i heq <;> rw [heq] at hd <;> exact hd
          split
          · exact hp.trans (interrupt_touched ..)
          · exact hp.trans (hdrop _)

theorem record_touched (s : State) (ctx : Nat) (bs : List Byte) : DevTouched s (s.record ctx bs) :=
  tryRecord_touched ..

end Sys2Proof.Laws


/-! SUPPORT. Notify stores, queue commands and mapper slots (R369 to R375, R458). -/

namespace Sys2Proof.Laws

open Machine

/-! ### Queues in error -/

/-- No mapper slot holds queue `n`. -/
def Unslotted (n : Nat) (s : State) : Prop := ∀ b ∈ s.bases, ∀ m ∈ b.2.slots, m.2.queue ≠ n

theorem unslotted_freeSlots (s : State) (n : Nat) : Unslotted n (s.freeSlots n).2 := by
  intro b hb m hm
  obtain ⟨p, -, rfl⟩ := List.mem_map.mp hb
  simpa using (List.mem_filter.mp hm).2

theorem unslotted_letGo {s : State} {n : Nat} (h : Unslotted n s) (g : Nat) : Unslotted n (s.letGo g) := by
  intro b hb m hm
  obtain ⟨p, hp, rfl⟩ := List.mem_map.mp hb
  obtain ⟨q, hq, rfl⟩ := List.mem_map.mp hm
  have hqueue := h p hp q hq
  dsimp only
  split
  · exact hqueue
  · exact hqueue

theorem unslotted_dropGraph {s : State} {n : Nat} (h : Unslotted n s) (g : Nat) : Unslotted n (s.dropGraph g) :=
  unslotted_letGo (s := { s with graphs := s.graphs.del g }) h g

theorem unslotted_of_touched {s t : State} {n : Nat} (h : Unslotted n s) (ht : DevTouched s t) : Unslotted n t := by
  intro b hb m hm
  rcases ht.2 b hb with hnil | ⟨c, hc, heq⟩
  · rw [hnil] at hm
    cases hm
  · rw [← heq] at hm
    exact h c hc m hm

/-- A queue in error keeps its counts and loses its slot. -/
theorem queueError_leaves (s : State) (n code : Nat) (w : BitVec 32) :
    ((s.queueError n code w).queue n).state = .error ∧ ((s.queueError n code w).queue n).write = (s.queue n).write ∧
      ((s.queueError n code w).queue n).read = (s.queue n).read ∧ Unslotted n (s.queueError n code w) := by
  have hdrop : ∀ (l : List Nat) (q : State), Unslotted n q → q.queues = s.queues →
      Unslotted n (each l (fun g s => s.dropGraph g) q) ∧ (each l (fun g s => s.dropGraph g) q).queues = s.queues := by
    intro l
    induction l with
    | nil => exact fun q h hq => ⟨h, hq⟩
    | cons g l ih => exact fun q h hq => ih _ (unslotted_dropGraph h g) hq
  obtain ⟨hslots, hqueues⟩ := hdrop (s.freeSlots n).1 (s.freeSlots n).2 (unslotted_freeSlots s n) rfl
  unfold State.queueError
  dsimp only
  generalize each (s.freeSlots n).1 (fun g s => s.dropGraph g) (s.freeSlots n).2 = x at hslots hqueues
  have htouched := record_touched (x.modQueue n fun q => { q with state := .error }) (s.queue n).ctx
    (queueRecord x.now (s.queue n).read.toNat w.toNat (s.queue n).ctx code n)
  have hqueue : x.queue n = s.queue n := congrArg (fun l : Tab Queue => (l.get n).getD Queue.reset) hqueues
  have hleft := congrArg (fun l : Tab Queue => (l.get n).getD Queue.reset) htouched.queues
  have hq := hleft.trans (State.queue_modQueue x n fun q => { q with state := .error })
  rw [hqueue] at hq
  exact ⟨congrArg Queue.state hq, (congrArg Queue.write hq :), (congrArg Queue.read hq :),
    unslotted_of_touched (s := x.modQueue n fun q => { q with state := .error }) hslots htouched⟩

/-! ### Notify stores -/

theorem notifyStores : Claims.NotifyStores := by
  intro s n size value hn hsize q w k good
  have hrouse : s.rouse.queue = s.queue := by
    unfold State.rouse
    split <;> rfl
  have hq : s.rouse.queue n = q := congrFun hrouse n
  have hopen : q.state ≠ .disabled → q.state ≠ .error → ¬ (1024 ≤ n ∨ (0 : Nat) ≠ 0 ∨ (size ≠ 4 ∧ size ≠ 8) ∨
      (s.rouse.queue n).state = .disabled ∨ (s.rouse.queue n).state = .error) := by
    rw [hq]
    rintro hd he (h | h | h | h | h)
    · omega
    · exact h rfl
    · omega
    · exact hd h
    · exact he h
  refine ⟨fun hst => congrArg Host.Outcome.next (if_pos (.inr (.inr (.inr (by rw [hq]; exact hst))))), fun hd he hgood => ?_,
    fun hd he hbad => ?_, fun ha => if_neg (by simp [ha]), fun ha hw => if_pos ⟨ha, hw⟩⟩
  · refine ⟨_, congrArg Host.Outcome.next ((if_neg (hopen hd he)).trans (if_pos (by rw [hq]; exact hgood))), ?_⟩
    refine ⟨?_, fun m hm => ?_, ?_, ?_, ?_, rfl⟩
    · refine (State.queue_modQueue ..).trans ?_
      rw [hq]
    · exact (State.queue_modQueue_ne _ _ hm).trans (congrFun hrouse m)
    all_goals
      unfold State.rouse
      split <;> rfl
  · obtain ⟨hst, hwr, hrd, hslots⟩ := queueError_leaves s.rouse n 1 w
    rw [hq] at hwr hrd
    exact ⟨_, congrArg Host.Outcome.next ((if_neg (hopen hd he)).trans (if_neg (by rw [hq]; exact hbad))), hst, hwr, hrd, hslots⟩

/-! ### Commands -/

theorem queueCommands : Claims.QueueCommands := by
  intro s n x
  refine ⟨fun h hst hv hok => ⟨?_, rfl, rfl, rfl⟩, fun h hst => ?_, fun h hst hv => ?_, fun h hl => ?_, fun h => ?_⟩
  · refine congrArg Host.Outcome.next ((if_neg (by simp [h])).trans ((if_neg (by simp [hst])).trans ?_))
    exact (if_neg (show ¬ (!bit x.1 456) = true by simp [hv])).trans (if_neg (show ¬ (!queueOk x.1) = true by simp [hok]))
  · exact congrArg Host.Outcome.next ((if_neg (by simp [h])).trans (if_pos hst))
  · refine congrArg Host.Outcome.next ((if_neg (by simp [h])).trans ((if_neg (by simp [hst])).trans ?_))
    exact if_pos (show (!bit x.1 456) = true by simp [hv])
  · refine congrArg Host.Outcome.next (if_neg ?_)
    rintro (hc | hc)
    · simp [h] at hc
    · exact hc hl
  · exact congrArg Host.Outcome.next (if_pos h)

/-! ### Mapper slots -/

theorem mapperSlots : Claims.MapperSlots := by
  intro s d k n hd b
  refine ⟨fun hfree hgr => ?_, fun m hm hg => ⟨fun hover => ?_, fun hover hcmd hleft => ?_,
    fun bs q hover hcmd hleft hctx hreplay hload => ?_⟩⟩
  · have hexec : exec (.slotGrant d) s = .next (if 2 ≤ d ∨ s.asleep then s
        else (s.modQueue n (fun q => { q with state := .active })).modBase d (fun b => { b with
          slots := b.slots.put k ⟨n, s.now, none⟩
          lastGrant := b.lastGrant.put (s.queue n).prio n })) := by
      change Host.Outcome.next (match (List.range 16).find? (fun k => (b.slots.get k).isNone), s.granted d with
        | some k, some n => _
        | _, _ => s) = _
      rw [hfree, hgr]
    rw [hexec]
    exact ⟨fun ha => congrArg Host.Outcome.next (if_pos (.inr ha)),
      fun ha => congrArg Host.Outcome.next (if_neg (by simp [ha]; omega))⟩
  · change Host.Outcome.next _ = _
    rw [show (s.base d).slots.get k = some m from hm]
    exact congrArg Host.Outcome.next (if_neg (by simp [hg, hover]))
  · change Host.Outcome.next _ = _
    rw [show (s.base d).slots.get k = some m from hm]
    exact congrArg Host.Outcome.next ((if_neg (by simp [hg, hover, hcmd])).trans (if_pos hleft))
  · change Host.Outcome.next _ = _
    rw [show (s.base d).slots.get k = some m from hm]
    refine congrArg Host.Outcome.next ((if_neg (by simp [hg, hover, hcmd])).trans ((if_neg hleft).trans ((if_neg ?_).trans ?_)))
    · rintro (hc | hc)
      · exact Bool.noConfusion (hc.symm.trans (Option.isNone_eq_false_iff.mpr hctx))
      · exact hreplay hc
    · simp only [Queue.entries, hload]

/-- Settles O46. -/
theorem queues : Obligations.Queues := by
  unfold Obligations.Queues
  exact ⟨notifyStores, queueCommands, mapperSlots⟩

end Sys2Proof.Laws


/-! SUPPORT. The scheduler's events, and saving and resuming workgroups (R27, R94 to R107, R437, R438). -/

namespace Sys2Proof.Laws

open Machine

/-! ### The scheduler -/

/-- A core without a current sheaf has no run to limit. -/
theorem limitRun_of_none {s : State} {c : Nat} (h : (s.core c).current = none) : s.limitRun c = s := by
  simp [State.limitRun, h]

theorem chooseSheaf_of_none {s : State} {c : Nat} (h : (s.core c).current = none) :
    s.chooseSheaf c = State.select (s.tryOrder c) s := by
  rw [State.chooseSheaf, limitRun_of_none h]

/-- A core without a current sheaf takes the first of its order that it can. -/
theorem exec_clauseStart {s : State} {c : Nat} (h : (s.core c).current = none) :
    exec (.clauseStart c) s = .next (State.select (s.tryOrder c) s).2 := by
  change Host.Outcome.next _ = _
  simp only [limitRun_of_none h, h]

/-- The first sheaf of an order that is inside a clause and does not wait is chosen. -/
theorem select_running {s : State} {sid : Nat} {l : List Nat} (hrun : (s.sheaf sid).run.isSome = true)
    (hb : (s.sheaf sid).blocked = false) : State.select (sid :: l) s = (some (sid, true), s.setCurrent sid) :=
  (if_pos hrun).trans (if_neg (by simp [hb]))

theorem schedulingEvents : Claims.SchedulingEvents := by
  intro s core sid t
  refine ⟨fun h => exec_clauseStart h, fun l h ho hrun hb => ?_, fun hst hc => congrArg Host.Outcome.next (if_pos ⟨hst, hc⟩),
    fun h => ?_, fun k hk hi => ?_, fun h => congrArg Host.Outcome.next (if_pos h), fun n hs hn => ?_, fun n w hs hn => ?_, rfl,
    fun ws q u l n hover hfetch hspan => ?_⟩
  · rw [exec_clauseStart h, ho, select_running hrun hb]
  · change Host.Outcome.next _ = _
    rw [h]
  · change Host.Outcome.next (State.limitRun s core) = _
    unfold State.limitRun
    rw [hk]
    exact congrArg Host.Outcome.next (if_pos hi)
  · change Host.Outcome.next _ = _
    rw [hs]
    exact congrArg Host.Outcome.next (if_pos hn)
  · change Host.Outcome.next _ = _
    rw [hs]
    exact congrArg Host.Outcome.next (if_pos hn)
  · change Host.Outcome.next (State.watch sid _ s) = _
    rw [hover, State.watch]
    dsimp only
    rw [show s.fetch (coreOf sid) _ _ _ = _ from hfetch]
    dsimp only
    rw [hspan]

/-! ### Saving and resumption -/

theorem saveAndResume : Claims.SaveAndResume := by
  refine ⟨fun s w hm hl he hf => ?_, fun s w c hst hm hp x hx => ?_, fun s w hst he => ?_⟩
  · change Host.Outcome.next _ = _
    simp only [hm]
    refine congrArg Host.Outcome.next ((if_pos ?_).trans ?_)
    · rw [Bool.and_eq_true]
      exact ⟨by simp [hl], by simpa using he⟩
    · simp [takeFrame_of_isSome hf, each]
  · change Host.Outcome.next _ = _
    simp only [hst, hm, hx]
    refine congrArg Host.Outcome.next (if_neg ?_)
    rintro ⟨hpair, hne⟩
    rcases hp with hp | hp
    · simp [hpair] at hp
    · exact hne hp
  · change Host.Outcome.next _ = _
    simp only [hst]
    exact congrArg Host.Outcome.next (if_pos ⟨trivial, he⟩)

/-- Settles O45. -/
theorem schedulingAndSaving : Obligations.SchedulingAndSaving := by
  unfold Obligations.SchedulingAndSaving
  exact ⟨schedulingEvents, saveAndResume⟩

end Sys2Proof.Laws


/-! SUPPORT. System calls, halts and engine faults (R39, R188, R422 to R433). -/

namespace Sys2Proof.Laws

open Machine

/-! ### System calls -/

theorem not_false_of {b : Bool} (h : b = true) : ¬ (!b) = true := by
  simp [h]

theorem not_eq_true_of {b : Bool} (h : b = false) : (!b) = true := by
  simp [h]

/-- The first answered call of a sheaf whose threads are all parked for it. -/
theorem answerFirst_cons {s q : State} {sid x : Nat} {c : SysCall} (l : List SysCall)
    (hw : ∀ t ∈ bitsOf 64 c.mask, ((s.sheaf sid).thread t).st = .parked .sysCall ∨ (s.sheaf sid).exited t = true)
    (hd : s.devNum (s.sheaf sid).ctx ((s.ctx (s.sheaf sid).ctx).callVa c.index) 16 true (some (baseOfCore (sid / 64))) =
      (some x, q)) (hx : x / 2 ^ 64 % 4 = 2) :
    State.answerFirst sid (c :: l) s = q.answer sid c (BitVec.ofNat 32 x) := by
  rw [State.answerFirst]
  refine (if_neg ?_).trans ?_
  · simp only [List.any_eq_true, not_exists, not_and]
    intro t ht
    rcases hw t ht with h | h <;> simp [h]
  · rw [show coreOf sid = sid / 64 from rfl, hd]
    exact if_pos hx

theorem systemCalls : Claims.SystemCalls := by
  refine ⟨fun f s sid r q q1 st h hact => ?_, fun s q sid x c l hcalls hentry hparked hnum hx => ?_⟩
  · intro l sh k va priv hf hp hst hfree hstore
    refine goes_of_done h rfl ?_
    refine (if_neg hact).trans ((if_neg (not_false_of hf)).trans ((if_neg (not_false_of hp)).trans ?_))
    dsimp only [issueOf, Issue.lead, coreOf, slotOf]
    rw [hst]
    refine (if_neg (by omega)).trans ?_
    rw [hstore]
  · refine congrArg Host.Outcome.next ((if_neg (by simp [hentry])).trans ?_)
    rw [show (s.sheaf sid).calls.filter (fun c => c.priv == (s.sheaf sid).inHandler) = c :: l from hcalls]
    exact answerFirst_cons l hparked hnum hx

/-! ### An answered call -/

/-- A write of registers keeps what it does not write of a thread. -/
theorem thread_write_keeps {β : Type} (p : Thread → β) (hp : ∀ th n x b, p (Thread.setV th n x b) = p th) (sh : Sheaf)
    (d : BitVec 8) (t : Nat) (x : Word) (b : Bool) (u : Nat) : p ((sh.write d t x b).thread u) = p (sh.thread u) := by
  unfold Sheaf.write
  dsimp only
  split
  · exact thread_modThread_keeps p (fun th => hp th _ _ _) sh t u
  · split <;> rfl

theorem thread_writeGroup_keeps {β : Type} (p : Thread → β) (hp : ∀ th n x b, p (Thread.setV th n x b) = p th) (sh : Sheaf)
    (d : BitVec 8) (l : List (Nat × Word × Bool)) (u : Nat) : p ((sh.writeGroup d l).thread u) = p (sh.thread u) := by
  unfold Sheaf.writeGroup
  split
  · exact each_keeps (fun x : Sheaf => p (x.thread u)) (fun q x => thread_write_keeps p hp x d _ _ _ u) l sh
  · cases l with
    | nil => rfl
    | cons q l => exact thread_write_keeps p hp sh d _ _ _ u

theorem sameShape_writeGroup (sh : Sheaf) (d : BitVec 8) (l : List (Nat × Word × Bool)) :
    SameShape (sh.writeGroup d l) sh := by
  unfold Sheaf.writeGroup
  split
  · unfold each
    induction l generalizing sh with
    | nil => exact .refl sh
    | cons q l ih => exact (ih _).trans (sameShape_write ..)
  · cases l with
    | nil => exact .refl sh
    | cons q l => exact sameShape_write ..

theorem getLsbD_taint_same {n : Nat} (m : BitVec n) {j : Nat} (b : Bool) (h : j < n) :
    (if b then m ||| BitVec.ofNat n (2 ^ j) else m &&& ~~~ BitVec.ofNat n (2 ^ j)).getLsbD j = b := by
  have hj : (BitVec.ofNat n (2 ^ j)).getLsbD j = true := by
    rw [BitVec.getLsbD_ofNat, Nat.testBit_two_pow_self]
    simp [h]
  generalize BitVec.ofNat n (2 ^ j) = q at hj ⊢
  cases b
  · simp [hj, h]
  · simp [hj]

/-- A vector register that has been written, with its taint. -/
theorem register_write_same {sh : Sheaf} {d : BitVec 8} {t : Nat} (hd : d.toNat < 0xC0)
    (hv : d.toNat < (sh.thread t).v.length) (ht : t < sh.threads.length) (x : Word) (b : Bool) :
    Register (sh.write d t x b) t d = (x, b) := by
  refine Prod.ext (read_write_same hd hv ht x b) ?_
  simp only [Register, Sheaf.write, Sheaf.taintOf, hd, if_true, thread_modThread_self _ ht, Thread.setV]
  exact getLsbD_taint_same _ b hd

/-- One value written to a register of many threads stands in each of them. -/
theorem register_writeGroup_mem {d : BitVec 8} {t : Nat} (hd : d.toNat < 0xC0) (x : Word) (b : Bool) (ts : List Nat) :
    ∀ sh : Sheaf, d.toNat < (sh.thread t).v.length → t < sh.threads.length → t ∈ ts ∨ Register sh t d = (x, b) →
      Register (sh.writeGroup d (ts.map fun t => (t, x, b))) t d = (x, b) := by
  unfold Sheaf.writeGroup
  simp only [hd, if_true]
  induction ts with
  | nil =>
    rintro sh - - (h | h)
    · cases h
    · exact h
  | cons u ts ih =>
    intro sh hv ht h
    obtain ⟨hlen, hvs, -, -⟩ := sameShape_write sh d u x b
    refine ih (sh.write d u x b) (by rw [hvs]; exact hv) (by rw [hlen]; exact ht) ?_
    by_cases hu : t = u
    · subst hu
      exact .inr (register_write_same hd hv ht x b)
    · refine (h.imp_left fun hm => (List.mem_cons.mp hm).resolve_left hu).imp_right fun hr => ?_
      rw [register_write (.inr ⟨hd, hu⟩)]
      exact hr

/-- The sheaf of a call that has been answered, before its record is written. -/
def answeredSheaf (c : SysCall) (x : Word) (sh : Sheaf) : Sheaf :=
  let w := sh.writeGroup c.d (((bitsOf 64 c.mask).filter fun t => !sh.exited t).map fun t => (t, x, c.taint))
  let left := w.calls.filter fun q => q != c
  { w with
    calls := left
    threads := w.threads.mapIdx fun t th =>
      if th.st = .parked .sysCall ∧ !left.any (fun q => q.mask.getLsbD t) then th.wake else th }

/-- The calls of a sheaf stand when registers are written. -/
theorem calls_writeGroup (sh : Sheaf) (d : BitVec 8) (l : List (Nat × Word × Bool)) : (sh.writeGroup d l).calls = sh.calls :=
  (congrArg Sheaf.calls (frames_writeGroup sh d l 0).2.2 :)

/-- A thread of it. -/
theorem thread_answeredSheaf (c : SysCall) (x : Word) {sh : Sheaf} {t : Nat} (ht : t < sh.threads.length) :
    let w := sh.writeGroup c.d (((bitsOf 64 c.mask).filter fun t => !sh.exited t).map fun t => (t, x, c.taint))
    (answeredSheaf c x sh).thread t =
      if (sh.thread t).st = .parked .sysCall ∧ !(sh.calls.filter fun q => q != c).any (fun q => q.mask.getLsbD t) then
        (w.thread t).wake else w.thread t := by
  intro w
  have hlen : t < w.threads.length := by
    rw [(sameShape_writeGroup ..).length]
    exact ht
  have hst : (w.thread t).st = (sh.thread t).st := thread_writeGroup_keeps (·.st) (by intros; rfl) ..
  have hcalls : w.calls = sh.calls := calls_writeGroup ..
  rw [← hst, ← hcalls]
  simp only [Sheaf.thread, answeredSheaf, List.getD_eq_getElem?_getD, List.getElem?_mapIdx]
  rw [List.getElem?_eq_getElem hlen]
  rfl

/-- What waking leaves of a thread. -/
theorem wake_of_none {th : Thread} (h : th.wait = none) : th.wake = { th with st := .ready } := by
  rw [Thread.wake, h]

theorem wake_of_some {th : Thread} {w : Wait} (h : th.wait = some w) :
    th.wake = { th with st := .waiting w, wait := none } := by
  rw [Thread.wake, h]

theorem wake_keeps {β : Type} (p : Thread → β) (hp : ∀ th st w, p { th with st := st, wait := w } = p th) (th : Thread) :
    p th.wake = p th := by
  cases h : th.wait with
  | none =>
    rw [wake_of_none h]
    exact (congrArg (fun w => p { th with st := .ready, wait := w }) h).trans (hp ..)
  | some w =>
    rw [wake_of_some h]
    exact hp ..

/-- The condition under which a thread is woken by an answer. -/
theorem left_eq_false {calls : List SysCall} {t : Nat} (h : ∀ d ∈ calls, d.mask.getLsbD t = false) :
    calls.any (fun q => q.mask.getLsbD t) = false := by
  rw [List.any_eq_false]
  intro d hd
  simp [h d hd]

theorem left_eq_true {calls : List SysCall} {t : Nat} (h : ∃ d ∈ calls, d.mask.getLsbD t = true) :
    calls.any (fun q => q.mask.getLsbD t) = true :=
  List.any_eq_true.mpr h

/-- Where a thread of it stands: woken where no call is left for it, else as it did. -/
theorem answeredSheaf_stands (c : SysCall) (x : Word) {sh : Sheaf} {t : Nat} (ht : t < sh.threads.length) :
    let rest := sh.calls.filter (· != c)
    let th := sh.thread t
    let th' := (answeredSheaf c x sh).thread t
    (th.st = .parked .sysCall → (∀ d ∈ rest, d.mask.getLsbD t = false) →
      (th.wait = none → th'.st = .ready) ∧ ∀ w, th.wait = some w → th'.st = .waiting w) ∧
    (th.st = .parked .sysCall → (∃ d ∈ rest, d.mask.getLsbD t = true) → th'.st = .parked .sysCall) ∧
    (th.st ≠ .parked .sysCall → th'.st = th.st) := by
  intro rest th th'
  have hw : th' = _ := thread_answeredSheaf c x ht
  have hst := thread_writeGroup_keeps (·.st) (by intros; rfl) sh c.d
    (((bitsOf 64 c.mask).filter fun t => !sh.exited t).map fun t => (t, x, c.taint)) t
  have hwait := thread_writeGroup_keeps (·.wait) (by intros; rfl) sh c.d
    (((bitsOf 64 c.mask).filter fun t => !sh.exited t).map fun t => (t, x, c.taint)) t
  refine ⟨fun hp hno => ?_, fun hp hone => ?_, fun hp => ?_⟩
  · rw [if_pos ⟨hp, not_eq_true_of (left_eq_false hno)⟩] at hw
    refine ⟨fun hn => ?_, fun w hs => ?_⟩
    · rw [hw, wake_of_none (hwait.trans hn)]
    · rw [hw, wake_of_some (hwait.trans hs)]
  · rw [if_neg (fun h => not_false_of (left_eq_true hone) h.2)] at hw
    rw [hw]
    exact hst.trans hp
  · rw [if_neg (fun h => hp h.1)] at hw
    rw [hw]
    exact hst

/-- What an answer changes neither by its write nor by waking. -/
theorem answeredSheaf_keeps {β : Type} (p : Thread → β) (hp : ∀ th n x b, p (Thread.setV th n x b) = p th)
    (hw : ∀ th st w, p { th with st := st, wait := w } = p th) (c : SysCall) (x : Word) {sh : Sheaf} {t : Nat}
    (ht : t < sh.threads.length) : p ((answeredSheaf c x sh).thread t) = p (sh.thread t) := by
  rw [thread_answeredSheaf c x ht]
  split
  · exact (wake_keeps p hw _).trans (thread_writeGroup_keeps p hp ..)
  · exact thread_writeGroup_keeps p hp ..

/-- D of a thread of the call that has not exited. -/
theorem register_answeredSheaf {c : SysCall} (x : Word) {sh : Sheaf} {t : Nat} (ht : t < sh.threads.length) (h64 : t < 64)
    (hd : c.d.toNat < 0xC0) (hv : c.d.toNat < (sh.thread t).v.length) (hm : c.mask.getLsbD t = true)
    (hex : sh.exited t = false) : Register (answeredSheaf c x sh) t c.d = (x, c.taint) := by
  have hmem : t ∈ (bitsOf 64 c.mask).filter fun t => !sh.exited t := by
    simp [bitsOf, h64, hm, hex]
  have hreg := register_writeGroup_mem hd x c.taint _ sh hv ht (.inl hmem)
  rw [← hreg]
  have hth := thread_answeredSheaf c x ht
  simp only [Register, Sheaf.read, Sheaf.taintOf, hd, if_true]
  rw [hth]
  split
  · rw [wake_keeps (·.v) (by intros; rfl), wake_keeps (·.taint) (by intros; rfl)]
  · rfl

theorem answeredCalls : Claims.AnsweredCalls := by
  intro s sid c x hsome sh rest
  have hsheaf : (s.modSheaf sid (answeredSheaf c x)).sheaf sid = answeredSheaf c x sh := State.sheaf_modSheaf _ hsome
  refine ⟨s.modSheaf sid (answeredSheaf c x), rfl, rfl, fun k hk => State.sheaf_modSheaf_ne s _ hk, ?_, fun t ht => ?_,
    fun t h64 ht hd hv hm hex => ?_⟩
  · rw [hsheaf]
    exact congrArg (List.filter (· != c)) (calls_writeGroup ..)
  · rw [hsheaf]
    obtain ⟨hwoken, hheld, hother⟩ := answeredSheaf_stands c x ht
    exact ⟨hwoken, hheld, hother, answeredSheaf_keeps (·.pc) (by intros; rfl) (by intros; rfl) c x ht,
      answeredSheaf_keeps (·.word) (by intros; rfl) (by intros; rfl) c x ht,
      answeredSheaf_keeps (·.ast) (by intros; rfl) (by intros; rfl) c x ht⟩
  · rw [hsheaf]
    have hreg := register_answeredSheaf x ht h64 hd hv hm hex
    exact ⟨congrArg Prod.fst hreg, congrArg Prod.snd hreg⟩

/-! ### Halts -/

theorem haltsAndEngines : Claims.HaltsAndEngines := by
  intro s ctx h hctx hhalt
  refine ⟨fun hr => ?_, fun part unit hr hns hpart h8 h6 => ?_, fun unit op => ⟨rfl, rfl, rfl, rfl⟩⟩
  · change Host.Outcome.next _ = _
    rw [hhalt]
    refine congrArg Host.Outcome.next (if_neg ?_)
    rintro (hc | hc)
    · exact Bool.noConfusion (hr.symm.trans hc)
    · exact Bool.noConfusion (hc.symm.trans (Option.isNone_eq_false_iff.mpr hctx))
  · change Host.Outcome.next _ = _
    simp only [hhalt]
    refine congrArg Host.Outcome.next ((if_neg ?_).trans ?_)
    · rintro (hc | hc | hc | hc)
      · exact not_false_of hr hc
      · exact hns hc
      · exact not_false_of hpart hc
      · exact h6 hc
    · rw [if_neg (fun hc => h8 ⟨hc.1, hc.2.1⟩)]

/-! ### Engines that cannot make an access -/

/-- The fault of a context that is loaded: its record, and its halt unless it has halted already. -/
theorem contextFault_engine {s : State} {ctx : Nat} {i : FaultInfo} (h : (s.ctxs.get ctx).isSome = true)
    (hi : i.code = 0x18) : s.contextFault ctx i none =
      (s.record ctx (faultHeader s.now ctx 0x50 0 i)).modCtx ctx fun c => if c.halt.isSome then c else { c with
        halt := some ⟨0x18, BitVec.ofNat 8 i.sub, BitVec.ofNat 4 i.engine, BitVec.ofNat 64 i.addr, none, i.die, false⟩ } := by
  have hhalt : ∀ q : State, q.raiseHalt ctx i none = q.modCtx ctx fun c => if c.halt.isSome then c else { c with
      halt := some ⟨0x18, BitVec.ofNat 8 i.sub, BitVec.ofNat 4 i.engine, BitVec.ofNat 64 i.addr, none, i.die, false⟩ } := by
    intro q
    unfold State.raiseHalt
    congr 1
    funext c
    rw [hi]
    cases hc : c.halt <;> simp
  refine (if_pos h).trans ((hhalt _).trans ?_)
  rw [State.faultRecord, if_neg (by rw [hi]; decide)]

/-- Code 0, a page that is not present, and code 20, a way that is not open, fault no engine. -/
theorem engineBad_of {e : Nat} (h0 : e ≠ 0) (h20 : e ≠ 20) : engineBad e = true := by
  simp [engineBad, h0, h20]

theorem engineBad_eq_false {e : Nat} (h : e = 0 ∨ e = 20) : engineBad e = false := by
  rcases h with rfl | rfl <;> rfl

theorem enginesFault : Claims.EnginesFault := by
  intro s unit op e va b
  refine ⟨fun ctx i h hi => contextFault_engine h hi, fun k hk hh ln hln hcopy => ?_, fun r q hr htry hh => ?_,
    fun i l q hb hrun hh => ?_, fun q hq hm hload => ?_⟩
  · have hbad : s.badCopy unit op k = if engineBad e then some (e, va) else none := by
      unfold State.badCopy
      rw [hln]
      simp only [List.findSome?_cons, hcopy, List.findSome?_nil]
      cases engineBad e <;> rfl
    unfold State.faultCopy
    rw [hk]
    dsimp only
    rw [hbad]
    refine ⟨fun h0 h20 => ?_, fun h => ?_⟩
    · rw [engineBad_of h0 h20]
      exact if_neg (fun hc => Bool.noConfusion (hh.symm.trans hc))
    · rw [engineBad_eq_false h]
      rfl
  · unfold State.faultReq
    rw [hr]
    dsimp only
    rw [htry]
    refine ⟨fun h0 h20 => if_neg ?_, fun h => if_pos (.inl (not_eq_true_of (engineBad_eq_false h)))⟩
    rintro (hc | hc)
    · exact not_false_of (engineBad_of h0 h20) hc
    · exact Bool.noConfusion (hh.symm.trans hc)
  · unfold State.faultBinding
    rw [hb]
    dsimp only
    rw [hrun]
    refine ⟨fun h0 h20 => if_neg ?_, fun h => if_pos (.inl (not_eq_true_of (engineBad_eq_false h)))⟩
    rintro (hc | hc)
    · exact not_false_of (engineBad_of h0 h20) hc
    · exact Bool.noConfusion (hh.symm.trans hc)
  · have hfill : s.faultFill unit op = if !engineBad e then s else (s.modDie unit fun d =>
        { d with fills := d.fills.put op { q with held := true } }).engineFault q.ctx e q.pc.toNat va 255 7 (baseOfCore (32 * unit)) := by
      unfold State.faultFill
      rw [hq]
      refine (if_neg (not_false_of hm)).trans ?_
      rw [hload]
    rw [hfill]
    exact ⟨fun h0 h20 => if_neg (not_false_of (engineBad_of h0 h20)), fun h => if_pos (not_eq_true_of (engineBad_eq_false h))⟩

/-- Settles O44. -/
theorem systemCallsAndHalts : Obligations.SystemCallsAndHalts := by
  unfold Obligations.SystemCallsAndHalts
  exact ⟨systemCalls, answeredCalls, haltsAndEngines, enginesFault⟩

end Sys2Proof.Laws

/-! SUPPORT. O32: what a copy of the ring-store controller leaves of its registers, and the ring store's statements. -/
namespace Sys2Proof.Laws
open Machine

/-! ### The registers that a read of the array keeps (R323 to R326) -/

/-- What reading a codeword leaves of a ring store: all but its array log, its counts and its error lists. -/
structure RingKept (r q : RingStore) : Prop where
  map : q.map = r.map
  spare : q.spare = r.spare
  rotating : q.rotating = r.rotating
  target : q.target = r.target

theorem RingKept.refl (r : RingStore) : RingKept r r := ⟨rfl, rfl, rfl, rfl⟩

theorem RingKept.trans {r q v : RingStore} (h : RingKept r q) (g : RingKept q v) : RingKept r v :=
  ⟨g.map.trans h.map, g.spare.trans h.spare, g.rotating.trans h.rotating, g.target.trans h.target⟩

theorem ringKept_log (r : RingStore) (now kind bank cw sym : Nat) : RingKept r (r.log now kind bank cw sym) :=
  ⟨rfl, rfl, rfl, rfl⟩

theorem ringKept_correct (r : RingStore) (now key : Nat) : RingKept r (r.correct now key) := by
  unfold RingStore.correct
  cases r.soft.get key with
  | none => exact .refl r
  | some sym => exact ⟨rfl, rfl, rfl, rfl⟩

@[simp] theorem ring_modRing (s : State) (d : Nat) (f : RingStore → RingStore) :
    ((s.modRing d f).base d).ring = f (s.base d).ring :=
  congrArg BaseDie.ring (State.base_modBase s d _)

theorem ring_readWord (s : State) (d k : Nat) : RingKept (s.base d).ring ((s.readWord d k).base d).ring := by
  unfold State.readWord
  dsimp only
  split
  · exact .refl _
  · split
    · rw [ring_modRing]
      exact ringKept_log ..
    · rw [ring_modRing]
      exact ringKept_correct ..

theorem ring_readWords (s : State) (d : Nat) (p : Nat → Bool) :
    RingKept (s.base d).ring ((s.readWords d p).base d).ring := by
  unfold State.readWords
  dsimp only
  generalize List.filter p _ = l
  induction l generalizing s with
  | nil => exact .refl _
  | cons k l ih => exact (ring_readWord s d k).trans (ih (s.readWord d k))

/-! ### Banks and rotation (R323 to R325) -/

theorem banksAndRotation : Claims.BanksAndRotation := by
  intro s d b hd
  refine ⟨fun hb ha => congrArg Host.Outcome.next (if_pos ⟨hb, hd, ha⟩),
    fun ha => congrArg Host.Outcome.next (if_pos ⟨hd, ha⟩), fun hrot hbusy hnone htime hlost => ?_, fun hrot => ?_⟩
  · refine congrArg Host.Outcome.next ((if_neg (by omega)).trans ?_)
    have hroll : ((s.base d).ring.roll s.now).rot = true ∧ ((s.base d).ring.roll s.now).busy = false ∧
        ((s.base d).ring.roll s.now).rotating = none ∧
        ((s.base d).ring.roll s.now).lost.getLsbD ((s.base d).ring.roll s.now).spare = false := by
      unfold RingStore.roll
      dsimp only
      split <;> exact ⟨hrot, hbusy, hnone, hlost⟩
    obtain ⟨h1, h2, h3, h4⟩ := hroll
    unfold State.modRing State.modBase
    simp only [h1, h2, h3, h4, Bool.not_true, Bool.false_eq_true, or_self, if_false, Option.none_or]
  · show ∃ t, execRotationCopyEnd d s = .next t ∧ _
    unfold execRotationCopyEnd
    rw [hrot]
    refine ⟨_, rfl, ?_⟩
    obtain ⟨hmap, hspare, -, -⟩ := ring_readWords s d (fun k => k / 2 ^ 20 == b)
    rw [ring_modRing]
    exact ⟨by rw [← hmap, ← hspare], rfl, rfl⟩

/-! ### Remapping (R322, R334) -/

theorem bases_dispatchFirst (k : Nat) (l : Tab (Nat × Nat × Nat)) (s : State) :
    (State.dispatchFirst k l s).bases = s.bases := by
  induction l generalizing s with
  | nil => rfl
  | cons x l ih =>
    obtain ⟨key, n, p, t⟩ := x
    unfold State.dispatchFirst
    split
    · rfl
    · exact ih _

theorem bases_retryHeld (s : State) (n : Nat) : (s.retryHeld n).bases = s.bases := by
  unfold State.retryHeld
  dsimp only
  split
  · rfl
  · exact each_keeps State.bases (fun x s => bases_dispatchFirst ..) _ s

theorem base_of_bases {s t : State} (h : t.bases = s.bases) (d : Nat) : t.base d = s.base d :=
  congrArg (fun b => (Tab.get b d).getD (BaseDie.reset d)) h

theorem remappingSteps : Claims.RemappingSteps := by
  intro s d
  refine ⟨fun hgo hbusy hok => ?_, fun hgo hbusy hbad => ?_, fun hbusy hrot => ?_⟩
  · exact congrArg Host.Outcome.next ((if_neg (by simp [hgo, hbusy])).trans (if_neg (not_not.mpr hok)))
  · exact congrArg Host.Outcome.next ((if_neg (by simp [hgo, hbusy])).trans (if_pos hbad))
  · refine ⟨_, congrArg Host.Outcome.next (if_neg (by simp [hbusy, hrot])), ?_⟩
    dsimp only
    rw [base_of_bases (each_keeps State.bases (fun n t => bases_retryHeld t n) _ _), ring_modRing]
    exact ⟨(ring_readWords (s.loseTiles d) d _).target, rfl, rfl, rfl, rfl, rfl⟩

/-! ### Retried transfers (R327) -/

theorem parityRetries : Claims.ParityRetries := by
  intro s d ch group tries hd hch hg h1 h4 r hfail hused
  have hswap : (r.swap.get ch).getD (false, 0) = (false, ((r.swap.get ch).getD (false, 0)).2) :=
    Prod.ext hfail rfl
  have hrun : ∃ l : RingStore → List LogEntry, exec (.transferParityRetry d ch group tries 0 0) s =
      .next (s.modRing d fun r' => { r' with
        blog := l r'
        bnext := r'.bnext + 1
        bretry := BitVec.ofNat 32 (min (r'.bretry.toNat + tries) (2 ^ 32 - 1))
        swap := r'.swap.put ch (false, ((r.swap.get ch).getD (false, 0)).2) }) := by
    refine ⟨fun r' => List.set (if r.blog = [] then List.replicate 64 0 else r.blog) r'.bnext.toNat
      (BitVec.ofNat 128 (cat [(s.now, 64), (ch, 5), (group, 5), (tries, 3), (0, 3), (0, 2), (0x3FF, 10), (0, 36)])),
      congrArg Host.Outcome.next ?_⟩
    dsimp only
    rw [hswap]
    refine (if_neg ?_).trans rfl
    simp
    omega
  obtain ⟨l, hexec⟩ := hrun
  refine ⟨_, hexec, ?_⟩
  rw [ring_modRing]
  refine ⟨?_, rfl, rfl, Tab.get_put_self _ ch _⟩
  exact Nat.mod_eq_of_lt (by omega)

/-- Settles O32. -/
theorem ringStore : Obligations.RingStore := by
  unfold Obligations.RingStore
  exact ⟨banksAndRotation, remappingSteps, parityRetries⟩

end Sys2Proof.Laws

/-! SUPPORT. O34 and O35: the scoreboard's events and the life of workgroups and sheaves. -/
namespace Sys2Proof.Laws
open Machine

/-! ### Passes and tiles (R355 to R358) -/

theorem releasable_of {g : Graph} {p t : Nat} (hs : g.stage = .admitted) (he : (g.run p).entered = true)
    (hk : (g.pass p).kind = 0) (ht : t < (g.pass p).count) (hn : (g.run p).tiles.get t = none)
    (hsat : g.satisfied p t = true) : g.releasable p t = true := by
  simp [Graph.releasable, hs, he, hk, ht, hn, hsat]

theorem passesAndReleases : Claims.PassesAndReleases := by
  intro s n p t g hs hp
  refine ⟨fun hne hall => congrArg Host.Outcome.next (if_neg ?_), fun he hk ht hn hsat => ?_, fun htr => if_neg ?_⟩
  · have hready : (List.range p).all (fun q => (g.run q).entered && (decide (p < q + 64) || (g.run q).retired)) = true := by
      rw [List.all_eq_true]
      intro q hq
      obtain ⟨hent, hret⟩ := hall q (List.mem_range.mp hq)
      rcases Nat.lt_or_ge p (q + 64) with h | h
      · simp [hent, h]
      · simp [hent, hret h]
    rintro (h | h | h | h)
    · exact h hs
    · exact absurd h (Nat.not_le.mpr hp)
    · exact Bool.noConfusion (hne.symm.trans h)
    · exact not_false_of hready h
  · exact congrArg Host.Outcome.next (if_neg (not_false_of (releasable_of hs he hk ht hn hsat)))
  · exact fun h => Bool.noConfusion (htr.symm.trans h.1)

/-! ### Dispatch (R333, R358) -/

theorem outsHeld_of {s : State} {g : Graph} {p : Nat} (h : ∀ e ∈ g.outs p, (g.res e.res).cls ≠ 1) :
    s.outsHeld g p = false := by
  rw [State.outsHeld, List.any_eq_false]
  intro e he
  simp [h e he]

theorem reserve_of {g : Graph} {p : Nat} (t : Nat) (h : ∀ e ∈ g.outs p, (g.res e.res).cls ≠ 1) :
    g.reserve p t = some g := by
  unfold Graph.reserve
  generalize g.outs p = l at h
  induction l with
  | nil => rfl
  | cons e l ih =>
    rw [List.foldl_cons, Option.bind_some, if_neg (h e (List.mem_cons_self ..))]
    exact ih fun e' he => h e' (List.mem_cons_of_mem _ he)

/-- The first tile of the unit's order is dispatched once its outputs are reserved. -/
theorem exec_tileDispatch {s : State} {pods key n p t : Nat} {l : Tab (Nat × Nat × Nat)} {g : Graph}
    (ho : s.dispatchOrder pods = (key, n, p, t) :: l) (hh : s.outsHeld (s.graph n) p = false)
    (hr : (s.graph n).reserve p t = some g) :
    exec (.tileDispatch pods) s = .next
      ((({ s with graphs := s.graphs.put n g } : State).modTile n p t fun r => { r with board := .dispatched }).modLaunch
        pods fun u => { u with tiles := u.tiles ++ [(n, p, t)] }) := by
  show Host.Outcome.next (State.dispatchFirst pods (s.dispatchOrder pods) s) = _
  rw [ho, State.dispatchFirst, hh, if_neg Bool.false_ne_true, hr]

theorem tilesDispatch : Claims.TilesDispatch :=
  ⟨fun _ _ _ _ _ t _ ho hout _ => ⟨_, exec_tileDispatch ho (outsHeld_of hout) (reserve_of t hout), rfl⟩,
    fun _ _ _ _ _ _ _ _ ho hh hr => exec_tileDispatch ho hh hr⟩

/-! ### Placement (R379) -/

theorem teamsPlaced : Claims.TeamsPlaced := by
  intro s pods n p t r l hplacing hhalt hfind hrun hseats
  have hb : (s.launchUnit pods).batches.filter (fun b => !s.halted (s.graph b.1).ctx) = [] :=
    List.filter_eq_nil_iff.mpr fun b hmem => not_false_of (hhalt b hmem)
  show Host.Outcome.next _ = _
  dsimp only
  rw [hb, hplacing, hfind]
  simp only [List.findSome?_nil, Bool.false_eq_true, if_false]
  rw [hrun]
  simp only [State.placeTeam, hseats]
  rfl

/-- Settles O34. -/
theorem scoreboard : Obligations.Scoreboard := by
  unfold Obligations.Scoreboard
  exact ⟨passesAndReleases, tilesDispatch, teamsPlaced⟩

/-! ### Workgroups (R88, R90, R100) -/

theorem workgroupsLiveAndRetire : Claims.WorkgroupLife := by
  intro s w hw q
  have hsome : ¬ (s.wgs.get w).isNone = true := by
    rw [Option.isNone_iff_eq_none]
    exact Option.isSome_iff_ne_none.mp hw
  refine ⟨fun l hstage hseats hpow hhold => ?_, fun hprimed hhalt hwork hlater hlast => ?_, fun hend => ?_⟩
  · refine congrArg Host.Outcome.next ((if_neg (not_or.mpr ⟨hsome, not_not.mpr hstage⟩)).trans ?_)
    rw [hseats]
    exact (if_neg (not_false_of hpow)).trans (if_neg (fun h => Bool.noConfusion (hhold.symm.trans h)))
  · have hall : (s.teamOf w).all (fun v => (s.wg v).stage == .primed) = true :=
      List.all_eq_true.mpr fun v hv => beq_iff_eq.mpr (hprimed v hv)
    show Host.Outcome.next _ = _
    dsimp only
    rw [hwork]
    refine congrArg Host.Outcome.next ((if_neg ?_).trans (if_neg Bool.false_ne_true))
    rintro (h | h | h | ⟨-, h | h⟩)
    · exact hsome h
    · exact not_false_of hall h
    · exact Bool.noConfusion (hhalt.symm.trans h)
    · revert h
      cases hc : ((s.graph q.graph).run q.pass).lastStart.get (baseOfCore q.core) with
      | none => exact Bool.false_ne_true
      | some c => exact fun h => absurd (hlast c hc) (Nat.not_le.mpr (of_decide_eq_true h))
    · exact Bool.noConfusion (hlater.symm.trans h)
  · exact congrArg Host.Outcome.next (if_neg (not_or.mpr ⟨hsome, not_false_of hend⟩))

/-! ### Sheaves (R99, R186, R214) -/

theorem sheavesRetire : Claims.SheavesRetire := by
  intro s sid hs hne hexit hflags htags htok hbusy hops
  have hdrained : (s.sheaf sid).drained = true := by
    simp [Sheaf.drained, List.all_eq_true]
    exact ⟨hflags, htags⟩
  have hthreads : (s.sheaf sid).threads.all (fun th => th.st == .exited) = true :=
    List.all_eq_true.mpr fun th h => beq_iff_eq.mpr (hexit th h)
  have hdone : s.ops.all (fun p => p.2.sid != sid || p.2.gen != (s.sheaf sid).gen || p.2.isRead) = true :=
    List.all_eq_true.mpr fun p h => by simp [hops p h]
  refine ⟨_, congrArg Host.Outcome.next (if_neg ?_), ?_, fun k hk => ?_, rfl⟩
  · simp [hne, hthreads, hdrained, htok, hbusy, hdone, Option.isSome_iff_ne_none.mp hs]
  · exact Tab.get_del_self ..
  · exact Tab.get_del_ne _ hk

/-- Settles O35. -/
theorem workgroupLife : Obligations.WorkgroupLife := by
  unfold Obligations.WorkgroupLife
  exact ⟨workgroupsLiveAndRetire, sheavesRetire⟩

end Sys2Proof.Laws

/-! SUPPORT. O33: tile.ret and rs.q, and the ends of edges, drains, tiles, nodes, graphs and reads. -/
namespace Sys2Proof.Laws
open Machine

/-! ### Words that ask a controller (R366, R388) -/

/-- A word whose controllers have answered goes on. -/
theorem answered_of {is : Issue} {least : Nat} {s : State} {dies : List Nat} (k : State → Result)
    (h : Answered s is.sid is.act least dies) : is.answered least s dies k = k s := by
  unfold Issue.answered
  rcases h with h | ⟨hnear, r, n, hrun, hasked, hle⟩
  · exact if_pos h
  · by_cases ha : is.act = []
    · exact if_pos ha
    · have hr : (s.run is.sid).asked = some n := by rw [State.run, hrun]; exact hasked
      refine (if_neg ha).trans ((if_neg (not_false_of (List.all_eq_true.mpr hnear))).trans ?_)
      rw [hr]
      exact if_neg (Nat.not_lt.mpr hle)

/-- A word that acts and has not asked yet asks and waits. -/
theorem answered_asks {is : Issue} {least : Nat} {s : State} {dies : List Nat} (k : State → Result)
    (ha : is.act ≠ []) (hnear : Near s is.sid dies) (hasked : (s.run is.sid).asked = none) :
    is.answered least s dies k = .wait (NowAsked s is.sid) := by
  unfold Issue.answered
  refine (if_neg ha).trans ((if_neg (not_false_of (List.all_eq_true.mpr hnear))).trans ?_)
  rw [hasked]
  rfl

/-! ### `tile.ret` (R359) -/

theorem tileRetCloses : Claims.TileRetCloses := by
  intro f s sid r h hact w n all k ks m new htile hzero hk hfence hheld
  have hmod : f.mod 0 5 = k := fieldsMod_zero f 5
  refine goes_of_done h rfl ((if_neg ?_).trans ((if_neg hact).trans ((if_neg ?_).trans ?_)))
  · have hall : (f.mod 5 1 == 1) = all := rfl
    show ¬ (!(s.wg w).forTile || f.mod 5 1 == 1 && f.mod 0 5 != 0 || !f.mod 5 1 == 1 && decide (n ≤ f.mod 0 5)) = true
    rw [htile, hmod, hall]
    cases hb : all
    · simpa using hk hb
    · simpa using hzero hb
  · rintro (hc | hc)
    · exact not_false_of hfence hc
    · rw [hmod] at hc
      exact Bool.noConfusion (hheld.symm.trans hc)
  · rw [hmod]
    rfl

/-! ### `rs.q` (R366, R477) -/

/-- The step of a fill whose tile is free or unwritten, and of one that is there. -/
theorem missAt_getD (s : State) (n k : Nat) (q : RingFill) :
    (s.missAt n k q).getD s =
      let st := ((s.graph n).ringTile q.res q.idx).st
      if (st = .free ∨ st = .unwritten) ∧ s.halted (s.graph n).ctx = false then
        s.missFill n k q (if st = .free then 1 else 2) else s := by
  unfold State.missAt
  dsimp only
  cases hh : s.halted (s.graph n).ctx <;> cases ((s.graph n).ringTile q.res q.idx).st <;> simp

theorem ringQueries : Claims.RingQueries := by
  intro f s sid r h w n g l res idx
  have hone : f.mod 0 1 = f.xmod.toNat % 2 := fieldsMod_zero f 1
  refine ⟨fun hmod hok => ?_, fun hmod hact => ?_⟩
  · have hall : l.all (fun t => g.queryOk (res t) (idx t)) = true := List.all_eq_true.mpr hok
    refine ⟨fun hact hnear hasked => waits_of_wait h rfl ((if_pos (hone.trans hmod)).trans ((if_neg (not_false_of hall)).trans ?_)),
      fun hans => goes_of_done h rfl ((if_pos (hone.trans hmod)).trans ((if_neg (not_false_of hall)).trans ?_))⟩
    · exact answered_asks _ hact hnear ((congrArg ClauseRun.asked (run_of_issues h)).trans hasked)
    · exact answered_of _ hans
  · intro k q ld e i _ hk hset hok hmatch
    have hne : f.mod 0 1 ≠ 0 := by omega
    have hk' : f.mod 1 5 = k := rfl
    have hcond : ¬ ((!g.queryOk e i || !(q.tile w (f.mod 1 5)).matches (g.res e)) = true) := by
      rw [hk', hok, hmatch]; decide
    refine ⟨fun hasked hnear => waits_of_wait h rfl ((if_neg hne).trans ?_),
      fun hans => goes_of_done h rfl ((if_neg hne).trans ?_)⟩
    · refine (tileOp_of_settled (q := q) hk hact hset rfl rfl rfl).trans ((if_neg hcond).trans ?_)
      exact answered_asks _ hact hnear hasked
    · refine (tileOp_of_settled (q := q) hk hact hset rfl rfl rfl).trans ((if_neg hcond).trans ?_)
      refine (answered_of _ hans).trans (congrArg Result.done ?_)
      exact missAt_getD _ n q.next _

/-! ### The ends (R331, R356, R359 to R364, R387) -/

theorem retirementEvents : Claims.RetirementEvents := by
  intro s s' n p t k g
  refine ⟨fun e r he hr hrun hdone hplaced hclosed hcls => ?_, fun e r he hr hdone hdrained hres hbegun => ?_,
    fun e r he hr hdone hdrained hhold hres hbegun hst hdrain => ?_, fun r hr hstream hends => ?_,
    fun x l hk hx hwhole => ?_, fun hs hp hkind hent hret hfed hq hc hlive => ?_, fun gr hgr hs hall hch => ?_,
    fun x res i hp ht hres hi hx hs hcls hmem hnew hplaced hrel => ?_⟩
  · have hopen : r.wgs.all (fun w => s.closedIn w k) = true := List.all_eq_true.mpr hclosed
    have htrans : (((s.graph n).res e.res).cls == 1) = false := beq_false_of_ne hcls
    show execEdgeDone n p t k s = _
    unfold execEdgeDone
    dsimp only
    rw [show ((s.graph n).outs p)[k]? = some e from he, hr]
    refine congrArg Host.Outcome.next ((if_neg ?_).trans ?_)
    · simp [hrun, hdone, hplaced, hopen, g]
    · simp only [htrans, Bool.false_and, Bool.false_eq_true, if_false]
  · have hgo : ¬ ((!r.done_.getLsbD k) = true ∨ r.drained.getLsbD k = true ∨ (!(s.wg r.lead).resident) = true) := by
      simp [hdone, hdrained, hres]
    have hrun : exec (.drainComplete n p t k) s = .next (if s.bound r.lead e then s.beginDrain n p t k else
        ((s.modGraph n fun g => g.unwrite e.res t).modTile n p t fun r => { r with
          drained := r.drained ||| BitVec.ofNat 24 (2 ^ k) }).retryHeld n) := by
      show execDrainComplete n p t k s = _
      unfold execDrainComplete
      dsimp only
      rw [show ((s.graph n).outs p)[k]? = some e from he, hr]
      exact congrArg Host.Outcome.next ((if_neg hgo).trans (if_pos (not_eq_true_of hbegun)))
    refine ⟨fun hkind hready => ?_, fun hkind => ?_⟩
    · rw [hrun, if_pos (show s.bound r.lead e = true from beq_iff_eq.mpr hkind)]
      unfold State.beginDrain
      rw [show ((s.graph n).outs p)[k]? = some e from he, hr]
      exact congrArg Host.Outcome.next (if_neg (not_not.mpr hready))
    · rw [hrun, if_neg (show ¬ s.bound r.lead e = true from fun hc => hkind (beq_iff_eq.mp hc))]
  · have hgo : ¬ ((!r.done_.getLsbD k) = true ∨ r.drained.getLsbD k = true ∨ (!(s.wg r.lead).resident) = true) := by
      simp [hdone, hdrained, hres]
    show execDrainComplete n p t k s = _
    unfold execDrainComplete
    dsimp only
    rw [show ((s.graph n).outs p)[k]? = some e from he, hr]
    refine congrArg Host.Outcome.next ((if_neg hgo).trans ((if_neg (not_false_of hbegun)).trans ((if_neg ?_).trans ?_)))
    · exact not_or.mpr ⟨fun hc => Bool.noConfusion (hhold.symm.trans hc), not_not.mpr hst⟩
    · obtain ⟨o, q, hpair⟩ : ∃ o q, s.drainTo n e.res t r.lead e.tile = (o, q) := ⟨_, _, rfl⟩
      rw [hpair] at hdrain ⊢
      subst hdrain
      rfl
  · show execTileRetire n p t s = _
    rw [execTileRetire, hr]
    refine congrArg Host.Outcome.next ((if_neg ?_).trans ?_)
    · rw [hstream]
      rcases hends with ⟨hk, hboard, hplaced, hended⟩ | ⟨hk, hboard, hall⟩
      · simp [g, hk, hboard, hplaced, hended]
      · have hdr : (List.range (g.outs p).length).all (fun i => r.drained.getLsbD i) = true :=
          List.all_eq_true.mpr fun i hi => hall i (List.mem_range.mp hi)
        simp [g, hk, hboard, hdr]
    · rw [State.finishRaster, hstream]
  · show execRetireNotice k 0 s = _
    rw [execRetireNotice, hx]
    refine congrArg Host.Outcome.next ((if_neg (by omega)).trans ?_)
    have hcond (a : Prop) : ¬ (a ∧ x.tile ≠ wholePass) := fun hc => hc.2 hwhole
    simp only [hcond, if_false]
  · refine congrArg Host.Outcome.next (if_neg ?_)
    rintro (h | h | h | h | h | h | h | h | h)
    · exact h hs
    · exact Nat.not_le.mpr hp h
    · exact h hkind
    · exact not_false_of hent h
    · exact Bool.noConfusion (hret.symm.trans h)
    · exact not_false_of hfed h
    · exact h hq
    · exact h hc
    · exact h hlive
  · show execGraphRetire n s = _
    rw [execGraphRetire, hgr]
    exact congrArg Host.Outcome.next ((if_neg (by simp [hs])).trans (if_neg (by simp [hs, hall, hch])))
  · have hk0 : bits (i + res * 2 ^ 14 + t * 2 ^ 24 + p * 2 ^ 38) 0 14 = i := by unfold bits; omega
    have hk1 : bits (i + res * 2 ^ 14 + t * 2 ^ 24 + p * 2 ^ 38) 14 10 = res := by unfold bits; omega
    have hk2 : bits (i + res * 2 ^ 14 + t * 2 ^ 24 + p * 2 ^ 38) 24 14 = t := by unfold bits; omega
    have hk3 : (i + res * 2 ^ 14 + t * 2 ^ 24 + p * 2 ^ 38) / 2 ^ 38 = p := by omega
    have hall : x.wgs.all (fun w => s.released w res i (g.stagedRead p t res i)) = true := List.all_eq_true.mpr hrel
    show execReadEnd n _ s = _
    unfold execReadEnd
    simp only [hk0, hk1, hk2, hk3, hx]
    refine congrArg Host.Outcome.next (if_neg ?_)
    rintro (h | h | h | h | h | h)
    · exact h hs
    · exact h hcls
    · exact h hmem
    · exact hnew h
    · exact h hplaced
    · exact not_false_of hall h

/-- Settles O33. -/
theorem tileRetirement : Obligations.TileRetirement := by
  unfold Obligations.TileRetirement
  exact ⟨tileRetCloses, ringQueries, retirementEvents⟩

end Sys2Proof.Laws

/-! SUPPORT. O37: the record instructions and `cont`. -/
namespace Sys2Proof.Laws
open Machine

/-! ### Faults that do not occur (R161, R389) -/

theorem recFault_eq_none {is : Issue} {code : Nat} {l : List (Nat × Option Nat)} {s : State} (h : ∀ p ∈ l, p.2 = none) :
    is.recFault code l s = none := by
  have hnil : l.filterMap (fun p => p.2.map fun k => (p.1, k)) = [] :=
    List.filterMap_eq_nil_iff.mpr fun p hp => by rw [h p hp, Option.map_none]
  rw [Issue.recFault, hnil]

/-- No lane of a list has a fault where no element gives it a sub-code. -/
theorem recFault_map_ne_some {α : Type} {is : Issue} {code : Nat} {l : List α} {lane : α → Nat} {sub : α → Option Nat}
    {s : State} {x : Result} (hbad : is.recFault code (l.map fun a => (lane a, sub a)) s = some x)
    (h : ∀ a ∈ l, sub a = none) : False := by
  rw [recFault_eq_none] at hbad
  · exact nomatch hbad
  · intro p hp
    obtain ⟨a, ha, rfl⟩ := List.mem_map.mp hp
    exact h a ha

theorem allocFault_of_feeds {s : State} {w n : Nat} (h : FeedsNode s w n) : s.allocFault w n = none := by
  obtain ⟨hwork, hn, hkind, e, he, hdir, hprod⟩ := h
  have hfeeds : ((s.graph (s.wg w).graph).edgesOf n).any (fun e => e.dir == 2 && e.prod == (s.wg w).pass) = true :=
    List.any_eq_true.mpr ⟨e, he, by simp [hdir, hprod]⟩
  refine if_neg ?_
  rw [hfeeds, hkind]
  cases hw : (s.wg w).work with
  | recipe k => exact absurd hw (hwork k)
  | tile => simpa using hn
  | batch l => simpa using hn

theorem offsetFault_eq_none {o n len : Nat} (h : o % n = 0) (hle : o + n ≤ len) : offsetFault o n len = none :=
  if_neg (by omega)

/-- Handles that differ, each of a record of the workgroup, are committed without a fault. -/
theorem commitFaults_eq_none {s : State} {w : Nat} {l : List (Nat × BitVec 32)} {seen : List (BitVec 32)}
    (hn : (l.map (·.2)).Nodup) (ho : ∀ p ∈ l, (s.ownedRec w p.2).isSome = true) (hs : ∀ p ∈ l, p.2 ∉ seen) :
    ∀ p ∈ s.commitFaults w l seen, p.2 = none := by
  induction l generalizing seen with
  | nil => exact fun p hp => nomatch hp
  | cons x l ih =>
    obtain ⟨t, h⟩ := x
    obtain ⟨hx, hn⟩ := List.nodup_cons.mp hn
    have hhead : ¬ ((s.ownedRec w h).isNone ∨ h ∈ seen) := by
      have howned := ho _ (List.mem_cons_self ..)
      rintro (hc | hc)
      · rw [Option.isNone_iff_eq_none] at hc
        exact absurd hc (Option.isSome_iff_ne_none.mp howned)
      · exact hs _ (List.mem_cons_self ..) hc
    intro p hp
    rcases List.mem_cons.mp hp with rfl | hp
    · exact if_neg hhead
    · refine ih hn (fun q hq => ho q (List.mem_cons_of_mem _ hq)) (fun q hq hc => ?_) p hp
      rcases List.mem_cons.mp hc with hc | hc
      · exact hx (List.mem_map.mpr ⟨q, hq, hc⟩)
      · exact hs q (List.mem_cons_of_mem _ hq) hc

/-- An address in the own allocation. -/
theorem localAt_eq_none {s : State} {w al n : Nat} {a : Word} (hal : a.toNat % al = 0) (ha : a.toNat < 2 ^ 19)
    (hsize : a.toNat + n ≤ (s.wg w).size) : s.localAt w a al n = none := by
  have hremote : a.getLsbD 24 = false := by
    rw [BitVec.getLsbD]
    exact Nat.testBit_lt_two_pow (by omega)
  have hmbz : scratchMbz a = false := by
    have h1 : bits a.toNat 25 7 = 0 := by unfold bits; omega
    have h2 : bits a.toNat 19 5 = 0 := by unfold bits; omega
    rw [scratchMbz, h1, h2]
    rfl
  have hoff : scratchOff a = a.toNat := by unfold scratchOff bits; omega
  unfold State.localAt
  simp only [hremote, hmbz, hoff]
  simp [hal, hsize]

/-- A lane of `cont` with hit state, a node that it may feed and an address that holds the payload. -/
theorem contFault_eq_none {s : State} {w n : Nat} {th : Thread} {a : Word} (hhit : th.hit.isSome = true)
    (hfeeds : FeedsNode s w n) (hal : a.toNat % 16 = 0) (ha : a.toNat < 2 ^ 19)
    (hsize : a.toNat + (s.graph (s.wg w).graph).payload n ≤ (s.wg w).size) : s.contFault w th n a = none := by
  have hlocal : s.localAt w a 16 ((s.graph (s.wg w).graph).payload n) = none := localAt_eq_none hal ha hsize
  have hnone : ¬ th.hit.isNone = true := by
    rw [Option.isNone_iff_eq_none]
    exact Option.isSome_iff_ne_none.mp hhit
  refine (if_neg hnone).trans ?_
  rw [allocFault_of_feeds hfeeds, hlocal]
  rfl

/-! ### The lanes of `rec.get` (R389) -/

/-- Lanes whose bytes are no poison read them, and change nothing. -/
theorem getRec_lanes {s : State} {ctx n w : Nat} {pa : Nat → Nat} {taint : Nat → Bool} {l : List Nat}
    (h : ∀ t ∈ l, (s.homeLoad (s.ctx ctx) { pa := pa t, entry := 0 } n).2 = false) (outs : List LaneOut) :
    l.foldl (fun (acc : List LaneOut × List Nat × State) t =>
      let (bs, po, s) := acc.2.2.getRec ctx (pa t) n
      (acc.1 ++ [⟨t, (bytesWords w bs).map (fun x => (x, taint t)), 0⟩], if po then acc.2.1 ++ [t] else acc.2.1, s))
        (outs, [], s) =
      (outs ++ l.map (fun t => ⟨t, (bytesWords w (s.homeLoad (s.ctx ctx) { pa := pa t, entry := 0 } n).1).map
        fun x => (x, taint t), 0⟩), [], s) := by
  induction l generalizing outs with
  | nil => simp
  | cons t l ih =>
    have hlane : s.getRec ctx (pa t) n = ((s.homeLoad (s.ctx ctx) { pa := pa t, entry := 0 } n).1, false, s) := by
      unfold State.getRec
      have hpair : s.homeLoad (s.ctx ctx) { pa := pa t, entry := 0 } n =
          ((s.homeLoad (s.ctx ctx) { pa := pa t, entry := 0 } n).1, false) := Prod.ext rfl (h t (List.mem_cons_self ..))
      rw [hpair]
      rfl
    rw [List.foldl_cons, hlane]
    refine (ih (fun u hu => h u (List.mem_cons_of_mem _ hu)) _).trans ?_
    rw [List.map_cons, List.append_assoc]
    rfl

/-! ### The lanes of `rec.put` (R390, R435) -/

theorem DevTouched.ctx {s t : State} (h : DevTouched s t) (c : Nat) : t.ctx c = s.ctx c := by
  rw [h.1]
  rfl

theorem desc_modCtx (s : State) (n c : Nat) {f : Ctx → Ctx} (hf : ∀ x, (f x).desc = x.desc) :
    ((s.modCtx n f).ctx c).desc = (s.ctx c).desc := by
  by_cases h : c = n
  · subst h
    simp only [State.ctx, State.modCtx, Tab.get_mod_self]
    cases s.ctxs.get c with
    | none => rfl
    | some x => exact hf x
  · rw [State.ctx_modCtx_ne s f h]

theorem desc_contextFault (s : State) (ctx c : Nat) (i : FaultInfo) (sid : Option Nat) :
    ((s.contextFault ctx i sid).ctx c).desc = (s.ctx c).desc := by
  unfold State.contextFault
  split
  · refine (desc_modCtx _ ctx c fun x => ?_).trans ?_
    · cases x.halt <;> rfl
    · exact congrArg Ctx.desc ((record_touched ..).ctx c)
  · rfl

/-- A late fault leaves every context's descriptor. -/
theorem desc_lateFaultAt (s : State) (sid : Nat) (gen : BitVec 24) (ctx : Nat) (priv : Bool) (pc : BitVec 64)
    (code sub : Nat) (mask : List Nat) (addr c : Nat) :
    ((s.lateFaultAt sid gen ctx priv pc code sub mask addr).ctx c).desc = (s.ctx c).desc := by
  unfold State.lateFaultAt
  extract_lets _ _ _ q
  have hq : q.ctx c = s.ctx c := by
    simp only [q]
    split
    · rfl
    · split <;> rfl
  split
  · exact congrArg Ctx.desc hq
  · exact (desc_contextFault ..).trans (congrArg Ctx.desc hq)

/-- A lane's store of its record's bytes leaves where the records of a context stand. -/
theorem recPa_putRec (s : State) (is : Issue) (w t pa ctx : Nat) (bs : List Byte) (h : BitVec 32) :
    (s.putRec is w t pa bs).recPa ctx h = s.recPa ctx h := by
  have hdesc : ((s.putRec is w t pa bs).ctx ctx).desc = (s.ctx ctx).desc := by
    unfold State.putRec
    dsimp only
    split
    · exact congrArg Ctx.desc ((homeStore_touched ..).ctx ctx)
    · exact desc_lateFaultAt ..
  simp only [State.recPa, Ctx.entryPa, Ctx.field, hdesc]

/-- So the lanes of a `rec.put` may each take their address from the state in which the word is issued. -/
theorem putRec_lanes (s q : State) (is : Issue) (w ctx : Nat) (h : Nat → BitVec 32) (o : Nat → Nat) (bs : Nat → List Byte)
    (l : List Nat) (hq : ∀ x, q.recPa ctx x = s.recPa ctx x) :
    each l (fun t s' => s'.putRec is w t (s'.recPa ctx (h t) + o t) (bs t)) q =
      l.foldl (fun s' t => s'.putRec is w t (s.recPa ctx (h t) + o t) (bs t)) q := by
  induction l generalizing q with
  | nil => simp only [each, List.foldl_nil]
  | cons t l ih =>
    have hnext : ∀ x, (q.putRec is w t (q.recPa ctx (h t) + o t) (bs t)).recPa ctx x = s.recPa ctx x :=
      fun x => (recPa_putRec q is w t _ ctx (bs t) x).trans (hq x)
    have hstep := ih _ hnext
    rw [hq (h t)] at hstep
    exact (congrArg (fun a => each l _ (q.putRec is w t (a + o t) (bs t))) (hq (h t))).trans hstep

/-! ### The words (R386, R388 to R390, R415) -/

/-- R415: `cont` completes with a record, or the retry handle, for each lane. -/
theorem cont_goes {f : Fields} {s q : State} {sid : Nat} {r : ClauseRun} {l : List (Nat × Nat × Word)} {sh : Sheaf}
    (hi : Issues s (.cont f) sid r) (hset : Settled s (sid / 64) false) (hq : s.flushScratch (sid / 64) false = q)
    (hsh : q.sheaf sid = sh)
    (hl : (acts s (.cont f) sid r).map (fun t =>
      (t, bits (((sh.thread t).hit.map (fun (h : Hit) => h.status)).getD 0).toNat 0 8, sh.read f.imm t f.a)) = l)
    (hfence : q.fenceOk sid (acts s (.cont f) sid r) 3 = true)
    (hans : Answered q sid (acts s (.cont f) sid r) 100 (l.map fun p => q.nodeHome sh.wg p.2.1))
    (hfree : ∀ t ∈ acts s (.cont f) sid r, FreeOf q sid t (sh.taintOf t f.a))
    (hok : ∀ p ∈ l, q.contFault sh.wg (sh.thread p.1) p.2.1 p.2.2 = none) :
    let x := l.foldl (fun (acc : List (Nat × BitVec 32) × State) p =>
      let y := acc.2.contLane (issueOf s (.cont f) sid r) sh.wg p
      (acc.1 ++ [(p.1, y.1)], y.2)) ([], q)
    Goes s (.cont f) sid (x.2.writeLanes sid f.d 1 (x.1.map fun p => ⟨p.1, [(p.2, sh.taintOf p.1 f.a)], 0⟩)) := by
  subst hsh hl
  intro x
  refine goes_of_done hi rfl ?_
  refine ((inScratch_of_settled (is := issueOf s (.cont f) sid r) _ hset).trans (congrArg _ hq)).trans ?_
  have hbar : (issueOf s (.cont f) sid r).barred q (fun t => (q.sheaf sid).taintOf t f.a) = false := by
    simp only [Issue.barred, issueOf, List.any_eq_false, Bool.not_eq_true]
    exact hfree
  refine (if_neg ?_).trans ((answered_of _ hans).trans ?_)
  · rw [Bool.not_eq_true, Bool.or_eq_false_iff]
    exact ⟨hbar, Bool.eq_false_iff.mpr (not_false_of hfence)⟩
  · have hnil : List.filterMap (fun p => (q.contFault (q.sheaf sid).wg ((q.sheaf sid).thread p.1) p.2.1 p.2.2).map
        fun e => (p, e)) ((acts s (.cont f) sid r).map fun t =>
          (t, bits ((((q.sheaf sid).thread t).hit.map (fun (h : Hit) => h.status)).getD 0).toNat 0 8,
            (q.sheaf sid).read f.imm t f.a)) = [] :=
      List.filterMap_eq_nil_iff.mpr fun p hp => by rw [hok p hp, Option.map_none]
    generalize hb : List.filterMap _ _ = bad
    have hbad : bad = [] := hb.symm.trans hnil
    subst hbad
    rfl

/-- Settles O37. -/
theorem recordInstructions : Obligations.RecordInstructions := by
  unfold Obligations.RecordInstructions
  intro f s sid r sh w q n h o live pa allocDies putDies commitDies getDies
  have hsize : recSize f = 4 * n := congrArg (fun k => 4 * wideRegs k) (fieldsMod_zero f 2)
  have hone : f.mod 0 1 = f.xmod.toNat % 2 := fieldsMod_zero f 1
  have hrun {i : Instr} (hi : Issues s i sid r) (hasked : r.asked = none) : (s.run sid).asked = none :=
    (congrArg ClauseRun.asked (run_of_issues hi)).trans hasked
  have halloc (l : List Nat) : (l.map fun t => (t, bits (h t).toNat 0 8)).map (fun p => s.nodeHome w p.2) =
      l.map fun t => s.nodeHome w ((h t).toNat % 2 ^ 8) := by
    rw [List.map_map]
    exact List.map_congr_left fun t _ => congrArg (s.nodeHome w) (bits_zero_lo _ _)
  have hcommit (l : List Nat) : ((l.map fun t => (t, h t)).filter fun p => !p.2.getLsbD 31).map
      (fun p => bits p.2.toNat 30 1) = (live l).map fun t => (h t).toNat / 2 ^ 30 % 2 := by
    rw [List.filter_map, List.map_map]
    rfl
  refine ⟨fun hi hact hasked _ _ hnear => ?_, fun hi hact hasked hfree _ hnear => ?_, fun hi hact hasked _ hfence hnear => ?_,
    fun hi hact hasked hfree _ hnear => ?_, fun hi hans hfeeds => ?_, fun hi hans hfree hown => ?_,
    fun hi hfence hans => ?_, fun hi hans hfree => ?_, fun hi => ?_, fun hi hset => ?_⟩
  · refine waits_of_wait hi rfl (answered_asks _ hact ?_ (hrun hi hasked))
    exact (halloc _).symm ▸ hnear
  · exact waits_of_wait hi rfl ((if_neg (Bool.eq_false_iff.mp (barred_eq_false fun t ht => hfree t ht _))).trans
      (answered_asks _ hact hnear (hrun hi hasked)))
  · refine waits_of_wait hi rfl ((if_neg (not_false_of hfence)).trans (answered_asks _ hact ?_ (hrun hi hasked)))
    exact (hcommit _).symm ▸ hnear
  · exact waits_of_wait hi rfl ((if_neg (Bool.eq_false_iff.mp (barred_eq_false fun t ht => hfree t ht _))).trans
      (answered_asks _ hact hnear (hrun hi hasked)))
  · intro x
    refine goes_of_done hi rfl ((answered_of _ ?_).trans ?_)
    · exact (halloc _).symm ▸ hans
    · have hno : ∀ p ∈ (acts s (.recAlloc f) sid r).map (fun t => (t, bits (h t).toNat 0 8)), s.allocFault w p.2 = none := by
        intro p hp
        obtain ⟨t, ht, rfl⟩ := List.mem_map.mp hp
        exact allocFault_of_feeds (show FeedsNode s w (bits (h t).toNat 0 8) from (bits_zero_lo _ _).symm ▸ hfeeds t ht)
      have hx : x = s.allocRecs w ((acts s (.recAlloc f) sid r).map fun t => (t, bits (h t).toNat 0 8)) := by
        simp only [x, bits_zero_lo]
      rw [hx]
      dsimp only
      split
      · next hbad => exact (recFault_map_ne_some hbad hno).elim
      · rfl
  · refine goes_of_done hi rfl ((if_neg (Bool.eq_false_iff.mp (barred_eq_false hfree))).trans ((answered_of _ hans).trans ?_))
    have hno : ∀ t ∈ live (acts s (.recPut f) sid r), (match s.ownedRec w (h t) with
        | none => some 1
        | some r => offsetFault (o t) (recSize f) ((s.graph q.graph).payload r.node)) = none := by
      intro t ht
      obtain ⟨x, hx, hal, hle⟩ := hown t ht
      rw [hx, hsize]
      exact offsetFault_eq_none hal hle
    have hn : wideRegs (f.mod 0 2) = n := congrArg wideRegs (fieldsMod_zero f 2)
    rw [hn]
    split
    · next hbad => exact (recFault_map_ne_some hbad hno).elim
    · exact congrArg Result.done (putRec_lanes s s (issueOf s (.recPut f) sid r) w sh.ctx h o _ _ fun _ => rfl)
  · intro l hnodup hown
    refine goes_of_done hi rfl ((if_neg (not_false_of hfence)).trans ((answered_of _ ?_).trans ?_))
    · exact (hcommit _).symm ▸ hans
    · split
      · next hbad => exact nomatch hbad.symm.trans (recFault_eq_none (commitFaults_eq_none hnodup hown fun _ _ hc => nomatch hc))
      · rfl
  · intro hs got hok
    refine goes_of_done hi rfl ((if_neg (Bool.eq_false_iff.mp (barred_eq_false hfree))).trans ((answered_of _ hans).trans ?_))
    have hn : wideRegs (f.mod 0 2) = n := congrArg wideRegs (fieldsMod_zero f 2)
    have hno : ∀ t ∈ acts s (.recGet f) sid r, (if hs.length ≤ (h t).toNat then some 4
        else offsetFault (o t) (recSize f) ((s.graph q.graph).payload q.pass)) = none := by
      intro t ht
      obtain ⟨hlt, hal, hle, -, -⟩ := hok t ht
      rw [if_neg (Nat.not_le.mpr hlt), hsize]
      exact offsetFault_eq_none hal hle
    have hnone : (acts s (.recGet f) sid r).filter (fun t => !s.inGddr (pa t) (recSize f)) = [] :=
      List.filter_eq_nil_iff.mpr fun t ht => not_false_of (hsize.symm ▸ (hok t ht).2.2.2.1)
    dsimp only
    split
    · next hbad => exact (recFault_map_ne_some hbad hno).elim
    · refine (if_neg (not_not.mpr hnone)).trans ?_
      rw [hn, hsize]
      have hlanes := getRec_lanes (w := n) (taint := fun t => sh.taintOf t f.a || sh.taintOf t f.b)
        (fun t ht => (hok t ht).2.2.2.2) []
      rw [List.nil_append] at hlanes
      erw [hlanes]
      rfl
  · intro out
    refine ⟨fun hfree => goes_of_done hi rfl (if_pos (hone.trans hfree)), fun l hfree hb => goes_of_done hi rfl ?_⟩
    refine (if_neg (by omega)).trans ?_
    show (match q.batch with
      | some l => Result.done (out l.length)
      | none => if acts s (.recCount f) sid r = [] then .done s else (issueOf s (.recCount f) sid r).fault 8 4 (acts s (.recCount f) sid r) 0 s) = _
    rw [hb]
  · intro q' sh' node l hfence hans hfree hok
    have hl : (acts s (.cont f) sid r).map (fun t =>
        (t, bits (((sh'.thread t).hit.map (fun (h : Hit) => h.status)).getD 0).toNat 0 8, sh'.read f.imm t f.a)) = l :=
      List.map_congr_left fun t _ => by rw [bits_zero_lo]
    refine cont_goes hi hset rfl rfl hl hfence hans hfree fun p hp => ?_
    obtain ⟨hhit, hfeeds, hal, hlt, hsz⟩ := hok p hp
    exact contFault_eq_none hhit hfeeds hal hlt hsz

end Sys2Proof.Laws

/-! SUPPORT. O25: global accesses at issue, where every lane's page is there. -/
namespace Sys2Proof.Laws
open Machine

/-! ### Lanes that translate (R268, R316) -/

section Placed
variable {l : List (Nat × Nat × Xlate)}

theorem globalFault_of_ok (is : Issue) (s : State) (h : ∀ p ∈ l, ∃ lf, p.2.2 = .ok lf) : globalFault is l s = none := by
  unfold globalFault
  dsimp only
  rw [List.filterMap_eq_nil_iff.mpr]
  intro p hp
  obtain ⟨lf, hlf⟩ := h p hp
  rw [hlf]

theorem absents_of_ok (h : ∀ p ∈ l, ∃ lf, p.2.2 = .ok lf) : absents l = [] :=
  List.filterMap_eq_nil_iff.mpr fun p hp => by
    obtain ⟨lf, hlf⟩ := h p hp
    rw [hlf]

theorem away_of_ok (h : ∀ p ∈ l, ∃ lf, p.2.2 = .ok lf) : l.any (fun p => p.2.2 == .away) = false :=
  List.any_eq_false.mpr fun p hp => by
    obtain ⟨lf, hlf⟩ := h p hp
    rw [hlf]
    simp

/-- The lanes whose page is present are the lanes. -/
theorem presents_threads (h : ∀ p ∈ l, ∃ lf, p.2.2 = .ok lf) : (presents l).map (·.1) = l.map (·.1) := by
  induction l with
  | nil => rfl
  | cons p l ih =>
    obtain ⟨lf, hlf⟩ := h p (List.mem_cons_self ..)
    have htail := ih fun q hq => h q (List.mem_cons_of_mem _ hq)
    unfold presents at htail ⊢
    rw [List.filterMap_cons, hlf]
    exact congrArg (p.1 :: ·) htail

theorem mem_presents {p : Nat × Nat × Leaf} (h : p ∈ presents l) : ∃ q ∈ l, q.2.2 = .ok p.2.2 := by
  obtain ⟨q, hq, heq⟩ := List.mem_filterMap.mp h
  refine ⟨q, hq, ?_⟩
  cases hx : q.2.2 <;> rw [hx] at heq <;> cases heq
  rfl

end Placed

theorem parkReplays_nil (s : State) (is : Issue) (acc : Access) : s.parkReplays is acc [] = s := rfl

/-- No lane's plural page, or lack of one, faults. -/
theorem pluralFault_eq_none {s : State} {is : Issue} {ctx n : Nat} {inst cell8 : Bool} {l : List (Nat × Nat × Leaf)}
    (hinst : inst = true → ∀ p ∈ l, p.2.2.plural = true ∧ p.2.2.cell = n)
    (hcell : cell8 = true → ∀ p ∈ l, p.2.2.plural = true → p.2.2.cell = n)
    (hregion : ∀ p ∈ l, p.2.2.plural = true → (s.pregion (s.ctx ctx) p.2.2.pa).isSome = true) :
    s.pluralFault is ctx inst cell8 n l = none := by
  unfold State.pluralFault
  dsimp only
  rw [List.filterMap_eq_nil_iff.mpr]
  intro p hp
  refine (congrArg _ ((if_neg ?_).trans ((if_neg ?_).trans (if_neg ?_)))).trans (Option.map_none _)
  · rintro ⟨hi, hpl⟩
    exact not_false_of (hinst hi p hp).1 hpl
  · rintro ⟨hi | ⟨hc, hpl⟩, hne⟩
    · exact hne (hinst hi p hp).2
    · exact hne (hcell hc p hp hpl)
  · rintro ⟨hpl, hnone⟩
    rw [Option.isNone_iff_eq_none] at hnone
    exact Option.isSome_iff_ne_none.mp (hregion p hp hpl) hnone

theorem placeAll_threads (s : State) (core : Nat) (sh : Sheaf) (n : Nat) (acc : Access) (late : Bool)
    (addrs : List (Nat × Nat)) : (s.placeAll core sh n acc late addrs).1.map (·.1) = addrs.map (·.1) := by
  have h : ∀ a : List (Nat × Nat × Xlate) × State,
      (addrs.foldl (fun a p =>
        let (x, s) := a.2.place core sh.ctx p.2 n acc late (sh.thread p.1).priv
        (a.1 ++ [(p.1, p.2, x)], s)) a).1.map (·.1) = a.1.map (·.1) ++ addrs.map (·.1) := by
    induction addrs with
    | nil => exact fun a => (List.append_nil _).symm
    | cons p l ih =>
      intro a
      rw [List.foldl_cons, ih]
      simp
  exact (h ([], s)).trans (List.nil_append _)

/-! ### The issue of an access -/

/-- The lanes of a global access in flight, from what translation gave. -/
def globalLanes (f : Fields) (off : BitVec 8) (srcs dsts : List (BitVec 8)) (sh : Sheaf) (act : List Nat)
    (l : List (Nat × Nat × Xlate)) : List Lane :=
  (presents l).map fun p => { sh.lane f.imm act srcs dsts p.1 with
    va := BitVec.ofNat 64 p.2.1, pa := BitVec.ofNat 64 p.2.2.pa, entry := p.2.2.entry
    addrs := sh.capture f.imm p.1 (addrFields f off)
    ataint := sh.addrTaint f off p.1, taint := sh.addrTaint f off p.1 || srcs.any (sh.taintOf p.1) }

/-- An access every lane of which has a page that permits it enters flight; a write to a plural page holds its group at the
word. -/
theorem globalOp_of_placed {i : Instr} {f : Fields} {off : BitVec 8} {acc : Access} {late inst : Bool}
    {srcs dsts : List (BitVec 8)} {s q : State} {sid : Nat} {r : ClauseRun} {l : List (Nat × Nat × Xlate)} {hold : Bool}
    (hi : Issues s i sid r)
    (hx : s.placeAll (sid / 64) (s.sheaf sid) (accessSize i) acc late
      ((acts s i sid r).map fun t => (t, ((s.sheaf sid).globalAddr f off t).toNat)) = (l, q))
    (hok : ∀ p ∈ l, ∃ lf, p.2.2 = .ok lf)
    (hinst : inst = true → ∀ p ∈ presents l, p.2.2.plural = true ∧ p.2.2.cell = accessSize i)
    (hcell : (∃ g, i = .vism g) → ∀ p ∈ presents l, p.2.2.plural = true → p.2.2.cell = accessSize i)
    (hregion : ∀ p ∈ presents l, p.2.2.plural = true → (s.pregion (s.ctx (s.sheaf sid).ctx) p.2.2.pa).isSome = true)
    (hhold : (presents l).any (fun p => p.2.2.plural && (acc != .load)) = hold) :
    globalOp i f off acc late srcs dsts inst (issueOf s i sid r) s =
      let q' := q.launch (issueOf s i sid r) i (globalLanes f off srcs dsts (s.sheaf sid) (acts s i sid r) l)
        (fun op => { op with hold := hold })
      if hold then .wait q' else .done q' := by
  have hthreads : (presents l).map (·.1) = acts s i sid r := by
    rw [presents_threads hok]
    have h := placeAll_threads s (sid / 64) (s.sheaf sid) (accessSize i) acc late
      ((acts s i sid r).map fun t => (t, ((s.sheaf sid).globalAddr f off t).toNat))
    rw [hx, List.map_map] at h
    exact h.trans (List.map_id _)
  have hrun : ¬ ((q.sheaf sid).run.isNone = true ∧ acts s i sid r = []) := by
    rintro ⟨hnone, hact⟩
    rw [hact] at hx
    obtain ⟨-, rfl⟩ : [] = l ∧ s = q := Prod.mk.injEq .. ▸ hx
    rw [hi.run] at hnone
    exact Bool.noConfusion hnone
  have hno (cell8 : Bool) (hc : cell8 = true → ∃ g, i = .vism g) :
      s.pluralFault (issueOf s i sid r) (s.sheaf sid).ctx inst cell8 (accessSize i) (presents l) = none :=
    pluralFault_eq_none hinst (fun h => hcell (hc h)) hregion
  have hsid : (issueOf s i sid r).sid = sid := rfl
  have hact : (issueOf s i sid r).act = acts s i sid r := rfl
  have hcore : coreOf sid = sid / 64 := rfl
  unfold globalOp
  simp only [hsid, hact, hcore, hx, globalFault_of_ok _ _ hok, away_of_ok hok, absents_of_ok hok, parkReplays_nil, hthreads,
    hhold, Bool.false_eq_true, if_false]
  rw [hno]
  · exact if_neg hrun
  · intro hv
    split at hv
    · exact ⟨_, rfl⟩
    · exact nomatch hv

theorem globalIssues_of {i : Instr} {f : Fields} {off : BitVec 8} {acc : Access} {late : Bool} {srcs dsts : List (BitVec 8)}
    (he : ∀ s, exec i s = issued i (globalOp i f off acc late srcs dsts false) s)
    (hv : (∃ g, i = .vism g) → acc ≠ .load) : GlobalIssues i f off acc late srcs dsts := by
  intro s sid r hi sh x hall
  have hmem {p : Nat × Nat × Leaf} (hp : p ∈ presents x.1) :
      p.2.2.plural = true → acc = .load ∧ (s.pregion (s.ctx sh.ctx) p.2.2.pa).isSome = true := by
    obtain ⟨q, hq, heq⟩ := mem_presents hp
    obtain ⟨lf, hlf, hpl⟩ := hall q hq
    cases heq.symm.trans hlf
    exact hpl
  have hhold : (presents x.1).any (fun p => p.2.2.plural && (acc != .load)) = false := by
    refine List.any_eq_false.mpr fun p hp hc => ?_
    rw [Bool.and_eq_true, bne_iff_ne] at hc
    exact hc.2 (hmem hp hc.1).1
  exact goes_of_done hi (he s) (globalOp_of_placed (l := x.1) (q := x.2) hi rfl (fun p hp => (hall p hp).imp fun _ h => h.1)
    (fun h => Bool.noConfusion h) (fun h p hp hpl => absurd (hmem hp hpl).1 (hv h)) (fun p hp hpl => (hmem hp hpl).2) hhold)

/-! ### One lane whose page is there (R259 to R268) -/

@[simp] theorem markEntry_next (s : State) (a : Nat) (acc : Access) : (s.markEntry a acc).next = s.next := by
  unfold State.markEntry State.poke State.remember
  dsimp only
  split
  · rfl
  · split <;> rfl

theorem reaches_markEntry (s : State) (a : Nat) (acc acc' : Access) (l : Leaf) (n : Nat) :
    (s.markEntry a acc').reaches l n acc = s.reaches l n acc := by
  have hform : (s.markEntry a acc').form = s.form := by
    unfold State.markEntry State.poke State.remember
    dsimp only
    split
    · rfl
    · split <;> rfl
  simp only [State.reaches, State.inGddr, hform]

/-- The translation of an access whose page is there. -/
theorem place_of_mapped {s : State} {core ctx va n a e b : Nat} {acc : Access} {late priv : Bool} {l : Leaf}
    (h : Mapped s core ctx va n acc late priv a e b l) :
    ∃ t, s.place core ctx va n acc late priv = (.ok l, t) ∧ t.next = s.next ∧ t.sheaves = s.sheaves := by
  obtain ⟨hbelow, haligned, hfresh, hwalk, hnear, hperm, rfl, hguard, hreach⟩ := h
  refine ⟨(s.fillTlb (some core) ⟨ctx, va / 2 ^ b * 2 ^ b, b, BitVec.ofNat 64 e, a⟩).markEntry a acc, ?_, ?_, ?_⟩
  · have hx : s.xlate ctx va acc priv (some core) = (.ok (leafAt va e b), (s.fillTlb (some core)
        ⟨ctx, va / 2 ^ b * 2 ^ b, b, BitVec.ofNat 64 e, a⟩).markEntry a acc) := by
      unfold State.xlate
      dsimp only
      rw [if_neg (by omega), hfresh]
      unfold State.xlateFresh
      rw [hwalk]
      exact (if_neg (not_false_of (List.all_eq_true.mpr hnear))).trans (if_pos hperm)
    unfold State.place
    rw [if_neg (by omega), if_neg (not_not.mpr haligned), hx]
    dsimp only
    rw [if_neg, if_pos]
    · rw [reaches_markEntry, Bool.or_eq_true]
      exact hreach
    · rw [Bool.and_eq_true]
      rintro ⟨hp, hg⟩
      rcases hguard with h | h
      · exact not_false_of h hp
      · exact Bool.noConfusion (h.symm.trans hg)
  · exact markEntry_next ..
  · rw [State.markEntry_sheaves, State.fillTlb_sheaves]

/-- An operation in flight under the number that it takes. -/
theorem launch_get {s : State} {is : Issue} {i : Instr} {lanes : List Lane} {upd : LongOp → LongOp} {r : ClauseRun}
    (h : (s.sheaf is.sid).run = some r) :
    ∃ op : LongOp, (s.launch is i lanes upd).ops.get s.next = some (upd op) ∧ op.sid = is.sid ∧ op.instr = i ∧ op.lanes = lanes := by
  unfold State.launch
  dsimp only
  rw [h]
  exact ⟨_, Tab.get_put_self .., rfl, rfl, rfl⟩

theorem globalCompletes_of {i : Instr} {f : Fields} {off : BitVec 8} {acc : Access} {late plural hold inst : Bool}
    {srcs dsts : List (BitVec 8)} (he : ∀ s, exec i s = issued i (globalOp i f off acc late srcs dsts inst) s)
    (hinst : inst = true → plural = true) (hhold : hold = (plural && (acc != .load))) :
    GlobalCompletes i f off acc late plural hold := by
  intro s sid r t a e b l hi hact sh va hm hpl hcell
  obtain ⟨q, hplace, hnext, hsheaves⟩ := place_of_mapped hm
  have hx : s.placeAll (sid / 64) sh (accessSize i) acc late ((acts s i sid r).map fun t => (t, (sh.globalAddr f off t).toNat)) =
      ([(t, va.toNat, .ok l)], q) := by
    rw [hact]
    exact congrArg (fun x : Xlate × State => (([(t, va.toNat, x.1)], x.2) : List (Nat × Nat × Xlate) × State)) hplace
  have hone {P : Nat × Nat × Leaf → Prop} (h : P (t, va.toNat, l)) : ∀ p ∈ presents [(t, va.toNat, Xlate.ok l)], P p :=
    fun p hp => by
      rw [List.mem_singleton.mp hp]
      exact h
  have hbody := globalOp_of_placed (inst := inst) (srcs := srcs) (dsts := dsts) (hold := hold) hi hx
    (fun p hp => by rw [List.mem_singleton.mp hp]; exact ⟨l, rfl⟩)
    (fun h => hone ⟨hpl.trans (hinst h), (hcell (hinst h)).1⟩) (fun _ => hone fun h => (hcell (hpl.symm.trans h)).1)
    (hone fun h => (hcell (hpl.symm.trans h)).2) (by rw [hhold, ← hpl]; exact Bool.or_false _)
  have hrun : (q.sheaf (issueOf s i sid r).sid).run = some r := by
    rw [State.sheaf, hsheaves]
    exact hi.run
  obtain ⟨op, hget, hsid, hinstr, hlanes⟩ := launch_get (is := issueOf s i sid r) (i := i)
    (lanes := globalLanes f off srcs dsts sh (acts s i sid r) [(t, va.toNat, .ok l)])
    (upd := fun op => { op with hold := hold }) hrun
  rw [hnext] at hget
  refine ⟨_, _, ?_, hget, hinstr, hsid, rfl, ?_⟩
  · cases hold
    · exact goes_of_done hi (he s) hbody
    · exact waits_of_wait hi (he s) hbody
  · rw [show ({ op with hold := hold } : LongOp).lanes = _ from hlanes]
    exact congrArg (fun x => [(t, x, BitVec.ofNat 64 l.pa)]) (BitVec.ofNat_toNat 64 va |>.trans (BitVec.setWidth_eq va))

/-- Settles O25. -/
theorem globalAccessesIssue : Obligations.GlobalAccessesIssue := by
  unfold Obligations.GlobalAccessesIssue
  intro f n k
  have hn : sizeRegs (f.mod 0 3) = n := congrArg sizeRegs (fieldsMod_zero f 3)
  have hld : loadRegs f = regRun f.d n := congrArg (regRun f.d) hn
  have hload {i : Instr} (he : ∀ s, exec i s = issued i (globalOp i f f.b .load false [] (loadRegs f) false) s) (s : State) :
      exec i s = issued i (globalOp i f f.b .load false [] (regRun f.d n) false) s := hld ▸ he s
  have hstore {i : Instr}
      (he : ∀ s, exec i s = issued i (globalOp i f f.b .store true (dataFields f.c (sizeRegs (f.mod 0 3))) [] false) s)
      (s : State) : exec i s = issued i (globalOp i f f.b .store true (dataFields f.c n) [] false) s := hn ▸ he s
  exact ⟨globalIssues_of (hload fun _ => rfl) (fun ⟨_, h⟩ => nomatch h), globalIssues_of (hload fun _ => rfl) (fun ⟨_, h⟩ => nomatch h),
    globalIssues_of (hload fun _ => rfl) (fun ⟨_, h⟩ => nomatch h), globalIssues_of (hstore fun _ => rfl) (fun ⟨_, h⟩ => nomatch h), globalIssues_of (hstore fun _ => rfl) (fun ⟨_, h⟩ => nomatch h),
    globalIssues_of (fun _ => rfl) (fun ⟨_, h⟩ => nomatch h), globalIssues_of (fun _ => rfl) (fun ⟨_, h⟩ => nomatch h), globalIssues_of (fun _ => rfl) (fun ⟨_, h⟩ => nomatch h),
    globalIssues_of (fun _ => rfl) (fun ⟨_, h⟩ => nomatch h), globalCompletes_of (fun _ => rfl) nofun rfl, globalCompletes_of (fun _ => rfl) nofun rfl,
    globalCompletes_of (fun _ => rfl) nofun rfl, globalCompletes_of (fun _ => rfl) nofun rfl, globalCompletes_of (fun _ => rfl) nofun rfl,
    globalCompletes_of (fun _ => rfl) nofun rfl, globalCompletes_of (fun _ => rfl) nofun rfl, globalCompletes_of (fun _ => rfl) nofun rfl,
    globalCompletes_of (fun _ => rfl) nofun rfl⟩

end Sys2Proof.Laws

/-! SUPPORT. O29: plural instructions at issue and at their cell, and the siblings of a blind write. -/
namespace Sys2Proof.Laws
open Machine

/-! ### Issue (R302, R311, R312) -/

/-- A plural instruction all of whose lanes lie on plural pages of its cell size, inside a region. -/
theorem globalOp_plural {i : Instr} {f : Fields} {off : BitVec 8} {acc : Access} {late : Bool} {srcs dsts : List (BitVec 8)}
    {s : State} {sid : Nat} {r : ClauseRun} {x : List (Nat × Nat × Xlate) × State} {hold : Bool} (hi : Issues s i sid r)
    (hx : s.placeAll (sid / 64) (s.sheaf sid) (accessSize i) acc late
      ((acts s i sid r).map fun t => (t, ((s.sheaf sid).globalAddr f off t).toNat)) = x)
    (hfits : ∀ p ∈ x.1, ∃ l, p.2.2 = .ok l ∧ l.plural = true ∧ l.cell = accessSize i ∧
      (s.pregion (s.ctx (s.sheaf sid).ctx) l.pa).isSome = true)
    (hhold : (presents x.1).any (fun p => p.2.2.plural && (acc != .load)) = hold) :
    globalOp i f off acc late srcs dsts true (issueOf s i sid r) s =
      let q' := x.2.launch (issueOf s i sid r) i (globalLanes f off srcs dsts (s.sheaf sid) (acts s i sid r) x.1)
        (fun op => { op with hold := hold })
      if hold then .wait q' else .done q' := by
  have hmem : ∀ p ∈ presents x.1, p.2.2.plural = true ∧ p.2.2.cell = accessSize i ∧
      (s.pregion (s.ctx (s.sheaf sid).ctx) p.2.2.pa).isSome = true := by
    intro p hp
    obtain ⟨q, hq, heq⟩ := mem_presents hp
    obtain ⟨lf, hlf, hfit⟩ := hfits q hq
    cases heq.symm.trans hlf
    exact hfit
  exact globalOp_of_placed hi hx (fun p hp => (hfits p hp).imp fun _ h => h.1) (fun _ p hp => ⟨(hmem p hp).1, (hmem p hp).2.1⟩)
    (fun _ p hp _ => (hmem p hp).2.1) (fun p hp _ => (hmem p hp).2.2) hhold

/-- A write to plural pages in some lane holds its group. -/
theorem holds_of_fits {l : List (Nat × Nat × Xlate)} {acc : Access} (hne : l ≠ []) (hacc : acc ≠ .load)
    (hfits : ∀ p ∈ l, ∃ lf, p.2.2 = .ok lf ∧ lf.plural = true) :
    (presents l).any (fun p => p.2.2.plural && (acc != .load)) = true := by
  obtain ⟨p, l, rfl⟩ := List.exists_cons_of_ne_nil hne
  obtain ⟨lf, hlf, hpl⟩ := hfits p (List.mem_cons_self ..)
  refine List.any_eq_true.mpr ⟨(p.1, p.2.1, lf), List.mem_filterMap.mpr ⟨p, List.mem_cons_self .., ?_⟩, ?_⟩
  · rw [hlf]
  · rw [hpl, Bool.true_and, bne_iff_ne]
    exact hacc

theorem pluralInstructionsIssue : Claims.PluralInstructionsIssue := by
  intro f s sid r sh fits go at_ b64
  have hone : f.mod 0 1 = f.xmod.toNat % 2 := fieldsMod_zero f 1
  have hsrcs : (if f.mod 0 1 = 1 then 2 else 1) = if b64 then 2 else 1 := by
    simp only [hone, b64, beq_iff_eq]
  have hgroup : (f.mod 0 1 == 1) = b64 := congrArg (· == 1) hone
  have hne {i : Instr} {off : BitVec 8} {acc : Access} {late : Bool} (h : acts s i sid r ≠ []) : (at_ i off acc late).1 ≠ [] := by
    intro hc
    have hthreads := placeAll_threads s (sid / 64) sh (accessSize i) acc late
      ((acts s i sid r).map fun t => (t, (sh.globalAddr f off t).toNat))
    rw [show (s.placeAll _ _ _ _ _ _).1 = [] from hc, List.map_map] at hthreads
    exact h (List.map_eq_nil_iff.mp hthreads.symm)
  refine ⟨fun hi hfits => ?_, fun hi hact hfits => ?_, fun hi hact hfits => ?_,
    globalCompletes_of (fun _ => rfl) (fun _ => rfl) rfl, globalCompletes_of (fun _ => rfl) (fun _ => rfl) rfl,
    globalCompletes_of (fun _ => rfl) (fun _ => rfl) rfl⟩
  · refine goes_of_done hi rfl ?_
    rw [hgroup]
    refine (globalOp_plural hi rfl hfits (hold := false) ?_).trans rfl
    exact List.any_eq_false.mpr fun p _ => by simp
  · refine waits_of_wait hi rfl ?_
    rw [hsrcs]
    exact (globalOp_plural hi rfl hfits (holds_of_fits (hne hact) nofun fun p hp =>
      (hfits p hp).imp fun _ h => ⟨h.1, h.2.1⟩)).trans rfl
  · exact waits_of_wait hi rfl ((globalOp_plural hi rfl hfits (holds_of_fits (hne hact) nofun fun p hp =>
      (hfits p hp).imp fun _ h => ⟨h.1, h.2.1⟩)).trans rfl)

/-! ### At the cell (R277, R310, R313, R314) -/

theorem mem_landSrc (s : State) (sid t : Nat) (p : BitVec 8 × Word) : (s.landSrc sid t p).2.mem = s.mem := by
  unfold State.landSrc
  dsimp only
  split
  · split <;> rfl
  · rfl

/-- Reading the sources of a lane again leaves memory, and so every cell. -/
theorem mem_landSrcs (s : State) (sid t : Nat) (l : List (BitVec 8 × Word)) : (s.landSrcs sid t l).2.mem = s.mem := by
  unfold State.landSrcs
  exact foldl_keeps (fun x : List Word × State => x.2.mem) (fun x p => mem_landSrc x.2 sid t p) l ([], s)

theorem pcell_of_mem {s t : State} (h : t.mem = s.mem) (r : PRegion) (pa size : Nat) : t.pcell r pa size = s.pcell r pa size := by
  simp only [State.pcell, h]

/-- What GLOBAL_ACCESS_PERFORMED does for a lane that is there (R276). -/
def performLane (s : State) (o : Nat) (op : LongOp) (ln : Lane) : State :=
  match op.instr with
  | .ld f | .ldCon f | .ldAcq f => s.performLoad o op ln f
  | .st _ | .stSub _ | .stRel _ => s.performStore o op ln
  | .atom _ | .atomCas _ | .red _ | .vism _ => s.performAtomic o op ln
  | .ldk _ | .stk _ | .rcn _ => s.performCell o op ln
  | _ => s

theorem exec_performed {s : State} {o t : Nat} {op : LongOp} {ln : Lane} (hop : s.ops.get o = some op)
    (hln : op.lanes.find? (fun l => l.thread = t && !l.done) = some ln) :
    exec (.globalAccessPerformed o t) s = .next (performLane s o op ln) := by
  show execGlobalAccessPerformed o t s = _
  unfold execGlobalAccessPerformed
  rw [hop]
  dsimp only
  rw [hln]
  rfl

/-- The result of a lane of the plural instruction `i` at its cell, where the bytes are no poison. -/
def cellLane (q : State) (o : Nat) (op : LongOp) (ln : Lane) (c : PRegion) (i : Instr) : State :=
  let pa := ln.pa.toNat
  let n := accessSize op.instr
  let x := q.landSrcs op.sid ln.thread ln.srcs
  match i with
  | .ldk f => (x.2.landDsts o op.sid ln f.d (groupVals (n == 8) pa (q.pcell c pa n) (x.1.getD 0 0).toNat)).finishLane o ln.thread
  | .rcn f =>
    let q := q.collapse c pa n (f.mod 0 4)
    (q.landDsts o op.sid ln f.d (groupVals (n == 8) pa (q.pcell c pa n) 0)).finishLane o ln.thread
  | .stk f =>
    (match x.2.stkHome c pa n (leNat (wordsBytes (x.1.take (n / 4)))) (x.1.getD (n / 4) 0) (x.1.getD (n / 4 + 1) 0) with
      | .ok y => y.2.landDsts o op.sid ln f.d [y.1]
      | .error k => x.2.laneFault o ln.thread 7 k pa).finishLane o ln.thread
  | _ => q

theorem performCell_of {s q : State} {o : Nat} {op : LongOp} {ln : Lane} {c : PRegion} {i : Instr} (hi : op.instr = i)
    (hmay : s.mayApply o op ln = true) (hopen : s.open_ (some op.core) ln.leaf = true)
    (hlower : ∀ l ∈ op.lanes, l.thread < ln.thread → l.key = ln.key → l.done = true)
    (hpend : s.storesPend op.core ln.key (accessSize op.instr) = false)
    (hq : (s.unsettle (s.ctx op.ctx) ln.leaf (accessSize op.instr)).modCore op.core (fun k =>
      k.dropLines ln.pa.toNat (accessSize op.instr)) = q)
    (hregion : q.pregion (q.ctx op.ctx) ln.pa.toNat = some c)
    (hgood : (q.homeLoad (q.ctx op.ctx) ln.leaf (accessSize op.instr)).2 = false) :
    s.performCell o op ln = cellLane q o op ln c i := by
  have hturn : op.lanes.any (fun l => decide (l.thread < ln.thread) && !l.done && l.key == ln.key) = false := by
    refine List.any_eq_false.mpr fun l hl hc => ?_
    simp only [Bool.and_eq_true, decide_eq_true_eq, beq_iff_eq] at hc
    exact not_false_of (hlower l hl hc.1.1 hc.2) hc.1.2
  unfold State.performCell
  dsimp only
  rw [if_neg, hq, hregion]
  · dsimp only
    rw [hgood]
    split
    · next f heq =>
      cases hi.symm.trans heq
      rw [if_neg Bool.false_ne_true, pcell_of_mem (mem_landSrcs ..)]
      rfl
    · next f heq =>
      cases hi.symm.trans heq
      exact if_neg Bool.false_ne_true
    · next f heq =>
      cases hi.symm.trans heq
      rw [if_neg Bool.false_ne_true]
      simp only [cellLane, opd]
      generalize (q.landSrcs op.sid ln.thread ln.srcs).2.stkHome _ _ _ _ _ _ = k
      cases k <;> rfl
    · next hldk hrcn hstk =>
      unfold cellLane
      split
      · next f => exact absurd hi (hldk f)
      · next f => exact absurd hi (hrcn f)
      · next f => exact absurd hi (hstk f)
      · rfl
  · simp [hmay, hturn, hpend, hopen]

theorem pluralPerformed : Claims.PluralPerformed := by
  intro s o t op ln f c hop hln hmay hopen hlower hpend pa n q hregion hgood x
  have hrun {i : Instr} (hi : op.instr = i) (hp : performLane s o op ln = s.performCell o op ln) :
      exec (.globalAccessPerformed o t) s = .next (cellLane q o op ln c i) := by
    rw [exec_performed hop hln, hp, performCell_of hi hmay hopen hlower hpend rfl hregion hgood]
  refine ⟨fun hi => hrun hi ?_, fun hi => ?_, fun hi => (hrun hi ?_).trans ?_⟩
  · unfold performLane
    rw [hi]
  · have hmod : f.mod 0 4 = f.xmod.toNat % 16 := fieldsMod_zero f 4
    rw [← hmod]
    refine hrun hi ?_
    unfold performLane
    rw [hi]
  · unfold performLane
    rw [hi]
  · rfl

/-! ### Siblings (R306 to R308, R314) -/

/-- A cell's record can be rewritten unless it needs a pool entry, holds none and none is free. -/
theorem putPcell_eq_none_iff (s : State) (r : PRegion) (pa size : Nat) (c : PCell) :
    s.putPcell r pa size c = none ↔ 4 < c.sibs.length ∧ c.spill = 0 ∧ s.poolFree r = none := by
  unfold State.putPcell
  dsimp only
  rw [Option.map_eq_none_iff]
  by_cases h : c.sibs.length ≤ 4
  · simp [h, Nat.not_lt.mpr h]
  · by_cases hs : c.spill = 0
    · simp [h, hs, Nat.not_le.mp h]
    · simp [h, hs]

theorem poolFree_eq_none_iff (s : State) (r : PRegion) :
    s.poolFree r = none ↔ ¬ ∃ e < r.pooln, s.mem.read (r.pool + 256 * e + 192) = 0 := by
  rw [State.poolFree, List.find?_eq_none]
  simp only [List.mem_range, decide_eq_true_eq, not_exists, not_and]

theorem siblingsAdded : Claims.SiblingsAdded := by
  intro s r pa size v c keep room
  have hput : s.putPcell r pa size { c with
      seq := (c.seq + 1) % 2 ^ 24, sibs := keep ++ [((c.seq + 1) % 2 ^ 24, v % 2 ^ (8 * size))] } = none ↔ ¬ room := by
    rw [putPcell_eq_none_iff, poolFree_eq_none_iff, List.length_append, List.length_singleton]
    simp only [room, not_or, ne_eq, not_not]
    exact and_congr_left' (by omega)
  refine ⟨fun hfull => if_pos (by omega), fun hlt hno => ?_, fun hlt hroom => ?_⟩
  · unfold State.addSibling
    rw [if_neg (by omega)]
    dsimp only
    rw [hput.mpr hno]
  · obtain ⟨t, ht⟩ := Option.ne_none_iff_exists'.mp fun hc => hput.mp hc hroom
    refine ⟨t, { c with
      seq := (c.seq + 1) % 2 ^ 24, sibs := keep ++ [((c.seq + 1) % 2 ^ 24, v % 2 ^ (8 * size))] }, ?_, rfl, rfl, ?_⟩
    · unfold State.addSibling
      rw [if_neg (by omega)]
      dsimp only
      rw [ht]
    · exact (List.length_append ..).trans_le hlt

/-- Settles O29. -/
theorem pluralMemory : Obligations.PluralMemory := by
  unfold Obligations.PluralMemory
  exact ⟨pluralInstructionsIssue, pluralPerformed, siblingsAdded⟩

end Sys2Proof.Laws

/-! SUPPORT. O26: translation. -/
namespace Sys2Proof.Laws
open Machine

/-! ### Addresses that fault before translation (R259, R268) -/

theorem place_of_high {s : State} {core ctx va n : Nat} {acc : Access} {late priv : Bool} (h : 2 ^ 52 ≤ va) :
    s.place core ctx va n acc late priv = (.bad 1, s) :=
  if_pos h

theorem place_of_misaligned {s : State} {core ctx va n : Nat} {acc : Access} {late priv : Bool} (h : va < 2 ^ 52)
    (hn : va % n ≠ 0) : s.place core ctx va n acc late priv = (.bad 2, s) :=
  (if_neg (Nat.not_le.mpr h)).trans (if_pos hn)

/-- Lanes that all have such addresses change nothing. -/
theorem placeAll_of_bad {s : State} {core n : Nat} {sh : Sheaf} {acc : Access} {late : Bool} {l : List (Nat × Nat)}
    (h : ∀ p ∈ l, 2 ^ 52 ≤ p.2 ∨ p.2 % n ≠ 0) :
    s.placeAll core sh n acc late l = (l.map fun p => (p.1, p.2, .bad (if 2 ^ 52 ≤ p.2 then 1 else 2)), s) := by
  have hgo : ∀ a : List (Nat × Nat × Xlate), l.foldl (fun a p =>
      let (x, s) := a.2.place core sh.ctx p.2 n acc late (sh.thread p.1).priv
      (a.1 ++ [(p.1, p.2, x)], s)) (a, s) =
        (a ++ l.map fun p => (p.1, p.2, .bad (if 2 ^ 52 ≤ p.2 then 1 else 2)), s) := by
    induction l with
    | nil => simp
    | cons p l ih =>
      intro a
      have hp : s.place core sh.ctx p.2 n acc late (sh.thread p.1).priv = (.bad (if 2 ^ 52 ≤ p.2 then 1 else 2), s) := by
        by_cases hhigh : 2 ^ 52 ≤ p.2
        · rw [place_of_high hhigh, if_pos hhigh]
        · rw [place_of_misaligned (Nat.not_le.mp hhigh) ((h p (List.mem_cons_self ..)).resolve_left hhigh), if_neg hhigh]
      rw [List.foldl_cons, hp]
      refine (ih (fun q hq => h q (List.mem_cons_of_mem _ hq)) _).trans ?_
      rw [List.map_cons, List.append_assoc]
      rfl
  exact (hgo []).trans (by rw [List.nil_append])

/-- The fault of lanes that all have one: the lowest gives the sub-code and the address. -/
theorem globalFault_of_bad (is : Issue) (s : State) (p : Nat × Nat) (l : List (Nat × Nat)) (sub : Nat → Nat) :
    globalFault is ((p :: l).map fun p => (p.1, p.2, .bad (sub p.2))) s =
      some (is.fault 0x10 (sub p.2) ((p :: l).map (·.1)) (p.2 % 2 ^ 52) s) := by
  unfold globalFault
  simp only [List.map_cons, List.filterMap_cons, List.filterMap_map, Function.comp_def, List.filterMap_eq_map', List.map_map]

theorem addressFaults : Claims.AddressFaults := by
  refine ⟨fun s core ctx va n acc late priv => ⟨place_of_high, place_of_misaligned⟩, fun f s sid r hi hact => ?_⟩
  intro a lead hbad
  have hx : s.placeAll (sid / 64) (s.sheaf sid) (accessSize (.ld f)) .load false
      ((acts s (.ld f) sid r).map fun t => (t, ((s.sheaf sid).globalAddr f f.b t).toNat)) = _ := placeAll_of_bad fun p hp => by
    obtain ⟨t, ht, rfl⟩ := List.mem_map.mp hp
    have hsize : accessSize (.ld f) = sizeBytes (f.xmod.toNat % 8) := congrArg sizeBytes (fieldsMod_zero f 3)
    rw [hsize]
    exact hbad t ht
  refine traps_of_trap hi rfl ?_
  obtain ⟨t, ts, hts⟩ := List.exists_cons_of_ne_nil hact
  have hlead : lead = t := congrArg (List.headD · 0) hts
  have hmask : ((acts s (.ld f) sid r).map fun t => (t, a t)).map (·.1) = acts s (.ld f) sid r := by
    rw [List.map_map]
    exact List.map_id _
  have hfault : globalFault (issueOf s (.ld f) sid r) (((acts s (.ld f) sid r).map fun t => (t, a t)).map fun p =>
      (p.1, p.2, .bad (if 2 ^ 52 ≤ p.2 then 1 else 2))) s =
      some (.trap (groupOf r) 0x10 (if 2 ^ 52 ≤ a lead then 1 else 2) (acts s (.ld f) sid r) (a lead % 2 ^ 52) s) := by
    have h := globalFault_of_bad (issueOf s (.ld f) sid r) s (t, a t) (ts.map fun t => (t, a t))
      fun v => if 2 ^ 52 ≤ v then 1 else 2
    rw [show (t, a t) :: ts.map (fun t => (t, a t)) = (acts s (.ld f) sid r).map fun t => (t, a t) by rw [hts]; rfl, hmask] at h
    rw [h, hlead]
    rfl
  have hsid : (issueOf s (.ld f) sid r).sid = sid := rfl
  have hacts : (issueOf s (.ld f) sid r).act = acts s (.ld f) sid r := rfl
  have hcore : coreOf sid = sid / 64 := rfl
  unfold globalOp
  simp only [hsid, hacts, hcore, hx]
  rw [show globalFault _ _ _ = _ from hfault]

/-! ### The walk (R260, R262) -/

theorem bit_eq (e n : Nat) : bit e n = decide (e / 2 ^ n % 2 = 1) := by
  rfl

/-- A walk goes on from a well-formed table entry. -/
theorem walkFrom_table {s : State} {c : Ctx} {va fuel level table e : Nat}
    (hin : s.inGddr (table + 8 * bits va (levelShift level) (levelBits level)) 8 = true)
    (he : s.mem.num (table + 8 * bits va (levelShift level) (levelBits level)) 8 = e) (hkind : e % 4 = 1)
    (hok : badTable level e = false) :
    s.walkFrom c va (fuel + 1) level table = s.walkFrom c va fuel (level + 1) (bits e 8 40 * 256) := by
  have h0 : bit e 0 = true := by rw [bit_eq]; exact decide_eq_true (by omega)
  have h1 : bit e 1 = false := by rw [bit_eq]; exact decide_eq_false (by omega)
  rw [State.walkFrom]
  simp only [hin, he, h0, h1, hok, Bool.not_true, Bool.false_eq_true, if_false]

theorem walkFrom_leaf {s : State} {c : Ctx} {va fuel level table e : Nat}
    (hin : s.inGddr (table + 8 * bits va (levelShift level) (levelBits level)) 8 = true)
    (he : s.mem.num (table + 8 * bits va (levelShift level) (levelBits level)) 8 = e) (hkind : e % 4 = 3)
    (hok : s.badLeaf c level e = false) :
    s.walkFrom c va (fuel + 1) level table =
      .leaf (table + 8 * bits va (levelShift level) (levelBits level)) e (levelShift level) := by
  have h0 : bit e 0 = true := by rw [bit_eq]; exact decide_eq_true (by omega)
  have h1 : bit e 1 = true := by rw [bit_eq]; exact decide_eq_true (by omega)
  rw [State.walkFrom]
  simp only [hin, he, h0, h1, hok, Bool.not_true, Bool.false_eq_true, if_false, if_true]

theorem walkFindsLeaf : Claims.WalkFindsLeaf := by
  intro s c va e0 e1 e2 t0 t1 t2 hin0 hin1 hin2 hn0 hn1 hn2 hk0 hok0 hk1 hok1 hk2 hok2
  exact (walkFrom_table (fuel := 3) (level := 0) hin0 hn0 hk0 hok0).trans
    ((walkFrom_table (fuel := 2) (level := 1) hin1 hn1 hk1 hok1).trans
      (walkFrom_leaf (fuel := 1) (level := 2) hin2 hn2 hk2 hok2))

theorem leafPermissions : Claims.LeafPermissions := by
  intro e priv user
  have huser : (priv || !bit e 4) = true ↔ user := by
    rw [bit_eq]
    simp only [user, Bool.or_eq_true, Bool.not_eq_true', decide_eq_false_iff_not]
    exact or_congr_right (by omega)
  have hbit (n : Nat) : bit e n = true ↔ e / 2 ^ n % 2 = 1 := by rw [bit_eq, decide_eq_true_eq]
  refine ⟨?_, ?_, ?_, ?_⟩
  all_goals
    simp only [permits, Bool.and_eq_true, Bool.and_true, huser, hbit]

theorem translationWalkFills : Claims.TranslationWalkFills := by
  intro s ctx core va a e n hctx hva hcore hwalk t
  have hc : (core * 2 ^ 52 + va) / 2 ^ 52 = core := by omega
  have hv : (core * 2 ^ 52 + va) % 2 ^ 52 = va := by omega
  show execTranslationWalk ctx _ s = _
  unfold execTranslationWalk
  simp only [hc, hv]
  rw [if_neg, hwalk]
  · rfl
  · rw [Option.isNone_iff_eq_none]
    exact not_or.mpr ⟨Option.isSome_iff_ne_none.mp hctx, Nat.not_le.mpr hcore⟩

/-- Settles O26. -/
theorem translation : Obligations.Translation := by
  unfold Obligations.Translation
  exact ⟨addressFaults, walkFindsLeaf, leafPermissions, translationWalkFills⟩

end Sys2Proof.Laws

/-! SUPPORT. O28: fences, cache control, and faults that come late. -/
namespace Sys2Proof.Laws
open Machine

/-! ### Fences and cache control (R283, R298 to R301) -/

theorem wideScope_iff (n : Nat) : wideScope n = true ↔ n ∈ [0, 3, 4] := by
  simp [wideScope, or_assoc]

/-- A load at home, and what it leaves in the L1, changes no sheaf and no workgroup. -/
theorem loadBytes_keeps (s : State) (c ctx : Nat) (l : Leaf) (n hint : Nat) (fresh : Bool) :
    (s.loadBytes c ctx l n hint fresh).2.sheaves = s.sheaves ∧ (s.loadBytes c ctx l n hint fresh).2.wgs = s.wgs := by
  have hhot (q : State) (a b : Nat) : (q.keepHot a b).sheaves = q.sheaves ∧ (q.keepHot a b).wgs = q.wgs := by
    unfold State.keepHot
    split <;> exact ⟨rfl, rfl⟩
  unfold State.loadBytes
  dsimp only
  generalize hx : (if (l.ca = 0 ∧ hint ≠ 3 ∧ (!fresh) = true) ∧ ((s.core c).line ctx l.pa).isSome = true then s.flip
    else (false, s)) = x
  have hq : x.2.sheaves = s.sheaves ∧ x.2.wgs = s.wgs := by
    split at hx <;> subst hx <;> exact ⟨rfl, rfl⟩
  have hdrop := hhot (x.2.modCore c fun k => k.dropLines l.pa n) l.pa n
  have hseen : ((x.2.modCore c fun k => k.dropLines l.pa n).keepHot l.pa n).sheaves = s.sheaves ∧
      ((x.2.modCore c fun k => k.dropLines l.pa n).keepHot l.pa n).wgs = s.wgs :=
    ⟨hdrop.1.trans hq.1, hdrop.2.trans hq.2⟩
  split
  · exact hq
  · split
    · split
      · exact hseen
      · exact hseen
    · exact hseen

theorem DevTouched.wgs {s t : State} (h : DevTouched s t) : t.wgs = s.wgs := by
  rw [h.1]

/-- A translation changes no sheaf and no workgroup. -/
theorem xlate_keeps {s : State} {ctx va : Nat} {acc : Access} {priv : Bool} {core : Option Nat} {mark : Bool}
    {die : Option Nat} {x : Xlate × State} (h : s.xlate ctx va acc priv core mark die = x) :
    x.2.sheaves = s.sheaves ∧ x.2.wgs = s.wgs := by
  subst h
  exact ⟨State.xlate_sheaves .., (xlate_touched ..).wgs⟩

theorem fencesAndCacheControl : Claims.FencesAndCacheControl := by
  intro f s sid r sh c
  have hkind : f.mod 0 2 = f.xmod.toNat % 4 := fieldsMod_zero f 2
  have hcctl : f.mod 0 3 = f.xmod.toNat % 8 := fieldsMod_zero f 3
  have hpref : f.mod 0 1 = f.xmod.toNat % 2 := fieldsMod_zero f 1
  refine ⟨fun hi hact hok => ?_, fun hi hm hact => ?_, fun hi hm => ?_, fun hi hm hact => ?_, fun hi hm => ?_,
    fun hi hact => goes_of_done hi rfl (if_pos hact), fun hi hm => goes_of_done hi rfl (if_pos (hpref.trans hm)),
    fun hi hm hact => ?_, fun hi hm => ?_, laneWrites_of fun _ => rfl⟩
  · refine goes_of_done hi rfl ((if_neg hact).trans ((if_neg ?_).trans ((if_neg ?_).trans ?_)))
    · rintro ⟨hne, hwait⟩
      rcases hok with h | h
      · exact hne (hkind.trans h)
      · exact not_false_of h.1 hwait
    · rintro ⟨hne, hsys, hwait⟩
      rcases hok with h | h
      · exact hne (hkind.trans h)
      · exact not_false_of (h.2 hsys) hwait
    · refine congrArg Result.done ?_
      rw [hkind, ite_and]
      refine if_congr Iff.rfl ?_ rfl
      exact if_congr (wideScope_iff _) rfl rfl
  · refine goes_of_done hi rfl ?_
    rw [hcctl.trans hm]
    exact congrArg Result.done (if_neg hact)
  · refine goes_of_done hi rfl ?_
    rw [hcctl.trans hm]
    rfl
  · refine goes_of_done hi rfl ?_
    rw [hcctl.trans hm]
    exact congrArg Result.done (if_pos hact)
  · refine goes_of_done hi rfl ?_
    split
    · next h => exact absurd (hcctl.symm.trans h) (by omega)
    · next h => exact absurd (hcctl.symm.trans h) (by omega)
    · rfl
  · refine goes_of_done hi rfl ((if_neg (by omega)).trans ?_)
    have hnone : (issueOf s (.pref f) sid r).act = [] := hact
    rw [hnone]
    rfl
  · refine ⟨_, goes_of_done hi rfl (if_neg (by omega)), ?_⟩
    refine Prod.mk.inj (each_keeps (fun q : State => (q.sheaves, q.wgs)) (fun t q => ?_) _ s)
    dsimp only
    split
    · next l q' heq =>
      obtain ⟨hsheaves, hwgs⟩ := xlate_keeps heq
      split
      · obtain ⟨h1, h2⟩ := loadBytes_keeps q' (coreOf sid) sh.ctx l 1 (f.hint.toNat % 4) false
        exact Prod.ext (h1.trans hsheaves) (h2.trans hwgs)
      · exact Prod.ext hsheaves hwgs
    · next heq =>
      obtain ⟨hsheaves, hwgs⟩ := xlate_keeps heq
      exact Prod.ext hsheaves hwgs

/-! ### Late memory faults (R271, R435) -/

theorem lateMemoryFaults : Claims.LateMemoryFaults := by
  intro s o t op hop
  refine ⟨fun p hp hcode hdone => ?_, fun f ln n sub hi hln happ hbad => ?_⟩
  · have hof : op.faultsOf 0x11 = [p] := by
      rw [LongOp.faultsOf, hp]
      exact List.filter_eq_self.mpr fun q hq => decide_eq_true (List.mem_singleton.mp hq ▸ hcode)
    show execMemoryErrorFault o s = _
    unfold execMemoryErrorFault
    rw [hop]
    dsimp only
    rw [hof]
    exact congrArg Host.Outcome.next (if_neg (not_false_of hdone))
  · have hsize : accessSize op.instr = sizeBytes (f.xmod.toNat % 8) := by
      rw [hi]
      exact congrArg sizeBytes (fieldsMod_zero f 3)
    show execImpreciseStoreFault o t s = _
    unfold execImpreciseStoreFault
    rw [hop]
    dsimp only
    rw [hln]
    dsimp only
    rw [happ, hsize, hbad]
    rfl

/-! ### Lost links (R288, R452) -/

theorem linkLoss : Claims.LinkLoss := by
  refine ⟨fun s sid d r w => ?_, fun s o op ln f d hop hkind hlanes hdone hca hdown hmay => ?_⟩
  · intro sh hr hw hport
    show execRetrainLimitExpiry sid s = _
    unfold execRetrainLimitExpiry
    dsimp only
    rw [show (s.sheaf sid).run = some r from hr]
    dsimp only
    rw [hw, Option.bind_some, show s.expiredPort (coreOf sid) (s.sheaf sid).ctx (s.sheaf sid).wg w = some d from hport]
    rfl
  · have hbad : op.lanes.filter (fun l => !l.done && l.leaf.ca == 3 && s.linkDown l.leaf.peer && s.mayApply o op l) = [ln] := by
      rw [hlanes]
      exact List.filter_eq_self.mpr fun l hl => by
        rw [List.mem_singleton.mp hl, hdone, hca, hdown, hmay]
        rfl
    show execLinkLossFault o ln.thread s = _
    unfold execLinkLossFault
    rw [hop]
    dsimp only
    rw [hbad]
    rcases hkind with ⟨hi | hi | hi | hi | hi, rfl⟩ | ⟨hi, rfl⟩
    all_goals
      rw [hi]
      refine congrArg Host.Outcome.next ((if_neg ?_).trans ?_)
      · simp [answersPeer, isGlobal]
      · simp [peerD, atomD, each]

/-- Settles O28. -/
theorem fencesAndLateFaults : Obligations.FencesAndLateFaults := by
  unfold Obligations.FencesAndLateFaults
  exact ⟨fencesAndCacheControl, lateMemoryFaults, linkLoss⟩

end Sys2Proof.Laws

/-! SUPPORT. O27: global accesses at their homes. -/
namespace Sys2Proof.Laws
open Machine

/-! ### What atomics compute (R167, R295 to R297) -/

/-- What the integer atomic `op` of `n` bits leaves of `a` with the operand `v` (R295). -/
def atomicNew (n op a v : Nat) : Nat :=
  let sg (x : Nat) : Int := if x < 2 ^ (n - 1) then x else x - 2 ^ n
  match op with
  | 0 => (a + v) % 2 ^ n
  | 1 => if sg v < sg a then v else a
  | 2 => if sg a < sg v then v else a
  | 3 => min a v
  | 4 => max a v
  | 5 => a &&& v
  | 6 => a ||| v
  | 7 => a ^^^ v
  | _ => v

theorem atomicNew_lt {n op a v : Nat} (ha : a < 2 ^ n) (hv : v < 2 ^ n) : atomicNew n op a v < 2 ^ n := by
  unfold atomicNew
  dsimp only
  split
  · exact Nat.mod_lt _ (Nat.two_pow_pos n)
  · exact iteInduction (motive := (· < 2 ^ n)) (fun _ => hv) fun _ => ha
  · exact iteInduction (motive := (· < 2 ^ n)) (fun _ => hv) fun _ => ha
  · exact (min_le_left a v).trans_lt ha
  · exact max_lt ha hv
  · exact Nat.and_lt_two_pow a hv
  · exact Nat.or_lt_two_pow ha hv
  · exact Nat.xor_lt_two_pow ha hv
  · exact hv

theorem sext_eq {n x : Nat} (hn : 0 < n) (h : x < 2 ^ n) :
    sext n x = if x < 2 ^ (n - 1) then (x : Int) else x - 2 ^ n := by
  obtain ⟨m, rfl⟩ := Nat.exists_eq_add_one_of_ne_zero hn.ne'
  unfold sext
  dsimp only
  rw [Nat.mod_eq_of_lt h, Nat.add_sub_cancel]
  exact if_congr (by rw [Nat.pow_succ]; omega) rfl rfl

theorem rmwInt_eq {n op a v : Nat} (hn : 0 < n) (ha : a < 2 ^ n) (hv : v < 2 ^ n) : rmwInt n op a v = atomicNew n op a v := by
  unfold rmwInt atomicNew
  rw [sext_eq hn ha, sext_eq hn hv]
  rfl

/-- The integer operations in ascending thread order (R295): each lane receives the value that the one before it left. -/
theorem atomicRun_eq {n op old : Nat} {vs : List Nat} (hn : 0 < n) (hop : op ≠ 9) (hold : old < 2 ^ n)
    (hvs : ∀ v ∈ vs, v < 2 ^ n) :
    (atomicRun n op old vs).1 = vs.foldl (atomicNew n op) old ∧ (atomicRun n op old vs).2.length = vs.length ∧
      ∀ k < vs.length, (atomicRun n op old vs).2.getD k 0 = (vs.take k).foldl (atomicNew n op) old := by
  have hgo : ∀ (a : Nat) (outs : List Nat), a < 2 ^ n →
      vs.foldl (fun (acc : Nat × List Nat) v => (rmwInt n op acc.1 v, acc.2 ++ [acc.1])) (a, outs) =
        (vs.foldl (atomicNew n op) a, outs ++ (List.range vs.length).map fun k => (vs.take k).foldl (atomicNew n op) a) := by
    induction vs with
    | nil => simp
    | cons v vs ih =>
      intro a outs ha
      have hv := hvs v (List.mem_cons_self ..)
      rw [List.foldl_cons, rmwInt_eq hn ha hv, ih (fun x hx => hvs x (List.mem_cons_of_mem _ hx)) _ _ (atomicNew_lt ha hv),
        List.length_cons, List.range_succ_eq_map, List.map_cons, List.map_map, List.append_assoc]
      rfl
  have hrun : atomicRun n op old vs =
      (vs.foldl (atomicNew n op) old, (List.range vs.length).map fun k => (vs.take k).foldl (atomicNew n op) old) :=
    (if_neg hop).trans ((hgo old [] hold).trans (by rw [List.nil_append]))
  rw [hrun]
  refine ⟨rfl, by simp, fun k hk => ?_⟩
  simp [List.getD_eq_getElem?_getD, hk]

theorem atomicResults : Claims.AtomicResults := by
  refine ⟨fun n old op vs hn hold hvs hop => ?_, fun old v => ?_, fun f old l => ?_, fun s op l n ls hca => ?_⟩
  · exact atomicRun_eq (by omega) (by omega) hold hvs
  · have hsource (x : Nat) : f32.source false (BitVec.ofNat 32 x).toNat = x % 2 ^ 32 :=
      (if_neg (fun h => Bool.false_ne_true h.1)).trans (Nat.mod_mod x _)
    show ((addF32 false (BitVec.ofNat 32 old) (BitVec.ofNat 32 v)).1.toNat, [old]) = _
    unfold addF32
    rw [hsource, hsource]
    rfl
  · rfl
  · refine ⟨rfl, ?_⟩
    have hhot (q : State) : (q.makeHot l).mem = q.mem := by
      unfold State.makeHot
      split <;> rfl
    unfold State.atomicHome
    dsimp only
    rw [if_neg hca]
    exact hhot _

/-! ### The masks of `st.sub` (R294) -/

/-- A number each nibble of which is full or empty, from the lowest one. -/
def nibbles : List Bool → Nat
  | [] => 0
  | b :: bs => 2 ^ 4 * nibbles bs + if b then 15 else 0

theorem testBit_nibbles (bs : List Bool) (i : Nat) : (nibbles bs).testBit i = bs.getD (i / 4) false := by
  induction bs generalizing i with
  | nil => simp [nibbles]
  | cons b bs ih =>
    rw [nibbles, Nat.testBit_two_pow_mul_add _ (by split <;> decide)]
    split
    · next h =>
      rw [Nat.div_eq_of_lt h]
      cases b
      · simp
      · simpa using (Nat.testBit_two_pow_sub_one 4 i).trans (decide_eq_true h)
    · next h =>
      obtain ⟨j, rfl⟩ := Nat.exists_eq_add_of_le (Nat.not_lt.mp h)
      rw [ih, Nat.add_sub_cancel_left, Nat.add_div_left j (by decide)]
      rfl

theorem nibbles_eq_sum (g : Nat → Bool) :
    ((List.range 8).map fun k => if g k then 15 * 16 ^ k else 0).sum = nibbles ((List.range 8).map g) := by
  have hscale (k : Nat) : (if g k then 15 * 16 ^ k else 0) = 16 ^ k * if g k then 15 else 0 := by
    split
    · rw [Nat.mul_comm]
    · rw [Nat.mul_zero]
  simp only [hscale, List.range_succ, List.range_zero, List.nil_append, List.cons_append, List.map_cons, List.map_nil,
    List.sum_cons, List.sum_nil, nibbles]
  ring

theorem subMasks : Claims.SubMasks := by
  intro c i hi
  refine ⟨rfl, ?_⟩
  have hmask : subMask false c = BitVec.ofNat 32 (nibbles ((List.range 8).map c.getLsbD)) :=
    congrArg (BitVec.ofNat 32) (nibbles_eq_sum c.getLsbD)
  rw [hmask, BitVec.getLsbD_ofNat, testBit_nibbles, decide_eq_true hi, Bool.true_and]
  have hk : i / 4 < 8 := by omega
  simp [List.getD_eq_getElem?_getD, hk]

/-! ### Loads, stores and atomics at their homes (R276, R292 to R297) -/

theorem storeData_eq {i : Instr} {f : Fields} (h : i = .st f ∨ i = .stSub f) (l : List Word) : storeData i l = StoreBits i l := by
  have hcode : f.mod 0 3 = f.xmod.toNat % 8 := fieldsMod_zero f 3
  have hbit : f.mod 0 1 = f.xmod.toNat % 2 := fieldsMod_zero f 1
  rcases h with rfl | rfl
  · simp only [storeData, StoreBits, hcode]
  · simp only [storeData, StoreBits, hbit, opd]

/-- The state after a load is performed for its lane (R276, R292). -/
theorem performLoad_of {s : State} {o : Nat} {op : LongOp} {ln : Lane} {f : Fields}
    (hi : op.instr = .ld f ∨ op.instr = .ldAcq f ∨ op.instr = .ldCon f) (hmay : s.mayApply o op ln = true)
    (hopen : s.open_ (some op.core) ln.leaf = true)
    (hgood : (s.loadBytes op.core op.ctx ln.leaf (sizeBytes (f.xmod.toNat % 8)) (f.hint.toNat % 4) ln.ataint).1.2 = false) :
    let x := s.loadBytes op.core op.ctx ln.leaf (sizeBytes (f.xmod.toNat % 8)) (f.hint.toNat % 4) ln.ataint
    s.performLoad o op ln f =
      ((x.2.landDsts o op.sid { ln with taint := ln.taint || decide (op.instr = .ldCon f) } f.d
        (loadVals (f.xmod.toNat % 8) x.1.1)).acquired op.core op.ctx (acqScope op.instr)).finishLane o ln.thread := by
  have hcode : f.mod 0 3 = f.xmod.toNat % 8 := fieldsMod_zero f 3
  have hgo : ¬ ((!s.mayApply o op ln) = true ∨ (!s.open_ (some op.core) ln.leaf) = true) :=
    not_or.mpr ⟨not_false_of hmay, not_false_of hopen⟩
  intro x
  unfold State.performLoad
  refine (if_neg hgo).trans ?_
  rcases hi with hi | hi | hi
  all_goals
    have hsize : accessSize op.instr = sizeBytes (f.xmod.toNat % 8) := by rw [hi, ← hcode]; rfl
    have hhint : l1Hint op.instr = f.hint.toNat % 4 := by rw [hi]; rfl
    simp only [hsize, hhint, hcode, hgood, Bool.false_eq_true, if_false]
    rw [hi]
    simp [x]

/-- A lane that applies its store alone stores its own words. -/
theorem applyStore_alone (s : State) (o : Nat) (op : LongOp) (ln : Lane) :
    s.applyStore o op [ln] ln =
      let x := s.landSrcs op.sid ln.thread ln.srcs
      let data := storeData op.instr x.1
      if data.all (fun p => p.2 == 0) then x.2.finishLane o ln.thread
      else
        let q := x.2.fresh.2.modOp o fun op => op.carry x.2.fresh.1 [ln] x.1
        if ln.leaf.ca = 3 then q.post x.2.fresh.1 op ln data
        else if windowBase ≤ ln.pa.toNat then q
        else q.modCore op.core fun k => k.storeLines ln.pa.toNat data := by
  unfold State.applyStore
  simp only [List.foldl_cons, List.foldl_nil, List.nil_append, List.headD_cons, List.length_singleton, if_true, each]
  split <;> rfl

/-- A lane of a store that is the only one of its word is applied: it takes its place in the core order (R276, R294). -/
theorem performStore_applied {s : State} {o : Nat} {op : LongOp} {ln : Lane} {f : Fields}
    (hi : op.instr = .st f ∨ op.instr = .stSub f ∧ (op.lanes.filter fun l => l.key = ln.key && !l.done) = [ln])
    (hnone : ln.applied = none) (hmay : s.mayApply o op ln = true) (hplural : ln.leaf.plural = false) (hca : ln.leaf.ca ≠ 3)
    (hpa : ln.pa.toNat < windowBase) :
    let x := s.landSrcs op.sid ln.thread ln.srcs
    let data := StoreBits op.instr x.1
    (∃ p ∈ data, p.2 ≠ 0) →
    let q1 := { x.2 with next := x.2.next + 1 }
    let q2 := q1.modOp o fun op => { op with
      lanes := op.lanes.map fun l => if l.thread = ln.thread then
        { l with applied := some x.2.next, srcs := List.zipWith (fun p w => (p.1, w)) l.srcs x.1 } else l }
    s.performStore o op ln = q2.modCore op.core fun k => k.storeLines ln.pa.toNat data := by
  intro x data hdata q1 q2
  have hmerged : op.merged ln = [ln] := by
    unfold LongOp.merged
    rcases hi with hi | ⟨hi, hone⟩
    · rw [hi]
    · rw [hi]
      exact (if_neg (fun h => Bool.noConfusion (hplural.symm.trans h))).trans hone
  have hstore : storeData op.instr (s.landSrcs op.sid ln.thread ln.srcs).1 = data := storeData_eq (hi.imp_right (·.1)) x.1
  have hzero : ¬ data.all (fun p => p.2 == 0) = true := by
    obtain ⟨p, hp, hne⟩ := hdata
    exact fun h => hne (beq_iff_eq.mp (List.all_eq_true.mp h p hp))
  have hcarry (op' : LongOp) : op'.carry x.2.next [ln] x.1 = { op' with
      lanes := op'.lanes.map fun l => if l.thread = ln.thread then
        { l with applied := some x.2.next, srcs := List.zipWith (fun p w => (p.1, w)) l.srcs x.1 } else l } := by
    refine congrArg (fun ls => { op' with lanes := ls }) (List.map_congr_left fun l _ => ?_)
    by_cases h : l.thread = ln.thread
    · exact (if_pos h).trans (if_pos h).symm
    · have hother : ¬ ([ln].any fun k => k.thread = l.thread) = true := by
        simpa using Ne.symm h
      exact (if_neg h).trans ((if_neg hother).trans (if_neg h).symm)
  unfold State.performStore
  rw [hnone]
  dsimp only
  rw [hmerged, if_neg, if_neg]
  · show s.applyStore o op [ln] ln = _
    refine (applyStore_alone s o op ln).trans ((if_neg (hstore ▸ hzero)).trans ((if_neg hca).trans
      ((if_neg (Nat.not_le.mpr hpa)).trans ?_)))
    exact congrArg₂ (fun (g : LongOp → LongOp) d => (q1.modOp o g).modCore op.core fun k => k.storeLines ln.pa.toNat d)
      (funext hcarry) hstore
  · exact fun h => Bool.noConfusion (hplural.symm.trans h)
  · rw [List.all_cons, List.all_nil, hmay]
    exact Bool.noConfusion

/-- An applied lane that is first in the core order is performed at its home (R276). -/
theorem performStore_home {s : State} {o n : Nat} {op : LongOp} {ln : Lane} {f : Fields}
    (hi : op.instr = .st f ∨ op.instr = .stSub f) (happ : ln.applied = some n) (hca : ln.leaf.ca ≠ 3)
    (hpa : ln.pa.toNat < windowBase) (hopen : s.open_ (some op.core) ln.leaf = true) :
    let data := StoreBits op.instr (ln.srcs.map (·.2))
    (∀ p ∈ s.pendingStores op.core, n ≤ p.1 ∨ overlap p.2.1 p.2.2.length ln.key data.length = false) →
    s.badStore op.ctx op.instr ln.leaf data.length = none →
    s.performStore o op ln = (s.homeStoreMasked op.ctx ln.leaf data).finishLane o ln.thread := by
  intro data hfirst hbad
  have hall : (s.pendingStores op.core).all (fun p => decide (n ≤ p.1) || !overlap p.2.1 p.2.2.length ln.key data.length) = true := by
    refine List.all_eq_true.mpr fun p hp => ?_
    rcases hfirst p hp with h | h
    · rw [decide_eq_true h, Bool.true_or]
    · rw [h, Bool.not_false, Bool.or_true]
  unfold State.performStore
  rw [happ]
  dsimp only
  rw [storeData_eq hi]
  refine (if_neg ?_).trans ((if_neg hca).trans (if_neg (Nat.not_le.mpr hpa)))
  rintro (h | h | h)
  · exact not_false_of hall h
  · exact h hbad
  · exact not_false_of hopen h

theorem performAtomic_of {s : State} {o t : Nat} {op : LongOp} {ln : Lane} {d : BitVec 8} {single_ : Bool} {f : Fields}
    (hop : s.ops.get o = some op) (hln : op.lanes.find? (fun l => l.thread = t && !l.done) = some ln)
    (hopen : s.open_ (some op.core) ln.leaf = true)
    (hi : op.instr = .red f ∧ d = 0xF0 ∧ single_ = false ∨ op.instr = .atom f ∧ d = f.d ∧ single_ = false ∨
      op.instr = .atomCas f ∧ d = f.d ∧ single_ = true) : AtomicPerforms s o t op ln d single_ := by
  unfold AtomicPerforms
  intro ls n hmay hplural hpend hin hgood x y q
  have hlane : performLane s o op ln = s.performAtomic o op ln := by
    unfold performLane
    rcases hi with ⟨h, -⟩ | ⟨h, -⟩ | ⟨h, -⟩ <;> rw [h]
  have hd : atomD op.instr = d := by
    rcases hi with ⟨h, rfl, -⟩ | ⟨h, rfl, -⟩ | ⟨h, rfl, -⟩ <;> rw [h] <;> rfl
  have hbatch : op.batch ln = ls := by
    unfold LongOp.batch
    rcases hi with ⟨h, -, rfl⟩ | ⟨h, -, rfl⟩ | ⟨h, -, rfl⟩ <;> rw [h] <;> rfl
  have hnopend : s.storesPend op.core ln.key n = false := List.any_eq_false.mpr fun p hp => by
    rw [hpend p hp]
    exact Bool.false_ne_true
  have hok : ¬ (ln.leaf.ca ≠ 3 ∧ ((!s.inGddr ln.pa.toNat n) = true ∨ (s.homeLoad (s.ctx op.ctx) ln.leaf n).2 = true)) := by
    rintro ⟨-, h | h⟩
    · exact not_false_of hin h
    · exact Bool.noConfusion (hgood.symm.trans h)
  rw [exec_performed hop hln, hlane]
  refine congrArg Host.Outcome.next ?_
  unfold State.performAtomic
  dsimp only
  rw [hbatch, hd]
  refine (if_neg (not_false_of (List.all_eq_true.mpr hmay))).trans ((if_neg ?_).trans ((if_neg fun h => hok h.1).trans
    ((if_neg hok).trans ((if_neg fun h => Bool.noConfusion (hplural.symm.trans h)).trans ?_))))
  · rintro (h | h)
    · exact Bool.noConfusion (hnopend.symm.trans h)
    · exact not_false_of hopen h
  · rfl

theorem accessesPerformedAtHome : Claims.GlobalAccessesPerformed := by
  intro s o t op ln f hop hln hca hopen
  have hload : op.instr = .ld f ∨ op.instr = .ldAcq f ∨ op.instr = .ldCon f → performLane s o op ln = s.performLoad o op ln f := by
    unfold performLane
    rintro (h | h | h) <;> rw [h]
  have hstore : op.instr = .st f ∨ op.instr = .stSub f → performLane s o op ln = s.performStore o op ln := by
    unfold performLane
    rintro (h | h) <;> rw [h]
  rw [exec_performed hop hln]
  refine ⟨fun hi hmay => ?_, fun hi hnone hmay hplural hpa => ?_, fun n hi happ hpa => ?_,
    fun hi => performAtomic_of hop hln hopen (.inl ⟨hi, rfl, rfl⟩),
    fun hi => performAtomic_of hop hln hopen (.inr (.inl ⟨hi, rfl, rfl⟩)),
    fun hi => performAtomic_of hop hln hopen (.inr (.inr ⟨hi, rfl, rfl⟩))⟩
  · intro x hgood
    exact congrArg Host.Outcome.next ((hload hi).trans (performLoad_of hi hmay hopen hgood))
  · intro x data hdata q1 q2
    exact congrArg Host.Outcome.next ((hstore (hi.imp_right (·.1))).trans
      (performStore_applied hi hnone hmay hplural hca hpa hdata))
  · intro data hfirst hbad
    exact congrArg Host.Outcome.next ((hstore hi).trans (performStore_home hi happ hca hpa hopen hfirst hbad))

/-- Settles O27. -/
theorem globalAccessesPerformed : Obligations.GlobalAccessesPerformed := by
  unfold Obligations.GlobalAccessesPerformed
  exact ⟨accessesPerformedAtHome, subMasks, atomicResults⟩

end Sys2Proof.Laws

/-! SUPPORT. O39: blended pixels, the texture sampler and rays. -/
namespace Sys2Proof.Laws
open Machine

/-! ### The blender (R406, R407) -/

/-- A graphics unit's read without poison. -/
theorem gfxLoad_of {g : Gfx} {va n : Nat} {bs : List Byte} {s' : State} (hstuck : g.stuck va n = none)
    (h : g.s.engineLoad g.engine g.ctx va n g.priv = .ok (bs, false, s')) :
    g.load va n = .ok (bs, { g with s := { s' with free := s'.free + 0 }, poison := g.poison.or none }) := by
  unfold Gfx.load
  rw [hstuck]
  dsimp only
  rw [h]
  rfl

/-- A graphics unit's write. -/
theorem gfxStore_of {g : Gfx} {va : Nat} {bs : List Byte} {s' : State} (hstuck : g.stuck va bs.length = none)
    (h : g.s.engineStore g.engine g.ctx va bs g.priv = .ok s') : g.store va bs = .ok { g with s := s' } := by
  unfold Gfx.store
  rw [hstuck]
  dsimp only
  rw [h]
  rfl

theorem blendPerformedInTurn : Claims.BlendPerformed := by
  intro s o t op f ln tr st hop hi hln w htr hst hmay r a n x g hload bs s1 hbs g1 new hstore s2 hs2 q s3
  have hfound := List.find?_some hln
  simp only [Bool.and_eq_true, decide_eq_true_eq] at hfound
  obtain ⟨hthread, -⟩ := hfound
  have hx : bits ln.pa.toNat 0 14 = ln.pa.toNat % 2 ^ 14 := bits_zero_lo ..
  have hlane : s.blendLane op ln r (f.xmod.toNat % 8) = .ok { g1 with s := s2 } := by
    unfold State.blendLane
    rw [hx, hthread]
    dsimp only
    have h1 : Gfx.load g a n = .ok (bs, g1) := gfxLoad_of hload hbs
    have h2 : g1.store a new = .ok { g1 with s := s2 } := gfxStore_of hstore hs2
    show Except.bind (Gfx.load g a n) _ = _
    rw [h1]
    exact h2
  show execBlendPerformed o t s = _
  unfold execBlendPerformed
  rw [hop]
  dsimp only
  have hm : blendOp op.instr = some (f.xmod.toNat % 8) := by
    rw [hi]
    exact congrArg some (fieldsMod_zero f 3)
  rw [hm, hln]
  dsimp only
  rw [htr]
  dsimp only [Option.bind_some]
  rw [hst]
  refine congrArg Host.Outcome.next ((if_neg (not_false_of hmay)).trans ?_)
  rw [hlane]

/-! ### The texture sampler (R408 to R411) -/

/-- What a texture instruction leaves where its descriptors are read and valid. -/
def texLaunched (i : Instr) (k : TexKind) (f : Fields) (s : State) (sid : Nat) (r : ClauseRun) (lanes : List Lane) (g : Gfx) : State :=
  let is := issueOf s i sid r
  let q := g.s.launch is i lanes
  if k = .tex ∧ f.xmod.toNat % 2 = 0 then q.modSheaf sid fun sh' =>
    (acts s i sid r).foldl (fun sh' t => sh'.modThread t fun th =>
      { th with xmask := (is.seg (s.sheaf sid) 4 t).mask }) sh' else q

/-- The fields whose taint a texture instruction waits for. -/
def TexFree (i : Instr) (k : TexKind) (f : Fields) (s : State) (sid : Nat) (r : ClauseRun) : Prop :=
  ∀ t ∈ acts s i sid r, (s.sheaf sid).taintOf t f.b = true ∨ (k ≠ .texq ∧ (s.sheaf sid).taintOf t f.c = true) →
    s.consuming sid (s.sheaf sid).gen t s.next = false

/-- A texture instruction whose descriptors are read and valid enters flight. -/
theorem texGoes_of {i : Instr} {k : TexKind} {f : Fields} {s : State} {sid : Nat} {r : ClauseRun} {lanes : List Lane} {g : Gfx}
    (he : ∀ s, exec i s = issued i (texOp i k f) s) (hi : Issues s i sid r) (hfree : TexFree i k f s sid r)
    (hlanes : texLanes k f (issueOf s i sid r) (s.sheaf sid) (acts s i sid r)
      ((issueOf s i sid r).unit_ s (issueOf s i sid r).lead) = .ok (lanes, [], g))
    (hpoison : g.poison = none) : Goes s i sid (texLaunched i k f s sid r lanes g) := by
  refine goes_of_done hi (he s) ?_
  have hsid : (issueOf s i sid r).sid = sid := rfl
  have hact : (issueOf s i sid r).act = acts s i sid r := rfl
  have hnowait : ¬ (acts s i sid r).any (fun t => ((s.sheaf sid).taintOf t f.b || (k != .texq && (s.sheaf sid).taintOf t f.c)) &&
      s.consuming sid (s.sheaf sid).gen t s.next) = true := by
    rw [List.any_eq_true]
    rintro ⟨t, ht, h⟩
    obtain ⟨htaint, hwait⟩ := Bool.and_eq_true_iff.mp h
    refine Bool.noConfusion ((hfree t ht ?_).symm.trans hwait)
    simpa using htaint
  have hbit : f.mod 0 1 = f.xmod.toNat % 2 := fieldsMod_zero f 1
  unfold texOp
  refine (if_neg hnowait).trans ?_
  simp only [hsid, hact]
  rw [hlanes]
  dsimp only [List.map_nil, Issue.faultLanes]
  unfold Issue.gfxDone
  dsimp only
  rw [hpoison, hbit]
  rfl

/-- A descriptor read without poison leaves the sheaves. -/
theorem described_sheaves {g : Gfx} {va n : Nat} {bs : List Byte} {s' : State} (h : Described g va n bs s') :
    s'.sheaves = g.s.sheaves := by
  obtain ⟨-, h⟩ := h
  unfold State.engineLoad at h
  have hkeep := State.devLoad_sheaves g.s g.ctx va n true (some g.engine.core) none
  split at h
  · next heq =>
    rw [heq] at hkeep
    cases h
    exact hkeep
  · cases h
  · cases h

/-- The unit's state after a descriptor has been read. -/
def gfxAfter (g : Gfx) (s : State) : Gfx := { g with s := { s with free := s.free + 0 } }

theorem texWords_of {g : Gfx} {x : Nat} {bs : List Byte} {s1 : State} (hpoison : g.poison = none) (hx : x < 4096)
    (hd : Described g ((g.s.ctx g.ctx).field 552 47 * 32 + 32 * x) 32 bs s1) (hok : (texOf (bytesWords 8 bs)).ok = true) :
    g.texWords x = .ok (some (bytesWords 8 bs), gfxAfter g s1) := by
  obtain ⟨hstuck, hload⟩ := hd
  refine (if_neg (Nat.not_le.mpr hx)).trans ?_
  rw [gfxLoad_of (g := { g with priv := true }) hstuck hload]
  obtain ⟨s, core, ctx, priv, poison, pc⟩ := g
  cases hpoison
  show Except.ok (if (texOf (bytesWords 8 bs)).ok = true then some (bytesWords 8 bs) else none, _) = _
  rw [if_pos hok]
  rfl

theorem sampWords_of {g : Gfx} {y : Nat} {bs : List Byte} {s1 : State} (hpoison : g.poison = none) (hy : y < 256)
    (hd : Described g ((g.s.ctx g.ctx).field 504 48 * 16 + 16 * y) 16 bs s1) (hok : (sampOf (bytesWords 4 bs)).ok = true) :
    g.sampWords y = .ok (some (bytesWords 4 bs), gfxAfter g s1) := by
  obtain ⟨hstuck, hload⟩ := hd
  refine (if_neg (Nat.not_le.mpr hy)).trans ?_
  rw [gfxLoad_of (g := { g with priv := true }) hstuck hload]
  obtain ⟨s, core, ctx, priv, poison, pc⟩ := g
  cases hpoison
  show Except.ok (if (sampOf (bytesWords 4 bs)).ok = true then some (bytesWords 4 bs) else none, _) = _
  rw [if_pos hok]
  rfl

/-- A lane whose descriptors are read and valid has its place, and its unit reports no poison and leaves the sheaves. -/
theorem texFetch_of {k : TexKind} {f : Fields} {crd bce : List Word} {t : Nat} {g : Gfx} {bs : List Byte} {s1 : State}
    (hpoison : g.poison = none) (hx : (opd bce 0).toNat < 4096)
    (hd : Described g ((g.s.ctx g.ctx).field 552 47 * 32 + 32 * (opd bce 0).toNat) 32 bs s1)
    (hok : (texOf (bytesWords 8 bs)).ok = true)
    (hsamp : k ≠ .texq → (opd bce 1).toNat < 256 ∧ ∃ bs2 s2, Described (gfxAfter g s1)
      ((s1.ctx g.ctx).field 504 48 * 16 + 16 * (opd bce 1).toNat) 16 bs2 s2 ∧ (sampOf (bytesWords 4 bs2)).ok = true) :
    ∃ ws g', texFetch k f crd bce t g = .ok (some ws, g') ∧ g'.poison = none ∧ g'.s.sheaves = g.s.sheaves := by
  have htex := texWords_of hpoison hx hd hok
  have hpick (q : State) (n : Nat) : (q.pick n).2.sheaves = q.sheaves := rfl
  have hsheaves : (gfxAfter g s1).s.sheaves = g.s.sheaves := described_sheaves hd
  have hsecond : ∃ ys g2, (if k = .texq then .ok (some [], gfxAfter g s1) else (gfxAfter g s1).sampWords (opd bce 1).toNat) =
      (.ok (some ys, g2) : EngineTry (Option (List Word) × Gfx)) ∧ g2.poison = none ∧ g2.s.sheaves = g.s.sheaves := by
    by_cases hk : k = .texq
    · exact ⟨[], gfxAfter g s1, if_pos hk, hpoison, hsheaves⟩
    · obtain ⟨hy, bs2, s2, hd2, hok2⟩ := hsamp hk
      exact ⟨_, _, (if_neg hk).trans (sampWords_of hpoison hy hd2 hok2), hpoison, (described_sheaves hd2).trans hsheaves⟩
  obtain ⟨ys, g2, h2, hp2, hs2⟩ := hsecond
  unfold texFetch
  rw [htex]
  dsimp only [Except.bind]
  rw [h2]
  refine ⟨_, _, rfl, hp2, ?_⟩
  dsimp only
  split
  · exact hs2
  · exact hs2

/-- One lane whose descriptors are read and valid enters flight. -/
theorem texOne_of {i : Instr} {k : TexKind} {f : Fields} {s : State} {sid t : Nat} {r : ClauseRun} {bs : List Byte} {s1 : State}
    (he : ∀ s, exec i s = issued i (texOp i k f) s) (hi : Issues s i sid r) (hfree : TexFree i k f s sid r)
    (hone : acts s i sid r = [t]) (hx : ((s.sheaf sid).read f.imm t f.b).toNat < 4096)
    (hd : Described ((issueOf s i sid r).unit_ s t)
      ((s.ctx (s.sheaf sid).ctx).field 552 47 * 32 + 32 * ((s.sheaf sid).read f.imm t f.b).toNat) 32 bs s1)
    (hok : (texOf (bytesWords 8 bs)).ok = true)
    (hsamp : k ≠ .texq → ((s.sheaf sid).read f.imm t f.c).toNat < 256 ∧ ∃ bs2 s2,
      Described (gfxAfter ((issueOf s i sid r).unit_ s t) s1)
        ((s1.ctx (s.sheaf sid).ctx).field 504 48 * 16 + 16 * ((s.sheaf sid).read f.imm t f.c).toNat) 16 bs2 s2 ∧
      (sampOf (bytesWords 4 bs2)).ok = true) :
    ∃ q n op, Goes s i sid q ∧ q.ops.get n = some op ∧ op.instr = i ∧ op.sid = sid ∧ op.lanes.map (·.thread) = [t] := by
  have hsid : (issueOf s i sid r).sid = sid := rfl
  have hlead : (issueOf s i sid r).lead = t := congrArg (·.headD 0) hone
  have hb : opd ((texFields k f).map ((s.sheaf sid).read f.imm t)) 0 = (s.sheaf sid).read f.imm t f.b := rfl
  have hc (hk : k ≠ .texq) : opd ((texFields k f).map ((s.sheaf sid).read f.imm t)) 1 = (s.sheaf sid).read f.imm t f.c := by
    simp only [texFields, if_neg hk]
    rfl
  obtain ⟨ws, g, hfetch, hpoison, hsheaves⟩ := texFetch_of (k := k) (f := f) (crd := (s.sheaf sid).quadCoords f t) (t := t)
    (bce := (texFields k f).map ((s.sheaf sid).read f.imm t)) (g := (issueOf s i sid r).unit_ s t) rfl (hb ▸ hx) (hb ▸ hd) hok
    (fun hk => by rw [hc hk]; exact hsamp hk)
  have hlanes : ∃ ln : Lane, ln.thread = t ∧ texLanes k f (issueOf s i sid r) (s.sheaf sid) (acts s i sid r)
      ((issueOf s i sid r).unit_ s (issueOf s i sid r).lead) = .ok ([ln], [], g) := by
    rw [hone, hlead]
    unfold texLanes texLane
    dsimp only
    rw [hfetch]
    exact ⟨_, rfl, rfl⟩
  obtain ⟨ln, hthread, hlanes⟩ := hlanes
  have hrun : (g.s.sheaf sid).run = some r := by
    unfold State.sheaf
    rw [hsheaves]
    exact hi.run
  obtain ⟨op, hop, hopsid, hinstr, hopl⟩ := launch_get (s := g.s) (is := issueOf s i sid r) (i := i) (lanes := [ln]) (upd := id) hrun
  refine ⟨_, g.s.next, op, texGoes_of he hi hfree hlanes hpoison, ?_, hinstr, hopsid, ?_⟩
  · unfold texLaunched
    dsimp only
    split <;> exact hop
  · rw [hopl]
    exact congrArg (fun u => [u]) hthread

theorem samplingAndTracing : Claims.SamplingAndTracing := by
  refine ⟨fun f s sid r => ⟨⟨?_, ?_, ?_⟩, ?_, ?_, ?_⟩, fun f s sid r hi => ?_, fun f => launches_of fun _ => rfl⟩
  · exact fun hi hfree lanes g hlanes hpoison => texGoes_of (fun _ => rfl) hi hfree hlanes hpoison
  · exact fun hi hfree lanes g hlanes hpoison => texGoes_of (fun _ => rfl) hi hfree hlanes hpoison
  · exact fun hi hfree lanes g hlanes hpoison => texGoes_of (fun _ => rfl) hi hfree hlanes hpoison
  · exact fun t bs s1 hi hfree hone hx hd hok hsamp => texOne_of (fun _ => rfl) hi hfree hone hx hd hok hsamp
  · exact fun t bs s1 hi hfree hone hx hd hok hsamp => texOne_of (fun _ => rfl) hi hfree hone hx hd hok hsamp
  · exact fun t bs s1 hi hfree hone hx hd hok hsamp => texOne_of (fun _ => rfl) hi hfree hone hx hd hok hsamp
  · exact goes_of_done hi rfl rfl

/-- Settles O39. -/
theorem pixelsTexturesRays : Obligations.PixelsTexturesRays := by
  unfold Obligations.PixelsTexturesRays
  exact ⟨blendPerformedInTurn, samplingAndTracing⟩

end Sys2Proof.Laws

/-! SUPPORT. O38: quad, raster and blend instructions. -/
namespace Sys2Proof.Laws
open Machine

/-! ### Quads (R401 to R404) -/

/-- What a thread of a quad gives its neighbours: 0 where it has exited (R403). -/
def quadVal (f : Fields) (sh : Sheaf) (u : Nat) : Word × Bool :=
  if (sh.thread u).st = .exited then (0, false) else (sh.read f.imm u f.a, sh.taintOf u f.a)

/-- What a word that takes differences across quads leaves, where `hi t` and `lo t` are the threads of each difference. -/
def quadWritten (i : Instr) (f : Fields) (hi lo : Nat → Nat) (s : State) (sid : Nat) (r : ClauseRun) : State :=
  let sh := s.sheaf sid
  (s.writeLanes sid f.d 1 ((acts s i sid r).map fun t =>
    let x := fsubVal (s.wg sh.wg).desc.ftz .rne false (quadVal f sh (hi t)).1 (quadVal f sh (lo t)).1
    ⟨t, [(x.1, (quadVal f sh (hi t)).2 || (quadVal f sh (lo t)).2)], x.2⟩)).modSheaf sid fun sh' =>
      (acts s i sid r).foldl (fun sh' t => sh'.modThread t fun th =>
        { th with xmask := ((issueOf s i sid r).seg sh 4 t).mask }) sh'

theorem quadDiff_eq {i : Instr} {f : Fields} {hi lo hi' lo' : Nat → Nat} {s : State} {sid : Nat} {r : ClauseRun}
    (hhi : ∀ t, t - t % 4 + hi (t % 4) = hi' t) (hlo : ∀ t, t - t % 4 + lo (t % 4) = lo' t) :
    quadDiff f lo hi (issueOf s i sid r) s = .done (quadWritten i f hi' lo' s sid r) := by
  have hval (u : Nat) : (if (s.sheaf sid).exited u then ((0 : Word), false)
      else ((s.sheaf sid).read f.imm u f.a, (s.sheaf sid).taintOf u f.a)) = quadVal f (s.sheaf sid) u :=
    if_congr (by rw [Sheaf.exited, beq_iff_eq]) rfl rfl
  have hsid : (issueOf s i sid r).sid = sid := rfl
  unfold quadDiff
  simp only [hsid, hhi, hlo, hval]
  rfl

theorem quadInstructions : Claims.QuadInstructions := by
  refine ⟨fun f s sid r hi hmay => ?_, fun f down s sid r => ?_, fun f s sid r hi => ?_⟩
  · exact goes_of_done hi rfl (if_neg (not_false_of hmay))
  · intro i hi sh z val lo hi' _ _
    refine ⟨_, ?_, rfl⟩
    cases down
    · have h1 (t : Nat) : t - t % 4 + (t % 4 / 2 * 2 + 1) = t - t % 4 + t % 4 / 2 * 2 + 1 := (Nat.add_assoc ..).symm
      exact goes_of_done hi rfl (quadDiff_eq h1 fun _ => rfl)
    · have h1 (t : Nat) : t - t % 4 + t % 4 % 2 = t - t % 4 + t % 2 := by rw [Nat.mod_mod_of_dvd t (by decide)]
      have h2 (t : Nat) : t - t % 4 + (t % 4 % 2 + 2) = t - t % 4 + t % 2 + 2 := by rw [← Nat.add_assoc, h1]
      exact goes_of_done hi rfl (quadDiff_eq h2 h1)
  · have hbit : f.mod 0 1 = f.xmod.toNat % 2 := fieldsMod_zero f 1
    refine goes_of_done hi rfl ?_
    rw [hbit]
    rfl

/-! ### Rasterisation (R394 to R399, R405 to R407, R412) -/

/-- Culled primitives receive 0 and write nothing. -/
theorem emitLanes_culled {l : List Emit} {g : Gfx} (h : ∀ e ∈ l, e.culled = true) :
    emitLanes l g = .ok (g, l.map (fun e => ⟨e.thread, [(0, e.taint)], 0⟩), none) := by
  induction l with
  | nil => rfl
  | cons e l ih =>
    unfold emitLanes
    refine (if_pos (h e (List.mem_cons_self ..))).trans ?_
    rw [ih fun x hx => h x (List.mem_cons_of_mem _ hx)]
    rfl

theorem emit_bad_eq_none {e : Emit} (hok : e.rec_.ok = true) (hid : e.culled = true ∨ e.id < e.rec_.primn) : e.bad = none := by
  refine (if_neg (not_false_of hok)).trans (if_neg ?_)
  rintro ⟨hvis, hid'⟩
  rcases hid with h | h
  · exact not_false_of h hvis
  · exact absurd h (Nat.not_lt.mpr hid')

/-- What a lane of `emitp` works on, its vertices and its record read in `q`. -/
def emitOf (f : Fields) (sh : Sheaf) (q : State) (t : Nat) : Emit :=
  ⟨t, bytesWords 12 (q.spRead sh.wg (sh.read f.imm t f.a) 0 48), (sh.read f.imm t f.b).toNat,
    rasterOf (q.spRead sh.wg (sh.read f.imm t f.c) 0 64), [f.a, f.b, f.c].any (sh.taintOf t)⟩

/-- `emitp` writes what its lanes receive where every append succeeds (R394). -/
theorem emitp_goes {f : Fields} {s : State} {sid : Nat} {r : ClauseRun} {g : Gfx} {outs : List LaneOut}
    (hi : Issues s (.emitp f) sid r) (hset : Settled s (sid / 64) false)
    (hfree : ∀ t ∈ acts s (.emitp f) sid r, FreeOf s sid t ([f.a, f.b, f.c].any ((s.sheaf sid).taintOf t)))
    (hreach : ∀ t ∈ acts s (.emitp f) sid r, s.scratchFaultAl (s.sheaf sid).wg ((s.sheaf sid).read f.imm t f.a) 48 16 = none ∧
      s.localAt (s.sheaf sid).wg ((s.sheaf sid).read f.imm t f.c) 16 64 = none)
    (hrec : ∀ e ∈ (acts s (.emitp f) sid r).map (emitOf f (s.sheaf sid) (s.flushScratch (sid / 64) false)), e.bad = none)
    (hemit : emitLanes ((acts s (.emitp f) sid r).map (emitOf f (s.sheaf sid) (s.flushScratch (sid / 64) false)))
      ((issueOf s (.emitp f) sid r).unit_ (s.flushScratch (sid / 64) false) (issueOf s (.emitp f) sid r).lead) =
        .ok (g, outs, none))
    (hpoison : g.poison = none) : Goes s (.emitp f) sid (g.s.writeLanes sid f.d 1 outs) := by
  refine goes_of_done hi rfl ?_
  have hsid : (issueOf s (.emitp f) sid r).sid = sid := rfl
  have hact : (issueOf s (.emitp f) sid r).act = acts s (.emitp f) sid r := rfl
  have hfree' := barred_eq_false (taint := fun t => [f.a, f.b, f.c].any ((s.sheaf sid).taintOf t)) hfree
  simp only [hsid, hact]
  rw [List.filterMap_eq_nil_iff.mpr (fun t ht => by rw [(hreach t ht).1, (hreach t ht).2])]
  dsimp only [Issue.faultLanes]
  rw [if_neg fun h => Bool.noConfusion (hfree'.symm.trans h), inScratch_of_settled (is := issueOf s (.emitp f) sid r) _ hset]
  have hgood : ((acts s (.emitp f) sid r).map (emitOf f (s.sheaf sid) (s.flushScratch (sid / 64) false))).filterMap
      (fun e => e.bad.map (fun k => (e.thread, k, 0))) = [] :=
    List.filterMap_eq_nil_iff.mpr fun e he => by rw [hrec e he]; rfl
  unfold emitOf at hgood hemit
  rw [hsid, hgood]
  dsimp only
  rw [hemit]
  dsimp only
  unfold Issue.gfxDone
  dsimp only
  rw [hpoison]

/-- What `cov` does once the record is read and the shares are given back (R399). -/
def covBody (is : Issue) (f : Fields) (sh : Sheaf) (bytes : List Byte) (s : State) : Result :=
  let q := s.wg sh.wg
  match q.work, s.tileRun q.graph q.pass q.tile with
  | .tile, some tr => covTile is f bytes tr s
  | _, _ => .done (s.covWrite is f [] true)

theorem cov_goes {f : Fields} {s q1 s' : State} {sid : Nat} {r : ClauseRun} {a : Word} {bytes : List Byte}
    (hi : Issues s (.cov f) sid r) (hact : acts s (.cov f) sid r ≠ [])
    (ha : (s.sheaf sid).read f.imm (issueOf s (.cov f) sid r).lead f.a = a)
    (hlocal : s.localAt (s.sheaf sid).wg a 16 64 = none) (hset : Settled s (sid / 64) false)
    (hfree : ∀ t ∈ acts s (.cov f) sid r, FreeOf s sid t (t == (issueOf s (.cov f) sid r).lead && (s.sheaf sid).taintOf t f.a))
    (hbytes : (s.flushScratch (sid / 64) false).spRead (s.sheaf sid).wg a 0 64 = bytes) (hok : (rasterOf bytes).ok = true)
    (hq : (acts s (.cov f) sid r).foldl (fun s t => s.releaseToken sid t) (s.flushScratch (sid / 64) false) = q1)
    (hdone : covBody (issueOf s (.cov f) sid r) f (s.sheaf sid) bytes q1 = .done s') : Goes s (.cov f) sid s' := by
  refine goes_of_done hi rfl ?_
  have hsid : (issueOf s (.cov f) sid r).sid = sid := rfl
  have hact' : (issueOf s (.cov f) sid r).act = acts s (.cov f) sid r := rfl
  have hfree' := barred_eq_false (taint := fun t => t == (issueOf s (.cov f) sid r).lead && (s.sheaf sid).taintOf t f.a) hfree
  simp only [hsid, hact', ha]
  rw [if_neg hact, hlocal]
  dsimp only
  rw [if_neg fun h => Bool.noConfusion (hfree'.symm.trans h), inScratch_of_settled (is := issueOf s (.cov f) sid r) _ hset, hsid,
    hbytes, if_neg (not_false_of hok)]
  subst hq
  refine Eq.trans ?_ hdone
  unfold covBody each
  rfl

theorem rasterInstructions : Claims.RasterInstructions := by
  refine ⟨fun f => ⟨globalIssues_of (fun _ => rfl) (fun _ => nofun), globalCompletes_of (fun _ => rfl) nofun rfl⟩,
    fun f s sid r hi => goes_of_done hi rfl rfl, fun f s sid r hi => ?_, fun f s sid r hi hact => ?_⟩
  · intro sh is rd q lanes hset hfree hreach hrec
    have hreach' : ∀ t ∈ acts s (.emitp f) sid r, s.scratchFaultAl sh.wg (rd f.a t) 48 16 = none ∧
        s.localAt sh.wg (rd f.c t) 16 64 = none := fun t ht => by
      obtain ⟨⟨v, hv⟩, hal, hlt, hsize⟩ := hreach t ht
      exact ⟨scratchFaultAl_of_reaches hv, localAt_eq_none hal hlt hsize⟩
    have hbad : ∀ e ∈ lanes, e.bad = none := fun e he => emit_bad_eq_none (hrec e he).1 (hrec e he).2
    have hunit : (is.unit_ q is.lead).s = q := rfl
    refine ⟨fun hcull => ?_, fun g outs hemit hpoison => emitp_goes (g := g) (outs := outs) hi hset hfree hreach' hbad hemit hpoison⟩
    have hnone := emitLanes_culled (g := is.unit_ q is.lead) hcull
    have hgoes := emitp_goes hi hset hfree hreach' hbad hnone rfl
    rw [hunit] at hgoes
    exact hgoes
  · intro sh is a q bytes hal ha hsize hok hset hfree q1 g
    have hgo {s' : State} (h : covBody is f sh bytes q1 = .done s') : Goes s (.cov f) sid s' :=
      cov_goes hi hact rfl (localAt_eq_none hal ha hsize) hset hfree rfl hok rfl h
    refine ⟨fun hwork => hgo ?_, fun tr s' hwork htr hcov => hgo ?_⟩
    · unfold covBody
      dsimp only
      split
      · next hw _ => exact absurd hw hwork
      · rfl
    · unfold covBody
      dsimp only
      rw [show (q1.wg sh.wg).work = .tile from hwork,
        show q1.tileRun (q1.wg sh.wg).graph (q1.wg sh.wg).pass (q1.wg sh.wg).tile = some tr from htr]
      exact hcov

/-- Settles O38. -/
theorem graphicsInstructions : Obligations.GraphicsInstructions := by
  unfold Obligations.GraphicsInstructions
  exact ⟨quadInstructions, rasterInstructions⟩

end Sys2Proof.Laws

/-! SUPPORT. O22: the weight store. -/
namespace Sys2Proof.Laws
open Machine

/-! ### Regions and ranges (R227, R228, R230) -/

@[simp] theorem region_modRegion (s : State) (die i : Nat) (f : Region → Region) :
    ((s.modRegion die i f).die die).region i = f ((s.die die).region i) := by
  unfold State.modRegion
  rw [State.die_modDie]
  unfold ComputeDie.region
  rw [Tab.get_put_self]
  rfl

@[simp] theorem bytes_modRegion (s : State) (die i : Nat) (f : Region → Region) :
    ((s.modRegion die i f).die die).bytes = (s.die die).bytes := by
  unfold State.modRegion
  rw [State.die_modDie]

@[simp] theorem region_dropRegion (s : State) (die i : Nat) (r : Region) :
    ((s.dropRegion die r).die die).region i = (s.die die).region i := by
  unfold State.dropRegion
  rw [State.die_modDie]
  rfl

@[simp] theorem region_expireBytes (s : State) (die i j : Nat) :
    ((s.expireBytes die i).die die).region j = (s.die die).region j := by
  unfold State.expireBytes
  dsimp only
  split
  · exact region_dropRegion ..
  · rfl

/-- A region that is not short-lived keeps its bytes when it is opened again. -/
theorem bytes_expireBytes {s : State} {die i : Nat} (h : ((s.die die).region i).short = false) :
    ((s.expireBytes die i).die die).bytes = (s.die die).bytes := by
  unfold State.expireBytes
  dsimp only
  rw [if_neg fun hs => Bool.noConfusion (h.symm.trans hs.1)]

/-- Two functions that agree on a region change it alike. -/
theorem modRegion_congr {s : State} {die i : Nat} {f g : Region → Region}
    (h : f ((s.die die).region i) = g ((s.die die).region i)) : s.modRegion die i f = s.modRegion die i g := by
  unfold State.modRegion State.modDie
  dsimp only
  rw [h]

@[simp] theorem readsWeights_modRegion (s : State) (die i : Nat) (f : Region → Region) (d lo n : Nat) :
    (s.modRegion die i f).readsWeights d lo n = s.readsWeights d lo n := rfl

theorem bits_add_high {z b lo n : Nat} (h : lo + n ≤ 62) : bits (z + 2 ^ 62 * b) lo n = bits z lo n := by
  obtain ⟨m, hm⟩ := Nat.exists_eq_add_of_le h
  have hpow : 2 ^ 62 * b = 2 ^ lo * (2 ^ n * (2 ^ m * b)) := by
    rw [hm, pow_add, pow_add]
    ring
  unfold bits
  rw [hpow, Nat.add_mul_div_left _ _ (Nat.two_pow_pos lo), Nat.add_mul_mod_self_left]

/-- STATE stands above the fields that a descriptor write compares. -/
theorem bits_setBits {v lo n x : Nat} (h : lo + n ≤ 62) : bits (setBits v 62 2 x) lo n = bits v lo n := by
  have hle : 2 ^ 62 * bits v 62 2 ≤ v := by
    unfold bits
    exact (Nat.mul_le_mul_left _ (Nat.mod_le ..)).trans (Nat.mul_div_le v _)
  have hsum : setBits v 62 2 x + 2 ^ 62 * bits v 62 2 = v + 2 ^ 62 * (x % 2 ^ 2) := by
    unfold setBits
    rw [Nat.mul_comm (bits v 62 2), Nat.mul_comm (x % 2 ^ 2)]
    omega
  rw [← bits_add_high h (b := bits v 62 2), hsum, bits_add_high h]

theorem regionOf_setBits (r : Region) (v x : Nat) : regionOf r (setBits v 62 2 x) = regionOf r v := by
  have hbit : bit (setBits v 62 2 x) 61 = bit v 61 := congrArg (· == 1) (bits_setBits (lo := 61) (n := 1) (by decide))
  unfold regionOf
  rw [hbit, bits_setBits (by decide), bits_setBits (by decide), bits_setBits (by decide)]

/-- A heeded write names the descriptor that a region in use holds (R227). -/
theorem regionOf_of_heeded {s : State} {die i v x : Nat} (h : Heeded s die i v x) (huse : ((s.die die).region i).state ≠ 0) :
    regionOf ((s.die die).region i) v = (s.die die).region i := by
  unfold Heeded ComputeDie.refuses at h
  simp only [Bool.or_eq_false_iff, Bool.and_eq_false_iff, decide_eq_false_iff_not, not_not, bne_eq_false_iff_eq,
    regionOf_setBits] at h
  obtain ⟨⟨-, hsame⟩, -⟩ := h
  exact hsame.resolve_left huse

theorem regionAt_of_inRegion {d : ComputeDie} {off n al i : Nat} {want : BitVec 2} (h : InRegion d off n al i want) :
    d.regionAt off n = some i := by
  obtain ⟨-, -, hi, hstate, hwant, hlo, hhi, hfirst⟩ := h
  refine List.find?_range_eq_some.mpr ⟨?_, List.mem_range.mpr hi, fun j hj => ?_⟩
  · simp only [Region.covers, Bool.and_eq_true, bne_iff_ne, decide_eq_true_eq]
    exact ⟨hstate ▸ hwant, hlo, hhi⟩
  · have hno := hfirst j hj
    simp only [Region.covers, Bool.not_eq_true', Bool.and_eq_false_iff, bne_eq_false_iff_eq, decide_eq_false_iff_not]
    by_cases hz : (d.region j).state = 0
    · exact .inl hz
    · exact .inr fun h => hno ⟨hz, h⟩

theorem weightFault_eq_none {d : ComputeDie} {off n al i : Nat} {want : BitVec 2} (h : InRegion d off n al i want) :
    d.weightFault off n al want = none := by
  have hat := regionAt_of_inRegion h
  obtain ⟨hsize, hal, -, hstate, -⟩ := h
  refine (if_neg (Nat.not_lt.mpr hsize)).trans ((if_neg (not_not.mpr hal)).trans ?_)
  rw [hat]
  exact if_neg (not_not.mpr hstate)

/-! ### Instructions on the weight store (R230, R232 to R234) -/

theorem weightInstructions : Claims.WeightInstructions := by
  intro f s sid r sh die d k off
  have hsid (i : Instr) : (issueOf s i sid r).sid = sid := rfl
  have hact (i : Instr) : (issueOf s i sid r).act = acts s i sid r := rfl
  have hdie : dieOf (coreOf sid) = die := rfl
  refine ⟨fun hi hall => ?_, fun hi hall => ?_, fun i hi hne => ?_⟩
  · have hk : f.mod 0 2 = f.xmod.toNat % 4 := fieldsMod_zero f 2
    have hbad : (acts s (.ldw f) sid r).filter (fun t => (d.weightFault (off t).toNat (4 * k) (4 * k) 2).isSome) = [] := by
      refine List.filter_eq_nil_iff.mpr fun t ht => ?_
      obtain ⟨i, hin⟩ := hall t ht
      rw [weightFault_eq_none hin]
      exact Bool.false_ne_true
    refine goes_of_done hi rfl ?_
    simp only [hsid, hact, hk]
    split
    · next heq => exact (List.cons_ne_nil _ _ (heq.symm.trans hbad)).elim
    · rfl
  · refine goes_of_done hi rfl ((if_neg ?_).trans ?_)
    · rw [List.any_eq_true]
      rintro ⟨t, ht, hbig⟩
      exact absurd (hall t ht) (Nat.not_lt.mpr (of_decide_eq_true hbig))
    · have hcat (g : Region) : cat [(g.state.toNat, 2), (b2n g.short, 1), (0, 5), (g.pend.toNat, 24)] =
          g.state.toNat * 2 ^ 30 + g.short.toNat * 2 ^ 29 + g.pend.toNat := by
        have h1 : g.state.toNat % 2 ^ 2 = g.state.toNat := Nat.mod_eq_of_lt g.state.isLt
        have h2 : g.pend.toNat % 2 ^ 24 = g.pend.toNat := Nat.mod_eq_of_lt g.pend.isLt
        have h3 : b2n g.short % 2 ^ 1 = g.short.toNat := by cases g.short <;> rfl
        simp only [cat, h1, h2, h3, List.map_cons, List.map_nil, List.sum_cons, List.sum_nil]
        ring
      simp only [hsid, hact, hcat]
      rfl
  · intro ld o n hpos hle hmod hin s1 s2 fill
    refine goes_of_done hi rfl ((if_neg hne).trans ((if_neg ?_).trans ?_))
    · rintro (h | h)
      · exact absurd h hpos.ne'
      · exact absurd hle (Nat.not_le.mpr h)
    · have hsub : (if 2 ^ 30 < o + n then some 1 else if n % 64 ≠ 0 then some 2 else d.weightFault o n 64 1) = none :=
        (if_neg (Nat.not_lt.mpr hin.1)).trans ((if_neg (not_not.mpr hmod)).trans (weightFault_eq_none hin))
      simp only [hsid]
      split
      · next heq => exact absurd (hsub.symm.trans heq) nofun
      · have hat : (d.regionAt o n).getD 0 = i := by rw [regionAt_of_inRegion hin]; rfl
        have hrun : s.run sid = r := by rw [State.run, hi.run]; rfl
        rw [show ((s.die (dieOf (coreOf sid))).regionAt (((s.sheaf sid).read f.imm (issueOf s (.wstFill f) sid r).lead f.b).toNat)
          (((s.sheaf sid).read f.imm (issueOf s (.wstFill f) sid r).lead f.c).toNat)).getD 0 = i from hat, hrun]
        rfl

/-! ### Fills (R232) -/

theorem fillProgress : Claims.FillProgress := by
  intro s s' die k q bs po hq hheld hstuck hbar hload s1 s2 rest s3
  have hconsume : s.consuming q.sid q.gen q.thread q.bar = false := List.any_eq_false.mpr fun p _ => by
    rw [hbar, decide_eq_false (Nat.not_lt_zero _)]
    exact Bool.false_ne_true
  have hmay : s.mayFill die k q = true := by
    unfold State.mayFill State.onHold State.awaitsReplay
    rw [hheld, hstuck, hconsume]
    rfl
  have hread : s.engineLoad q.engine q.ctx q.va.toNat 64 q.priv = .ok (bs, po, s') := by
    unfold State.engineLoad
    rw [show s.devLoad q.ctx q.va.toNat 64 q.priv (some q.engine.core) = (.ok (bs, po), s') from hload]
  show execWeightFillBytesWritten die k s = _
  unfold execWeightFillBytesWritten
  rw [hq]
  refine congrArg Host.Outcome.next ((if_neg (not_false_of hmay)).trans ?_)
  rw [hread]

/-! ### Transitions of a region (R227, R228) -/

/-- A seal or a reopening that waits takes place where its condition holds (R228). -/
theorem settleRegion_none {s : State} {die i : Nat} (h : ((s.die die).region i).wait = none) : s.settleRegion die i = s := by
  unfold State.settleRegion
  dsimp only
  rw [h]

theorem settleRegion_seal {s : State} {die i : Nat} (h : ((s.die die).region i).wait = some .seal) :
    s.settleRegion die i = if ((s.die die).region i).pend = 0 then
      s.modRegion die i fun r => { r with state := if r.state = 3 then 3 else 2, wait := none } else s := by
  unfold State.settleRegion
  dsimp only
  rw [h]

theorem settleRegion_reopen {s : State} {die i : Nat} (h : ((s.die die).region i).wait = some .reopen)
    (hbusy : s.readsWeights die ((s.die die).region i).range.1 ((s.die die).region i).range.2 = false) :
    s.settleRegion die i = (s.expireBytes die i).modRegion die i fun r => r.opened s.now := by
  unfold State.settleRegion
  dsimp only
  rw [h, hbusy]
  rfl

theorem settleRegion_release {s : State} {die i : Nat} (h : ((s.die die).region i).wait = some .release)
    (hbusy : s.readsWeights die ((s.die die).region i).range.1 ((s.die die).region i).range.2 = false)
    (hpend : ((s.die die).region i).pend = 0) :
    s.settleRegion die i = (s.modRegion die i fun r => { r with state := 0, wait := none }).dropRegion die ((s.die die).region i) := by
  unfold State.settleRegion
  dsimp only
  rw [h, hbusy]
  exact if_neg (not_or.mpr ⟨Bool.false_ne_true, not_not.mpr hpend⟩)

/-- An unused region is opened with what the write names. -/
theorem opens_unused {s : State} {die i v : Nat} (hheed : Heeded s die i v 1) (hstate : ((s.die die).region i).state = 0)
    (hwait : ((s.die die).region i).wait = none) :
    exec (.regionOpen die i v) s = .next (s.modRegion die i fun r =>
      let n := regionOf r v
      let until_ := if n.short then BitVec.ofNat 64 (s.now + n.life.toNat * 1000) else r.deadline
      { n with state := 1, wait := none, pend := 0, deadline := until_ }) := by
  refine congrArg Host.Outcome.next ((if_neg ?_).trans ((if_neg ?_).trans ?_))
  · rintro (h | h)
    · exact Bool.noConfusion (hheed.symm.trans h)
    · exact absurd (hstate.symm.trans h) (by decide)
  · exact fun h => absurd (hstate.symm.trans h) (by decide)
  · rw [if_neg fun h => absurd (hstate.symm.trans h) (by decide)]
    refine modRegion_congr ?_
    rw [if_pos hstate, hwait]
    rfl

/-- A region that has been opened again: its bytes stand unless it is short-lived (R228). -/
theorem opened_again {s q : State} {die i : Nat} {w : Option RegionWait} (f : Region → Region)
    (hq : (q.die die).region i = { (s.die die).region i with wait := w } ∧ (q.die die).bytes = (s.die die).bytes)
    (hf : f ((q.die die).region i) = ((s.die die).region i).opened s.now)
    (hwait : ((s.die die).region i).wait = none) :
    let g := (s.die die).region i
    let t := (q.expireBytes die i).modRegion die i f
    (t.die die).region i = { g with
      state := 1, deadline := if g.short then BitVec.ofNat 64 (s.now + g.life.toNat * 1000) else g.deadline } ∧
      (g.short = false → (t.die die).bytes = (s.die die).bytes) := by
  obtain ⟨hregion, hbytes⟩ := hq
  intro g t
  refine ⟨?_, fun hshort => ?_⟩
  · rw [region_modRegion, region_expireBytes, hf]
    unfold Region.opened
    rw [← hwait]
  · rw [bytes_modRegion, bytes_expireBytes (by rw [hregion]; exact hshort), hbytes]

theorem regionTransitions : Claims.RegionTransitions := by
  intro s die i v d g busy
  have hsealed (hwait : g.wait = none) : ((s.modRegion die i fun r => if r.wait.isSome then r else { r with wait := some .seal }).die
      die).region i = { g with wait := some .seal } := by
    rw [region_modRegion]
    exact if_neg (by rw [show ((s.die die).region i).wait = none from hwait]; exact Bool.false_ne_true)
  have hseal (hheed : Heeded s die i v 2) (hstate : g.state = 1) (hwait : g.wait = none) :
      exec (.regionSeal die i v) s = .next ((s.modRegion die i fun r =>
        if r.wait.isSome then r else { r with wait := some .seal }).settleRegion die i) := by
    refine congrArg Host.Outcome.next (if_neg ?_)
    rintro (h | h | h)
    · exact Bool.noConfusion (hheed.symm.trans h)
    · exact h hstate
    · exact absurd (hwait.symm.trans h) nofun
  refine ⟨opens_unused, fun hheed hwait hstate => ?_, fun hheed hstate hwait hpend => ?_, fun hheed hstate hwait hpend => ?_,
    fun hheed hstate hpend hbusy => ?_, fun hshort hstate hdue => ?_⟩
  · rcases hstate with ⟨hstate, hbusy⟩ | hstate
    · let s1 := s.modRegion die i fun r => if r.wait.isSome then r else { r with wait := some .reopen }
      have hregion : (s1.die die).region i = { g with wait := some .reopen } := by
        rw [region_modRegion]
        exact if_neg (by rw [show ((s.die die).region i).wait = none from hwait]; exact Bool.false_ne_true)
      have hbusy1 : s1.readsWeights die ((s1.die die).region i).range.1 ((s1.die die).region i).range.2 = false := by
        rw [hregion, readsWeights_modRegion]
        exact hbusy
      have hexec : exec (.regionOpen die i v) s = .next (s1.settleRegion die i) := by
        refine congrArg Host.Outcome.next ((if_neg ?_).trans (if_pos hstate))
        rintro (h | h)
        · exact Bool.noConfusion (hheed.symm.trans h)
        · exact absurd (hstate.symm.trans h) (by decide)
      rw [hexec, settleRegion_reopen (by rw [hregion]) hbusy1]
      exact ⟨_, rfl, opened_again (fun r => r.opened s.now) ⟨hregion, bytes_modRegion ..⟩ (by rw [hregion]; rfl) hwait⟩
    · have hsame : regionOf g v = g := regionOf_of_heeded hheed (by rw [hstate]; decide)
      have hopened : { (regionOf g v).opened s.now with wait := if g.wait = some .reopen then none else g.wait } = g.opened s.now := by
        rw [hsame, hwait]
        rfl
      have hexec : exec (.regionOpen die i v) s = .next ((s.expireBytes die i).modRegion die i fun r =>
          let n := { (regionOf r v).opened s.now with wait := if r.wait = some .reopen then none else r.wait }
          if r.state = 0 then { n with pend := 0 } else n) := by
        refine congrArg Host.Outcome.next ((if_neg ?_).trans ((if_neg ?_).trans ?_))
        · rintro (h | h)
          · exact Bool.noConfusion (hheed.symm.trans h)
          · exact absurd (hstate.symm.trans h) (by decide)
        · exact fun h => absurd (hstate.symm.trans h) (by decide)
        · rw [if_pos hstate]
      have hzero : g.state ≠ 0 := by rw [hstate]; decide
      exact ⟨_, hexec, opened_again _ ⟨rfl, rfl⟩ ((if_neg hzero).trans hopened) hwait⟩
  · refine ⟨_, hseal hheed hstate hwait, ?_⟩
    rw [settleRegion_seal (by rw [hsealed hwait]), if_pos (by rw [hsealed hwait]; exact hpend), region_modRegion, hsealed hwait]
    rw [if_neg (by rw [show ((s.die die).region i).state = 1 from hstate]; decide)]
  · refine ⟨_, hseal hheed hstate hwait, ?_⟩
    rw [settleRegion_seal (by rw [hsealed hwait]), if_neg (by rw [hsealed hwait]; exact hpend), hsealed hwait]
  · let s1 := s.modRegion die i fun r => { r with wait := some .release }
    have hregion : (s1.die die).region i = { g with wait := some .release } := region_modRegion ..
    have hexec : exec (.regionRelease die i v) s = .next (s1.settleRegion die i) :=
      congrArg Host.Outcome.next ((if_neg fun h => Bool.noConfusion (hheed.symm.trans h)).trans (if_neg hstate))
    have hbusy1 : s1.readsWeights die ((s1.die die).region i).range.1 ((s1.die die).region i).range.2 = false := by
      rw [hregion, readsWeights_modRegion]
      exact hbusy
    refine ⟨_, hexec, ?_⟩
    rw [settleRegion_release (by rw [hregion]) hbusy1 (by rw [hregion]; exact hpend)]
    refine ⟨by rw [region_dropRegion, region_modRegion], fun p hp => ?_⟩
    unfold State.dropRegion at hp
    rw [State.die_modDie, hregion] at hp
    exact of_decide_eq_true (List.mem_filter.mp hp).2
  · refine ⟨_, congrArg Host.Outcome.next (if_pos ⟨hshort, hstate, hdue⟩), ?_⟩
    rw [region_modRegion]

theorem refusedRegionWrites : Claims.RefusedRegionWrites := by
  intro s die i v t
  refine ⟨fun h => ?_, fun h => ?_, fun h => ?_⟩
  · exact congrArg Host.Outcome.next (if_pos (.inl (Bool.of_not_eq_false h)))
  · exact congrArg Host.Outcome.next (if_pos (.inl (Bool.of_not_eq_false h)))
  · exact congrArg Host.Outcome.next (if_pos (Bool.of_not_eq_false h))

/-! ### Refresh and retention (R229, R231) -/

theorem refreshAndRetention : Claims.RefreshAndRetention := by
  refine ⟨fun s die bank i hi hfree hstate hshort hlo hhi => ?_, ?_⟩
  · refine congrArg Host.Outcome.next (if_pos ⟨?_, ?_⟩)
    · split
      · next heq => exact decide_eq_true (hfree _ heq)
      · rfl
    · refine List.any_eq_true.mpr ⟨i, List.mem_range.mpr hi, ?_⟩
      simp only [Bool.and_eq_true, bne_iff_ne, Bool.not_eq_true', decide_eq_true_eq]
      exact ⟨⟨hstate, hshort⟩, hlo, hhi⟩
  · intro s o op f l i die n hop hinstr hlanes hdone hfresh hbar hat hshort hdue
    have hk : f.mod 0 2 = f.xmod.toNat % 4 := fieldsMod_zero f 2
    have hcode : s.weightBad die l.va.toNat n = some 0x12 := by
      unfold State.weightBad
      dsimp only
      rw [hat]
      refine if_pos ?_
      dsimp only
      rw [hshort, decide_eq_true hdue]
      rfl
    have hwaits : s.ldwWaits o op n = false := by
      unfold State.ldwWaits
      rw [hlanes]
      simp only [List.any_cons, List.any_nil, hdone, hbar]
      rw [show s.refreshing (dieOf op.core) l.va.toNat n = false from hfresh]
      rfl
    show execRetentionExpiredFault o s = _
    unfold execRetentionExpiredFault
    rw [hop]
    dsimp only
    rw [hinstr]
    refine congrArg Host.Outcome.next ?_
    unfold State.expireLdw
    dsimp only
    rw [hk]
    refine (if_neg fun h => Bool.noConfusion (hwaits.symm.trans h)).trans ?_
    have hbad : op.lanes.filter (fun l => !l.done && (s.weightBad (dieOf op.core) l.va.toNat n).isSome) = [l] := by
      rw [hlanes]
      refine List.filter_cons_of_pos ?_
      rw [hdone, show s.weightBad (dieOf op.core) l.va.toNat n = some 0x12 from hcode]
      rfl
    rw [hbad]
    dsimp only
    rw [show s.weightBad (dieOf op.core) l.va.toNat (4 * wideRegs (f.xmod.toNat % 4)) = some 0x12 from hcode]
    rfl

/-- Settles O22. -/
theorem weightStore : Obligations.WeightStore := by
  unfold Obligations.WeightStore
  exact ⟨weightInstructions, fillProgress, regionTransitions, refusedRegionWrites, refreshAndRetention⟩

end Sys2Proof.Laws

/-! SUPPORT. O24: the Haar domain. -/
namespace Sys2Proof.Laws
open Machine

/-! ### Thresholds (R253) -/

/-- A word below 2^16 has no high half. -/
theorem high_eq_zero {x : Nat} (h : x < 2 ^ 16) : bits x 16 16 = 0 := by
  unfold bits
  rw [Nat.div_eq_of_lt h, Nat.zero_mod]

theorem thresholdRegisters : Claims.ThresholdRegisters := by
  intro f s sid r sh w n hn
  have hk : f.mod 0 3 = n := fieldsMod_zero f 3
  refine ⟨fun hi hne => ?_, fun hi hlev => ?_⟩
  · intro ld l v hl hv levels
    refine goes_of_done hi rfl ?_
    dsimp only
    rw [hk]
    refine (if_neg (Nat.not_le.mpr hn)).trans ((if_neg hne).trans ((if_neg ?_).trans rfl))
    rintro (h | h)
    · exact absurd hl (Nat.not_le.mpr h)
    · exact h (high_eq_zero hv)
  · refine goes_of_done hi rfl ?_
    dsimp only
    rw [hk]
    refine (if_neg ?_).trans rfl
    rintro (h | h)
    · exact absurd h (Nat.not_le.mpr hn)
    · obtain ⟨t, ht, hbad⟩ := List.any_eq_true.mp h
      obtain ⟨hlow, hhigh⟩ := hlev t ht
      rcases of_decide_eq_true hbad with hbad | hbad
      · exact absurd hbad (Nat.one_le_iff_ne_zero.mp hlow)
      · exact absurd hhigh (Nat.not_le.mpr hbad)

/-! ### Room in the lift unit and in a tile's order (R204, R246) -/

theorem liftRoom_of {s : State} {c n : Nat} (h : (s.core c).jobs.length + n ≤ 4) : s.liftRoom c n = true := decide_eq_true h

theorem accRoom_of {a : Acc} {n : Nat} (h : a.order.length + n ≤ 7) : a.room n = true := decide_eq_true h

/-- Both rooms are there. -/
theorem not_roomless {a b : Bool} (ha : a = true) (hb : b = true) : ¬ ((!a) = true ∨ (!b) = true) :=
  not_or.mpr ⟨not_false_of ha, not_false_of hb⟩

/-! ### `hfwd` and `hinv` (R252) -/

section
variable {f : Fields} {s : State} {sid : Nat} {r : ClauseRun}

theorem hfwd_accepted (hi : Issues s (.hfwd f) sid r) (hne : acts s (.hfwd f) sid r ≠ [])
    (hn : f.d.toNat < (s.wg (s.sheaf sid).wg).acc.length) :
    let x := (s.sheaf sid).read f.imm ((acts s (.hfwd f) sid r).headD 0) f.a
    let a := s.acc (s.sheaf sid).wg f.d.toNat
    x.toNat < 2 ^ 16 → tagAxis (x.extractLsb' 0 16) ≠ 0 →
      accTagOk (x.extractLsb' 0 16) (s.wg (s.sheaf sid).wg).desc.thresh = true →
    (tagAxis a.dom = 0 → (s.core (sid / 64)).jobs.length < 4 → a.order.length < 7 →
      Goes s (.hfwd f) sid (s.accJob sid (s.sheaf sid).wg f.d.toNat .hfwd (x.extractLsb' 0 16) (x.extractLsb' 0 16))) ∧
    (tagAxis a.dom ≠ 0 → (s.core (sid / 64)).jobs.length < 3 → a.order.length < 6 →
      Goes s (.hfwd f) sid ((s.accJob sid (s.sheaf sid).wg f.d.toNat .forced a.dom 0).accJob sid (s.sheaf sid).wg f.d.toNat .hfwd
        (x.extractLsb' 0 16) (x.extractLsb' 0 16))) := by
  intro x a hx haxis hok
  have hlegal : ¬ (bits x.toNat 16 16 ≠ 0 ∨ tagAxis (x.extractLsb' 0 16) = 0 ∨
      (!accTagOk (x.extractLsb' 0 16) (s.wg (s.sheaf sid).wg).desc.thresh) = true) := by
    rintro (h | h | h)
    · exact h (high_eq_zero hx)
    · exact haxis h
    · exact not_false_of hok h
  have hsid : (issueOf s (.hfwd f) sid r).sid = sid := rfl
  refine ⟨fun hplain hroom horder => ?_, fun hhaar hroom horder => ?_⟩
  · refine goes_of_done hi rfl ((accOp_of_tile hn hne).trans ((if_neg hlegal).trans ?_))
    simp only [hsid]
    rw [if_pos (show tagAxis (s.acc (s.wgOf sid) f.d.toNat).dom = 0 from hplain)]
    exact if_neg (not_roomless (liftRoom_of hroom) (accRoom_of horder))
  · refine goes_of_done hi rfl ((accOp_of_tile hn hne).trans ((if_neg hlegal).trans ?_))
    simp only [hsid]
    rw [if_neg (show ¬ tagAxis (s.acc (s.wgOf sid) f.d.toNat).dom = 0 from hhaar)]
    exact if_neg (not_roomless (liftRoom_of (Nat.add_le_add_right (Nat.le_of_lt_succ hroom) 2))
      (accRoom_of (Nat.add_le_add_right (Nat.le_of_lt_succ horder) 2)))

theorem hinv_of_acc (hi : Issues s (.hinv f) sid r) (hne : acts s (.hinv f) sid r ≠ []) (hacc : f.xmod.toNat % 2 = 1)
    (hn : f.d.toNat < (s.wg (s.sheaf sid).wg).acc.length) :
    let a := s.acc (s.sheaf sid).wg f.d.toNat
    (tagAxis a.dom = 0 → Goes s (.hinv f) sid s) ∧
    (tagAxis a.dom ≠ 0 → (s.core (sid / 64)).jobs.length < 4 → a.order.length < 7 →
      Goes s (.hinv f) sid (s.accJob sid (s.sheaf sid).wg f.d.toNat .hinv a.dom 0)) := by
  have hbit : f.mod 0 1 = 1 := (fieldsMod_zero f 1).trans hacc
  refine ⟨fun hplain => ?_, fun hhaar hroom horder => ?_⟩
  · exact goes_of_done hi rfl ((if_pos hbit).trans ((accOp_of_tile hn hne).trans (if_pos hplain)))
  · exact goes_of_done hi rfl ((if_pos hbit).trans ((accOp_of_tile hn hne).trans ((if_neg hhaar).trans
      (if_neg (not_roomless (liftRoom_of hroom) (accRoom_of horder))))))

/-- A tile that is ready does not make its word wait. -/
theorem untilReady_eq_none {is : Issue} {q : State} {w n : Nat} (h : (q.tile w n).state = .ready) : is.untilReady q w n = none := by
  unfold Issue.untilReady
  rw [h]

theorem hinv_of_tile (hi : Issues s (.hinv f) sid r) (hne : acts s (.hinv f) sid r ≠ []) (htile : f.xmod.toNat % 2 = 0)
    (hn : f.d.toNat < (s.wg (s.sheaf sid).wg).tiles.length) :
    let q := s.flushScratch (sid / 64) false
    let t := q.tile (s.sheaf sid).wg f.d.toNat
    Settled s (sid / 64) false → t.state = .ready → t.uses = 0 →
    (tagAxis t.dom = 0 → Goes s (.hinv f) sid q) ∧
    (tagAxis t.dom ≠ 0 → (q.core (sid / 64)).jobs.length < 4 →
      Goes s (.hinv f) sid (q.tileJob sid (s.sheaf sid).wg f.d.toNat .hinv t.dom)) := by
  intro q t hset hready huses
  have hbit : ¬ f.mod 0 1 = 1 := by
    rw [show f.mod 0 1 = 0 from (fieldsMod_zero f 1).trans htile]
    decide
  have hnone : (issueOf s (.hinv f) sid r).untilReady q (s.sheaf sid).wg f.d.toNat = none := untilReady_eq_none hready
  refine ⟨fun hplain => ?_, fun hhaar hroom => ?_⟩
  · refine goes_of_done hi rfl ((if_neg hbit).trans ((tileOp_of_settled hn hne hset rfl rfl rfl).trans ?_))
    rw [hnone]
    exact (if_neg (not_not.mpr huses)).trans (if_pos hplain)
  · refine goes_of_done hi rfl ((if_neg hbit).trans ((tileOp_of_settled hn hne hset rfl rfl rfl).trans ?_))
    rw [hnone]
    exact (if_neg (not_not.mpr huses)).trans ((if_neg hhaar).trans (if_neg (not_false_of (liftRoom_of hroom))))

/-! ### `hbias` (R254) -/

/-- Two functions that agree on a tile of a workgroup change it alike. -/
theorem modAcc_congr {w n : Nat} {g h : Acc → Acc} (heq : g (s.acc w n) = h (s.acc w n)) : s.modAcc w n g = s.modAcc w n h := by
  unfold State.modAcc State.modWg
  refine congrArg (fun t => { s with wgs := t }) (tab_mod_congr fun x hx => ?_)
  have hwg : s.wg w = x := congrArg (·.getD default) hx
  refine congrArg (fun l => { x with acc := l }) (List.ext_getElem? fun j => ?_)
  unfold modAt
  rw [List.getElem?_modify, List.getElem?_modify]
  split
  · next hj =>
    subst hj
    cases hget : x.acc[n]? with
    | none => rfl
    | some a =>
      have hacc : s.acc w n = a := by rw [State.acc, hwg, List.getD_eq_getElem?_getD, hget]; rfl
      rw [hacc] at heq
      exact congrArg some heq
  · rfl

theorem hbias_of_settled (hi : Issues s (.hbias f) sid r) (hne : acts s (.hbias f) sid r ≠ [])
    (hn : f.d.toNat < (s.wg (s.sheaf sid).wg).acc.length) :
    let w := (s.sheaf sid).wg
    let a := s.acc w f.d.toNat
    let int := f.xmod.toNat % 2 == 1
    r.place = none → (tagAxis a.dom = 0 ∨ tagInt a.dom = int) → a.order = [] →
    Goes s (.hbias f) sid (s.modAcc w f.d.toNat fun a => (acts s (.hbias f) sid r).foldl (fun a t =>
      a.bias (s.acc w f.d.toNat).dom int (((s.sheaf sid).read f.imm t f.b).toNat % 64) ((s.sheaf sid).read f.imm t f.a)) a) := by
  intro w a int hplace htag horder
  have hrun : s.run sid = r := by rw [State.run, hi.run]; rfl
  have hint : (f.mod 0 1 == 1) = int := congrArg (· == 1) (fieldsMod_zero f 1)
  have hsid : (issueOf s (.hbias f) sid r).sid = sid := rfl
  refine goes_of_done hi rfl ((accOp_of_tile hn hne).trans ?_)
  simp only [hsid, hint]
  rw [hrun, hplace]
  refine (if_neg ?_).trans ((if_neg (not_not.mpr horder)).trans ?_)
  · rintro ⟨haxis, hdiff⟩
    exact htag.elim haxis fun h => hdiff h.symm
  · exact congrArg Result.done (modAcc_congr List.foldl_map)

theorem hbias_of_place {o : Nat} (hi : Issues s (.hbias f) sid r) (hne : acts s (.hbias f) sid r ≠ [])
    (hn : f.d.toNat < (s.wg (s.sheaf sid).wg).acc.length) (hplace : r.place = some o) (hgone : s.ops.get o = none) :
    Goes s (.hbias f) sid s := by
  have hrun : s.run sid = r := by rw [State.run, hi.run]; rfl
  have hsid : (issueOf s (.hbias f) sid r).sid = sid := rfl
  refine goes_of_done hi rfl ((accOp_of_tile hn hne).trans ?_)
  simp only [hsid]
  rw [hrun, hplace]
  exact if_neg (by rw [hgone]; exact Bool.false_ne_true)

/-! ### `hmask` (R255) -/

/-- The number whose bits below `n` are `b`. -/
theorem testBit_bitSum (b : Nat → Bool) (n i : Nat) :
    (((List.range n).map fun i => if b i then 2 ^ i else 0).sum).testBit i = (decide (i < n) && b i) ∧
      ((List.range n).map fun i => if b i then 2 ^ i else 0).sum < 2 ^ n := by
  induction n generalizing i with
  | zero => simp
  | succ n ih =>
    have hlt := (ih 0).2
    have hsum : ((List.range (n + 1)).map fun i => if b i then 2 ^ i else 0).sum =
        2 ^ n * (b n).toNat + ((List.range n).map fun i => if b i then 2 ^ i else 0).sum := by
      rw [List.range_succ, List.map_append, List.sum_append, Nat.add_comm]
      cases h : b n <;> simp [h]
    rw [hsum]
    refine ⟨?_, ?_⟩
    · rw [Nat.testBit_two_pow_mul_add _ hlt]
      split
      · next h => rw [(ih i).1, decide_eq_true h, decide_eq_true (Nat.lt_succ_of_lt h)]
      · next h =>
        rcases Nat.eq_or_lt_of_le (Nat.not_lt.mp h) with h | h
        · subst h
          rw [Nat.sub_self, decide_eq_true (Nat.lt_succ_self n)]
          cases b n <;> rfl
        · rw [decide_eq_false (Nat.not_lt.mpr h)]
          exact Nat.testBit_lt_two_pow ((Bool.toNat_le _).trans_lt (Nat.one_lt_two_pow (Nat.sub_ne_zero_of_lt h)))
    · cases b n <;> simp [pow_succ] <;> omega

/-- A word of a survivor mask. -/
theorem maskWord_eq {m : BitVec 512} {k : Nat} (hk : k < 16) :
    maskWord (fun j => m.getLsbD j) 512 k = m.extractLsb' (32 * k) 32 := by
  refine BitVec.eq_of_getLsbD_eq fun i hi => ?_
  have hin : 32 * k + i < 512 := by omega
  have hsum := (testBit_bitSum (fun j => decide (32 * k + j < 512) && m.getLsbD (32 * k + j)) 32 i).1
  simp only [Bool.and_eq_true, decide_eq_true_eq, hi, hin, decide_true, Bool.true_and] at hsum
  unfold maskWord
  rw [BitVec.getLsbD_ofNat, BitVec.getLsbD_extractLsb', decide_eq_true hi, Bool.true_and, Bool.true_and, hsum]

/-- A read of a mask in a spatial tile gives 0 (R255). -/
theorem maskRead_spatial {spatial : Bool} {bit : Nat → Bool} {n : Nat} {i : Instr} {q : State} (hspatial : spatial = true) :
    maskRead f spatial bit n (issueOf s i sid r) q =
      .done (q.writeLanes sid f.d 1 ((acts s i sid r).map fun t => ⟨t, [(0, (q.sheaf sid).taintOf t f.a)], 0⟩)) := by
  have hlegal : ¬ ((!spatial) = true ∧
      (acts s i sid r).any (fun t => ceilDiv n 32 ≤ ((q.sheaf sid).read f.imm t f.a).toNat) = true) :=
    fun h => not_false_of hspatial h.1
  refine (if_neg hlegal).trans ?_
  subst hspatial
  rfl

theorem maskRead_haar {spatial : Bool} {bit : Nat → Bool} {n : Nat} {i : Instr} {q : State} (hhaar : spatial = false)
    (h : ∀ t ∈ acts s i sid r, ((q.sheaf sid).read f.imm t f.a).toNat * 32 < n) :
    maskRead f spatial bit n (issueOf s i sid r) q = .done (q.writeLanes sid f.d 1 ((acts s i sid r).map fun t =>
      ⟨t, [(maskWord bit n ((q.sheaf sid).read f.imm t f.a).toNat, (q.sheaf sid).taintOf t f.a)], 0⟩)) := by
  subst hhaar
  refine if_neg ?_
  rintro ⟨-, hany⟩
  obtain ⟨t, ht, hbad⟩ := List.any_eq_true.mp hany
  have hlt := h t ht
  have hle : (n + 32 - 1) / 32 ≤ ((q.sheaf sid).read f.imm t f.a).toNat := of_decide_eq_true hbad
  omega

theorem hmask_of_acc (hi : Issues s (.hmask f) sid r) (hne : acts s (.hmask f) sid r ≠ []) (hacc : f.xmod.toNat % 2 = 1)
    (hn : f.b.toNat < (s.wg (s.sheaf sid).wg).acc.length) :
    let w := (s.sheaf sid).wg
    let b := s.acc w f.b.toNat
    (f.xmod.toNat / 2 % 2 = 1 → tagAxis b.dom ≠ 0 → (s.core (sid / 64)).jobs.length < 4 → b.order.length < 7 →
      Goes s (.hmask f) sid (s.accJob sid w f.b.toNat .hmaskUpd b.dom b.dom)) ∧
    (f.xmod.toNat / 2 % 2 = 1 → tagAxis b.dom = 0 → Goes s (.hmask f) sid s) ∧
    (f.xmod.toNat / 2 % 2 = 0 → b.order = [] → tagAxis b.dom = 0 →
      Goes s (.hmask f) sid (s.writeLanes sid f.d 1 ((acts s (.hmask f) sid r).map fun t =>
        ⟨t, [(0, (s.sheaf sid).taintOf t f.a)], 0⟩))) ∧
    (f.xmod.toNat / 2 % 2 = 0 → b.order = [] → tagAxis b.dom ≠ 0 →
      (∀ t ∈ acts s (.hmask f) sid r, ((s.sheaf sid).read f.imm t f.a).toNat < 16) →
      Goes s (.hmask f) sid (s.writeLanes sid f.d 1 ((acts s (.hmask f) sid r).map fun t =>
        ⟨t, [(b.mask.extractLsb' (32 * ((s.sheaf sid).read f.imm t f.a).toNat) 32, (s.sheaf sid).taintOf t f.a)], 0⟩))) := by
  intro w b
  have hbit : f.mod 0 1 = 1 := (fieldsMod_zero f 1).trans hacc
  have hupd (h : f.xmod.toNat / 2 % 2 = 1) : (f.mod 1 1 == 1) = true := beq_iff_eq.mpr h
  have hread (h : f.xmod.toNat / 2 % 2 = 0) : ¬ (f.mod 1 1 == 1) = true := by
    rw [beq_iff_eq]
    exact fun h1 => absurd (h.symm.trans h1) (by decide)
  refine ⟨fun hu haxis hroom horder => ?_, fun hu haxis => ?_, fun hu horder haxis => ?_, fun hu horder haxis hidx => ?_⟩
  · exact goes_of_done hi rfl ((if_pos hbit).trans ((accOp_of_tile hn hne).trans ((if_pos (hupd hu)).trans ((if_neg haxis).trans
      (if_neg (not_roomless (liftRoom_of hroom) (accRoom_of horder)))))))
  · exact goes_of_done hi rfl ((if_pos hbit).trans ((accOp_of_tile hn hne).trans ((if_pos (hupd hu)).trans (if_pos haxis))))
  · refine goes_of_done hi rfl ((if_pos hbit).trans ((accOp_of_tile hn hne).trans ((if_neg (hread hu)).trans
      ((if_neg (not_not.mpr horder)).trans ?_))))
    exact maskRead_spatial (beq_iff_eq.mpr haxis)
  · refine goes_of_done hi rfl ((if_pos hbit).trans ((accOp_of_tile hn hne).trans ((if_neg (hread hu)).trans
      ((if_neg (not_not.mpr horder)).trans ?_))))
    refine (maskRead_haar (beq_eq_false_iff_ne.mpr haxis) fun t ht => ?_).trans (congrArg (fun l => Result.done (s.writeLanes sid f.d 1 l))
      (List.map_congr_left fun t ht => ?_))
    · have := hidx t ht
      omega
    · rw [maskWord_eq (hidx t ht)]
      rfl

theorem hmask_of_tile (hi : Issues s (.hmask f) sid r) (hne : acts s (.hmask f) sid r ≠ []) (htile : f.xmod.toNat % 2 = 0)
    (hn : f.b.toNat < (s.wg (s.sheaf sid).wg).tiles.length) :
    let w := (s.sheaf sid).wg
    let q := s.flushScratch (sid / 64) false
    let t := q.tile w f.b.toNat
    Settled s (sid / 64) false → t.state = .ready →
    (f.xmod.toNat / 2 % 2 = 1 → tagAxis t.dom ≠ 0 → (q.core (sid / 64)).jobs.length < 4 →
      Goes s (.hmask f) sid (q.tileJob sid w f.b.toNat .hmaskUpd t.dom)) ∧
    (f.xmod.toNat / 2 % 2 = 1 → tagAxis t.dom = 0 → Goes s (.hmask f) sid q) ∧
    (f.xmod.toNat / 2 % 2 = 0 → tagAxis t.dom = 0 →
      Goes s (.hmask f) sid (q.writeLanes sid f.d 1 ((acts s (.hmask f) sid r).map fun l =>
        ⟨l, [(0, (q.sheaf sid).taintOf l f.a)], 0⟩))) ∧
    (f.xmod.toNat / 2 % 2 = 0 → tagAxis t.dom ≠ 0 →
      (∀ l ∈ acts s (.hmask f) sid r, ((q.sheaf sid).read f.imm l f.a).toNat * 32 < t.maskBits) →
      Goes s (.hmask f) sid (q.writeLanes sid f.d 1 ((acts s (.hmask f) sid r).map fun l =>
        ⟨l, [(maskWord (q.maskBit w t) t.maskBits ((q.sheaf sid).read f.imm l f.a).toNat,
          (q.sheaf sid).taintOf l f.a)], 0⟩))) := by
  intro w q t hset hready
  have hbit : ¬ f.mod 0 1 = 1 := by
    rw [show f.mod 0 1 = 0 from (fieldsMod_zero f 1).trans htile]
    decide
  have hupd (h : f.xmod.toNat / 2 % 2 = 1) : (f.mod 1 1 == 1) = true := beq_iff_eq.mpr h
  have hread (h : f.xmod.toNat / 2 % 2 = 0) : ¬ (f.mod 1 1 == 1) = true := by
    rw [beq_iff_eq]
    exact fun h1 => absurd (h.symm.trans h1) (by decide)
  have hnone : (issueOf s (.hmask f) sid r).untilReady q w f.b.toNat = none := untilReady_eq_none hready
  refine ⟨fun hu haxis hroom => ?_, fun hu haxis => ?_, fun hu haxis => ?_, fun hu haxis hidx => ?_⟩
  · refine goes_of_done hi rfl ((if_neg hbit).trans ((tileOp_of_settled hn hne hset rfl rfl rfl).trans ?_))
    rw [hnone]
    exact (if_pos (hupd hu)).trans ((if_neg haxis).trans (if_neg (not_false_of (liftRoom_of hroom))))
  · refine goes_of_done hi rfl ((if_neg hbit).trans ((tileOp_of_settled hn hne hset rfl rfl rfl).trans ?_))
    rw [hnone]
    exact (if_pos (hupd hu)).trans (if_pos haxis)
  · refine goes_of_done hi rfl ((if_neg hbit).trans ((tileOp_of_settled hn hne hset rfl rfl rfl).trans ?_))
    rw [hnone]
    exact (if_neg (hread hu)).trans (maskRead_spatial (beq_iff_eq.mpr haxis))
  · refine goes_of_done hi rfl ((if_neg hbit).trans ((tileOp_of_settled hn hne hset rfl rfl rfl).trans ?_))
    rw [hnone]
    exact (if_neg (hread hu)).trans (maskRead_haar (beq_eq_false_iff_ne.mpr haxis) hidx)

/-! ### `sth` (R251) -/

theorem idle_of {t : Tile} (huses : t.uses = 0) (hstate : t.state = .empty ∨ t.state = .ready) : t.idle = true := by
  unfold Tile.idle
  rcases hstate with h | h <;> simp [h, huses]

theorem sth_of_acc (hi : Issues s (.sth f) sid r) (hne : acts s (.sth f) sid r ≠ [])
    (hn : f.d.toNat < (s.wg (s.sheaf sid).wg).tiles.length) (hacc : f.xmod.toNat % 2 = 1)
    (hsrc : f.a.toNat < (s.wg (s.sheaf sid).wg).acc.length) :
    let w := (s.sheaf sid).wg
    let n := f.d.toNat
    let q := s.flushScratch (sid / 64) false
    let t := q.tile w n
    let dom := (q.acc w f.a.toNat).dom
    Settled s (sid / 64) false → t.uses = 0 → (t.state = .empty ∨ t.state = .ready) → t.nrows ≤ 64 → t.ncols ≤ 64 →
    (tagAxis dom = 0 → (q.core (sid / 64)).jobs.length < 4 →
      Goes s (.sth f) sid ((SthJob q sid w n true f.a.toNat (q.wordPc sid) t.dom).readRows w f.a.toNat)) ∧
    (tagAxis dom ≠ 0 → (q.core (sid / 64)).jobs.length < 3 → (q.acc w f.a.toNat).order.length < 7 →
      Goes s (.sth f) sid ((SthJob (q.accJob sid w f.a.toNat .forced dom 0) sid w n true f.a.toNat (q.wordPc sid)
        t.dom).readRows w f.a.toNat)) := by
  intro w n q t dom hset huses hstate hrows hcols
  have hbit : (f.mod 0 1 == 1) = true := beq_iff_eq.mpr ((fieldsMod_zero f 1).trans hacc)
  have hidle := idle_of huses hstate
  have hshape : sthShape q w n f.a.toNat true = true := decide_eq_true ⟨hrows, hcols⟩
  have hsid : (issueOf s (.sth f) sid r).sid = sid := rfl
  refine ⟨fun haxis hroom => ?_, fun haxis hroom horder => ?_⟩
  · refine goes_of_done hi rfl ?_
    simp only [hbit, hsid, if_true]
    refine (if_neg (Nat.not_le.mpr hsrc)).trans ((tileOp_of_settled hn hne hset rfl rfl rfl).trans
      ((if_neg (not_false_of hidle)).trans ((if_neg (not_false_of hshape)).trans ?_)))
    rw [if_pos (show tagAxis (q.acc w f.a.toNat).dom = 0 from haxis)]
    refine (if_neg ?_).trans rfl
    rintro (h | h)
    · exact not_false_of (liftRoom_of hroom) h
    · exact absurd h.2.1 (by decide)
  · refine goes_of_done hi rfl ?_
    simp only [hbit, hsid, if_true]
    refine (if_neg (Nat.not_le.mpr hsrc)).trans ((tileOp_of_settled hn hne hset rfl rfl rfl).trans
      ((if_neg (not_false_of hidle)).trans ((if_neg (not_false_of hshape)).trans ?_)))
    rw [if_neg (show ¬ tagAxis (q.acc w f.a.toNat).dom = 0 from haxis)]
    refine (if_neg ?_).trans rfl
    rintro (h | h)
    · exact not_false_of (liftRoom_of (Nat.add_le_add_right (Nat.le_of_lt_succ hroom) 2)) h
    · exact not_false_of (accRoom_of horder) h.2.2

theorem sth_of_tile (hi : Issues s (.sth f) sid r) (hne : acts s (.sth f) sid r ≠ [])
    (hn : f.d.toNat < (s.wg (s.sheaf sid).wg).tiles.length) (htile : f.xmod.toNat % 2 = 0)
    (hsrc : f.a.toNat < (s.wg (s.sheaf sid).wg).tiles.length) :
    let w := (s.sheaf sid).wg
    let n := f.d.toNat
    let q := s.flushScratch (sid / 64) false
    let t := q.tile w n
    let u := q.tile w f.a.toNat
    Settled s (sid / 64) false → t.uses = 0 → (t.state = .empty ∨ t.state = .ready) → u.state = .ready → u.rows = t.rows →
      u.cols = t.cols → u.fmt.toNat ∈ [0, 1, 2, 8, 10, 11] →
    (tagAxis u.dom = 0 → (q.core (sid / 64)).jobs.length < 4 →
      Goes s (.sth f) sid ((SthJob q sid w n false f.a.toNat (q.wordPc sid) t.dom).useTile w f.a.toNat (· + 1))) ∧
    (tagAxis u.dom ≠ 0 → (q.core (sid / 64)).jobs.length < 3 →
      Goes s (.sth f) sid ((SthJob (q.tileJob sid w f.a.toNat .forced u.dom) sid w n false f.a.toNat (q.wordPc sid)
        t.dom).useTile w f.a.toNat (· + 1))) := by
  intro w n q t u hset huses hstate hready hrows hcols hfmt
  have hbit : (f.mod 0 1 == 1) = false := by
    rw [show f.mod 0 1 = 0 from (fieldsMod_zero f 1).trans htile]
    rfl
  have hidle := idle_of huses hstate
  have hshape : sthShape q w n f.a.toNat false = true := by
    unfold sthShape
    simp only [Bool.and_eq_true, beq_iff_eq, decide_eq_true_eq, Bool.false_eq_true, if_false]
    exact ⟨⟨hrows, hcols⟩, hfmt⟩
  have hsid : (issueOf s (.sth f) sid r).sid = sid := rfl
  have hnone : (issueOf s (.sth f) sid r).untilReady q w f.a.toNat = none := untilReady_eq_none hready
  refine ⟨fun haxis hroom => ?_, fun haxis hroom => ?_⟩
  · refine goes_of_done hi rfl ?_
    simp only [hbit, hsid, Bool.false_eq_true, if_false, false_and, or_false]
    refine (if_neg (Nat.not_le.mpr hsrc)).trans ((tileOp_of_settled hn hne hset rfl rfl rfl).trans
      ((if_neg (not_false_of hidle)).trans ?_))
    rw [hnone]
    refine (if_neg (not_false_of hshape)).trans ?_
    rw [if_pos (show tagAxis (q.tile w f.a.toNat).dom = 0 from haxis)]
    exact (if_neg (not_false_of (liftRoom_of hroom))).trans rfl
  · refine goes_of_done hi rfl ?_
    simp only [hbit, hsid, Bool.false_eq_true, if_false, false_and, or_false]
    refine (if_neg (Nat.not_le.mpr hsrc)).trans ((tileOp_of_settled hn hne hset rfl rfl rfl).trans
      ((if_neg (not_false_of hidle)).trans ?_))
    rw [hnone]
    refine (if_neg (not_false_of hshape)).trans ?_
    rw [if_neg (show ¬ tagAxis (q.tile w f.a.toNat).dom = 0 from haxis)]
    exact (if_neg (not_false_of (liftRoom_of (Nat.add_le_add_right (Nat.le_of_lt_succ hroom) 2)))).trans rfl

end

/-! ### Jobs of the lift unit (R246) -/

theorem nextJob_of {s : State} {core : Nat} {j : Job}
    (h : (s.core core).jobs.find? (fun j => j.grouped && j.rows != []) = some j ∨
      (∀ x ∈ (s.core core).jobs, x.grouped = true → x.rows = []) ∧
        (s.core core).jobs.find? (fun j => !s.onHold (s.wg j.wg).ctx j.held) = some j) : s.nextJob core = some j := by
  have hbegun : Job.begun = fun j => j.grouped && j.rows != [] := by
    funext j
    unfold Job.begun
    cases j.rows <;> rfl
  unfold State.nextJob
  rw [hbegun]
  rcases h with h | ⟨hnone, h⟩
  · rw [h]
    rfl
  · rw [List.find?_eq_none.mpr, h]
    · rfl
    · intro x hx hbad
      obtain ⟨hgrouped, hrows⟩ := Bool.and_eq_true_iff.mp hbad
      exact bne_iff_ne.mp hrows (hnone x hx hgrouped)

theorem liftJobs : Claims.LiftJobs := by
  intro s core j jobs hnext hacc hsrc q rows sat
  have hready : s.jobReady j = true := by
    unfold State.jobReady
    cases h : j.acc
    · cases hs : j.srcAcc
      · rfl
      · simp [hsrc h hs]
    · exact List.all_eq_true.mpr fun m hm => hacc h m (List.mem_range.mp hm)
  have hexec : exec (.liftJob core) s = .next (if j.grouped then
        (s.runAccGroup j).2.modCore core (fun k => { k with
          jobs := if (s.runAccGroup j).1.rows = [] then k.jobs.erase j else k.jobs.replace j (s.runAccGroup j).1 })
      else if j.acc then q.runAccJob j else (q.runTileJob j).stillFilling core j) := by
    show execLiftJob core s = _
    unfold execLiftJob
    rw [nextJob_of hnext]
    exact congrArg Host.Outcome.next (if_pos hready)
  have hplain (h : j.acc = false) : j.grouped = false := by
    unfold Job.grouped
    rw [h]
    rfl
  rw [hexec]
  refine ⟨fun h hg => ?_, fun hg => ?_, fun h => ?_⟩
  · rw [if_neg (fun hb => Bool.noConfusion (hg.symm.trans hb)), if_pos h]
  · have hrun : s.runAccGroup j = ({ j with rows := rows.drop 16, sat := sat }, s.writeResult j (rows.take 16) sat) := by
      unfold State.runAccGroup
      by_cases he : j.rows = []
      · simp only [rows, sat, if_pos he]
      · simp only [rows, sat, if_neg he]
    rw [if_pos hg, hrun]
  · rw [if_neg (fun hb => Bool.noConfusion ((hplain h).symm.trans hb)), if_neg (fun hb => Bool.noConfusion (h.symm.trans hb))]

theorem haarInstructions : Claims.HaarInstructions := by
  intro f s sid r sh w c room arg n a
  refine ⟨fun hi hne hn => ?_, hinv_of_acc, hinv_of_tile, hbias_of_settled, fun o => hbias_of_place, hmask_of_acc, hmask_of_tile, sth_of_acc, sth_of_tile⟩
  exact hfwd_accepted hi hne hn

/-- Settles O24. -/
theorem haarDomain : Obligations.HaarDomain := by
  unfold Obligations.HaarDomain
  exact ⟨thresholdRegisters, haarInstructions, liftJobs⟩

end Sys2Proof.Laws
